-- ==== Sys2Proof/Word.lean ====
section
/-!
DEFINITION. The word types of the TZN-768 (R5) and bit slices `x<h:l>`.
-/
namespace Sys2Proof

/-- One byte of any memory or buffer (R5). -/
abbrev Byte := BitVec 8
/-- One 32-bit lane word or instruction word (R69, R100). -/
abbrev Word := BitVec 32
/-- One 64-bit scalar (R108). -/
abbrev DWord := BitVec 64
/-- A set of lanes: bit l is lane l (R7). -/
abbrev LaneMask := BitVec 32

/-- The slice `x<h:l>` of a number (R5). -/
def slice (x h l : Nat) : Nat := (x >>> l) % 2 ^ (h + 1 - l)

/-- The single bit `x<n>` (R5). -/
def bitOf (x n : Nat) : Bool := x.testBit n

/-- A Boolean as a bit. -/
def b2n (b : Bool) : Nat := if b then 1 else 0

/-- ⌈a / b⌉. -/
def ceilDiv (a b : Nat) : Nat := (a + b - 1) / b

/-- a rounded up to a multiple of b. -/
def roundUp (a b : Nat) : Nat := ceilDiv a b * b

end Sys2Proof
end

