-- ==== Sys2Proof/Syntax.lean ====
section
/-!
DEFINITION. The instruction type: one constructor for every row of spec/opcode_table.json.

Rows 0 to 207 are instruction words (R69 to R89). Their fields keep the widths of the opcode table; a source
field is the source it names (R73), so that a reserved code cannot be written. A field the table gives five bits
where a register pair stands is the pair's index: pair n is s(2n) and s(2n+1).
Rows 208 to 305 are device events (spec/95_what_each_step_holds.md). They have no word and, as in the table, no fields:
what an event acts on (`EvArg`: a block, a group, a waiting item, a window, or what comes from outside) stands in the
state beside the agenda entry that brings the event up. `illegalInstruction` alone carries the word that was issued; it
stands before the other events because the runtime allows fields only in the first 245 constructors.
-/
namespace Sys2Proof

/-- A source of R73: vector register, latch, lane constant or scalar. -/
inductive Src where
  | v (n : BitVec 7)
  | latch (k : BitVec 3)
  | laneid
  | glane
  | s (n : BitVec 6)
  deriving DecidableEq, Repr

/-- A tile operand of R278: a header register, or the pair s(2n), s(2n+1) that names a tile in a buffer. -/
inductive TileRef where
  | reg (n : BitVec 7)
  | buf (n : BitVec 5)
  deriving DecidableEq, Repr

/-- The address operand of an atomic (R264): the register pair v(2n), v(2n+1), or the scalar s(n). -/
inductive AddrRef where
  | vpair (n : BitVec 6)
  | s (n : BitVec 6)
  deriving DecidableEq, Repr

/-- The seven spaces of R89. -/
inductive Space where
  | glb | scr | clu | wgt | act | acc | par
  deriving DecidableEq, Repr

/-- The space code of R89. -/
def Space.code : Space → Nat
  | .glb => 0 | .scr => 1 | .clu => 2 | .wgt => 3 | .act => 4 | .acc => 5 | .par => 6

/-- The space of a code of R89; 7 names none. -/
def Space.ofCode : Nat → Option Space
  | 0 => some .glb | 1 => some .scr | 2 => some .clu | 3 => some .wgt
  | 4 => some .act | 5 => some .acc | 6 => some .par | _ => none

/-- A firmware or configuration image (R428): a header of 64 bytes, a body, an Ed25519 signature and an ML-DSA-65 signature of 3,309 bytes, and
whether each of the two verifies over the SHA-384 digest of the header and the body, under the keys of R428. -/
structure BootImage where
  header  : BitVec 512
  body    : List (BitVec 8)
  ed      : BitVec 512
  mldsa   : BitVec 26472
  edOk    : Bool
  mldsaOk : Bool
  deriving DecidableEq, Repr

/-- What a start of the package reads from outside (R427 to R431): whether the identity is derived, the two images, the modules that fail training
(window, boundary, module) and those of which only the lower or (with true) only the upper half passes, which other trainings pass, what the
configuration image sets, and the scrub classes it disables. -/
structure BootInput where
  identityOk : Bool
  firmware   : BootImage
  config     : BootImage
  badLinks   : List (Nat × Nat × Nat)
  halfLinks  : List (Nat × Nat × Nat × Bool)
  hbmOk      : Bool
  fabricOk   : Bool
  pkg        : BitVec 10
  bifurc     : BitVec 16
  bootSrc    : BitVec 64
  evmsi      : BitVec 64
  conngrp    : Option (BitVec 32)
  scrubOff   : List Nat
  deriving DecidableEq, Repr

/-- One finding of a scrub (R433): the window that reports it, and either a corrected word with its class of R436 (0 registers …
6 cell SRAM), or an uncorrectable word, in a register or not. -/
structure ScrubFinding where
  win       : Nat
  cls       : Nat
  corrected : Bool
  reg       : Bool
  deriving DecidableEq, Repr

/-- The selection of an SFENCE.VMA, HFENCE.VVMA or HFENCE.GVMA (R380): each field is a selection or everything. An HFENCE.GVMA selects by the
guest PA. -/
structure TlbSelect where
  va   : Option (BitVec 57)
  asid : Option (BitVec 16)
  vmid : Option (BitVec 14)
  globals : Bool
  gpa  : Option Nat := none
  deriving DecidableEq, Repr

/-- An access from outside the compute dies (R237, R368): the requester, the PA, the bytes written (none for a read) and
the number of bytes read. An atomic of a Juazo core names its operation by the OP of R346, with its operand, and for OP 9 the compare value behind it,
in the bytes. An access of a PCI Express function has its device number, and its PASID if it has one with the privilege asked for and whether it
executes; `pa` is then the address it names, and `at_` its address type: 0 untranslated, 1 a translation request, 2 translated (R369). -/
structure BusAccess where
  who   : Nat
  pa    : Nat
  write : Option (List Byte)
  len   : Nat
  amo   : Option Nat := none
  dev   : Nat := 0
  pasid : Option Nat := none
  priv  : Bool := false
  exec  : Bool := false
  at_   : Nat := 0
  deriving DecidableEq, Repr

/-- What a device event acts on; an event reads the fields its meaning names.
`b` a block (its identifier) or a window (0 to 3 a stack, 4 the front die), `g` a group (its GID), a partition, a queue or
a boundary, `k` the index of a waiting item or a module, `n` a number, `cores` cores within the stack, `v` a register
value, `w` a flit, descriptor or nonce, `lo` and `hi` the outcomes of a test, `hot` a die at 105 °C, and the inputs of
start-up, scrubbing, shootdown and bus accesses. -/
structure EvArg where
  b     : Nat := 0
  g     : Nat := 0
  k     : Nat := 0
  n     : Nat := 0
  cores : List Nat := []
  v     : BitVec 64 := 0
  w     : BitVec 2048 := 0
  lo    : Bool := false
  hi    : Bool := false
  hot   : Option Nat := none
  boot  : Option BootInput := none
  scrub : Option ScrubFinding := none
  tlb   : Option TlbSelect := none
  bus   : Option BusAccess := none
  deriving DecidableEq, Repr

/-- One constructor per row of spec/opcode_table.json, in the table's order but for `illegalInstruction`. -/
inductive Instr where
  /-- NOP (R192): Advances the PC and changes nothing else. -/
  | nop
  /-- EXIT (R191): Ends the active guarded lanes, and ends the group when its last launched lane exits. -/
  | exit
  /-- TRAP (R186): Raises SW-TRAP in the active guarded lanes with TRAPVAL set to K16. -/
  | trap (k : BitVec 16)
  /-- BRK (R186): Raises BREAKPOINT in every active lane, whatever the guard holds. -/
  | brk (k : BitVec 16)
  /-- YIELD (R192): Ends the split's turn and withholds its candidacy until the other ready candidates have had turns. -/
  | yield
  /-- SRD (R195): Reads the system register numbered K16 into a scalar. -/
  | srd (d : BitVec 6) (k : BitVec 16)
  /-- SWR (R195): Writes a scalar to the system register numbered K16, with the access and privilege checks. -/
  | swr (d : BitVec 6) (k : BitVec 16)
  /-- GROW (R193): Asks for n more groups at an entry address and writes the number granted. -/
  | grow (d : BitVec 6) (a : BitVec 6) (k : BitVec 8)
  /-- DETACH (R194): Removes the issuing group from block membership in one atomic step at the barrier units. -/
  | detach
  /-- ATTACH (R194): Re-joins a detached group to block membership in one atomic step. -/
  | attach
  /-- RACQ (R162): Acquires n extended register granules for the group, waiting until they are free, and writes the new bound. -/
  | racq (d : BitVec 6) (k : BitVec 8)
  /-- RREL (R162): Releases the n most recently acquired register granules and writes the new bound. -/
  | rrel (d : BitVec 6) (k : BitVec 8)
  /-- TRET (R187): Marks a handler split's lanes as returned and waits for the handler to end. -/
  | tret
  /-- ADD (R149): Adds the elements of A and B, saturating under SAT. -/
  | add (w : Bool) (d : BitVec 7) (a : Src) (b : Src)
  /-- SUB (R149): Subtracts the elements of B from those of A, saturating under SAT. -/
  | sub (w : Bool) (d : BitVec 7) (a : Src) (b : Src)
  /-- MUL (R149): Multiplies the elements, keeping the low bits or saturating. -/
  | mul (w : Bool) (d : BitVec 7) (a : Src) (b : Src)
  /-- MULHI (R149): Writes the high half of each element product. -/
  | mulhi (w : Bool) (d : BitVec 7) (a : Src) (b : Src)
  /-- MAD (R149): Forms x times y plus D per element. -/
  | mad (w : Bool) (d : BitVec 7) (a : Src) (b : Src)
  /-- MIN (R149): Writes the smaller element of A and B. -/
  | min (w : Bool) (d : BitVec 7) (a : Src) (b : Src)
  /-- MAX (R149): Writes the larger element of A and B. -/
  | max (w : Bool) (d : BitVec 7) (a : Src) (b : Src)
  /-- AND (R149): Bitwise AND. -/
  | and (w : Bool) (d : BitVec 7) (a : Src) (b : Src)
  /-- OR (R149): Bitwise OR. -/
  | or (w : Bool) (d : BitVec 7) (a : Src) (b : Src)
  /-- XOR (R149): Bitwise XOR. -/
  | xor (w : Bool) (d : BitVec 7) (a : Src) (b : Src)
  /-- ANDN (R149): Writes A AND NOT B. -/
  | andn (w : Bool) (d : BitVec 7) (a : Src) (b : Src)
  /-- SHL (R149): Shifts each element left by the amount in B. -/
  | shl (w : Bool) (d : BitVec 7) (a : Src) (b : Src)
  /-- SHR (R149): Shifts each element right with zero fill. -/
  | shr (w : Bool) (d : BitVec 7) (a : Src) (b : Src)
  /-- SAR (R149): Shifts each element right arithmetically. -/
  | sar (w : Bool) (d : BitVec 7) (a : Src) (b : Src)
  /-- ROTL (R149): Rotates each element left. -/
  | rotl (w : Bool) (d : BitVec 7) (a : Src) (b : Src)
  /-- SAD (R149): Writes the sum of absolute element differences as one word. -/
  | sad (w : Bool) (d : BitVec 7) (a : Src) (b : Src)
  /-- ADDI (R150): Adds a signed 8-bit immediate to each element. -/
  | addi (w : Bool) (d : BitVec 7) (a : Src) (k : BitVec 8)
  /-- ANDI (R150): ANDs each element with a zero-extended immediate. -/
  | andi (w : Bool) (d : BitVec 7) (a : Src) (k : BitVec 8)
  /-- ORI (R150): ORs each element with a zero-extended immediate. -/
  | ori (w : Bool) (d : BitVec 7) (a : Src) (k : BitVec 8)
  /-- XORI (R150): XORs each element with a zero-extended immediate. -/
  | xori (w : Bool) (d : BitVec 7) (a : Src) (k : BitVec 8)
  /-- SHLI (R150): Shifts each element left by an immediate. -/
  | shli (w : Bool) (d : BitVec 7) (a : Src) (k : BitVec 5)
  /-- SHRI (R150): Shifts each element right by an immediate with zero fill. -/
  | shri (w : Bool) (d : BitVec 7) (a : Src) (k : BitVec 5)
  /-- SARI (R150): Shifts each element right arithmetically by an immediate. -/
  | sari (w : Bool) (d : BitVec 7) (a : Src) (k : BitVec 5)
  /-- MOVI (R151): Sets each word to K16 sign-extended. -/
  | movi (w : Bool) (d : BitVec 7) (k : BitVec 16)
  /-- MOVHI (R151): Sets the high half of each word to K16 and keeps the low half. -/
  | movhi (w : Bool) (d : BitVec 7) (k : BitVec 16)
  /-- POPC (R152): Counts the 1 bits of each element. -/
  | popc (w : Bool) (d : BitVec 7) (a : Src)
  /-- CLZ (R152): Counts the leading zero bits of each element. -/
  | clz (w : Bool) (d : BitVec 7) (a : Src)
  /-- BREV (R152): Reverses the bits of each element. -/
  | brev (w : Bool) (d : BitVec 7) (a : Src)
  /-- BFX (R153): Extracts a bit field. -/
  | bfx (w : Bool) (d : BitVec 7) (a : Src) (b : Src)
  /-- BFI (R153): Inserts a bit field into D. -/
  | bfi (w : Bool) (d : BitVec 7) (a : Src) (b : Src)
  /-- PRMT (R154): Permutes bytes under selector nibbles. -/
  | prmt (w : Bool) (d : BitVec 7) (a : Src) (b : Src)
  /-- ABS (R152): Writes the absolute value of each element in a signed view. -/
  | abs (w : Bool) (d : BitVec 7) (a : Src)
  /-- CMPEQ (R155): Sets a predicate where the elements are equal. -/
  | cmpeq (w : Bool) (d : BitVec 3) (a : Src) (b : Src)
  /-- CMPNE (R155): Sets a predicate where cmpeq does not hold. -/
  | cmpne (w : Bool) (d : BitVec 3) (a : Src) (b : Src)
  /-- CMPLT (R155): Sets a predicate where A is less than B. -/
  | cmplt (w : Bool) (d : BitVec 3) (a : Src) (b : Src)
  /-- CMPLE (R155): Sets a predicate where A is at most B. -/
  | cmple (w : Bool) (d : BitVec 3) (a : Src) (b : Src)
  /-- CMPGT (R155): Sets a predicate where A is greater than B. -/
  | cmpgt (w : Bool) (d : BitVec 3) (a : Src) (b : Src)
  /-- CMPGE (R155): Sets a predicate where A is at least B. -/
  | cmpge (w : Bool) (d : BitVec 3) (a : Src) (b : Src)
  /-- CMPUN (R155): Sets a predicate where some element pair is unordered. -/
  | cmpun (w : Bool) (d : BitVec 3) (a : Src) (b : Src)
  /-- SEL (R158): Writes A where the guard holds and B where it fails, in every active lane. -/
  | sel (w : Bool) (d : BitVec 7) (a : Src) (b : Src)
  /-- MOV (R158): Copies the word A to D. -/
  | mov (w : Bool) (d : BitVec 7) (a : Src)
  /-- MOVIX (R159): Reads a vector register chosen by a computed per-lane index. -/
  | movix (d : BitVec 7) (a : BitVec 7) (b : Src)
  /-- STIX (R159): Writes a vector register chosen by a computed per-lane index. -/
  | stix (d : BitVec 7) (a : BitVec 7) (b : Src)
  /-- PAND (R157): Writes the AND of two predicates. -/
  | pand (w : Bool) (d : BitVec 3) (a : BitVec 3) (b : BitVec 3)
  /-- POR (R157): Writes the OR of two predicates. -/
  | por (w : Bool) (d : BitVec 3) (a : BitVec 3) (b : BitVec 3)
  /-- PXOR (R157): Writes the XOR of two predicates. -/
  | pxor (w : Bool) (d : BitVec 3) (a : BitVec 3) (b : BitVec 3)
  /-- PNOT (R157): Writes the complement of a predicate. -/
  | pnot (w : Bool) (d : BitVec 3) (a : BitVec 3)
  /-- PSET (R157): Sets a predicate where the lane's word is non-zero. -/
  | pset (w : Bool) (d : BitVec 3) (a : Src)
  /-- FADD (R166): Floating addition with one rounding. -/
  | fadd (w : Bool) (d : BitVec 7) (a : Src) (b : Src)
  /-- FSUB (R166): Floating subtraction with one rounding. -/
  | fsub (w : Bool) (d : BitVec 7) (a : Src) (b : Src)
  /-- FMUL (R166): Floating multiplication with one rounding. -/
  | fmul (w : Bool) (d : BitVec 7) (a : Src) (b : Src)
  /-- FMA (R166): Fused x times y plus D. -/
  | fma (w : Bool) (d : BitVec 7) (a : Src) (b : Src)
  /-- FMS (R166): Fused x times y minus D. -/
  | fms (w : Bool) (d : BitVec 7) (a : Src) (b : Src)
  /-- FNMA (R166): Fused D minus x times y. -/
  | fnma (w : Bool) (d : BitVec 7) (a : Src) (b : Src)
  /-- FMIN (R167): Writes the minimumNumber of the elements. -/
  | fmin (w : Bool) (d : BitVec 7) (a : Src) (b : Src)
  /-- FMAX (R167): Writes the maximumNumber of the elements. -/
  | fmax (w : Bool) (d : BitVec 7) (a : Src) (b : Src)
  /-- FABS (R168): Clears the sign of each element. -/
  | fabs (w : Bool) (d : BitVec 7) (a : Src)
  /-- FNEG (R168): Inverts the sign of each element. -/
  | fneg (w : Bool) (d : BitVec 7) (a : Src)
  /-- FDIV (R169): Floating division, rounded under RNE. -/
  | fdiv (d : BitVec 7) (a : Src) (b : Src)
  /-- FSQRT (R169): Square root, rounded under RNE. -/
  | fsqrt (d : BitVec 7) (a : Src)
  /-- FRCP (R169): Reciprocal, rounded under RNE. -/
  | frcp (d : BitVec 7) (a : Src)
  /-- FRSQ (R169): Reciprocal square root, rounded under RNE. -/
  | frsq (d : BitVec 7) (a : Src)
  /-- FEXP2 (R169): Two to the power x, rounded under RNE. -/
  | fexp2 (d : BitVec 7) (a : Src)
  /-- FLOG2 (R169): Base-2 logarithm, rounded under RNE. -/
  | flog2 (d : BitVec 7) (a : Src)
  /-- CVT (R171): Converts each element from type K to MODE.ET of the same width. -/
  | cvt (w : Bool) (d : BitVec 7) (a : Src) (k : BitVec 4)
  /-- CVTPK (R174): Narrows two 32-bit sources into a packed word. -/
  | cvtpk (w : Bool) (d : BitVec 7) (a : Src) (b : Src)
  /-- CVTUP (R175): Widens one packed element to a 32-bit word. -/
  | cvtup (w : Bool) (d : BitVec 7) (a : Src) (k : BitVec 2)
  /-- FRND (R176): Rounds each element to an integral value under MODE.RM. -/
  | frnd (w : Bool) (d : BitVec 7) (a : Src)
  /-- FCLASS (R177): Writes the class code of each element. -/
  | fclass (w : Bool) (d : BitVec 7) (a : Src)
  /-- FLDEXP (R178): Scales each element by a power of two. -/
  | fldexp (w : Bool) (d : BitVec 7) (a : Src) (b : Src)
  /-- FREXP (R179): Writes the binary exponent of each element. -/
  | frexp (w : Bool) (d : BitVec 7) (a : Src)
  /-- SHFL (R197): Copies a word from an indexed source lane and sets p6. -/
  | shfl (w : Bool) (d : BitVec 7) (a : Src) (b : Src)
  /-- SHFLUP (R197): Copies a word from lane l minus d and sets p6. -/
  | shflup (w : Bool) (d : BitVec 7) (a : Src) (b : Src)
  /-- SHFLDN (R197): Copies a word from lane l plus d and sets p6. -/
  | shfldn (w : Bool) (d : BitVec 7) (a : Src) (b : Src)
  /-- SHFLX (R197): Copies a word from lane l XOR d and sets p6. -/
  | shflx (w : Bool) (d : BitVec 7) (a : Src) (b : Src)
  /-- VALL (R199): Writes 1 to a scalar when A is non-zero in every participating lane. -/
  | vall (d : BitVec 6) (a : Src)
  /-- VANY (R199): Writes 1 to a scalar when A is non-zero in some participating lane. -/
  | vany (d : BitVec 6) (a : Src)
  /-- BALLOT (R199): Writes the mask of participating lanes where A is non-zero. -/
  | ballot (d : BitVec 6) (a : Src)
  /-- REDADD (R200): Sums A over the participating lanes into a scalar. -/
  | redadd (d : BitVec 6) (a : Src)
  /-- REDMIN (R200): Reduces A by minimum over the participating lanes into a scalar. -/
  | redmin (d : BitVec 6) (a : Src)
  /-- REDMAX (R200): Reduces A by maximum over the participating lanes into a scalar. -/
  | redmax (d : BitVec 6) (a : Src)
  /-- SCAN (R201): Writes an inclusive running sum over the participating lanes. -/
  | scan (d : BitVec 7) (a : Src) (b : BitVec 6)
  /-- LANES (R199): Writes an exclusive prefix count of non-zero lanes. -/
  | lanes (d : BitVec 7) (a : Src)
  /-- BCAST (R198): Broadcasts one source lane's word to the participating lanes. -/
  | bcast (d : BitVec 7) (a : Src) (b : BitVec 6)
  /-- VTOS (R198): Copies one lane's word to a scalar. -/
  | vtos (d : BitVec 6) (a : Src) (b : BitVec 6)
  /-- BRA (R183): Branches the guarded lanes, dividing the split where the guard is mixed. -/
  | bra (o : BitVec 24)
  /-- CALL (R184): Writes the link and jumps the whole split. -/
  | call (d : BitVec 7) (k : BitVec 16)
  /-- RET (R185): Jumps each lane to its own target, dividing by distinct targets. -/
  | ret (a : Src)
  /-- JMPI (R185): Indirect jump of each lane to its own target. -/
  | jmpi (a : Src)
  /-- BRAU (R183): Branches the split only when the guard holds in every active lane. -/
  | brau (o : BitVec 24)
  /-- BRANY (R183): Branches the split when the guard holds in any active lane. -/
  | brany (o : BitVec 24)
  /-- SETMODE (R188): Writes the split's MODE. -/
  | setmode (k : BitVec 16)
  /-- SETMMODE (R188): Writes the split's MMODE. -/
  | setmmode (k : BitVec 16)
  /-- SETGANG (R189): Writes the split's GANG from a scalar, with the checks of R115. -/
  | setgang (a : BitVec 6)
  /-- SPLITSYNC (R190): Waits at the rendezvous of all splits of the group. -/
  | splitsync
  /-- LD8 (R257): Loads a byte, zero-extended, per lane. -/
  | ld8 (d : BitVec 7) (a : Src) (sp : Space) (k : BitVec 5)
  /-- LD16 (R257): Loads a half, zero-extended, per lane. -/
  | ld16 (d : BitVec 7) (a : Src) (sp : Space) (k : BitVec 5)
  /-- LD32 (R257): Loads a word per lane. -/
  | ld32 (d : BitVec 7) (a : Src) (sp : Space) (k : BitVec 5)
  /-- LD64 (R257): Loads 8 bytes per lane into a register pair. -/
  | ld64 (d : BitVec 6) (a : Src) (sp : Space) (k : BitVec 5)
  /-- LD128 (R257): Loads 16 bytes per lane into four registers. -/
  | ld128 (d : BitVec 5) (a : Src) (sp : Space) (k : BitVec 5)
  /-- ST8 (R257): Stores a byte per lane. -/
  | st8 (d : BitVec 7) (a : Src) (sp : Space) (k : BitVec 5)
  /-- ST16 (R257): Stores a half per lane. -/
  | st16 (d : BitVec 7) (a : Src) (sp : Space) (k : BitVec 5)
  /-- ST32 (R257): Stores a word per lane. -/
  | st32 (d : BitVec 7) (a : Src) (sp : Space) (k : BitVec 5)
  /-- ST64 (R257): Stores 8 bytes per lane. -/
  | st64 (d : BitVec 7) (a : Src) (sp : Space) (k : BitVec 5)
  /-- ST128 (R257): Stores 16 bytes per lane from four registers. -/
  | st128 (d : BitVec 7) (a : BitVec 5) (sp : Space) (k : BitVec 5)
  /-- PREF (R260): Prefetches the line of each lane's address, faulting only on checks 1 to 3. -/
  | pref (a : Src) (sp : Space) (k : BitVec 5)
  /-- LDU (R259): Loads 8 bytes once for the split into a scalar. -/
  | ldu (d : BitVec 6) (a : Src) (sp : Space) (k : BitVec 5)
  /-- FENCE (R261): Orders the group's accesses under MMODE and performs delayed quantum atomics. -/
  | fence
  /-- FENCEI (R262): Waits for earlier stores and discards the group's prefetched instructions. -/
  | fencei
  /-- LD8S (R257): Loads a byte, sign-extended, per lane. -/
  | ld8s (d : BitVec 7) (a : Src) (sp : Space) (k : BitVec 5)
  /-- LD16S (R257): Loads a half, sign-extended, per lane. -/
  | ld16s (d : BitVec 7) (a : Src) (sp : Space) (k : BitVec 5)
  /-- AADD (R267): Atomic add returning the old value. -/
  | aadd (d : BitVec 7) (a : AddrRef) (b : Src)
  /-- AMIN (R267): Atomic minimum returning the old value. -/
  | amin (d : BitVec 7) (a : AddrRef) (b : Src)
  /-- AMAX (R267): Atomic maximum returning the old value. -/
  | amax (d : BitVec 7) (a : AddrRef) (b : Src)
  /-- AAND (R267): Atomic AND returning the old value. -/
  | aand (d : BitVec 7) (a : AddrRef) (b : Src)
  /-- AOR (R267): Atomic OR returning the old value. -/
  | aor (d : BitVec 7) (a : AddrRef) (b : Src)
  /-- AXOR (R267): Atomic XOR returning the old value. -/
  | axor (d : BitVec 7) (a : AddrRef) (b : Src)
  /-- AXCHG (R267): Atomic exchange returning the old value. -/
  | axchg (d : BitVec 7) (a : AddrRef) (b : Src)
  /-- ACAS (R267): Atomic compare-and-swap against D, returning the old value. -/
  | acas (d : BitVec 7) (a : AddrRef) (b : Src)
  /-- AFADD (R265): Atomic floating add returning the old value. -/
  | afadd (d : BitVec 7) (a : AddrRef) (b : Src)
  /-- RADD (R267): Atomic add reduction with no return. -/
  | radd (a : AddrRef) (b : Src)
  /-- RMIN (R267): Atomic minimum reduction with no return. -/
  | rmin (a : AddrRef) (b : Src)
  /-- RMAX (R267): Atomic maximum reduction with no return. -/
  | rmax (a : AddrRef) (b : Src)
  /-- RFADD (R265): Atomic floating add reduction with no return. -/
  | rfadd (a : AddrRef) (b : Src)
  /-- LOCK (R395): Takes a lock at the home L2 slice's lock table, or sleeps in its FIFO. -/
  | lock (a : BitVec 6)
  /-- UNLOCK (R395): Releases a held lock and hands it to the head waiter. -/
  | unlock (a : BitVec 6)
  /-- COPY (R272): Supplies the group's slice to the block's gathering copy. -/
  | copy (d : BitVec 6) (a : BitVec 5) (b : BitVec 5)
  /-- COPYM (R275): Multicasts a source range to the receivers of the named clusters. -/
  | copym (d : BitVec 6) (a : BitVec 5) (b : BitVec 5)
  /-- BCLOSE (R414): Closes the open copy batch and writes its number. -/
  | bclose (d : BitVec 6)
  /-- BWAIT (R414): Closes a non-empty copy batch and waits until few enough batches are outstanding. -/
  | bwait (a : BitVec 6)
  /-- BARINIT (R408): Initialises a transaction barrier word. -/
  | barinit (a : BitVec 6) (b : BitVec 6)
  /-- BARARR (R409): Adds sectors and arrives on a barrier, writing the phase. -/
  | bararr (d : BitVec 6) (a : BitVec 6) (b : BitVec 6)
  /-- BARWAIT (R410): Waits for a barrier phase to complete. -/
  | barwait (a : BitVec 6) (b : BitVec 6)
  /-- BAREXP (R409): Adds expected sectors to a barrier without arriving. -/
  | barexp (a : BitVec 6) (b : BitVec 6)
  /-- BARCONT (R412): Arms a barrier continuation and exits the guarded lanes. -/
  | barcont (a : BitVec 6) (b : BitVec 6)
  /-- BARTRY (R410): Tests a barrier phase without waiting. -/
  | bartry (d : BitVec 6) (a : BitVec 6) (b : BitVec 6)
  /-- REMARR (R409): Sends a non-member arrival with sectors to a barrier, possibly on another core. -/
  | remarr (a : BitVec 6) (b : BitVec 6)
  /-- BSYNC (R411): Arrives on the block barrier and waits for its phase. -/
  | bsync
  /-- MMA (R283): Issues or arrives at a matrix product accumulating into a C tile. -/
  | mma (d : BitVec 5) (a : TileRef) (b : TileRef)
  /-- MMAZ (R283): Issues or arrives at a matrix product starting from zero. -/
  | mmaz (d : BitVec 5) (a : TileRef) (b : TileRef)
  /-- MFENCE (R286): Closes the open matrix batch and writes its number. -/
  | mfence (d : BitVec 6)
  /-- MWAIT (R287): Closes a non-empty matrix batch and waits until few enough are outstanding. -/
  | mwait (a : BitVec 6)
  /-- TLD (R288): Loads a headed tile from a buffer into registers. -/
  | tld (d : BitVec 7) (a : BitVec 5)
  /-- TST (R289): Stores a tile in registers into a buffer. -/
  | tst (a : BitVec 5) (b : BitVec 7)
  /-- THDR (R290): Builds a tile header with TAG and CRC in a register. -/
  | thdr (d : BitVec 7) (a : BitVec 5)
  /-- TCHK (R291): Checks a tile header and reports the first failure in a scalar. -/
  | tchk (d : BitVec 6) (a : TileRef)
  /-- HADQ (R294): Rotates a tile by the seeded Hadamard transform and quantises it. -/
  | hadq (d : BitVec 6) (a : TileRef) (b : TileRef)
  /-- TRANSQ (R296): Transposes and requantises a block-scaled tile. -/
  | transq (a : TileRef) (b : TileRef)
  /-- CVTT (R293): Converts a tile into the format of a template. -/
  | cvtt (a : TileRef) (b : TileRef)
  /-- TFILL (R297): Fills every element of a template tile with a code. -/
  | tfill (a : BitVec 6) (b : TileRef)
  /-- MWAKE (R298): Begins waking the gated matrix sub-arrays and restarts the idle counts. -/
  | mwake
  /-- QOPEN (R339): Opens a queue handle by translating a virtual queue number, optionally binding a deposit queue. -/
  | qopen (d : BitVec 6) (a : BitVec 6) (b : BitVec 5)
  /-- QRSV (R340): Reserves cells of a queue at its home port. -/
  | qrsv (d : BitVec 6) (a : BitVec 6) (b : BitVec 6)
  /-- QPUT (R341): Fills the next reserved cell with an element from registers. -/
  | qput (a : BitVec 6) (b : BitVec 7)
  /-- QPUTS (R341): Fills the next reserved cell with an element from memory. -/
  | qputs (a : BitVec 6) (b : BitVec 6)
  /-- QGET (R342): Takes an element into registers, sleeping when none is dequeueable. -/
  | qget (d : BitVec 7) (a : BitVec 6)
  /-- QGETS (R342): Takes an element into memory and writes its sequence number. -/
  | qgets (d : BitVec 6) (a : BitVec 6) (b : BitVec 6)
  /-- QTRY (R342): Takes an element if one is dequeueable, reporting in p6. -/
  | qtry (d : BitVec 7) (a : BitVec 6)
  /-- QPEEK (R343): Returns the queue's dequeueable count and free room. -/
  | qpeek (d : BitVec 6) (a : BitVec 6)
  /-- QCLOSE (R343): Frees a handle, voiding its reservation and releasing its binding. -/
  | qclose (a : BitVec 6)
  /-- QFENCE (R344): Holds later puts until every earlier put is acknowledged. -/
  | qfence
  /-- QACK (R344): Waits until every earlier put of the group is acknowledged. -/
  | qack
  /-- QSVC (R345): Puts one service request per active guarded lane to a service queue. -/
  | qsvc (a : BitVec 6) (b : BitVec 6)
  /-- EMIT (R341): Puts a record into a graph-node input queue. -/
  | emit (a : BitVec 6) (b : BitVec 7)
  /-- TLBINV (R381): Drops matching translation cache entries and waits for completion. -/
  | tlbinv (a : BitVec 6) (b : BitVec 6)
  /-- LRLOAD (R385): Loads a layout record into a slot and writes a status. -/
  | lrload (d : BitVec 6) (a : BitVec 6) (b : BitVec 6)
  /-- LRINV (R385): Clears VALID in a layout slot. -/
  | lrinv (a : BitVec 6)
  /-- WSUB (R390): Creates a subscription mirroring a publisher's S region. -/
  | wsub (a : BitVec 5) (b : BitVec 6)
  /-- WUNSUB (R392): Flushes and waits for an entry's batches, then frees the entry. -/
  | wunsub (a : BitVec 6)
  /-- WFLUSH (R392): Flushes subscription batches of the block or of one entry. -/
  | wflush (a : BitVec 6)
  /-- QXSET_DROP_VQN (R388): Drops one cached queue translation at every source port. -/
  | qxsetDropVqn (d : BitVec 6) (a : BitVec 6) (b : BitVec 6)
  /-- QXSET_DROP_ASID (R388): Drops every cached queue translation of an ASID. -/
  | qxsetDropAsid (d : BitVec 6) (a : BitVec 6) (b : BitVec 6)
  /-- QXSET_DROP_ALL (R388): Drops every cached queue translation. -/
  | qxsetDropAll (d : BitVec 6) (a : BitVec 6) (b : BitVec 6)
  /-- QXSET_WRITE_DESCRIPTOR (R388): Writes a queue descriptor at a port from a memory image and reports refusal. -/
  | qxsetWriteDescriptor (d : BitVec 6) (a : BitVec 6) (b : BitVec 6)
  /-- SADD (R160): Scalar add. -/
  | sadd (d : BitVec 6) (a : BitVec 6) (b : BitVec 6)
  /-- SSUB (R160): Scalar subtract. -/
  | ssub (d : BitVec 6) (a : BitVec 6) (b : BitVec 6)
  /-- SMUL (R160): Scalar multiply, low 64 bits. -/
  | smul (d : BitVec 6) (a : BitVec 6) (b : BitVec 6)
  /-- SAND (R160): Scalar AND. -/
  | sand (d : BitVec 6) (a : BitVec 6) (b : BitVec 6)
  /-- SOR (R160): Scalar OR. -/
  | sor (d : BitVec 6) (a : BitVec 6) (b : BitVec 6)
  /-- SXOR (R160): Scalar XOR. -/
  | sxor (d : BitVec 6) (a : BitVec 6) (b : BitVec 6)
  /-- SSHL (R160): Scalar shift left. -/
  | sshl (d : BitVec 6) (a : BitVec 6) (b : BitVec 6)
  /-- SSHR (R160): Scalar logical shift right. -/
  | sshr (d : BitVec 6) (a : BitVec 6) (b : BitVec 6)
  /-- SSAR (R160): Scalar arithmetic shift right. -/
  | ssar (d : BitVec 6) (a : BitVec 6) (b : BitVec 6)
  /-- SADDI (R160): Scalar add of a sign-extended immediate. -/
  | saddi (d : BitVec 6) (a : BitVec 6) (k : BitVec 8)
  /-- SMOVI (R160): Sets a scalar to K16 sign-extended. -/
  | smovi (d : BitVec 6) (k : BitVec 16)
  /-- SMOVHI (R160): Shifts a scalar left by 16 and ORs in K16. -/
  | smovhi (d : BitVec 6) (k : BitVec 16)
  /-- SCMPLT (R160): Writes 1 if A is less than B, signed. -/
  | scmplt (d : BitVec 6) (a : BitVec 6) (b : BitVec 6)
  /-- SCMPEQ (R160): Writes 1 if A equals B. -/
  | scmpeq (d : BitVec 6) (a : BitVec 6) (b : BitVec 6)
  /-- SMIN (R160): Scalar signed minimum. -/
  | smin (d : BitVec 6) (a : BitVec 6) (b : BitVec 6)
  /-- SMAX (R160): Scalar signed maximum. -/
  | smax (d : BitVec 6) (a : BitVec 6) (b : BitVec 6)
  /-- CRD (R418): Reads a selected counter into a scalar. -/
  | crd (d : BitVec 6) (a : BitVec 6)
  /-- CWAIT (R416): Waits until a landing counter reaches a threshold. -/
  | cwait (d : BitVec 6) (a : BitVec 6) (b : BitVec 6)
  /-- ERES (R423): Moves energy from the grid pool into the block's reservation. -/
  | eres (d : BitVec 6) (a : BitVec 6)
  /-- EREL (R423): Returns energy from the block's reservation to the grid pool. -/
  | erel (d : BitVec 6) (a : BitVec 6)
  /-- EQRY (R423): Reads ERES, GPOOL, PCAP or EMAX into a scalar. -/
  | eqry (d : BitVec 6) (a : BitVec 6)
  /-- ILLEGAL_INSTRUCTION (R86): A split issues a word whose OP value is not an instruction, and ILLEGAL-INSTRUCTION is raised precisely. -/
  | illegalInstruction (w : Word)
  /-- SPLIT_ROTATION (R43): Every 4,096 cycles the longest dormant split swaps with the longest live split. -/
  | splitRotation
  /-- LOAD_DATA_RETURN (R257): Load data returns, writes the destination and ends operand waits. -/
  | loadDataReturn
  /-- LONG_RESULT_WRITE (R170): A pending fdiv-to-flog2 result is written and its waiters wake. -/
  | longResultWrite
  /-- ATOMIC_REPLY (R267): A returning atomic's old value arrives and is written to the destination. -/
  | atomicReply
  /-- STORE_QUEUE_DRAIN (R304): A store leaves the group's store queue and becomes visible to the core. -/
  | storeQueueDrain
  /-- QUANTUM_REDUCTION_PERFORM (R268): A delayed quantum reduction is performed when AQUANT cycles expire. -/
  | quantumReductionPerform
  /-- PAGE_WALK_COMPLETE (R379): A page-table walk completes, filling the caches or raising a fault. -/
  | pageWalkComplete
  /-- RESUME_RETRY (R210): A resume record with ACTION 0 re-executes the faulting instruction or chain. -/
  | resumeRetry
  /-- RESUME_HANDLER (R210): A resume record with ACTION 1 runs the handler at TRAPVEC. -/
  | resumeHandler
  /-- RESUME_END_BLOCK (R210): A resume record with ACTION 2 ends every group of the block and retires it. -/
  | resumeEndBlock
  /-- RESUME_END_GRID (R210): A resume record with ACTION 3 ends the whole launch with an error completion. -/
  | resumeEndGrid
  /-- PREEMPT_ONE_BLOCK (R211): A pre-emption record with ACTION 0 pre-empts the named block. -/
  | preemptOneBlock
  /-- PREEMPT_LAUNCH (R211): A pre-emption record with ACTION 1 pre-empts every resident block of a launch. -/
  | preemptLaunch
  /-- RELEASE_HELD_BLOCKS (R211): A pre-emption record with ACTION 2 makes held and unstarted blocks eligible again. -/
  | releaseHeldBlocks
  /-- PREEMPTION_REQUEST (R60): A die distributor requests pre-emption of a lower-priority block for a waiting block. -/
  | preemptionRequest
  /-- PREEMPT_TIMEOUT (R62): 20 µs after the request, groups with unstopped splits stop at the next chain boundary for a full save. -/
  | preemptTimeout
  /-- PREEMPT_SAVE (R63): After drains complete, the block's state is written to its context area and its resources freed. -/
  | preemptSave
  /-- BLOCK_RESTORE (R64): A saved block restores on a core of its own stack. -/
  | blockRestore
  /-- YIELD_REQUEST (R59): The distributor writes YIELDREQ to ask a block to shrink. -/
  | yieldRequest
  /-- LAUNCH_GRID (R349): A command processor takes a KIND 1 launch record, checks it and admits it. -/
  | launchGrid
  /-- LAUNCH_GRAPH (R352): A command processor takes a KIND 2 record and starts a graph instance. -/
  | launchGraph
  /-- HELD_RECORD_READY (R421): A record held aside becomes ready and returns to admission. -/
  | heldRecordReady
  /-- ENERGY_REFILL (R420): Every microsecond EACCT gains PCAP up to EMAX, possibly admitting a waiting record. -/
  | energyRefill
  /-- BLOCK_PLACEMENT (R31): A distributor places a block on a core that can hold all its resources. -/
  | blockPlacement
  /-- BLOCK_STEAL (R34): An idle die distributor steals unstarted homeless blocks from a sibling stack. -/
  | blockSteal
  /-- CLUSTER_FORAGE (R35): An idle cluster distributor forages unstarted blocks from a sibling cluster. -/
  | clusterForage
  /-- BLOCK_RETIRE (R66): A block whose groups ended and whose work is acknowledged retires and frees its resources. -/
  | blockRetire
  /-- GRAPH_NODE_LAUNCH (R351): A command processor takes COAL dequeueable records and launches a node grid. -/
  | graphNodeLaunch
  /-- CONTINUATION_SPAWN (R413): A due barrier continuation starts as a new group once resources exist. -/
  | continuationSpawn
  /-- WATCHDOG (R66): The launch's watchdog interval expires and a WATCHDOG record is written. -/
  | watchdog
  /-- THROTTLE_CHANGE (R422): A block begins or ends half-rate issue after ERES crosses 0. -/
  | throttleChange
  /-- REMOTE_ARRIVAL (R409): A remarr event is performed at the remote S banks. -/
  | remoteArrival
  /-- COPY_SECTOR_LAND (R274): The copy engine lands destination bytes and counts sectors on the barrier. -/
  | copySectorLand
  /-- COPYM_DELIVERY (R275): The copy engine delivers a multicast range to one receiver block. -/
  | copymDelivery
  /-- MATRIX_OP_COMPLETE (R284): A matrix operation writes its result and header and unlocks its C region. -/
  | matrixOpComplete
  /-- MATRIX_GATE (R298): A sub-array idle for MGATE cycles is power gated. -/
  | matrixGate
  /-- MATRIX_WAKE_DONE (R298): A gated sub-array finishes waking after MWAKELAT cycles. -/
  | matrixWakeDone
  /-- PORT_RESERVE (R340): The home port grants cells to a reservation or records a reserve-waiter. -/
  | portReserve
  /-- PORT_FILL (R332): The home port accepts a fill, marks the cell filled and acknowledges it. -/
  | portFill
  /-- PORT_TAKE (R342): The home port returns a dequeueable element or records a take-waiter. -/
  | portTake
  /-- PORT_PEEK (R343): The home port answers a peek with its counts. -/
  | portPeek
  /-- PORT_BINDING (R339): The home port writes a deposit binding and answers the qopen. -/
  | portBinding
  /-- PORT_CLOSE_NOTICE (R343): The home port voids a closed handle's reserved cells and releases its binding. -/
  | portCloseNotice
  /-- PUT_ACKNOWLEDGE (R332): A fill acknowledgement reaches the producing group. -/
  | putAcknowledge
  /-- QUEUE_WAKE (R334): A port wake reaches a sleeping group, which re-executes its instruction. -/
  | queueWake
  /-- QUEUE_WAIT_RETRY (R333): A group with no waiter record retries its queue operation every 256 port cycles. -/
  | queueWaitRetry
  /-- SUPER_REFILL (R325): Filled cells entering the window are moved from the super into cell SRAM. -/
  | superRefill
  /-- DEPOSIT_LANDING (R335): An admitted deposit element lands in the bound region and is added to the landing counter. -/
  | depositLanding
  /-- SVC_ADD (R347): The atomic agent executes a service add and puts the reply. -/
  | svcAdd
  /-- SVC_SIGNED_MIN (R347): The atomic agent executes a signed minimum request. -/
  | svcSignedMin
  /-- SVC_SIGNED_MAX (R347): The atomic agent executes a signed maximum request. -/
  | svcSignedMax
  /-- SVC_UNSIGNED_MIN (R347): The atomic agent executes an unsigned minimum request. -/
  | svcUnsignedMin
  /-- SVC_UNSIGNED_MAX (R347): The atomic agent executes an unsigned maximum request. -/
  | svcUnsignedMax
  /-- SVC_AND (R347): The atomic agent executes an AND request. -/
  | svcAnd
  /-- SVC_OR (R347): The atomic agent executes an OR request. -/
  | svcOr
  /-- SVC_XOR (R347): The atomic agent executes an XOR request. -/
  | svcXor
  /-- SVC_EXCHANGE (R347): The atomic agent executes an exchange request. -/
  | svcExchange
  /-- SVC_COMPARE_AND_SWAP (R347): The atomic agent executes a compare-and-swap request. -/
  | svcCompareAndSwap
  /-- SVC_F32_ADD (R347): The atomic agent executes an f32 add under RNE. -/
  | svcF32Add
  /-- SVC_LOAD (R347): The atomic agent executes a load request and returns the value. -/
  | svcLoad
  /-- SVC_UNDEFINED_OP (R347): A request with an undefined OP gets a reply with STATUS 5 and no effect. -/
  | svcUndefinedOp
  /-- MESSAGE_RESEND (R362): A source port resends a message unacknowledged for 50 µs. -/
  | messageResend
  /-- FLIT_RECEIVE (R357): A receiver checks a flit's CRC and sequence and delivers, discards or NAKs it. -/
  | flitReceive
  /-- REPLAY_TIMEOUT (R357): A flit unacknowledged for 2 µs is resent with every later buffered flit. -/
  | replayTimeout
  /-- RETRAIN_COMPLETE (R358): Retraining ends at a reduced width or with the module down, and buffers are resent. -/
  | retrainComplete
  /-- LCTL_RETRAIN (R360): A driver write of LCTL.RETRAIN retrains a module at full width. -/
  | lctlRetrain
  /-- CONNREQ_WRITE (R365): A write of CONNREQ starts an optical reconfiguration. -/
  | connreqWrite
  /-- RECONFIG_DRAIN_END (R365): Messages to departing hives are acknowledged or 10 ms pass, and the rest are logged. -/
  | reconfigDrainEnd
  /-- RECONFIG_SWITCH_DONE (R365): The circuits switch, CONNGRP takes the new map and a KIND 9 record is written. -/
  | reconfigSwitchDone
  /-- OUTBOX_DRAIN (R373): A source's outbox puts a record into the front event queue as a cell frees. -/
  | outboxDrain
  /-- EVSTAT_OVF_CLEAR (R373): A write of 1 to EVSTAT.OVF clears it and releases the overflow wire unless the outbox is full. -/
  | evstatOvfClear
  /-- POWER_SAMPLE (R22): Every microsecond the power controller samples input power and may begin the clamp. -/
  | powerSample
  /-- POWER_CLAMP_DECISION (R22): Every 10 µs of the clamp the controller lowers, holds or raises the arithmetic clock. -/
  | powerClampDecision
  /-- POWER_ON_BOOT (R427): Package reset starts the ordered boot steps under Dexmin control. -/
  | powerOnBoot
  /-- RECOVERY_IMAGE (R430): A replacement image arrives over the board management link and is verified. -/
  | recoveryImage
  /-- ATTESTATION_REQUEST (R429): A request through the Dexmin mailbox returns a doubly signed attestation report. -/
  | attestationRequest
  /-- COMPUTE_DIE_RESET_ENTER (R238): A compute die enters reset after writing back L2, and the base die serves its memory. -/
  | computeDieResetEnter
  /-- COMPUTE_DIE_RESET_EXIT (R238): A compute die leaves reset and takes back the coherence point. -/
  | computeDieResetExit
  /-- SCRUB_PASS (R433): A periodic scrub corrects words and reports uncorrectable ones by record. -/
  | scrubPass
  /-- CHECKPOINT_START (R439): A write of CKCTL.START writes back L2 and starts copying HBM. -/
  | checkpointStart
  /-- CHECKPOINT_DONE (R439): The checkpoint copy ends with STATUS done or target error. -/
  | checkpointDone
  /-- TLB_SHOOTDOWN (R380): A Juazo SFENCE.VMA or HFENCE is broadcast to every device translation cache. -/
  | tlbShootdown
  /-- HOST_COHERENT_ACCESS (R237): A Juazo or walker access is served at the home L2 slice over the host-coherence class. -/
  | hostCoherentAccess
  /-- PCIE_DMA (R368): A PCI Express DMA access is translated and performed at the home L2 slice. -/
  | pcieDma
  /-- SUBSCRIPTION_BATCH_TIMEOUT (R391): A subscription batch is flushed 256 cycles after its first update. -/
  | subscriptionBatchTimeout
  /-- SUBSCRIPTION_BATCH_LAND (R391): A flushed batch lands in the mirror and counts sectors on the barrier. -/
  | subscriptionBatchLand
  /-- SHM_WRITE (R234): A write of a slice-hash mask is refused or flushes the partition's L2 lines and takes effect. -/
  | shmWrite
  /-- DESCRIPTOR_WRITE (R326): A control-window write to a queue descriptor is applied or refused. -/
  | descriptorWrite
  /-- PRGO_REPLAY_ONE (R436): A write of 1 to PRGO replays the staged fault-log element. -/
  | prgoReplayOne
  /-- PRGO_REPLAY_TWO (R436): A write of 2 to PRGO replays both staged fault-log elements. -/
  | prgoReplayTwo
  /-- ROOTINV_WRITE (R438): A write of ROOTINV drops cached root entries. -/
  | rootinvWrite
  /-- LRINV_WRITE (R438): A write of LRINV drops cached copies of layout records. -/
  | lrinvWrite
  /-- ENTRY_LATCH_READ (R435): A read of an entry's first word latches the whole entry for the reading core. -/
  | entryLatchRead
  /-- REGISTER_WRITE (R435): A window write to a register with no behaviour of its own updates writable fields or is refused. -/
  | registerWrite
  /-- QUEUE_ANSWER_ARRIVAL (R342): The home port's answer (a grant, a taken element, peek counts, or a binding or descriptor-write status) reaches the issuing core and writes the group's destination. -/
  | queueAnswerArrival
  /-- RATED_CONDITION_EXCURSION (R26): Coolant temperature or flow, or input voltage, leaves its rated range, and an event record reports the excursion. -/
  | ratedConditionExcursion
  /-- DUPLICATE_AND_COMPARE_MISMATCH (R26): The duplicated copies of an issue, barrier or queue-port control block disagree, and a record is written within 1 µs. -/
  | duplicateAndCompareMismatch
  deriving DecidableEq, Repr

end Sys2Proof
end

