-- ==== Sys2Proof/WellFormed.lean ====
section
/-!
DEFINITION. Which instructions the encoding admits: the ILLEGAL-OPERAND rules of R72, R80, R171, R222 and R256 that the
types of the fields do not say already. What depends on MODE or MMODE is checked at issue (Machine/Operands.lean).
-/
namespace Sys2Proof

/-- W = 1 stands only with D = 0 (R72). -/
def wOk (w : Bool) (d : Nat) : Bool := !w || d == 0

/-- The source is no latch: required of every instruction that is neither chainable nor a chain ender (R80). -/
def Src.noLatch : Src → Bool
  | .latch _ => false
  | _ => true

/-- The base of a load, `ldu` or `pref` (R222): in `glb` an even vector register or a scalar; elsewhere any source. -/
def baseOk (sp : Space) (a : Src) : Bool :=
  match sp, a with
  | .glb, .v n => n.toNat % 2 == 0
  | .glb, .s _ => true
  | .glb, _ => false
  | _, _ => true

/-- The base register of a store (R222): even in `glb`. -/
def storeBaseOk (sp : Space) (d : BitVec 7) : Bool :=
  match sp with
  | .glb => d.toNat % 2 == 0
  | _ => true

/-- The data of `st64` (R256): an even vector register or a scalar. -/
def data64Ok : Src → Bool
  | .v n => n.toNat % 2 == 0
  | .s _ => true
  | _ => false

/-- The encoding admits the instruction. -/
def Instr.wf : Instr → Bool
  | .add w d _ _ | .sub w d _ _ | .mul w d _ _ | .mulhi w d _ _ | .mad w d _ _ | .min w d _ _ | .max w d _ _
  | .and w d _ _ | .or w d _ _ | .xor w d _ _ | .andn w d _ _ | .shl w d _ _ | .shr w d _ _ | .sar w d _ _
  | .rotl w d _ _ | .sad w d _ _ | .bfx w d _ _ | .bfi w d _ _ | .prmt w d _ _ | .sel w d _ _ => wOk w d.toNat
  | .addi w d _ _ | .andi w d _ _ | .ori w d _ _ | .xori w d _ _ => wOk w d.toNat
  | .shli w d _ _ | .shri w d _ _ | .sari w d _ _ => wOk w d.toNat
  | .movi w d _ | .movhi w d _ => wOk w d.toNat
  | .popc w d _ | .clz w d _ | .brev w d _ | .abs w d _ | .mov w d _ => wOk w d.toNat
  | .cmpeq w d _ _ | .cmpne w d _ _ | .cmplt w d _ _ | .cmple w d _ _ | .cmpgt w d _ _ | .cmpge w d _ _
  | .cmpun w d _ _ => wOk w d.toNat
  | .pand w d _ _ | .por w d _ _ | .pxor w d _ _ => wOk w d.toNat
  | .pnot w d _ => wOk w d.toNat
  | .pset w d _ => wOk w d.toNat
  | .fadd w d _ _ | .fsub w d _ _ | .fmul w d _ _ | .fma w d _ _ | .fms w d _ _ | .fnma w d _ _ | .fmin w d _ _
  | .fmax w d _ _ | .cvtpk w d _ _ | .fldexp w d _ _ => wOk w d.toNat
  | .fabs w d _ | .fneg w d _ | .frnd w d _ | .fclass w d _ | .frexp w d _ => wOk w d.toNat
  | .cvt w d _ k => wOk w d.toNat && k.toNat < 12
  | .cvtup w d _ _ => wOk w d.toNat
  | .shfl w d _ _ | .shflup w d _ _ | .shfldn w d _ _ | .shflx w d _ _ => wOk w d.toNat
  | .movix _ _ b | .stix _ _ b => b.noLatch
  | .fdiv _ a b => a.noLatch && b.noLatch
  | .fsqrt _ a | .frcp _ a | .frsq _ a | .fexp2 _ a | .flog2 _ a => a.noLatch
  | .vall _ a | .vany _ a | .ballot _ a | .redadd _ a | .redmin _ a | .redmax _ a => a.noLatch
  | .scan _ a _ | .bcast _ a _ => a.noLatch
  | .lanes _ a => a.noLatch
  | .vtos _ a _ => a.noLatch
  | .ret a | .jmpi a => a.noLatch
  | .ld8 _ a sp _ | .ld16 _ a sp _ | .ld32 _ a sp _ | .ld8s _ a sp _ | .ld16s _ a sp _ => baseOk sp a
  | .ld64 _ a sp _ => baseOk sp a
  | .ld128 _ a sp _ => baseOk sp a
  | .ldu _ a sp _ => baseOk sp a
  | .pref a sp _ => baseOk sp a && a.noLatch
  | .st8 d _ sp _ | .st16 d _ sp _ | .st32 d _ sp _ => storeBaseOk sp d
  | .st64 d a sp _ => storeBaseOk sp d && data64Ok a
  | .st128 d _ sp _ => storeBaseOk sp d
  | _ => true

end Sys2Proof
end

