-- ==== Sys2Proof/Decode.lean ====
section
/-!
DEFINITION. Decode and encode: instruction words of R69 to R89 and the opcode map of R85.

A word is 32 bits, little-endian (R69). `decode` is total on bytes; it rejects by name.
-/
namespace Sys2Proof

/-- Why bytes are not an instruction: fewer than four bytes, or a field that raises ILLEGAL-OPERAND at decode
(R71, R73 to R76, R89). -/
inductive DecodeErr where
  | truncated
  | illegalOperand (w : Word)
  deriving DecidableEq, Repr

/-- The five fields of R70 as numbers: OP<31:24>, W<23>, D<22:16>, A<15:8>, B<7:0>. -/
structure Fields where
  op : Nat
  w  : Nat
  d  : Nat
  a  : Nat
  b  : Nat
  deriving DecidableEq, Repr

/-- The fields of a word. -/
def Fields.ofNat (n : Nat) : Fields :=
  { op := n / 16777216 % 256, w := n / 8388608 % 2, d := n / 65536 % 128, a := n / 256 % 256, b := n % 256 }

/-- The word of the fields. -/
def Fields.toNat (f : Fields) : Nat :=
  f.op * 16777216 + f.w * 8388608 + f.d * 65536 + f.a * 256 + f.b

/-- An unused field is zero (R71). -/
def zero (x : Nat) : Option Unit := if x = 0 then some () else none
/-- A vector destination (R74). -/
def decV7 (x : Nat) : Option (BitVec 7) := some (BitVec.ofNat 7 x)
/-- A scalar destination: D<6> = 0 (R74). -/
def decSD (x : Nat) : Option (BitVec 6) := if x < 64 then some (BitVec.ofNat 6 x) else none
/-- An even scalar in D (R277). -/
def decSDPair (x : Nat) : Option (BitVec 5) := if x < 64 ∧ x % 2 = 0 then some (BitVec.ofNat 5 (x / 2)) else none
/-- An even vector register in D (R256). -/
def decVD2 (x : Nat) : Option (BitVec 6) := if x % 2 = 0 then some (BitVec.ofNat 6 (x / 2)) else none
/-- A vector register in D that is a multiple of 4 (R256). -/
def decVD4 (x : Nat) : Option (BitVec 5) := if x % 4 = 0 then some (BitVec.ofNat 5 (x / 4)) else none
/-- A predicate (R74, R75). -/
def decP (x : Nat) : Option (BitVec 3) := if x < 8 then some (BitVec.ofNat 3 x) else none
/-- A scalar source field: 0xC0 to 0xFF (R73). -/
def decS (x : Nat) : Option (BitVec 6) := if 192 ≤ x then some (BitVec.ofNat 6 (x - 192)) else none
/-- An even scalar source that names a pair (R91). -/
def decSPair (x : Nat) : Option (BitVec 5) :=
  if 192 ≤ x ∧ x % 2 = 0 then some (BitVec.ofNat 5 ((x - 192) / 2)) else none
/-- A vector register in A or B. -/
def decVA (x : Nat) : Option (BitVec 7) := if x < 128 then some (BitVec.ofNat 7 x) else none
/-- An even vector register in A or B. -/
def decVA2 (x : Nat) : Option (BitVec 6) := if x < 128 ∧ x % 2 = 0 then some (BitVec.ofNat 6 (x / 2)) else none
/-- A vector register in A or B that is a multiple of 4. -/
def decVA4 (x : Nat) : Option (BitVec 5) := if x < 128 ∧ x % 4 = 0 then some (BitVec.ofNat 5 (x / 4)) else none
/-- An immediate of n bits; the bits above are zero. -/
def decBits (n x : Nat) : Option (BitVec n) := if x < 2 ^ n then some (BitVec.ofNat n x) else none

/-- A source of R73; 0x8A to 0xBF are reserved. -/
def decSrc (x : Nat) : Option Src :=
  if x < 128 then some (.v (BitVec.ofNat 7 x))
  else if x < 136 then some (.latch (BitVec.ofNat 3 (x - 128)))
  else if x = 136 then some .laneid
  else if x = 137 then some .glane
  else if 192 ≤ x then some (.s (BitVec.ofNat 6 (x - 192)))
  else none

/-- The code of a source (R73). -/
def Src.enc : Src → Nat
  | .v n => n.toNat
  | .latch k => 128 + k.toNat
  | .laneid => 136
  | .glane => 137
  | .s n => 192 + n.toNat

/-- A tile operand (R278). -/
def decTile (x : Nat) : Option TileRef :=
  if x < 128 then some (.reg (BitVec.ofNat 7 x))
  else if 192 ≤ x ∧ x % 2 = 0 then some (.buf (BitVec.ofNat 5 ((x - 192) / 2)))
  else none

/-- The code of a tile operand. -/
def TileRef.enc : TileRef → Nat
  | .reg n => n.toNat
  | .buf n => 192 + 2 * n.toNat

/-- The address operand of an atomic (R264). -/
def decAddr (x : Nat) : Option AddrRef :=
  if x < 128 ∧ x % 2 = 0 then some (.vpair (BitVec.ofNat 6 (x / 2)))
  else if 192 ≤ x then some (.s (BitVec.ofNat 6 (x - 192)))
  else none

/-- The code of an atomic's address operand. -/
def AddrRef.enc : AddrRef → Nat
  | .vpair n => 2 * n.toNat
  | .s n => 192 + n.toNat

/-- The decoding of row 0x0 of the opcode map (R85); the caller has matched the row. -/
def decodeRow0 (f : Fields) : Option Instr :=
  match f.op % 16 with
  | 1 => do let _ ← zero f.w; let _ ← zero f.d; let _ ← zero f.a; let _ ← zero f.b; some (.nop)
  | 2 => do let _ ← zero f.w; let _ ← zero f.d; let _ ← zero f.a; let _ ← zero f.b; some (.exit)
  | 3 => do let _ ← zero f.w; let _ ← zero f.d; some (.trap (BitVec.ofNat 16 (f.a * 256 + f.b)))
  | 4 => do let _ ← zero f.w; let _ ← zero f.d; some (.brk (BitVec.ofNat 16 (f.a * 256 + f.b)))
  | 5 => do let _ ← zero f.w; let _ ← zero f.d; let _ ← zero f.a; let _ ← zero f.b; some (.yield)
  | 6 => do let _ ← zero f.w; let d ← decSD f.d; some (.srd d (BitVec.ofNat 16 (f.a * 256 + f.b)))
  | 7 => do let _ ← zero f.w; let d ← decSD f.d; some (.swr d (BitVec.ofNat 16 (f.a * 256 + f.b)))
  | 8 => do let _ ← zero f.w; let d ← decSD f.d; let a ← decS f.a; let k ← decBits 8 f.b; some (.grow d a k)
  | 9 => do let _ ← zero f.w; let _ ← zero f.d; let _ ← zero f.a; let _ ← zero f.b; some (.detach)
  | 10 => do let _ ← zero f.w; let _ ← zero f.d; let _ ← zero f.a; let _ ← zero f.b; some (.attach)
  | 11 => do let _ ← zero f.w; let d ← decSD f.d; let _ ← zero f.a; let k ← decBits 8 f.b; some (.racq d k)
  | 12 => do let _ ← zero f.w; let d ← decSD f.d; let _ ← zero f.a; let k ← decBits 8 f.b; some (.rrel d k)
  | 13 => do let _ ← zero f.w; let _ ← zero f.d; let _ ← zero f.a; let _ ← zero f.b; some (.tret)
  | _ => some (.illegalInstruction (BitVec.ofNat 32 f.toNat))

/-- The decoding of row 0x1 of the opcode map (R85); the caller has matched the row. -/
def decodeRow1 (f : Fields) : Option Instr :=
  match f.op % 16 with
  | 0 => do let d ← decV7 f.d; let a ← decSrc f.a; let b ← decSrc f.b; some (.add (f.w == 1) d a b)
  | 1 => do let d ← decV7 f.d; let a ← decSrc f.a; let b ← decSrc f.b; some (.sub (f.w == 1) d a b)
  | 2 => do let d ← decV7 f.d; let a ← decSrc f.a; let b ← decSrc f.b; some (.mul (f.w == 1) d a b)
  | 3 => do let d ← decV7 f.d; let a ← decSrc f.a; let b ← decSrc f.b; some (.mulhi (f.w == 1) d a b)
  | 4 => do let d ← decV7 f.d; let a ← decSrc f.a; let b ← decSrc f.b; some (.mad (f.w == 1) d a b)
  | 5 => do let d ← decV7 f.d; let a ← decSrc f.a; let b ← decSrc f.b; some (.min (f.w == 1) d a b)
  | 6 => do let d ← decV7 f.d; let a ← decSrc f.a; let b ← decSrc f.b; some (.max (f.w == 1) d a b)
  | 7 => do let d ← decV7 f.d; let a ← decSrc f.a; let b ← decSrc f.b; some (.and (f.w == 1) d a b)
  | 8 => do let d ← decV7 f.d; let a ← decSrc f.a; let b ← decSrc f.b; some (.or (f.w == 1) d a b)
  | 9 => do let d ← decV7 f.d; let a ← decSrc f.a; let b ← decSrc f.b; some (.xor (f.w == 1) d a b)
  | 10 => do let d ← decV7 f.d; let a ← decSrc f.a; let b ← decSrc f.b; some (.andn (f.w == 1) d a b)
  | 11 => do let d ← decV7 f.d; let a ← decSrc f.a; let b ← decSrc f.b; some (.shl (f.w == 1) d a b)
  | 12 => do let d ← decV7 f.d; let a ← decSrc f.a; let b ← decSrc f.b; some (.shr (f.w == 1) d a b)
  | 13 => do let d ← decV7 f.d; let a ← decSrc f.a; let b ← decSrc f.b; some (.sar (f.w == 1) d a b)
  | 14 => do let d ← decV7 f.d; let a ← decSrc f.a; let b ← decSrc f.b; some (.rotl (f.w == 1) d a b)
  | 15 => do let d ← decV7 f.d; let a ← decSrc f.a; let b ← decSrc f.b; some (.sad (f.w == 1) d a b)
  | _ => none

/-- The decoding of row 0x2 of the opcode map (R85); the caller has matched the row. -/
def decodeRow2 (f : Fields) : Option Instr :=
  match f.op % 16 with
  | 0 => do let d ← decV7 f.d; let a ← decSrc f.a; let k ← decBits 8 f.b; some (.addi (f.w == 1) d a k)
  | 1 => do let d ← decV7 f.d; let a ← decSrc f.a; let k ← decBits 8 f.b; some (.andi (f.w == 1) d a k)
  | 2 => do let d ← decV7 f.d; let a ← decSrc f.a; let k ← decBits 8 f.b; some (.ori (f.w == 1) d a k)
  | 3 => do let d ← decV7 f.d; let a ← decSrc f.a; let k ← decBits 8 f.b; some (.xori (f.w == 1) d a k)
  | 4 => do let d ← decV7 f.d; let a ← decSrc f.a; let k ← decBits 5 f.b; some (.shli (f.w == 1) d a k)
  | 5 => do let d ← decV7 f.d; let a ← decSrc f.a; let k ← decBits 5 f.b; some (.shri (f.w == 1) d a k)
  | 6 => do let d ← decV7 f.d; let a ← decSrc f.a; let k ← decBits 5 f.b; some (.sari (f.w == 1) d a k)
  | 7 => do let d ← decV7 f.d; some (.movi (f.w == 1) d (BitVec.ofNat 16 (f.a * 256 + f.b)))
  | 8 => do let d ← decV7 f.d; some (.movhi (f.w == 1) d (BitVec.ofNat 16 (f.a * 256 + f.b)))
  | 9 => do let d ← decV7 f.d; let a ← decSrc f.a; let _ ← zero f.b; some (.popc (f.w == 1) d a)
  | 10 => do let d ← decV7 f.d; let a ← decSrc f.a; let _ ← zero f.b; some (.clz (f.w == 1) d a)
  | 11 => do let d ← decV7 f.d; let a ← decSrc f.a; let _ ← zero f.b; some (.brev (f.w == 1) d a)
  | 12 => do let d ← decV7 f.d; let a ← decSrc f.a; let b ← decSrc f.b; some (.bfx (f.w == 1) d a b)
  | 13 => do let d ← decV7 f.d; let a ← decSrc f.a; let b ← decSrc f.b; some (.bfi (f.w == 1) d a b)
  | 14 => do let d ← decV7 f.d; let a ← decSrc f.a; let b ← decSrc f.b; some (.prmt (f.w == 1) d a b)
  | 15 => do let d ← decV7 f.d; let a ← decSrc f.a; let _ ← zero f.b; some (.abs (f.w == 1) d a)
  | _ => none

/-- The decoding of row 0x3 of the opcode map (R85); the caller has matched the row. -/
def decodeRow3 (f : Fields) : Option Instr :=
  match f.op % 16 with
  | 0 => do let d ← decP f.d; let a ← decSrc f.a; let b ← decSrc f.b; some (.cmpeq (f.w == 1) d a b)
  | 1 => do let d ← decP f.d; let a ← decSrc f.a; let b ← decSrc f.b; some (.cmpne (f.w == 1) d a b)
  | 2 => do let d ← decP f.d; let a ← decSrc f.a; let b ← decSrc f.b; some (.cmplt (f.w == 1) d a b)
  | 3 => do let d ← decP f.d; let a ← decSrc f.a; let b ← decSrc f.b; some (.cmple (f.w == 1) d a b)
  | 4 => do let d ← decP f.d; let a ← decSrc f.a; let b ← decSrc f.b; some (.cmpgt (f.w == 1) d a b)
  | 5 => do let d ← decP f.d; let a ← decSrc f.a; let b ← decSrc f.b; some (.cmpge (f.w == 1) d a b)
  | 6 => do let d ← decP f.d; let a ← decSrc f.a; let b ← decSrc f.b; some (.cmpun (f.w == 1) d a b)
  | 7 => do let d ← decV7 f.d; let a ← decSrc f.a; let b ← decSrc f.b; some (.sel (f.w == 1) d a b)
  | 8 => do let d ← decV7 f.d; let a ← decSrc f.a; let _ ← zero f.b; some (.mov (f.w == 1) d a)
  | 9 => do let _ ← zero f.w; let d ← decV7 f.d; let a ← decVA f.a; let b ← decSrc f.b; some (.movix d a b)
  | 10 => do let _ ← zero f.w; let d ← decV7 f.d; let a ← decVA f.a; let b ← decSrc f.b; some (.stix d a b)
  | 11 => do let d ← decP f.d; let a ← decP f.a; let b ← decP f.b; some (.pand (f.w == 1) d a b)
  | 12 => do let d ← decP f.d; let a ← decP f.a; let b ← decP f.b; some (.por (f.w == 1) d a b)
  | 13 => do let d ← decP f.d; let a ← decP f.a; let b ← decP f.b; some (.pxor (f.w == 1) d a b)
  | 14 => do let d ← decP f.d; let a ← decP f.a; let _ ← zero f.b; some (.pnot (f.w == 1) d a)
  | 15 => do let d ← decP f.d; let a ← decSrc f.a; let _ ← zero f.b; some (.pset (f.w == 1) d a)
  | _ => none

/-- The decoding of row 0x4 of the opcode map (R85); the caller has matched the row. -/
def decodeRow4 (f : Fields) : Option Instr :=
  match f.op % 16 with
  | 0 => do let d ← decV7 f.d; let a ← decSrc f.a; let b ← decSrc f.b; some (.fadd (f.w == 1) d a b)
  | 1 => do let d ← decV7 f.d; let a ← decSrc f.a; let b ← decSrc f.b; some (.fsub (f.w == 1) d a b)
  | 2 => do let d ← decV7 f.d; let a ← decSrc f.a; let b ← decSrc f.b; some (.fmul (f.w == 1) d a b)
  | 3 => do let d ← decV7 f.d; let a ← decSrc f.a; let b ← decSrc f.b; some (.fma (f.w == 1) d a b)
  | 4 => do let d ← decV7 f.d; let a ← decSrc f.a; let b ← decSrc f.b; some (.fms (f.w == 1) d a b)
  | 5 => do let d ← decV7 f.d; let a ← decSrc f.a; let b ← decSrc f.b; some (.fnma (f.w == 1) d a b)
  | 6 => do let d ← decV7 f.d; let a ← decSrc f.a; let b ← decSrc f.b; some (.fmin (f.w == 1) d a b)
  | 7 => do let d ← decV7 f.d; let a ← decSrc f.a; let b ← decSrc f.b; some (.fmax (f.w == 1) d a b)
  | 8 => do let d ← decV7 f.d; let a ← decSrc f.a; let _ ← zero f.b; some (.fabs (f.w == 1) d a)
  | 9 => do let d ← decV7 f.d; let a ← decSrc f.a; let _ ← zero f.b; some (.fneg (f.w == 1) d a)
  | 10 => do let _ ← zero f.w; let d ← decV7 f.d; let a ← decSrc f.a; let b ← decSrc f.b; some (.fdiv d a b)
  | 11 => do let _ ← zero f.w; let d ← decV7 f.d; let a ← decSrc f.a; let _ ← zero f.b; some (.fsqrt d a)
  | 12 => do let _ ← zero f.w; let d ← decV7 f.d; let a ← decSrc f.a; let _ ← zero f.b; some (.frcp d a)
  | 13 => do let _ ← zero f.w; let d ← decV7 f.d; let a ← decSrc f.a; let _ ← zero f.b; some (.frsq d a)
  | 14 => do let _ ← zero f.w; let d ← decV7 f.d; let a ← decSrc f.a; let _ ← zero f.b; some (.fexp2 d a)
  | 15 => do let _ ← zero f.w; let d ← decV7 f.d; let a ← decSrc f.a; let _ ← zero f.b; some (.flog2 d a)
  | _ => none

/-- The decoding of row 0x5 of the opcode map (R85); the caller has matched the row. -/
def decodeRow5 (f : Fields) : Option Instr :=
  match f.op % 16 with
  | 0 => do let d ← decV7 f.d; let a ← decSrc f.a; let k ← decBits 4 f.b; some (.cvt (f.w == 1) d a k)
  | 1 => do let d ← decV7 f.d; let a ← decSrc f.a; let b ← decSrc f.b; some (.cvtpk (f.w == 1) d a b)
  | 2 => do let d ← decV7 f.d; let a ← decSrc f.a; let k ← decBits 2 f.b; some (.cvtup (f.w == 1) d a k)
  | 3 => do let d ← decV7 f.d; let a ← decSrc f.a; let _ ← zero f.b; some (.frnd (f.w == 1) d a)
  | 4 => do let d ← decV7 f.d; let a ← decSrc f.a; let _ ← zero f.b; some (.fclass (f.w == 1) d a)
  | 5 => do let d ← decV7 f.d; let a ← decSrc f.a; let b ← decSrc f.b; some (.fldexp (f.w == 1) d a b)
  | 6 => do let d ← decV7 f.d; let a ← decSrc f.a; let _ ← zero f.b; some (.frexp (f.w == 1) d a)
  | _ => some (.illegalInstruction (BitVec.ofNat 32 f.toNat))

/-- The decoding of row 0x6 of the opcode map (R85); the caller has matched the row. -/
def decodeRow6 (f : Fields) : Option Instr :=
  match f.op % 16 with
  | 0 => do let d ← decV7 f.d; let a ← decSrc f.a; let b ← decSrc f.b; some (.shfl (f.w == 1) d a b)
  | 1 => do let d ← decV7 f.d; let a ← decSrc f.a; let b ← decSrc f.b; some (.shflup (f.w == 1) d a b)
  | 2 => do let d ← decV7 f.d; let a ← decSrc f.a; let b ← decSrc f.b; some (.shfldn (f.w == 1) d a b)
  | 3 => do let d ← decV7 f.d; let a ← decSrc f.a; let b ← decSrc f.b; some (.shflx (f.w == 1) d a b)
  | 4 => do let _ ← zero f.w; let d ← decSD f.d; let a ← decSrc f.a; let _ ← zero f.b; some (.vall d a)
  | 5 => do let _ ← zero f.w; let d ← decSD f.d; let a ← decSrc f.a; let _ ← zero f.b; some (.vany d a)
  | 6 => do let _ ← zero f.w; let d ← decSD f.d; let a ← decSrc f.a; let _ ← zero f.b; some (.ballot d a)
  | 7 => do let _ ← zero f.w; let d ← decSD f.d; let a ← decSrc f.a; let _ ← zero f.b; some (.redadd d a)
  | 8 => do let _ ← zero f.w; let d ← decSD f.d; let a ← decSrc f.a; let _ ← zero f.b; some (.redmin d a)
  | 9 => do let _ ← zero f.w; let d ← decSD f.d; let a ← decSrc f.a; let _ ← zero f.b; some (.redmax d a)
  | 10 => do let _ ← zero f.w; let d ← decV7 f.d; let a ← decSrc f.a; let b ← decS f.b; some (.scan d a b)
  | 11 => do let _ ← zero f.w; let d ← decV7 f.d; let a ← decSrc f.a; let _ ← zero f.b; some (.lanes d a)
  | 12 => do let _ ← zero f.w; let d ← decV7 f.d; let a ← decSrc f.a; let b ← decS f.b; some (.bcast d a b)
  | 13 => do let _ ← zero f.w; let d ← decSD f.d; let a ← decSrc f.a; let b ← decS f.b; some (.vtos d a b)
  | _ => some (.illegalInstruction (BitVec.ofNat 32 f.toNat))

/-- The decoding of row 0x7 of the opcode map (R85); the caller has matched the row. -/
def decodeRow7 (f : Fields) : Option Instr :=
  match f.op % 16 with
  | 0 => some (.bra (BitVec.ofNat 24 (f.w * 8388608 + f.d * 65536 + f.a * 256 + f.b)))
  | 1 => do let _ ← zero f.w; let d ← decV7 f.d; some (.call d (BitVec.ofNat 16 (f.a * 256 + f.b)))
  | 2 => do let _ ← zero f.w; let _ ← zero f.d; let a ← decSrc f.a; let _ ← zero f.b; some (.ret a)
  | 3 => do let _ ← zero f.w; let _ ← zero f.d; let a ← decSrc f.a; let _ ← zero f.b; some (.jmpi a)
  | 4 => some (.brau (BitVec.ofNat 24 (f.w * 8388608 + f.d * 65536 + f.a * 256 + f.b)))
  | 5 => some (.brany (BitVec.ofNat 24 (f.w * 8388608 + f.d * 65536 + f.a * 256 + f.b)))
  | 6 => do let _ ← zero f.w; let _ ← zero f.d; some (.setmode (BitVec.ofNat 16 (f.a * 256 + f.b)))
  | 7 => do let _ ← zero f.w; let _ ← zero f.d; some (.setmmode (BitVec.ofNat 16 (f.a * 256 + f.b)))
  | 8 => do let _ ← zero f.w; let _ ← zero f.d; let a ← decS f.a; let _ ← zero f.b; some (.setgang a)
  | 9 => do let _ ← zero f.w; let _ ← zero f.d; let _ ← zero f.a; let _ ← zero f.b; some (.splitsync)
  | _ => some (.illegalInstruction (BitVec.ofNat 32 f.toNat))

/-- The decoding of row 0x8 of the opcode map (R85); the caller has matched the row. -/
def decodeRow8 (f : Fields) : Option Instr :=
  match f.op % 16 with
  | 0 => do let _ ← zero f.w; let d ← decV7 f.d; let a ← decSrc f.a; let sp ← Space.ofCode (f.b / 32); some (.ld8 d a sp (BitVec.ofNat 5 (f.b % 32)))
  | 1 => do let _ ← zero f.w; let d ← decV7 f.d; let a ← decSrc f.a; let sp ← Space.ofCode (f.b / 32); some (.ld16 d a sp (BitVec.ofNat 5 (f.b % 32)))
  | 2 => do let _ ← zero f.w; let d ← decV7 f.d; let a ← decSrc f.a; let sp ← Space.ofCode (f.b / 32); some (.ld32 d a sp (BitVec.ofNat 5 (f.b % 32)))
  | 3 => do let _ ← zero f.w; let d ← decVD2 f.d; let a ← decSrc f.a; let sp ← Space.ofCode (f.b / 32); some (.ld64 d a sp (BitVec.ofNat 5 (f.b % 32)))
  | 4 => do let _ ← zero f.w; let d ← decVD4 f.d; let a ← decSrc f.a; let sp ← Space.ofCode (f.b / 32); some (.ld128 d a sp (BitVec.ofNat 5 (f.b % 32)))
  | 5 => do let _ ← zero f.w; let d ← decV7 f.d; let a ← decSrc f.a; let sp ← Space.ofCode (f.b / 32); some (.st8 d a sp (BitVec.ofNat 5 (f.b % 32)))
  | 6 => do let _ ← zero f.w; let d ← decV7 f.d; let a ← decSrc f.a; let sp ← Space.ofCode (f.b / 32); some (.st16 d a sp (BitVec.ofNat 5 (f.b % 32)))
  | 7 => do let _ ← zero f.w; let d ← decV7 f.d; let a ← decSrc f.a; let sp ← Space.ofCode (f.b / 32); some (.st32 d a sp (BitVec.ofNat 5 (f.b % 32)))
  | 8 => do let _ ← zero f.w; let d ← decV7 f.d; let a ← decSrc f.a; let sp ← Space.ofCode (f.b / 32); some (.st64 d a sp (BitVec.ofNat 5 (f.b % 32)))
  | 9 => do let _ ← zero f.w; let d ← decV7 f.d; let a ← decVA4 f.a; let sp ← Space.ofCode (f.b / 32); some (.st128 d a sp (BitVec.ofNat 5 (f.b % 32)))
  | 10 => do let _ ← zero f.w; let _ ← zero f.d; let a ← decSrc f.a; let sp ← Space.ofCode (f.b / 32); some (.pref a sp (BitVec.ofNat 5 (f.b % 32)))
  | 11 => do let _ ← zero f.w; let d ← decSD f.d; let a ← decSrc f.a; let sp ← Space.ofCode (f.b / 32); some (.ldu d a sp (BitVec.ofNat 5 (f.b % 32)))
  | 12 => do let _ ← zero f.w; let _ ← zero f.d; let _ ← zero f.a; let _ ← zero f.b; some (.fence)
  | 13 => do let _ ← zero f.w; let _ ← zero f.d; let _ ← zero f.a; let _ ← zero f.b; some (.fencei)
  | 14 => do let _ ← zero f.w; let d ← decV7 f.d; let a ← decSrc f.a; let sp ← Space.ofCode (f.b / 32); some (.ld8s d a sp (BitVec.ofNat 5 (f.b % 32)))
  | 15 => do let _ ← zero f.w; let d ← decV7 f.d; let a ← decSrc f.a; let sp ← Space.ofCode (f.b / 32); some (.ld16s d a sp (BitVec.ofNat 5 (f.b % 32)))
  | _ => none

/-- The decoding of row 0x9 of the opcode map (R85); the caller has matched the row. -/
def decodeRow9 (f : Fields) : Option Instr :=
  match f.op % 16 with
  | 0 => do let _ ← zero f.w; let d ← decV7 f.d; let a ← decAddr f.a; let b ← decSrc f.b; some (.aadd d a b)
  | 1 => do let _ ← zero f.w; let d ← decV7 f.d; let a ← decAddr f.a; let b ← decSrc f.b; some (.amin d a b)
  | 2 => do let _ ← zero f.w; let d ← decV7 f.d; let a ← decAddr f.a; let b ← decSrc f.b; some (.amax d a b)
  | 3 => do let _ ← zero f.w; let d ← decV7 f.d; let a ← decAddr f.a; let b ← decSrc f.b; some (.aand d a b)
  | 4 => do let _ ← zero f.w; let d ← decV7 f.d; let a ← decAddr f.a; let b ← decSrc f.b; some (.aor d a b)
  | 5 => do let _ ← zero f.w; let d ← decV7 f.d; let a ← decAddr f.a; let b ← decSrc f.b; some (.axor d a b)
  | 6 => do let _ ← zero f.w; let d ← decV7 f.d; let a ← decAddr f.a; let b ← decSrc f.b; some (.axchg d a b)
  | 7 => do let _ ← zero f.w; let d ← decV7 f.d; let a ← decAddr f.a; let b ← decSrc f.b; some (.acas d a b)
  | 8 => do let _ ← zero f.w; let d ← decV7 f.d; let a ← decAddr f.a; let b ← decSrc f.b; some (.afadd d a b)
  | 9 => do let _ ← zero f.w; let _ ← zero f.d; let a ← decAddr f.a; let b ← decSrc f.b; some (.radd a b)
  | 10 => do let _ ← zero f.w; let _ ← zero f.d; let a ← decAddr f.a; let b ← decSrc f.b; some (.rmin a b)
  | 11 => do let _ ← zero f.w; let _ ← zero f.d; let a ← decAddr f.a; let b ← decSrc f.b; some (.rmax a b)
  | 12 => do let _ ← zero f.w; let _ ← zero f.d; let a ← decAddr f.a; let b ← decSrc f.b; some (.rfadd a b)
  | 13 => do let _ ← zero f.w; let _ ← zero f.d; let a ← decS f.a; let _ ← zero f.b; some (.lock a)
  | 14 => do let _ ← zero f.w; let _ ← zero f.d; let a ← decS f.a; let _ ← zero f.b; some (.unlock a)
  | _ => some (.illegalInstruction (BitVec.ofNat 32 f.toNat))

/-- The decoding of row 0xA of the opcode map (R85); the caller has matched the row. -/
def decodeRowA (f : Fields) : Option Instr :=
  match f.op % 16 with
  | 0 => do let _ ← zero f.w; let d ← decSD f.d; let a ← decSPair f.a; let b ← decSPair f.b; some (.copy d a b)
  | 1 => do let _ ← zero f.w; let d ← decSD f.d; let a ← decSPair f.a; let b ← decSPair f.b; some (.copym d a b)
  | 2 => do let _ ← zero f.w; let d ← decSD f.d; let _ ← zero f.a; let _ ← zero f.b; some (.bclose d)
  | 3 => do let _ ← zero f.w; let _ ← zero f.d; let a ← decS f.a; let _ ← zero f.b; some (.bwait a)
  | 4 => do let _ ← zero f.w; let _ ← zero f.d; let a ← decS f.a; let b ← decS f.b; some (.barinit a b)
  | 5 => do let _ ← zero f.w; let d ← decSD f.d; let a ← decS f.a; let b ← decS f.b; some (.bararr d a b)
  | 6 => do let _ ← zero f.w; let _ ← zero f.d; let a ← decS f.a; let b ← decS f.b; some (.barwait a b)
  | 7 => do let _ ← zero f.w; let _ ← zero f.d; let a ← decS f.a; let b ← decS f.b; some (.barexp a b)
  | 8 => do let _ ← zero f.w; let _ ← zero f.d; let a ← decS f.a; let b ← decS f.b; some (.barcont a b)
  | 9 => do let _ ← zero f.w; let d ← decSD f.d; let a ← decS f.a; let b ← decS f.b; some (.bartry d a b)
  | 10 => do let _ ← zero f.w; let _ ← zero f.d; let a ← decS f.a; let b ← decS f.b; some (.remarr a b)
  | 11 => do let _ ← zero f.w; let _ ← zero f.d; let _ ← zero f.a; let _ ← zero f.b; some (.bsync)
  | _ => some (.illegalInstruction (BitVec.ofNat 32 f.toNat))

/-- The decoding of row 0xB of the opcode map (R85); the caller has matched the row. -/
def decodeRowB (f : Fields) : Option Instr :=
  match f.op % 16 with
  | 0 => do let _ ← zero f.w; let d ← decSDPair f.d; let a ← decTile f.a; let b ← decTile f.b; some (.mma d a b)
  | 1 => do let _ ← zero f.w; let d ← decSDPair f.d; let a ← decTile f.a; let b ← decTile f.b; some (.mmaz d a b)
  | 2 => do let _ ← zero f.w; let d ← decSD f.d; let _ ← zero f.a; let _ ← zero f.b; some (.mfence d)
  | 3 => do let _ ← zero f.w; let _ ← zero f.d; let a ← decS f.a; let _ ← zero f.b; some (.mwait a)
  | 4 => do let _ ← zero f.w; let d ← decV7 f.d; let a ← decSPair f.a; let _ ← zero f.b; some (.tld d a)
  | 5 => do let _ ← zero f.w; let _ ← zero f.d; let a ← decSPair f.a; let b ← decVA f.b; some (.tst a b)
  | 6 => do let _ ← zero f.w; let d ← decV7 f.d; let a ← decSPair f.a; let _ ← zero f.b; some (.thdr d a)
  | 7 => do let _ ← zero f.w; let d ← decSD f.d; let a ← decTile f.a; let _ ← zero f.b; some (.tchk d a)
  | 8 => do let _ ← zero f.w; let d ← decSD f.d; let a ← decTile f.a; let b ← decTile f.b; some (.hadq d a b)
  | 9 => do let _ ← zero f.w; let _ ← zero f.d; let a ← decTile f.a; let b ← decTile f.b; some (.transq a b)
  | 10 => do let _ ← zero f.w; let _ ← zero f.d; let a ← decTile f.a; let b ← decTile f.b; some (.cvtt a b)
  | 11 => do let _ ← zero f.w; let _ ← zero f.d; let a ← decS f.a; let b ← decTile f.b; some (.tfill a b)
  | 12 => do let _ ← zero f.w; let _ ← zero f.d; let _ ← zero f.a; let _ ← zero f.b; some (.mwake)
  | _ => some (.illegalInstruction (BitVec.ofNat 32 f.toNat))

/-- The decoding of row 0xC of the opcode map (R85); the caller has matched the row. -/
def decodeRowC (f : Fields) : Option Instr :=
  match f.op % 16 with
  | 0 => do let _ ← zero f.w; let d ← decSD f.d; let a ← decS f.a; let b ← decSPair f.b; some (.qopen d a b)
  | 1 => do let _ ← zero f.w; let d ← decSD f.d; let a ← decS f.a; let b ← decS f.b; some (.qrsv d a b)
  | 2 => do let _ ← zero f.w; let _ ← zero f.d; let a ← decS f.a; let b ← decVA f.b; some (.qput a b)
  | 3 => do let _ ← zero f.w; let _ ← zero f.d; let a ← decS f.a; let b ← decS f.b; some (.qputs a b)
  | 4 => do let _ ← zero f.w; let d ← decV7 f.d; let a ← decS f.a; let _ ← zero f.b; some (.qget d a)
  | 5 => do let _ ← zero f.w; let d ← decSD f.d; let a ← decS f.a; let b ← decS f.b; some (.qgets d a b)
  | 6 => do let _ ← zero f.w; let d ← decV7 f.d; let a ← decS f.a; let _ ← zero f.b; some (.qtry d a)
  | 7 => do let _ ← zero f.w; let d ← decSD f.d; let a ← decS f.a; let _ ← zero f.b; some (.qpeek d a)
  | 8 => do let _ ← zero f.w; let _ ← zero f.d; let a ← decS f.a; let _ ← zero f.b; some (.qclose a)
  | 9 => do let _ ← zero f.w; let _ ← zero f.d; let _ ← zero f.a; let _ ← zero f.b; some (.qfence)
  | 10 => do let _ ← zero f.w; let _ ← zero f.d; let _ ← zero f.a; let _ ← zero f.b; some (.qack)
  | 11 => do let _ ← zero f.w; let _ ← zero f.d; let a ← decS f.a; let b ← decVA2 f.b; some (.qsvc a b)
  | 12 => do let _ ← zero f.w; let _ ← zero f.d; let a ← decS f.a; let b ← decVA f.b; some (.emit a b)
  | _ => some (.illegalInstruction (BitVec.ofNat 32 f.toNat))

/-- The decoding of row 0xD of the opcode map (R85); the caller has matched the row. -/
def decodeRowD (f : Fields) : Option Instr :=
  match f.op % 16 with
  | 0 => do let _ ← zero f.w; let _ ← zero f.d; let a ← decS f.a; let b ← decS f.b; some (.tlbinv a b)
  | 1 => do let _ ← zero f.w; let d ← decSD f.d; let a ← decS f.a; let b ← decS f.b; some (.lrload d a b)
  | 2 => do let _ ← zero f.w; let _ ← zero f.d; let a ← decS f.a; let _ ← zero f.b; some (.lrinv a)
  | 3 => do let _ ← zero f.w; let _ ← zero f.d; let a ← decSPair f.a; let b ← decS f.b; some (.wsub a b)
  | 4 => do let _ ← zero f.w; let _ ← zero f.d; let a ← decS f.a; let _ ← zero f.b; some (.wunsub a)
  | 5 => do let _ ← zero f.w; let _ ← zero f.d; let a ← decS f.a; let _ ← zero f.b; some (.wflush a)
  | 6 => do let _ ← zero f.w; let d ← decSD f.d; let a ← decS f.a; let b ← decS f.b; some (.qxsetDropVqn d a b)
  | _ => some (.illegalInstruction (BitVec.ofNat 32 f.toNat))

/-- The decoding of row 0xE of the opcode map (R85); the caller has matched the row. -/
def decodeRowE (f : Fields) : Option Instr :=
  match f.op % 16 with
  | 0 => do let _ ← zero f.w; let d ← decSD f.d; let a ← decS f.a; let b ← decS f.b; some (.sadd d a b)
  | 1 => do let _ ← zero f.w; let d ← decSD f.d; let a ← decS f.a; let b ← decS f.b; some (.ssub d a b)
  | 2 => do let _ ← zero f.w; let d ← decSD f.d; let a ← decS f.a; let b ← decS f.b; some (.smul d a b)
  | 3 => do let _ ← zero f.w; let d ← decSD f.d; let a ← decS f.a; let b ← decS f.b; some (.sand d a b)
  | 4 => do let _ ← zero f.w; let d ← decSD f.d; let a ← decS f.a; let b ← decS f.b; some (.sor d a b)
  | 5 => do let _ ← zero f.w; let d ← decSD f.d; let a ← decS f.a; let b ← decS f.b; some (.sxor d a b)
  | 6 => do let _ ← zero f.w; let d ← decSD f.d; let a ← decS f.a; let b ← decS f.b; some (.sshl d a b)
  | 7 => do let _ ← zero f.w; let d ← decSD f.d; let a ← decS f.a; let b ← decS f.b; some (.sshr d a b)
  | 8 => do let _ ← zero f.w; let d ← decSD f.d; let a ← decS f.a; let b ← decS f.b; some (.ssar d a b)
  | 9 => do let _ ← zero f.w; let d ← decSD f.d; let a ← decS f.a; let k ← decBits 8 f.b; some (.saddi d a k)
  | 10 => do let _ ← zero f.w; let d ← decSD f.d; some (.smovi d (BitVec.ofNat 16 (f.a * 256 + f.b)))
  | 11 => do let _ ← zero f.w; let d ← decSD f.d; some (.smovhi d (BitVec.ofNat 16 (f.a * 256 + f.b)))
  | 12 => do let _ ← zero f.w; let d ← decSD f.d; let a ← decS f.a; let b ← decS f.b; some (.scmplt d a b)
  | 13 => do let _ ← zero f.w; let d ← decSD f.d; let a ← decS f.a; let b ← decS f.b; some (.scmpeq d a b)
  | 14 => do let _ ← zero f.w; let d ← decSD f.d; let a ← decS f.a; let b ← decS f.b; some (.smin d a b)
  | 15 => do let _ ← zero f.w; let d ← decSD f.d; let a ← decS f.a; let b ← decS f.b; some (.smax d a b)
  | _ => none

/-- The decoding of row 0xF of the opcode map (R85); the caller has matched the row. -/
def decodeRowF (f : Fields) : Option Instr :=
  match f.op % 16 with
  | 0 => do let _ ← zero f.w; let d ← decSD f.d; let a ← decS f.a; let _ ← zero f.b; some (.crd d a)
  | 1 => do let _ ← zero f.w; let d ← decSD f.d; let a ← decS f.a; let b ← decS f.b; some (.cwait d a b)
  | 2 => do let _ ← zero f.w; let d ← decSD f.d; let a ← decS f.a; let _ ← zero f.b; some (.eres d a)
  | 3 => do let _ ← zero f.w; let d ← decSD f.d; let a ← decS f.a; let _ ← zero f.b; some (.erel d a)
  | 4 => do let _ ← zero f.w; let d ← decSD f.d; let a ← decS f.a; let _ ← zero f.b; some (.eqry d a)
  | _ => some (.illegalInstruction (BitVec.ofNat 32 f.toNat))

/-- The instruction of a word (R69 to R89): `none` where a field raises ILLEGAL-OPERAND at decode; a word whose OP is not
an instruction (R86) is the instruction `illegalInstruction`, whose meaning raises the fault. -/
def decodeFields (f : Fields) : Option Instr :=
  match f.op / 16 with
  | 0 => decodeRow0 f
  | 1 => decodeRow1 f
  | 2 => decodeRow2 f
  | 3 => decodeRow3 f
  | 4 => decodeRow4 f
  | 5 => decodeRow5 f
  | 6 => decodeRow6 f
  | 7 => decodeRow7 f
  | 8 => decodeRow8 f
  | 9 => decodeRow9 f
  | 10 => decodeRowA f
  | 11 => decodeRowB f
  | 12 => decodeRowC f
  | 13 => decodeRowD f
  | 14 => decodeRowE f
  | 15 => decodeRowF f
  | _ => none

/-- The fields of an instruction's word, from the same tables. A device event has no word: its fields are zero. -/
def encodeFields : Instr → Fields
  | .nop => { op := 1, w := 0, d := 0, a := 0, b := 0 }
  | .exit => { op := 2, w := 0, d := 0, a := 0, b := 0 }
  | .trap k => { op := 3, w := 0, d := 0, a := k.toNat / 256, b := k.toNat % 256 }
  | .brk k => { op := 4, w := 0, d := 0, a := k.toNat / 256, b := k.toNat % 256 }
  | .yield => { op := 5, w := 0, d := 0, a := 0, b := 0 }
  | .srd d k => { op := 6, w := 0, d := d.toNat, a := k.toNat / 256, b := k.toNat % 256 }
  | .swr d k => { op := 7, w := 0, d := d.toNat, a := k.toNat / 256, b := k.toNat % 256 }
  | .grow d a k => { op := 8, w := 0, d := d.toNat, a := 192 + a.toNat, b := k.toNat }
  | .detach => { op := 9, w := 0, d := 0, a := 0, b := 0 }
  | .attach => { op := 10, w := 0, d := 0, a := 0, b := 0 }
  | .racq d k => { op := 11, w := 0, d := d.toNat, a := 0, b := k.toNat }
  | .rrel d k => { op := 12, w := 0, d := d.toNat, a := 0, b := k.toNat }
  | .tret => { op := 13, w := 0, d := 0, a := 0, b := 0 }
  | .add w d a b => { op := 16, w := b2n w, d := d.toNat, a := a.enc, b := b.enc }
  | .sub w d a b => { op := 17, w := b2n w, d := d.toNat, a := a.enc, b := b.enc }
  | .mul w d a b => { op := 18, w := b2n w, d := d.toNat, a := a.enc, b := b.enc }
  | .mulhi w d a b => { op := 19, w := b2n w, d := d.toNat, a := a.enc, b := b.enc }
  | .mad w d a b => { op := 20, w := b2n w, d := d.toNat, a := a.enc, b := b.enc }
  | .min w d a b => { op := 21, w := b2n w, d := d.toNat, a := a.enc, b := b.enc }
  | .max w d a b => { op := 22, w := b2n w, d := d.toNat, a := a.enc, b := b.enc }
  | .and w d a b => { op := 23, w := b2n w, d := d.toNat, a := a.enc, b := b.enc }
  | .or w d a b => { op := 24, w := b2n w, d := d.toNat, a := a.enc, b := b.enc }
  | .xor w d a b => { op := 25, w := b2n w, d := d.toNat, a := a.enc, b := b.enc }
  | .andn w d a b => { op := 26, w := b2n w, d := d.toNat, a := a.enc, b := b.enc }
  | .shl w d a b => { op := 27, w := b2n w, d := d.toNat, a := a.enc, b := b.enc }
  | .shr w d a b => { op := 28, w := b2n w, d := d.toNat, a := a.enc, b := b.enc }
  | .sar w d a b => { op := 29, w := b2n w, d := d.toNat, a := a.enc, b := b.enc }
  | .rotl w d a b => { op := 30, w := b2n w, d := d.toNat, a := a.enc, b := b.enc }
  | .sad w d a b => { op := 31, w := b2n w, d := d.toNat, a := a.enc, b := b.enc }
  | .addi w d a k => { op := 32, w := b2n w, d := d.toNat, a := a.enc, b := k.toNat }
  | .andi w d a k => { op := 33, w := b2n w, d := d.toNat, a := a.enc, b := k.toNat }
  | .ori w d a k => { op := 34, w := b2n w, d := d.toNat, a := a.enc, b := k.toNat }
  | .xori w d a k => { op := 35, w := b2n w, d := d.toNat, a := a.enc, b := k.toNat }
  | .shli w d a k => { op := 36, w := b2n w, d := d.toNat, a := a.enc, b := k.toNat }
  | .shri w d a k => { op := 37, w := b2n w, d := d.toNat, a := a.enc, b := k.toNat }
  | .sari w d a k => { op := 38, w := b2n w, d := d.toNat, a := a.enc, b := k.toNat }
  | .movi w d k => { op := 39, w := b2n w, d := d.toNat, a := k.toNat / 256, b := k.toNat % 256 }
  | .movhi w d k => { op := 40, w := b2n w, d := d.toNat, a := k.toNat / 256, b := k.toNat % 256 }
  | .popc w d a => { op := 41, w := b2n w, d := d.toNat, a := a.enc, b := 0 }
  | .clz w d a => { op := 42, w := b2n w, d := d.toNat, a := a.enc, b := 0 }
  | .brev w d a => { op := 43, w := b2n w, d := d.toNat, a := a.enc, b := 0 }
  | .bfx w d a b => { op := 44, w := b2n w, d := d.toNat, a := a.enc, b := b.enc }
  | .bfi w d a b => { op := 45, w := b2n w, d := d.toNat, a := a.enc, b := b.enc }
  | .prmt w d a b => { op := 46, w := b2n w, d := d.toNat, a := a.enc, b := b.enc }
  | .abs w d a => { op := 47, w := b2n w, d := d.toNat, a := a.enc, b := 0 }
  | .cmpeq w d a b => { op := 48, w := b2n w, d := d.toNat, a := a.enc, b := b.enc }
  | .cmpne w d a b => { op := 49, w := b2n w, d := d.toNat, a := a.enc, b := b.enc }
  | .cmplt w d a b => { op := 50, w := b2n w, d := d.toNat, a := a.enc, b := b.enc }
  | .cmple w d a b => { op := 51, w := b2n w, d := d.toNat, a := a.enc, b := b.enc }
  | .cmpgt w d a b => { op := 52, w := b2n w, d := d.toNat, a := a.enc, b := b.enc }
  | .cmpge w d a b => { op := 53, w := b2n w, d := d.toNat, a := a.enc, b := b.enc }
  | .cmpun w d a b => { op := 54, w := b2n w, d := d.toNat, a := a.enc, b := b.enc }
  | .sel w d a b => { op := 55, w := b2n w, d := d.toNat, a := a.enc, b := b.enc }
  | .mov w d a => { op := 56, w := b2n w, d := d.toNat, a := a.enc, b := 0 }
  | .movix d a b => { op := 57, w := 0, d := d.toNat, a := a.toNat, b := b.enc }
  | .stix d a b => { op := 58, w := 0, d := d.toNat, a := a.toNat, b := b.enc }
  | .pand w d a b => { op := 59, w := b2n w, d := d.toNat, a := a.toNat, b := b.toNat }
  | .por w d a b => { op := 60, w := b2n w, d := d.toNat, a := a.toNat, b := b.toNat }
  | .pxor w d a b => { op := 61, w := b2n w, d := d.toNat, a := a.toNat, b := b.toNat }
  | .pnot w d a => { op := 62, w := b2n w, d := d.toNat, a := a.toNat, b := 0 }
  | .pset w d a => { op := 63, w := b2n w, d := d.toNat, a := a.enc, b := 0 }
  | .fadd w d a b => { op := 64, w := b2n w, d := d.toNat, a := a.enc, b := b.enc }
  | .fsub w d a b => { op := 65, w := b2n w, d := d.toNat, a := a.enc, b := b.enc }
  | .fmul w d a b => { op := 66, w := b2n w, d := d.toNat, a := a.enc, b := b.enc }
  | .fma w d a b => { op := 67, w := b2n w, d := d.toNat, a := a.enc, b := b.enc }
  | .fms w d a b => { op := 68, w := b2n w, d := d.toNat, a := a.enc, b := b.enc }
  | .fnma w d a b => { op := 69, w := b2n w, d := d.toNat, a := a.enc, b := b.enc }
  | .fmin w d a b => { op := 70, w := b2n w, d := d.toNat, a := a.enc, b := b.enc }
  | .fmax w d a b => { op := 71, w := b2n w, d := d.toNat, a := a.enc, b := b.enc }
  | .fabs w d a => { op := 72, w := b2n w, d := d.toNat, a := a.enc, b := 0 }
  | .fneg w d a => { op := 73, w := b2n w, d := d.toNat, a := a.enc, b := 0 }
  | .fdiv d a b => { op := 74, w := 0, d := d.toNat, a := a.enc, b := b.enc }
  | .fsqrt d a => { op := 75, w := 0, d := d.toNat, a := a.enc, b := 0 }
  | .frcp d a => { op := 76, w := 0, d := d.toNat, a := a.enc, b := 0 }
  | .frsq d a => { op := 77, w := 0, d := d.toNat, a := a.enc, b := 0 }
  | .fexp2 d a => { op := 78, w := 0, d := d.toNat, a := a.enc, b := 0 }
  | .flog2 d a => { op := 79, w := 0, d := d.toNat, a := a.enc, b := 0 }
  | .cvt w d a k => { op := 80, w := b2n w, d := d.toNat, a := a.enc, b := k.toNat }
  | .cvtpk w d a b => { op := 81, w := b2n w, d := d.toNat, a := a.enc, b := b.enc }
  | .cvtup w d a k => { op := 82, w := b2n w, d := d.toNat, a := a.enc, b := k.toNat }
  | .frnd w d a => { op := 83, w := b2n w, d := d.toNat, a := a.enc, b := 0 }
  | .fclass w d a => { op := 84, w := b2n w, d := d.toNat, a := a.enc, b := 0 }
  | .fldexp w d a b => { op := 85, w := b2n w, d := d.toNat, a := a.enc, b := b.enc }
  | .frexp w d a => { op := 86, w := b2n w, d := d.toNat, a := a.enc, b := 0 }
  | .shfl w d a b => { op := 96, w := b2n w, d := d.toNat, a := a.enc, b := b.enc }
  | .shflup w d a b => { op := 97, w := b2n w, d := d.toNat, a := a.enc, b := b.enc }
  | .shfldn w d a b => { op := 98, w := b2n w, d := d.toNat, a := a.enc, b := b.enc }
  | .shflx w d a b => { op := 99, w := b2n w, d := d.toNat, a := a.enc, b := b.enc }
  | .vall d a => { op := 100, w := 0, d := d.toNat, a := a.enc, b := 0 }
  | .vany d a => { op := 101, w := 0, d := d.toNat, a := a.enc, b := 0 }
  | .ballot d a => { op := 102, w := 0, d := d.toNat, a := a.enc, b := 0 }
  | .redadd d a => { op := 103, w := 0, d := d.toNat, a := a.enc, b := 0 }
  | .redmin d a => { op := 104, w := 0, d := d.toNat, a := a.enc, b := 0 }
  | .redmax d a => { op := 105, w := 0, d := d.toNat, a := a.enc, b := 0 }
  | .scan d a b => { op := 106, w := 0, d := d.toNat, a := a.enc, b := 192 + b.toNat }
  | .lanes d a => { op := 107, w := 0, d := d.toNat, a := a.enc, b := 0 }
  | .bcast d a b => { op := 108, w := 0, d := d.toNat, a := a.enc, b := 192 + b.toNat }
  | .vtos d a b => { op := 109, w := 0, d := d.toNat, a := a.enc, b := 192 + b.toNat }
  | .bra o => { op := 112, w := o.toNat / 8388608, d := o.toNat / 65536 % 128, a := o.toNat / 256 % 256, b := o.toNat % 256 }
  | .call d k => { op := 113, w := 0, d := d.toNat, a := k.toNat / 256, b := k.toNat % 256 }
  | .ret a => { op := 114, w := 0, d := 0, a := a.enc, b := 0 }
  | .jmpi a => { op := 115, w := 0, d := 0, a := a.enc, b := 0 }
  | .brau o => { op := 116, w := o.toNat / 8388608, d := o.toNat / 65536 % 128, a := o.toNat / 256 % 256, b := o.toNat % 256 }
  | .brany o => { op := 117, w := o.toNat / 8388608, d := o.toNat / 65536 % 128, a := o.toNat / 256 % 256, b := o.toNat % 256 }
  | .setmode k => { op := 118, w := 0, d := 0, a := k.toNat / 256, b := k.toNat % 256 }
  | .setmmode k => { op := 119, w := 0, d := 0, a := k.toNat / 256, b := k.toNat % 256 }
  | .setgang a => { op := 120, w := 0, d := 0, a := 192 + a.toNat, b := 0 }
  | .splitsync => { op := 121, w := 0, d := 0, a := 0, b := 0 }
  | .ld8 d a sp k => { op := 128, w := 0, d := d.toNat, a := a.enc, b := 32 * sp.code + k.toNat }
  | .ld16 d a sp k => { op := 129, w := 0, d := d.toNat, a := a.enc, b := 32 * sp.code + k.toNat }
  | .ld32 d a sp k => { op := 130, w := 0, d := d.toNat, a := a.enc, b := 32 * sp.code + k.toNat }
  | .ld64 d a sp k => { op := 131, w := 0, d := 2 * d.toNat, a := a.enc, b := 32 * sp.code + k.toNat }
  | .ld128 d a sp k => { op := 132, w := 0, d := 4 * d.toNat, a := a.enc, b := 32 * sp.code + k.toNat }
  | .st8 d a sp k => { op := 133, w := 0, d := d.toNat, a := a.enc, b := 32 * sp.code + k.toNat }
  | .st16 d a sp k => { op := 134, w := 0, d := d.toNat, a := a.enc, b := 32 * sp.code + k.toNat }
  | .st32 d a sp k => { op := 135, w := 0, d := d.toNat, a := a.enc, b := 32 * sp.code + k.toNat }
  | .st64 d a sp k => { op := 136, w := 0, d := d.toNat, a := a.enc, b := 32 * sp.code + k.toNat }
  | .st128 d a sp k => { op := 137, w := 0, d := d.toNat, a := 4 * a.toNat, b := 32 * sp.code + k.toNat }
  | .pref a sp k => { op := 138, w := 0, d := 0, a := a.enc, b := 32 * sp.code + k.toNat }
  | .ldu d a sp k => { op := 139, w := 0, d := d.toNat, a := a.enc, b := 32 * sp.code + k.toNat }
  | .fence => { op := 140, w := 0, d := 0, a := 0, b := 0 }
  | .fencei => { op := 141, w := 0, d := 0, a := 0, b := 0 }
  | .ld8s d a sp k => { op := 142, w := 0, d := d.toNat, a := a.enc, b := 32 * sp.code + k.toNat }
  | .ld16s d a sp k => { op := 143, w := 0, d := d.toNat, a := a.enc, b := 32 * sp.code + k.toNat }
  | .aadd d a b => { op := 144, w := 0, d := d.toNat, a := a.enc, b := b.enc }
  | .amin d a b => { op := 145, w := 0, d := d.toNat, a := a.enc, b := b.enc }
  | .amax d a b => { op := 146, w := 0, d := d.toNat, a := a.enc, b := b.enc }
  | .aand d a b => { op := 147, w := 0, d := d.toNat, a := a.enc, b := b.enc }
  | .aor d a b => { op := 148, w := 0, d := d.toNat, a := a.enc, b := b.enc }
  | .axor d a b => { op := 149, w := 0, d := d.toNat, a := a.enc, b := b.enc }
  | .axchg d a b => { op := 150, w := 0, d := d.toNat, a := a.enc, b := b.enc }
  | .acas d a b => { op := 151, w := 0, d := d.toNat, a := a.enc, b := b.enc }
  | .afadd d a b => { op := 152, w := 0, d := d.toNat, a := a.enc, b := b.enc }
  | .radd a b => { op := 153, w := 0, d := 0, a := a.enc, b := b.enc }
  | .rmin a b => { op := 154, w := 0, d := 0, a := a.enc, b := b.enc }
  | .rmax a b => { op := 155, w := 0, d := 0, a := a.enc, b := b.enc }
  | .rfadd a b => { op := 156, w := 0, d := 0, a := a.enc, b := b.enc }
  | .lock a => { op := 157, w := 0, d := 0, a := 192 + a.toNat, b := 0 }
  | .unlock a => { op := 158, w := 0, d := 0, a := 192 + a.toNat, b := 0 }
  | .copy d a b => { op := 160, w := 0, d := d.toNat, a := 192 + 2 * a.toNat, b := 192 + 2 * b.toNat }
  | .copym d a b => { op := 161, w := 0, d := d.toNat, a := 192 + 2 * a.toNat, b := 192 + 2 * b.toNat }
  | .bclose d => { op := 162, w := 0, d := d.toNat, a := 0, b := 0 }
  | .bwait a => { op := 163, w := 0, d := 0, a := 192 + a.toNat, b := 0 }
  | .barinit a b => { op := 164, w := 0, d := 0, a := 192 + a.toNat, b := 192 + b.toNat }
  | .bararr d a b => { op := 165, w := 0, d := d.toNat, a := 192 + a.toNat, b := 192 + b.toNat }
  | .barwait a b => { op := 166, w := 0, d := 0, a := 192 + a.toNat, b := 192 + b.toNat }
  | .barexp a b => { op := 167, w := 0, d := 0, a := 192 + a.toNat, b := 192 + b.toNat }
  | .barcont a b => { op := 168, w := 0, d := 0, a := 192 + a.toNat, b := 192 + b.toNat }
  | .bartry d a b => { op := 169, w := 0, d := d.toNat, a := 192 + a.toNat, b := 192 + b.toNat }
  | .remarr a b => { op := 170, w := 0, d := 0, a := 192 + a.toNat, b := 192 + b.toNat }
  | .bsync => { op := 171, w := 0, d := 0, a := 0, b := 0 }
  | .mma d a b => { op := 176, w := 0, d := 2 * d.toNat, a := a.enc, b := b.enc }
  | .mmaz d a b => { op := 177, w := 0, d := 2 * d.toNat, a := a.enc, b := b.enc }
  | .mfence d => { op := 178, w := 0, d := d.toNat, a := 0, b := 0 }
  | .mwait a => { op := 179, w := 0, d := 0, a := 192 + a.toNat, b := 0 }
  | .tld d a => { op := 180, w := 0, d := d.toNat, a := 192 + 2 * a.toNat, b := 0 }
  | .tst a b => { op := 181, w := 0, d := 0, a := 192 + 2 * a.toNat, b := b.toNat }
  | .thdr d a => { op := 182, w := 0, d := d.toNat, a := 192 + 2 * a.toNat, b := 0 }
  | .tchk d a => { op := 183, w := 0, d := d.toNat, a := a.enc, b := 0 }
  | .hadq d a b => { op := 184, w := 0, d := d.toNat, a := a.enc, b := b.enc }
  | .transq a b => { op := 185, w := 0, d := 0, a := a.enc, b := b.enc }
  | .cvtt a b => { op := 186, w := 0, d := 0, a := a.enc, b := b.enc }
  | .tfill a b => { op := 187, w := 0, d := 0, a := 192 + a.toNat, b := b.enc }
  | .mwake => { op := 188, w := 0, d := 0, a := 0, b := 0 }
  | .qopen d a b => { op := 192, w := 0, d := d.toNat, a := 192 + a.toNat, b := 192 + 2 * b.toNat }
  | .qrsv d a b => { op := 193, w := 0, d := d.toNat, a := 192 + a.toNat, b := 192 + b.toNat }
  | .qput a b => { op := 194, w := 0, d := 0, a := 192 + a.toNat, b := b.toNat }
  | .qputs a b => { op := 195, w := 0, d := 0, a := 192 + a.toNat, b := 192 + b.toNat }
  | .qget d a => { op := 196, w := 0, d := d.toNat, a := 192 + a.toNat, b := 0 }
  | .qgets d a b => { op := 197, w := 0, d := d.toNat, a := 192 + a.toNat, b := 192 + b.toNat }
  | .qtry d a => { op := 198, w := 0, d := d.toNat, a := 192 + a.toNat, b := 0 }
  | .qpeek d a => { op := 199, w := 0, d := d.toNat, a := 192 + a.toNat, b := 0 }
  | .qclose a => { op := 200, w := 0, d := 0, a := 192 + a.toNat, b := 0 }
  | .qfence => { op := 201, w := 0, d := 0, a := 0, b := 0 }
  | .qack => { op := 202, w := 0, d := 0, a := 0, b := 0 }
  | .qsvc a b => { op := 203, w := 0, d := 0, a := 192 + a.toNat, b := 2 * b.toNat }
  | .emit a b => { op := 204, w := 0, d := 0, a := 192 + a.toNat, b := b.toNat }
  | .tlbinv a b => { op := 208, w := 0, d := 0, a := 192 + a.toNat, b := 192 + b.toNat }
  | .lrload d a b => { op := 209, w := 0, d := d.toNat, a := 192 + a.toNat, b := 192 + b.toNat }
  | .lrinv a => { op := 210, w := 0, d := 0, a := 192 + a.toNat, b := 0 }
  | .wsub a b => { op := 211, w := 0, d := 0, a := 192 + 2 * a.toNat, b := 192 + b.toNat }
  | .wunsub a => { op := 212, w := 0, d := 0, a := 192 + a.toNat, b := 0 }
  | .wflush a => { op := 213, w := 0, d := 0, a := 192 + a.toNat, b := 0 }
  | .qxsetDropVqn d a b => { op := 214, w := 0, d := d.toNat, a := 192 + a.toNat, b := 192 + b.toNat }
  | .qxsetDropAsid d a b => { op := 214, w := 0, d := d.toNat, a := 192 + a.toNat, b := 192 + b.toNat }
  | .qxsetDropAll d a b => { op := 214, w := 0, d := d.toNat, a := 192 + a.toNat, b := 192 + b.toNat }
  | .qxsetWriteDescriptor d a b => { op := 214, w := 0, d := d.toNat, a := 192 + a.toNat, b := 192 + b.toNat }
  | .sadd d a b => { op := 224, w := 0, d := d.toNat, a := 192 + a.toNat, b := 192 + b.toNat }
  | .ssub d a b => { op := 225, w := 0, d := d.toNat, a := 192 + a.toNat, b := 192 + b.toNat }
  | .smul d a b => { op := 226, w := 0, d := d.toNat, a := 192 + a.toNat, b := 192 + b.toNat }
  | .sand d a b => { op := 227, w := 0, d := d.toNat, a := 192 + a.toNat, b := 192 + b.toNat }
  | .sor d a b => { op := 228, w := 0, d := d.toNat, a := 192 + a.toNat, b := 192 + b.toNat }
  | .sxor d a b => { op := 229, w := 0, d := d.toNat, a := 192 + a.toNat, b := 192 + b.toNat }
  | .sshl d a b => { op := 230, w := 0, d := d.toNat, a := 192 + a.toNat, b := 192 + b.toNat }
  | .sshr d a b => { op := 231, w := 0, d := d.toNat, a := 192 + a.toNat, b := 192 + b.toNat }
  | .ssar d a b => { op := 232, w := 0, d := d.toNat, a := 192 + a.toNat, b := 192 + b.toNat }
  | .saddi d a k => { op := 233, w := 0, d := d.toNat, a := 192 + a.toNat, b := k.toNat }
  | .smovi d k => { op := 234, w := 0, d := d.toNat, a := k.toNat / 256, b := k.toNat % 256 }
  | .smovhi d k => { op := 235, w := 0, d := d.toNat, a := k.toNat / 256, b := k.toNat % 256 }
  | .scmplt d a b => { op := 236, w := 0, d := d.toNat, a := 192 + a.toNat, b := 192 + b.toNat }
  | .scmpeq d a b => { op := 237, w := 0, d := d.toNat, a := 192 + a.toNat, b := 192 + b.toNat }
  | .smin d a b => { op := 238, w := 0, d := d.toNat, a := 192 + a.toNat, b := 192 + b.toNat }
  | .smax d a b => { op := 239, w := 0, d := d.toNat, a := 192 + a.toNat, b := 192 + b.toNat }
  | .crd d a => { op := 240, w := 0, d := d.toNat, a := 192 + a.toNat, b := 0 }
  | .cwait d a b => { op := 241, w := 0, d := d.toNat, a := 192 + a.toNat, b := 192 + b.toNat }
  | .eres d a => { op := 242, w := 0, d := d.toNat, a := 192 + a.toNat, b := 0 }
  | .erel d a => { op := 243, w := 0, d := d.toNat, a := 192 + a.toNat, b := 0 }
  | .eqry d a => { op := 244, w := 0, d := d.toNat, a := 192 + a.toNat, b := 0 }
  | .splitRotation => { op := 0, w := 0, d := 0, a := 0, b := 0 }
  | .loadDataReturn => { op := 0, w := 0, d := 0, a := 0, b := 0 }
  | .longResultWrite => { op := 0, w := 0, d := 0, a := 0, b := 0 }
  | .atomicReply => { op := 0, w := 0, d := 0, a := 0, b := 0 }
  | .storeQueueDrain => { op := 0, w := 0, d := 0, a := 0, b := 0 }
  | .quantumReductionPerform => { op := 0, w := 0, d := 0, a := 0, b := 0 }
  | .pageWalkComplete => { op := 0, w := 0, d := 0, a := 0, b := 0 }
  | .resumeRetry => { op := 0, w := 0, d := 0, a := 0, b := 0 }
  | .resumeHandler => { op := 0, w := 0, d := 0, a := 0, b := 0 }
  | .resumeEndBlock => { op := 0, w := 0, d := 0, a := 0, b := 0 }
  | .resumeEndGrid => { op := 0, w := 0, d := 0, a := 0, b := 0 }
  | .preemptOneBlock => { op := 0, w := 0, d := 0, a := 0, b := 0 }
  | .preemptLaunch => { op := 0, w := 0, d := 0, a := 0, b := 0 }
  | .releaseHeldBlocks => { op := 0, w := 0, d := 0, a := 0, b := 0 }
  | .preemptionRequest => { op := 0, w := 0, d := 0, a := 0, b := 0 }
  | .preemptTimeout => { op := 0, w := 0, d := 0, a := 0, b := 0 }
  | .preemptSave => { op := 0, w := 0, d := 0, a := 0, b := 0 }
  | .blockRestore => { op := 0, w := 0, d := 0, a := 0, b := 0 }
  | .yieldRequest => { op := 0, w := 0, d := 0, a := 0, b := 0 }
  | .launchGrid => { op := 0, w := 0, d := 0, a := 0, b := 0 }
  | .launchGraph => { op := 0, w := 0, d := 0, a := 0, b := 0 }
  | .heldRecordReady => { op := 0, w := 0, d := 0, a := 0, b := 0 }
  | .energyRefill => { op := 0, w := 0, d := 0, a := 0, b := 0 }
  | .blockPlacement => { op := 0, w := 0, d := 0, a := 0, b := 0 }
  | .blockSteal => { op := 0, w := 0, d := 0, a := 0, b := 0 }
  | .clusterForage => { op := 0, w := 0, d := 0, a := 0, b := 0 }
  | .blockRetire => { op := 0, w := 0, d := 0, a := 0, b := 0 }
  | .graphNodeLaunch => { op := 0, w := 0, d := 0, a := 0, b := 0 }
  | .continuationSpawn => { op := 0, w := 0, d := 0, a := 0, b := 0 }
  | .watchdog => { op := 0, w := 0, d := 0, a := 0, b := 0 }
  | .throttleChange => { op := 0, w := 0, d := 0, a := 0, b := 0 }
  | .remoteArrival => { op := 0, w := 0, d := 0, a := 0, b := 0 }
  | .copySectorLand => { op := 0, w := 0, d := 0, a := 0, b := 0 }
  | .copymDelivery => { op := 0, w := 0, d := 0, a := 0, b := 0 }
  | .matrixOpComplete => { op := 0, w := 0, d := 0, a := 0, b := 0 }
  | .matrixGate => { op := 0, w := 0, d := 0, a := 0, b := 0 }
  | .matrixWakeDone => { op := 0, w := 0, d := 0, a := 0, b := 0 }
  | .portReserve => { op := 0, w := 0, d := 0, a := 0, b := 0 }
  | .portFill => { op := 0, w := 0, d := 0, a := 0, b := 0 }
  | .portTake => { op := 0, w := 0, d := 0, a := 0, b := 0 }
  | .portPeek => { op := 0, w := 0, d := 0, a := 0, b := 0 }
  | .portBinding => { op := 0, w := 0, d := 0, a := 0, b := 0 }
  | .portCloseNotice => { op := 0, w := 0, d := 0, a := 0, b := 0 }
  | .putAcknowledge => { op := 0, w := 0, d := 0, a := 0, b := 0 }
  | .queueWake => { op := 0, w := 0, d := 0, a := 0, b := 0 }
  | .queueWaitRetry => { op := 0, w := 0, d := 0, a := 0, b := 0 }
  | .superRefill => { op := 0, w := 0, d := 0, a := 0, b := 0 }
  | .depositLanding => { op := 0, w := 0, d := 0, a := 0, b := 0 }
  | .svcAdd => { op := 0, w := 0, d := 0, a := 0, b := 0 }
  | .svcSignedMin => { op := 0, w := 0, d := 0, a := 0, b := 0 }
  | .svcSignedMax => { op := 0, w := 0, d := 0, a := 0, b := 0 }
  | .svcUnsignedMin => { op := 0, w := 0, d := 0, a := 0, b := 0 }
  | .svcUnsignedMax => { op := 0, w := 0, d := 0, a := 0, b := 0 }
  | .svcAnd => { op := 0, w := 0, d := 0, a := 0, b := 0 }
  | .svcOr => { op := 0, w := 0, d := 0, a := 0, b := 0 }
  | .svcXor => { op := 0, w := 0, d := 0, a := 0, b := 0 }
  | .svcExchange => { op := 0, w := 0, d := 0, a := 0, b := 0 }
  | .svcCompareAndSwap => { op := 0, w := 0, d := 0, a := 0, b := 0 }
  | .svcF32Add => { op := 0, w := 0, d := 0, a := 0, b := 0 }
  | .svcLoad => { op := 0, w := 0, d := 0, a := 0, b := 0 }
  | .svcUndefinedOp => { op := 0, w := 0, d := 0, a := 0, b := 0 }
  | .messageResend => { op := 0, w := 0, d := 0, a := 0, b := 0 }
  | .flitReceive => { op := 0, w := 0, d := 0, a := 0, b := 0 }
  | .replayTimeout => { op := 0, w := 0, d := 0, a := 0, b := 0 }
  | .retrainComplete => { op := 0, w := 0, d := 0, a := 0, b := 0 }
  | .lctlRetrain => { op := 0, w := 0, d := 0, a := 0, b := 0 }
  | .connreqWrite => { op := 0, w := 0, d := 0, a := 0, b := 0 }
  | .reconfigDrainEnd => { op := 0, w := 0, d := 0, a := 0, b := 0 }
  | .reconfigSwitchDone => { op := 0, w := 0, d := 0, a := 0, b := 0 }
  | .outboxDrain => { op := 0, w := 0, d := 0, a := 0, b := 0 }
  | .evstatOvfClear => { op := 0, w := 0, d := 0, a := 0, b := 0 }
  | .powerSample => { op := 0, w := 0, d := 0, a := 0, b := 0 }
  | .powerClampDecision => { op := 0, w := 0, d := 0, a := 0, b := 0 }
  | .powerOnBoot => { op := 0, w := 0, d := 0, a := 0, b := 0 }
  | .recoveryImage => { op := 0, w := 0, d := 0, a := 0, b := 0 }
  | .attestationRequest => { op := 0, w := 0, d := 0, a := 0, b := 0 }
  | .computeDieResetEnter => { op := 0, w := 0, d := 0, a := 0, b := 0 }
  | .computeDieResetExit => { op := 0, w := 0, d := 0, a := 0, b := 0 }
  | .scrubPass => { op := 0, w := 0, d := 0, a := 0, b := 0 }
  | .checkpointStart => { op := 0, w := 0, d := 0, a := 0, b := 0 }
  | .checkpointDone => { op := 0, w := 0, d := 0, a := 0, b := 0 }
  | .tlbShootdown => { op := 0, w := 0, d := 0, a := 0, b := 0 }
  | .hostCoherentAccess => { op := 0, w := 0, d := 0, a := 0, b := 0 }
  | .pcieDma => { op := 0, w := 0, d := 0, a := 0, b := 0 }
  | .subscriptionBatchTimeout => { op := 0, w := 0, d := 0, a := 0, b := 0 }
  | .subscriptionBatchLand => { op := 0, w := 0, d := 0, a := 0, b := 0 }
  | .shmWrite => { op := 0, w := 0, d := 0, a := 0, b := 0 }
  | .descriptorWrite => { op := 0, w := 0, d := 0, a := 0, b := 0 }
  | .prgoReplayOne => { op := 0, w := 0, d := 0, a := 0, b := 0 }
  | .prgoReplayTwo => { op := 0, w := 0, d := 0, a := 0, b := 0 }
  | .rootinvWrite => { op := 0, w := 0, d := 0, a := 0, b := 0 }
  | .lrinvWrite => { op := 0, w := 0, d := 0, a := 0, b := 0 }
  | .entryLatchRead => { op := 0, w := 0, d := 0, a := 0, b := 0 }
  | .registerWrite => { op := 0, w := 0, d := 0, a := 0, b := 0 }
  | .illegalInstruction w => Fields.ofNat w.toNat
  | .queueAnswerArrival => { op := 0, w := 0, d := 0, a := 0, b := 0 }
  | .ratedConditionExcursion => { op := 0, w := 0, d := 0, a := 0, b := 0 }
  | .duplicateAndCompareMismatch => { op := 0, w := 0, d := 0, a := 0, b := 0 }

/-- The word of an instruction. -/
def encode (i : Instr) : Word := BitVec.ofNat 32 (encodeFields i).toNat

/-- The word of four bytes, the first at the lowest address (R5, R69). -/
def wordOfBytes (b0 b1 b2 b3 : Byte) : Nat :=
  b0.toNat + 256 * b1.toNat + 65536 * b2.toNat + 16777216 * b3.toNat

/-- The four bytes of a word (R5). -/
def bytesOfWord (w : Nat) : List Byte :=
  [BitVec.ofNat 8 w, BitVec.ofNat 8 (w / 256), BitVec.ofNat 8 (w / 65536), BitVec.ofNat 8 (w / 16777216)]

/-- Decode one word: the instruction, or the ILLEGAL-OPERAND rejection. A decoded term that `Instr.wf` refuses
(R72, R80, R222, R256, R171) is rejected here too. -/
def decodeWord (w : Nat) : Except DecodeErr Instr :=
  match decodeFields (Fields.ofNat w) with
  | some i => if i.wf then .ok i else .error (.illegalOperand (BitVec.ofNat 32 w))
  | none => .error (.illegalOperand (BitVec.ofNat 32 w))

/-- Decode from a list of bytes: the instruction and the bytes after it. -/
def decode : List Byte → Except DecodeErr (Instr × List Byte)
  | b0 :: b1 :: b2 :: b3 :: rest =>
    match decodeWord (wordOfBytes b0 b1 b2 b3) with
    | .ok i => .ok (i, rest)
    | .error e => .error e
  | _ => .error .truncated

/-- The instruction the decoder reads from a row of the opcode table whose bits are `w` (the host's question). -/
def decodeTableWord (_nbits w : Nat) : Option Instr :=
  match decode (bytesOfWord w) with
  | .ok (i, _) => some i
  | .error _ => none

end Sys2Proof
end

