-- ==== Sys2Proof/Machine/Maps.lean ====
section
/-!
DEFINITION. Sparse maps: plain lists of key and value pairs in one canonical form.

`Sparse w` maps a key to a bit vector; a key that is not listed reads 0, the list is strictly rising in its keys and lists
no 0. Memory, buffers and register files are held this way. `Assoc α` maps a key to a record and reads a given default.
-/
namespace Sys2Proof.Machine

/-- Keys and non-zero values, keys strictly rising. -/
abbrev Sparse (w : Nat) := List (Nat × BitVec w)

/-- The value of a key: 0 when it is not listed. -/
def Sparse.get {w : Nat} : Sparse w → Nat → BitVec w
  | [], _ => 0
  | (k, v) :: r, a => if a = k then v else Sparse.get r a

/-- Insert an entry in front of the first greater key. -/
def Sparse.insert {w : Nat} : Sparse w → Nat → BitVec w → Sparse w
  | [], a, v => [(a, v)]
  | (k, x) :: r, a, v => if a < k then (a, v) :: (k, x) :: r else (k, x) :: Sparse.insert r a v

/-- Write one value and keep the canonical form: writing 0 removes the entry. -/
def Sparse.put {w : Nat} (m : Sparse w) (a : Nat) (v : BitVec w) : Sparse w :=
  let rest := m.filter fun e => !(e.1 == a)
  if v = 0 then rest else Sparse.insert rest a v

/-- Every key is above `n`, keys rise strictly, no value is 0. -/
def Sparse.wfAbove {w : Nat} (n : Nat) : Sparse w → Bool
  | [] => true
  | (k, v) :: r => decide (n ≤ k) && !(v == 0) && Sparse.wfAbove (k + 1) r

/-- The canonical form. -/
def Sparse.wf {w : Nat} (m : Sparse w) : Bool := Sparse.wfAbove 0 m

/-- Write a list of values in order; a later write to a key wins. -/
def Sparse.putAll {w : Nat} (m : Sparse w) : List (Nat × BitVec w) → Sparse w
  | [] => m
  | (a, v) :: r => Sparse.putAll (Sparse.put m a v) r

/-- Drop every entry whose key the test picks. -/
def Sparse.drop {w : Nat} (p : Nat → Bool) (m : Sparse w) : Sparse w := m.filter fun kv => !(p kv.1)

/-- Key and record pairs, keys strictly rising. -/
abbrev Assoc (α : Type) := List (Nat × α)

/-- The record of a key, `d` when it has none. -/
def Assoc.getD {α : Type} (d : α) : Assoc α → Nat → α
  | [], _ => d
  | (k, v) :: r, a => if a = k then v else Assoc.getD d r a

/-- The record of a key, if it has one. -/
def Assoc.get? {α : Type} : Assoc α → Nat → Option α
  | [], _ => none
  | (k, v) :: r, a => if a = k then some v else Assoc.get? r a

/-- Write the record of a key. -/
def Assoc.put {α : Type} : Assoc α → Nat → α → Assoc α
  | [], a, v => [(a, v)]
  | (k, x) :: r, a, v =>
    if a < k then (a, v) :: (k, x) :: r
    else if a = k then (k, v) :: r
    else (k, x) :: Assoc.put r a v

/-- Remove a key. -/
def Assoc.erase {α : Type} (m : Assoc α) (a : Nat) : Assoc α := m.filter fun kv => !(kv.1 == a)

/-- `n` consecutive values from key `a` up. -/
def Sparse.read {w : Nat} (m : Sparse w) (a : Nat) : Nat → List (BitVec w)
  | 0 => []
  | n + 1 => Sparse.get m a :: Sparse.read m (a + 1) n

/-- Write consecutive values from key `a` up. -/
def Sparse.write {w : Nat} (m : Sparse w) (a : Nat) : List (BitVec w) → Sparse w
  | [] => m
  | v :: r => Sparse.write (Sparse.put m a v) (a + 1) r

/-- The little-endian number of a list of bytes (R5). -/
def leNat : List Byte → Nat
  | [] => 0
  | b :: r => b.toNat + 256 * leNat r

/-- The low `n` bytes of a number, lowest first (R5). -/
def leBytes : Nat → Nat → List Byte
  | 0, _ => []
  | n + 1, x => BitVec.ofNat 8 x :: leBytes n (x / 256)

/-- The n-th element of a list, or `d`. -/
def nth {α : Type} (d : α) : List α → Nat → α
  | [], _ => d
  | x :: _, 0 => x
  | _ :: r, n + 1 => nth d r n

/-- Replace the n-th element, if there is one. -/
def setNth {α : Type} : List α → Nat → α → List α
  | [], _, _ => []
  | _ :: r, 0, y => y :: r
  | x :: r, n + 1, y => x :: setNth r n y

/-- Remove the n-th element, if there is one. -/
def dropNth {α : Type} : List α → Nat → List α
  | [], _ => []
  | _ :: r, 0 => r
  | x :: r, n + 1 => x :: dropNth r n

/-- The n-th element, if there is one. -/
def nth? {α : Type} : List α → Nat → Option α
  | [], _ => none
  | x :: _, 0 => some x
  | _ :: r, n + 1 => nth? r n

/-- The lanes of a mask in ascending order. -/
def lanesOf (m : LaneMask) : List Nat := (List.range 32).filter fun l => m.getLsbD l

/-- The mask of the lanes a test picks. -/
def maskOf (p : Nat → Bool) : LaneMask :=
  BitVec.ofNat 32 ((List.range 32).foldl (fun a l => a + if p l then 2 ^ l else 0) 0)

/-- Lanes 0 to n − 1. -/
def lowLanes (n : Nat) : LaneMask := BitVec.ofNat 32 (2 ^ n - 1)

/-- Insert into a list kept in rising order of a key. -/
def insertBy {α : Type} (key : α → Nat) (x : α) : List α → List α
  | [] => [x]
  | y :: r => if key x ≤ key y then x :: y :: r else y :: insertBy key x r

/-- Sort by a key, keeping the order of equal keys. -/
def sortBy {α : Type} (key : α → Nat) (l : List α) : List α := l.foldr (insertBy key) []

/-- The element of least key, the first on equal keys. -/
def minBy? {α : Type} (key : α → Nat) : List α → Option α
  | [] => none
  | x :: r => match minBy? key r with
    | none => some x
    | some y => if key y < key x then some y else some x

end Sys2Proof.Machine
end

