-- ==== Sys2Proof/Machine/Format.lean ====
section
/-!
DEFINITION. Number formats, rounding and the exact element arithmetic of spec/05_formats.md (R122 to R143).

A finite value is an exact rational; an operation is exact and is rounded once (R140).
-/
namespace Sys2Proof.Machine

/-! ## Exact rationals -/

/-- The rational num / den, den at least 1. -/
structure Q where
  num : Int
  den : Nat
  deriving DecidableEq, Repr

/-- An integer as a rational. -/
def Q.ofInt (n : Int) : Q := ⟨n, 1⟩

/-- n × 2^e. -/
def Q.dyadic (n : Int) (e : Int) : Q := if 0 ≤ e then ⟨n * 2 ^ e.toNat, 1⟩ else ⟨n, 2 ^ (-e).toNat⟩

/-- The sum; a common denominator is kept where one divides the other. -/
def Q.add (a b : Q) : Q :=
  if a.den % b.den = 0 then ⟨a.num + b.num * Int.ofNat (a.den / b.den), a.den⟩
  else if b.den % a.den = 0 then ⟨a.num * Int.ofNat (b.den / a.den) + b.num, b.den⟩
  else ⟨a.num * Int.ofNat b.den + b.num * Int.ofNat a.den, a.den * b.den⟩

/-- The negation. -/
def Q.neg (a : Q) : Q := ⟨-a.num, a.den⟩

/-- The product. -/
def Q.mul (a b : Q) : Q := ⟨a.num * b.num, a.den * b.den⟩

/-- The quotient; b is not 0. -/
def Q.div (a b : Q) : Q :=
  if 0 < b.num then ⟨a.num * Int.ofNat b.den, a.den * b.num.toNat⟩
  else ⟨-(a.num * Int.ofNat b.den), a.den * (-b.num).toNat⟩

/-- The magnitude. -/
def Q.abs (a : Q) : Q := ⟨Int.ofNat a.num.natAbs, a.den⟩

/-- a < b. -/
def Q.lt (a b : Q) : Bool := decide (a.num * Int.ofNat b.den < b.num * Int.ofNat a.den)

/-- a = b as values. -/
def Q.eq (a b : Q) : Bool := a.num * Int.ofNat b.den == b.num * Int.ofNat a.den

/-- ⌊a⌋. -/
def Q.floor (a : Q) : Int := a.num / Int.ofNat a.den

/-! ## Formats -/

/-- The formats of R125 and R129. -/
inductive Fmt where
  | f32 | f16 | bf16 | e5m2 | e4m3 | e2m1 | d8
  deriving DecidableEq, Repr

/-- Width in bits. -/
def Fmt.width : Fmt → Nat
  | .f32 => 32 | .f16 => 16 | .bf16 => 16 | .e5m2 => 8 | .e4m3 => 8 | .e2m1 => 4 | .d8 => 8

/-- Fraction bits of a binary format. -/
def Fmt.frac : Fmt → Nat
  | .f32 => 23 | .f16 => 10 | .bf16 => 7 | .e5m2 => 2 | .e4m3 => 3 | .e2m1 => 1 | .d8 => 5

/-- The exponent of the smallest normal, 1 − bias. -/
def Fmt.emin : Fmt → Int
  | .f32 => -126 | .f16 => -14 | .bf16 => -126 | .e5m2 => -14 | .e4m3 => -6 | .e2m1 => 0 | .d8 => 0

/-- The code of the largest finite magnitude. -/
def Fmt.maxCode : Fmt → Nat
  | .f32 => 0x7F7FFFFF | .f16 => 0x7BFF | .bf16 => 0x7F7F | .e5m2 => 0x7B | .e4m3 => 0x7E | .e2m1 => 7 | .d8 => 0x7E

/-- The code of infinity, where the format has one. -/
def Fmt.infCode : Fmt → Option Nat
  | .f32 => some 0x7F800000 | .f16 => some 0x7C00 | .bf16 => some 0x7F80 | .e5m2 => some 0x7C | .e4m3 => none
  | .e2m1 => none | .d8 => some 0x7F

/-- The canonical NaN (R138); in e2m1 a NaN is +0. -/
def Fmt.nanCode : Fmt → Nat
  | .f32 => 0x7FC00000 | .f16 => 0x7E00 | .bf16 => 0x7FC0 | .e5m2 => 0x7E | .e4m3 => 0x7F | .e2m1 => 0 | .d8 => 0x80

/-- A decoded element: a NaN as its quieted f32 code (R139), an infinity, or a finite value with the sign of zero. -/
inductive Val where
  | nan (code : Nat)
  | inf (neg : Bool)
  | fin (neg : Bool) (q : Q)
  deriving DecidableEq, Repr

/-- The canonical NaN as a value. -/
def Val.cnan : Val := .nan 0x7FC00000

/-- The magnitude of a d8 tail (R129, R130): (1 + 9F / 2^w) × 10^E. -/
def d8Tail (t : Nat) : Q :=
  let b := t.testBit 6
  let run := if t.testBit 5 != b then 1 else if t.testBit 4 != b then 2 else if t.testBit 3 != b then 3
    else if t.testBit 2 != b then 4 else if t.testBit 1 != b then 5 else 6
  let w := 6 - run
  let f := t % 2 ^ w
  let m : Nat := 2 ^ w + 9 * f
  if b then ⟨Int.ofNat (m * 10 ^ (run - 1)), 2 ^ w⟩ else ⟨Int.ofNat m, 2 ^ w * 10 ^ run⟩

/-- The value of a magnitude code: a binary format under R125, d8 under R130 with the overflow value at 10^6 (R133). -/
def Fmt.mag (f : Fmt) (c : Nat) : Q :=
  match f with
  | .d8 => if c = 0 then ⟨0, 1⟩ else if c = 0x7F then ⟨1000000, 1⟩ else d8Tail c
  | _ =>
    let m := f.frac
    let e := c / 2 ^ m
    if e = 0 then Q.dyadic (Int.ofNat c) (f.emin - Int.ofNat m)
    else Q.dyadic (Int.ofNat (c % 2 ^ m + 2 ^ m)) (f.emin + Int.ofNat e - 1 - Int.ofNat m)

/-- `dec(fmt, code)` (R125, R129, R139): a NaN comes out as the quieted f32 code. -/
def Fmt.dec (f : Fmt) (c : Nat) : Val :=
  let s := c.testBit (f.width - 1)
  let t := c % 2 ^ (f.width - 1)
  match f with
  | .d8 =>
    if t = 0 then (if s then Val.cnan else .fin false ⟨0, 1⟩)
    else if t = 0x7F then .inf s
    else .fin s (if s then (f.mag t).neg else f.mag t)
  | _ =>
    if f.infCode = some t then .inf s
    else if f ≠ .e2m1 ∧ f.maxCode < t then
      .nan (b2n s * 2 ^ 31 + 0x7FC00000 ||| (t % 2 ^ f.frac) * 2 ^ (23 - f.frac))
    else .fin s (if s then (f.mag t).neg else f.mag t)

/-- The code of a NaN in a format (R139). -/
def Fmt.encNan (f : Fmt) (n : Nat) : Nat :=
  let s := n / 2 ^ 31 % 2
  match f with
  | .f32 => n
  | .f16 => s * 2 ^ 15 + 0x7E00 ||| (n / 2 ^ 13 % 2 ^ 10)
  | .bf16 => n / 2 ^ 16 ||| 0x40
  | .e5m2 => s * 128 + 0x7E
  | .e4m3 => s * 128 + 0x7F
  | .d8 => 0x80
  | .e2m1 => 0

/-! ## Rounding -/

/-- ⌊log2 n⌋ for n ≥ 1. -/
def log2Floor (q : Q) : Int :=
  let n := q.num.natAbs
  let e : Int := Int.ofNat n.log2 - Int.ofNat q.den.log2
  -- 2^(e−1) < n/den < 2^(e+1)
  if (Q.dyadic 1 e).num * Int.ofNat q.den ≤ Int.ofNat n * Int.ofNat (Q.dyadic 1 e).den then e else e - 1

/-- The greatest d8 tail whose value is at most q, searched downwards from a tail. -/
def d8Below (q : Q) : Nat → Nat
  | 0 => 0
  | t + 1 => if Q.lt q (Fmt.d8.mag (t + 1)) then d8Below q t else t + 1

/-- The magnitude code lo of R133 of a non-negative value. -/
def Fmt.lo (f : Fmt) (q : Q) : Nat :=
  if q.num = 0 then 0
  else match f with
  | .d8 => d8Below q 0x7E
  | _ =>
    let e := max (log2Floor q) f.emin
    let step := Q.dyadic 1 (e - Int.ofNat f.frac)
    let k := (Q.div q step).floor.toNat
    min ((e - f.emin).toNat * 2 ^ f.frac + k) f.maxCode

/-- The magnitude of the code after lo, an overflow value standing at max + u (R133). -/
def Fmt.magHi (f : Fmt) (c : Nat) : Q :=
  match f with
  | .d8 => f.mag (c + 1)
  | _ =>
    if c = f.maxCode then Q.add (f.mag c) (Q.add (f.mag c) (f.mag (c - 1)).neg) else f.mag (c + 1)

/-- Whether rounding goes from lo to hi (R133): f is the fraction of the way, `odd` the last bit of lo, `u` the lane
generator's value. -/
def roundUpward (rm : Nat) (neg odd : Bool) (f : Q) (u : Nat) : Bool :=
  if f.num = 0 then false
  else match rm with
  | 0 => Q.lt ⟨1, 2⟩ f || (Q.eq f ⟨1, 2⟩ && odd)
  | 1 => false
  | 2 => neg
  | 3 => !neg
  | 4 => !(Q.lt f ⟨1, 2⟩)
  | _ => decide (u < (Q.mul f ⟨4294967296, 1⟩).floor.toNat)

/-- Put a sign on a magnitude code; d8 has no −0 (R136). -/
def Fmt.signed (f : Fmt) (neg : Bool) (c : Nat) : Nat :=
  if neg && !(f == .d8 && c == 0) then c + 2 ^ (f.width - 1) else c

/-- The code of an infinite result (R135). -/
def Fmt.encInf (f : Fmt) (sat neg : Bool) : Nat :=
  match f.infCode with
  | some c => f.signed neg c
  | none => f.signed neg (if f == .e2m1 || sat then f.maxCode else f.nanCode)

/-- `enc`/`round` of a finite exact value (R133 to R136): `neg` is the sign, used for zero too. -/
def Fmt.roundFin (f : Fmt) (sat : Bool) (rm u : Nat) (neg : Bool) (q : Q) : Nat :=
  let a := q.abs
  let c := f.lo a
  let lo := f.mag c
  let fr := Q.div (Q.add a lo.neg) (Q.add (f.magHi c) lo.neg)
  if roundUpward rm neg (c % 2 == 1) fr u then
    if c = f.maxCode then
      (if sat && !(f == .f32) then f.signed neg c
       else match f.infCode with
         | some i => f.signed neg i
         | none => f.signed neg (if f == .e2m1 then f.maxCode else f.nanCode))
    else f.signed neg (c + 1)
  else f.signed neg c

/-- The rounding settings of MODE (R111). -/
structure Rounding where
  rm   : Nat
  sat  : Bool
  ftz  : Bool
  dnan : Bool
  deriving DecidableEq, Repr

/-- Formats on which FTZ acts (R137). -/
def Fmt.flushes : Fmt → Bool
  | .f32 | .f16 | .bf16 => true
  | _ => false

/-- Flush a subnormal operand to zero of its sign under FTZ (R137). -/
def Fmt.flushVal (f : Fmt) (ftz : Bool) (c : Nat) : Nat :=
  let t := c % 2 ^ (f.width - 1)
  if ftz && f.flushes && decide (t < 2 ^ f.frac) then c - t else c

/-- Under DNAN a NaN by overflow or from an infinity, which only e4m3 has, is the canonical one as well (R135, R138). -/
def Fmt.canon (f : Fmt) (dnan : Bool) (c : Nat) : Nat := if dnan && f == .e4m3 && c == 0xFF then f.nanCode else c

/-- `round` of any value to a format, with SAT, FTZ and DNAN (R133 to R139). -/
def Fmt.enc (f : Fmt) (r : Rounding) (u : Nat) : Val → Nat
  | .nan n => if r.dnan then f.nanCode else f.encNan n
  | .inf s => f.canon r.dnan (f.encInf r.sat s)
  | .fin s q => f.canon r.dnan (f.flushVal r.ftz (f.roundFin r.sat r.rm u s q))

/-- The value with which an element enters arithmetic (R140 steps 1 and 2, R132): d8 is rounded to f32 first. -/
def Fmt.operand (f : Fmt) (ftz : Bool) (c : Nat) : Val :=
  match f with
  | .d8 => match f.dec c with
    | .fin s q => Fmt.f32.dec (Fmt.f32.roundFin false 0 0 s q)
    | v => v
  | _ => f.dec (f.flushVal ftz c)

/-! ## Exact operations with IEEE special cases (R126, R136, R138) -/

/-- The sign of an exact zero sum (R136). -/
def zeroSign (rm : Nat) (s1 s2 : Bool) : Bool := if s1 == s2 then s1 else rm == 2

/-- x + y; the rounding mode fixes the sign of an exact zero. -/
def Val.add (rm : Nat) : Val → Val → Val
  | .nan a, _ => .nan a
  | _, .nan b => .nan b
  | .inf s, .inf t => if s == t then .inf s else Val.cnan
  | .inf s, _ => .inf s
  | _, .inf t => .inf t
  | .fin s p, .fin t q =>
    let z := Q.add p q
    if z.num = 0 then .fin (if p.num = 0 && q.num = 0 then zeroSign rm s t else rm == 2) z
    else .fin (decide (z.num < 0)) z

/-- −x; a NaN keeps its sign. -/
def Val.neg : Val → Val
  | .nan a => .nan a
  | .inf s => .inf (!s)
  | .fin s q => .fin (!s) q.neg

/-- x × y. -/
def Val.mul : Val → Val → Val
  | .nan a, _ => .nan a
  | _, .nan b => .nan b
  | .inf s, .inf t => .inf (s != t)
  | .inf s, .fin t q => if q.num = 0 then Val.cnan else .inf (s != t)
  | .fin s p, .inf t => if p.num = 0 then Val.cnan else .inf (s != t)
  | .fin s p, .fin t q => .fin (s != t) (Q.mul p q)

/-- x × y + z as one exact operation with the NaN order x, y, z (R166). -/
def Val.fma (rm : Nat) (x y z : Val) : Val :=
  match x, y, z with
  | .nan a, _, _ => .nan a
  | _, .nan b, _ => .nan b
  | _, _, .nan c => .nan c
  | x, y, z => Val.add rm (Val.mul x y) z

/-- z − x × y with the NaN order x, y, z. -/
def Val.fnma (rm : Nat) (x y z : Val) : Val :=
  match x, y, z with
  | .nan a, _, _ => .nan a
  | _, .nan b, _ => .nan b
  | _, _, .nan c => .nan c
  | x, y, z => Val.add rm z (Val.neg (Val.mul x y))

/-- x / y (R169). -/
def Val.div : Val → Val → Val
  | .nan a, _ => .nan a
  | _, .nan b => .nan b
  | .inf _, .inf _ => Val.cnan
  | .inf s, .fin t _ => .inf (s != t)
  | .fin s _, .inf t => .fin (s != t) ⟨0, 1⟩
  | .fin s p, .fin t q =>
    if q.num = 0 then (if p.num = 0 then Val.cnan else .inf (s != t))
    else .fin (s != t) (Q.div p q)

/-- ⌊√n⌋, by setting the bits of the root from bit i − 1 down. -/
def isqrtFrom (n r : Nat) : Nat → Nat
  | 0 => r
  | i + 1 => let r' := r + 2 ^ i; isqrtFrom n (if r' * r' ≤ n then r' else r) i

/-- ⌊√n⌋. -/
def isqrt (n : Nat) : Nat := isqrtFrom n 0 (n.log2 / 2 + 1)

/-- √q of a positive value: exact where it is rational with q's denominator, else a value between the two neighbours of
its grid of 2^−220 over that denominator. Every rounding boundary of every format lies on that grid, so the value rounds
as the exact root does (R169). -/
def Q.sqrt (q : Q) : Q :=
  let n := q.num.natAbs * q.den * 2 ^ 440
  let k := isqrt n
  if k * k = n then ⟨Int.ofNat k, q.den * 2 ^ 220⟩ else ⟨Int.ofNat (2 * k + 1), q.den * 2 ^ 221⟩

/-- √x (R169). -/
def Val.sqrt : Val → Val
  | .nan a => .nan a
  | .inf s => if s then Val.cnan else .inf false
  | .fin s q => if q.num = 0 then .fin s q else if s then Val.cnan else .fin false q.sqrt

/-- 1 / x (R169). -/
def Val.rcp : Val → Val
  | .nan a => .nan a
  | .inf s => .fin s ⟨0, 1⟩
  | .fin s q => if q.num = 0 then .inf s else .fin s (Q.div ⟨1, 1⟩ q)

/-- 1 / √x (R169). -/
def Val.rsq : Val → Val
  | .nan a => .nan a
  | .inf s => if s then Val.cnan else .fin false ⟨0, 1⟩
  | .fin s q => if q.num = 0 then .inf s else if s then Val.cnan else .fin false (Q.div ⟨1, 1⟩ q).sqrt

/-- ⌊ln 2 × 2^256⌋. -/
def ln2Fix : Nat := 80260960185991308862233904206310070533990667611589946606122867505419956976171

/-- The sum of y^n / n! in fixed point of 256 fraction bits, from the term `t` = y^(n−1) / (n−1)! on. -/
def expSeries (y t n : Nat) : Nat → Nat
  | 0 => 0
  | fuel + 1 => t + expSeries y (t * y / 2 ^ 256 / n) (n + 1) fuel

/-- 2^q: exact for an integer q; otherwise correct to about 2^−240 of its binade, and never on a rounding boundary
(2^q is irrational). UNVERIFIED that no argument lies closer to a boundary; see the assumption log. -/
def Q.exp2 (q : Q) : Q :=
  let i := q.floor
  if i < -4000 then Q.dyadic 3 (-4000)
  else if 4000 < i then Q.dyadic 3 4000
  else
    let f := Q.add q ⟨-i, 1⟩
    if f.num = 0 then Q.dyadic 1 i
    else
      let y := f.num.toNat * ln2Fix / f.den
      Q.mul (Q.dyadic 1 i) ⟨Int.ofNat (2 * expSeries y (2 ^ 256) 1 70 + 1), 2 ^ 257⟩

/-- 2^x (R169). -/
def Val.exp2 : Val → Val
  | .nan a => .nan a
  | .inf s => if s then .fin false ⟨0, 1⟩ else .inf false
  | .fin _ q => .fin false q.exp2

/-- The sum of z^(2j+1) / (2j+1) in fixed point of 256 fraction bits. -/
def atanhSeries (z2 t n : Nat) : Nat → Nat
  | 0 => 0
  | fuel + 1 => t / n + atanhSeries z2 (t * z2 / 2 ^ 256) (n + 2) fuel

/-- log2 q of a positive value: exact for a power of two, else correct to about 2^−240. -/
def Q.log2 (q : Q) : Q :=
  let k := log2Floor q
  let m := Q.mul q (Q.dyadic 1 (-k))
  if Q.eq m ⟨1, 1⟩ then ⟨k, 1⟩
  else
    let z := (m.num.toNat - m.den) * 2 ^ 256 / (m.num.toNat + m.den)
    let s := atanhSeries (z * z / 2 ^ 256) z 1 100
    Q.add ⟨k, 1⟩ ⟨Int.ofNat (2 * (2 * s * 2 ^ 256 / ln2Fix) + 1), 2 ^ 257⟩

/-- log2 x (R169). -/
def Val.log2 : Val → Val
  | .nan a => .nan a
  | .inf s => if s then Val.cnan else .inf false
  | .fin s q => if q.num = 0 then .inf true else if s then Val.cnan
    else let l := q.log2; .fin (decide (l.num < 0)) l

/-- x × 2^n (R178). -/
def Val.ldexp (v : Val) (n : Int) : Val :=
  match v with
  | .fin s q => if q.num = 0 then .fin s q else .fin s (Q.mul q (Q.dyadic 1 (max (-4000) (min 4000 n))))
  | v => v

/-- Round a finite value to an integer under RM (R173, R176). -/
def roundInt (rm u : Nat) (q : Q) : Int :=
  let a := q.abs
  let k := a.floor
  let neg := decide (q.num < 0)
  let up := roundUpward rm neg (k % 2 == 1) (Q.add a ⟨-k, 1⟩) u
  let m := if up then k + 1 else k
  if neg then -m else m

/-! ## Element types of MODE.ET (R122, R145) -/

/-- Element width of an ET. -/
def etWidth (et : Nat) : Nat := if et ≤ 2 then 32 else if et ≤ 6 then 16 else 8

/-- Elements per word. -/
def etCount (et : Nat) : Nat := 32 / etWidth et

/-- Signed in the integer view of R145. -/
def etSigned (et : Nat) : Bool := !(et == 1 || et == 6 || et == 8)

/-- The format of a floating ET. -/
def etFmt (et : Nat) : Option Fmt :=
  match et with
  | 2 => some .f32 | 3 => some .f16 | 4 => some .bf16 | 9 => some .e4m3 | 10 => some .e5m2 | 11 => some .d8 | _ => none

/-- A floating ET (R165). -/
def etFloat (et : Nat) : Bool := (etFmt et).isSome

/-- Element k of a word as a number. -/
def elemCode (w : Nat) (x : Word) (k : Nat) : Nat := x.toNat / 2 ^ (w * k) % 2 ^ w

/-- The word whose elements, from element 0 up, are the codes of a list. -/
def packElems (w : Nat) : List Nat → Nat
  | [] => 0
  | c :: r => c % 2 ^ w + 2 ^ w * packElems w r

/-- A code of width w read signed. -/
def signedOf (w c : Nat) : Int := if c < 2 ^ (w - 1) then Int.ofNat c else Int.ofNat c - Int.ofNat (2 ^ w)

/-- `elem(x, k)` of R145. -/
def elemInt (et : Nat) (x : Word) (k : Nat) : Int :=
  let c := elemCode (etWidth et) x k
  if etSigned et then signedOf (etWidth et) c else Int.ofNat c

/-- The low w bits of an integer (R124). -/
def wrapInt (w : Nat) (z : Int) : Nat := (z % Int.ofNat (2 ^ w)).toNat

/-- Clamp to the range of the view (R124), as a w-bit code. -/
def clampInt (signed : Bool) (w : Nat) (z : Int) : Nat :=
  if signed then wrapInt w (max (-(Int.ofNat (2 ^ (w - 1)))) (min (Int.ofNat (2 ^ (w - 1)) - 1) z))
  else (max 0 (min (Int.ofNat (2 ^ w) - 1) z)).toNat

/-- Narrow an exact integer result under SAT (R146). -/
def narrowInt (sat : Bool) (et : Nat) (z : Int) : Nat :=
  if sat then clampInt (etSigned et) (etWidth et) z else wrapInt (etWidth et) z

/-- Apply a function to each element index and pack the codes. -/
def mapElems (et : Nat) (f : Nat → Nat) : Word :=
  BitVec.ofNat 32 (packElems (etWidth et) ((List.range (etCount et)).map f))

/-! ## The lane generator (R118) -/

/-- One round of the generator. -/
def rngNext (x : Word) : Word :=
  let a := x ^^^ (x <<< 13)
  let b := a ^^^ (a >>> 17)
  b ^^^ (b <<< 5)

/-- The generator states that a seed sets (R118). -/
def seedGens (seed : Word) : List Word :=
  (List.range 32).map fun l =>
    let g := seed ^^^ (BitVec.ofNat 32 ((l + 1) * 0x9E3779B1))
    if g = 0 then 1 else g

/-- The rounding settings of a MODE value (R111). -/
def roundingOf (mode : BitVec 16) : Rounding :=
  { rm := slice mode.toNat 10 8, sat := bitOf mode.toNat 11, ftz := bitOf mode.toNat 12, dnan := bitOf mode.toNat 13 }

/-- MODE.ET (R111). -/
def etOf (mode : BitVec 16) : Nat := slice mode.toNat 7 4

/-- Form the elements of a word in ascending order, each from the generator's next value under RSR (R134): `f k u` is the
code of element k. The generator after the instruction is returned beside the word. -/
def elemsRsr (w : Nat) (rsr : Bool) (f : Nat → Nat → Nat) : Nat → Nat → Word → List Nat × Word
  | _, 0, g => ([], g)
  | k, n + 1, g =>
    let g' := if rsr then rngNext g else g
    let rest := elemsRsr w rsr f (k + 1) n g'
    (f k g'.toNat :: rest.1, rest.2)

/-- A word of elements formed under MODE.RM, with the generator after it. -/
def wordRsr (et : Nat) (r : Rounding) (f : Nat → Nat → Nat) (g : Word) : Word × Word :=
  let p := elemsRsr (etWidth et) (r.rm == 5) f 0 (etCount et) g
  (BitVec.ofNat 32 (packElems (etWidth et) p.1), p.2)

end Sys2Proof.Machine
end

