-- ==== Sys2Proof/Machine/State.lean ====
section
/-!
DEFINITION. The state of one TZN-768 package as plain data, and its reset value.

The records follow the inventory chapters of the spec: package and front die (R9, R437), stacks and cores (R13), blocks,
groups and splits (R28, R98, R116), queues (R326, R327), links (R360), tables and counters. Fields that belong to the model
and not to the spec say so: identifiers, the agenda of what acts next, and items on their way between agents.
-/
namespace Sys2Proof.Machine

/-! ## Splits and groups -/

/-- Why a split waits (R51). The constructor carries what the wait is for. -/
inductive Wait where
  /-- Not waiting. -/
  | none
  /-- On pending loads or results, until none of them holds back one of the vector registers, the scalars or, with the flag, p6. -/
  | operand (vs ss : List Nat) (p6 : Bool)
  /-- On a page-table walk (an operand wait, R379). -/
  | walk
  /-- At `tlbinv` (an operand wait; not a stop point, R381). -/
  | frames
  /-- On the answer of a queue port to a request number (an operand wait; not a stop point, R339). -/
  | answer (req : Nat)
  /-- On a locked C region (R253). -/
  | cInterlock
  /-- Asleep at a queue, on a handle (R333). -/
  | queue (h : Nat)
  /-- On a take, a peek or a binding that failed at its home port and has no answer (R329): its request number and handle. -/
  | unanswered (req h : Nat)
  /-- Asleep at a lock word (R395). -/
  | lock (pa : Nat)
  /-- At `barwait` on a phase of the barrier at an S offset (R410). -/
  | barwait (off phase : Nat)
  /-- At `bsync` on a phase of the block barrier (R411). -/
  | bsync (phase : Nat)
  /-- At `cwait` (R416), on a counter in `glb` or at an S offset of a block: its destination register and threshold. -/
  | cwait (glb : Bool) (blk addr d least : Nat)
  /-- In a gathering copy (R272). -/
  | copy
  /-- At `bwait` (0), `mwait` (1), `qack` (2) or `wunsub` (3) (R51), with the number of batches it admits, the request number
  it covers, or the entry. -/
  | batch (kind n : Nat)
  /-- At `racq` (R163). -/
  | registers
  /-- In a joint matrix rendezvous (R280). -/
  | gang
  /-- At `splitsync` (R44). -/
  | rendezvous
  /-- Returned from a handler by `tret` (R187). -/
  | returned
  /-- Suspended after a precise fault (R208). -/
  | fault
  deriving DecidableEq, Repr

/-- The WAIT code of R116. -/
def Wait.code : Wait → Nat
  | .none => 0 | .operand _ _ _ => 1 | .walk => 1 | .frames => 1 | .answer _ => 1 | .cInterlock => 2 | .queue _ => 3 | .unanswered _ _ => 3
  | .lock _ => 4
  | .barwait _ _ => 5 | .bsync _ => 5 | .cwait _ _ _ _ _ => 5 | .copy => 5 | .batch _ _ => 6 | .registers => 7 | .gang => 8
  | .rendezvous => 9 | .returned => 9 | .fault => 10

/-- A leaf of the page tables as a translation cache holds it (R375, R376, R378). `vbase` and `size` give the page, `pbase`
its frame, and `gbase` the guest PA of its first byte where there are two stages; `hc`, `hstk` are the device extension of the leaf, `hc2`,
`hstk2` that of the second stage's leaf; `r2`, `w2`, `x2` are the permissions of the second stage. -/
structure TlbEntry where
  asid  : BitVec 16
  vmid  : BitVec 14
  vbase : Nat
  size  : Nat
  pbase : Nat
  r     : Bool
  w     : Bool
  x     : Bool
  u     : Bool
  g     : Bool
  d     : Bool
  hc    : Bool
  hstk  : Nat
  r2    : Bool
  w2    : Bool
  x2    : Bool
  gbase : Nat := 0
  hc2   : Bool := false
  hstk2 : Nat := 0
  deriving DecidableEq, Repr

/-- What a walk gave: a leaf, a page fault, or a failed leaf check that the walk itself makes; the flag marks the second
stage (R375). -/
inductive WalkResult where
  | leaf (e : TlbEntry)
  | pageFault (second : Bool)
  | protection (second : Bool)
  deriving DecidableEq, Repr

/-- A place of bytes: device memory at a PA, or a buffer of a block at an offset. -/
inductive Loc where
  | glb (pa : Nat)
  | buf (blk : Nat) (sp : Space) (off : Nat)
  deriving DecidableEq, Repr

/-- One split of a group (R38, R116). `age` is its creation number; the table shows its rank. `since` is the cycle it
became live or dormant (R43), `readyAt` the cycle it became ready (R47). `handler` marks a handler split (R187). `owed`
are the splits that `yield` still owes a turn, as (CTXID, age), and `owedTurns` the turns left of its 64 (R192). `qage` is the age with which it last slept at a queue (R334); `again`
is the phase that a split waited for when it was stopped or saved at `bsync`, which it executes again (R411).
`waitT` is the TIME at which its wait began. `stop` says that a pre-emption stopped it (R61). `walked` holds the walk results its instruction waits for, `inval` the frames as
(PA, size) whose accesses in flight its `tlbinv` waits for (R381), `early` the words that its next load has read ahead of the others, as
(place, from the home slice, bytes) (R301). -/
structure Split where
  age     : Nat
  pc      : BitVec 57
  mask    : LaneMask
  mode    : BitVec 16
  mmode   : BitVec 10
  gang    : BitVec 42
  live    : Bool
  since   : Nat
  readyAt : Nat
  wait    : Wait
  waitT   : Nat
  qdone   : Nat
  qage    : Nat
  again   : Option Nat
  handler : Bool
  stop    : Bool
  owed    : List (Nat × Nat)
  owedTurns : Nat
  walked  : List (Nat × WalkResult)
  inval   : List (Nat × Nat)
  early   : List (Loc × Bool × List Byte)
  deriving DecidableEq, Repr

/-- Where an atomic acts: a word of device memory, or a word of a block's S (R266). -/
inductive AtomTarget where
  | glb (pa : Nat)
  | scr (blk off : Nat)
  deriving DecidableEq, Repr

/-- An item of the group's store queue (R304): bytes of one aligned word (R302), one lane of an atomic, or a `fence`. `ins` is the tick at
which its instruction issued. `rel` is the level of a release (R306): 0 none or block scope, 1 cluster or stack scope, 2 system scope. A
`buf` store names the block whose buffer it reaches. An `atom` is one lane of a relaxed or releasing atomic (R267): OP, MODE,
operands, its declared use (R268; 0 where it is ignored; the model's own 5 and 6 mark an acquire of block scope and of a wider one), the pending result it answers if it has one, the key of the register lane that takes the
old word, and the lane. A `fence` is a release `fence` that binds later stores (R261). -/
inductive StoreOp where
  | glb (ins pa : Nat) (bytes : List Byte) (rel : Nat)
  | buf (ins blk : Nat) (sp : Space) (off : Nat) (bytes : List Byte) (rel : Nat)
  | atom (ins : Nat) (tgt : AtomTarget) (op : Nat) (mode : BitVec 16) (b d : Word) (rel use : Nat) (id : Option Nat) (key : Option Nat)
      (lane : Nat)
  | fence (rel : Nat)
  deriving DecidableEq, Repr

/-- What a pending result is (R170, R257, R267, R288). -/
inductive PendKind where
  | load | long | atomic | matrix
  deriving DecidableEq, Repr

/-- A result that has not arrived: lane writes at key 32 × register + lane, scalar writes, the registers held back, and
the lanes in which p6 is set or cleared (R269). `p6` holds p6 back, and `todo` counts the lanes of an atomic that have not
been performed; they name it by `id`. -/
structure Pend where
  kind  : PendKind
  vw    : List (Nat × Word)
  vregs : List Nat
  sw    : List (Nat × DWord)
  p6set : LaneMask
  p6clr : LaneMask
  p6    : Bool := false
  id    : Nat := 0
  todo  : Nat := 0
  deriving DecidableEq, Repr

/-- A delayed quantum reduction (R268): OP, MODE, target, operand, the cycle it was issued and the tick. -/
structure QuantumOp where
  op    : Nat
  mode  : BitVec 16
  tgt   : AtomTarget
  b     : Word
  cycle : Nat
  ins   : Nat
  deriving DecidableEq, Repr

/-- An open chain (R79 to R83): the split, the address of the head, the position and address of the next instruction, the
latch values (newest first, 32 lanes each), the registers read so far, whether the head writes what it reads, and the
lane generators at the head. -/
structure Chain where
  age   : Nat
  head  : BitVec 57
  pos   : Nat
  next  : BitVec 57
  lat   : List (List Word)
  vr    : List Nat
  sr    : List Nat
  pr    : List Nat
  viol  : Bool
  gens  : List Word
  deriving DecidableEq, Repr

/-- The handler save of R187 and R216: the faulting split's age, MODE, MMODE, GANG and lanes, the cause and TRAPPC. -/
structure Handler where
  age   : Nat
  mode  : BitVec 16
  mmode : BitVec 10
  gang  : BitVec 42
  mask  : LaneMask
  cause : Nat
  pc    : BitVec 57
  qdone : Nat
  deriving DecidableEq, Repr

/-- A put that the home port has not acknowledged (R332): the request number of its fill, or of the reservation that it waits for, the
`qfence`s before it (R344), and its place in the order in which the group's puts issued. -/
structure PutRef where
  req    : Nat
  epoch  : Nat
  ord    : Nat := 0
  deriving DecidableEq, Repr

/-- One group (R98). `v` is keyed 32 × register + lane, `s` and `p` by register number. `lanes` are the launched lanes,
`exited` those that have exited. `gens` are the 32 lane generators (R118). `rot` is the rotation counter (R43). `fetched`
are instruction words fetched ahead, by PA (R228, R262). `puts` are unacknowledged puts and `epoch` counts `qfence` (R344).
`heldRec` is a suspension record that waits in the group slot, with those of earlier suspensions ahead of it (R209, R212). `heard` are the puts of
other groups, as (CTXID, ord), that happen before what the group does next as far as an acquire tells (R306, R309). `begun` are the ticks of the
stores and atomics of which some item has left the store queue and some has not (R391). `bad` are registers that hold an uncorrectable word, by
the code that TRAPVAL gives them (R204). -/
structure Group where
  gid      : Nat
  slot     : Nat
  ctxid    : DWord
  attached : Bool
  lanes    : LaneMask
  exited   : LaneMask
  baseN    : Nat
  ext      : Nat
  v        : Sparse 32
  s        : Sparse 64
  p        : Sparse 32
  gens     : List Word
  srseed   : Word
  aquant   : BitVec 16
  trapCause : DWord
  trapPc    : DWord
  trapVal   : DWord
  trapLanes : DWord
  trapVec   : DWord
  splits   : List Split
  nextAge  : Nat
  rot      : Nat
  stq      : List StoreOp
  pend     : List Pend
  quantum  : List QuantumOp
  chain    : Option Chain
  handler  : Option Handler
  suspended : Bool
  fetched  : List (Nat × Word)
  puts     : List PutRef
  epoch    : Nat
  lastIssue : Nat
  heldRec  : List (BitVec 512)
  bad      : List Nat
  heard    : List (Nat × Nat)
  begun    : List Nat
  deriving DecidableEq, Repr

/-! ## Blocks -/

/-- A queue handle (R327); `dtag` is the tag copied from the translation entry (R329). The model's own: `opening` marks a handle
that a `qopen` holds while it waits for its binding, `asked` is the request number of a reservation under way, `esz` the
element size that the last grant carried back (R341), and `why` the reason for which it failed, 0 if it did not (R329). -/
structure Handle where
  vqn    : Nat
  rights : Nat
  bound  : Bool
  rseq   : Nat
  rcnt   : Nat
  pkg    : Nat
  front  : Bool
  stk    : Nat
  pq     : Nat
  kind   : Nat
  dep    : Bool
  dtag   : Nat
  opening : Bool
  asked  : Option Nat
  esz    : Nat
  why    : Nat
  deriving DecidableEq, Repr

/-- A subscription entry (R389) with the forwarder's open batch: updates as (mirror offset, bytes) and the cycle of the
first. STATE 0 free, 1 active, 2 parked, 3 orphaned. -/
structure Sub where
  st     : Nat
  reason : Nat
  pblk   : Nat
  poff   : Nat
  plen   : Nat
  moff   : Nat
  bar    : Bool
  boff   : Nat
  pcore  : Nat
  res    : Nat
  fwd    : Nat
  batch  : List (Nat × List Byte)
  since  : Nat
  deriving DecidableEq, Repr

/-- One slice of a gathering copy (R271, R272). -/
structure Slice where
  gid  : Nat
  age  : Nat
  d    : Nat
  dst  : DWord
  src  : DWord
  len  : Nat
  boff : Nat
  bar  : Bool
  soff : Nat
  slen : Nat
  deriving DecidableEq, Repr

/-- A running copy (R274, R275): its place in the order in which copies end gathering, its batch, the source pieces as
(place, length, bytes; none until they are read), the destination pieces still to land as (place, offset, length), and its
barrier. A `copym` (R275) holds instead the clusters still to reach, the rank, the destination space and offset, and the sectors still to land
in the receivers that it has reached, as (block, offset, length). -/
structure CopyOp where
  seq   : Nat
  batch : Nat
  srcs  : List (Loc × Nat × List Byte)
  dsts  : List (Loc × Nat × Nat)
  bar   : Option Nat
  clusters : List Nat
  rank  : Nat
  sp    : Space
  off   : Nat
  lands : List (Nat × Nat × Nat)
  deriving DecidableEq, Repr

/-- Where the image of a tile lies (R246, R247): register image bytes taken at issue, or a buffer of the block, with the bytes
as they were last taken, the ranges of C that earlier operations have locked, and the distances of the words that were uncorrectable when they
were taken (R254, R284, R285). -/
inductive TileLoc where
  | bytes (l : List Byte)
  | buf (sp : Space) (off : Nat) (rotc : Nat) (snap : List Byte) (late : List (Nat × Nat)) (bad : List Nat)
  deriving DecidableEq, Repr

/-- A source tile: its header and its place. -/
structure TileSrc where
  hdr : Nat
  loc : TileLoc
  deriving DecidableEq, Repr

/-- Where a result tile goes: registers from a header register up, which a pending result holds back, or a buffer. -/
inductive TileDst where
  | regs (reg : Nat)
  | buf (sp : Space) (off : Nat) (rotc : Nat)
  deriving DecidableEq, Repr

/-- The work of a matrix operation (R283, R292 to R297). `product` holds whether it starts from zero, the members' A tiles,
B, and the result header. The others hold the source or value and the template header of the destination. -/
inductive MatWork where
  | product (z : Bool) (as : List TileSrc) (b : TileSrc) (hdr : Nat)
  | cvtt (a : TileSrc) (hdr : Nat)
  | hadq (a : TileSrc) (hdr : Nat) (seed : Word) (slot : Nat)
  | transq (a : TileSrc) (hdr : Nat)
  | tfill (value : DWord) (hdr : Nat)
  deriving DecidableEq, Repr

/-- A matrix operation that has issued and not completed (R284): the number of its pending result, its batch, issuing groups with
their CTXIDs, work, destination and locked C bytes [lo, hi) (R253). -/
structure MatOp where
  id    : Nat
  batch : Nat
  gids  : List Nat
  ctxids : List DWord
  work  : MatWork
  dst   : TileDst
  lo    : Nat
  hi    : Nat
  deriving DecidableEq, Repr

/-- An arrival at a joint operation (R280): the group and split, `mmaz` or not, GANG, the member's A tile and the TRAPVAL that
names it, the D field and C pair value, the B field with its pair value, and the registers of B that member 0 supplies. -/
structure Arrival where
  gid  : Nat
  age  : Nat
  z    : Bool
  gang : BitVec 42
  a    : TileSrc
  aval : Nat
  d    : Nat
  cpair : Nat
  b    : TileRef
  bpair : Nat
  bregs : List Nat
  deriving DecidableEq, Repr

/-- A continuation that is due and not spawned (R413): S offset of the barrier, CPC, CLN and the completed phase. -/
structure Cont where
  boff  : Nat
  cpc   : Nat
  cln   : Nat
  phase : Nat
  deriving DecidableEq, Repr

/-- A standing pre-emption request (R61): TIME of the request, whether the 20 µs have passed, and HOLD (R211). -/
structure Preempt where
  t0     : Nat
  forced : Bool
  hold   : Bool
  deriving DecidableEq, Repr

/-- Where a block stands (R31, R64, R66). A saved block has its context area in device memory at a PA; a
size of 0 marks a context that was found invalid (R217). -/
inductive BlockPlace where
  | resident
  | saved (pa size : Nat)
  deriving DecidableEq, Repr

/-- A started block (R28): its launch and index, its place, buffers, barrier, batches, handles, subscriptions, groups, and
what its engines hold. `expect` are the groups from which a gathering copy still takes slices (R272, R276), `poisonBatches` the matrix
batches that met an uncorrectable word, as (batch, group, tagged address) (R285). `bars` are the S offsets of the
words on which a barrier event has acted (R401). `bar` is the block barrier in the layout of R400 with ARR in <79:48> (R405). `draining`
are groups that ended with stores, pending results or puts still in flight (R191). `wdogAt` is the TIME of its last WATCHDOG record and
`emptySince` that at which its last group ended (R66). `lin` is the linear
index of R36, `rank` its rank in the cluster launch (R221), `seq` its start order. -/
structure Block where
  uid      : Nat
  launch   : Nat
  lin      : Nat
  bx       : Nat
  blky     : Nat
  bz       : Nat
  stk      : Nat
  core     : Nat
  rank     : Nat
  seq      : Nat
  place    : BlockPlace
  nln      : Nat
  baseN    : Nat
  S        : Sparse 8
  W        : Sparse 8
  X        : Sparse 8
  C        : Sparse 8
  par      : Sparse 8
  sSize    : Nat
  wSize    : Nat
  xSize    : Nat
  cSize    : Nat
  parSize  : Nat
  bar      : Nat
  cbseq    : Nat
  cbdone   : Nat
  mbseq    : Nat
  mbdone   : Nat
  cbopen   : Bool
  mbopen   : Bool
  copies   : List CopyOp
  matops   : List MatOp
  gather   : List Slice
  expect   : List Nat
  arrivals : List Arrival
  handles  : Assoc Handle
  subs     : Assoc Sub
  yieldreq : Nat
  eused    : Nat
  eres     : Int
  throttled : Bool
  groups   : List Group
  draining : List Group
  conts    : List Cont
  preempt  : Option Preempt
  held     : Bool
  ending   : Bool
  wdogAt   : Nat
  emptySince : Nat
  poisonBatches : List (Nat × Nat × Nat)
  bars     : List Nat
  far      : List (Nat × Nat)
  deriving DecidableEq, Repr

/-! ## Launches, graphs, partitions -/

/-- A block that has not started: linear index, the stack that holds it and the cluster, if one has it (R31 to R36). -/
structure Unstarted where
  lin  : Nat
  stk  : Nat
  clus : Option Nat
  deriving DecidableEq, Repr

/-- An admitted grid (R421): the record of R348 with ASID and VMID in force, its partition, privilege, the snapshot of its
layout record (R384), its `.preempt` table (R95), its parameter bytes, the unstarted blocks, the energy pool GPOOL, the
energy used by its retired blocks, and the graph instance and node it runs for. `status` is STATUS of R350, `cq` the
completion queue as its entry named it at admission, `start` its place in the order of admission. -/
structure Launch where
  uid     : Nat
  record  : Nat
  part    : Nat
  priv    : Bool
  layout  : Option Nat
  table   : List Nat
  params  : List Byte
  waiting : List Unstarted
  total   : Nat
  retired : Nat
  held    : Bool
  gpool   : Int
  used    : Nat
  status  : Nat
  inst    : Option (Nat × Nat)
  start   : Nat
  cq      : Option Handle
  deriving DecidableEq, Repr

/-- A launch with nothing in it. -/
def Launch.empty : Launch :=
  { uid := 0, record := 0, part := 0, priv := false, layout := none, table := [], params := [], waiting := [], total := 0,
    retired := 0, held := false, gpool := 0, used := 0, status := 0, inst := none, start := 0, cq := none }

/-- A launch record that passed its checks and waits for admission, in order of arrival (R421): set aside while it is not ready, the TIME since
when every reading of its graph's VER has found it odd, and whether its WATCHDOG record has been written (R399). -/
structure Admit where
  seq   : Nat
  l     : Launch
  aside : Bool
  odd   : Option Nat
  wdog  : Bool
  deriving DecidableEq, Repr

/-- A running graph instance (R352, R398): its launch, the copy of the table (header, node entries, and the templates with their
parameters, tables and layout snapshots), its descriptors, its energy pool and the energy used by its blocks. -/
structure Inst where
  uid   : Nat
  l     : Launch
  hdr   : Nat
  nodes : List Nat
  tmpl  : List Launch
  pqs   : List Nat
  pool  : Int
  used  : Nat
  deriving DecidableEq, Repr

/-- The registers of a partition (R420, R438): the front block, and for each stack CPBASE, CPSIZE, SHM0 to SHM5 and SVCQ.
`written` are the registers of R432 written since EXIST was set. -/
structure Partition where
  exist    : Bool
  written  : List Nat
  procroot : DWord
  xpte     : Bool
  eacct    : Int
  pcap     : Nat
  emax     : Int
  resq     : DWord
  cpbase   : List DWord
  cpsize   : List DWord
  shm      : List (List DWord)
  svcq     : List DWord
  deriving DecidableEq, Repr

/-- An allocated context area (R214). -/
structure CtxArea where
  part : Nat
  stk  : Nat
  pa   : Nat
  size : Nat
  deriving DecidableEq, Repr

/-- A pre-emption record of the operating system under way (R211): its LID and the launch it names, HOLD, the blocks it still waits for and how many have
been saved. -/
structure PreReq where
  lid   : Nat
  launch : Nat
  hold  : Bool
  left  : List Nat
  saved : Nat
  deriving DecidableEq, Repr

/-! ## Queues -/

/-- The producer of an element (R328) or another source of messages. -/
inductive Producer where
  | handle (blk h : Nat)
  | agent (stk part h : Nat)
  | source (win : Nat)
  | cp
  | host (n : Nat)
  deriving DecidableEq, Repr

/-- Who sent a message, as a fault log names it (R366): package, stack, core, group slot, handle and launch identifier. -/
structure Origin where
  pkg  : Nat := 0
  stk  : Nat := 0
  core : Nat := 0
  slot : Nat := 0
  h    : Nat := 0
  lid  : Nat := 0
  deriving DecidableEq, Repr

/-- The group and split that an answer goes to, its request number, the register field it writes, the age with which the split
last slept at the queue (R334; 0 for none), the handle with its number, and, for a reservation by a put, its OP of R366 with
the bytes of the elements to fill (R341, R345). A binding holds its pair there (R456). `bad` are the words of a taken element that are
uncorrectable (R219), and `esz` is the size code for which the instruction was checked (R341). -/
structure RetTo where
  blk : Nat
  gid : Nat
  age : Nat
  req : Nat
  d   : Nat
  wage : Nat
  h   : Nat
  hd  : Handle
  op  : Nat
  data : List Byte
  who : Origin := {}
  bad : List Nat := []
  esz : Nat := 0
  deriving DecidableEq, Repr

/-- The state of a cell (R330); a cell not held in the list is free. -/
inductive CellState where
  | reserved | filled | void | taken
  deriving DecidableEq, Repr

/-- One cell between HEAD and RSV: its sequence number, producer and state, whether a filled payload lies in cell SRAM
or still in the super (R325), and the group that reserved it. -/
structure Cell where
  seq   : Nat
  prod  : Producer
  st    : CellState
  sram  : Bool
  gid   : Nat
  deriving DecidableEq, Repr

/-- The operation of a take (R342); `qgets` names the 16-byte places it writes. -/
inductive TakeKind where
  | get | gets (at_ : List Loc) | try_
  deriving DecidableEq, Repr

/-- A waiter of a queue (R333): the group and split, its handle, whether it waits to take, and its age. `out` names the outside agent that
a waiter of another package or a Juazo core belongs to, with the die that its answers go to, and `put` the copy of a put that sleeps at the port (R353). -/
structure Waiter where
  blk   : Nat
  gid   : Nat
  split : Nat
  h     : Nat
  take  : Bool
  age   : Nat
  out   : Option (Nat × Nat) := none
  put   : Option Nat := none
  deriving DecidableEq, Repr

/-- A deposit binding (R335): the block and handle, the space and base, DLEN and LCOFF. `lcat` is where the counter lies: a PA or
an S offset. `landed` are the words of elements that have landed ahead of the rest, as (sequence, word) (R302). -/
structure Binding where
  blk   : Nat
  h     : Nat
  glb   : Bool
  base  : Nat
  dlen  : Nat
  lcoff : Nat
  lcat  : Nat
  landed : List (Nat × Nat) := []
  deriving DecidableEq, Repr

/-- A queue descriptor (R326) with the states of its cells and its wake list. `owner` is the launch queue's owner as
(partition, ASID, VMID), the model's own field for R348. `dueTakes` and `dueRsvs` are the wakes that a port holds back while its compute
die is in reset (R334). -/
structure Desc where
  valid : Bool
  sys   : Bool
  kind  : Nat
  dep   : Bool
  order : Bool
  esz   : Nat
  win   : Nat
  wbase : Nat
  ssize : Nat
  sbase : Nat
  coal  : Nat
  dtag  : Nat
  head  : Nat
  rsv   : Nat
  puts  : Nat
  takes : Nat
  cells : List Cell
  wake  : List Waiter
  bind  : Option Binding
  owner : Nat × BitVec 16 × BitVec 14
  dueTakes : Nat
  dueRsvs : Nat
  deriving DecidableEq, Repr

/-- What a message asks of a home port (R340 to R345, R388). A fill names its OP of R366, and the reason of the failed grant it uses. A
`put` is a whole put by an agent, a command processor or a Juazo core: it waits for cells and fills them. -/
inductive MsgBody where
  | reserve (n : Nat) (ret : RetTo)
  | fill (op seq cells why : Nat) (data : List Byte)
  | put (data : List Byte)
  | take (kind : TakeKind) (ret : RetTo)
  | peek (ret : RetTo)
  | bind (b : Binding) (ret : RetTo)
  | close (first cells : Nat) (unbind : Bool)
  | desc (image : BitVec 512) (ret : RetTo)
  deriving DecidableEq, Repr

/-- Where a message stands (R354): at a die (0 to 3 the base dies, 4 the front die, 8 to 11 the compute dies), in the slots of a module of
a boundary at one end, or outside the package. -/
inductive Standing where
  | here (die : Nat)
  | riding (w b m : Nat)
  | away
  deriving DecidableEq, Repr

/-- A message on its way to a home port (R362): its request number, home (package, window, descriptor), tag, kind wanted,
virtual number, producer, producing group, TIME it was last sent, and the number of `qfence`s before it. The model's own: who sent it, a
number for this copy of it, where the copy stands, whether it sleeps at its home as a reserve-waiter, and the age with which it last slept
(R353). -/
structure Msg where
  req   : Nat
  pkg   : Nat
  win   : Nat
  pq    : Nat
  dtag  : Nat
  kind  : Nat
  vqn   : Nat
  prod  : Producer
  blk   : Nat
  gid   : Nat
  sent  : Nat
  epoch : Nat
  body  : MsgBody
  who   : Origin := {}
  load  : Nat := 0
  at_   : Standing := .here 0
  asleep : Bool := false
  wage   : Nat := 0
  deriving DecidableEq, Repr

/-- What a home port answers (R332, R340 to R343, R388). Two are the model's own: `lost` of a failing operation that returns nothing (R329), and
`again` where the queue has another element size than the one for which the instruction was checked: it executes again (R341). -/
inductive AnswerBody where
  | grant (first g esz why : Nat) (ret : RetTo)
  | taken (kind : TakeKind) (seq : Nat) (data : List Byte) (ret : RetTo)
  | nothing (ret : RetTo)
  | sleep (ret : RetTo)
  | lost (ret : RetTo)
  | again (ret : RetTo)
  | counts (elems cells : Nat) (ret : RetTo)
  | bound (ok : Bool) (ret : RetTo)
  | desc (refused : Bool) (ret : RetTo)
  | ack (req : Nat) (blk gid : Nat)
  | wake (blk gid split : Nat)
  deriving DecidableEq, Repr

/-- An answer on its way back: a number for it, where it stands, the die it goes to (16 + PKG for another package), the outside agent that it is
for, if one, and what it says. -/
structure Reply where
  load : Nat
  at_  : Standing
  dst  : Nat
  body : AnswerBody
  out  : Option Nat := none
  deriving DecidableEq, Repr

/-- One queue port (R322): descriptors, cell SRAM bytes at 64 × cell + byte, the answers recorded for a producer's request numbers
(R362), the overflow list of waiters, the staging of PREPLAY, and which descriptor is the port's fault log (R366). -/
structure Port where
  descs   : Assoc Desc
  cells   : Sparse 8
  answers : List (Producer × Nat × AnswerBody)
  overflow : List (Nat × Waiter)
  replay  : BitVec 4096
  replaying : Bool
  flogPq  : Nat
  deriving DecidableEq, Repr

/-! ## Stacks, cores, links -/

/-- One lock of a stack's lock tables (R395): slice, PA, owner's CTXID and the waiters in FIFO order as (block, GID, age). -/
structure LockEntry where
  slice  : Nat
  pa     : Nat
  owner  : DWord
  order  : Nat
  waiters : List (Nat × Nat × Nat)
  deriving DecidableEq, Repr

/-- A page-table walk under way (R379): who waits, the address space, the VA and the kind of access (0 read, 1 write, 2 fetch,
3 both). -/
structure Walk where
  blk   : Nat
  gid   : Nat
  age   : Nat
  asid  : BitVec 16
  vmid  : BitVec 14
  va    : Nat
  kind  : Nat
  deriving DecidableEq, Repr

/-- One compute stack (R9): reset of its compute die (R238), CYCLE (R417), the counters of R425, its slice of the
second-level translation cache (R378), walks, lock tables with the waiters on a slice's table space as (slice, block, GID, age), and
the next CTXID. -/
structure Stack where
  dieReset : Bool
  cycle    : Nat
  faults   : Assoc Nat
  corrected : Assoc Nat
  tlb      : List TlbEntry
  walks    : List Walk
  locks    : List LockEntry
  lockSpace : List (Nat × Nat × Nat × Nat)
  lockSeq  : Nat
  nextCtx  : Nat
  deriving DecidableEq, Repr

/-- A sub-array of a core's matrix unit (R298): whether it is gated, and the cycle its wake ends. -/
structure SubArray where
  gated : Bool
  wake  : Option Nat
  deriving DecidableEq, Repr

/-- One core: first-level translation cache (R378), L1 lines of 64 bytes by PA (R230), MGATE and MWAKELAT (R119), matrix
sub-arrays and the cycle from which their idle counts run (R298), the group slot that last started a turn (R48), the group slot that owns each issue slot's open chain, and the
waiting `racq` requests in order as (block, GID, age, n, D) (R106). -/
structure Core where
  tlb     : List TlbEntry
  l1      : List (Nat × List Byte)
  mgate   : BitVec 16
  mwakelat : BitVec 16
  subs    : Assoc SubArray
  idle    : Nat
  lastSlot : Nat
  slots   : List (Option Nat)
  racq    : List (Nat × Nat × Nat × Nat × Nat)
  deriving DecidableEq, Repr

/-- A flit in a replay buffer (R357): SEQ, the flit, the TIME it was last sent. The model's own: its payload as it was first made up, with
its class and the messages whose last slot it holds, and, of a flit sent on for dead modules (R359), each dead module with its SEQ,
the one it was sent on for last first. -/
structure Sent where
  seq  : Nat
  flit : BitVec 2048
  at_  : Nat
  cls  : Nat
  payload : BitVec 1920
  ends : List Nat
  dead : List (Nat × Nat)
  deriving DecidableEq, Repr

/-- A message that waits for slots of a module (R456): its class, the slots that are left, its number if it is a message of the
queue layer, and whether some of its slots have left. -/
structure Ready where
  cls   : Nat
  slots : List (BitVec 128)
  load  : Option Nat
  begun : Bool
  deriving DecidableEq, Repr

/-- One end of a module (R357 to R360): receiver e and n, transmitter SEQ and replay buffer, LSTAT fields, the TIMEs of CRC
failures, retraining as (a driver asked for it, TIME of its start), whether this end started it, flits taken over from dead modules
as (module, flit), the payloads delivered as (class, payload), the flits on their way to the other end, the credits held for each
class, the messages that wait for slots, and for each class the receive buffers that accepted flits have freed and the credits
returned so far (R355, R456). -/
structure LinkEnd where
  e        : Nat
  nak      : Bool
  txSeq    : Nat
  buf      : List Sent
  retrains : Nat
  crcerr   : Nat
  replays  : Nat
  half     : Nat
  down     : Bool
  width    : Nat
  fails    : List Nat
  training : Option (Bool × Nat)
  leads    : Bool
  rescue   : List (Nat × Sent)
  got      : List (Nat × BitVec 1920)
  out      : List (BitVec 2048)
  credits  : Assoc Nat
  ready    : List Ready
  freed    : Assoc Nat
  given    : Assoc Nat
  deriving DecidableEq, Repr

/-! ## The front die and the package -/

/-- A source of records (R371, R373): outbox, summary counters, EVSTAT.OVF and the refusal bit of its window (R436). -/
structure EvSource where
  outbox  : List (BitVec 512)
  summary : Assoc Nat
  ovf     : Bool
  refused : Bool
  deriving DecidableEq, Repr

/-- The power controller (R22 to R24): the arithmetic clock in MHz, whether the clamp is in force, the lowest clock since it
began, whether a sample reached 4,400 W since the last decision, the 10 ms average, the TIMEs of the last decision and sample, and the samples
of the last 10 ms, newest first. -/
structure Power where
  clamp  : Bool
  mhz    : Nat
  low    : Nat
  peak   : Bool
  avg    : Nat
  lastDecision : Nat
  lastSample : Nat
  samples : List Nat := []
  deriving DecidableEq, Repr

/-- An attestation report (R429): the device's public keys, the measurements of the ROM and of both images, the versions of both images, the nonce,
and the signatures with both device keys. -/
structure Report where
  keys     : List Byte × List Byte
  rom      : BitVec 384
  firmware : BitVec 384
  config   : BitVec 384
  versions : DWord × DWord
  nonce    : BitVec 512
  ed       : List Byte
  mldsa    : List Byte
  deriving DecidableEq, Repr

/-- Start-up state (R427 to R431): BOOTSTAT, the scrub classes disabled, bifurcation, boot source, the firmware image and the configuration image
of this start, and the last attestation report. -/
structure Boot where
  step   : Nat
  err    : Nat
  tries  : Nat
  scrubOff : List Nat
  bifurc : BitVec 16
  bootSrc : DWord
  images : Option (BootImage × BootImage)
  report : Option Report
  deriving DecidableEq, Repr

/-- The checkpoint engine (R439): LIST, PATH and STATUS of CKCTL, and the lines of HBM that it has copied (R27). -/
structure Checkpoint where
  list   : DWord
  path   : Bool
  status : Nat
  copied : Nat := 0
  deriving DecidableEq, Repr

/-- A queue translation that a source port caches (R387): port, partition, ASID, virtual number and entry. -/
structure QueueXlate where
  port  : Nat
  part  : Nat
  asid  : BitVec 16
  vqn   : Nat
  entry : Nat
  deriving DecidableEq, Repr

/-- A layout record that a core caches (R385): core key, partition, ASID, slot and record. -/
structure LayoutCopy where
  core  : Nat
  part  : Nat
  asid  : BitVec 16
  slot  : Nat
  record : Nat
  deriving DecidableEq, Repr

/-- A remote arrival on its way (R409): the issuing block and group, the block and S offset of the barrier, and the sectors to add. -/
structure RemoteArrival where
  src : Nat × Nat
  blk : Nat
  off : Nat
  n   : Nat
  deriving DecidableEq, Repr

/-- A flushed subscription batch on its way (R391): subscriber block and entry, updates, and whether a remainder counts. -/
structure SubBatch where
  blk  : Nat
  ent  : Nat
  upd  : List (Nat × List Byte)
  rem  : Bool
  orphan : Bool
  deriving DecidableEq, Repr

/-- A cached leaf of the IOMMU (R369): its GSCID and PSCID where a stage tags it so, the page, its frame, the guest PA of its first byte, and
what it permits. -/
structure IoEntry where
  gscid : Option Nat
  pscid : Option Nat
  vbase : Nat
  size  : Nat
  pbase : Nat
  gbase : Nat
  r     : Bool
  w     : Bool
  x     : Bool
  u     : Bool
  g     : Bool
  deriving DecidableEq, Repr

/-- The IOMMU (R369): the registers of the RISC-V IOMMU architecture (assumption 114), and what it caches: device contexts by device, process
contexts by (device, process), and leaves. `asked` are the ATS invalidations that a device has not answered. -/
structure Iommu where
  fctl   : Nat := 0
  ddtp   : Nat := 0
  cqb    : Nat := 0
  cqh    : Nat := 0
  cqt    : Nat := 0
  cqcsr  : Nat := 0
  fqb    : Nat := 0
  fqh    : Nat := 0
  fqt    : Nat := 0
  fqcsr  : Nat := 0
  pqb    : Nat := 0
  pqh    : Nat := 0
  pqt    : Nat := 0
  pqcsr  : Nat := 0
  ipsr   : Nat := 0
  icvec  : Nat := 0
  msiCfg : Assoc Nat := []
  dcs    : List (Nat × List Nat) := []
  pcs    : List (Nat × Nat × List Nat) := []
  tlb    : List IoEntry := []
  asked  : List Nat := []
  deriving DecidableEq, Repr

/-- One interrupt file of an IMSIC (R370): delivery, threshold, and a pending and an enable bit for each of the identities 1 to 511. -/
structure ImsicFile where
  delivery  : Nat := 0
  threshold : Nat := 0
  eip       : BitVec 512 := 0
  eie       : BitVec 512 := 0
  deriving DecidableEq, Repr

/-- The APLIC (R370): domain configuration, source modes, pending and enable bits, and targets. -/
structure Aplic where
  domaincfg : Nat := 0
  sourcecfg : Assoc Nat := []
  ip        : BitVec 8 := 0
  ie        : BitVec 8 := 0
  target    : Assoc Nat := []
  deriving DecidableEq, Repr

/-- What an outside agent receives: the answer to a bus access, an MSI, the answer to a message, an ATS completion (its device, virtual and
physical address, size, and the permissions it grants; 0 for none), an ATS invalidation, the answer to a page request, an access to an aperture, a
line of the image of a checkpoint, and an attestation report (R371, R368, R369, R435, R437, R439, R429). -/
inductive HostOut where
  | data (who : Nat) (bytes : List Byte)
  | error (who : Nat)
  | msi (addr eiid : Nat)
  | answer (who : Nat) (a : AnswerBody)
  | translated (dev va pa size perm : Nat)
  | invalidate (dev : Nat) (pid : Option Nat) (payload tag : Nat)
  | pageResponse (dev : Nat) (pid : Option Nat) (payload : Nat)
  | peer (who pa : Nat) (write : Option (List Byte)) (len : Nat)
  | image (path : Bool) (target : Nat) (bytes : List Byte)
  | report (who : Nat) (r : Report)
  deriving DecidableEq, Repr

/-- The split that issues: block, group and split age. -/
structure Cur where
  blk : Nat
  gid : Nat
  age : Nat
  deriving DecidableEq, Repr

/-- A store on its way from a core to a home slice (R235, R305): the core, its group's CTXID, the slice, and the bytes. -/
structure Transit where
  core  : Nat
  ctx   : DWord
  slice : Nat
  pa    : Nat
  bytes : List Byte
  deriving DecidableEq, Repr

/-- What drivers and devices do at the front die outside the rows of the table: reads and writes of IOMMU registers, the IOMMU's next command, a page
request, a device's answer to an invalidation (R369); writes of an IMSIC register by its Juazo core and the claim of its top interrupt, writes of an
APLIC register and the MSI of a pending source (R370); the performance of a waiting DMA access (R368); and `n` lines of a checkpoint (R439). -/
inductive FrontAct where
  | iommuRead (who off : Nat)
  | iommuWrite (off v : Nat)
  | command
  | pageRequest (lo hi : Nat)
  | invalidated (tag : Nat)
  | imsicWrite (core file reg v : Nat)
  | imsicClaim (core file : Nat)
  | aplicWrite (off v : Nat)
  | aplicSend (k : Nat)
  | dma (k : Nat)
  | checkpoint (n : Nat)
  deriving DecidableEq, Repr

/-- What acts next. `issue`: an issue slot of a core takes its turn (R48). `event`: a row of the table that is a device
event. `elapse`: CYCLE and TIME advance. `arrive`: a message of a Juazo core or of another package reaches the port.
`depart`: a message that has left for another package is answered from outside, at a base die. `poison`, `poisonReg`: a storage
word or a register becomes uncorrectable. `root`, `root2` and `extension`: the operating system points an address space at its
page-table root, or sets JCFG on the Juazo cores of a partition (R376). `ride`: the k-th message, or the k-th answer, goes into the slots of
module m of a boundary on its way (R354, R456). `offer`: a message of another class of traffic goes into slots there. `transmit`: a
module's transmitter sends a flit of a class (R355, R456).
`sample`: the matrix unit reads words of the sources of the k-th operation of a block (R254). `land`: the k-th store in transit reaches
its slice (R235). `glimpse`: a load about to issue reads one word ahead of its others (R301). `poisonCell`, `poisonLine`: a word of cell SRAM, or of
an L1 copy, becomes uncorrectable (R219). `front`: see `FrontAct`. -/
inductive Act where
  | issue (stk core slot : Nat)
  | event (i : Instr) (x : EvArg)
  | elapse (cycles ns : Nat)
  | arrive (m : Msg)
  | depart (k w : Nat) (a : AnswerBody)
  | poison (l : Loc)
  | poisonReg (blk gid code : Nat)
  | root (asid : BitVec 16) (vmid : BitVec 14) (pa : Nat)
  | root2 (vmid : BitVec 14) (pa : Nat)
  | extension (part : Nat) (on : Bool)
  | ride (answer : Bool) (k b m : Nat)
  | offer (w b m cls : Nat) (slots : List (BitVec 128))
  | transmit (w b m cls : Nat)
  | sample (blk k : Nat)
  | land (k : Nat)
  | glimpse (c : Cur) (l : Loc) (fresh : Bool)
  | cutCopy (blk k what n m : Nat)
  | cutBatch (k m : Nat)
  | depositWord (w pq j : Nat)
  | remoteWake (w : Nat) (c : Cur)
  | portDesc (k : Nat)
  | poisonCell (w word : Nat)
  | poisonLine (core pa : Nat)
  | front (x : FrontAct)
  deriving DecidableEq, Repr, Inhabited

/-- The whole package. `mem` is device memory by PA; a byte that is not listed reads 0. `roots` holds the page-table root
of an address space, as (ASID, VMID, PA), and `roots2` that of a second stage. `qcache` and `lcache` hold the cached queue
translations and layout records, `rcache` the cached root entries. `jcfg` are the partitions whose Juazo cores have JCFG set (R376). `kept` are the messages that a source port keeps until
they are answered (R362). `agenda`, `tick`, `cur`, `ev`, `net`, `replies` and the identifiers `next…` are the model's own; `latched` are the entries latched by a read of their first piece, as (window, offset,
bytes) (R435); `refills` counts the microseconds of TIME for which EACCT has been refilled (R420). `badCells` are the uncorrectable words of cell SRAM as
(port, word), `badLines` those of L1 copies as (core, PA) (R219). `imsics` holds the interrupt files by 16 × core + file, `dma` the accesses of PCI Express
functions that wait, in order (R368). -/
structure State where
  mem      : List Host.Cell
  poisoned : List Loc
  badCells : List (Nat × Nat)
  badLines : List (Nat × Nat)
  blocks   : List Block
  launches : List Launch
  admits   : List Admit
  insts    : List Inst
  parts    : Assoc Partition
  areas    : List CtxArea
  prereqs  : List PreReq
  dies   : List Stack
  cores    : Assoc Core
  ports    : List Port
  links    : Assoc LinkEnd
  sources  : List EvSource
  evPq     : Nat
  msiPending : Bool
  evmsi    : DWord
  power    : Power
  boot     : Boot
  ckpt     : Checkpoint
  iommu    : Iommu
  imsics   : Assoc ImsicFile
  aplic    : Aplic
  dma      : List BusAccess
  pkg      : BitVec 10
  conngrp  : BitVec 32
  connmap  : BitVec 32
  connbusy : Option (BitVec 32 × Nat × Bool)
  jcfg     : List Nat
  time     : Nat
  refills  : Nat
  epkg     : Nat
  transit  : List Transit
  remote   : List RemoteArrival
  subnet   : List SubBatch
  net      : List Msg
  kept     : List Msg
  replies  : List Reply
  nextLoad : Nat
  qcache   : List QueueXlate
  rcache   : List (Nat × BitVec 16 × Nat)
  lcache   : List LayoutCopy
  roots    : List (BitVec 16 × BitVec 14 × Nat)
  roots2   : List (BitVec 14 × Nat)
  latched  : List (Nat × Nat × List Byte)
  hostOut  : List HostOut
  nextUid  : Nat
  nextReq  : Nat
  waitAge  : Nat
  cur      : Option Cur
  ev       : EvArg
  agenda   : List Act
  tick     : Nat
  deriving DecidableEq, Repr

/-- Why the machine stops. -/
inductive Fault where
  /-- Raised by the meaning of an instruction word when `State.cur` names no split that issues. Safe: the step never issues
  without a split, so it only ends a use of `exec` that the device has no counterpart of. -/
  | noIssuer
  deriving DecidableEq, Repr

/-- Why an instruction has no meaning. -/
inductive Refusal where
  /-- Raised by a refused arm of `exec`: the instruction is not modelled. Safe: the model says nothing about it. -/
  | notModelled (mnemonic : String)
  deriving DecidableEq, Repr

/-! ## Reset -/

/-- A stack after reset: nothing resident, counters 0 (R425). -/
def Stack.reset : Stack :=
  { dieReset := false, cycle := 0, faults := [], corrected := [], tlb := [], walks := [], locks := [], lockSpace := [],
    lockSeq := 0, nextCtx := 0 }

/-- A core after reset: MGATE 1,024, MWAKELAT 96 (R117). -/
def Core.reset : Core :=
  { tlb := [], l1 := [], mgate := 1024, mwakelat := 96, subs := [], idle := 0, lastSlot := 63, slots := [none, none], racq := [] }

/-- A queue that does not exist: every field 0 (R326). -/
def Desc.reset : Desc :=
  { valid := false, sys := false, kind := 0, dep := false, order := false, esz := 0, win := 0, wbase := 0, ssize := 0,
    sbase := 0, coal := 0, dtag := 0, head := 0, rsv := 0, puts := 0, takes := 0, cells := [], wake := [], bind := none,
    owner := (0, 0, 0), dueTakes := 0, dueRsvs := 0 }

/-- A queue port after reset. -/
def Port.reset : Port :=
  { descs := [], cells := [], answers := [], overflow := [], replay := 0, replaying := false, flogPq := 4095 }

/-- One end of a 64-lane module after reset (R360). The credits of R355 have no reset value in the spec: 0 (assumption 12). -/
def LinkEnd.reset : LinkEnd :=
  { e := 0, nak := false, txSeq := 0, buf := [], retrains := 0, crcerr := 0, replays := 0, half := 0, down := false,
    width := 64, fails := [], training := none, leads := false, rescue := [], got := [], out := [], credits := [], ready := [],
    freed := [], given := [] }

/-- A source of records after reset. -/
def EvSource.reset : EvSource := { outbox := [], summary := [], ovf := false, refused := false }

/-- SHM0 to SHM5 at reset (R234). -/
def shmReset : List DWord := [0x1040, 0x2080, 0x4100, 0x8200, 0x10400, 0x20800]

/-- A partition that does not exist (R438). -/
def Partition.reset : Partition :=
  { exist := false, written := [], procroot := 0, xpte := false, eacct := 0, pcap := 0, emax := 0, resq := 0,
    cpbase := [0, 0, 0, 0], cpsize := [0, 0, 0, 0], shm := [shmReset, shmReset, shmReset, shmReset], svcq := [0, 0, 0, 0] }

/-- The package right after reset (R427): nothing is resident, every table is empty, TIME and CYCLE are 0, BOOTSTAT is 0,
CONNGRP and CONNREQ.MAP hold the own hive alone (R431), the arithmetic clock stands at 3,600 MHz (R12). -/
def State.reset : State :=
  { mem := [], poisoned := [], badCells := [], badLines := [], blocks := [], launches := [], admits := [], insts := [], parts := [], areas := [],
    prereqs := [], dies := [Stack.reset, Stack.reset, Stack.reset, Stack.reset], cores := [],
    ports := [Port.reset, Port.reset, Port.reset, Port.reset, Port.reset], links := [],
    sources := [EvSource.reset, EvSource.reset, EvSource.reset, EvSource.reset, EvSource.reset], evPq := 0,
    msiPending := false, evmsi := 0,
    power := { clamp := false, mhz := 3600, low := 3600, peak := false, avg := 0, lastDecision := 0, lastSample := 0 },
    boot := { step := 0, err := 0, tries := 0, scrubOff := [], bifurc := 0, bootSrc := 0,
              images := none, report := none },
    ckpt := { list := 0, path := false, status := 0 }, iommu := {}, imsics := [], aplic := {}, dma := [], pkg := 0, conngrp := 1, connmap := 1, connbusy := none,
    jcfg := [], time := 0, refills := 0, epkg := 0, transit := [], remote := [], subnet := [], net := [], kept := [], replies := [], nextLoad := 0, qcache := [],
    rcache := [], lcache := [], roots := [], roots2 := [], latched := [], hostOut := [], nextUid := 0, nextReq := 0,
    waitAge := 0, cur := none, ev := {}, agenda := [], tick := 0 }

end Sys2Proof.Machine
end

