-- ==== Sys2Proof/Config.lean ====
section
/-!
DEFINITION. The free values: constants without a body. Nothing in Lean can evaluate one, so a statement that mentions one
holds whatever it is. Each is applied to `State.tick`, a counter that only the model has, for a fresh value each time.
-/
namespace Sys2Proof

/-- What acts next when nothing else is due: any turn of a core, any event, any passage of time (assumption 1). -/
opaque Config.sched : Nat → Machine.Act

/-- Whether a core still holds a copy of a line that another core has since changed: caching is not architectural
(R230, R305; assumption 2). Arguments: tick, address. -/
opaque Config.cacheKeeps : Nat → Nat → Bool

/-- Whether a `glb` word is available to a speculative atomic: which lines a home slice holds is not architectural (R269).
Arguments: tick, PA. -/
opaque Config.lineReady : Nat → Nat → Bool

/-- Dynamic energy, in 2^−10 µJ, that a block used during the k-th item of time: the spec gives no figures (R419). -/
opaque Config.energy : Nat → Nat → Nat

/-- The core and the interrupt file of a page number, if an IMSIC's file lies there: the spec gives no addresses (R370). -/
opaque Config.imsicAt : Nat → Option (Nat × Nat)

/-- The device's two public keys, Ed25519 and ML-DSA-65, which are the same at every start (R429). -/
opaque Config.deviceKeys : List Byte × List Byte

/-- The SHA-384 measurement of the ROM (R429). -/
opaque Config.romDigest : BitVec 384

/-- SHA-384 (R428). -/
opaque Config.sha384 : List Byte → BitVec 384

/-- The version that the header of an image states: the spec does not lay the header out (R428, R429). -/
opaque Config.imageVersion : BitVec 512 → BitVec 64

/-- The signature of a report with a device key, Ed25519 or (with true) ML-DSA-65, from the measurements and versions of both images and the
nonce (R429). -/
opaque Config.sign : Bool → BitVec 384 → BitVec 384 → BitVec 64 → BitVec 64 → BitVec 512 → List Byte

/-- A word of a readback region that the spec does not lay out, by its place, from the numbers that the region shows (R434). -/
opaque Config.windowBits : Nat → List Nat → BitVec 64

/-- Whether a cluster of a stack belongs to a partition: partition, stack, cluster (R275). -/
opaque Config.inPartition : Nat → Nat → Nat → Bool

/-- The partition that a domain tag names: the spec does not say how (R347). -/
opaque Config.domainPartition : Nat → Nat

/-- Receive buffers of a class at one end of a module: the spec gives no number (R355). -/
opaque Config.rxBuffers : Nat → Nat

/-- The header slot of a message, by the number of the copy: R456 names what it holds and does not lay it out. -/
opaque Config.msgHeader : Nat → BitVec 128

/-- The payload of a class 3 flit, from the number of the dead module, the SEQ and CLASS of the flit it carries on and that flit's
payload: the spec does not lay slot 0 out, nor say how the 15 slots of the payload fit behind it (R359). -/
opaque Config.rescueWrap : Nat → Nat → Nat → BitVec 1920 → BitVec 1920

/-- A value the spec does not state, of up to 64 bits: the tick and which value it is. -/
opaque Config.free : Nat → Nat → BitVec 64

end Sys2Proof
end

