-- ==== Sys2Proof/Machine/Port.lean ====
section
/-!
DEFINITION. Device memory, and what a queue port does to a descriptor and its cells (R323 to R336), and the path of event
records (R209, R371 to R373).
-/
namespace Sys2Proof.Machine

/-! ## Device memory (R219, R226) -/

/-- A PA in the HBM of a stack: device memory (R226). -/
def isDeviceMemory (pa : Nat) : Bool :=
  decide (pa / 2 ^ 46 = 0) && decide (pa % 2 ^ 44 < 0x6000000000)

/-- The stack that homes a PA (R226). -/
def homeOf (pa : Nat) : Nat := pa / 2 ^ 44 % 4

/-- `n` bytes of device memory from a PA. -/
def State.readMem (s : State) (pa n : Nat) : List Byte := Sparse.read s.mem pa n

/-- The little-endian number in `n` bytes of device memory. -/
def State.readNat (s : State) (pa n : Nat) : Nat := leNat (s.readMem pa n)

/-- A word at a place lies whole within `n` bytes from another place. -/
def wordWithin (a : Loc) (n : Nat) (q : Loc) : Bool :=
  match a, q with
  | .glb p, .glb x => decide (p ≤ x) && decide (x + 4 ≤ p + n)
  | .buf u sp o, .buf v sq x => u == v && decide (sp = sq) && decide (o ≤ x) && decide (x + 4 ≤ o + n)
  | _, _ => false

/-- A word at a place meets `n` bytes from another place: the byte distance from the place to the word. -/
def wordMeets (a : Loc) (n : Nat) (q : Loc) : Option Int :=
  match a, q with
  | .glb p, .glb x => if x < p + n ∧ p < x + 4 then some (Int.ofNat x - Int.ofNat p) else none
  | .buf u sp o, .buf v sq x => if u = v ∧ sp = sq ∧ x < o + n ∧ o < x + 4 then some (Int.ofNat x - Int.ofNat o) else none
  | _, _ => none

/-- Write bytes to device memory. A word that is overwritten whole is no longer uncorrectable (R26). -/
def State.writeMem (s : State) (pa : Nat) (bytes : List Byte) : State :=
  { s with mem := Sparse.write s.mem pa bytes,
           poisoned := s.poisoned.filter fun q => !(wordWithin (.glb pa) bytes.length q) }

/-! ## Fields of wide words -/

/-- The field `x<h:l>` of a wide word. -/
def field {n : Nat} (x : BitVec n) (h l : Nat) : Nat := slice x.toNat h l

/-- A word built from (value, width) fields, lowest first. -/
def packFields : List (Nat × Nat) → Nat
  | [] => 0
  | (v, w) :: r => v % 2 ^ w + 2 ^ w * packFields r

/-! ## Sequence numbers (R323, R324) -/

/-- Sequence numbers count modulo 2^48. -/
def seqAdd (a n : Nat) : Nat := (a + n) % 2 ^ 48

/-- How far b lies above a. -/
def seqDist (a b : Nat) : Nat := (b + 2 ^ 48 - a % 2 ^ 48) % 2 ^ 48

/-- The failing sequence number of R329. -/
def seqFail : Nat := 0xFFFFFFFFFFFF

/-- Element size in bytes (R326). -/
def Desc.bytes (d : Desc) : Nat := 16 <<< d.esz

/-- Cells of an element (R323). -/
def Desc.cellsPer (d : Desc) : Nat := if d.esz ≤ 2 then 1 else if d.esz = 3 then 2 else 4

/-- Cells a grant could hold now (R324, R340). -/
def Desc.room (d : Desc) : Nat := d.win + d.ssize - seqDist d.head d.rsv

/-- A cell lies in the window (R324). -/
def Desc.inWindow (d : Desc) (seq : Nat) : Bool := decide (seqDist d.head seq < d.win)

/-- TAIL: the lowest cell at or above HEAD that is not filled (R324); a taken cell has been filled. -/
def Desc.tail (d : Desc) : Nat :=
  match d.cells.find? (fun c => decide (c.st = .reserved ∨ c.st = .void)) with
  | some c => c.seq
  | none => d.rsv

/-- A window over the cells of one element starting at a cell: all filled, in cell SRAM and in the window. -/
def Desc.elementReady (d : Desc) (cs : List Cell) : Bool :=
  cs.all fun c => decide (c.st = .filled) && c.sram && d.inWindow c.seq

/-- The dequeueable elements as first sequence numbers, lowest first (R325, R331): `open_` are the producers that have a
lower cell that is unfilled, or filled and still in the super. -/
def Desc.readyFrom (d : Desc) (open_ : List Producer) : Nat → List Cell → List Nat
  | 0, _ => []
  | _, [] => []
  | fuel + 1, c :: cs =>
    let elem := (c :: cs).take d.cellsPer
    let rest := (c :: cs).drop d.cellsPer
    let blocked := open_.contains c.prod
    let next := (elem.filter fun x => decide (x.st = .reserved) || decide (x.st = .filled) && !x.sram).map (·.prod) ++ open_
    let more := if d.order then d.readyFrom next fuel rest else []
    if d.elementReady elem && !blocked && decide (elem.length = d.cellsPer) then c.seq :: more else more

/-- The dequeueable elements (R331). -/
def Desc.ready (d : Desc) : List Nat := d.readyFrom [] (d.cells.length + 1) d.cells

/-- Drop the taken and void cells at HEAD (R330). -/
def Desc.dropDone : List Cell → List Cell
  | [] => []
  | c :: r => if c.st = .taken ∨ c.st = .void then Desc.dropDone r else c :: r

/-- HEAD passes every taken or void cell in front of it (R330, R331). -/
def Desc.advance (d : Desc) : Desc :=
  let cells := Desc.dropDone d.cells
  { d with cells := cells, head := seqAdd d.head (d.cells.length - cells.length) }

/-- Append reserved cells for a grant of n cells (R340). -/
def Desc.grant (d : Desc) (n : Nat) (prod : Producer) (gid : Nat) : Desc :=
  { d with rsv := seqAdd d.rsv n,
           cells := d.cells ++ (List.range n).map fun k =>
             { seq := seqAdd d.rsv k, prod := prod, st := .reserved, sram := false, gid := gid } }

/-- Set the state of the n cells from `seq` up that are in state `old` (R330). -/
def Desc.mark (d : Desc) (seq n : Nat) (old new : CellState) : Desc :=
  { d with cells := d.cells.map fun c =>
      if seqDist seq c.seq < n ∧ c.st = old then { c with st := new, sram := new = .filled && d.inWindow c.seq } else c }

/-- The oldest waiter of one kind, and the wake list without it (R334). -/
def takeOldest (take : Bool) (l : List Waiter) : Option Waiter × List Waiter :=
  match minBy? (·.age) (l.filter fun w => w.take == take) with
  | none => (none, l)
  | some w => (some w, l.filter fun x => !(decide (x = w)))

/-- Wake up to n waiters of a kind, oldest first. -/
def takeWaiters (take : Bool) : Nat → List Waiter → List Waiter × List Waiter
  | 0, l => ([], l)
  | n + 1, l => match takeOldest take l with
    | (none, l) => ([], l)
    | (some w, l) => let r := takeWaiters take n l; (w :: r.1, r.2)

/-! ## Ports -/

/-- The queue port of a window: 0 to 3 the stacks, 4 the front die. -/
def State.port (s : State) (w : Nat) : Port := nth Port.reset s.ports w

/-- Change a port. -/
def State.updPort (s : State) (w : Nat) (f : Port → Port) : State := { s with ports := setNth s.ports w (f (s.port w)) }

/-- A descriptor of a port. -/
def State.desc (s : State) (w pq : Nat) : Desc := Assoc.getD Desc.reset (s.port w).descs pq

/-- Replace a descriptor. -/
def State.setDesc (s : State) (w pq : Nat) (d : Desc) : State :=
  s.updPort w fun p => { p with descs := Assoc.put p.descs pq d }

/-- Where the payload of a cell lies: cell SRAM at a byte index, or HBM at a PA (R324). -/
def Desc.sramAt (d : Desc) (seq : Nat) : Nat := 64 * (d.wbase + seq % d.win)

/-- The PA of a cell of the super (R324). -/
def Desc.superAt (d : Desc) (seq : Nat) : Nat := d.sbase * 4096 + 64 * (seq % d.ssize)

/-- Write bytes of cell SRAM. A word that is overwritten whole is no longer uncorrectable (R26, R219). -/
def State.writeSram (s : State) (w at_ : Nat) (bytes : List Byte) : State :=
  { s.updPort w fun p => { p with cells := Sparse.write p.cells at_ bytes } with
    badCells := s.badCells.filter fun q => !(q.1 == w && decide (at_ ≤ 4 * q.2) && decide (4 * q.2 + 4 ≤ at_ + bytes.length)) }

/-- Write a payload over consecutive cells, 64 bytes each, to cell SRAM or the super (R325). -/
def State.writeCells (s : State) (w : Nat) (d : Desc) (seq : Nat) : Nat → List Byte → State
  | 0, _ => s
  | n + 1, data =>
    let s' := if d.inWindow seq then s.writeSram w (d.sramAt seq) (data.take 64)
      else s.writeMem (d.superAt seq) (data.take 64)
    s'.writeCells w d (seqAdd seq 1) n (data.drop 64)

/-- The payload of an element in cell SRAM. -/
def State.readCells (s : State) (w : Nat) (d : Desc) (seq : Nat) : Nat → List Byte
  | 0 => []
  | n + 1 => Sparse.read (s.port w).cells (d.sramAt seq) (min 64 d.bytes) ++ s.readCells w d (seqAdd seq 1) n

/-- The words of an element in cell SRAM that are uncorrectable (R219), counted from its first. -/
def State.badWords (s : State) (w : Nat) (d : Desc) (seq : Nat) : List Nat :=
  if s.badCells.isEmpty then []
  else (List.range (d.bytes / 4)).filter fun k =>
    s.badCells.any fun q => q.1 == w && q.2 == (d.sramAt (seqAdd seq (k / 16)) + 4 * (k % 16)) / 4

/-- The waiters of a queue, oldest first: its wake list and what the overflow list holds for it (R333). -/
def Port.waitersOf (p : Port) (pq : Nat) : List Waiter :=
  sortBy (·.age) ((Assoc.getD Desc.reset p.descs pq).wake ++ (p.overflow.filter fun e => e.1 == pq).map (·.2))

/-- Give a descriptor its waiters: the 32 oldest to its wake list, the others to the overflow list (R333). -/
def Port.setWaiters (p : Port) (pq : Nat) (d : Desc) (l : List Waiter) : Port :=
  { p with descs := Assoc.put p.descs pq { d with wake := l.take 32 },
           overflow := (p.overflow.filter fun e => e.1 != pq) ++ (l.drop 32).map fun x => (pq, x) }

/-- A port keeps the waiters that a test picks; places that free are filled from the overflow list (R333). -/
def Port.keepWaiters (keep : Waiter → Bool) (p : Port) : Port :=
  p.descs.foldl (fun q e => q.setWaiters e.1 e.2 ((p.waitersOf e.1).filter keep)) p

/-- The compute die of a port's stack is in reset (R238). -/
def State.dieHeld (s : State) (w : Nat) : Bool := decide (w < 4) && (nth Stack.reset s.dies w).dieReset

/-- The request that an answer to a message answers; none for the answer to `qxset` and for a wake-up. -/
def AnswerBody.request? : AnswerBody → Option Nat
  | .grant _ _ _ _ r => some r.req
  | .taken _ _ _ r => some r.req
  | .nothing r => some r.req
  | .sleep r => some r.req
  | .lost r => some r.req
  | .again r => some r.req
  | .counts _ _ r => some r.req
  | .bound _ r => some r.req
  | .ack req _ _ => some req
  | .desc _ _ => none
  | .wake _ _ _ => none

/-- What an answer for an outside agent says reaches it at the die that it goes to; the front port no longer keeps the message of a Juazo core that
it answers (R362). -/
def State.settleReply (s : State) (y : Reply) : State :=
  match y.out with
  | some n =>
    if y.at_ = .here y.dst ∨ y.at_ = .away then
      { s with hostOut := s.hostOut ++ [.answer n y.body],
               kept := s.kept.filter fun m => !(decide (m.prod = .host n) && y.body.request? == some m.req) }
    else { s with replies := s.replies ++ [y] }
  | none => { s with replies := s.replies ++ [y] }

/-- An answer leaves a port for a die, or for an outside agent (R354, R362). -/
def State.post (s : State) (w dst : Nat) (out : Option Nat) (a : AnswerBody) : State :=
  { s with nextLoad := s.nextLoad + 1 }.settleReply { load := s.nextLoad, at_ := .here w, dst := dst, body := a, out := out }

/-- The die on which the groups of a block run; a block that is gone counts as one of the port's stack. -/
def State.dieOf (s : State) (u w : Nat) : Nat := ((s.blocks.find? fun b => b.uid == u).map fun b => 8 + b.stk).getD (8 + w % 4)

/-- Wake-ups leave a port for some waiters. -/
def State.sendWakes (w : Nat) : List Waiter → State → State
  | [], s => s
  | x :: r, s =>
    let dst := match x.out with | some o => o.2 | none => s.dieOf x.blk w
    State.sendWakes w r (s.post w dst (x.out.map (·.1)) (.wake x.blk x.gid x.split))

/-- Some waiters of a port wake (R334): groups by a wake-up, a put that slept at the port by being taken up again (R353). -/
def State.wakeAll (s : State) (w : Nat) (l : List Waiter) : State :=
  let puts := l.filterMap (·.put)
  let rise (m : Msg) : Msg := if puts.contains m.load then { m with asleep := false } else m
  State.sendWakes w (l.filter fun x => x.put.isNone) { s with net := s.net.map rise }

/-- Settle a descriptor that an event has changed (R330, R334): HEAD advances; one take-waiter wakes for each element that has
become dequeueable, one reserve-waiter for each element HEAD has passed, the oldest first, and places that free are filled from the
overflow list. While the port's compute die is in reset the wakes are held (R238). -/
def State.settleDesc (s : State) (w pq : Nat) (old new : Desc) : State :=
  let d := new.advance
  let all := sortBy (·.age) (d.wake ++ ((s.port w).overflow.filter fun e => e.1 == pq).map (·.2))
  let fresh := (d.ready.filter fun x => !(old.ready.contains x)).length
  let passed := ceilDiv (seqDist old.head d.head) d.cellsPer
  let takes := min (d.dueTakes + fresh) (all.filter (·.take)).length
  let rsvs := min (d.dueRsvs + passed) (all.filter fun x => !x.take).length
  if s.dieHeld w then s.updPort w fun p => p.setWaiters pq { d with dueTakes := takes, dueRsvs := rsvs } all
  else
    let t := takeWaiters true takes all
    let r := takeWaiters false rsvs t.2
    (s.updPort w fun p => p.setWaiters pq { d with dueTakes := 0, dueRsvs := 0 } r.2).wakeAll w (t.1 ++ r.1)

/-- An MSI is written: it reaches the outside, and the interrupt file that lies at its page (R370). -/
def State.sendMsi (s : State) (addr eiid : Nat) : State :=
  { s with
    hostOut := s.hostOut ++ [.msi addr eiid]
    imsics := match Config.imsicAt (addr / 4096) with
      | some (core, file) => if 1 ≤ eiid ∧ eiid ≤ 511 then
          let f := Assoc.getD {} s.imsics (16 * core + file)
          Assoc.put s.imsics (16 * core + file) { f with eip := f.eip ||| 1#512 <<< eiid }
        else s.imsics
      | none => s.imsics }

/-- The MSI engine of the front die (R371, EVMSI of R437): one MSI when a record is dequeueable and none is pending; HEAD clears it. -/
def State.msi (s : State) (old : Desc) : State :=
  let d := s.desc 4 s.evPq
  let pend := s.msiPending && decide (d.head = old.head)
  if !pend && !d.ready.isEmpty && bitOf s.evmsi.toNat 63 && decide (field s.evmsi 8 0 ≠ 0) then
    { s with msiPending := true }.sendMsi (field s.evmsi 55 12 * 4096) (field s.evmsi 8 0)
  else { s with msiPending := pend }

/-- Apply a change to a descriptor and settle it; the front event queue also drives the MSI engine. -/
def State.changeDesc (s : State) (w pq : Nat) (f : Desc → Desc) : State :=
  let old := s.desc w pq
  let s := s.settleDesc w pq old (f old)
  if w = 4 ∧ pq = s.evPq then s.msi old else s

/-- Move filled cells of the window from the super to cell SRAM (R325). -/
def State.refillCells (w : Nat) (d : Desc) : List Cell → State → State
  | [], s => s
  | c :: r, s =>
    let bad := (List.range 16).filter fun k => s.poisoned.contains (.glb (d.superAt c.seq + 4 * k))
    let t := s.writeSram w (d.sramAt c.seq) (s.readMem (d.superAt c.seq) 64)
    State.refillCells w d r { t with badCells := t.badCells ++ bad.map fun k => (w, d.sramAt c.seq / 4 + k) }

/-- A filled cell in the window whose payload still lies in the super. -/
def Desc.due (d : Desc) (c : Cell) : Bool := decide (c.st = .filled) && !c.sram && d.inWindow c.seq

/-- The filled cells of a queue that have entered the window are moved to cell SRAM (R325). -/
def State.refill (s : State) (w pq : Nat) : State :=
  let d := s.desc w pq
  (State.refillCells w d (d.cells.filter d.due) s).changeDesc w pq fun d =>
    { d with cells := d.cells.map fun c => if d.due c then { c with sram := true } else c }

/-- Accept a fill of reserved cells (R332): the payload is written and the cells become filled; PUTS counts it. A fill of the super comes behind the
refill of the cells that have left it for the window, whose places it may take (R325, R454). -/
def State.fillCells (s : State) (w pq seq : Nat) (data : List Byte) : State :=
  let s := if (s.desc w pq).cells.any fun c => (s.desc w pq).due c then s.refill w pq else s
  let d := s.desc w pq
  let n := d.cellsPer
  let data := data ++ List.replicate (d.bytes - data.length) 0
  (s.writeCells w d seq n data).changeDesc w pq fun d =>
    { d.mark seq n .reserved .filled with puts := (d.puts + 1) % 2 ^ 32 }

/-- A put by an agent of the package itself: cells are granted and filled at once, if there is room. -/
def State.putElement (s : State) (w pq : Nat) (prod : Producer) (data : List Byte) : Option State :=
  let d := s.desc w pq
  if d.valid && decide (d.cellsPer ≤ d.room) then
    some ((s.setDesc w pq (d.grant d.cellsPer prod 0)).fillCells w pq d.rsv data)
  else none

/-- Take an element: its cells are taken, TAKES counts it, HEAD advances (R330). -/
def State.takeElement (s : State) (w pq seq : Nat) : List Byte × State :=
  let d := s.desc w pq
  (s.readCells w d seq d.cellsPer,
   s.changeDesc w pq fun d => { d.mark seq d.cellsPer .filled .taken with takes := (d.takes + 1) % 2 ^ 32 })

/-! ## Records (R209, R371, R373) -/

/-- The fields of a record that a rule names; every other is 0 (R209). -/
structure Record where
  kind   : Nat
  cause  : Nat := 0
  orig   : Nat := 0
  stk    : Nat := 0
  core   : Nat := 0
  slot   : Nat := 0
  gid    : Nat := 0
  ctxid  : Nat := 0
  pc     : Nat := 0
  val    : Nat := 0
  lanes  : Nat := 0
  asid   : Nat := 0
  vmid   : Nat := 0
  launch : Nat := 0
  deriving DecidableEq, Repr

/-- The 64-byte layout of R209, with TIME. -/
def Record.word (r : Record) (time : Nat) : BitVec 512 :=
  BitVec.ofNat 512 (packFields [(r.kind, 8), (r.cause, 8), (r.orig, 8), (r.stk, 2), (0, 6), (r.core, 8), (r.slot, 6), (0, 2),
    (r.gid, 5), (0, 11), (r.ctxid, 64), (r.pc, 64), (r.val, 64), (r.lanes, 32), (0, 32), (r.asid, 16), (r.vmid, 14), (0, 2),
    (r.launch, 64), (time, 64)])

/-- The summary-counter index of a record that is not stored (R373). -/
def summaryIndex (w : BitVec 512) : Nat :=
  match field w 7 0 with
  | 2 | 4 => field w 15 8
  | 9 => 0x3C
  | 5 => 0x3D
  | 10 => 0x3E
  | _ => 0x3F

/-- A source of records: 0 to 3 a stack, 4 the front die. -/
def State.source (s : State) (k : Nat) : EvSource := nth EvSource.reset s.sources k

/-- Change a source. -/
def State.updSource (s : State) (k : Nat) (f : EvSource → EvSource) : State :=
  { s with sources := setNth s.sources k (f (s.source k)) }

/-- The modules of a boundary that are up at a window: lateral 0 and 1, vertical 2 (5 for its end on the compute die), front link 3, fabric
4; at the front die, boundary b is the front link of stack b (R354). -/
def linkModules (w b : Nat) : Nat := if 4 ≤ w then 4 else match b with | 0 => 16 | 1 => 16 | 3 => 4 | 4 => 8 | _ => 64

/-- Lanes of a module or fabric link at full width. -/
def linkFull (w b : Nat) : Nat := if w < 4 ∧ b = 4 then 8 else 64

/-- The key of one end of a module. -/
def linkKey (w b m : Nat) : Nat := (w * 8 + b % 8) * 64 + m % 64

/-- One end of a module. -/
def State.link (s : State) (w b m : Nat) : LinkEnd :=
  Assoc.getD { LinkEnd.reset with width := linkFull w b } s.links (linkKey w b m)

/-- Change one end of a module. -/
def State.updLink (s : State) (w b m : Nat) (f : LinkEnd → LinkEnd) : State :=
  { s with links := Assoc.put s.links (linkKey w b m) (f (s.link w b m)) }

/-- A module of a boundary is up. -/
def State.boundaryUp (s : State) (w b : Nat) : Bool := (List.range (linkModules w b)).any fun m => !(s.link w b m).down

/-- A stack and the front die are joined: a module of the front link carries flits (R11). While every module that is up retrains, what would cross
waits (R457). -/
def State.frontUp (s : State) (k : Nat) : Bool :=
  decide (4 ≤ k) || (List.range (linkModules k 3)).any fun m => !(s.link k 3 m).down && (s.link k 3 m).training.isNone

/-- The front event queue is as R371 has it: KIND 4, ESZ 64 and ORDER 0 (assumption 113). -/
def Desc.eventQueue (d : Desc) : Bool := d.kind == 4 && d.esz == 2 && !d.order

/-- A fault log is as R322 has it: KIND 5 and ESZ 256 (assumption 113). -/
def Desc.faultLog (d : Desc) : Bool := d.kind == 5 && d.esz == 4

/-- A wired source of the APLIC changes (R370): it becomes pending by a rise in source modes 4 and 6, by a fall in 5 and 7, and the level modes 6
and 7 stop pending by the other (assumption 115). -/
def Aplic.wire (a : Aplic) (k : Nat) (up : Bool) : Aplic :=
  let mode := Assoc.getD 0 a.sourcecfg k
  let bit : BitVec 8 := 1#8 <<< k
  if mode = 4 ∨ mode = 6 then { a with ip := if up then a.ip ||| bit else if mode = 6 then a.ip &&& ~~~bit else a.ip }
  else if mode = 5 ∨ mode = 7 then { a with ip := if !up then a.ip ||| bit else if mode = 7 then a.ip &&& ~~~bit else a.ip }
  else a

/-- EVSTAT.OVF of a source changes, and with it the overflow wire, a source of the APLIC: 1 to 4 the stacks, 5 the front die (R370, R373). -/
def State.setOvf (s : State) (k : Nat) (v : Bool) : State :=
  if (s.source k).ovf = v then s else { s.updSource k fun e => { e with ovf := v } with aplic := s.aplic.wire (k + 1) v }

/-- Put a record of a source into the front event queue, if it has room and the source's front link is up (R11, R371). -/
def State.putRecord (s : State) (k : Nat) (w : BitVec 512) : Option State :=
  if (s.desc 4 s.evPq).eventQueue && s.frontUp k then s.putElement 4 s.evPq (.source k) (leBytes 64 w.toNat) else none

/-- A record leaves a source: into the front event queue if the outbox is empty and a cell is free, else into the outbox; if
that is full it is not stored, and the summary counter of its class rises (R373). `none` for a suspension record that
finds the outbox full: it stays in the group slot (R212). -/
def State.sendRecord (s : State) (k : Nat) (w : BitVec 512) : Option State :=
  let src := s.source k
  match (if src.outbox.isEmpty then s.putRecord k w else none) with
  | some s => some s
  | none =>
    if src.outbox.length < 32 then some (s.updSource k fun e => { e with outbox := e.outbox ++ [w] })
    else if field w 7 0 = 1 ∨ field w 7 0 = 3 then none
    else some ((s.updSource k fun e =>
      { e with summary := Assoc.put e.summary (summaryIndex w)
                 (min (Assoc.getD 0 e.summary (summaryIndex w) + 1) (2 ^ 32 - 1)) }).setOvf k true)

/-- TIME of a record: 0 in the KINDs 8, 9 and 11, whose rules do not name it (R209, R211, R350, R372). -/
def State.recordTime (s : State) (r : Record) : Nat := if [8, 9, 11].contains r.kind then 0 else s.time

/-- Send a record that may be coalesced. -/
def State.record (s : State) (k : Nat) (r : Record) : State :=
  (s.sendRecord k (r.word (s.recordTime r))).getD s

/-- Count a fault of a cause at a stack (R425). -/
def State.countFault (s : State) (stk cause : Nat) : State :=
  let st := nth Stack.reset s.dies stk
  let n := min (Assoc.getD 0 st.faults cause + 1) (2 ^ 32 - 1)
  { s with dies := setNth s.dies stk { st with faults := Assoc.put st.faults cause n } }

end Sys2Proof.Machine
end

