-- ==== Sys2Proof/Machine/Ops.lean ====
section
/-!
DEFINITION. The named operations over blocks, groups and splits: lookup and update, splits (R38 to R45), the register pool
(R103 to R106), buffers and the barrier logic (R400 to R413), the forwarder (R391), the end of lanes and groups (R45, R191),
and taking a precise fault with the return from a handler (R205 to R208, R187).
-/
namespace Sys2Proof.Machine

/-! ## Lookup and update -/

/-- The block of an identifier. -/
def State.block? (s : State) (u : Nat) : Option Block := s.blocks.find? fun b => b.uid == u

/-- Change the block of an identifier. -/
def State.updBlock (s : State) (u : Nat) (f : Block → Block) : State :=
  { s with blocks := s.blocks.map fun b => if b.uid = u then f b else b }

/-- The group of a GID. -/
def Block.group? (b : Block) (g : Nat) : Option Group := b.groups.find? fun x => x.gid == g

/-- Change the group of a GID. -/
def Block.updGroup (b : Block) (g : Nat) (f : Group → Group) : Block :=
  { b with groups := b.groups.map fun x => if x.gid = g then f x else x }

/-- A group by number: below 32 a GID, from 32 up the ended groups that still drain (R191). -/
def Block.groupAt (b : Block) (n : Nat) : Option Group := if n < 32 then b.group? n else nth? b.draining (n - 32)

/-- Change a group by number. -/
def Block.updAt (b : Block) (n : Nat) (f : Group → Group) : Block :=
  if n < 32 then b.updGroup n f
  else match nth? b.draining (n - 32) with
    | none => b
    | some g => { b with draining := setNth b.draining (n - 32) (f g) }

/-- The split of an age. -/
def Group.split? (g : Group) (a : Nat) : Option Split := g.splits.find? fun x => x.age == a

/-- Change the split of an age. -/
def Group.updSplit (g : Group) (a : Nat) (f : Split → Split) : Group :=
  { g with splits := g.splits.map fun x => if x.age = a then f x else x }

/-- Change a group of a block. -/
def State.updGroup (s : State) (u g : Nat) (f : Group → Group) : State := s.updBlock u fun b => b.updGroup g f

/-- Change the issuing group. -/
def State.updCur (s : State) (c : Cur) (f : Group → Group) : State := s.updGroup c.blk c.gid f

/-- Change the issuing split. -/
def State.updSplit (s : State) (c : Cur) (f : Split → Split) : State := s.updCur c fun g => g.updSplit c.age f

/-- A group of a block. -/
def State.group? (s : State) (u g : Nat) : Option Group := (s.block? u).bind fun b => b.group? g

/-- The launch of an identifier. -/
def State.launch? (s : State) (l : Nat) : Option Launch := s.launches.find? fun x => x.uid == l

/-- Change a launch. -/
def State.updLaunch (s : State) (l : Nat) (f : Launch → Launch) : State :=
  { s with launches := s.launches.map fun x => if x.uid = l then f x else x }

/-- The stack of a number. -/
def State.stack (s : State) (k : Nat) : Stack := nth Stack.reset s.dies k

/-- Change a stack. -/
def State.updStack (s : State) (k : Nat) (f : Stack → Stack) : State :=
  { s with dies := setNth s.dies k (f (s.stack k)) }

/-- A core's key: its stack and its number within the stack. -/
def coreKey (stk core : Nat) : Nat := 192 * stk + core

/-- A core. -/
def State.core (s : State) (stk core : Nat) : Core := Assoc.getD Core.reset s.cores (coreKey stk core)

/-- Change a core. -/
def State.updCore (s : State) (stk core : Nat) (f : Core → Core) : State :=
  { s with cores := Assoc.put s.cores (coreKey stk core) (f (s.core stk core)) }

/-- CYCLE of a stack's cores (R417). -/
def State.cycle (s : State) (stk : Nat) : Nat := (s.stack stk).cycle

/-- A partition. -/
def State.part (s : State) (p : Nat) : Partition := Assoc.getD Partition.reset s.parts p

/-- Change a partition. -/
def State.updPart (s : State) (p : Nat) (f : Partition → Partition) : State :=
  { s with parts := Assoc.put s.parts p (f (s.part p)) }

/-! ## Launch records (R348) -/

/-- A field of the launch record. -/
def Launch.fld (l : Launch) (h lo : Nat) : Nat := slice l.record h lo
/-- The default MODE. -/
def Launch.mode (l : Launch) : BitVec 16 := BitVec.ofNat 16 (l.fld 527 512)
/-- The default MMODE. -/
def Launch.mmode (l : Launch) : BitVec 10 := BitVec.ofNat 10 (l.fld 537 528)
/-- ASID. -/
def Launch.asid (l : Launch) : BitVec 16 := BitVec.ofNat 16 (l.fld 623 608)
/-- VMID. -/
def Launch.vmid (l : Launch) : BitVec 14 := BitVec.ofNat 14 (l.fld 637 624)
/-- HANDLE. -/
def Launch.handle (l : Launch) : Bool := bitOf l.record 19
/-- LID. -/
def Launch.lid (l : Launch) : Nat := l.fld 127 64
/-- ENTRY. -/
def Launch.entry (l : Launch) : Nat := l.fld 184 128
/-- PRIO. -/
def Launch.prio (l : Launch) : Nat := l.fld 18 16
/-- GX, GY and GZ. -/
def Launch.gx (l : Launch) : Nat := l.fld 351 320
/-- GY. -/
def Launch.gy (l : Launch) : Nat := l.fld 383 352
/-- GZ. -/
def Launch.gz (l : Launch) : Nat := l.fld 415 384
/-- CLUS: blocks per cluster launch. -/
def Launch.clus (l : Launch) : Nat := l.fld 439 436
/-- An address lies in the kernel's `.text`, the aligned 4 GiB region of ENTRY (R185). -/
def Launch.inText (l : Launch) (a : Nat) : Bool := decide (a / 2 ^ 32 = l.entry / 2 ^ 32)

/-- The launch of a block. -/
def State.launchOf (s : State) (b : Block) : Launch :=
  (s.launch? b.launch).getD Launch.empty

/-! ## Splits (R38 to R44) -/

/-- A split becomes ready at a cycle. -/
def Split.wake (now : Nat) (p : Split) : Split := { p with wait := .none, readyAt := now }

/-- A split completes its instruction at a cycle and stands at the next one. -/
def Split.finish (now : Nat) (p : Split) : Split :=
  { p.wake now with pc := p.pc + 4, walked := [], inval := [], early := [], qage := 0, again := none }

/-- The phase that a split waits for at `bsync`, for when it executes that again (R411). -/
def Wait.phaseAgain (w : Wait) (old : Option Nat) : Option Nat := match w with | .bsync ph => some ph | _ => old

/-- The wait of a split ends. One that a pre-emption has stopped in place does not go on: it executes its instruction again after restore (R61),
at `bsync` without a second arrival (R411). -/
def Split.goOn (now : Nat) (p : Split) : Split :=
  if p.stop then { p.wake now with again := p.wait.phaseAgain p.again } else p.finish now

/-- The lanes of the group that have not exited. -/
def Group.alive (g : Group) : LaneMask := g.lanes &&& ~~~g.exited

/-- Live splits. -/
def Group.liveCount (g : Group) : Nat := (g.splits.filter (·.live)).length

/-- Dormant splits that may be promoted: not at `splitsync` (R42, R44), and not stopped for a pre-emption (R61). -/
def Group.dormant (g : Group) : List Split := g.splits.filter fun p => !p.live && !p.stop && !(decide (p.wait = .rendezvous))

/-- Of two splits, the one with the lower PC, the older on equal PCs, as a sort key (R40, R42). -/
def Split.pcKey (p : Split) : Nat := p.pc.toNat * 2 ^ 64 + p.age

/-- Free live slots are taken by the dormant splits of lowest PC (R42). -/
def Group.promote (now : Nat) : Nat → Group → Group
  | 0, g => g
  | n + 1, g =>
    if 4 ≤ g.liveCount then g
    else match minBy? Split.pcKey g.dormant with
      | none => g
      | some p => Group.promote now n (g.updSplit p.age fun q => { q with live := true, since := now, readyAt := now })

/-- Promote until the slots are full. -/
def Group.refill (now : Nat) (g : Group) : Group := Group.promote now 4 g

/-- A split that waits for nothing, or for an operand: it has not begun the instruction at its PC (R41). A split at `tlbinv` that waits for the
accesses in flight, or at `qxset` for the port's answer, shows the same code of R51 and has begun its instruction: it does not merge
(assumption 125). -/
def Wait.notBegun : Wait → Bool
  | .none => true
  | .operand _ _ _ => true
  | .walk => true
  | _ => false

/-- A split is inside an open chain (R41, R43, R48). -/
def Group.inChain (g : Group) (p : Split) : Bool :=
  match g.chain with
  | some c => c.age == p.age
  | none => false

/-- A split may merge: live, not stopped, waiting for nothing but an operand, not inside a chain (R41). A split that stands
stopped for a handler does not merge with a handler split. -/
def Group.mayMerge (g : Group) (p : Split) : Bool := p.live && !p.stop && p.wait.notBegun && !g.inChain p

/-- Two splits merge when PC, MODE and MMODE are equal (R41). -/
def Group.mergeable (g : Group) (p q : Split) : Bool :=
  g.mayMerge p && g.mayMerge q && decide (p.age ≠ q.age) && decide (p.pc = q.pc) && decide (p.mode = q.mode) &&
    decide (p.mmode = q.mmode) && (p.handler == q.handler)

/-- The first pair that merges, the older split first. -/
def Group.mergePair (g : Group) : List Split → Option (Split × Split)
  | [] => none
  | p :: r => match r.find? (g.mergeable p) with
    | some q => if p.age < q.age then some (p, q) else some (q, p)
    | none => g.mergePair r

/-- Merge two splits: the union of the lanes with the age and GANG of the older (R41). -/
def Group.merge (g : Group) (p q : Split) : Group :=
  { g with splits := (g.splits.filter fun x => !(x.age == q.age)).map fun x =>
      if x.age = p.age then { x with mask := p.mask ||| q.mask } else x }

/-- Merging at an issue decision, with the promotions it allows (R41, R42). -/
def Group.settle (now : Nat) : Nat → Group → Group
  | 0, g => g
  | n + 1, g => match g.mergePair g.splits with
    | none => g.refill now
    | some (p, q) => Group.settle now n ((g.merge p q).refill now)

/-- Give the splits of a division live slots in ascending PC, the others becoming dormant (R40): `ages` are the splits of the
division, `free` the slots it may use. -/
def Group.placeDivision (now : Nat) (ages : List Nat) (g : Group) : Group :=
  let own := g.splits.filter fun p => ages.contains p.age
  let others := (g.splits.filter fun p => p.live && !(ages.contains p.age)).length
  let order := (sortBy Split.pcKey own).map (·.age)
  let lives := order.take (4 - others)
  { g with splits := g.splits.map fun p =>
      if ages.contains p.age then
        { p with live := lives.contains p.age, since := if lives.contains p.age && p.live then p.since else now, readyAt := now }
      else p }

/-- Divide a split by targets (R39, R40): the first (PC, lanes) part keeps the split and its age, each further part becomes a
new split, in order. -/
def Group.divide (now age : Nat) (parts : List (BitVec 57 × LaneMask)) (g : Group) : Group :=
  match parts, g.split? age with
  | (pc0, m0) :: rest, some p =>
    let news : List Split := rest.zipIdx.map fun (x, k) =>
      { p with age := g.nextAge + k, pc := x.1, mask := x.2, live := true, since := now, readyAt := now, walked := [], inval := [],
               early := [], qdone := 0, qage := 0, again := none, owed := [], owedTurns := 0 }
    let g := { g.updSplit age fun p => { p with pc := pc0, mask := m0 } with nextAge := g.nextAge + rest.length }
    ({ g with splits := g.splits ++ news }).placeDivision now (age :: news.map Split.age)
  | _, _ => g

/-- The rendezvous of R44: when every split waits at `splitsync`, each continues past its own. A split that a pre-emption has stopped
in place waits on, and again after restore (R203). -/
def Group.rendezvous (now : Nat) (g : Group) : Group :=
  if !g.splits.isEmpty && g.splits.all (fun p => decide (p.wait = .rendezvous) && !p.stop) then
    ({ g with splits := g.splits.map (Split.finish now) }).refill now
  else g

/-- The handler ends when every handler split has returned or ended (R187): the returned lanes form one split with the
faulting split's age, MODE, MMODE and GANG, at TRAPPC + 4 for SW-TRAP and BREAKPOINT and at TRAPPC otherwise. A returned split that
a pre-emption has stopped in place waits on, and again after restore (R203). TRAPPC and the cause are those that the handler was entered
with: a fault inside it overwrites the registers, and the spec does not say which is meant then (R206, R207, assumption 132). -/
def Group.handlerEnd (now : Nat) (g : Group) : Group :=
  match g.handler with
  | none => g
  | some h =>
    let hs := g.splits.filter (·.handler)
    if hs.all (fun p => decide (p.wait = .returned) && !p.stop) then
      let others := g.splits.filter fun p => !p.handler
      match hs with
      | [] => ({ g with handler := none }).refill now
      | p :: _ =>
        let back : Split :=
          { p with age := h.age, pc := if h.cause = 0x1A ∨ h.cause = 0x1B then h.pc + 4 else h.pc,
                   mask := hs.foldl (fun m q => m ||| q.mask) 0, mode := h.mode, mmode := h.mmode, gang := h.gang,
                   live := hs.any (·.live), since := now, readyAt := now, wait := .none, waitT := 0, handler := false, walked := [], inval := [],
                   early := [], qdone := h.qdone, qage := 0, owed := [], owedTurns := 0 }
        ({ g with handler := none, splits := others ++ [back] }).refill now
    else g

/-! ## Registers of a group -/

/-- The register bound B = n + 8 e (R103). -/
def Group.bound (g : Group) : Nat := g.baseN + 8 * g.ext

/-- Lane l of vector register i. -/
def Group.vreg (g : Group) (i l : Nat) : Word := Sparse.get g.v (32 * i + l)

/-- A scalar; s0 reads 0 (R108). -/
def Group.sreg (g : Group) (i : Nat) : DWord := if i = 0 then 0 else Sparse.get g.s i

/-- A predicate; p7 reads all-true (R109). -/
def Group.preg (g : Group) (i : Nat) : LaneMask := if i = 7 then BitVec.allOnes 32 else Sparse.get g.p i

/-- Write one lane of a vector register. -/
def Group.setV (g : Group) (i l : Nat) (x : Word) : Group := { g with v := Sparse.put g.v (32 * i + l) x }

/-- Write words of vector registers, by key 32 × register + lane; never-launched lanes are never written (R100). -/
def Group.putWords (g : Group) (l : List (Nat × Word)) : Group :=
  { g with v := Sparse.putAll g.v (l.filter fun e => g.lanes.getLsbD (e.1 % 32)) }

/-- Write a scalar; a write to s0 is discarded (R74). -/
def Group.setS (g : Group) (i : Nat) (x : DWord) : Group := if i = 0 then g else { g with s := Sparse.put g.s i x }

/-- Write a predicate in the lanes of a mask; a write to p7 is discarded (R74, R99). -/
def Group.setP (g : Group) (i : Nat) (m x : LaneMask) : Group :=
  if i = 7 then g else { g with p := Sparse.put g.p i ((g.preg i &&& ~~~m) ||| (x &&& m)) }

/-! ## Group slots and granules of a core (R31, R53, R106) -/

/-- Blocks resident on a core. -/
def State.onCore (s : State) (stk core : Nat) : List Block :=
  s.blocks.filter fun b => decide (b.place = .resident) && b.stk == stk && b.core == core

/-- Granules of a group: its base block and its extended granules (R103). -/
def Group.granules (g : Group) : Nat := ceilDiv g.baseN 8 + g.ext

/-- Free granules of a core's 512; the granules of an ended group count as in use while a result is pending (R191). -/
def State.freeGranules (s : State) (stk core : Nat) : Nat :=
  512 - ((s.onCore stk core).map fun b =>
    (b.groups.map Group.granules).sum +
      ((b.draining.filter fun g => !g.pend.isEmpty).map Group.granules).sum).sum

/-- Group slots in use on a core: of its groups, and of ended ones whose suspension record the slot still holds (R212). -/
def State.usedSlots (s : State) (stk core : Nat) : List Nat :=
  ((s.onCore stk core).map fun b => (b.groups ++ b.draining.filter fun g => !g.heldRec.isEmpty).map (·.slot)).flatten

/-- A `remarr` of a group to a block has not been performed there: what the group does next at that block's S comes after it (R409). -/
def State.remoteAhead (s : State) (u g blk : Nat) : Bool := s.remote.any fun r => decide (r.src = (u, g)) && r.blk == blk

/-- Free group slots of a core's 64, lowest first. -/
def State.freeSlots (s : State) (stk core : Nat) : List Nat :=
  let used := s.usedSlots stk core
  (List.range 64).filter fun k => !(used.contains k)

/-- Serve the waiting `racq` requests in order while the first one's granules are free (R106, R163): the group takes all n
at once, the new bound is written to D and the split goes on. A request that an earlier grant has put beyond the limit of R103 executes again. -/
def State.serveRacq (stk core : Nat) : Nat → State → State
  | 0, s => s
  | fuel + 1, s =>
    match (s.core stk core).racq with
    | [] => s
    | (u, g, age, n, d) :: rest =>
      if s.freeGranules stk core < n then s
      else
        let now := s.cycle stk
        let s := s.updCore stk core fun c => { c with racq := rest }
        let s := s.updGroup u g fun x =>
          if (128 - x.baseN) / 8 < x.ext + n then x.updSplit age (Split.wake now)
          else
            let x := { x with ext := x.ext + n }
            (x.setS d (BitVec.ofNat 64 x.bound)).updSplit age (Split.finish now)
        State.serveRacq stk core fuel s

/-- Granules may have become free on a core. -/
def State.granulesFreed (s : State) (stk core : Nat) : State :=
  State.serveRacq stk core (s.core stk core).racq.length s

/-! ## Buffers (R220, R221) and the saved images (R215) -/

/-- The bytes of a buffer of a block. -/
def Block.buf (b : Block) : Space → Sparse 8
  | .scr => b.S | .clu => b.S | .wgt => b.W | .act => b.X | .acc => b.C | .par => b.par | .glb => []

/-- The size of a buffer. -/
def Block.bufSize (b : Block) : Space → Nat
  | .scr => b.sSize | .clu => b.sSize | .wgt => b.wSize | .act => b.xSize | .acc => b.cSize | .par => b.parSize | .glb => 0

/-- Replace a buffer. -/
def Block.setBuf (b : Block) (sp : Space) (x : Sparse 8) : Block :=
  match sp with
  | .scr | .clu => { b with S := x }
  | .wgt => { b with W := x }
  | .act => { b with X := x }
  | .acc => { b with C := x }
  | _ => b

/-- The index of a section in OFFS of the context header (R215). -/
def sectionOf : Space → Nat
  | .scr | .clu => 1 | .wgt => 2 | .act => 3 | .acc => 4 | _ => 0

/-- The PA of a section of a context area (R215). -/
def State.sectionPa (s : State) (pa k : Nat) : Nat := pa + s.readNat (pa + 36 + 4 * k) 4

/-- Read bytes of a block's buffer, in its context area while the block is saved. -/
def State.bufRead (s : State) (b : Block) (sp : Space) (off n : Nat) : List Byte :=
  match b.place with
  | .resident => Sparse.read (b.buf sp) off n
  | .saved pa size => if size = 0 then List.replicate n 0 else s.readMem (s.sectionPa pa (sectionOf sp) + off) n

/-- Write bytes of a block's buffer, in its context area while the block is saved. -/
def State.bufWrite (s : State) (b : Block) (sp : Space) (off : Nat) (bytes : List Byte) : State :=
  match b.place with
  | .resident =>
    { s.updBlock b.uid fun b => b.setBuf sp (Sparse.write (b.buf sp) off bytes) with
      poisoned := s.poisoned.filter fun q => !(wordWithin (.buf b.uid sp off) bytes.length q) }
  | .saved pa size => if size = 0 then s else s.writeMem (s.sectionPa pa (sectionOf sp) + off) bytes

/-- The distance to the first uncorrectable word that `n` bytes at a place meet (R26). -/
def State.poisonAt (s : State) (p : Loc) (n : Nat) : Option Int := s.poisoned.findSome? fun q => wordMeets p n q

/-- Drop every line of a core's L1 (R230). -/
def State.dropL1 (s : State) (stk core : Nat) : State := s.updCore stk core fun c => { c with l1 := [] }

/-! ## What an acquire orders (R306, R309) -/

/-- The splits of a group read again what they have read ahead: an acquire of the group stands between (R310). -/
def Group.forget (g : Group) : Group := { g with splits := g.splits.map fun p => { p with early := [] } }

/-- The puts of a group that are not acknowledged, and those it knows of, as (CTXID, ord). -/
def Group.putsBefore (g : Group) : List (Nat × Nat) := (g.puts.map fun q => (g.ctxid.toNat, q.ord)) ++ g.heard

/-- A put is not acknowledged yet. -/
def State.outstanding (s : State) (q : Nat × Nat) : Bool :=
  s.blocks.any fun b => (b.groups ++ b.draining).any fun g => g.ctxid.toNat == q.1 && g.puts.any fun p => p.ord == q.2

/-- The groups of a block are reached from another block by a scope (R306). -/
def Block.reaches (scope : Nat) (b x : Block) : Bool :=
  match scope with
  | 0 => x.uid == b.uid
  | 1 => x.stk == b.stk && x.core / 8 == b.core / 8
  | 2 => x.stk == b.stk
  | _ => true

/-- A group acquires at a scope: what its splits have read ahead is read again, and the puts before a release of any group that the scope
reaches count as happening before what the group does next (R309, R315, assumption 127). -/
def State.hear (s : State) (u g scope : Nat) : State :=
  match s.block? u with
  | none => s
  | some b =>
    let known := (s.blocks.filter (b.reaches scope)).flatMap fun x => (x.groups ++ x.draining).flatMap Group.putsBefore
    s.updGroup u g fun y =>
      { y.forget with heard := ((y.heard ++ known).filter fun q => q.1 != y.ctxid.toNat && s.outstanding q).eraseDups }

/-- An acquire at cluster scope or wider also drops the clean lines of the core's L1 (R230, R307). -/
def State.acquire (s : State) (u g scope : Nat) : State :=
  match s.block? u with
  | none => s
  | some b => if 1 ≤ scope then (s.hear u g scope).dropL1 b.stk b.core else s.hear u g scope

/-- Some groups of a block acquire at a scope. -/
def State.acquireAll (s : State) (u scope : Nat) (gs : List Nat) : State := gs.foldl (fun s g => s.acquire u g scope) s

/-- The groups of a block that have a split of some kind. -/
def Block.gidsWhere (b : Block) (p : Split → Bool) : List Nat := (b.groups.filter fun g => g.splits.any p).map (·.gid)

/-- The counter that a `cwait` reads, at its home (R416). -/
def State.counterAt (s : State) (glb : Bool) (blk a : Nat) : Nat :=
  if glb then s.readNat a 8 else match s.block? blk with
    | some b => leNat (s.bufRead b .scr a 8)
    | none => 0

/-- The value with which a split at `cwait` that watches a written range returns: that of the first read that meets its threshold (R416). None where
it waits on, or executes again: a pre-emption has stopped it, or the counter holds an uncorrectable word. -/
def State.cwaitValue (s : State) (glb : Bool) (blk lo hi : Nat) (p : Split) : Option (Nat × Nat) :=
  match p.wait with
  | .cwait gl bl a d n =>
    let v := s.counterAt gl bl a
    if gl = glb ∧ (gl = true ∨ bl = blk) ∧ a < hi ∧ lo < a + 8 ∧ n ≤ v ∧ p.stop = false ∧
        (s.poisonAt (if gl then .glb a else .buf bl .scr a) 8).isNone = true then some (d, v) else none
  | _ => none

/-- A split at `cwait` that watches a written range and has not returned looks again when it must: its counter is uncorrectable, or a pre-emption
has stopped it (R61, R416). -/
def State.cwaitAgain (s : State) (glb : Bool) (blk lo hi : Nat) (p : Split) : Bool :=
  match p.wait with
  | .cwait gl bl a _ _ => decide (gl = glb ∧ (gl = true ∨ bl = blk) ∧ a < hi ∧ lo < a + 8) &&
      (p.stop || (s.poisonAt (if gl then .glb a else .buf bl .scr a) 8).isSome)
  | _ => false

/-- The `cwait`s that watch a written range read it; those whose threshold it meets return, as a system-scope acquire (R416). -/
def State.wakeCwait (s : State) (glb : Bool) (blk lo hi : Nat) : State :=
  let value := s.cwaitValue glb blk lo hi
  let one (now : Nat) (p : Split) : Split :=
    if (value p).isSome then p.finish now else if s.cwaitAgain glb blk lo hi p then p.wake now else p
  s.blocks.foldl (fun t b =>
      if (b.gidsWhere fun p => (value p).isSome).isEmpty then t else t.acquireAll b.uid 3 (b.gidsWhere fun p => (value p).isSome))
    { s with blocks := s.blocks.map fun b =>
        { b with groups := b.groups.map fun g =>
            { (g.splits.filterMap value).foldl (fun g x => g.setS x.1 (BitVec.ofNat 64 x.2)) g with
              splits := g.splits.map (one (s.cycle b.stk)) } } }

/-! ## The transaction barrier (R400 to R405) -/

/-- The fields of a barrier word with ARR; `r7` and `r120` are its reserved bits. -/
structure Bar where
  ph  : Nat
  ov  : Bool
  ca  : Bool
  mb  : Bool
  r7  : Nat
  exp : Nat
  pa  : Nat
  ps  : Nat
  cpc : Nat
  cln : Nat
  r120 : Nat
  arr : Nat
  deriving DecidableEq, Repr

/-- The fields of a word (R400); ARR is the companion word's <31:0> (R404). -/
def Bar.ofNat (w arr : Nat) : Bar :=
  { ph := slice w 3 0, ov := bitOf w 4, ca := bitOf w 5, mb := bitOf w 6, r7 := slice w 15 7, exp := slice w 31 16,
    pa := slice w 47 32, ps := slice w 79 48, cpc := slice w 111 80, cln := slice w 119 112, r120 := slice w 127 120,
    arr := arr }

/-- The word of the fields. -/
def Bar.toNat (b : Bar) : Nat :=
  packFields [(b.ph, 4), (b2n b.ov, 1), (b2n b.ca, 1), (b2n b.mb, 1), (b.r7, 9), (b.exp, 16), (b.pa, 16), (b.ps, 32),
    (b.cpc, 32), (b.cln, 8), (b.r120, 8)]

/-- The phase may complete (R401). -/
def Bar.done (b : Bar) : Bool := b.pa == 0 && b.ps == 0

/-- `complete(T)` of R401, without its wakes and continuation; CLN reads 0 when CA = 0 (R400). -/
def Bar.complete (b : Bar) : Bar :=
  { b with ph := (b.ph + 1) % 16, pa := b.exp, arr := 0, ca := false, cln := if b.ca then 0 else b.cln }

/-- A sector count or a non-member arrival on a field at 0 is clamped and sets OV (R402). -/
def Bar.sector (b : Bar) : Bar := if b.ps = 0 then { b with ov := true } else { b with ps := b.ps - 1 }

/-- An arrival (R409): a member sets its ARR bit. -/
def Bar.arrive (b : Bar) (member : Option Nat) : Bar :=
  let b := if b.pa = 0 then { b with ov := true } else { b with pa := b.pa - 1 }
  match member with
  | some g => { b with arr := b.arr ||| 2 ^ g }
  | none => b

/-- A member joins: EXP and PA rise by n (R55, R57). -/
def Bar.join (n : Nat) (b : Bar) : Bar := { b with exp := (b.exp + n) % 2 ^ 16, pa := (b.pa + n) % 2 ^ 16 }

/-- A member leaves: EXP falls, and PA too if the group owes an arrival (R56). -/
def Bar.leave (g : Nat) (b : Bar) : Bar :=
  { b with exp := b.exp - 1, pa := if b.arr.testBit g then b.pa else b.pa - 1,
           arr := if b.arr.testBit g then b.arr - 2 ^ g else b.arr }

/-- The barrier word at an S offset. -/
def State.readBar (s : State) (b : Block) (off : Nat) : Bar :=
  let w := leNat (s.bufRead b .scr off 16)
  Bar.ofNat w (if bitOf w 6 && decide (off + 20 ≤ b.sSize) then leNat (s.bufRead b .scr (off + 16) 4) else 0)

/-- Write a barrier word, and ARR to the companion word of a membership-tracked one. -/
def State.writeBar (s : State) (b : Block) (off : Nat) (t : Bar) : State :=
  let s := s.bufWrite b .scr off (leBytes 16 t.toNat)
  if t.mb && decide (off + 20 ≤ b.sSize) then s.bufWrite b .scr (off + 16) (leBytes 4 t.arr) else s

/-- Wake the splits of a block that wait on a phase of the barrier at an offset. -/
def State.wakeBar (s : State) (b : Block) (off p : Nat) : State :=
  s.updBlock b.uid fun b =>
    { b with groups := b.groups.map fun g =>
        { g with splits := g.splits.map fun q =>
            if q.wait = .barwait off p then q.wake (s.cycle b.stk) else q } }

/-- An asynchronous fault (R212): a KIND 2 record that names a group of the block, and its counter (R425). SLOT and CTXID are 0 where
the group has ended (assumption 105). -/
def State.noticeOf (s : State) (b : Block) (gid : Nat) (g : Option Group) (cause val : Nat) : State :=
  let l := s.launchOf b
  (s.countFault b.stk cause).record b.stk
    { kind := 2, cause := cause, stk := b.stk, core := b.core, slot := g.elim 0 (·.slot), gid := gid,
      ctxid := g.elim 0 (·.ctxid.toNat), val := val, asid := l.asid.toNat, vmid := l.vmid.toNat, launch := l.lid }

/-- An asynchronous fault that names a group by its GID. -/
def State.notice (s : State) (b : Block) (gid cause val : Nat) : State := s.noticeOf b gid (b.group? gid) cause val

/-- The tagged `scr` address of an offset (R223). -/
def taggedScr (off : Nat) : Nat := 2 ^ 61 + off

/-- A record of a continuation that is due (R215). -/
def Cont.image (c : Cont) : List Byte := leBytes 16 (packFields [(c.boff, 32), (c.cpc, 32), (c.cln, 8), (0, 56)])

/-- A continuation of a saved block becomes due: FLAGS<98> of its context area is set, and its record follows those in the section of the block
barrier, where the section has room (R215, R393, assumption 119). -/
def State.areaCont (s : State) (b : Block) (c : Cont) : State :=
  match b.place with
  | .resident => s
  | .saved pa size =>
    if size = 0 then s
    else
      let s := s.writeMem (pa + 12) (leBytes 1 (s.readNat (pa + 12) 1 ||| 4))
      let at_ := 16 + 16 * b.conts.length
      if at_ % 256 = 0 then s else s.writeMem (s.sectionPa pa 5 + at_) c.image

/-- The completion rule after an event on a barrier word (R401). -/
def State.barRule (s : State) (b : Block) (off : Nat) : State :=
  let t := s.readBar b off
  if t.done then
    let s := s.writeBar b off t.complete
    let c : Cont := { boff := off, cpc := t.cpc, cln := t.cln, phase := t.ph }
    let s := if t.ca then (s.areaCont b c).updBlock b.uid fun b => { b with conts := b.conts ++ [c] } else s
    s.wakeBar b off t.ph
  else s

/-- One event on a barrier word: the change, then the completion rule once (R401); a change that clamps writes a BAR-OVERRUN
record (R402). -/
def State.barEvent (s : State) (u off : Nat) (f : Bar → Bar) (clamps : Bar → Bool) : State :=
  match s.block? u with
  | none => s
  | some b =>
    let t := s.readBar b off
    let s := s.writeBar b off (f t)
    let s := s.updBlock u fun b => if b.bars.contains off then b else { b with bars := off :: b.bars }
    let s := if clamps t then s.notice b 0 0x12 (taggedScr off) else s
    match s.block? u with
    | none => s
    | some b => s.barRule b off

/-- `n` sectors land on a barrier, one event each (R401, R402). -/
def State.sectors (u off : Nat) : Nat → State → State
  | 0, s => s
  | n + 1, s => State.sectors u off n (s.barEvent u off Bar.sector fun t => decide (t.ps = 0))

/-! ## Writes at the S banks, and the forwarder (R391, R401, R416) -/

/-- Bytes of the open batch. -/
def Sub.used (e : Sub) : Nat := (e.batch.map fun u => u.2.length).sum

/-- Cut an update into pieces of 64 bytes, in ascending address order (R391). -/
def pieces (off : Nat) : Nat → List Byte → List (Nat × List Byte)
  | 0, _ => []
  | n + 1, l => if l.isEmpty then [] else (off, l.take 64) :: pieces (off + 64) n (l.drop 64)

/-- Gather one update (R391): one that does not fit flushes the open batch; a full batch is flushed. The flushed batches are
returned. -/
def Sub.gatherOne (now : Nat) (e : Sub) (u : Nat × List Byte) : Sub × List (List (Nat × List Byte)) :=
  let out1 := if 64 < e.used + u.2.length ∧ e.batch ≠ [] then [e.batch] else []
  let e := if out1.isEmpty then e else { e with batch := [] }
  let e := { e with since := if e.batch = [] then now else e.since, batch := e.batch ++ [u] }
  if 64 ≤ e.used then ({ e with batch := [] }, out1 ++ [e.batch]) else (e, out1)

/-- Gather several updates. -/
def Sub.gather (now : Nat) : Sub → List (Nat × List Byte) → Sub × List (List (Nat × List Byte))
  | e, [] => (e, [])
  | e, u :: r =>
    let a := e.gatherOne now u
    let b := Sub.gather now a.1 r
    (b.1, a.2 ++ b.2)

/-- The part of a write that an entry mirrors, as (mirror offset, bytes). -/
def Sub.clip (e : Sub) (off : Nat) (bytes : List Byte) : Option (Nat × List Byte) :=
  let lo := max off e.poff
  let hi := min (off + bytes.length) (e.poff + e.plen)
  if lo < hi then some (e.moff + (lo - e.poff), (bytes.drop (lo - off)).take (hi - lo)) else none

/-- Flush batches of a subscriber's entry into transit (R391). -/
def State.sendBatches (s : State) (blk ent : Nat) (l : List (List (Nat × List Byte))) (rem orphan : Bool) : State :=
  { s with subnet := s.subnet ++ l.map fun u =>
      { blk := blk, ent := ent, upd := u, rem := rem, orphan := orphan } }

/-- An entry is fed by a publisher block: active or parked, and the publisher is of the same launch (R389, R393). -/
def State.feeds (s : State) (pub sub : Block) (e : Sub) : Bool :=
  (e.st == 1 || e.st == 2) && e.pblk == pub.lin && pub.launch == sub.launch && decide (pub.place = .resident) &&
    s.blocks.any fun b => b.uid == pub.uid

/-- One entry receives a write of a publisher. -/
def State.forwardTo (s : State) (pub : Block) (off : Nat) (bytes : List Byte) (blk ent : Nat) : State :=
  match s.block? blk with
  | none => s
  | some sub => match Assoc.get? sub.subs ent with
    | none => s
    | some e =>
      if s.feeds pub sub e then match e.clip off bytes with
        | none => s
        | some u =>
          let r := e.gather (s.cycle pub.stk) (if 64 < u.2.length then pieces u.1 (u.2.length + 1) u.2 else [u])
          (s.updBlock blk fun b => { b with subs := Assoc.put b.subs ent r.1 }).sendBatches blk ent r.2 false false
      else s

/-- Every (subscriber, entry) pair, in order. -/
def State.allSubs (s : State) : List (Nat × Nat) :=
  (s.blocks.map fun b => b.subs.map fun e => (b.uid, e.1)).flatten

/-- Forward a write at a publisher's S banks to every entry that mirrors it (R391). -/
def State.forward (s : State) (pub : Block) (off : Nat) (bytes : List Byte) : State :=
  s.allSubs.foldl (fun s x => s.forwardTo pub off bytes x.1 x.2) s

/-- What follows a write of S: the completion rule of each barrier word it touches, and the `cwait`s that watch it. -/
def State.afterS (s : State) (u off n : Nat) : State :=
  let s := s.wakeCwait false u off (off + n)
  match s.block? u with
  | none => s
  | some b => (b.bars.filter fun o => decide (o < off + n) && decide (off < o + 16)).foldl (fun s o =>
      match s.block? u with
      | none => s
      | some b => s.barRule b o) s

/-- A write to a buffer of a block. A write of S is forwarded unless it is itself a landed update (R391). -/
def State.bufStore (s : State) (u : Nat) (sp : Space) (off : Nat) (bytes : List Byte) (fwd : Bool) : State :=
  match s.block? u with
  | none => s
  | some b =>
    let s := s.bufWrite b sp off bytes
    match sp with
    | .scr | .clu =>
      let s := if fwd then s.forward b off bytes else s
      s.afterS u off bytes.length
    | _ => s

/-- Flush the open batches that a test picks; with `rem` a remainder is counted as one sector (R391). -/
def State.flushSubs (s : State) (pick : Nat → Nat → Sub → Bool) (rem orphan : Bool) : State :=
  s.allSubs.foldl (fun s x =>
    match (s.block? x.1).bind fun b => Assoc.get? b.subs x.2 with
    | none => s
    | some e =>
      if pick x.1 x.2 e && (rem || orphan || e.batch ≠ []) then
        (s.updBlock x.1 fun b => { b with subs := Assoc.put b.subs x.2 { e with batch := [] } }).sendBatches x.1 x.2 [e.batch] rem orphan
      else s) s

/-- Flush every batch that a block publishes (R391, R392). -/
def State.flushPublisher (s : State) (u : Nat) (rem orphan : Bool) : State :=
  match s.block? u with
  | none => s
  | some pub => s.flushSubs (fun blk _ e => match s.block? blk with
      | none => false
      | some sub => s.feeds pub sub e) rem orphan

/-! ## `glb` writes and the caches -/

/-- Update the copies that a core's L1 holds of written bytes (R230). -/
def updateL1 (pa : Nat) (bytes : List Byte) (l : List (Nat × List Byte)) : List (Nat × List Byte) :=
  l.map fun (a, line) => (a, (List.range 64).map fun k =>
    if pa ≤ a + k ∧ a + k < pa + bytes.length then nth 0 bytes (a + k - pa) else nth 0 line k)

/-- The copies that groups see of device memory change at a core's L1 and in memory (R230, R304). -/
def State.glbStore (s : State) (stk core pa : Nat) (bytes : List Byte) : State :=
  let s := s.writeMem pa bytes
  let s := s.updCore stk core fun c => { c with l1 := updateL1 pa bytes c.l1 }
  s.wakeCwait true 0 pa (pa + bytes.length)

/-- A line enters an L1 of 64 KiB, which holds 1,024 lines (R13): a full one drops one of them, and which is a free value. -/
def addLine (tick a : Nat) (line : List Byte) (l : List (Nat × List Byte)) : List (Nat × List Byte) :=
  let l := l.filter fun e => !(e.1 == a)
  (a, line) :: (if l.length < 1024 then l else (dropNth l ((Config.free tick 113).toNat % 1024)).take 1023)

/-- A core's L1 takes a line; a copy whose words were uncorrectable is replaced (R219). -/
def State.fillLine (s : State) (stk core a : Nat) (line : List Byte) : State :=
  { s.updCore stk core fun c => { c with l1 := addLine s.tick a line c.l1 } with
    badLines := s.badLines.filter fun q => !(q.1 == coreKey stk core && q.2 / 64 == a / 64) }

/-- A `glb` line is owned by a copy engine that has not written it yet (R231, R274). -/
def State.engineOwns (s : State) (pa n : Nat) : Bool :=
  s.blocks.any fun b => b.copies.any fun c => c.dsts.any fun x => match x.1 with
    | .glb q => decide (q / 64 ≤ (pa + n - 1) / 64) && decide (pa / 64 ≤ (q + x.2.2 - 1) / 64)
    | .buf _ _ _ => false

/-! ## Stores in transit (R233, R235, R305) -/

/-- The parity of a number's low n bits. -/
def parityBits (n x : Nat) : Nat := ((List.range n).filter fun k => x.testBit k).length % 2

/-- The L2 slice of a PA under a partition's masks (R233). -/
def State.sliceOf (s : State) (part stk pa : Nat) : Nat :=
  let masks := nth [] (s.part part).shm stk
  ((List.range 6).map fun i => 2 ^ i * parityBits 46 ((pa &&& (nth 0 masks i).toNat) / 64 * 64)).sum

/-- The L2 slice of a PA for a block. -/
def State.sliceFor (s : State) (b : Block) (pa : Nat) : Nat := s.sliceOf (s.launchOf b).part b.stk pa

/-- A `glb` store leaves the store queue (R304): every group of the core sees it, and it is on its way to its home slice (R235). -/
def State.sendStore (s : State) (b : Block) (ctx : DWord) (pa : Nat) (bytes : List Byte) : State :=
  { s.updCore b.stk b.core fun c => { c with l1 := updateL1 pa bytes c.l1 } with
    badLines := s.badLines.filter fun q => !(q.1 == coreKey b.stk b.core && wordWithin (.glb pa) bytes.length (.glb q.2))
    transit := s.transit ++ [{ core := coreKey b.stk b.core, ctx := ctx, slice := s.sliceFor b pa, pa := pa, bytes := bytes }] }

/-- A store of a group is in transit. -/
def State.inTransit (s : State) (ctx : DWord) : Bool := s.transit.any fun t => decide (t.ctx = ctx)

/-- A store of a block's core is in transit. -/
def State.coreTransit (s : State) (b : Block) : Bool := s.transit.any fun t => t.core == coreKey b.stk b.core

/-- A store of a block's core is in transit to the slice of a PA: what the core sends there later arrives after it (R235). -/
def State.sliceBusy (s : State) (b : Block) (pa : Nat) : Bool :=
  s.transit.any fun t => t.core == coreKey b.stk b.core && t.slice == s.sliceFor b pa

/-- Nothing of a group is in flight, its suspension records among it (R209). -/
def State.quiet (s : State) (g : Group) : Bool :=
  g.stq.isEmpty && g.pend.isEmpty && g.puts.isEmpty && g.heldRec.isEmpty && !(s.inTransit g.ctxid)

/-- Ended groups with nothing in flight leave their block. -/
def State.prune (s : State) (u : Nat) : State := s.updBlock u fun b => { b with draining := b.draining.filter fun g => !(s.quiet g) }

/-! ## Atomics (R264 to R270) -/

/-- The new value of an atomic (R264, R265): OP 0 to 8 are `aadd` to `afadd`, 9 to 12 the reductions. -/
def atomNew (op : Nat) (mode : BitVec 16) (old b d : Word) : Word :=
  let et := etOf mode
  match op with
  | 0 | 9 => mapElems et fun k => wrapInt (etWidth et) (elemInt et old k + elemInt et b k)
  | 1 | 10 => mapElems et fun k => wrapInt (etWidth et) (min (elemInt et old k) (elemInt et b k))
  | 2 | 11 => mapElems et fun k => wrapInt (etWidth et) (max (elemInt et old k) (elemInt et b k))
  | 3 => old &&& b
  | 4 => old ||| b
  | 5 => old ^^^ b
  | 6 => b
  | 7 => if old = d then b else old
  | _ => match etFmt et with
    | none => old
    | some f =>
      let r := { roundingOf mode with rm := 0 }
      mapElems et fun k =>
        f.enc r 0 (Val.add 0 (f.operand r.ftz (elemCode (etWidth et) old k)) (f.operand r.ftz (elemCode (etWidth et) b k)))

/-- Perform one atomic at its point of atomicity (R266, R267); the old word is returned. -/
def State.atomic (s : State) (stk core : Nat) (t : AtomTarget) (op : Nat) (mode : BitVec 16) (b d : Word) : Word × State :=
  match t with
  | .glb pa =>
    let old : Word := BitVec.ofNat 32 (s.readNat pa 4)
    (old, s.glbStore stk core pa (leBytes 4 (atomNew op mode old b d).toNat))
  | .scr blk off =>
    let old : Word := match s.block? blk with
      | none => 0
      | some x => BitVec.ofNat 32 (leNat (s.bufRead x .scr off 4))
    (old, s.bufStore blk .scr off (leBytes 4 (atomNew op mode old b d).toNat) true)

/-- Perform delayed quantum reductions (R268). -/
def State.performQuanta (stk core : Nat) : List QuantumOp → State → State
  | [], s => s
  | q :: r, s => State.performQuanta stk core r (s.atomic stk core q.tgt q.op q.mode q.b 0).2

/-- An atomic must wait for its word: an engine owns the line (R274), or an earlier store of the core is on its way to the slice (R235). -/
def State.blocked (s : State) (b : Block) : AtomTarget → Bool
  | .glb pa => s.engineOwns pa 4 || s.sliceBusy b pa
  | .scr _ _ => false

/-- A delayed reduction as an item of the store queue. -/
def QuantumOp.item (q : QuantumOp) : StoreOp := .atom q.ins q.tgt q.op q.mode q.b 0 0 3 none none 0

/-- The declared use of a relaxed atomic (R268), or 5 and 6 for an acquire of the block and of a wider scope; 0 for everything else. -/
def StoreOp.useOf : StoreOp → Nat
  | .atom _ _ _ _ _ _ _ use .. => use
  | _ => 0

/-- The tick of the instruction of an item; none for a `fence`. -/
def StoreOp.ins? : StoreOp → Option Nat
  | .glb i .. => some i
  | .buf i .. => some i
  | .atom i .. => some i
  | .fence _ => none

/-- An item writes the S of a block. -/
def StoreOp.writesS (u : Nat) : StoreOp → Bool
  | .buf _ v .scr .. => v == u
  | .atom _ (.scr v _) .. => v == u
  | _ => false

/-- One store or atomic instruction has reached a block's S with some of its words and not yet with all, and some entry mirrors that block. A flush
that counts a remainder waits for the rest, which belongs to the same write (R391, assumption 128). -/
def State.midWrite (s : State) (u : Nat) : Bool :=
  (s.blocks.any fun b => (b.groups ++ b.draining).any fun g => g.stq.any fun o => o.writesS u && o.ins?.any g.begun.contains) &&
    match s.block? u with
    | some p => s.blocks.any fun b => b.subs.any fun e => s.feeds p b e.2
    | none => false

/-- The item is a quantum reduction. -/
def StoreOp.isQuantum (o : StoreOp) : Bool := o.useOf == 3

/-- The item is an acquire atomic (R268). -/
def StoreOp.acquires (o : StoreOp) : Bool := decide (5 ≤ o.useOf)

/-- An acquire atomic of the group has not been performed: no later access of the group may be (R307). -/
def Group.acquiring (g : Group) : Bool := g.stq.any StoreOp.acquires

/-- Perform the delayed quantum reductions that a test picks (R268). One that must wait for its word does so at the end of the
store queue (assumption 109). -/
def State.releaseQuanta (s : State) (u g : Nat) (due : QuantumOp → Bool) : State :=
  match s.block? u with
  | none => s
  | some b => match b.group? g with
    | none => s
    | some x =>
      if x.quantum.any due then
        let l := x.quantum.filter due
        State.performQuanta b.stk b.core (l.filter fun q => !(s.blocked b q.tgt)) (s.updGroup u g fun x =>
          { x with quantum := x.quantum.filter fun q => !(due q),
                   stq := x.stq ++ (l.filter fun q => s.blocked b q.tgt).map QuantumOp.item })
      else s

/-- Perform every delayed quantum reduction of a group (R261, R270). -/
def State.drainQuanta (s : State) (u g : Nat) : State := s.releaseQuanta u g fun _ => true

/-- Quantum reductions of a group have still to be performed: one is delayed and must wait for its word, or stands in the store queue. A
handler, a suspension, the end of the group and a save wait for them (R270). -/
def State.reductionsWait (s : State) (b : Block) (g : Group) : Bool :=
  g.quantum.any (fun q => s.blocked b q.tgt) || g.stq.any StoreOp.isQuantum

/-! ## Membership (R52 to R58) -/

/-- The completion rule of the block barrier: ARR stands in place of PS (R405). -/
def blockBarComplete (w : Nat) : Option Nat :=
  let t := Bar.ofNat w 0
  if t.pa = 0 then some ({ t with ph := (t.ph + 1) % 16, pa := t.exp, ps := 0 }).toNat else none

/-- The block barrier as a barrier whose ARR is its field of that name. -/
def Block.barView (b : Block) : Bar := let t := Bar.ofNat b.bar 0; { t with arr := t.ps, ps := 0 }

/-- Store the view back. -/
def Bar.blockWord (t : Bar) : Nat := ({ t with ps := t.arr, arr := 0 }).toNat

/-- An event on the block barrier: the change, the completion rule, and the splits at `bsync` that go on, as block-scope acquires (R405, R411,
R311). -/
def State.blockBarEvent (s : State) (u : Nat) (f : Bar → Bar) : State :=
  match s.block? u with
  | none => s
  | some b =>
    let t := f b.barView
    if t.pa = 0 then
      let wake (p : Split) : Split :=
        if p.wait = Wait.bsync t.ph then p.goOn (s.cycle b.stk) else p
      (s.updBlock u fun b =>
        { b with bar := ({ t with ph := (t.ph + 1) % 16, pa := t.exp, arr := 0 }).blockWord,
                 groups := b.groups.map fun g => { g with splits := g.splits.map wake } }).acquireAll u 0
        (b.gidsWhere fun p => decide (p.wait = Wait.bsync t.ph) && !p.stop)
    else s.updBlock u fun b => { b with bar := t.blockWord }

/-- The offsets of the membership-tracked barriers of a block (R404). -/
def State.mbOffsets (s : State) (b : Block) : List Nat :=
  ((List.range 8).map (32 * ·)).filter fun o =>
    decide (o + 32 ≤ b.sSize) && bitOf (leNat (s.bufRead b .scr o 1)) 6

/-- One membership step at the block barrier and every membership-tracked barrier (R55 to R58). -/
def State.memberStep (s : State) (u : Nat) (f : Bar → Bar) : State :=
  match s.block? u with
  | none => s
  | some b => (s.mbOffsets b).foldl (fun s o => s.barEvent u o f fun _ => false) (s.blockBarEvent u f)

/-- `detach` of a group (R56). -/
def State.detachGroup (s : State) (u g : Nat) : State :=
  match s.group? u g with
  | none => s
  | some x =>
    if x.attached then (s.updGroup u g fun x => { x with attached := false }).memberStep u (Bar.leave g) else s

/-- `attach` of a group (R57). -/
def State.attachGroup (s : State) (u g : Nat) : State :=
  match s.group? u g with
  | none => s
  | some x =>
    if x.attached then s else (s.updGroup u g fun x => { x with attached := true }).memberStep u (Bar.join 1)

/-! ## New groups (R54, R98, R101, R118) -/

/-- A group as it starts: one live split with its launched lanes, registers 0 but for the scalars given. -/
def newGroup (gid slot : Nat) (ctx : Nat) (nln baseN : Nat) (entry : Nat) (mode : BitVec 16) (mmode : BitVec 10)
    (scal : List (Nat × DWord)) (now : Nat) : Group :=
  let lanes := lowLanes nln
  { gid := gid, slot := slot, ctxid := BitVec.ofNat 64 ctx, attached := true, lanes := lanes, exited := 0,
    baseN := baseN, ext := 0, v := [], s := Sparse.putAll [] scal, p := [], gens := seedGens 0, srseed := 0, aquant := 4096,
    trapCause := 0, trapPc := 0, trapVal := 0, trapLanes := 0, trapVec := 0,
    splits := [{ age := 0, pc := BitVec.ofNat 57 entry, mask := lanes, mode := mode, mmode := mmode, gang := 0, live := true,
                 since := now, readyAt := now, wait := .none, waitT := 0, qdone := 0, qage := 0, again := none, handler := false,
                 stop := false, owed := [], owedTurns := 0, walked := [], inval := [], early := [] }],
    nextAge := 1, rot := 0, stq := [], pend := [], quantum := [], chain := none, handler := none, suspended := false,
    fetched := [], puts := [], epoch := 0, lastIssue := 0, heldRec := [], bad := [], heard := [], begun := [] }

/-- The lowest free group indices of a block. -/
def Block.freeGids (b : Block) : List Nat := (List.range 32).filter fun g => !(b.groups.any fun x => x.gid == g)

/-- Add one group to a block on its core; it attaches under R55. CTXID counts up at the stack (R209). -/
def State.addGroup (s : State) (b : Block) (gid nln entry : Nat) (scal : List (Nat × DWord)) : State :=
  let l := s.launchOf b
  let slot := nth 0 (s.freeSlots b.stk b.core) 0
  let ctx := 4 * (s.stack b.stk).nextCtx + b.stk
  let s := s.updStack b.stk fun k => { k with nextCtx := k.nextCtx + 1 }
  let g := newGroup gid slot ctx nln b.baseN entry l.mode l.mmode scal (s.cycle b.stk)
  (s.updBlock b.uid fun b => { b with groups := insertBy (·.gid) g b.groups }).memberStep b.uid (Bar.join 1)

/-! ## The end of lanes and groups (R45, R191, R396) -/

/-- The lock of a word at a stack. -/
def Stack.lockOn (k : Stack) (pa : Nat) : Option LockEntry := k.locks.find? fun e => e.pa == pa

/-- Waiters in the pool of a slice. -/
def Stack.lockWaiters (k : Stack) (sl : Nat) : Nat := ((k.locks.filter fun e => e.slice == sl).map fun e => e.waiters.length).sum

/-- Entries in use at a slice. -/
def Stack.lockEntries (k : Stack) (sl : Nat) : Nat := (k.locks.filter fun e => e.slice == sl).length

/-- The table has room for a `lock` of a word: a waiter slot where the word is locked, else an entry (R395). -/
def Stack.lockRoom (k : Stack) (sl pa : Nat) : Bool :=
  match k.lockOn pa with
  | some e => decide (k.lockWaiters e.slice < 4096)
  | none => decide (k.lockEntries sl < 256)

/-- An entry or a waiter slot frees at a slice: the groups on its table-space list for which there is room execute `lock` again, in the order of
the list, where each keeps its place until it has left it (R395, assumption 129). -/
def State.retryLock (s : State) (stk slice : Nat) : State :=
  ((s.stack stk).lockSpace.filter fun w => w.1 == slice).foldl (fun s w =>
    s.updGroup w.2.1 w.2.2.1 fun x => x.updSplit w.2.2.2 fun p => match p.wait with
      | .lock pa => if (s.stack stk).lockRoom slice pa then p.wake (s.cycle stk) else p
      | _ => p) s

/-- Lock sleepers that a test picks leave their FIFOs and the table-space lists; every slot that frees is one to try again for (R395,
R396). -/
def State.dropLockWaits (s : State) (stk : Nat) (p : Nat × Nat × Nat → Bool) : State :=
  let freed := (s.stack stk).locks.flatMap fun e => (e.waiters.filter p).map fun _ => e.slice
  freed.foldl (fun s k => s.retryLock stk k) (s.updStack stk fun k =>
    { k with locks := k.locks.map fun e => { e with waiters := e.waiters.filter fun w => !(p w) },
             lockSpace := k.lockSpace.filter fun w => !(p w.2) })

/-- Hand a lock to its head waiter, which completes its `lock` as an acquire, or free the entry; the first group on the slice's
table-space list tries again (R395). -/
def State.passLock (s : State) (stk : Nat) (e : LockEntry) : State :=
  let now := s.cycle stk
  let rest := (s.stack stk).locks.filter fun x => !(decide (x = e))
  match e.waiters with
  | [] => (s.updStack stk fun k => { k with locks := rest }).retryLock stk e.slice
  | (u, g, a) :: more =>
    let owner := match s.group? u g with | some x => x.ctxid | none => 0
    let s := s.updStack stk fun k =>
      { k with locks := rest ++ [{ e with owner := owner, order := k.lockSeq, waiters := more }], lockSeq := k.lockSeq + 1 }
    ((s.acquire u g 2).updGroup u g fun x => x.updSplit a (Split.finish now)).retryLock stk e.slice

/-- Release every lock a group holds, in the order in which it took them (R396). -/
def State.releaseLocks (s : State) (stk : Nat) (owner : DWord) : State :=
  (sortBy (·.order) ((s.stack stk).locks.filter fun e => decide (e.owner = owner))).foldl
    (fun s e => match (s.stack stk).locks.find? fun x => x.pa == e.pa with
      | some x => s.passLock stk x
      | none => s) s

/-- A group ends (R45, R191): delayed reductions are performed, it leaves membership, releases its locks, YIELDREQ falls, its
slot frees; what is in flight drains. -/
def State.endGroup (s : State) (u g : Nat) : State :=
  let s := (s.drainQuanta u g).detachGroup u g
  match s.block? u with
  | none => s
  | some b => match b.group? g with
    | none => s
    | some x =>
      let s := (b.poisonBatches.filter fun e => e.2.1 == g).foldl (fun (s : State) e => s.notice b g 0x1C e.2.2) s
      let s := s.releaseLocks b.stk x.ctxid
      let s := s.updBlock u fun b =>
        { b with groups := b.groups.filter fun y => !(y.gid == g),
                 draining := if s.quiet x then b.draining
                   else b.draining ++ [{ x with splits := [], chain := none }],
                 yieldreq := b.yieldreq - 1, emptySince := s.time,
                 poisonBatches := b.poisonBatches.filter fun e => !(e.2.1 == g) }
      let s := s.updCore b.stk b.core fun c => { c with racq := c.racq.filter fun r => !(r.1 == u && r.2.1 == g) }
      s.granulesFreed b.stk b.core

/-- Remove lanes of a split for good (R45, R191); the PC of what remains moves on by the caller. -/
def State.exitLanes (s : State) (c : Cur) (m : LaneMask) : State :=
  match s.block? c.blk with
  | none => s
  | some b => match b.group? c.gid with
    | none => s
    | some _ =>
      let now := s.cycle b.stk
      let s := s.updCur c fun g =>
        let g := { g.updSplit c.age fun p => { p with mask := p.mask &&& ~~~m } with exited := g.exited ||| m }
        (({ g with splits := g.splits.filter fun p => !(decide (p.mask = 0)) }).refill now |>.handlerEnd now).rendezvous now
      match s.group? c.blk c.gid with
      | none => s
      | some g => if g.alive = 0 then s.endGroup c.blk c.gid else s

/-! ## Taking a precise fault (R205 to R208) -/

/-- A precise fault: its cause, TRAPVAL, and the faulting lanes, none for the whole split (R204). -/
structure Trap where
  cause : Nat
  val   : Nat
  lanes : Option LaneMask := none
  deriving DecidableEq, Repr

/-- Send the oldest record that a group slot holds, once the group's earlier stores and puts are performed (R212, R320); also of a group that
has ended meanwhile. -/
def State.tryHeld (s : State) (u n : Nat) : State :=
  match s.block? u with
  | none => s
  | some b => match b.groupAt n with
    | none => s
    | some x => match x.heldRec with
      | [] => s
      | w :: _ =>
        if x.stq.isEmpty && x.puts.isEmpty && !(s.inTransit x.ctxid) then
          match s.sendRecord b.stk w with
          | some s => s.updBlock u fun b => b.updAt n fun x => { x with heldRec := x.heldRec.drop 1 }
          | none => s
        else s

/-- Send what the ended groups of a block hold. -/
def State.tryEnded (s : State) (u : Nat) : State :=
  match s.block? u with
  | none => s
  | some b => (List.range b.draining.length).foldl (fun s k => s.tryHeld u (32 + k)) s

/-- A pending result arrives: its registers are written (R257, R170, R267, R269). -/
def Group.applyPend (g : Group) (p : Pend) : Group :=
  let g := { g with v := Sparse.putAll g.v p.vw, s := Sparse.putAll g.s p.sw }
  (g.setP 6 p.p6set (BitVec.allOnes 32)).setP 6 p.p6clr 0

/-- Some register of one list is in the other. -/
def overlaps (a b : List Nat) : Bool := a.any fun r => b.contains r

/-- A pending result holds back some register of the lists. -/
def Group.pendingOn (g : Group) (vs ss : List Nat) (p6 : Bool) : Bool :=
  g.pend.any fun p => overlaps p.vregs vs || overlaps (p.sw.map (·.1)) ss || (p6 && p.p6)

/-- Splits that wait on an operand become ready when the last result they wait for has arrived (R51). -/
def Group.wakeOperands (now : Nat) (g : Group) : Group :=
  { g with splits := g.splits.map fun p => match p.wait with
      | .operand vs ss p6 => if g.pendingOn vs ss p6 then p else p.wake now
      | _ => p }

/-- Every pending result of `fdiv` to `flog2` is written: before a handler, a suspension or a save (R170). -/
def Group.flushLong (now : Nat) (g : Group) : Group :=
  let long := g.pend.filter fun p => decide (p.kind = .long)
  ((long.foldl Group.applyPend { g with pend := g.pend.filter fun p => !(decide (p.kind = .long)) })).wakeOperands now

/-- Undo what the open chain of the split has done to the generators, and give the chain head's address (R83). The chain of another
split stays open and runs to its end (R205). For LATCH-RANGE at what would be position 8 too this is the head, though a chain holds at most eight
(assumption 132). -/
def Group.closeChain (g : Group) (p : Split) : BitVec 57 × Group :=
  match g.chain with
  | some c =>
    if c.age ≠ p.age then (p.pc, g)
    else if c.next = p.pc then (c.head, { g with chain := none, gens := c.gens })
    else (p.pc, { g with chain := none })
  | none => (p.pc, g)

/-- The group is already stopping for another fault: it is suspended, or it runs a handler to which the split does not belong (R205). -/
def Group.stopping (g : Group) (p : Split) : Bool := g.suspended || (g.handler.isSome && !p.handler)

/-- A fault of a group that is already stopping is dropped: the split stands before its instruction, or at the head of its chain, and
raises the fault again when it executes again (R205). -/
def Group.dropFault (g : Group) (p : Split) (now : Nat) : Group :=
  (g.closeChain p).2.updSplit p.age fun q => { q.wake now with pc := (g.closeChain p).1, walked := [], inval := [], early := [], qage := 0 }

/-- Run the handler at TRAPVEC in a split's lanes (R112, R187). -/
def Group.enterHandler (g : Group) (l : Launch) (p : Split) (cause : Nat) (pc : BitVec 57) (now : Nat) : Group :=
  let h : Handler := { age := p.age, mode := p.mode, mmode := p.mmode, gang := p.gang, mask := p.mask, cause := cause, pc := pc,
                       qdone := p.qdone }
  { g.updSplit p.age fun q =>
      { q.wake now with pc := BitVec.ofNat 57 (field g.trapVec 56 0), mode := l.mode, mmode := l.mmode, gang := 0,
                        handler := true, qdone := 0, qage := 0, walked := [], inval := [], early := [], again := none }
    with handler := some h }

/-- The group is suspended (R207, R208): the faulting split stands at TRAPPC and waits for a resume record. -/
def Group.suspend (g : Group) (p : Split) (pc : BitVec 57) : Group :=
  { g.updSplit p.age fun q => { q with pc := pc, wait := .fault, walked := [], inval := [], early := [], qage := 0 } with suspended := true }

/-- Precise delivery (R205 to R208): the chain closes at its head; delayed reductions are performed (R270) and long
results written (R170); the trap registers are written and the cause counted; then the policy of R207 runs the handler or suspends the
group with a record. A group that is already stopping drops the fault; while a reduction must wait for its word the split stands before its
instruction, or at the head of its chain, and faults when it executes that again (R270). -/
def State.takeTrap (s : State) (c : Cur) (t : Trap) : State :=
  let s := s.drainQuanta c.blk c.gid
  match s.block? c.blk with
  | none => s
  | some b => match b.group? c.gid with
    | none => s
    | some g => match g.split? c.age with
      | none => s
      | some p =>
        let l := s.launchOf b
        let now := s.cycle b.stk
        if g.stopping p || s.reductionsWait b g then s.updCur c fun g => g.dropFault p now else
        let pc := (g.closeChain p).1
        let lanes := t.lanes.getD p.mask
        let g1 := { (g.closeChain p).2.flushLong now with
          trapCause := BitVec.ofNat 64 t.cause, trapPc := BitVec.ofNat 64 pc.toNat, trapVal := BitVec.ofNat 64 t.val,
          trapLanes := BitVec.ofNat 64 lanes.toNat }
        let s := s.countFault b.stk t.cause
        let nested := g.handler.isSome
        if !nested && l.handle && decide (g.trapVec ≠ 0) && decide (t.cause ≠ 0x0B) && decide (t.cause ≠ 0x1C) then
          s.updCur c fun _ => g1.enterHandler l p t.cause pc now
        else
          let kind := if nested && decide (t.cause ≠ 0x0B) && decide (t.cause ≠ 0x1C) then 3 else 1
          let orig := match g.handler with | some h => if kind = 3 then h.cause else 0 | none => 0
          let w := Record.word
            { kind := kind, cause := t.cause, orig := orig, stk := b.stk, core := b.core, slot := g.slot, gid := g.gid,
              ctxid := g.ctxid.toNat, pc := pc.toNat, val := t.val, lanes := lanes.toNat, asid := l.asid.toNat,
              vmid := l.vmid.toNat, launch := l.lid } s.time
          (s.updCur c fun _ => { g1.suspend p pc with heldRec := g.heldRec ++ [w] }).tryHeld c.blk c.gid

/-- `tret` (R187): the split's lanes have returned; the handler may end. -/
def State.returnHandler (s : State) (c : Cur) : State :=
  match s.block? c.blk with
  | none => s
  | some b =>
    let now := s.cycle b.stk
    s.updCur c fun g => (g.updSplit c.age fun p => { p with wait := .returned }).handlerEnd now

end Sys2Proof.Machine
end

