-- ==== Sys2Proof/Machine/Operands.lean ====
section
/-!
DEFINITION. Operands: which registers an instruction names (R73 to R77, R82), the issuing context, the decode checks in the
order of R78, reading a source lane by lane, writing a destination, and what every instruction does around its own effect
(`issue`): the checks, the operand wait of R46 and R51, the advance of the PC and the chain of R79 to R83.
-/
namespace Sys2Proof.Machine

/-! ## The registers an instruction names -/

/-- Registers read and written that the fields name, latches, and the class of the instruction. `vn` are the vector registers
that the bound check of R77 covers. `guarded` instructions read the guard predicate. -/
structure Use where
  vr : List Nat := []
  vw : List Nat := []
  sr : List Nat := []
  sw : List Nat := []
  pr : List Nat := []
  pw : List Nat := []
  lat : List Nat := []
  vn : List Nat := []
  guarded : Bool := true
  chainable : Bool := false
  ender : Bool := false
  deriving DecidableEq, Repr

/-- Add a source (R73). -/
def Use.src (u : Use) : Src → Use
  | .v n => { u with vr := n.toNat :: u.vr, vn := n.toNat :: u.vn }
  | .latch k => { u with lat := k.toNat :: u.lat }
  | .s n => { u with sr := n.toNat :: u.sr }
  | .laneid | .glane => u

/-- Add n consecutive vector registers read. -/
def Use.vsrc (u : Use) (r n : Nat) : Use :=
  let l := (List.range n).map (r + ·)
  { u with vr := l ++ u.vr, vn := l ++ u.vn }

/-- Add n consecutive vector registers written. -/
def Use.vdst (u : Use) (r n : Nat) : Use :=
  let l := (List.range n).map (r + ·)
  { u with vw := l ++ u.vw, vn := l ++ u.vn }

/-- Add a vector destination that W may suppress (R72). -/
def Use.wdst (u : Use) (w : Bool) (d : BitVec 7) : Use := if w then u else u.vdst d.toNat 1

/-- Add scalars read. -/
def Use.ssrc (u : Use) (l : List Nat) : Use := { u with sr := l ++ u.sr }

/-- Add a scalar written. -/
def Use.sdst (u : Use) (d : BitVec 6) : Use := { u with sw := d.toNat :: u.sw }

/-- Add a predicate destination that W may suppress. -/
def Use.pdst (u : Use) (w : Bool) (d : BitVec 3) : Use := if w then u else { u with pw := d.toNat :: u.pw }

/-- A chainable instruction (R79). -/
def Use.chain : Use := { chainable := true }

/-- An instruction that reads no guard. -/
def Use.plain : Use := { guarded := false }

/-- A chainable instruction of two sources. -/
def Use.two (w : Bool) (d : BitVec 7) (a b : Src) : Use := ((Use.chain.src a).src b).wdst w d

/-- A chainable instruction of one source. -/
def Use.one (w : Bool) (d : BitVec 7) (a : Src) : Use := (Use.chain.src a).wdst w d

/-- The base of a memory operand (R222): in `glb` a vector base is a pair. -/
def Use.base (u : Use) (sp : Space) (a : Src) : Use :=
  match sp, a with
  | .glb, .v n => u.vsrc n.toNat 2
  | _, a => u.src a

/-- The address operand of an atomic (R264). -/
def Use.addr (u : Use) : AddrRef → Use
  | .vpair n => u.vsrc (2 * n.toNat) 2
  | .s n => u.ssrc [n.toNat]

/-- A tile operand names a scalar pair, or a register that the bound check leaves to R279 (R77); a tile in registers needs every lane
guarded, so the guard predicate is read (R246, R279). -/
def Use.tile (u : Use) : TileRef → Use
  | .reg _ => { u with guarded := true }
  | .buf n => u.ssrc [2 * n.toNat, 2 * n.toNat + 1]

/-- A scalar instruction of row 0xE. -/
def Use.sss (d a b : BitVec 6) : Use := ((Use.plain.ssrc [a.toNat, b.toNat])).sdst d

/-- A load of n registers. -/
def Use.load (d n : Nat) (a : Src) (sp : Space) : Use := (({ ender := true } : Use).base sp a).vdst d n

/-- A store with its data. -/
def Use.store (d : BitVec 7) (sp : Space) : Use :=
  ({ ender := true } : Use).base sp (.v d)

/-- A returning atomic. -/
def Use.atom (d : BitVec 7) (a : AddrRef) (b : Src) : Use := ((({ ender := true } : Use).addr a).src b).vdst d.toNat 1

/-- A speculative atomic writes p6 (R269). -/
def isSpeculative (mmode : BitVec 10) : Bool := field mmode 3 2 == 0 && field mmode 6 4 == 4

/-- The registers an instruction names, under the MODE and MMODE in force. With W = 1, D is no register that `cvtpk` or a shuffle reads, though
`cvtpk` would keep elements of it with W = 0 and the lanes of a shuffle with no source latch its old value (R174, R197; assumption 103). -/
def useOf (mode : BitVec 16) (mmode : BitVec 10) : Instr → Use
  | .add w d a b | .sub w d a b | .mul w d a b | .mulhi w d a b | .min w d a b | .max w d a b
  | .and w d a b | .or w d a b | .xor w d a b | .andn w d a b | .shl w d a b | .shr w d a b | .sar w d a b
  | .rotl w d a b | .sad w d a b | .bfx w d a b | .prmt w d a b | .sel w d a b
  | .fadd w d a b | .fsub w d a b | .fmul w d a b | .fmin w d a b | .fmax w d a b | .fldexp w d a b =>
    Use.two w d a b
  | .cvtpk w d a b => if etWidth (etOf mode) = 8 ∧ w = false then (Use.two w d a b).vsrc d.toNat 1 else Use.two w d a b
  | .mad w d a b | .bfi w d a b | .fma w d a b | .fms w d a b | .fnma w d a b => (Use.two w d a b).vsrc d.toNat 1
  | .addi w d a _ | .andi w d a _ | .ori w d a _ | .xori w d a _ => Use.one w d a
  | .shli w d a _ | .shri w d a _ | .sari w d a _ => Use.one w d a
  | .movi w d _ => Use.chain.wdst w d
  | .movhi w d _ => (Use.chain.vsrc d.toNat 1).wdst w d
  | .popc w d a | .clz w d a | .brev w d a | .abs w d a | .mov w d a | .fabs w d a | .fneg w d a | .frnd w d a
  | .fclass w d a | .frexp w d a => Use.one w d a
  | .cvt w d a _ => Use.one w d a
  | .cvtup w d a _ => Use.one w d a
  | .cmpeq w d a b | .cmpne w d a b | .cmplt w d a b | .cmple w d a b | .cmpgt w d a b | .cmpge w d a b
  | .cmpun w d a b => ((Use.chain.src a).src b).pdst w d
  | .pand w d a b | .por w d a b | .pxor w d a b => { Use.chain with pr := [a.toNat, b.toNat] }.pdst w d
  | .pnot w d a => { Use.chain with pr := [a.toNat] }.pdst w d
  | .pset w d a => (Use.chain.src a).pdst w d
  | .movix d a b => ((({} : Use).vsrc a.toNat 1).src b).vdst d.toNat 1
  | .stix d a b => ((({} : Use).vsrc a.toNat 1).src b).vsrc d.toNat 1
  | .fdiv d a b => ((({} : Use).src a).src b).vdst d.toNat 1
  | .fsqrt d a | .frcp d a | .frsq d a | .fexp2 d a | .flog2 d a | .lanes d a => (({} : Use).src a).vdst d.toNat 1
  | .shfl w d a b | .shflup w d a b | .shfldn w d a b | .shflx w d a b => { Use.two w d a b with pw := [6] }
  | .vall d a | .vany d a | .ballot d a | .redadd d a | .redmin d a | .redmax d a => (({} : Use).src a).sdst d
  | .scan d a b => ((({} : Use).src a).ssrc [b.toNat]).vdst d.toNat 1
  | .bcast d a b => { ((({} : Use).src a).ssrc [b.toNat]).vdst d.toNat 1 with pw := [6] }
  | .vtos d a b => { ((({} : Use).src a).ssrc [b.toNat]).sdst d with pw := [6] }
  | .nop | .yield | .detach | .attach | .tret | .splitsync | .fence | .fencei | .bsync | .mwake | .qfence
  | .qack | .brk _ | .setmode _ | .setmmode _ => Use.plain
  | .exit | .trap _ | .bra _ | .brau _ | .brany _ => {}
  | .call d _ => Use.plain.vdst d.toNat 1
  | .ret a | .jmpi a => ({} : Use).src a
  | .setgang a => Use.plain.ssrc [a.toNat]
  | .srd d _ => Use.plain.sdst d
  | .swr d _ => Use.plain.ssrc [d.toNat]
  | .grow d a _ => (Use.plain.ssrc [a.toNat]).sdst d
  | .racq d _ | .rrel d _ => Use.plain.sdst d
  | .ld8 d a sp _ | .ld16 d a sp _ | .ld32 d a sp _ | .ld8s d a sp _ | .ld16s d a sp _ => Use.load d.toNat 1 a sp
  | .ld64 d a sp _ => Use.load (2 * d.toNat) 2 a sp
  | .ld128 d a sp _ => Use.load (4 * d.toNat) 4 a sp
  | .st8 d a sp _ | .st16 d a sp _ | .st32 d a sp _ => (Use.store d sp).src a
  | .st64 d a sp _ => match a with
    | .v n => (Use.store d sp).vsrc n.toNat 2
    | a => (Use.store d sp).src a
  | .st128 d a sp _ => (Use.store d sp).vsrc (4 * a.toNat) 4
  | .pref a sp _ => ({} : Use).base sp a
  | .ldu d a sp _ => (({ ender := true } : Use).base sp a).sdst d
  | .aadd d a b | .amin d a b | .amax d a b | .aand d a b | .aor d a b | .axor d a b | .axchg d a b | .afadd d a b =>
    let u := Use.atom d a b
    if isSpeculative mmode then { u with pw := [6] } else u
  | .acas d a b =>
    let u := (Use.atom d a b).vsrc d.toNat 1
    if isSpeculative mmode then { u with pw := [6] } else u
  | .radd a b | .rmin a b | .rmax a b | .rfadd a b =>
    let u := (({ ender := true } : Use).addr a).src b
    if isSpeculative mmode then { u with pw := [6] } else u
  | .lock a | .unlock a | .bwait a | .mwait a | .qclose a | .lrinv a | .wunsub a | .wflush a =>
    Use.plain.ssrc [a.toNat]
  | .copy d a b | .copym d a b =>
    (Use.plain.ssrc [2 * a.toNat, 2 * a.toNat + 1, 2 * b.toNat, 2 * b.toNat + 1]).sdst d
  | .bclose d | .mfence d => Use.plain.sdst d
  | .barinit a b | .barwait a b | .barexp a b | .remarr a b | .tlbinv a b | .qputs a b =>
    Use.plain.ssrc [a.toNat, b.toNat]
  | .barcont a b => ({} : Use).ssrc [a.toNat, b.toNat]
  | .bararr d a b | .bartry d a b | .qrsv d a b | .qgets d a b | .lrload d a b | .qxsetDropVqn d a b
  | .qxsetDropAsid d a b | .qxsetDropAll d a b | .qxsetWriteDescriptor d a b | .cwait d a b => Use.sss d a b
  | .mma _ a b | .mmaz _ a b => (Use.plain.tile a).tile b
  | .thdr _ a => Use.plain.ssrc [2 * a.toNat, 2 * a.toNat + 1]
  | .tld _ a | .tst a _ => ({} : Use).ssrc [2 * a.toNat, 2 * a.toNat + 1]
  | .tchk d a => (Use.plain.tile a).sdst d
  | .hadq d a b => ((Use.plain.tile a).tile b).ssrc [d.toNat]
  | .transq a b | .cvtt a b => (Use.plain.tile a).tile b
  | .tfill a b => (Use.plain.tile b).ssrc [a.toNat]
  | .qopen d a b =>
    (Use.plain.ssrc (if b = 0 then [a.toNat] else [a.toNat, 2 * b.toNat, 2 * b.toNat + 1])).sdst d
  | .qput a b | .emit a b => (Use.plain.ssrc [a.toNat]).vsrc b.toNat 1
  | .qget d a => (Use.plain.ssrc [a.toNat]).vdst d.toNat 1
  | .qtry d a => { (Use.plain.ssrc [a.toNat]).vdst d.toNat 1 with pw := [6] }
  | .qpeek d a | .crd d a | .eres d a | .erel d a | .eqry d a | .saddi d a _ => (Use.plain.ssrc [a.toNat]).sdst d
  | .qsvc a b => (({} : Use).ssrc [a.toNat]).vsrc (2 * b.toNat) 4
  | .wsub a b => Use.plain.ssrc [2 * a.toNat, 2 * a.toNat + 1, b.toNat]
  | .sadd d a b | .ssub d a b | .smul d a b | .sand d a b | .sor d a b | .sxor d a b | .sshl d a b | .sshr d a b
  | .ssar d a b | .scmplt d a b | .scmpeq d a b | .smin d a b | .smax d a b => Use.sss d a b
  | .smovi d _ => Use.plain.sdst d
  | .smovhi d _ => (Use.plain.ssrc [d.toNat]).sdst d
  | _ => Use.plain

/-! ## What the fields may not say under MODE and MMODE -/

/-- The system registers of R117 that `srd` reads. -/
def sysRegs : List Nat :=
  [0x00, 0x01, 0x10, 0x11, 0x12, 0x13, 0x14, 0x15, 0x16, 0x17, 0x18, 0x19, 0x20, 0x21, 0x30, 0x40, 0x41, 0x42, 0x43, 0x44,
   0x50, 0x51, 0x60, 0x61, 0x70, 0x80, 0x81, 0x82, 0x83]

/-- The system registers that `swr` writes (R117). -/
def sysRegsRW : List Nat := [0x44, 0x50, 0x51, 0x60]

/-- The USE of a relaxed atomic allows its OP (R268). `kind` is 0 for 0x90 to 0x95 and 0x98, 1 for `axchg` and `acas`, 2 for
the reductions. -/
def useAllowed (mmode : BitVec 10) (kind : Nat) : Bool :=
  if field mmode 3 2 ≠ 0 then true
  else match field mmode 6 4 with
    | 0 | 2 | 4 => true
    | 1 => kind ≠ 1
    | 3 => kind = 2
    | _ => false

/-- ILLEGAL-OPERAND conditions of decode that depend on MODE, MMODE or an immediate (R53, R117, R162, R165, R171, R174 to R176,
R193, R265, R268). -/
def badOperand (mode : BitVec 16) (mmode : BitVec 10) : Instr → Bool
  | .fadd _ _ _ _ | .fsub _ _ _ _ | .fmul _ _ _ _ | .fma _ _ _ _ | .fms _ _ _ _ | .fnma _ _ _ _ | .fmin _ _ _ _
  | .fmax _ _ _ _ | .fldexp _ _ _ _ => !etFloat (etOf mode)
  | .fabs _ _ _ | .fneg _ _ _ | .fclass _ _ _ | .frexp _ _ _ => !etFloat (etOf mode)
  | .fdiv _ _ _ => !etFloat (etOf mode)
  | .fsqrt _ _ | .frcp _ _ | .frsq _ _ | .fexp2 _ _ | .flog2 _ _ => !etFloat (etOf mode)
  | .frnd _ _ _ => !([2, 3, 4, 9, 10].contains (etOf mode))
  | .cvt _ _ _ k => !(decide (k.toNat < 12) && etWidth k.toNat == etWidth (etOf mode))
  | .cvtpk _ _ _ _ => etWidth (etOf mode) == 32
  | .cvtup _ _ _ k => etWidth (etOf mode) == 32 || decide (etCount (etOf mode) ≤ k.toNat)
  | .srd _ k => !(sysRegs.contains k.toNat)
  | .swr _ k => !(sysRegsRW.contains k.toNat)
  | .grow _ _ k => k.toNat == 0 || decide (32 < k.toNat)
  | .racq _ k | .rrel _ k => k.toNat == 0 || decide (15 < k.toNat)
  | .aadd _ _ _ | .amin _ _ _ | .amax _ _ _ | .aand _ _ _ | .aor _ _ _ | .axor _ _ _ => !useAllowed mmode 0
  | .axchg _ _ _ | .acas _ _ _ => !useAllowed mmode 1
  | .afadd _ _ _ => !([2, 3, 4].contains (etOf mode)) || !useAllowed mmode 0
  | .radd _ _ | .rmin _ _ | .rmax _ _ => !useAllowed mmode 2
  | .rfadd _ _ => !([2, 3, 4].contains (etOf mode)) || !useAllowed mmode 2
  | _ => false

/-- Instructions that a user kernel may not execute (R117, R388). -/
def isPrivileged : Instr → Bool
  | .swr _ k => k.toNat == 0x60
  | .qxsetDropVqn _ _ _ | .qxsetDropAsid _ _ _ | .qxsetDropAll _ _ _ | .qxsetWriteDescriptor _ _ _ => true
  | _ => false

/-! ## The issuing context -/

/-- What an instruction sees when it issues: the state with any chain of an earlier turn closed, the block, group, split and
launch, and its position in its chain. -/
structure Ctx where
  s   : State
  c   : Cur
  b   : Block
  g   : Group
  p   : Split
  l   : Launch
  pos : Nat
  deriving DecidableEq, Repr

/-- The position of an instruction: that of the open chain if it names a latch and continues it, else 0 (R80). -/
def chainPos (g : Group) (p : Split) (lat : List Nat) : Nat :=
  match g.chain with
  | some ch => if lat ≠ [] ∧ ch.age = p.age ∧ ch.next = p.pc then ch.pos else 0
  | none => 0

/-- The issuing context, if `State.cur` names a split. A new turn closes any open chain of the group (R48). -/
def State.ctx? (s : State) (i : Instr) : Option Ctx :=
  match s.cur with
  | none => none
  | some c => match s.block? c.blk with
    | none => none
    | some b => match b.group? c.gid with
      | none => none
      | some g => match g.split? c.age with
        | none => none
        | some p =>
          let pos := chainPos g p (useOf p.mode p.mmode i).lat
          let g1 := if pos = 0 then { g with chain := none } else g
          some { s := s.updCur c fun _ => g1, c := c, b := b, g := g1, p := p, l := s.launchOf b, pos := pos }

/-- MODE of the issuing split. -/
def Ctx.mode (x : Ctx) : BitVec 16 := x.p.mode
/-- MMODE of the issuing split. -/
def Ctx.mmode (x : Ctx) : BitVec 10 := x.p.mmode
/-- MODE.ET. -/
def Ctx.et (x : Ctx) : Nat := etOf x.p.mode
/-- MODE.SAT. -/
def Ctx.sat (x : Ctx) : Bool := bitOf x.p.mode.toNat 11
/-- MODE.GP. -/
def Ctx.gp (x : Ctx) : Nat := field x.p.mode 2 0
/-- CYCLE at the issuing core. -/
def Ctx.now (x : Ctx) : Nat := x.s.cycle x.b.stk
/-- The active lanes. -/
def Ctx.active (x : Ctx) : LaneMask := x.p.mask
/-- The guard of every lane (R112). -/
def Ctx.guard (x : Ctx) : LaneMask := if bitOf x.p.mode.toNat 3 then ~~~(x.g.preg x.gp) else x.g.preg x.gp
/-- The active lanes where the guard holds. -/
def Ctx.act (x : Ctx) : LaneMask := x.active &&& x.guard
/-- MMODE.SCOPE (R113). -/
def Ctx.scope (x : Ctx) : Nat := field x.p.mmode 1 0
/-- MMODE.ORD. -/
def Ctx.ord (x : Ctx) : Nat := field x.p.mmode 3 2
/-- MMODE.USE. -/
def Ctx.useMode (x : Ctx) : Nat := field x.p.mmode 6 4
/-- MMODE.CACHE. -/
def Ctx.cache (x : Ctx) : Nat := field x.p.mmode 8 7
/-- MMODE.VOL. -/
def Ctx.vol (x : Ctx) : Bool := bitOf x.p.mmode.toNat 9

/-- TRAPVAL of the decode faults: the word and the chain position (R78). A latch named at what would be position 8 gives LATCH-RANGE (R80);
TRAPVAL<34:32> cannot hold 8 and the spec does not say what it holds: 0 here (assumption 101). -/
def Ctx.wordVal (x : Ctx) (i : Instr) : Nat := (encode i).toNat + x.pos % 8 * 2 ^ 32

/-- ILLEGAL-OPERAND at the whole split. -/
def Ctx.illegalOperand (x : Ctx) (i : Instr) : Trap := { cause := 0x02, val := x.wordVal i }

/-- REG-RANGE with the instruction word. -/
def Ctx.regRange (x : Ctx) (i : Instr) : Trap := { cause := 0x04, val := x.wordVal i }

/-- Read lane l of a source (R73). -/
def Ctx.rdv (x : Ctx) (a : Src) (l : Nat) : Word :=
  match a with
  | .v n => x.g.vreg n.toNat l
  | .latch k => match x.g.chain with
    | some ch => nth 0 (nth [] ch.lat k.toNat) l
    | none => 0
  | .laneid => BitVec.ofNat 32 l
  | .glane => BitVec.ofNat 32 (32 * x.g.gid + l)
  | .s n => (x.g.sreg n.toNat).setWidth 32

/-- Read a scalar. -/
def Ctx.rds (x : Ctx) (n : BitVec 6) : DWord := x.g.sreg n.toNat

/-- Read a scalar by number. -/
def Ctx.rdn (x : Ctx) (n : Nat) : DWord := x.g.sreg n

/-! ## The decode checks (R78) -/

/-- LATCH-RANGE (R80). -/
def latchRange (u : Use) (pos : Nat) : Bool :=
  !u.lat.isEmpty && (pos == 0 || decide (8 ≤ pos) || u.lat.any fun k => decide (pos ≤ k))

/-- The registers read count the guard predicate (R82). -/
def Use.preds (u : Use) (gp : Nat) : List Nat := if u.guarded then gp :: u.pr else u.pr

/-- CHAIN-HAZARD at a position above 0 (R82): p7 and s0 are never written. -/
def chainHazard (ch : Option Chain) (u : Use) (gp pos : Nat) : Bool :=
  match ch with
  | none => false
  | some ch => decide (0 < pos) && (ch.viol || overlaps u.vw (u.vr ++ ch.vr) || overlaps (u.sw.filter (· ≠ 0)) (u.sr ++ ch.sr) ||
      overlaps (u.pw.filter (· ≠ 7)) (u.preds gp ++ ch.pr))

/-- The first decode fault in the order of R78, ILLEGAL-INSTRUCTION apart. ILLEGAL-OPERAND for the value of a register is no decode fault and comes
after: `qxset` in a user kernel raises PRIVILEGE whatever rds(A) holds (assumption 132). -/
def Ctx.check (x : Ctx) (i : Instr) : Option Trap :=
  let u := useOf x.mode x.mmode i
  if badOperand x.mode x.mmode i then some (x.illegalOperand i)
  else if latchRange u x.pos then some { cause := 0x05, val := x.wordVal i }
  else if chainHazard x.g.chain u x.gp x.pos then some { cause := 0x06, val := x.wordVal i }
  else if u.vn.any fun r => decide (x.g.bound ≤ r) then some (x.regRange i)
  else if isPrivileged i && !x.l.priv then some { cause := 0x21, val := x.wordVal i }
  else none

/-! ## The operand wait (R46, R51) -/

/-- The wait of a split for the operands of an instruction: the registers that it reads or writes. -/
def Split.operandWait (p : Split) (i : Instr) : Wait :=
  let u := useOf p.mode p.mmode i
  .operand (u.vr ++ u.vw) (u.sr ++ u.sw) ((u.preds (field p.mode 2 0) ++ u.pw).contains 6)

/-- A group has a pending result on which a split that waits so waits. -/
def Group.holds (g : Group) : Wait → Bool
  | .operand vs ss p6 => g.pendingOn vs ss p6
  | _ => false

/-- The instruction reads or writes a register that is still pending. -/
def Ctx.pending (x : Ctx) (i : Instr) : Bool := x.g.holds (x.p.operandWait i)

/-- The first uncorrectable register that the instruction reads, by the code of R204. -/
def Ctx.badRegister (x : Ctx) (i : Instr) : Option Nat :=
  let u := useOf x.mode x.mmode i
  (u.vr ++ u.sr.map (0xC0 + ·) ++ (u.preds x.gp).map (0x90 + ·)).find? fun r => x.g.bad.contains r

/-- The registers that the instruction has written hold good words again. -/
def Use.mend (u : Use) (bad : List Nat) : List Nat :=
  bad.filter fun r => !((u.vw ++ u.sw.map (0xC0 + ·) ++ u.pw.map (0x90 + ·)).contains r)

/-- The split waits. -/
def Ctx.waitAs (x : Ctx) (w : Wait) : State := x.s.updSplit x.c fun p => { p with wait := w }

/-- The split waits until nothing holds back some vector registers. -/
def Ctx.waitRegs (x : Ctx) (vs : List Nat) : State := x.waitAs (.operand vs [] false)

/-! ## Around an instruction -/

/-- What the effect of an instruction ends in: done (the PC advances; the latch values of a chainable one), a jump (the
effect has set the PCs), a wait (the PC stays), or a precise fault. -/
inductive Res where
  | done (s : State) (lat : List Word)
  | jump (s : State)
  | wait (s : State)
  | trap (t : Trap)
  deriving DecidableEq, Repr

/-- The chain after a chainable instruction (R80, R81). -/
def Ctx.chainAfter (x : Ctx) (u : Use) (lat : List Word) : Option Chain :=
  if u.chainable then
    match x.g.chain with
    | some ch =>
      some { ch with pos := ch.pos + 1, next := x.p.pc + 4, lat := lat :: ch.lat, vr := u.vr ++ ch.vr, sr := u.sr ++ ch.sr,
                     pr := u.preds x.gp ++ ch.pr }
    | none =>
      some { age := x.p.age, head := x.p.pc, pos := 1, next := x.p.pc + 4, lat := [lat], vr := u.vr, sr := u.sr,
             pr := u.preds x.gp, gens := x.g.gens,
             viol := overlaps u.vw u.vr || overlaps (u.pw.filter (· ≠ 7)) (u.preds x.gp) }
  else none

/-- The lanes that act are the last of the group, and a delayed reduction of it has still to be performed first (R270). -/
def Ctx.lastWaits (x : Ctx) : Bool := decide (x.g.alive &&& ~~~x.act = 0) && x.s.reductionsWait x.b x.g

/-- The walk results that a split keeps past an instruction: the chain that a chainable one may open can run again from its head
(assumption 126), and then does not walk again. -/
def Ctx.walkedAfter (x : Ctx) (i : Instr) : List (Nat × WalkResult) := if (useOf x.mode x.mmode i).chainable then x.p.walked else []

/-- The instruction has completed: the split stands at the next address and is ready again from now on (R41, R47). -/
def Ctx.retire (x : Ctx) (i : Instr) (s : State) (lat : List Word) : State :=
  s.updCur x.c fun g =>
    { g.updSplit x.c.age fun p => { p with pc := x.p.pc + 4, readyAt := x.now, walked := x.walkedAfter i, inval := [], early := [], qage := 0, again := none, wait := .none }
      with chain := x.chainAfter (useOf x.mode x.mmode i) lat, bad := (useOf x.mode x.mmode i).mend g.bad }

/-- The instruction has set the PCs itself: no chain is open. -/
def Ctx.leave (x : Ctx) (s : State) : State :=
  s.updCur x.c fun g =>
    { g.updSplit x.c.age fun p => { p with walked := [], inval := [], early := [], qage := 0, again := none } with chain := none }

/-- What every instruction does around its own effect: the decode checks of R78, the operand wait, UNCORRECTABLE on a register
it reads (R26, R204), the effect, and what it ends in. -/
def issue (i : Instr) (s : State) (effect : Ctx → Res) : Host.Outcome State Fault Refusal :=
  match s.ctx? i with
  | none => .fault .noIssuer
  | some x =>
    match x.check i with
    | some t => .next (x.s.takeTrap x.c t)
    | none =>
      if x.pending i then .next (x.waitAs (x.p.operandWait i))
      else match x.badRegister i with
        | some r => .next (x.s.takeTrap x.c { cause := 0x1C, val := 0xFFFFFFFFFFFFFF00 + r })
        | none => match effect x with
          | .done s lat => .next (x.retire i s lat)
          | .jump s => .next (x.leave s)
          | .wait s => .next s
          | .trap t => .next (x.s.takeTrap x.c t)

/-! ## Destinations -/

/-- Write the lanes of a mask of a vector register. -/
def Group.setLanes (g : Group) (d : Nat) (m : LaneMask) (f : Nat → Word) : Group :=
  { g with v := Sparse.putAll g.v ((lanesOf m).map fun l => (32 * d + l, f l)) }

/-- The latch values of a vector result (R81): the result in the lanes of the mask, elsewhere the unchanged destination, or 0
under W. -/
def latchLanes (g : Group) (w : Bool) (d : Nat) (m : LaneMask) (f : Nat → Word) : List Word :=
  (List.range 32).map fun l => if m.getLsbD l then f l else if w then 0 else g.vreg d l

/-- An instruction with a vector result per lane of a mask. -/
def Ctx.vector (x : Ctx) (w : Bool) (d : BitVec 7) (m : LaneMask) (f : Nat → Word) : Res :=
  .done (if w then x.s else x.s.updCur x.c fun g => g.setLanes d.toNat m f) (latchLanes x.g w d.toNat m f)

/-- An instruction with a vector result in the active guarded lanes. -/
def Ctx.lanewise (x : Ctx) (w : Bool) (d : BitVec 7) (f : Nat → Word) : Res := x.vector w d x.act f

/-- An instruction with a scalar result. -/
def Ctx.scalar (x : Ctx) (d : BitVec 6) (r : DWord) : Res := .done (x.s.updCur x.c fun g => g.setS d.toNat r) []

/-- An instruction that changes nothing but the PC. -/
def Ctx.nothing (x : Ctx) : Res := .done x.s []

/-- A vector result that takes generator values (R134): `f l gen` is the word of lane l with the generator after it. -/
def Ctx.lanewiseGen (x : Ctx) (w : Bool) (d : BitVec 7) (f : Nat → Word → Word × Word) : Res :=
  let rs := (List.range 32).map fun l => f l (nth 0 x.g.gens l)
  let gens := (List.range 32).map fun l => if x.act.getLsbD l then (nth (0, 0) rs l).2 else nth 0 x.g.gens l
  let val (l : Nat) : Word := (nth (0, 0) rs l).1
  .done (x.s.updCur x.c fun g =>
      let g := { g with gens := gens }
      if w then g else g.setLanes d.toNat x.act val)
    (latchLanes x.g w d.toNat x.act val)

end Sys2Proof.Machine
end

