-- ==== Sys2Proof/Machine/Flags.lean ====
section
/-!
DEFINITION. Predicates as flags: results written to a predicate with their latch values (R81, R155, R157), the status
predicate p6 (R109, R197, R269), and the comparisons of R156.
-/
namespace Sys2Proof.Machine

/-- A test per lane as a mask. -/
def maskWhere (m : LaneMask) (f : Nat → Bool) : LaneMask := m &&& maskOf f

/-- An instruction with a predicate destination (R155): 1 or 0 in each active guarded lane; W suppresses the write. -/
def Ctx.predicate (x : Ctx) (w : Bool) (d : BitVec 3) (f : Nat → Bool) : Res :=
  let r := maskOf f
  .done (if w then x.s else x.s.updCur x.c fun g => g.setP d.toNat x.act r)
    ((List.range 32).map fun l =>
      if x.act.getLsbD l then BitVec.ofNat 32 (b2n (f l))
      else if w then 0 else BitVec.ofNat 32 (b2n ((x.g.preg d.toNat).getLsbD l)))

/-- Set the status predicate p6 in the lanes of a mask to the bits of another (R109). -/
def Ctx.setStatus (x : Ctx) (s : State) (m r : LaneMask) : State := s.updCur x.c fun g => g.setP 6 m r

/-! ## Comparisons (R155, R156) -/

/-- How one element pair compares. -/
inductive Order where
  | less | equal | greater | unordered
  deriving DecidableEq, Repr

/-- The order of two integers. -/
def orderInt (a b : Int) : Order := if a < b then .less else if a = b then .equal else .greater

/-- The order of two values (R156): −0 equals +0, infinities compare by sign, a NaN is unordered. -/
def orderVal : Val → Val → Order
  | .nan _, _ => .unordered
  | _, .nan _ => .unordered
  | .inf s, .inf t => if s = t then .equal else if s then .less else .greater
  | .inf s, .fin _ _ => if s then .less else .greater
  | .fin _ _, .inf t => if t then .greater else .less
  | .fin _ p, .fin _ q => if Q.lt p q then .less else if Q.eq p q then .equal else .greater

/-- The order of element k of two words under MODE (R156). -/
def orderElem (mode : BitVec 16) (a b : Word) (k : Nat) : Order :=
  let et := etOf mode
  match etFmt et with
  | some f =>
    let ftz := (roundingOf mode).ftz
    orderVal (f.operand ftz (elemCode (etWidth et) a k)) (f.operand ftz (elemCode (etWidth et) b k))
  | none => orderInt (elemInt et a k) (elemInt et b k)

/-- The seven relations. -/
inductive Rel where
  | eq | ne | lt | le | gt | ge | un
  deriving DecidableEq, Repr

/-- A relation of two words: it holds in every element; `ne` where `eq` does not, `un` where some pair is unordered (R155). -/
def relHolds (r : Rel) (mode : BitVec 16) (a b : Word) : Bool :=
  let os := (List.range (etCount (etOf mode))).map (orderElem mode a b)
  match r with
  | .eq => os.all fun o => decide (o = .equal)
  | .ne => !(os.all fun o => decide (o = .equal))
  | .lt => os.all fun o => decide (o = .less)
  | .le => os.all fun o => decide (o = .less ∨ o = .equal)
  | .gt => os.all fun o => decide (o = .greater)
  | .ge => os.all fun o => decide (o = .greater ∨ o = .equal)
  | .un => os.any fun o => decide (o = .unordered)

end Sys2Proof.Machine
end

