-- ==== Sys2Proof/Machine/Translate.lean ====
section
/-!
DEFINITION. Translation: the Sv57 and Sv57x4 page tables with Svnapot, Svpbmt and the device extension (R375 to R377), the
translation caches and walks (R378, R379), and the checks 4 to 6 of R224 for one address.
-/
namespace Sys2Proof.Machine

/-- The kinds of access: a load, a store, a fetch, an atomic. -/
def kindR : Nat := 0
/-- A store. -/
def kindW : Nat := 1
/-- A fetch. -/
def kindX : Nat := 2
/-- An atomic. -/
def kindRW : Nat := 3

/-- An access needs R. -/
def needsR (k : Nat) : Bool := k == 0 || k == 3
/-- An access needs W. -/
def needsW (k : Nat) : Bool := k == 1 || k == 3

/-! ## Page-table entries -/

/-- A PTE is bad, names a table, or is a leaf. -/
inductive PteKind where
  | bad | table | leaf
  deriving DecidableEq, Repr

/-- PPN of a PTE. -/
def ptePpn (pte : Nat) : Nat := slice pte 53 10

/-- A PTE at a level (0 the last): the rules of the RISC-V privileged architecture with Svnapot and Svpbmt, and bits <56:54>
reserved unless the device extension is in force and the PTE is a leaf (R375, R376). -/
def pteKind (ext : Bool) (level pte : Nat) : PteKind :=
  let r := bitOf pte 1
  let w := bitOf pte 2
  let x := bitOf pte 3
  if !bitOf pte 0 || (!r && w) || decide (slice pte 60 57 ≠ 0) then .bad
  else if !r && !x then
    if decide (slice pte 56 54 ≠ 0) || decide (slice pte 63 61 ≠ 0) || bitOf pte 4 || bitOf pte 6 || bitOf pte 7 || level == 0
    then .bad else .table
  else if !ext && decide (slice pte 56 54 ≠ 0) then .bad
  else if bitOf pte 63 then (if level == 0 && ptePpn pte % 16 == 8 then .leaf else .bad)
  else if ptePpn pte % 2 ^ (9 * level) ≠ 0 then .bad
  else .leaf

/-- The size of the page of a leaf. -/
def leafSize (level pte : Nat) : Nat := if bitOf pte 63 then 65536 else 2 ^ (12 + 9 * level)

/-- The first PA of the frame of a leaf. -/
def leafBase (pte : Nat) : Nat := if bitOf pte 63 then ptePpn pte / 16 * 65536 else ptePpn pte * 4096

/-- A leaf found by a walk: its PA, its value and its level. -/
structure Leaf where
  at_   : Nat
  pte   : Nat
  level : Nat
  deriving DecidableEq, Repr

/-- Walk a table from a level down. `xlat` gives the PA of a table entry (the second stage, or the address itself). -/
def walkTable (ext : Bool) (bad : WalkResult) (xlat : State → Nat → Except WalkResult (Nat × State)) (top va : Nat) :
    Nat → Nat → State → Except WalkResult (Leaf × State)
  | level, table, s =>
    let idx := va / 2 ^ (12 + 9 * level) % 2 ^ top
    match xlat s (table + 8 * idx) with
    | .error e => .error e
    | .ok (pa, s) =>
      let pte := s.readNat pa 8
      match pteKind ext level pte, level with
      | .leaf, _ => .ok ({ at_ := pa, pte := pte, level := level }, s)
      | .table, next + 1 => walkTable ext bad xlat 9 va next (ptePpn pte * 4096) s
      | _, _ => .error bad

/-- Set A, and D for a write, by an atomic update of the PTE (R375). -/
def State.setAD (s : State) (f : Leaf) (write : Bool) : Nat × State :=
  let pte := f.pte ||| 0x40 ||| (if write then 0x80 else 0)
  if pte = f.pte then (pte, s) else (pte, s.writeMem f.at_ (leBytes 8 pte))

/-- The leaf permits an access, U apart. -/
def ptePermits (pte kind : Nat) : Bool :=
  (!needsR kind || bitOf pte 1) && (!needsW kind || bitOf pte 2) && (kind != 2 || bitOf pte 3)

/-- The second stage of a guest PA (R375): the PA and the leaf, or the failure. The leaf needs U = 1. -/
def State.stage2 (s : State) (ext : Bool) (root gpa kind : Nat) : Except WalkResult (Nat × Leaf × State) :=
  if 2 ^ 59 ≤ gpa then .error (.pageFault true)
  else match walkTable ext (.pageFault true) (fun s a => .ok (a, s)) 11 gpa 4 root s with
    | .error e => .error e
    | .ok (f, s) =>
      if bitOf f.pte 4 && ptePermits f.pte kind && slice f.pte 62 61 < 2 then
        let r := s.setAD f (needsW kind)
        .ok (leafBase f.pte + gpa % leafSize f.level f.pte, { f with pte := r.1 }, r.2)
      else .error (.protection true)

/-- The root of the first stage of an address space, and of a second stage (assumption 3). -/
def State.root1 (s : State) (asid : BitVec 16) (vmid : BitVec 14) : Option Nat :=
  (s.roots.find? fun r => decide (r.1 = asid) && decide (r.2.1 = vmid)).map (·.2.2)

/-- The root of a second stage. -/
def State.root2 (s : State) (vmid : BitVec 14) : Option Nat := (s.roots2.find? fun r => decide (r.1 = vmid)).map (·.2)

/-- A whole walk (R375): the failure, or the leaf as the caches hold it. A and D are set where the leaf permits the access. -/
def State.walk (s : State) (ext : Bool) (asid : BitVec 16) (vmid : BitVec 14) (va kind : Nat) (priv : Bool) :
    WalkResult × State :=
  match s.root1 asid vmid with
  | none => (.pageFault false, s)
  | some root =>
    let two := vmid ≠ 0
    match (if two then s.root2 vmid else some 0) with
    | none => (.pageFault true, s)
    | some r2 =>
      let xlat (s : State) (a : Nat) : Except WalkResult (Nat × State) :=
        if two then match s.stage2 ext r2 a kindR with
          | .ok (pa, _, s) => .ok (pa, s)
          | .error e => .error e
        else .ok (a, s)
      match walkTable ext (.pageFault false) xlat 9 va 4 root s with
      | .error e => (e, s)
      | .ok (f, s) =>
        if !(ptePermits f.pte kind && (priv || bitOf f.pte 4) && decide (slice f.pte 62 61 < 2)) then (.protection false, s)
        else
          let ad := s.setAD f (needsW kind)
          let pte := ad.1
          let size := leafSize f.level pte
          let vbase := va / size * size
          let e : TlbEntry :=
            { asid := asid, vmid := vmid, vbase := vbase, size := size, pbase := leafBase pte, r := bitOf pte 1, w := bitOf pte 2,
              x := bitOf pte 3, u := bitOf pte 4, g := bitOf pte 5, d := bitOf pte 7, hc := ext && bitOf pte 56,
              hstk := if ext then slice pte 55 54 else 0, r2 := true, w2 := true, x2 := true }
          if two then
            match ad.2.stage2 ext r2 (e.pbase + va % size) kind with
            | .error x => (x, ad.2)
            | .ok (pa, f2, s) =>
              let size2 := min size (leafSize f2.level f2.pte)
              (.leaf { e with vbase := va / size2 * size2, size := size2, pbase := pa / size2 * size2,
                              d := e.d && bitOf f2.pte 7, r2 := bitOf f2.pte 1, w2 := bitOf f2.pte 2, x2 := bitOf f2.pte 3,
                              gbase := (e.pbase + va % size) / size2 * size2, hc2 := ext && bitOf f2.pte 56,
                              hstk2 := if ext then slice f2.pte 55 54 else 0 }, s)
          else (.leaf e, ad.2)

/-! ## Caches (R378) -/

/-- The entry serves a VA of an address space. -/
def TlbEntry.serves (e : TlbEntry) (asid : BitVec 16) (vmid : BitVec 14) (va : Nat) : Bool :=
  decide (e.vmid = vmid) && (e.g || decide (e.asid = asid)) && decide (e.vbase ≤ va) && decide (va < e.vbase + e.size)

/-- TSTK: the stack whose slice serves a VA (R378). -/
def tlbStack (va : Nat) : Nat :=
  ((List.range 13).foldl (fun a k => a ^^^ slice va (31 + 2 * k) (30 + 2 * k)) 0) ^^^ b2n (bitOf va 56)

/-- What a translation finds. -/
inductive Xlate where
  | miss
  | pageFault (second : Bool)
  | protection (second : Bool)
  | hit (e : TlbEntry)
  deriving DecidableEq, Repr

/-- The key of a walk result that a split holds. -/
def walkKey (va kind : Nat) : Nat := va / 4096 * 4 + kind

/-- Whether the device extension is in force for a launch: JCFG is set on the Juazo cores of its partition, and XPTE (R376). -/
def State.extension (s : State) (l : Launch) : Bool := s.jcfg.contains l.part && (s.part l.part).xpte

/-- Translate through the walk results the split holds, the core's cache and the slice (R378, R379). An entry whose D is 0
does not serve a write. -/
def State.lookup (s : State) (walked : List (Nat × WalkResult)) (stk core : Nat) (asid : BitVec 16) (vmid : BitVec 14)
    (va kind : Nat) : Xlate :=
  match walked.find? fun w => w.1 == walkKey va kind with
  | some (_, .pageFault b) => .pageFault b
  | some (_, .protection b) => .protection b
  | _ =>
    let ok (e : TlbEntry) : Bool := e.serves asid vmid va && (e.d || !needsW kind)
    match (s.core stk core).tlb.find? ok with
    | some e => .hit e
    | none => match (s.stack (tlbStack va)).tlb.find? ok with
      | some e => .hit e
      | none => .miss

/-- The check of a leaf for a group's access (R224 check 5, R375, R377): the failure, if there is one, with its stage. -/
def TlbEntry.refuses (e : TlbEntry) (priv : Bool) (kind : Nat) (pa : Nat) : Option Bool :=
  let ok1 := (priv || e.u) && (!needsR kind || e.r) && (!needsW kind || e.w) && (kind != 2 || e.x)
  let ok2 := (!needsR kind || e.r2) && (!needsW kind || e.w2) && (kind != 2 || e.x2)
  if !ok1 || (e.hc && decide (e.hstk ≠ e.pbase / 2 ^ 44 % 4)) then some false
  else if !ok2 || (e.hc2 && decide (e.hstk2 ≠ e.pbase / 2 ^ 44 % 4)) then some true
  else if !isDeviceMemory pa then some false
  else none

/-- The tagged `glb` address of a VA (R223). -/
def taggedGlb (va : Nat) : Nat := va % 2 ^ 57

/-- One address against checks 4 to 6 of R224: a miss, the failed check with TRAPVAL, or the PA. `stage` numbers the checks. -/
inductive Checked where
  | miss
  | fail (stage cause val : Nat)
  | ok (pa : Nat)
  deriving DecidableEq, Repr

/-- TRAPVAL of a translation fault (R204). -/
def faultVal (va kind : Nat) (second : Bool) : Nat :=
  va % 2 ^ 57 + (if needsW kind then 2 ^ 57 else 0) + (if kind = 2 then 2 ^ 58 else 0) + (if second then 2 ^ 59 else 0)

/-- Checks 4 to 6 of R224 for one VA; a fetch makes no home check (R228). -/
def State.checkVa (s : State) (walked : List (Nat × WalkResult)) (stk core : Nat) (l : Launch) (va kind : Nat) : Checked :=
  match s.lookup walked stk core l.asid l.vmid va kind with
  | .miss => .miss
  | .pageFault b => .fail 4 0x0B (faultVal va kind b)
  | .protection b => .fail 5 0x0C (faultVal va kind b)
  | .hit e =>
    let pa := e.pbase + (va - e.vbase)
    match e.refuses l.priv kind pa with
    | some b => .fail 5 0x0C (faultVal va kind b)
    | none =>
      if kind ≠ 2 ∧ homeOf pa ≠ stk then .fail 6 0x0A (va % 2 ^ 57 + 2 ^ 57 * homeOf pa) else .ok pa

/-- A leaf enters a translation cache of at most 4,096 entries (R378). -/
def addTlb (e : TlbEntry) (l : List TlbEntry) : List TlbEntry := (e :: l.filter fun y => !(decide (y = e))).take 4096

/-- Checks 4 to 6 of R224 for an engine, which walks on a miss before it goes on. -/
def State.translateNow (s : State) (stk core : Nat) (l : Launch) (va kind : Nat) : Checked × State :=
  match s.checkVa [] stk core l va kind with
  | .miss => if s.frontUp (tlbStack va) = false then (.miss, s) else
    let r := s.walk (s.extension l) l.asid l.vmid va kind l.priv
    match r.1 with
    | .leaf e =>
      let s := (r.2.updStack (tlbStack va) fun k => { k with tlb := addTlb e k.tlb }).updCore stk core fun c =>
        { c with tlb := addTlb e c.tlb }
      (s.checkVa [] stk core l va kind, s)
    | .pageFault b => (.fail 4 0x0B (faultVal va kind b), r.2)
    | .protection b => (.fail 5 0x0C (faultVal va kind b), r.2)
  | c => (c, s)

/-- Checks 4 and 5 of R224 for an agent at a port, through the second-level cache alone: the PA with its leaf, or the number of
the failing check. -/
def State.portTranslate (s : State) (l : Launch) (va kind : Nat) : Except Nat (Nat × TlbEntry) × State :=
  let check (e : TlbEntry) : Except Nat (Nat × TlbEntry) :=
    let pa := e.pbase + (va - e.vbase)
    if (e.refuses l.priv kind pa).isSome then .error 5 else .ok (pa, e)
  match (s.stack (tlbStack va)).tlb.find? fun e => e.serves l.asid l.vmid va && (e.d || !needsW kind) with
  | some e => (check e, s)
  | none => if s.frontUp (tlbStack va) = false then (.error 0, s) else
    let r := s.walk (s.extension l) l.asid l.vmid va kind l.priv
    match r.1 with
    | .leaf e => (check e, r.2.updStack (tlbStack va) fun k => { k with tlb := addTlb e k.tlb })
    | .pageFault _ => (.error 4, r.2)
    | .protection _ => (.error 5, r.2)

/-- The split begins to wait for walks of the VAs that missed (R379). -/
def Ctx.startWalks (x : Ctx) (kind : Nat) (vas : List Nat) : State :=
  let s := vas.foldl (fun s va =>
    let w : Walk := { blk := x.c.blk, gid := x.c.gid, age := x.c.age, asid := x.l.asid, vmid := x.l.vmid, va := va, kind := kind }
    s.updStack (tlbStack va) fun k => { k with walks := k.walks ++ [w] }) x.s
  s.updSplit x.c fun p => { p with wait := .walk }

end Sys2Proof.Machine
end

