-- ==== Sys2Proof/Machine/Issue.lean ====
section
/-!
DEFINITION. The issue unit of a core: candidates and turns (R46 to R50, R192), stop points (R61, R62, R84), chains (R48), fetch
(R228, R262), and the passage of time.
-/
namespace Sys2Proof.Machine

/-! ## Fetch -/

/-- What a fetch gives: the word, a wait for a walk, or a fault. -/
inductive Fetched where
  | word (w : Nat) (s : State)
  | wait (s : State)
  | trap (t : Trap)
  deriving DecidableEq, Repr

/-- The word that a fetch at a PA gives: a word fetched ahead may still be held while memory has changed (R262). -/
def State.codeWord (s : State) (g : Group) (pa : Nat) : Word :=
  let now : Word := BitVec.ofNat 32 (s.readNat pa 4)
  match g.fetched.find? fun e => e.1 == pa with
  | some e => if Config.cacheKeeps s.tick pa then e.2 else now
  | none => now

/-- Fetch the word at a split's PC (R228): translation with X, then the word. -/
def State.fetch (s : State) (c : Cur) (b : Block) (g : Group) (p : Split) : Fetched :=
  let l := s.launchOf b
  let va := p.pc.toNat
  match s.checkVa p.walked b.stk b.core l va kindX with
  | .miss =>
    let w : Walk := { blk := c.blk, gid := c.gid, age := c.age, asid := l.asid, vmid := l.vmid, va := va, kind := kindX }
    .wait ((s.updStack (tlbStack va) fun k => { k with walks := k.walks ++ [w] }).updSplit c fun p => { p with wait := .walk })
  | .fail _ cause val => .trap { cause := cause, val := val }
  | .ok pa =>
    if (s.poisonAt (.glb pa) 4).isSome then .trap { cause := 0x1C, val := taggedGlb va }
    else
      let w := s.codeWord g pa
      .word w.toNat (s.updCur c fun g => { g with fetched := (pa, w) :: g.fetched.filter fun e => !(e.1 == pa) })

/-- An OP lies in one of some ranges. -/
def opIn (op : Nat) (l : List (Nat × Nat)) : Bool := l.any fun r => decide (r.1 ≤ op) && decide (op ≤ r.2)

/-- The OPs whose A field is a source of R73; in the others it is unused, a predicate, or part of an immediate (R69, R75). -/
def sourceA (op : Nat) : Bool :=
  opIn op [(0x08, 0x08), (0x10, 0x26), (0x29, 0x2F), (0x30, 0x3A), (0x3F, 0x3F), (0x40, 0x56), (0x60, 0x6D), (0x72, 0x73), (0x78, 0x78),
    (0x80, 0x8B), (0x8E, 0x9E), (0xA0, 0xA1), (0xA3, 0xAA), (0xB0, 0xB1), (0xB3, 0xBB), (0xC0, 0xC8), (0xCB, 0xCC), (0xD0, 0xD6),
    (0xE0, 0xE9), (0xEC, 0xF4)]

/-- The OPs whose B field is a source of R73. -/
def sourceB (op : Nat) : Bool :=
  opIn op [(0x10, 0x1F), (0x2C, 0x2E), (0x30, 0x37), (0x39, 0x3A), (0x40, 0x47), (0x4A, 0x4A), (0x51, 0x51), (0x55, 0x55), (0x60, 0x63),
    (0x6A, 0x6A), (0x6C, 0x6D), (0x90, 0x9C), (0xA0, 0xA1), (0xA4, 0xAA), (0xB0, 0xB1), (0xB5, 0xB5), (0xB8, 0xBB), (0xC0, 0xC3), (0xC5, 0xC5),
    (0xCB, 0xCC), (0xD0, 0xD1), (0xD3, 0xD3), (0xD6, 0xD6), (0xE0, 0xE8), (0xEC, 0xEF), (0xF1, 0xF1)]

/-- A word names a latch: as an instruction, or in a source field of a word whose operands are illegal (R73, R80). -/
def namesLatch (w : Nat) : Bool :=
  match decodeWord w with
  | .ok i => !(useOf 0 0 i).lat.isEmpty
  | .error _ => (slice w 15 11 == 16 && sourceA (slice w 31 24)) || (slice w 7 3 == 16 && sourceB (slice w 31 24))

/-! ## Stop points (R61, R84) -/

/-- The entry of the `.preempt` table at a PC (R95): COFF counts from ENTRY (assumption 4). -/
def Launch.stopEntry (l : Launch) (pc : Nat) : Option Nat :=
  l.table.find? fun e => l.entry + slice e 31 0 == pc

/-- The word that a fetch at a split's PC would give now, if it would give one. -/
def State.peekWord (s : State) (b : Block) (g : Group) (p : Split) : Option Nat :=
  match s.checkVa p.walked b.stk b.core (s.launchOf b) p.pc.toNat kindX with
  | .ok pa => if (s.poisonAt (.glb pa) 4).isSome then none else some (s.codeWord g pa).toNat
  | _ => none

/-- A split stands at a stop point: a listed address whose instruction names no latch (R61, R84). While the word at the address is not
known, the split goes on to fetch it (assumption 99). -/
def State.atStop (s : State) (b : Block) (g : Group) (p : Split) : Bool :=
  ((s.launchOf b).stopEntry p.pc.toNat).isSome && (match s.peekWord b g p with | some w => !(namesLatch w) | none => false)

/-- The open chain of a group goes on with the word at its split's PC: it names a latch, or no fetch has given it yet (R80). -/
def State.chainGoesOn (s : State) (b : Block) (g : Group) (ch : Chain) (p : Split) : Bool :=
  decide (ch.next = p.pc) && (match s.peekWord b g p with | some w => namesLatch w | none => true)

/-! ## Candidates (R46, R47, R192) -/

/-- The block's groups may issue: the block is resident on a die out of reset. -/
def State.blockRuns (s : State) (b : Block) : Bool :=
  decide (b.place = .resident) && !(s.stack b.stk).dieReset && !b.ending

/-- The group may issue (R46, R49, R205): resident, not suspended, once per cycle, and at half rate
when throttled. `lastIssue` is the cycle of the last issue plus 1. -/
def State.groupRuns (s : State) (b : Block) (g : Group) : Bool :=
  let now := s.cycle b.stk
  s.blockRuns b && !g.suspended && decide (g.lastIssue ≤ now) && (!b.throttled || decide (g.lastIssue < now) || g.lastIssue == 0)

/-- A split is ready, what it owes by `yield` apart (R46): live, not waiting, not stopped, not stopped for a handler. At a decision of
its core a split whose operands are not available waits for them (`State.markWaits`). -/
def Group.ready (g : Group) (p : Split) : Bool :=
  p.live && decide (p.wait = .none) && !p.stop && (g.handler.isNone || p.handler)

/-- The wait of a split for the operands of its next instruction, while a pending result holds one of them back (R46). -/
def State.operandHold (s : State) (b : Block) (g : Group) (p : Split) : Option Wait :=
  if g.pend.isEmpty then none
  else match s.peekWord b g p with
    | none => none
    | some w => match decodeWord w with
      | .error _ => none
      | .ok i => if g.holds (p.operandWait i) then some (p.operandWait i) else none

/-- The ready splits of a group whose operands are not available wait for them, without a turn (R46, R51). -/
def State.markWaits (s : State) (b : Block) (g : Group) : Group :=
  { g with splits := g.splits.map fun p =>
      if g.ready p then match s.operandHold b g p with
        | some w => { p with wait := w, waitT := s.time }
        | none => p
      else p }

/-- The groups of a block start no turn any more: 20 µs have passed since a pre-emption request (R62). -/
def Block.forced (b : Block) : Bool := match b.preempt with | some q => q.forced | none => false

/-- A split owed a turn, named by its group's CTXID and its age, still counts only while it is ready (R192). -/
def State.owes (s : State) (stk core : Nat) (o : Nat × Nat) : Bool :=
  (s.onCore stk core).any fun b => b.groups.any fun g =>
    g.ctxid.toNat == o.1 && s.blockRuns b && !b.forced && !g.suspended && g.splits.any fun p => p.age == o.2 && g.ready p

/-- A candidate that has stopped being ready, or has ended, is no longer owed a turn (R192). -/
def State.settleOwed (s : State) (stk core : Nat) : State :=
  { s with blocks := s.blocks.map fun b =>
      if b.place = .resident ∧ b.stk = stk ∧ b.core = core then
        { b with groups := b.groups.map fun g =>
            { g with splits := g.splits.map fun p => { p with owed := p.owed.filter (s.owes stk core) } } }
      else b }

/-- A split that yielded is held back while a split owed a turn is still ready and its 64 turns have not passed (R192). -/
def State.yields (s : State) (stk core : Nat) (p : Split) : Bool :=
  decide (0 < p.owedTurns) && p.owed.any (s.owes stk core)

/-- The instructions that access memory, synchronise or end lanes: they come after an acquire of their group (R307). -/
def ordered (w : Nat) : Bool :=
  opIn (slice w 31 24) [(0x02, 0x02), (0x09, 0x0A), (0x80, 0x9E), (0xA0, 0xAB), (0xB0, 0xBC), (0xC0, 0xCC), (0xD0, 0xD6), (0xF0, 0xF4)]

/-- A split's next instruction stays behind an acquire atomic of the group that has not been performed (R307). -/
def State.behindAcquire (s : State) (b : Block) (g : Group) (p : Split) : Bool :=
  g.acquiring && (match s.peekWord b g p with | some w => ordered w | none => false)

/-- The candidate of a group: the ready live split that became ready earliest, the older on equal times (R47). -/
def State.candidate (s : State) (b : Block) (g : Group) : Option Split :=
  if s.groupRuns b g && !b.forced then
    minBy? (fun p => p.readyAt * 2 ^ 64 + p.age)
      (g.splits.filter fun p => g.ready p && !s.yields b.stk b.core p && !s.behindAcquire b g p)
  else none

/-- Every candidate of a core, with its block and group, that no other slot is issuing. -/
def State.candidates (s : State) (stk core : Nat) : List (Block × Group × Split) :=
  ((s.onCore stk core).map fun b => (b.groups.filterMap fun g =>
    if g.chain.isSome && (s.core stk core).slots.contains (some g.slot) then none
    else (s.candidate b g).map fun p => (b, g, p))).flatten

/-- The cycle in which a split became its group's candidate: it was ready, and the group had issued its last turn. R48 orders the
candidates by when they "became ready"; the bounds of R50 and R68 hold when this is the cycle of candidacy (assumption 100). -/
def Group.candidateSince (g : Group) (p : Split) : Nat := max p.readyAt g.lastIssue

/-- Choose a turn (R48): the candidate ready earliest, then in round-robin order of group slot. -/
def State.chooseTurn (s : State) (stk core : Nat) : Option (Block × Group × Split) :=
  let last := (s.core stk core).lastSlot
  minBy? (fun x => x.2.1.candidateSince x.2.2 * 64 + (x.2.1.slot + 63 - last) % 64) (s.candidates stk core)

/-- What `yield` owes a turn (R192): of every group of the core that may run, in whatever cycle, the candidate apart from the split that
yields, as (CTXID, age). -/
def State.readyOthers (s : State) (stk core : Nat) (ctx age : Nat) : List (Nat × Nat) :=
  ((s.onCore stk core).map fun b => if s.blockRuns b && !b.forced then
      b.groups.filterMap fun g => if g.suspended then none
        else (minBy? (fun (p : Split) => p.readyAt * 2 ^ 64 + p.age) (g.splits.filter fun p =>
          g.ready p && !s.yields stk core p && !s.behindAcquire b g p && !(g.ctxid.toNat == ctx && p.age == age))).map fun p => (g.ctxid.toNat, p.age)
    else []).flatten

/-! ## Accesses in flight (R380) -/

/-- Two ranges of bytes meet. -/
def meets (a n b m : Nat) : Bool := decide (a < b + m) && decide (b < a + n)

/-- The place of an atomic. -/
def AtomTarget.loc : AtomTarget → Loc
  | .glb pa => .glb pa
  | .scr u off => .buf u .scr off

/-- The bytes that an item of the store queue writes. -/
def StoreOp.loc : StoreOp → Option (Loc × Nat)
  | .glb _ pa bytes _ => some (.glb pa, bytes.length)
  | .buf _ u sp off bytes _ => some (.buf u sp off, bytes.length)
  | .atom _ t .. => some (t.loc, 4)
  | .fence _ => none

/-- A place lies in one of some frames. -/
def inFrames (fs : List (Nat × Nat)) (n : Nat) : Loc → Bool
  | .glb pa => fs.any fun f => meets pa n f.1 f.2
  | .buf _ _ _ => false

/-- A `qgets` that waits for its element will write to one of the frames (R239). -/
def Msg.writesIn (fs : List (Nat × Nat)) (m : Msg) : Bool :=
  match m.body with
  | .take (.gets l) _ => l.any (inFrames fs 16)
  | _ => false

/-- Some access in flight reaches one of the frames (R380): in a store queue or beyond it, a delayed reduction, the places of a `qgets`, or
in an engine. -/
def State.framesBusy (s : State) (fs : List (Nat × Nat)) : Bool :=
  (s.transit.any fun t => inFrames fs t.bytes.length (.glb t.pa)) || (s.kept.any (Msg.writesIn fs)) || s.blocks.any fun b =>
    ((b.groups ++ b.draining).any fun g =>
      (g.stq.any fun o => match o.loc with | some (p, n) => inFrames fs n p | none => false) ||
        g.quantum.any fun q => inFrames fs 4 q.tgt.loc) ||
    b.copies.any fun c =>
      (c.srcs.any fun x => x.2.2.isEmpty && inFrames fs x.2.1 x.1) || c.dsts.any fun x => inFrames fs x.2.2 x.1

/-- The splits of a group at `tlbinv` whose accesses in flight have been performed execute it again (R381). -/
def State.wakeFrames (s : State) (now : Nat) (g : Group) : Group :=
  { g with splits := g.splits.map fun p => if decide (p.wait = .frames) && !(s.framesBusy p.inval) then p.wake now else p }

/-! ## Waits and stops at a decision (R61, R333) -/

/-- Groups of the package that a test picks leave the waiter lists of its ports (R333). -/
def State.dropWaiters (s : State) (p : Waiter → Bool) : State :=
  { s with ports := s.ports.map (Port.keepWaiters fun x => x.out.isSome || x.put.isSome || !(p x)) }

/-- A wait in which a split counts as stopped in place (R61). -/
def Wait.stopPoint : Wait → Bool
  | .queue _ => true
  | .unanswered _ _ => true
  | .lock _ => true
  | .barwait _ _ => true
  | .bsync _ => true
  | .cwait _ _ _ _ _ => true
  | .copy => true
  | .batch _ _ => true
  | .registers => true
  | .rendezvous => true
  | .returned => true
  | .fault => true
  | _ => false

/-- A split's operation has failed without an answer, and is given up (R329): what it held back is free again. -/
def Group.giveUp (picked : Split → Bool) (g : Group) : Group :=
  let reqs := g.splits.filterMap fun p => match p.wait with
    | .unanswered req _ => if picked p then some req else none
    | _ => none
  { g with pend := g.pend.filter fun q => !(decide (q.kind = .load) && q.todo == 1 && reqs.contains q.id) }

/-- The handles whose `qopen` is given up so. -/
def Block.givenUp (b : Block) (picked : Split → Bool) : List Nat :=
  b.groups.flatMap fun g => g.splits.filterMap fun p => match p.wait with
    | .unanswered _ h => if picked p then some h else none
    | _ => none

/-- The splits of a block under pre-emption that wait at a stop point or are dormant stop in place; sleepers leave the waiter lists
of queues, locks and registers, and execute again after restore, and a gathering copy is discarded (R61, R276, R329). After the 20 µs no further split stops so: its group is saved in
full (R62). -/
def State.stopInPlace (s : State) (u : Nat) : State :=
  match s.block? u with
  | none => s
  | some b =>
    if b.preempt = none ∨ b.forced = true then s
    else
      let halts (p : Split) : Bool := !p.stop && (!p.live || p.wait.stopPoint)
      let hit (g a : Nat) : Bool := match (b.group? g).bind fun x => x.split? a with | some p => halts p | none => false
      let s := s.dropWaiters fun x => x.blk == u && hit x.gid x.split
      let s := s.dropLockWaits b.stk fun w => w.1 == u && hit w.2.1 w.2.2
      let s := s.updCore b.stk b.core fun c => { c with racq := c.racq.filter fun r => !(r.1 == u && hit r.2.1 r.2.2.1) }
      let gathers := b.groups.any fun g => g.splits.any fun p => halts p && decide (p.wait = .copy)
      let halted (now : Nat) (g : Group) : Group :=
        ({ g.giveUp halts with splits := g.splits.map fun p => if halts p then { p with stop := true } else p }).wakeOperands now
      (s.updBlock u fun b =>
        { b with gather := if gathers then [] else b.gather, expect := if gathers then [] else b.expect,
                 handles := b.handles.filter fun e => !(e.2.opening && (b.givenUp halts).contains e.1),
                 groups := b.groups.map (halted (s.cycle b.stk)) }).granulesFreed b.stk b.core

/-- The splits of a group under pre-emption that stand at a stop point stop (R61). -/
def State.stopAtPoints (s : State) (b : Block) (g : Group) : Group :=
  if b.preempt.isSome && !b.forced then
    { g with splits := g.splits.map fun p =>
        if p.live && decide (p.wait = .none) && !p.stop && !g.inChain p && s.atStop b g p then { p with stop := true } else p }
  else g

/-- An issue decision of a core: merging in every group, the splits that stand at a stop point of a block under pre-emption, and the
waits for operands (R41, R46, R61). -/
def State.atDecision (s : State) (stk core : Nat) : State :=
  let now := s.cycle stk
  let s := (s.onCore stk core).foldl (fun s b => s.stopInPlace b.uid) s
  let s : State := { s with blocks := s.blocks.map fun b =>
      if b.place = .resident ∧ b.stk = stk ∧ b.core = core then
        { b with groups := b.groups.map fun g =>
            s.markWaits b (s.stopAtPoints b (s.wakeFrames now (if g.suspended then g else g.settle now 64))) }
      else b }
  s.settleOwed stk core

/-- A split of a group issues: what its other splits have read ahead is read again (R301, R304). -/
def Group.begin (g : Group) (age now : Nat) : Group :=
  { g with lastIssue := now + 1, splits := g.splits.map fun p => if p.age = age then p else { p with early := [] } }

/-- A turn starts: it pays every yielding split of the core one turn, and is the group's issue of this cycle. -/
def State.startTurn (s : State) (stk core : Nat) (b : Block) (g : Group) (p : Split) : State :=
  let pay (q : Split) : Split :=
    { q with owed := q.owed.filter fun o => !(decide (o = (g.ctxid.toNat, p.age))), owedTurns := q.owedTurns - 1 }
  let s : State := { s with blocks := s.blocks.map fun (b : Block) =>
      if b.place = .resident ∧ b.stk = stk ∧ b.core = core then
        { b with groups := b.groups.map fun g => { g with splits := g.splits.map pay } }
      else b }
  (s.updCore stk core fun c => { c with lastSlot := g.slot }).updGroup b.uid g.gid fun g => g.begin p.age (s.cycle stk)

/-- What an issue slot does: nothing, or fetch for a split. -/
inductive Turn where
  | idle (s : State)
  | go (c : Cur) (s : State)
  deriving DecidableEq, Repr

/-- The split whose chain an issue slot holds open, if it goes on (R48). -/
def State.chainOf (s : State) (stk core slot : Nat) : Option (Block × Group × Split) :=
  match nth none (s.core stk core).slots slot with
  | none => none
  | some gs =>
    (s.onCore stk core).findSome? fun b => b.groups.findSome? fun g =>
      if g.slot = gs then match g.chain with
        | some ch => match g.split? ch.age with
          | some p => if s.chainGoesOn b g ch p then some (b, g, p) else none
          | none => none
        | none => none
      else none

/-- An issue slot lets go of the chain that it holds: the latches of its group are discarded (R48). -/
def State.dropChain (s : State) (stk core slot : Nat) : State :=
  match nth none (s.core stk core).slots slot with
  | none => s
  | some gs =>
    { s.updCore stk core fun c => { c with slots := setNth c.slots slot none } with
      blocks := s.blocks.map fun b =>
        if b.place = .resident ∧ b.stk = stk ∧ b.core = core then
          { b with groups := b.groups.map fun g => if g.slot = gs then { g with chain := none } else g }
        else b }

/-- A split whose open chain cannot go on, because its next instruction waits or its word is not there, goes back to the head: the slot and
the group are free for others (R50, R68), the latches are discarded (R48), and the chain runs again from its head as R83 has it run
after a fault (assumption 126). A head that writes what it reads cannot run twice, so its chain stays open. -/
def Group.rewind (g : Group) (age : Nat) : Group :=
  match g.chain, g.split? age with
  | some ch, some p =>
    if ch.age = age ∧ ch.next = p.pc ∧ ch.viol = false then
      { g.updSplit age fun q => { q with pc := ch.head } with chain := none, gens := ch.gens }
    else g
  | _, _ => g

/-- Choose what one of the 2 issue slots of a core does in a cycle (R48): continue the chain it holds, or start a turn. A chain whose next
instruction waits on an operand goes back to its head, and the slot starts another turn (assumption 126). An open chain
runs to its end also when its group is stopping for a fault of another split (R205). -/
def State.slotTurn (s : State) (stk core slot : Nat) : Turn :=
  if 2 ≤ slot then .idle s else
  match s.chainOf stk core slot with
  | some (b, g, p) =>
    match s.operandHold b g p with
    | some w => .idle (s.updGroup b.uid g.gid fun g =>
        (g.updSplit p.age fun p => if p.wait = .none then { p with wait := w, waitT := s.time } else p).rewind p.age)
    | none =>
      if s.blockRuns b && decide (g.lastIssue ≤ s.cycle stk) && p.live && decide (p.wait = .none) then
        .go { blk := b.uid, gid := g.gid, age := p.age } (s.updGroup b.uid g.gid fun g => g.begin p.age (s.cycle stk))
      else .idle s
  | none =>
    let s := (s.dropChain stk core slot).atDecision stk core
    match s.chooseTurn stk core with
    | none => .idle s
    | some (b, g, p) => .go { blk := b.uid, gid := g.gid, age := p.age } (s.startTurn stk core b g p)

/-- The chain of a split ends with its instruction unless the next word goes on with it (R80). -/
def State.closeIfDone (s : State) (c : Cur) : State :=
  match s.block? c.blk with
  | none => s
  | some b => match b.group? c.gid with
    | none => s
    | some g => match g.chain, g.split? c.age with
      | some ch, some p => if ch.age = c.age ∧ s.chainGoesOn b g ch p = false then s.updCur c fun g => { g with chain := none } else s
      | _, _ => s

/-- After an instruction: the slot holds the group's chain while it goes on, a wait that has begun is dated and takes its split back to the
head of an open chain, and a split that does not wait is ready again from the next cycle on, behind those that are ready now, also where its
instruction did not complete (R47). -/
def State.endIssue (s : State) (stk core slot : Nat) (c : Cur) : State :=
  let waits : Bool := match (s.group? c.blk c.gid).bind fun g => g.split? c.age with
    | some p => decide (p.wait ≠ .none)
    | none => false
  let s := s.updSplit c fun p =>
    { (if p.wait = .none then { p with readyAt := s.cycle stk + 1 } else { p with waitT := s.time }) with early := [] }
  let s := if waits then s.updCur c fun g => g.rewind c.age else s
  let s := s.closeIfDone c
  let hold := match s.group? c.blk c.gid with
    | some g => if g.chain.isSome then some g.slot else none
    | none => none
  let s := (s.stopInPlace c.blk).settleOwed stk core
  { s.updCore stk core fun k => { k with slots := setNth k.slots slot hold } with cur := none }

/-- A fetch that fails (R228). The word it would have given may go on with the open chain, which then runs again from its head (R83);
after a head that writes what it reads, and after eight instructions, no word can (R80, R82), and the fault stands at the PC itself
(assumption 99). -/
def State.fetchTrap (s : State) (c : Cur) (t : Trap) : State :=
  (s.updCur c fun g => match g.chain with
    | some ch => if ch.age = c.age ∧ (ch.viol = true ∨ 8 ≤ ch.pos) then { g with chain := none } else g
    | none => g).takeTrap c t

/-- ILLEGAL-OPERAND for a word that decodes to no instruction (R78): its position is that of the open chain if it names a
latch, modulo 8 in TRAPVAL<34:32> (assumption 101). -/
def State.badWord (s : State) (c : Cur) (w : Nat) : State :=
  let lat := if namesLatch w then [0] else []
  let pos := match (s.group? c.blk c.gid) with
    | some g => match g.split? c.age with
      | some p => chainPos g p lat
      | none => 0
    | none => 0
  let s := if pos = 0 then s.updCur c fun g => { g with chain := none } else s
  s.takeTrap c { cause := 0x02, val := w % 2 ^ 32 + pos % 8 * 2 ^ 32 }

/-! ## Time (R417, R419, R422) -/

/-- A group stands stopped: suspended, or by a pre-emption, as one whole (R43, R61, R62). -/
def Block.stands (b : Block) (g : Group) : Bool := g.suspended || b.forced || g.splits.all (·.stop)

/-- Cycles and nanoseconds pass. Blocks use energy, which lowers their reservation; the rotation counters of the resident groups that
are not stopped advance (R43). -/
def State.elapse (s : State) (cycles ns : Nat) : State :=
  { s with
    time := s.time + ns
    dies := s.dies.map fun k => if k.dieReset then k else { k with cycle := k.cycle + cycles }
    blocks := s.blocks.map fun b =>
      if b.place = .resident then
        let e := Config.energy s.tick b.uid
        { b with eused := b.eused + e, eres := b.eres - Int.ofNat e,
                 groups := b.groups.map fun g =>
                   if b.stands g || (s.stack b.stk).dieReset then g else { g with rot := g.rot + cycles } }
      else b }

/-- A word of device memory or of a buffer becomes uncorrectable (R26). -/
def State.poison (s : State) (l : Loc) : State :=
  match l with
  | .glb pa => if isDeviceMemory pa then { s with poisoned := .glb (pa / 4 * 4) :: s.poisoned } else s
  | .buf u sp off => { s with poisoned := .buf u sp (off / 4 * 4) :: s.poisoned }

/-- A word of a port's cell SRAM becomes uncorrectable (R219). -/
def State.poisonCell (s : State) (w word : Nat) : State :=
  if w < 5 ∧ word < 2 ^ 21 then { s with badCells := (w, word) :: s.badCells } else s

/-- A word of a line that a core's L1 holds becomes uncorrectable (R219). -/
def State.poisonLine (s : State) (core pa : Nat) : State :=
  if (Assoc.getD Core.reset s.cores core).l1.any fun e => e.1 == pa / 64 * 64 then { s with badLines := (core, pa / 4 * 4) :: s.badLines } else s

/-- A register of a group becomes uncorrectable (R26): its R73 encoding, or 0x90 to 0x96 for p0 to p6 (R204). -/
def State.poisonReg (s : State) (u g code : Nat) : State := s.updGroup u g fun x => { x with bad := code :: x.bad }

/-- An answer from outside fits a message: a `qtry` never sleeps and only a `qtry` finds nothing, and a taken element has the size for which its
instruction was checked, else the instruction executes again (R341, R342). -/
def fitsAnswer (m : Msg) (a : AnswerBody) : Bool :=
  match m.body, a with
  | .reserve _ r, .grant _ _ _ _ r' => decide (r = r')
  | .reserve _ r, .sleep r' => decide (r = r')
  | .reserve _ r, .again r' => decide (r = r') && decide (r.op = 0)
  | .take k r, .taken k' _ data r' => decide (r = r') && decide (k = k') && data.length == 16 <<< min r.esz 4
  | .take k r, .nothing r' => decide (r = r') && decide (k = .try_)
  | .take k r, .sleep r' => decide (r = r') && decide (k ≠ .try_)
  | .take _ r, .lost r' => decide (r = r')
  | .take _ r, .again r' => decide (r = r')
  | .peek r, .lost r' => decide (r = r')
  | .bind _ r, .lost r' => decide (r = r')
  | .peek r, .counts _ _ r' => decide (r = r')
  | .bind _ r, .bound _ r' => decide (r = r')
  | .fill _ _ _ _ _, .ack q b g => q == m.req && b == m.blk && g == m.gid
  | .put _, .ack q b g => q == m.req && b == m.blk && g == m.gid
  | .close _ _ _, .ack q b g => q == m.req && b == m.blk && g == m.gid
  | _, _ => false

/-- The own package, or a package of a hive that the optical tier connects (R364). -/
def State.connected (s : State) (pkg : Nat) : Bool := pkg == s.pkg.toNat || s.conngrp.getLsbD (pkg / 32)

/-- The circuits to a package have been given up: its hive departed and the messages to it have been cut off (R365). -/
def State.severed (s : State) (pkg : Nat) : Bool :=
  !(s.connected pkg) && !(match s.connbusy with | some (_, _, drained) => !drained | none => false)

/-- The die to which the answers to a message go, and the outside agent that they are for. -/
def Msg.backTo (own : Nat) (m : Msg) : Nat × Option Nat :=
  match m.prod with
  | .handle _ _ => (8 + m.who.stk % 4, none)
  | .agent stk _ _ => (stk, none)
  | .source w => (w, none)
  | .cp => (4, none)
  | .host n => (if m.who.pkg = own then 4 else 16 + m.who.pkg, some n)

/-- A message that has left for another package is answered from outside, at base die `w` (R362), unless its hive has departed
(R365). -/
def State.depart (s : State) (k w : Nat) (a : AnswerBody) : State :=
  match nth? s.net k with
  | none => s
  | some m => if m.pkg ≠ s.pkg.toNat ∧ m.at_ = .away ∧ w < 4 ∧ s.severed m.pkg = false ∧ fitsAnswer m a = true then
      { s with net := dropNth s.net k }.post w (m.backTo s.pkg.toNat).1 (m.backTo s.pkg.toNat).2 a
    else s

/-- A message from outside reaches a die: the front die from a Juazo core, whose source port is the front port, which numbers and keeps it (R362); or
a base die from another package, also on its way to a third package, which its link logic passes on (R361). Its answers go out again. -/
def State.arrive (s : State) (m : Msg) : State :=
  match m.prod, m.at_ with
  | .host _, .here d =>
    let x := { m with load := s.nextLoad, asleep := false, wage := 0 }
    if d = 4 ∧ m.who.pkg = s.pkg.toNat then
      let x := { x with req := s.nextReq, sent := s.time }
      { s with net := s.net ++ [x], kept := s.kept ++ [x], nextLoad := s.nextLoad + 1, nextReq := s.nextReq + 1 }
    else if d < 4 ∧ m.who.pkg ≠ s.pkg.toNat then { s with net := s.net ++ [x], nextLoad := s.nextLoad + 1 }
    else s
  | _, _ => s

end Sys2Proof.Machine
end

