-- ==== Sys2Proof/Machine/Memory.lean ====
section
/-!
DEFINITION. Loads, stores and atomics of the vector pipes: effective addresses (R222), the checks of R224, what a load sees
(R230, R304), the store queue (R304, R306), atomics (R264 to R270), and the results that arrive later.
-/
namespace Sys2Proof.Machine

/-! ## Addresses (R89, R221 to R223) -/

/-- One lane's address: its space, none for the code 7, the exact address (for `glb` the low 57 bits of the VA), and the
tagged address that TRAPVAL shows. -/
structure LaneAddr where
  lane : Nat
  sp   : Option Space
  addr : Int
  tag  : Nat
  deriving DecidableEq, Repr

/-- The tagged address that the device writes for an address of a space (R223, R204). No rule gives the form of a negative one: the model writes
it modulo 2^61 (assumption 132). -/
def tagOf (sp : Space) (a : Int) : Nat :=
  match sp with
  | .glb => (a % 2 ^ 57).toNat
  | sp => sp.code * 2 ^ 61 + (a % 2 ^ 61).toNat

/-- A VA in its 64-bit sign-extended form (R222). -/
def signVa (va : Nat) : Nat := if va / 2 ^ 56 % 2 = 1 then va % 2 ^ 57 + (2 ^ 64 - 2 ^ 57) else va % 2 ^ 57

/-- The address of a lane in a space. -/
def LaneAddr.mk' (l : Nat) (sp : Space) (a : Int) : LaneAddr := { lane := l, sp := some sp, addr := a, tag := tagOf sp a }

/-- A tagged address held in a register (R223). -/
def LaneAddr.ofTag (l : Nat) (v : DWord) : LaneAddr :=
  match Space.ofCode (field v 63 61) with
  | some .glb => LaneAddr.mk' l .glb (Int.ofNat (field v 56 0))
  | some sp => LaneAddr.mk' l sp (Int.ofNat (field v 31 0))
  | none => { lane := l, sp := none, addr := 0, tag := v.toNat }

/-- The effective address of lane l (R222): base plus unit × K, exact in the local spaces, modulo 2^57 in `glb`. -/
def Ctx.ea (x : Ctx) (sp : Space) (a : Src) (unit : Nat) (k : BitVec 5) (l : Nat) : LaneAddr :=
  let off : Int := Int.ofNat unit * k.toInt
  match sp, a with
  | .glb, .v n => LaneAddr.mk' l .glb
      ((Int.ofNat ((x.g.vreg n.toNat l).toNat + 2 ^ 32 * (x.g.vreg (n.toNat + 1) l).toNat) + off) % 2 ^ 57)
  | .glb, .s n => LaneAddr.mk' l .glb ((Int.ofNat (x.rds n).toNat + off) % 2 ^ 57)
  | sp, a => LaneAddr.mk' l sp (Int.ofNat (x.rdv a l).toNat + off)

/-- The lanes that act: active and guarded (L of R257). -/
def Ctx.lanes (x : Ctx) : List Nat := lanesOf x.act

/-- The block of the cluster launch that a rank names (R221, R37): a resident one. An access to the rank of a block that has retired or is
saved finds none, and meets SPACE-RANGE (assumption 106). -/
def State.peer (s : State) (b : Block) (rank : Nat) : Option Block :=
  if rank = b.rank then some b
  else
    let clus := (s.launchOf b).clus
    if clus ≤ 1 then none
    else s.blocks.find? fun x => decide (x.place = .resident) && x.launch == b.launch && x.stk == b.stk &&
      decide (x.lin / clus = b.lin / clus) && x.rank == rank

/-- Where a local address of a block lies, if `n` bytes from it lie in the allocation (check 3 of R224). -/
def State.local? (s : State) (b : Block) (sp : Space) (a : Int) (n : Nat) : Option Loc :=
  if a < 0 then none
  else
    let off := a.toNat
    match sp with
    | .clu =>
      if 2 ^ 21 ≤ off then none
      else match s.peer b (off / 2 ^ 18) with
        | some p => if off % 2 ^ 18 + n ≤ p.sSize then some (.buf p.uid .scr (off % 2 ^ 18)) else none
        | none => none
    | sp => if off + n ≤ b.bufSize sp then some (.buf b.uid sp off) else none

/-! ## The checks of R224 -/

/-- The vector pipes may make an access of a kind in a space (R225). -/
def mayAccess (kind : Nat) : Space → Bool
  | .glb | .scr | .clu => true
  | .wgt | .act | .acc => decide (kind ≠ 3)
  | .par => decide (kind = 0)

/-- What the checks of an instruction's lanes give: a fault, a wait for walks, or where each lane acts. -/
inductive Access where
  | trap (t : Trap)
  | wait (s : State)
  | ok (l : List (Nat × Loc))
  deriving DecidableEq, Repr

/-- The fault that some lanes meet: TRAPLANES all of them, TRAPVAL from the lowest. -/
def lanesTrap (cause : Nat) (val : LaneAddr → Nat) (l : List LaneAddr) : Option Trap :=
  match l with
  | [] => none
  | a :: r => some { cause := cause, val := val a, lanes := some (maskOf fun k => (a :: r).any fun y => y.lane == k) }

/-- Check 1 of R224. -/
def access1 (kind : Nat) (l : List LaneAddr) : Option Trap :=
  lanesTrap 0x09 LaneAddr.tag (l.filter fun a => match a.sp with | some sp => !(mayAccess kind sp) | none => true)

/-- TRAPVAL of MISALIGNED: the address. -/
def LaneAddr.plain (a : LaneAddr) : Nat :=
  if a.sp = some .glb then signVa a.addr.toNat else (a.addr % 2 ^ 64).toNat

/-- Check 2. -/
def access2 (size : Nat) (l : List LaneAddr) : Option Trap :=
  lanesTrap 0x07 LaneAddr.plain (l.filter fun a => decide (a.addr % Int.ofNat size ≠ 0))

/-- Check 3. -/
def Ctx.access3 (x : Ctx) (size : Nat) (l : List LaneAddr) : Option Trap :=
  lanesTrap 0x08 LaneAddr.tag (l.filter fun a => match a.sp with
    | some .glb => false
    | some sp => (x.s.local? x.b sp a.addr size).isNone
    | none => false)

/-- Checks 4 to 6 for one lane. -/
def Ctx.checkGlb (x : Ctx) (kind : Nat) (a : LaneAddr) : Checked :=
  x.s.checkVa x.p.walked x.b.stk x.b.core x.l a.addr.toNat kind

/-- The fault of one of the checks 4 to 6. -/
def glbTrap (stage : Nat) (l : List (LaneAddr × Checked)) : Option Trap :=
  let hit := l.filterMap fun x => match x.2 with
    | .fail st cause val => if st = stage then some (x.1.lane, cause, val) else none
    | _ => none
  match hit with
  | [] => none
  | (k, cause, val) :: r =>
    some { cause := cause, val := val, lanes := some (maskOf fun m => ((k, cause, val) :: r).any fun y => y.1 == m) }

/-- A load goes to the home slice: VOL, or an acquire at cluster scope or wider (R232, R306). -/
def Ctx.fresh (x : Ctx) : Bool := x.vol || (bitOf x.ord 0 && decide (1 ≤ x.scope))

/-- A core's L1 holds a copy of a PA's line, and a load reads it (R230). -/
def State.readsCopy (s : State) (stk core : Nat) (fresh : Bool) (pa : Nat) : Bool :=
  !fresh && (s.core stk core).l1.any (fun e => e.1 == pa / 64 * 64) && Config.cacheKeeps s.tick (pa / 64 * 64)

/-- The first uncorrectable word that an access of `n` bytes at a place uses, by its distance: of the L1 copy where a load reads it (R219). -/
def Ctx.badAt (x : Ctx) (kind n : Nat) (p : Loc) : Option Int :=
  match p with
  | .glb pa =>
    if decide (kind = kindR) && x.s.readsCopy x.b.stk x.b.core x.fresh pa then
      x.s.badLines.findSome? fun q => if q.1 = coreKey x.b.stk x.b.core then wordMeets p n (.glb q.2) else none
    else x.s.poisonAt p n
  | .buf _ _ _ => x.s.poisonAt p n

/-- A range of C of a block is locked by an incomplete matrix operation (R253). -/
def Block.locked (b : Block) (off n : Nat) : Bool := b.matops.any fun m => meets off n m.lo (m.hi - m.lo)

/-- A place lies in a locked region of C. -/
def State.lockedAt (s : State) (n : Nat) : Loc → Bool
  | .buf u .acc off => match s.block? u with | some b => b.locked off n | none => false
  | _ => false

/-- A place lies in a line that an engine owns (R231, R239). -/
def State.ownedAt (s : State) (n : Nat) : Loc → Bool
  | .glb pa => s.engineOwns pa n
  | _ => false

/-- UNCORRECTABLE on use (R26, R204): a load, an atomic or a store of part of a word meets an uncorrectable word. An access that must first
wait for a matrix operation or an engine to write its words uses none yet (R239, R253). -/
def Ctx.poisonTrap (x : Ctx) (kind size : Nat) (l : List LaneAddr) (ps : List (Nat × Loc)) : Option Trap :=
  if kind = kindW ∧ 4 ≤ size then none
  else if ps.any fun y => x.s.lockedAt size y.2 || (decide (kind = kindR) && x.s.ownedAt size y.2) then none
  else
    let hit := ps.filterMap fun y => (x.badAt kind size y.2).bind fun d =>
      (l.find? fun a => a.lane == y.1).map fun a => (y.1, match a.sp with | some sp => tagOf sp (a.addr + d) | none => 0)
    match hit with
    | [] => none
    | (k, v) :: r => some { cause := 0x1C, val := v, lanes := some (maskOf fun m => ((k, v) :: r).any fun y => y.1 == m) }

/-- One VA of each page, for its walk. -/
def onePerPage : List Nat → List Nat
  | [] => []
  | v :: r => if (onePerPage r).any (fun y => decide (y / 4096 = v / 4096)) then onePerPage r else v :: onePerPage r

/-- Where the lanes of a list act, when no check has failed. -/
def Ctx.places (x : Ctx) (size : Nat) (l : List LaneAddr) (g : List (LaneAddr × Checked)) : List (Nat × Loc) :=
  l.filterMap fun a => match a.sp with
    | some .glb => match g.find? fun y => decide (y.1 = a) with
      | some (_, .ok pa) => some (a.lane, .glb pa)
      | _ => none
    | some sp => (x.s.local? x.b sp a.addr size).map fun q => (a.lane, q)
    | none => none

/-- The PAs of the lanes in `glb`. -/
def okPas (g : List (LaneAddr × Checked)) : List (LaneAddr × Nat) :=
  g.filterMap fun y => match y.2 with | .ok pa => some (y.1, pa) | _ => none

/-- The checks of R224 over the lanes of an instruction, in their order; a lane whose translation is missing makes the split
wait for its walk first. `data` says that the words are used, and so checked for UNCORRECTABLE. -/
def Ctx.accessWith (x : Ctx) (data : Bool) (kind size : Nat) (l : List LaneAddr) : Access :=
  match access1 kind l with
  | some t => .trap t
  | none => match access2 size l with
    | some t => .trap t
    | none => match x.access3 size l with
      | some t => .trap t
      | none =>
        let g := (l.filter fun a => decide (a.sp = some .glb)).map fun a => (a, x.checkGlb kind a)
        let missed := (g.filter fun y => decide (y.2 = .miss)).map fun y => y.1.addr.toNat
        if !missed.isEmpty then .wait (x.startWalks kind (onePerPage missed))
        else match (glbTrap 4 g).orElse fun _ => (glbTrap 5 g).orElse fun _ => (glbTrap 6 g).orElse fun _ =>
            (if data then x.poisonTrap kind size l (x.places size l g) else none) with
          | some t => .trap t
          | none => .ok (x.places size l g)

/-- The checks of R224 for an access of the words at the addresses. -/
def Ctx.access (x : Ctx) (kind size : Nat) (l : List LaneAddr) : Access := x.accessWith true kind size l

/-! ## What must be waited for (R239, R253, R304) -/

/-- A store of the core is on its way to the slice of a place. -/
def State.arrivingAt (s : State) (b : Block) : Loc → Bool
  | .glb pa => s.sliceBusy b pa
  | .buf _ _ _ => false

/-- Two places meet. -/
def Loc.meets (a : Loc) (n : Nat) (b : Loc) (m : Nat) : Bool :=
  match a, b with
  | .glb p, .glb q => Machine.meets p n q m
  | .buf u sp o, .buf v sq q => u == v && decide (sp = sq) && Machine.meets o n q m
  | _, _ => false

/-- An item of the store queue is a release `fence`. -/
def StoreOp.isFence : StoreOp → Bool
  | .fence _ => true
  | _ => false

/-- Two items write a common byte. -/
def StoreOp.meets (a b : StoreOp) : Bool :=
  match a.loc, b.loc with
  | some (p, n), some (q, m) => p.meets n q m
  | _, _ => false

/-- An item may leave the queue ahead of an earlier one: of two at different locations of one instruction (R301), of two commutative
updates of one instruction (R268), and a non-ordering atomic ahead of any access to another location (R312), but of no acquire (R307). -/
def StoreOp.passes (o e : StoreOp) : Bool :=
  (decide (o.ins? = e.ins?) && o.ins?.isSome && (!(o.meets e) || (o.useOf == 1 && e.useOf == 1))) ||
    (o.useOf == 2 && !e.isFence && !e.acquires && !(o.meets e))

/-- An atomic stands in the store queue. -/
def StoreOp.isAtom : StoreOp → Bool
  | .atom .. => true
  | _ => false

/-- The group has an item of the store queue that writes some byte of a place. -/
def Group.queuedAt (g : Group) (p : StoreOp → Bool) (n : Nat) (q : Loc) : Bool :=
  g.stq.any fun o => p o && match o.loc with | some (r, m) => q.meets n r m | none => false

/-- A delayed reduction acts on a word of some places. -/
def QuantumOp.meets (q : QuantumOp) (n : Nat) (l : List (Nat × Loc)) : Bool := l.any fun y => y.2.meets n q.tgt.loc 4

/-- Perform first the group's delayed reductions on a word that a later access of the group names (R303, R268). -/
def State.quantaFirst (s : State) (u g n : Nat) (l : List (Nat × Loc)) : State := s.releaseQuanta u g fun q => q.meets n l

/-! ## What a load sees (R230, R232, R304) -/

/-- Lay the bytes of a pending store over the bytes of a place. -/
def overlay (a : Nat) (l : List Byte) (b : Nat) (new : List Byte) : List Byte :=
  l.zipIdx.map fun (y, k) => if b ≤ a + k ∧ a + k < b + new.length then nth 0 new (a + k - b) else y

/-- A line as its home slice has it, under the stores of a core that are on their way there: the core's groups see them already (R304). -/
def State.lineFor (s : State) (stk core a : Nat) : List Byte :=
  (s.transit.filter fun t => t.core == coreKey stk core).foldl (fun l t => overlay a l t.pa t.bytes) (s.readMem a 64)

/-- Read `glb` bytes of one line through a core's L1: a copy may still be held while memory has changed, unless the load goes
to the home slice; what is read from there replaces a copy, and is allocated under CACHE 0 and 2. -/
def State.readGlb (s : State) (stk core : Nat) (fresh alloc : Bool) (pa n : Nat) : List Byte × State :=
  let a := pa / 64 * 64
  let line := s.lineFor stk core a
  match (s.core stk core).l1.find? fun e => e.1 == a with
  | some e =>
    if !fresh && Config.cacheKeeps s.tick a then ((e.2.drop (pa - a)).take n, s)
    else ((line.drop (pa - a)).take n, s.fillLine stk core a line)
  | none =>
    ((line.drop (pa - a)).take n, if alloc then s.fillLine stk core a line else s)

/-- Forward from the group's store queue, the youngest store last (R304). -/
def forwarded (q : List StoreOp) (p : Loc) (l : List Byte) : List Byte :=
  q.foldl (fun l o => match p, o with
    | .glb a, .glb _ b new _ => overlay a l b new
    | .buf u sp a, .buf _ v sq b new _ => if u = v ∧ sp = sq then overlay a l b new else l
    | _, _ => l) l

/-- Lay the words that a split has read ahead over the bytes of a place (R301); a load that goes to the home slice takes only what
was read there. -/
def withEarly (early : List (Loc × Bool × List Byte)) (fresh : Bool) (p : Loc) (l : List Byte) : List Byte :=
  early.foldl (fun l e => if fresh && !e.2.1 then l else match p, e.1 with
    | .glb a, .glb b => overlay a l b e.2.2
    | .buf u sp a, .buf v sq b => if u = v ∧ sp = sq then overlay a l b e.2.2 else l
    | _, _ => l) l

/-- The bytes of a place as a group of a block sees them now, its own store queue apart. -/
def State.look (s : State) (b : Block) (fresh alloc : Bool) (n : Nat) : Loc → List Byte × State
  | .glb pa => s.readGlb b.stk b.core fresh alloc pa n
  | .buf u sp off => (match s.block? u with | some b => s.bufRead b sp off n | none => [], s)

/-- A load allocates in L1 (R232). -/
def Ctx.allocates (x : Ctx) : Bool := !x.vol && (x.cache == 0 || x.cache == 2)

/-- What a load of `n` bytes at a place gives the group. -/
def Ctx.loadBytes (x : Ctx) (s : State) (n : Nat) (p : Loc) : List Byte × State :=
  let r := s.look x.b x.fresh x.allocates n p
  (forwarded x.g.stq p (withEarly x.p.early x.fresh p r.1), r.2)

/-- Load the places of several lanes, in order. -/
def Ctx.loadAll (x : Ctx) (n : Nat) : List (Nat × Loc) → State → List (Nat × List Byte) × State
  | [], s => ([], s)
  | (l, p) :: r, s =>
    let a := x.loadBytes s n p
    let b := x.loadAll n r a.2
    ((l, a.1) :: b.1, b.2)

/-- An acquire under MMODE (R230, R307). -/
def Ctx.acquired (x : Ctx) (s : State) : State :=
  if bitOf x.ord 0 then s.acquire x.c.blk x.c.gid x.scope else s

/-- What stands between passed checks and the access of a load or atomic: a locked C region, an engine-owned line, an own
atomic on the word that has not been performed. -/
inductive Hold where
  | go | interlock | stall
  deriving DecidableEq, Repr

/-- A delayed reduction of the group on some places must wait for its word. -/
def Ctx.quantaStall (x : Ctx) (n : Nat) (l : List (Nat × Loc)) : Bool :=
  x.g.quantum.any fun q => q.meets n l && x.s.blocked x.b q.tgt

/-- A load of a place goes to its home slice, behind a store of the core that is on its way there (R235). -/
def Ctx.behindStore (x : Ctx) : Loc → Bool
  | .glb pa => !(x.s.readsCopy x.b.stk x.b.core x.fresh pa) && x.s.sliceBusy x.b pa
  | .buf _ _ _ => false

/-- Whether an access to places must wait. -/
def Ctx.hold (x : Ctx) (n : Nat) (l : List (Nat × Loc)) : Hold :=
  if l.any fun y => x.s.lockedAt n y.2 then .interlock
  else if (l.any fun y => x.s.ownedAt n y.2 || x.g.queuedAt StoreOp.isAtom n y.2 || x.behindStore y.2) || x.quantaStall n l || x.g.acquiring
    then .stall
  else .go

/-- The instruction is tried again later: a chain ender goes back to the head of its chain (R50, R83, assumption 126). -/
def Ctx.stalled (x : Ctx) (s : State) : State := if x.pos = 0 then s else s.updCur x.c fun g => g.rewind x.c.age

/-- A load at the lanes of a list (R257): the values are fixed now and written when the data returns. -/
def Ctx.loadAt (x : Ctx) (size : Nat) (l : List LaneAddr) (vregs : List Nat) (put : List (Nat × List Byte) → Pend) : Res :=
  match x.access kindR size l with
  | .trap t => .trap t
  | .wait s => .wait s
  | .ok ps =>
    if ps.isEmpty then x.nothing
    else match x.hold size ps with
      | .interlock => .wait (x.waitAs .cInterlock)
      | .stall => .wait (x.stalled x.s)
      | .go =>
        let r := x.loadAll size ps (x.s.quantaFirst x.c.blk x.c.gid size ps)
        let s := x.acquired r.2
        .done (s.updCur x.c fun g => { g with pend := g.pend ++ [{ put r.1 with vregs := vregs }] }) []

/-- A vector load: `conv` gives the words of the destination registers from the bytes. -/
def Ctx.load (x : Ctx) (d n : Nat) (sp : Space) (a : Src) (size : Nat) (k : BitVec 5) (conv : List Byte → List Word) : Res :=
  x.loadAt size (x.lanes.map (x.ea sp a size k)) ((List.range n).map (d + ·)) fun r =>
    { kind := .load, vregs := [], sw := [], p6set := 0, p6clr := 0,
      vw := (r.map fun y => (conv y.2).zipIdx.map fun (w, j) => (32 * (d + j) + y.1, w)).flatten }

/-- A zero-extended word of bytes. -/
def wordOf (l : List Byte) : Word := BitVec.ofNat 32 (leNat l)

/-- The bytes as n words, lowest first. -/
def wordsOf : Nat → List Byte → List Word
  | 0, _ => []
  | n + 1, l => wordOf (l.take 4) :: wordsOf n (l.drop 4)

/-- Bytes sign-extended to a word. -/
def sextOf (n : Nat) (l : List Byte) : Word := (BitVec.ofNat (8 * n) (leNat l)).signExtend 32

/-! ## Stores (R257, R258) -/

/-- The item of the store queue for bytes at a place. -/
def storeOp (ins : Nat) (bytes : List Byte) (rel : Nat) : Loc → StoreOp
  | .glb pa => .glb ins pa bytes rel
  | .buf u sp off => .buf ins u sp off bytes rel

/-- A place some bytes further on. -/
def Loc.plus (n : Nat) : Loc → Loc
  | .glb pa => .glb (pa + n)
  | .buf u sp off => .buf u sp (off + n)

/-- The items for bytes at a place: an access of more than a word is atomic word by word only (R302). -/
def storeItems (ins rel : Nat) : Nat → Loc → List Byte → List StoreOp
  | 0, _, _ => []
  | n + 1, p, l => if l.isEmpty then [] else storeOp ins (l.take 4) rel p :: storeItems ins rel n (p.plus 4) (l.drop 4)

/-- The items for all of the bytes at a place. -/
def storeAll (ins rel : Nat) (p : Loc) (l : List Byte) : List StoreOp := storeItems ins rel (l.length / 4 + 1) p l

/-- A release under MMODE. -/
def Ctx.releases (x : Ctx) : Bool := bitOf x.ord 1

/-- The level of the release under MMODE (R306): 0 none or block scope, 1 cluster or stack scope, 2 system scope. -/
def Ctx.relLevel (x : Ctx) : Nat := if !x.releases || x.scope == 0 then 0 else if x.scope == 3 then 2 else 1

/-- What a release of a level must find performed (R306, R307): from cluster scope up, the core's earlier `glb` stores at their home
slices (assumption 110), at system scope also the group's puts acknowledged, and those of other groups that happen before (R315, assumption 127). -/
def State.released (s : State) (b : Block) (g : Group) (rel : Nat) : Bool :=
  (decide (rel = 0) || !(s.coreTransit b)) && (decide (rel < 2) || (g.puts.isEmpty && !(g.heard.any s.outstanding)))

/-- A store at the lanes (R257): its words enter the group's store queue in ascending lane order. A release performs the delayed
reductions first (R321). -/
def Ctx.store (x : Ctx) (sp : Space) (d : BitVec 7) (size : Nat) (k : BitVec 5) (data : Nat → List Byte) : Res :=
  match x.access kindW size (x.lanes.map (x.ea sp (.v d) size k)) with
  | .trap t => .trap t
  | .wait s => .wait s
  | .ok ps =>
    if ps.any fun y => x.s.lockedAt size y.2 then .wait (x.waitAs .cInterlock)
    else
      let s := if x.releases && !ps.isEmpty then x.s.drainQuanta x.c.blk x.c.gid
        else x.s.quantaFirst x.c.blk x.c.gid size ps
      .done (s.updCur x.c fun g =>
        { g with stq := g.stq ++ ps.flatMap fun y => storeAll x.s.tick x.relLevel y.2 (data y.1) }) []

/-- The bytes of a scalar or of two vector registers in a lane (R256). -/
def Ctx.data64 (x : Ctx) (a : Src) (l : Nat) : List Byte :=
  match a with
  | .v n => leBytes 4 (x.g.vreg n.toNat l).toNat ++ leBytes 4 (x.g.vreg (n.toNat + 1) l).toNat
  | .s n => leBytes 8 (x.rds n).toNat
  | _ => []

/-! ## Atomics (R264 to R270) -/

/-- The tagged address of each lane (R264). -/
def Ctx.atomAddr (x : Ctx) (a : AddrRef) (l : Nat) : LaneAddr :=
  match a with
  | .vpair n => LaneAddr.ofTag l
      (BitVec.ofNat 64 ((x.g.vreg (2 * n.toNat) l).toNat + 2 ^ 32 * (x.g.vreg (2 * n.toNat + 1) l).toNat))
  | .s n => LaneAddr.ofTag l (x.rds n)

/-- The target of an atomic at a place. -/
def Loc.atom : Loc → AtomTarget
  | .glb pa => .glb pa
  | .buf u _ off => .scr u off

/-- The block whose S an atomic acts on. -/
def AtomTarget.blk? : AtomTarget → Option Nat
  | .glb _ => none
  | .scr u _ => some u

/-- Whether the word is available to a speculative atomic (R269): in `glb` the line is present and no engine owns it. -/
def State.available (s : State) : AtomTarget → Bool
  | .glb pa => Config.lineReady s.tick pa && !(s.engineOwns pa 4)
  | .scr _ _ => true

/-- A lane of an atomic has its old word: the pending result takes it, and p6 if the atomic is speculative. -/
def Group.atomDone (g : Group) (id : Option Nat) (key : Option Nat) (lane : Nat) (spec ok : Bool) (old : Word) : Group :=
  { g with pend := g.pend.map fun p =>
      if p.kind = .atomic ∧ id = some p.id then
        { p with todo := p.todo - 1,
                 vw := (match key with | some k => if ok then p.vw ++ [(k, old)] else p.vw | none => p.vw),
                 p6set := if spec && ok then p.p6set ||| BitVec.ofNat 32 (2 ^ lane) else p.p6set,
                 p6clr := if spec && !ok then p.p6clr ||| BitVec.ofNat 32 (2 ^ lane) else p.p6clr }
      else p }

/-- Perform one atomic of the store queue for a group by number (R267, R269); an acquire of a scope beyond the block drops the clean lines of the
core's L1 (R230). -/
def State.performAtom (s : State) (u n stk core : Nat) : StoreOp → State
  | .atom _ t op mode b d _ use id key lane =>
    let spec := use == 4
    let ok := !spec || s.available t
    let r := if ok then s.atomic stk core t op mode b d else (0, s)
    let s := r.2.updBlock u fun x => x.updAt n fun g => g.atomDone id key lane spec ok r.1
    if use = 5 then s.hear u n 0 else if use = 6 then s.acquire u n 3 else s
  | _ => s

/-- An atomic or reduction (R264 to R270). `dest` is the destination register of a returning one, `old` the compare value of
`acas`. Its lanes enter the store queue, those of an acquire when the queue is empty, and no later access of the group is performed before them
(R307); a quantum reduction is delayed; one whose word an earlier item of the queue writes, or that
follows a release `fence` or an acquire, stays behind it. -/
def Ctx.atomicOp (x : Ctx) (op : Nat) (dest : Option Nat) (a : AddrRef) (b : Src) : Res :=
  match x.access kindRW 4 (x.lanes.map (x.atomAddr a)) with
  | .trap t => .trap t
  | .wait s => .wait s
  | .ok ps =>
    if ps.isEmpty then x.nothing
    else
      let acq := bitOf x.ord 0
      let use := if x.ord = 0 then x.useMode else 0
      let spec := use == 4
      let behind := (ps.any fun y => x.g.queuedAt (fun _ => true) 4 y.2) ||
        x.g.stq.any (fun o => o.isFence || o.acquires) || (ps.any fun y => y.2.atom.blk?.any (x.s.remoteAhead x.c.blk x.c.gid))
      let quantum := use == 3 && !behind
      let stuck := !x.g.stq.isEmpty || !(x.s.released x.b x.g x.relLevel) || (ps.any fun y => x.s.blocked x.b y.2.atom) ||
        (if x.releases then x.g.quantum.any fun q => x.s.blocked x.b q.tgt else x.quantaStall 4 ps)
      if acq && stuck then .wait (x.stalled x.s)
      else
        let s := if x.releases then x.s.drainQuanta x.c.blk x.c.gid else
          if quantum then x.s else x.s.quantaFirst x.c.blk x.c.gid 4 ps
        let op1 (y : Nat × Loc) : StoreOp :=
          .atom x.s.tick y.2.atom op x.mode (x.rdv b y.1) (match dest with | some d => x.g.vreg d y.1 | none => 0) x.relLevel
            (if acq then (if 1 ≤ x.scope then 6 else 5) else use) (if dest.isSome || spec then some x.s.tick else none) (dest.map fun d => 32 * d + y.1) y.1
        let ops := ps.map op1
        let pend : List Pend :=
          if dest.isSome || spec then
            [{ kind := .atomic, vw := [], vregs := dest.toList, sw := [], p6set := 0, p6clr := 0, p6 := spec, id := x.s.tick,
               todo := ps.length }]
          else []
        if quantum then
          .done (s.updCur x.c fun g => { g with quantum := g.quantum ++ ps.map fun y =>
            { op := op, mode := x.mode, tgt := y.2.atom, b := x.rdv b y.1, cycle := x.now, ins := x.s.tick } }) []
        else .done (s.updCur x.c fun g => { g with pend := g.pend ++ pend, stq := g.stq ++ ops }) []

/-! ## The store queue drains (R304, R306) -/

/-- An item of a store queue may be performed: no engine owns its line, no matrix operation locks its bytes, an atomic finds no
earlier store of the core on its way to the slice, and a release finds performed what it must (R235, R239, R253, R306). A speculative atomic does not wait for an engine (R276). A
store to S and an atomic on it stay behind the group's `remarr` to that block (R409). -/
def State.mayLeave (s : State) (b : Block) (g : Group) : StoreOp → Bool
  | .glb _ pa bytes rel => !(s.engineOwns pa bytes.length) && s.released b g rel
  | .buf _ u sp off bytes rel => !(s.lockedAt bytes.length (.buf u sp off)) && s.released b g rel &&
      !(s.remoteAhead b.uid g.gid u)
  | .atom _ t _ _ _ _ rel use _ _ _ => (if use = 4 then !(s.arrivingAt b t.loc) else !(s.blocked b t)) && s.released b g rel &&
      !(t.blk?.any (s.remoteAhead b.uid g.gid))
  | .fence rel => s.released b g rel && !(s.midWrite b.uid)

/-- Perform an item that leaves the store queue. -/
def State.performStore (s : State) (b : Block) (n : Nat) (ctx : DWord) (o : StoreOp) : State :=
  match o with
  | .glb _ pa bytes _ => s.sendStore b ctx pa bytes
  | .buf _ u sp off bytes _ => s.bufStore u sp off bytes true
  | .atom .. => s.performAtom b.uid n b.stk b.core o
  | .fence _ => s.flushPublisher b.uid true false

/-- The k-th item leaves the store queue; the rest of its instruction has begun to leave it. -/
def Group.unqueue (k : Nat) (g : Group) : Group :=
  let stq := dropNth g.stq k
  let left (i : Nat) : Bool := stq.any fun o => decide (o.ins? = some i)
  { g with stq := stq, begun := ((((nth? g.stq k).bind StoreOp.ins?).toList ++ g.begun).filter left).eraseDups }

/-- The k-th item of a group's store queue leaves it, if it may leave ahead of every earlier one. -/
def State.drainStore (s : State) (u n k : Nat) : State :=
  match s.block? u with
  | none => s
  | some b => match b.groupAt n with
    | none => s
    | some g => match nth? g.stq k with
      | none => s
      | some o =>
        if (g.stq.take k).all o.passes && s.mayLeave b g o then
          let s := (s.updBlock u fun b => b.updAt n (Group.unqueue k)).performStore b n g.ctxid o
          (s.tryHeld u n).prune u
        else s

/-- A store in transit may land: nothing of its core is ahead of it on the way to the slice, and no engine owns the line (R235, R274). -/
def State.mayLand (s : State) (k : Nat) (t : Transit) : Bool :=
  !((s.transit.take k).any fun e => e.core == t.core && e.slice == t.slice) && !(s.engineOwns t.pa t.bytes.length)

/-- The k-th store in transit reaches its home slice (R235, R305): it is performed for every agent, and what its group held back for it
goes on. -/
def State.landStore (s : State) (k : Nat) : State :=
  match nth? s.transit k with
  | none => s
  | some t =>
    if s.mayLand k t then
      let s := ({ s with transit := dropNth s.transit k }.writeMem t.pa t.bytes).wakeCwait true 0 t.pa (t.pa + t.bytes.length)
      s.blocks.foldl (fun s b =>
        ((b.groups.foldl (fun s g => if g.ctxid = t.ctx then s.tryHeld b.uid g.gid else s) s).tryEnded b.uid).prune b.uid) s
    else s

/-! ## Words read ahead (R301, R302) -/

/-- A place of an aligned word. -/
def Loc.isWord : Loc → Bool
  | .glb pa => pa % 4 == 0
  | .buf _ _ off => off % 4 == 0

/-- A split about to issue a load reads one aligned word (R302) ahead of the load's others: not a word that its group, a matrix operation or an
engine has yet to write, that a store of the core to the same slice precedes (R235), or that is uncorrectable. Another issue of the group, a wait
of the split, or an acquire of the group discards it (`Group.begin`, `State.endIssue`, `Group.forget`). -/
def State.glimpse (s : State) (c : Cur) (p : Loc) (fresh : Bool) : State :=
  match s.block? c.blk with
  | none => s
  | some b => match b.group? c.gid with
    | none => s
    | some g =>
      let reads := (g.split? c.age).elim false fun q => g.ready q && !g.suspended && s.blockRuns b
      let behind := match p with
        | .glb pa => !(s.readsCopy b.stk b.core fresh pa) && s.sliceBusy b pa
        | .buf _ _ _ => false
      if !reads || !p.isWord || behind || g.acquiring || s.lockedAt 4 p || s.ownedAt 4 p || g.queuedAt StoreOp.isAtom 4 p ||
        g.quantum.any (fun q => q.meets 4 [(0, p)]) || (s.poisonAt p 4).isSome then s
      else
        let r := s.look b fresh false 4 p
        r.2.updSplit c fun q => { q with early := q.early ++ [(p, fresh, forwarded g.stq p r.1)] }

/-! ## Results that arrive (R257, R170, R267) -/

/-- The k-th pending result of a group arrives, if it is of a kind and nothing of it is outstanding. -/
def State.arrivePend (s : State) (u n k : Nat) (kind : PendKind) : State :=
  match s.block? u with
  | none => s
  | some b => match b.groupAt n with
    | none => s
    | some g => match nth? g.pend k with
      | none => s
      | some p =>
        if p.kind = kind ∧ p.todo = 0 then
          let s := s.updBlock u fun b => b.updAt n fun g =>
            ({ g with pend := dropNth g.pend k }.applyPend p).wakeOperands (s.cycle b.stk)
          (s.prune u).granulesFreed b.stk b.core
        else s

/-! ## Fences (R261, R262) -/

/-- `fence` under MMODE (R261): every delayed reduction is performed; ORD 1 waits for earlier atomics, ORD 3 for every earlier
access; a release flushes the subscription batches of the block, with ORD 2 in its place of the store queue, so that later
loads may pass it. -/
def Ctx.fenceOp (x : Ctx) : Res :=
  if x.g.quantum.any fun q => x.s.blocked x.b q.tgt then .wait x.s
  else
    let s := x.s.drainQuanta x.c.blk x.c.gid
    match x.ord with
    | 0 => .done s []
    | 1 => if x.g.stq.any StoreOp.isAtom then .wait s else .done (x.acquired s) []
    | 2 => .done (s.updCur x.c fun g => { g with stq := g.stq ++ [.fence x.relLevel] }) []
    | _ =>
      if !x.g.stq.isEmpty || !(x.s.released x.b x.g x.relLevel) || x.s.midWrite x.c.blk then .wait s
      else .done (x.acquired (s.flushPublisher x.c.blk true false)) []

end Sys2Proof.Machine
end

