-- ==== Sys2Proof/Machine/MemOps.lean ====
section
/-!
DEFINITION. Rows 0x8 and 0x9: loads, stores, prefetch, fences, atomics and reductions (R256 to R270), and the events by which
loads, atomics and long results arrive, stores leave the queue, and page walks complete (R170, R257, R267, R268, R304, R379).
-/
namespace Sys2Proof.Machine

/-! ## Loads (R256, R257) -/

/-- `ld8`: a byte, zero-extended (R256, R257). -/
def execLd8 (d : BitVec 7) (a : Src) (sp : Space) (k : BitVec 5) (s : State) : Host.Outcome State Fault Refusal :=
  issue (.ld8 d a sp k) s fun x => x.load d.toNat 1 sp a 1 k fun l => [wordOf l]

/-- `ld16`: two bytes, zero-extended (R256, R257). -/
def execLd16 (d : BitVec 7) (a : Src) (sp : Space) (k : BitVec 5) (s : State) : Host.Outcome State Fault Refusal :=
  issue (.ld16 d a sp k) s fun x => x.load d.toNat 1 sp a 2 k fun l => [wordOf l]

/-- `ld32`: a word (R256, R257). -/
def execLd32 (d : BitVec 7) (a : Src) (sp : Space) (k : BitVec 5) (s : State) : Host.Outcome State Fault Refusal :=
  issue (.ld32 d a sp k) s fun x => x.load d.toNat 1 sp a 4 k fun l => [wordOf l]

/-- `ld64`: 8 bytes to two registers (R256, R257). -/
def execLd64 (d : BitVec 6) (a : Src) (sp : Space) (k : BitVec 5) (s : State) : Host.Outcome State Fault Refusal :=
  issue (.ld64 d a sp k) s fun x => x.load (2 * d.toNat) 2 sp a 8 k fun l => wordsOf 2 l

/-- `ld128`: 16 bytes to four registers (R256, R257). -/
def execLd128 (d : BitVec 5) (a : Src) (sp : Space) (k : BitVec 5) (s : State) : Host.Outcome State Fault Refusal :=
  issue (.ld128 d a sp k) s fun x => x.load (4 * d.toNat) 4 sp a 16 k fun l => wordsOf 4 l

/-- `ld8s`: a byte, sign-extended (R256, R257). -/
def execLd8s (d : BitVec 7) (a : Src) (sp : Space) (k : BitVec 5) (s : State) : Host.Outcome State Fault Refusal :=
  issue (.ld8s d a sp k) s fun x => x.load d.toNat 1 sp a 1 k fun l => [sextOf 1 l]

/-- `ld16s`: two bytes, sign-extended (R256, R257). -/
def execLd16s (d : BitVec 7) (a : Src) (sp : Space) (k : BitVec 5) (s : State) : Host.Outcome State Fault Refusal :=
  issue (.ld16s d a sp k) s fun x => x.load d.toNat 1 sp a 2 k fun l => [sextOf 2 l]

/-- `ldu`: 8 bytes once for the split, at the lowest lane of L (R259). -/
def execLdu (d : BitVec 6) (a : Src) (sp : Space) (k : BitVec 5) (s : State) : Host.Outcome State Fault Refusal :=
  issue (.ldu d a sp k) s fun x =>
    x.loadAt 8 ((x.lanes.take 1).map (x.ea sp a 8 k)) [] fun r =>
      { kind := .load, vw := [], vregs := [], p6set := 0, p6clr := 0,
        sw := if d = 0 then [] else r.map fun y => (d.toNat, BitVec.ofNat 64 (leNat y.2)) }

/-! ## Stores (R256, R257) -/

/-- `st8`: the low byte (R256, R257). -/
def execSt8 (d : BitVec 7) (a : Src) (sp : Space) (k : BitVec 5) (s : State) : Host.Outcome State Fault Refusal :=
  issue (.st8 d a sp k) s fun x => x.store sp d 1 k fun l => leBytes 1 (x.rdv a l).toNat

/-- `st16`: the low two bytes (R256, R257). -/
def execSt16 (d : BitVec 7) (a : Src) (sp : Space) (k : BitVec 5) (s : State) : Host.Outcome State Fault Refusal :=
  issue (.st16 d a sp k) s fun x => x.store sp d 2 k fun l => leBytes 2 (x.rdv a l).toNat

/-- `st32`: the word (R256, R257). -/
def execSt32 (d : BitVec 7) (a : Src) (sp : Space) (k : BitVec 5) (s : State) : Host.Outcome State Fault Refusal :=
  issue (.st32 d a sp k) s fun x => x.store sp d 4 k fun l => leBytes 4 (x.rdv a l).toNat

/-- `st64`: two registers, or a scalar (R256, R257). -/
def execSt64 (d : BitVec 7) (a : Src) (sp : Space) (k : BitVec 5) (s : State) : Host.Outcome State Fault Refusal :=
  issue (.st64 d a sp k) s fun x => x.store sp d 8 k fun l => x.data64 a l

/-- `st128`: four registers (R256, R257). -/
def execSt128 (d : BitVec 7) (a : BitVec 5) (sp : Space) (k : BitVec 5) (s : State) : Host.Outcome State Fault Refusal :=
  issue (.st128 d a sp k) s fun x => x.store sp d 16 k fun l => 
    (List.range 4).flatMap fun j => leBytes 4 (x.g.vreg (4 * a.toNat + j) l).toNat

/-! ## Prefetch and fences (R260 to R262) -/

/-- Bring the lines of PAs into a core's L1 (R260). -/
def State.bringLines (stk core : Nat) : List Nat → State → State
  | [], s => s
  | pa :: r, s =>
    let a := pa / 64 * 64
    let s := if (s.core stk core).l1.any (fun e => e.1 == a) || s.engineOwns a 64 then s
      else s.fillLine stk core a (s.lineFor stk core a)
    State.bringLines stk core r s

/-- `pref`: checks 1 to 3 with size 1; in `glb` the lines whose translation, permission and home hold are brought into L1
under MMODE.CACHE (R260, R232), behind the core's stores on their way to the same slice (R235). -/
def execPref (a : Src) (sp : Space) (k : BitVec 5) (s : State) : Host.Outcome State Fault Refusal :=
  issue (.pref a sp k) s fun x =>
    let l := x.lanes.map (x.ea sp a 64 k)
    match (access1 kindR l).orElse fun _ => x.access3 1 l with
    | some t => .trap t
    | none =>
      let g := (l.filter fun y => decide (y.sp = some .glb)).map fun y => (y, x.checkGlb kindR y)
      let missed := (g.filter fun y => decide (y.2 = .miss)).map fun y => y.1.addr.toNat
      if !missed.isEmpty then .wait (x.startWalks kindR (onePerPage missed))
      else if x.allocates && (okPas g).any fun y => x.behindStore (.glb y.2) then .wait (x.stalled x.s)
      else .done (if x.allocates then State.bringLines x.b.stk x.b.core ((okPas g).map (·.2)) x.s else x.s) []

/-- `fence` (R261). -/
def execFence (s : State) : Host.Outcome State Fault Refusal :=
  issue .fence s fun x => x.fenceOp

/-- `fencei`: wait until the group's earlier stores are performed at their home slices, then discard the words fetched ahead (R262). -/
def execFencei (s : State) : Host.Outcome State Fault Refusal :=
  issue .fencei s fun x =>
    if !x.g.stq.isEmpty || x.s.inTransit x.g.ctxid then .wait x.s else .done (x.s.updCur x.c fun g => { g with fetched := [] }) []

/-! ## Atomics (R264 to R270) -/

/-- `aadd`: add, the old word to D (R264, R267). -/
def execAadd (d : BitVec 7) (a : AddrRef) (b : Src) (s : State) : Host.Outcome State Fault Refusal :=
  issue (.aadd d a b) s fun x => x.atomicOp 0 (some d.toNat) a b

/-- `amin`: signed or unsigned minimum, the old word to D (R264, R267). -/
def execAmin (d : BitVec 7) (a : AddrRef) (b : Src) (s : State) : Host.Outcome State Fault Refusal :=
  issue (.amin d a b) s fun x => x.atomicOp 1 (some d.toNat) a b

/-- `amax`: maximum, the old word to D (R264, R267). -/
def execAmax (d : BitVec 7) (a : AddrRef) (b : Src) (s : State) : Host.Outcome State Fault Refusal :=
  issue (.amax d a b) s fun x => x.atomicOp 2 (some d.toNat) a b

/-- `aand`: AND, the old word to D (R264, R267). -/
def execAand (d : BitVec 7) (a : AddrRef) (b : Src) (s : State) : Host.Outcome State Fault Refusal :=
  issue (.aand d a b) s fun x => x.atomicOp 3 (some d.toNat) a b

/-- `aor`: OR, the old word to D (R264, R267). -/
def execAor (d : BitVec 7) (a : AddrRef) (b : Src) (s : State) : Host.Outcome State Fault Refusal :=
  issue (.aor d a b) s fun x => x.atomicOp 4 (some d.toNat) a b

/-- `axor`: XOR, the old word to D (R264, R267). -/
def execAxor (d : BitVec 7) (a : AddrRef) (b : Src) (s : State) : Host.Outcome State Fault Refusal :=
  issue (.axor d a b) s fun x => x.atomicOp 5 (some d.toNat) a b

/-- `axchg`: exchange, the old word to D (R264, R267). -/
def execAxchg (d : BitVec 7) (a : AddrRef) (b : Src) (s : State) : Host.Outcome State Fault Refusal :=
  issue (.axchg d a b) s fun x => x.atomicOp 6 (some d.toNat) a b

/-- `acas`: compare with D and swap, the old word to D (R264, R267). -/
def execAcas (d : BitVec 7) (a : AddrRef) (b : Src) (s : State) : Host.Outcome State Fault Refusal :=
  issue (.acas d a b) s fun x => x.atomicOp 7 (some d.toNat) a b

/-- `afadd`: floating add, the old word to D (R264, R267). -/
def execAfadd (d : BitVec 7) (a : AddrRef) (b : Src) (s : State) : Host.Outcome State Fault Refusal :=
  issue (.afadd d a b) s fun x => x.atomicOp 8 (some d.toNat) a b

/-- `radd`: add with no return (R264, R267). -/
def execRadd (a : AddrRef) (b : Src) (s : State) : Host.Outcome State Fault Refusal :=
  issue (.radd a b) s fun x => x.atomicOp 9 none a b

/-- `rmin`: minimum with no return (R264, R267). -/
def execRmin (a : AddrRef) (b : Src) (s : State) : Host.Outcome State Fault Refusal :=
  issue (.rmin a b) s fun x => x.atomicOp 10 none a b

/-- `rmax`: maximum with no return (R264, R267). -/
def execRmax (a : AddrRef) (b : Src) (s : State) : Host.Outcome State Fault Refusal :=
  issue (.rmax a b) s fun x => x.atomicOp 11 none a b

/-- `rfadd`: floating add with no return (R264, R267). -/
def execRfadd (a : AddrRef) (b : Src) (s : State) : Host.Outcome State Fault Refusal :=
  issue (.rfadd a b) s fun x => x.atomicOp 12 none a b

/-! ## Events -/

/-- LOAD_DATA_RETURN: the k-th pending result of group g of block b is load data that arrives (R257). -/
def execLoadDataReturn (s : State) : Host.Outcome State Fault Refusal :=
  .next (s.arrivePend s.ev.b s.ev.g s.ev.k .load)

/-- LONG_RESULT_WRITE: a pending result of `fdiv` to `flog2` is written (R170). -/
def execLongResultWrite (s : State) : Host.Outcome State Fault Refusal :=
  .next (s.arrivePend s.ev.b s.ev.g s.ev.k .long)

/-- ATOMIC_REPLY: the old words of an atomic whose lanes have all been performed arrive (R267). -/
def execAtomicReply (s : State) : Host.Outcome State Fault Refusal :=
  .next (s.arrivePend s.ev.b s.ev.g s.ev.k .atomic)

/-- STORE_QUEUE_DRAIN: the k-th item of the store queue of group g of block b leaves it, the head or one that may leave ahead (R304,
R312). -/
def execStoreQueueDrain (s : State) : Host.Outcome State Fault Refusal :=
  .next (s.drainStore s.ev.b s.ev.g s.ev.k)

/-- Perform the k-th delayed reduction of a group, if none on the same word is older (R267, R268). -/
def State.performQuantum (s : State) (u g k : Nat) : State :=
  match s.block? u with
  | none => s
  | some b => match b.group? g with
    | none => s
    | some x => match nth? x.quantum k with
      | none => s
      | some q =>
        if s.blocked b q.tgt || (x.quantum.take k).any (fun e => decide (e.tgt = q.tgt)) then s
        else State.performQuanta b.stk b.core [q] (s.updGroup u g fun x => { x with quantum := dropNth x.quantum k })

/-- QUANTUM_REDUCTION_PERFORM: the k-th delayed reduction of group g of block b is performed, at the latest when AQUANT cycles
have passed since its issue (R268). -/
def execQuantumReductionPerform (s : State) : Host.Outcome State Fault Refusal :=
  .next (s.performQuantum s.ev.b s.ev.g s.ev.k)

/-- The delayed reductions whose AQUANT cycles have passed are performed (R268). -/
def State.performOverdue (s : State) : State :=
  s.blocks.foldl (fun s b => b.groups.foldl (fun s g =>
    s.releaseQuanta b.uid g.gid fun q => decide (q.cycle + g.aquant.toNat ≤ s.cycle b.stk)) s) s

/-- The walks that a split still waits for. -/
def State.walksOf (s : State) (w : Walk) : List Walk :=
  s.dies.flatMap fun k => k.walks.filter fun y => y.blk == w.blk && y.gid == w.gid && y.age == w.age

/-- One walk gives its result: a leaf enters the slice and the core's cache, a failure goes to the split (R375, R378). -/
def State.finishWalk (s : State) (k : Nat) (w : Walk) : State :=
  match s.block? w.blk with
  | none => s
  | some b =>
    let l := s.launchOf b
    let r := s.walk (s.extension l) w.asid w.vmid w.va w.kind l.priv
    let s := r.2
    let s := match r.1 with
      | .leaf e => (s.updStack k fun x => { x with tlb := addTlb e x.tlb }).updCore b.stk b.core fun c =>
          { c with tlb := addTlb e c.tlb }
      | f => s.updGroup w.blk w.gid fun g => g.updSplit w.age fun p =>
          { p with walked := (walkKey w.va w.kind, f) :: p.walked }
    if (s.walksOf w).isEmpty then
      s.updGroup w.blk w.gid fun g => g.updSplit w.age fun p => if p.wait = .walk then p.wake (s.cycle b.stk) else p
    else s

/-- The page that a walk finds, as its first VA and its size; 4 KiB where it finds none. -/
def State.walkPage (s : State) (w : Walk) : Nat × Nat :=
  match s.block? w.blk with
  | some b =>
    let l := s.launchOf b
    match (s.walk (s.extension l) w.asid w.vmid w.va w.kind l.priv).1 with
    | .leaf e => (e.vbase, e.size)
    | _ => (w.va / 4096 * 4096, 4096)
  | none => (w.va / 4096 * 4096, 4096)

/-- The k-th walk of a stack's 512 walkers completes, with every miss to the same page, of whatever kind, that shares it (R379). Its reads
cross the stack's front link (R11). -/
def State.completeWalk (s : State) (stk k : Nat) : State :=
  match (if s.frontUp stk then nth? ((s.stack stk).walks.take 512) k else none) with
  | none => s
  | some w =>
    let page := s.walkPage w
    let same (y : Walk) : Bool := decide (y.asid = w.asid) && decide (y.vmid = w.vmid) && decide (page.1 ≤ y.va) &&
      decide (y.va < page.1 + page.2)
    let due := (s.stack stk).walks.filter same
    due.foldl (fun s w => s.finishWalk stk w) (s.updStack stk fun x => { x with walks := x.walks.filter fun y => !(same y) })

/-- PAGE_WALK_COMPLETE: the k-th walk of stack b completes (R379). -/
def execPageWalkComplete (s : State) : Host.Outcome State Fault Refusal :=
  .next (s.completeWalk s.ev.b s.ev.k)

end Sys2Proof.Machine
end

