-- ==== Sys2Proof/Machine/Copy.lean ====
section
/-!
DEFINITION. Addresses held in scalars (R223, R407), batches (R286, R287, R414), and the copy engine: gathering (R272, R276), the
checks (R273), the source pieces and destination sectors of a running copy (R274), and multicast delivery (R275).
-/
namespace Sys2Proof.Machine

/-! ## One address in a scalar -/

/-- A fault of an access by the whole split: TRAPLANES are its active lanes (R204). -/
def wholeSplit : Access → Access
  | .trap t => .trap { t with lanes := none }
  | a => a

/-- The checks of R224 for one tagged address in a scalar, in the spaces that the instruction allows. -/
def Ctx.accessTagWith (x : Ctx) (data : Bool) (kind size : Nat) (allow : Space → Bool) (v : DWord) : Access :=
  let a := LaneAddr.ofTag 0 v
  match a.sp with
  | some sp => if allow sp then wholeSplit (x.accessWith data kind size [a]) else .trap { cause := 0x09, val := a.tag }
  | none => .trap { cause := 0x09, val := a.tag }

/-- The same for an access of the words there. -/
def Ctx.accessTag (x : Ctx) (kind size : Nat) (allow : Space → Bool) (v : DWord) : Access := x.accessTagWith true kind size allow v

/-! ## Batches (R286, R287, R414) -/

/-- Closed batches that have completed, in order: each closed batch none of whose operations is running raises the count of
completed batches. -/
def batchesDone (running : Nat → Bool) (seq : Nat) : Nat → Nat → Nat
  | 0, done => done
  | n + 1, done => if done ≠ seq ∧ running done = false then batchesDone running seq n ((done + 1) % 2 ^ 32) else done

/-- Batches closed and not completed. -/
def outstanding (seq done : Nat) : Nat := (seq + 2 ^ 32 - done) % 2 ^ 32

/-- CBDONE and MBDONE follow the operations that have completed. -/
def Block.countBatches (b : Block) : Block :=
  { b with
    cbdone := batchesDone (fun n => b.copies.any fun c => c.batch == n) b.cbseq (outstanding b.cbseq b.cbdone) b.cbdone
    mbdone := batchesDone (fun n => b.matops.any fun m => m.batch == n) b.mbseq (outstanding b.mbseq b.mbdone) b.mbdone }

/-- A split at `bwait` or `mwait` goes on when few enough batches are outstanding; one at `mwait` that covers an operation that
met an uncorrectable word executes again and faults (R285). -/
def Block.batchOk (b : Block) (g : Group) (p : Split) : Split → Split := fun q =>
  match p.wait with
  | .batch 0 n => if outstanding b.cbseq b.cbdone ≤ n then q.goOn 0 else q
  | .batch 1 n =>
    if outstanding b.mbseq b.mbdone ≤ n then
      (if b.poisonBatches.any fun e => e.2.1 == g.gid && decide (n < outstanding b.mbseq e.1) then q.wake 0 else q.goOn 0)
    else q
  | _ => q

/-- Count the batches of a block and let the splits that wait for them go on, each as an acquire (R309). -/
def State.settleBatches (s : State) (u : Nat) : State :=
  match s.block? u with
  | none => s
  | some b =>
    let b := b.countBatches
    let goes := (b.groups.filter fun g => g.splits.any fun p => decide (b.batchOk g p p ≠ p)).map (·.gid)
    (s.updBlock u fun b =>
      let b := b.countBatches
      { b with groups := b.groups.map fun g => { g with splits := g.splits.map fun p =>
          let q := b.batchOk g p p
          if q = p then p else { q with readyAt := s.cycle b.stk } } }).acquireAll u 0 goes

/-- Close the open copy batch (R414). -/
def State.closeCopyBatch (s : State) (u : Nat) : State :=
  (s.updBlock u fun b => { b with cbseq := (b.cbseq + 1) % 2 ^ 32, cbopen := false }).settleBatches u

/-- Close the open matrix batch (R286). -/
def State.closeMatrixBatch (s : State) (u : Nat) : State :=
  (s.updBlock u fun b => { b with mbseq := (b.mbseq + 1) % 2 ^ 32, mbopen := false }).settleBatches u

/-! ## Ranges of an engine -/

/-- Cut a range at 32-byte boundaries into (address, length) pieces (R274). -/
def sectorsOf (a n : Nat) : List (Nat × Nat) :=
  if n = 0 then []
  else (List.range ((a + n - 1) / 32 - a / 32 + 1)).map fun k =>
    let lo := max a ((a / 32 + k) * 32)
    (lo, min (a + n) ((a / 32 + k + 1) * 32) - lo)

/-- The copy engine may make an access in a space (R225). -/
def engineMay (write : Bool) : Space → Bool
  | .par => !write
  | _ => true

/-- A failed check of an engine: its place in the order of R224, the tagged address, the cause and TRAPVAL. Stage 0 stands for a walk that cannot
be made yet, because the front link of its stack carries nothing (R11). -/
structure EngineFail where
  stage : Nat
  tag   : Nat
  cause : Nat
  val   : Nat
  deriving DecidableEq, Repr

/-- Where one piece of a range lies, or the check that fails at its lowest address (R224). -/
def State.enginePiece (s : State) (b : Block) (sp : Space) (kind : Nat) (a n : Nat) : Except EngineFail Loc × State :=
  match sp with
  | .glb =>
    let r := s.translateNow b.stk b.core (s.launchOf b) (a % 2 ^ 57) kind
    match r.1 with
    | .ok pa => (.ok (.glb pa), r.2)
    | .fail st cause val => (.error { stage := st, tag := a % 2 ^ 57, cause := cause, val := val }, r.2)
    | .miss => (.error { stage := 0, tag := a % 2 ^ 57, cause := 0, val := 0 }, r.2)
  | sp =>
    match (List.range (ceilDiv n 4)).find? fun k => (s.local? b sp (Int.ofNat (a + 4 * k)) (min 4 (n - 4 * k))).isNone with
    | some k =>
      let t := tagOf sp (Int.ofNat (a + 4 * k))
      (.error { stage := 3, tag := t, cause := 0x08, val := t }, s)
    | none => match s.local? b sp (Int.ofNat a) n with
      | some p => (.ok p, s)
      | none => let t := tagOf sp (Int.ofNat a); (.error { stage := 3, tag := t, cause := 0x08, val := t }, s)

/-- The pieces of a range, with the failures. -/
def State.enginePieces (b : Block) (sp : Space) (kind : Nat) :
    List (Nat × Nat) → State → List (Nat × Nat × Loc) × List EngineFail × State
  | [], s => ([], [], s)
  | (a, n) :: r, s =>
    let p := s.enginePiece b sp kind a n
    let q := State.enginePieces b sp kind r p.2
    match p.1 with
    | .ok l => ((a, n, l) :: q.1, q.2.1, q.2.2)
    | .error e => (q.1, e :: q.2.1, q.2.2)

/-- One side of a copy under R224 for the copy engine. -/
def State.engineRange (s : State) (b : Block) (v : DWord) (n : Nat) (write : Bool) :
    List (Nat × Nat × Loc) × List EngineFail × State :=
  let a := LaneAddr.ofTag 0 v
  match a.sp with
  | none => ([], [{ stage := 1, tag := a.tag, cause := 0x09, val := a.tag }], s)
  | some sp =>
    if engineMay write sp then State.enginePieces b sp (if write then kindW else kindR) (sectorsOf a.addr.toNat n) s
    else ([], [{ stage := 1, tag := a.tag, cause := 0x09, val := a.tag }], s)

/-- A walk of one of some pieces has to wait. -/
def walkWaits (l : List EngineFail) : Bool := l.any fun e => e.stage == 0

/-- The first failure in the order of R224, at the lowest address. -/
def firstFail (l : List EngineFail) : Option Trap :=
  (minBy? (fun e => e.stage * 2 ^ 64 + e.tag) l).map fun e => { cause := e.cause, val := e.val }

/-! ## Starting a copy (R272 to R274, R276) -/

/-- The slices leave some byte of the copy uncovered or covered twice, or cover a byte beyond it: the lowest such offset. -/
def sliceHole (len : Nat) (l : List (Nat × Nat)) : Option Nat :=
  let cover (o : Nat) : Nat := (l.filter fun x => decide (x.1 ≤ o ∧ o < x.1 + x.2)).length
  let bad (o : Nat) : Bool := if o < len then cover o ≠ 1 else cover o ≠ 0
  minBy? id (((0 :: len :: l.map (·.1)) ++ l.map fun x => x.1 + x.2).filter bad)

/-- Check 1 of R273: TRAPVAL of COPY-SLICE. -/
def gatherFault (l : List Slice) : Option Nat :=
  match l with
  | [] => none
  | f :: r =>
    let odd := r.filter fun x => decide ((x.dst, x.src, x.len, x.boff, x.bar) ≠ (f.dst, f.src, f.len, f.boff, f.bar))
    match minBy? id (odd.map (·.soff)) with
    | some o => some o
    | none => sliceHole f.len (l.map fun x => (x.soff, x.slen))

/-- Destination pieces with their offsets in the copy. -/
def destPieces (a : Nat) (l : List (Nat × Nat × Loc)) : List (Loc × Nat × Nat) := l.map fun p => (p.2.2, p.1 - a, p.2.1)

/-- An engine takes ownership of `glb` destination lines: no L1 keeps a copy of one (R313). -/
def State.ownLines (s : State) (l : List (Loc × Nat × Nat)) : State :=
  let held (a : Nat) : Bool := l.any fun x => match x.1 with | .glb q => q / 64 == a / 64 | _ => false
  { s with cores := s.cores.map fun (k, c) => (k, { c with l1 := c.l1.filter fun e => !(held e.1) }) }

/-- The checks of R273, and a running copy if they pass. -/
def State.startCopy (s : State) (u : Nat) (l : List Slice) : Except Trap Unit × State :=
  match l, s.block? u with
  | f :: _, some b =>
    match gatherFault l with
    | some o => (.error { cause := 0x20, val := o % 2 ^ 32 }, s)
    | none =>
      let d := s.engineRange b f.dst f.len true
      let r := d.2.2.engineRange b f.src f.len false
      match firstFail (d.2.1 ++ r.2.1) with
      | some t => (.error t, r.2.2)
      | none =>
        if f.bar && decide (b.sSize < 16 * f.boff + 16) then (.error { cause := 0x08, val := taggedScr (16 * f.boff) }, r.2.2)
        else
          let ds := destPieces (LaneAddr.ofTag 0 f.dst).addr.toNat d.1
          let s := r.2.2
          if f.len = 0 then (.ok (), s.updBlock u fun b => { b with cbopen := true })
          else
            let op : CopyOp := { seq := s.nextUid, batch := b.cbseq, srcs := r.1.map fun p => (p.2.2, p.2.1, []), dsts := ds,
                                 bar := if f.bar then some (16 * f.boff) else none, clusters := [], rank := 0, sp := .glb, off := 0, lands := [] }
            (.ok (), ({ s with nextUid := s.nextUid + 1 }.ownLines ds).updBlock u fun b =>
              { b with copies := b.copies ++ [op], cbopen := true })
  | _, _ => (.ok (), s)

/-- The splits of a block that wait at `copy` without a slice in a gathering look again. -/
def State.retryCopies (s : State) (u : Nat) (l : List Slice) : State :=
  s.updBlock u fun b => { b with groups := b.groups.map fun g => { g with splits := g.splits.map fun p =>
    if p.wait = .copy && !(l.any fun x => x.gid == g.gid && x.age == p.age) then p.wake (s.cycle b.stk) else p } }

/-- A supplier completes its `copy` with the batch number. -/
def State.finishSlice (s : State) (u batch : Nat) (x : Slice) : State :=
  match s.block? u with
  | none => s
  | some b => s.updGroup u x.gid fun g =>
      (g.setS x.d (BitVec.ofNat 64 batch)).updSplit x.age (Split.finish (s.cycle b.stk))

/-- A gathered copy cannot be checked yet: a walk that it needs waits (R11). -/
def State.copyWaits (s : State) (b : Block) (l : List Slice) : Bool :=
  match l with
  | [] => false
  | f :: _ => (gatherFault l).isNone &&
    let d := s.engineRange b f.dst f.len true
    walkWaits (d.2.1 ++ (d.2.2.engineRange b f.src f.len false).2.1)

/-- Gathering ends when every expected group has supplied a slice (R272): the copy is checked and starts, or every supplier
faults (R273). -/
def State.gatherEnd (s : State) (u : Nat) : State :=
  match s.block? u with
  | none => s
  | some b =>
    if !b.gather.isEmpty && b.expect.all (fun g => b.gather.any fun x => x.gid == g) && !(s.copyWaits b b.gather) then
      let s := s.updBlock u fun b => { b with gather := [], expect := [] }
      let r := s.startCopy u b.gather
      let s := match r.1 with
        | .ok _ => b.gather.foldl (fun (s : State) x => s.finishSlice u b.cbseq x) r.2
        | .error t => b.gather.foldl (fun (s : State) (x : Slice) => s.takeTrap { blk := u, gid := x.gid, age := x.age } t) r.2
      s.retryCopies u b.gather
    else s

/-- A group is no longer expected by the gathering copy (R276). -/
def State.copyForget (s : State) (u g : Nat) : State :=
  (s.updBlock u fun b => { b with expect := b.expect.filter fun x => !(x == g) }).gatherEnd u

/-- `copy` supplies the issuing group's slice (R271, R272). -/
def Ctx.supply (x : Ctx) (y : Slice) : Res :=
  let join (f : Block → Block) : Res := .wait (((x.waitAs .copy).updBlock x.c.blk f).gatherEnd x.c.blk)
  if x.b.gather.isEmpty then
    join fun b => { b with gather := [y], expect := (b.groups.filter fun g => g.attached).map fun g => g.gid }
  else if !(x.b.expect.contains x.c.gid) || x.b.gather.any (fun z => z.gid == x.c.gid) then .wait (x.waitAs .copy)
  else join fun b => { b with gather := b.gather ++ [y] }

/-! ## The engine runs (R274) -/

/-- Another copy that ended gathering earlier owns a line of a place (R276). -/
def State.ownedBefore (s : State) (seq : Nat) (p : Loc) (n : Nat) : Bool :=
  match p with
  | .glb pa => s.blocks.any fun b => b.copies.any fun c => decide (c.seq < seq) && c.dsts.any fun x => match x.1 with
      | .glb q => decide (q / 64 ≤ (pa + n - 1) / 64) && decide (pa / 64 ≤ (q + x.2.2 - 1) / 64)
      | .buf _ _ _ => false
  | .buf _ _ _ => false

/-- The bytes at a place now, as an engine reads them. -/
def State.placeBytes (s : State) (p : Loc) (n : Nat) : List Byte :=
  match p with
  | .glb pa => s.readMem pa n
  | .buf u sp off => match s.block? u with
    | some b => s.bufRead b sp off n
    | none => List.replicate n 0

/-- An engine writes bytes at a place (R313, R391). -/
def State.engineWrite (s : State) (p : Loc) (bytes : List Byte) : State :=
  match p with
  | .glb pa => (s.writeMem pa bytes).wakeCwait true 0 pa (pa + bytes.length)
  | .buf u sp off => s.bufStore u sp off bytes true

/-- Change the k-th running copy of a block. -/
def State.updCopy (s : State) (u k : Nat) (f : CopyOp → CopyOp) : State :=
  s.updBlock u fun b => match nth? b.copies k with
    | some c => { b with copies := setNth b.copies k (f c) }
    | none => b

/-- The engine reads one source piece, at some moment between the end of gathering and completion (R274). -/
def State.copyRead (s : State) (u k n : Nat) : State :=
  match (s.block? u).bind fun b => nth? b.copies k with
  | none => s
  | some c => match nth? c.srcs n with
    | none => s
    | some (p, len, bytes) =>
      if bytes ≠ [] ∨ s.lockedAt len p = true ∨ s.ownedBefore c.seq p len = true then s
      else s.updCopy u k fun c => { c with srcs := setNth c.srcs n (p, len, s.placeBytes p len) }

/-- The 32-byte sector of a place (R274). -/
def Loc.sector : Loc → Nat
  | .glb pa => pa / 32
  | .buf _ _ off => off / 32

/-- A place of the running copy may be cut behind its first `m` bytes: the engine's accesses are atomic word by word only (R302). -/
def cutsAt (p : Loc) (len m : Nat) : Bool := decide (0 < m) && decide (m < len) && (p.plus m).isWord

/-- The engine takes a source piece (`what` 0), a destination sector (1) or a multicast sector (2) in two parts (R302). -/
def CopyOp.cut (what n m : Nat) (c : CopyOp) : CopyOp :=
  match what with
  | 0 => (match nth? c.srcs n with
    | some (p, len, []) => if cutsAt p len m then
        { c with srcs := c.srcs.take n ++ [(p, m, []), (p.plus m, len - m, [])] ++ c.srcs.drop (n + 1) } else c
    | _ => c)
  | 1 => (match nth? c.dsts n with
    | some (p, off, len) => if cutsAt p len m then
        { c with dsts := c.dsts.take n ++ [(p, off, m), (p.plus m, off + m, len - m)] ++ c.dsts.drop (n + 1) } else c
    | none => c)
  | _ => (match nth? c.lands n with
    | some (v, a, len) => if cutsAt (.buf v c.sp a) len m then
        { c with lands := c.lands.take n ++ [(v, a, m), (v, a + m, len - m)] ++ c.lands.drop (n + 1) } else c
    | none => c)

/-- Every source piece has been read. -/
def CopyOp.ready (c : CopyOp) : Bool := c.srcs.all fun x => !x.2.2.isEmpty

/-- The bytes of the copy. -/
def CopyOp.bytes (c : CopyOp) : List Byte := c.srcs.flatMap fun x => x.2.2

/-- A finished copy leaves the list, and its batch may complete. -/
def State.dropCopy (s : State) (u k : Nat) : State :=
  (s.updBlock u fun b => { b with copies := dropNth b.copies k }).settleBatches u

/-- An engine writes one sector of its range (R274); the forwarder takes the range as one update, with its last sector (`forwardRange`). -/
def State.landSector (s : State) (p : Loc) (bytes : List Byte) : State :=
  match p with
  | .glb _ => s.engineWrite p bytes
  | .buf u sp off => s.bufStore u sp off bytes false

/-- A range that an engine has written at the S banks of a block is one update of its forwarder (R391, assumption 111). -/
def State.forwardRange (s : State) (u : Nat) (sp : Space) (off : Nat) (bytes : List Byte) : State :=
  match s.block? u with
  | none => s
  | some b => if sp = .scr ∧ bytes ≠ [] then s.forward b off bytes else s

/-- The place of a copy's range: its piece at offset 0. -/
def CopyOp.start (p : Loc) (off : Nat) : Loc :=
  match p with
  | .glb pa => .glb (pa - off)
  | .buf u sp o => .buf u sp (o - off)

/-- One destination sector lands, in one part or several, and is counted on the barrier with its last part (R274); a locked C region or a line
that an earlier copy owns is waited for. -/
def State.copyLand (s : State) (u k n : Nat) : State :=
  match (s.block? u).bind fun b => nth? b.copies k with
  | none => s
  | some c => match nth? c.dsts n with
    | none => s
    | some (p, off, len) =>
      if c.ready = false ∨ s.lockedAt len p = true ∨ s.ownedBefore c.seq p len = true then s
      else
        let left := dropNth c.dsts n
        let s := (s.updCopy u k fun c => { c with dsts := left }).landSector p ((c.bytes.drop off).take len)
        let s := if left.isEmpty then
            (match CopyOp.start p off with
              | .buf v sp o => s.forwardRange v sp o c.bytes
              | .glb _ => s).dropCopy u k
          else s
        match c.bar with
        | some o => if left.any fun x => x.1.sector == p.sector then s else State.sectors u o 1 s
        | none => s

/-! ## Multicast (R275) -/

/-- The block that receives a multicast on a cluster: of the issuing grid, with the rank, resident on the cluster; the sender itself
where it qualifies, else the one with the lowest core. -/
def State.receiver (s : State) (b : Block) (cluster rank : Nat) : Option Block :=
  let l := s.blocks.filter fun y => decide (y.place = .resident) && y.launch == b.launch && y.stk == b.stk && y.core / 8 == cluster &&
    y.rank == rank
  if l.any fun y => y.uid == b.uid then some b else minBy? (·.core) l

/-- The sectors of a range that lie in an allocation. -/
def sectorsIn (size off n : Nat) : List (Nat × Nat) :=
  (sectorsOf off n).filterMap fun x => if x.1 < size then some (x.1, min x.2 (size - x.1)) else none

/-- A multicast that has nothing left to reach or to land is finished. -/
def State.endMulticast (s : State) (u k : Nat) : State :=
  match (s.block? u).bind fun b => nth? b.copies k with
  | none => s
  | some c => if c.clusters.isEmpty && c.lands.isEmpty then s.dropCopy u k else s

/-- The engine reaches the next cluster of a multicast (R275): the sectors for its receiver, if it has one, are under way; a receiver
whose allocation is too small is told. -/
def State.reachCluster (s : State) (u k : Nat) : State :=
  match s.block? u with
  | none => s
  | some b => match nth? b.copies k with
    | none => s
    | some c => match c.clusters with
      | [] => s
      | cl :: more =>
        if c.ready = false then s
        else match s.receiver b cl c.rank with
          | none => (s.updCopy u k fun c => { c with clusters := more }).endMulticast u k
          | some y =>
            let l := (sectorsIn (y.bufSize c.sp) c.off c.bytes.length).map fun x => (y.uid, x.1, x.2)
            let s := (s.updCopy u k fun c => { c with clusters := more, lands := c.lands ++ l }).endMulticast u k
            if y.bufSize c.sp < c.off + c.bytes.length then s.notice y 0 0x1E 0xF else s

/-- A sector of a multicast lands in its receiver, and is counted on its barrier with its last part, in the saved images of a receiver that has been pre-empted
meanwhile (R275, R276); a receiver that has ended takes nothing. -/
def State.landMulticast (s : State) (u k n : Nat) : State :=
  match (s.block? u).bind fun b => nth? b.copies k with
  | none => s
  | some c => match nth? c.lands n with
    | none => s
    | some (v, a, m) =>
      let left := dropNth c.lands n
      let s := (s.updCopy u k fun c => { c with lands := left }).endMulticast u k
      let s := s.bufStore v c.sp a ((c.bytes.drop (a - c.off)).take m) false
      let s := if left.any fun x => x.1 == v then s else match s.block? v with
        | some y => s.forwardRange v c.sp c.off (c.bytes.take (y.bufSize c.sp - c.off))
        | none => s
      match c.bar, s.block? v with
      | some o, some y =>
        if o + 16 ≤ y.sSize ∧ (left.any fun x => x.1 == v && x.2.1 / 32 == a / 32) = false then State.sectors v o 1 s else s
      | _, _ => s

end Sys2Proof.Machine
end

