-- ==== Sys2Proof/Machine/Tiles.lean ====
section
/-!
DEFINITION. Tiles: the header (R240, R241), storage (R242 to R248), the header checks (R251), element values under block
scales and sparsity (R127, R128, R243, R244), quantising (R143), and matrix sums (R141, R142).
-/
namespace Sys2Proof.Machine

/-! ## The header (R240, R241) -/

/-- One byte of the CRC of R241, bit by bit. -/
def crcBits : Nat → Nat → Nat
  | 0, c => c
  | n + 1, c => crcBits n (if bitOf c 7 then ((c * 2) % 256) ^^^ 0x2F else (c * 2) % 256)

/-- The CRC of a list of bytes. -/
def crc8 (l : List Nat) : Nat := l.foldl (fun c b => crcBits 8 (c ^^^ b)) 0xFF ^^^ 0xFF

/-- The CRC of a header over its low 15 bytes. -/
def headerCrc (h : Nat) : Nat := crc8 ((List.range 15).map fun k => slice h (8 * k + 7) (8 * k))

/-- A header with TAG and CRC set. -/
def sealHeader (h : Nat) : Nat :=
  let h := (h % 2 ^ 120) / 256 * 256 + 0xB5
  h + headerCrc h * 2 ^ 120

/-- FMT. -/
def hFmt (h : Nat) : Nat := slice h 11 8
/-- SCL. -/
def hScl (h : Nat) : Nat := slice h 15 12
/-- SPR. -/
def hSpr (h : Nat) : Nat := slice h 19 16
/-- ORIENT. -/
def hOrient (h : Nat) : Bool := bitOf h 20
/-- ROT. -/
def hRot (h : Nat) : Bool := bitOf h 21
/-- SEEDID. -/
def hSeed (h : Nat) : Nat := slice h 31 24
/-- ROWS. -/
def hRows (h : Nat) : Nat := slice h 47 32
/-- COLS. -/
def hCols (h : Nat) : Nat := slice h 63 48
/-- PITCH. -/
def hPitch (h : Nat) : Nat := slice h 79 64
/-- SOFF. -/
def hSoff (h : Nat) : Nat := slice h 95 80
/-- MOFF. -/
def hMoff (h : Nat) : Nat := slice h 111 96
/-- The extent along K. -/
def hK (h : Nat) : Nat := if hOrient h then hRows h else hCols h
/-- The extent along N. -/
def hN (h : Nat) : Nat := if hOrient h then hCols h else hRows h

/-- A header from its fields, sealed. -/
def mkHeader (fmt scl spr : Nat) (orient rot : Bool) (seed rows cols pitch soff moff : Nat) : Nat :=
  sealHeader (packFields [(0xB5, 8), (fmt, 4), (scl, 4), (spr, 4), (b2n orient, 1), (b2n rot, 1), (0, 2), (seed, 8), (rows, 16),
    (cols, 16), (pitch, 16), (soff, 16), (moff, 16), (0, 8)])

/-- The number format of a FMT; none for i8 and i32. -/
def tileFmt : Nat → Option Fmt
  | 0 => some .f32 | 1 => some .f16 | 2 => some .bf16 | 3 => some .e4m3 | 4 => some .e5m2 | 5 => some .e2m1 | 6 => some .d8
  | _ => none

/-- Bits of an element (R240). -/
def elemBits : Nat → Nat
  | 0 | 10 => 32
  | 1 | 2 => 16
  | 5 => 4
  | _ => 8

/-! ## Storage (R242 to R245) -/

/-- Bits of a stored row: W of R242 in bits. -/
def rowBits (h : Nat) : Nat :=
  let n := hCols h * elemBits (hFmt h)
  match hSpr h with | 1 => n / 2 | 2 => n / 4 | _ => n

/-- The scale row pitch SP (R243). -/
def scalePitch (h : Nat) : Nat :=
  match hScl h with
  | 1 => roundUp (ceilDiv (hK h) 32) 4
  | 2 => roundUp (ceilDiv (hK h) 16) 4
  | 3 => roundUp (hK h) 4
  | _ => 0

/-- The size of the scale area (R243). -/
def scaleSize (h : Nat) : Nat :=
  match hScl h with
  | 1 | 2 => hN h * scalePitch h
  | 3 => ceilDiv (hN h) 32 * scalePitch h
  | 4 => 4
  | 5 => 4 * hN h
  | _ => 0

/-- The metadata row pitch MP (R244). -/
def metaPitch (h : Nat) : Nat :=
  match hSpr h with
  | 1 => roundUp (ceilDiv (hK h) 8) 4
  | 2 => roundUp (ceilDiv (hK h) 16) 4
  | 4 => roundUp (ceilDiv (ceilDiv (hK h * elemBits (hFmt h)) 256) 8) 4
  | _ => 0

/-- The end of the data rows. -/
def dataEnd (h : Nat) : Nat := 16 + hRows h * hPitch h

/-- The parts of the image as (start, length). -/
def tileParts (h : Nat) : List (Nat × Nat) :=
  [(0, 16), (16, hRows h * hPitch h)] ++ (if hScl h = 0 then [] else [(16 * hSoff h, scaleSize h)]) ++
    (if hSpr h = 0 then [] else [(16 * hMoff h, hN h * metaPitch h)])

/-- The extent of the tile (R242). -/
def hExtent (h : Nat) : Nat := (tileParts h).foldl (fun a p => max a (p.1 + p.2)) 0

/-- Two parts of a list overlap. -/
def partsOverlap : List (Nat × Nat) → Bool
  | [] => false
  | p :: r => r.any (fun q => meets p.1 p.2 q.1 q.2) || partsOverlap r

/-- The first condition of R245 that fails, by its reason code; `fits` tests the extent. -/
def layoutReason (h : Nat) (fits : Nat → Bool) : Option Nat :=
  if hPitch h % 4 ≠ 0 ∨ hPitch h * 8 < rowBits h then some 0x10
  else if rowBits h % 8 ≠ 0 then some 0x11
  else if (decide (hSoff h = 0) != decide (hScl h = 0)) || (decide (hMoff h = 0) != decide (hSpr h = 0)) ||
      partsOverlap (tileParts h) then some 0x12
  else if hSpr h ≠ 0 ∧ (hOrient h = true ∨ ((hSpr h = 1 ∨ hSpr h = 2) ∧ hK h % 4 ≠ 0)) then some 0x13
  else if !fits (hExtent h) then some 0x14
  else none

/-- Step 3 of R251: the reason code. -/
def definedReason (h : Nat) : Option Nat :=
  if slice h 119 112 ≠ 0 ∨ slice h 23 22 ≠ 0 then some 0x01
  else if !([0, 1, 2, 3, 4, 5, 6, 7, 10].contains (hFmt h)) then some 0x02
  else if 5 < hScl h then some 0x03
  else if !([0, 1, 2, 4].contains (hSpr h)) then some 0x04
  else none

/-- Steps 1 to 4 of R251: cause and reason of the first failure. `rpitch` is the RPITCH of a pair. -/
def headerFail (h : Nat) (rpitch : Option Nat) (fits : Nat → Bool) : Option (Nat × Nat) :=
  if slice h 7 0 ≠ 0xB5 ∨ slice h 127 120 ≠ headerCrc h then some (0x0D, 0)
  else match definedReason h with
    | some r => some (0x0E, r)
    | none => match layoutReason h fits with
      | some r => some (0x0F, r)
      | none => match rpitch with
        | some p => if p = hPitch h then none else some (0x0F, 0x10)
        | none => none

/-- Logical byte o of an image stands at this offset of the stored image (R248). -/
def rotated (h rotc o : Nat) : Nat :=
  let p := hPitch h
  if 16 ≤ o ∧ o < dataEnd h ∧ p ≠ 0 then
    let r := (o - 16) / p
    16 + r * p + ((o - 16) % p + 4 * ((r * rotc) % 32)) % p
  else o

/-- The image of a stored tile: the rotation undone. -/
def unrotate (h rotc : Nat) (raw : List Byte) : List Byte :=
  (List.range raw.length).map fun o => nth 0 raw (rotated h rotc o)

/-- The stored form of an image. -/
def rotate (h rotc : Nat) (img : List Byte) : List Byte :=
  ((List.range img.length).foldl (fun m o => Sparse.put m (rotated h rotc o) (nth 0 img o)) ([] : Sparse 8)).read 0 img.length

/-- The logical offset of a byte that stands at an offset of the stored image (R248). -/
def unrotated (h rotc o : Nat) : Nat :=
  let p := hPitch h
  if 16 ≤ o ∧ o < dataEnd h ∧ p ≠ 0 then
    let r := (o - 16) / p
    16 + r * p + ((o - 16) % p + p - 4 * ((r * rotc) % 32) % p) % p
  else o

/-- A data byte at a logical offset lies in a chunk that SPR 4 skips, which is not read (R244); `img` is the image. The padding of a row up
to PITCH belongs to no chunk and is read (R242). -/
def skipped (h : Nat) (img : List Byte) (o : Nat) : Bool :=
  if hSpr h = 4 ∧ 16 ≤ o ∧ o < dataEnd h ∧ (o - 16) % hPitch h * 8 < rowBits h then
    let r := (o - 16) / hPitch h
    !(bitOf (leNat ((img.drop (16 * hMoff h + r * metaPitch h)).take (metaPitch h))) ((o - 16) % hPitch h / 32))
  else false

/-! ## Elements (R123, R127, R128, R243, R244) -/

/-- The little-endian number of n bytes of an image. -/
def imgNat (img : List Byte) (o n : Nat) : Nat := leNat ((img.drop o).take n)

/-- The e-th element of stored row r. -/
def storedCode (h : Nat) (img : List Byte) (r e : Nat) : Nat :=
  let w := elemBits (hFmt h)
  let at_ := 16 + r * hPitch h
  if w = 4 then (imgNat img (at_ + e / 2) 1 / 2 ^ (4 * (e % 2))) % 16 else imgNat img (at_ + e * (w / 8)) (w / 8)

/-- The value of an element code (R125, R132, R124). -/
def codeVal (fmt c : Nat) : Val :=
  match tileFmt fmt with
  | some f => f.operand false c
  | none => let z := signedOf (elemBits fmt) c; .fin (decide (z < 0)) (Q.ofInt z)

/-- The value of the scale that covers (n, k) (R127, R243). -/
def scaleVal (h : Nat) (img : List Byte) (n k : Nat) : Val :=
  let base := 16 * hSoff h
  let e8 (o : Nat) : Val := let c := imgNat img (base + o) 1; if c = 255 then Val.cnan else .fin false (Q.dyadic 1 (Int.ofNat c - 127))
  match hScl h with
  | 1 => e8 (n * scalePitch h + k / 32)
  | 2 => Fmt.e4m3.dec (imgNat img (base + n * scalePitch h + k / 16) 1 % 128)
  | 3 => e8 (n / 32 * scalePitch h + k)
  | 4 => Fmt.f32.dec (imgNat img base 4)
  | 5 => Fmt.f32.dec (imgNat img (base + 4 * n) 4)
  | _ => .fin false (Q.ofInt 1)

/-- An element with its scale applied (R128). -/
def scaled (h : Nat) (img : List Byte) (n k c : Nat) : Val :=
  let v := codeVal (hFmt h) c
  if hScl h = 0 then v else Val.mul v (scaleVal h img n k)

/-- The elements that stand at (n, k): one in a dense tile; under SPR 1 and 2 those whose position names k; under SPR 4 a skipped
chunk counts as +0 (R244). -/
def elemsAt (h : Nat) (img : List Byte) (n k : Nat) : List Val :=
  let mb := 16 * hMoff h + n * metaPitch h
  let bits (o w : Nat) : Nat := slice (imgNat img mb (metaPitch h)) (o + w - 1) o
  match hSpr h with
  | 1 =>
    let g := k / 4
    ((if bits (4 * g) 2 = k % 4 then [storedCode h img n (2 * g)] else []) ++
      (if bits (4 * g + 2) 2 = k % 4 then [storedCode h img n (2 * g + 1)] else [])).map (scaled h img n k)
  | 2 =>
    let g := k / 4
    (if bits (2 * g) 2 = k % 4 then [storedCode h img n g] else []).map (scaled h img n k)
  | 4 =>
    if bits (k * elemBits (hFmt h) / 256) 1 = 0 then [.fin false (Q.ofInt 0)] else [scaled h img n k (storedCode h img n k)]
  | _ => [scaled h img n k (if hOrient h then storedCode h img k n else storedCode h img n k)]

/-- The value of a dense tile at (n, k). -/
def valAt (h : Nat) (img : List Byte) (n k : Nat) : Val := nth (Val.fin false (Q.ofInt 0)) (elemsAt h img n k) 0

/-! ## Matrix sums (R141, R142, R249) -/

/-- The supported pairs (R249): K per operation, chunk, and whether the product is an integer one. -/
def pairInfo (a b : Nat) : Option (Nat × Nat × Bool) :=
  let eight (f : Nat) : Bool := f == 3 || f == 4 || f == 6
  if a == 5 && b == 5 then some (192, 64, false)
  else if (eight a && (eight b || b == 5)) || (a == 5 && eight b) then some (96, 32, false)
  else if (a == 1 && b == 1) || (a == 2 && b == 2) then some (48, 16, false)
  else if a == 7 && b == 7 then some (96, 32, true)
  else none

/-- The sum of the products of a chunk (R142): an exact zero counts as +0. -/
def chunkSum (l : List Val) : Val :=
  let isNan : Val → Bool | .nan _ => true | _ => false
  let infOf (s : Bool) : Val → Bool | .inf t => s == t | _ => false
  if l.any isNan then Val.cnan
  else if l.any (infOf true) then (if l.any (infOf false) then Val.cnan else .inf true)
  else if l.any (infOf false) then .inf false
  else
    let q := l.foldl (fun a v => match v with | .fin _ x => Q.add a x | _ => a) (Q.ofInt 0)
    .fin (decide (q.num < 0)) (if q.num = 0 then Q.ofInt 0 else q)

/-- The products of A(i, k) and B(k, j). -/
def productsAt (ha : Nat) (ia : List Byte) (hb : Nat) (ib : List Byte) (i j k : Nat) : List Val :=
  (elemsAt ha ia i k).flatMap fun x => (elemsAt hb ib j k).map fun y => Val.mul x y

/-- The rounding of the matrix unit: RNE, NaN canonical. -/
def matRounding : Rounding := { rm := 0, sat := false, ftz := false, dnan := true }

/-- One chunk added to an accumulator code (R141). -/
def addChunk (integer rot : Bool) (c : Nat) (l : List Val) : Nat :=
  if integer then
    (l.foldl (fun (a : Int) (v : Val) => match v with | .fin _ x => a + x.floor | _ => a) (Int.ofNat c) % 2 ^ 32).toNat
  else
    let s := chunkSum l
    let s := if rot then Val.mul s (.fin false (Q.dyadic 1 (-5))) else s
    Fmt.f32.enc matRounding 0 (Val.add 0 (Fmt.f32.dec c) s)

/-- The result element (R141): three chunks in ascending K. -/
def productElem (ha : Nat) (ia : List Byte) (hb : Nat) (ib : List Byte) (chunk : Nat) (integer : Bool) (i j c : Nat) : Nat :=
  (List.range 3).foldl (fun c q =>
    addChunk integer (hRot ha && hRot hb) c
      ((List.range chunk).flatMap fun k => productsAt ha ia hb ib i j (q * chunk + k))) c

/-! ## Quantising (R143) -/

/-- The largest finite value of a format. -/
def fmtMax (f : Fmt) : Q := f.mag f.maxCode

/-- emax of R143. -/
def fmtEmax : Fmt → Int
  | .e2m1 => 2 | .e4m3 => 8 | .e5m2 => 15 | _ => 0

/-- The largest magnitude of a block; none when it holds a NaN or an infinity. -/
def blockMax : List Val → Option Q
  | [] => some (Q.ofInt 0)
  | .fin _ q :: r => (blockMax r).map fun m => if Q.lt m q.abs then q.abs else m
  | _ => none

/-- The value of a block's scale: that of a NaN block, an infinity, or a finite value (R143). -/
inductive ScaleVal where
  | nan
  | inf
  | fin (q : Q)
  deriving DecidableEq, Repr

/-- The scale code of a block and its value (R143). An f32 scale that rounds beyond the largest finite value is infinite (R135). -/
def blockScale (f : Fmt) (scl : Nat) (l : List Val) : Nat × ScaleVal :=
  match blockMax l with
  | none => (match scl with | 1 | 3 => 0xFF | 2 => 0x7F | _ => 0x7FC00000, .nan)
  | some m =>
    if m.num = 0 then (match scl with | 1 | 2 | 3 => 0 | _ => 0x3F800000, .fin (Q.ofInt 1))
    else match scl with
      | 1 | 3 => let x := max (-127) (min 127 (log2Floor m - fmtEmax f)); ((x + 127).toNat, .fin (Q.dyadic 1 x))
      | 2 =>
        let c := max 1 (min 0x7E (Fmt.e4m3.roundFin true 3 0 false (Q.div m (fmtMax f))))
        (c, .fin (Fmt.e4m3.mag c))
      | _ =>
        let c := Fmt.f32.roundFin false 3 0 false (Q.div m (fmtMax f))
        (c, if c ≤ Fmt.f32.maxCode then .fin (Fmt.f32.mag c) else .inf)

/-- The code of an element of a block (R143): rounded under RNE and clamped to the largest finite value. Under an infinite scale
every quotient is a zero with the sign of the element. -/
def blockElem (f : Fmt) (s : ScaleVal) (v : Val) : Nat :=
  match s, v with
  | .fin q, .fin neg x => f.roundFin true 0 0 neg (Q.div x q)
  | .inf, .fin neg _ => f.roundFin true 0 0 neg (Q.ofInt 0)
  | _, _ => 0

/-- The elements that share the scale of (n, k), as (n, k) (R243). -/
def blockMembers (h n k : Nat) : List (Nat × Nat) :=
  let span (lo len hi : Nat) : List Nat := ((List.range len).map (lo + ·)).filter fun x => decide (x < hi)
  match hScl h with
  | 1 => (span (k / 32 * 32) 32 (hK h)).map fun x => (n, x)
  | 2 => (span (k / 16 * 16) 16 (hK h)).map fun x => (n, x)
  | 3 => (span (n / 32 * 32) 32 (hN h)).map fun x => (x, k)
  | 4 => (List.range (hN h)).flatMap fun y => (List.range (hK h)).map fun x => (y, x)
  | 5 => (List.range (hK h)).map fun x => (n, x)
  | _ => []

/-- The scale code and value of the block of (n, k), from the values of the tile. -/
def scaleFor (h : Nat) (val : Nat → Nat → Val) (n k : Nat) : Nat × ScaleVal :=
  match tileFmt (hFmt h) with
  | some f => blockScale f (hScl h) ((blockMembers h n k).map fun x => val x.1 x.2)
  | none => (0, .fin (Q.ofInt 1))

/-- An element without a block scale (R293): floating formats saturate with canonical NaNs; integers are clamped, and a NaN gives 0. -/
def plainElem (fmt : Nat) (v : Val) : Nat :=
  match tileFmt fmt with
  | some f => f.enc { rm := 0, sat := true, ftz := false, dnan := true } 0 v
  | none =>
    let w := elemBits fmt
    match v with
    | .nan _ => 0
    | .inf s => clampInt true w (if s then -(2 ^ 40) else 2 ^ 40)
    | .fin _ q => clampInt true w (roundInt 0 0 q)

/-- The code of element (n, k) of a result tile. -/
def resultCode (h : Nat) (val : Nat → Nat → Val) (n k : Nat) : Nat :=
  if hScl h = 0 then plainElem (hFmt h) (val n k)
  else match tileFmt (hFmt h) with
    | some f => blockElem f (scaleFor h val n k).2 (val n k)
    | none => 0

/-! ## Images of result tiles (R292) -/

/-- The bytes of stored row r of a dense tile: the codes packed, and the padding up to PITCH; `pad` gives the padding bytes of the
image. -/
def rowBytes (pad : Nat → Byte) (h r : Nat) (code : Nat → Nat) : List Byte :=
  let w := hCols h * elemBits (hFmt h) / 8
  leBytes w (packElems (elemBits (hFmt h)) ((List.range (hCols h)).map code)) ++
    (List.range (hPitch h - w)).map fun j => pad (16 + r * hPitch h + w + j)

/-- The scale area (R243); `scale n k` is the code of the scale that covers (n, k). The padding of a scale row is 0, as the images of R450
have it. -/
def scaleBytes (h : Nat) (scale : Nat → Nat → Nat) : List Byte :=
  let row (n cnt unit : Nat) : List Byte := (List.range (scalePitch h)).map fun q =>
    if q < cnt then BitVec.ofNat 8 (scale n (unit * q)) else 0
  match hScl h with
  | 1 => (List.range (hN h)).flatMap fun n => row n (ceilDiv (hK h) 32) 32
  | 2 => (List.range (hN h)).flatMap fun n => row n (ceilDiv (hK h) 16) 16
  | 3 => (List.range (ceilDiv (hN h) 32)).flatMap fun b => row (32 * b) (hK h) 1
  | 4 => leBytes 4 (scale 0 0)
  | 5 => (List.range (hN h)).flatMap fun n => leBytes 4 (scale n 0)
  | _ => []

/-- The image of a result tile (R292): header, data rows with their padding, scale area, and 0 between the parts. The spec says that
the padding of a data row is written and not with what: a free value (assumption 32). -/
def tileImage (tick h : Nat) (code scale : Nat → Nat → Nat) : List Byte :=
  let pad (o : Nat) : Byte := (Config.free tick (2 ^ 42 + o)).setWidth 8
  let rows := (List.range (hRows h)).flatMap fun r => rowBytes pad h r fun c => if hOrient h then code c r else code r c
  let m := Sparse.write ([] : Sparse 8) 0 (leBytes 16 h ++ rows)
  let m := if hScl h = 0 then m else Sparse.write m (16 * hSoff h) (scaleBytes h scale)
  m.read 0 (hExtent h)

/-! ## Hadamard rotation (R294) -/

/-- The sign generator of a block. -/
def hadSign (seed : Word) (q : Nat) : Word := rngNext (seed ^^^ BitVec.ofNat 32 (q * 0x9E3779B1))

/-- One butterfly stage with half-width h. -/
def butterfly (h : Nat) (y : List Val) : List Val :=
  let r32 (v : Val) : Val := Fmt.f32.dec (Fmt.f32.enc { rm := 0, sat := false, ftz := false, dnan := false } 0 v)
  let z : Val := .fin false (Q.ofInt 0)
  (List.range 32).map fun i =>
    if i / h % 2 = 0 then r32 (Val.add 0 (nth z y i) (nth z y (i + h)))
    else r32 (Val.add 0 (nth z y (i - h)) (nth z y i).neg)

/-- Rotate one block of 32 values. -/
def hadamard (seed : Word) (q : Nat) (x : List Val) : List Val :=
  let st := hadSign seed q
  let y := x.zipIdx.map fun (v, i) => if st.getLsbD i then v.neg else v
  [1, 2, 4, 8, 16].foldl (fun y h => butterfly h y) y

end Sys2Proof.Machine
end

