-- ==== Sys2Proof/Machine/Matrix.lean ====
section
/-!
DEFINITION. The matrix unit: tile operands and their checks (R246, R247, R278, R279, R299), the checks of a product (R249 to R252),
gangs (R280 to R282), matrix operations and their completion (R253, R254, R283 to R285, R292 to R297), and gating (R298).
-/
namespace Sys2Proof.Machine

/-! ## Tile operands (R246, R247, R278) -/

/-- The fields of an operand pair (R247): the space, the tagged address and offset of the header, ROTC, RPITCH, and whether a
reserved field is not 0. -/
structure Pair where
  sp     : Option Space
  tag    : Nat
  addr   : Nat
  rotc   : Nat
  rpitch : Nat
  bad    : Bool
  deriving DecidableEq, Repr

/-- A pair from its two scalars as one number. -/
def pairOf (v : Nat) : Pair :=
  let addr := slice v 31 0 + 16 * slice v 95 80 * slice v 47 32
  { sp := Space.ofCode (slice v 50 48), tag := slice v 50 48 * 2 ^ 61 + addr % 2 ^ 61, addr := addr, rotc := slice v 99 96,
    rpitch := slice v 79 64, bad := decide (slice v 63 51 ≠ 0) || decide (slice v 127 100 ≠ 0) }

/-- A tile operand resolved: a header register or a pair. -/
inductive TileArg where
  | reg (n : Nat)
  | buf (p : Pair)
  deriving DecidableEq, Repr

/-- The number in a scalar pair. -/
def Group.pairVal (g : Group) (n : Nat) : Nat := (g.sreg (2 * n)).toNat + 2 ^ 64 * (g.sreg (2 * n + 1)).toNat

/-- The operand that a tile field names. -/
def Group.tileArg (g : Group) : TileRef → TileArg
  | .reg n => .reg n.toNat
  | .buf n => .buf (pairOf (g.pairVal n.toNat))

/-- TRAPVAL that names a tile (R204). -/
def TileArg.name : TileArg → Nat
  | .reg n => 0xFF * 2 ^ 56 + n
  | .buf p => p.tag

/-- A tile fault with its reason code (R204, R299). -/
def tileTrap (cause reason name : Nat) : Trap := { cause := cause, val := name + reason * 2 ^ 48 }

/-- Step 1 of R279: SPACE-ACCESS, MISALIGNED, SPACE-RANGE of a pair. -/
def Block.tileStep1 (b : Block) (allow : Space → Bool) : TileArg → Option Trap
  | .reg _ => none
  | .buf p => match p.sp with
    | none => some { cause := 0x09, val := p.tag }
    | some sp =>
      if !allow sp then some { cause := 0x09, val := p.tag }
      else if p.addr % 16 ≠ 0 then some { cause := 0x07, val := p.addr }
      else if b.bufSize sp < p.addr + 16 then some { cause := 0x08, val := p.tag }
      else none

/-- Step 2 of R279: REG-RANGE of a header register, then the lane condition of R246. -/
def tileStep2 (word : Nat) (bound : Nat) (act : LaneMask) (lanesToo : Bool) : TileArg → Option Trap
  | .reg n =>
    if bound ≤ n then some { cause := 0x04, val := word }
    else if lanesToo && decide (act ≠ BitVec.allOnes 32) then some (tileTrap 0x0F 0x15 (0xFF * 2 ^ 56 + n))
    else none
  | .buf _ => none

/-- Image byte o of a tile in registers (R246). -/
def Group.tileByte (g : Group) (n o : Nat) : Byte :=
  let w : Word := if o < 16 then g.vreg n (o / 4) else g.vreg (n + 1 + (o - 16) / 128) ((o - 16) % 128 / 4)
  BitVec.ofNat 8 (w.toNat / 2 ^ (8 * (o % 4)))

/-- The header bytes of an operand; the vector unit sees the group's own pending stores. -/
def State.tileHeader (s : State) (b : Block) (g : Group) (fwd : Bool) : TileArg → Nat
  | .reg n => leNat ((List.range 16).map (g.tileByte n))
  | .buf p => match p.sp with
    | some sp =>
      let raw := s.bufRead b sp p.addr 16
      leNat (if fwd then forwarded g.stq (.buf b.uid sp p.addr) raw else raw)
    | none => 0

/-- The last register that an image of an extent reaches. -/
def lastReg (n ext : Nat) : Nat := if ext ≤ 16 then n else n + 1 + (ext - 17) / 128

/-- The registers of a tile in registers. -/
def tileRegs (h : Nat) : TileArg → List Nat
  | .reg n => (List.range (lastReg n (hExtent h) - n + 1)).map (n + ·)
  | .buf _ => []

/-- The extent fits the register bound or the allocation (R245). -/
def Block.tileFits (b : Block) (bound : Nat) (a : TileArg) (ext : Nat) : Bool :=
  match a with
  | .reg n => decide (lastReg n ext < bound)
  | .buf p => match p.sp with
    | some sp => decide (p.addr + ext ≤ b.bufSize sp)
    | none => false

/-- Steps 1 to 4 of R251 on a header: cause and reason. -/
def Block.tileFail (b : Block) (bound : Nat) (a : TileArg) (h : Nat) : Option (Nat × Nat) :=
  headerFail h (match a with | .reg _ => none | .buf p => some p.rpitch) (b.tileFits bound a)

/-- UNCORRECTABLE for the header of a tile in a buffer (R26). -/
def State.headerPoison (s : State) (b : Block) : TileArg → Option Trap
  | .reg _ => none
  | .buf p => match p.sp with
    | some sp => (s.poisonAt (.buf b.uid sp p.addr) 16).map fun d => { cause := 0x1C, val := tagOf sp (Int.ofNat p.addr + d) }
    | none => none

/-- UNCORRECTABLE for a register, by its code (R26, R204). -/
def badReg (r : Nat) : Trap := { cause := 0x1C, val := 0xFFFFFFFFFFFFFF00 + r }

/-- UNCORRECTABLE for the header of a tile, in a register or a buffer (R26). -/
def State.headerBad (s : State) (b : Block) (g : Group) (a : TileArg) : Option Trap :=
  match a with
  | .reg n => if g.bad.contains n then some (badReg n) else none
  | .buf _ => s.headerPoison b a

/-- UNCORRECTABLE for a data register of a tile whose header has passed its checks (R26, R251): a register that holds nothing but
chunks that SPR 4 skips is not read (R244). -/
def Group.dataBad (g : Group) (a : TileArg) (h : Nat) : Option Trap :=
  match a with
  | .reg n =>
    let img := (List.range (hExtent h)).map (g.tileByte n)
    let read (r : Nat) : Bool := (List.range 128).any fun k =>
      let o := 16 + 128 * (r - n - 1) + k
      decide (o < hExtent h) && !(skipped h img o)
    ((tileRegs h a).find? fun r => decide (n < r) && g.bad.contains r && read r).map badReg
  | .buf _ => none

/-- Step 3 of R279 for one operand. -/
def State.tileStep3 (s : State) (b : Block) (g : Group) (fwd : Bool) (a : TileArg) : Option Trap :=
  (s.headerBad b g a).orElse fun _ =>
    (b.tileFail g.bound a (s.tileHeader b g fwd a)).map fun x => tileTrap x.1 x.2 a.name

/-- The spaces of a matrix-unit source (R278). -/
def matSource : Space → Bool
  | .scr | .wgt | .act | .acc => true
  | _ => false

/-- The space of a matrix-unit destination. -/
def matDest : Space → Bool
  | .acc => true
  | _ => false

/-- A reserved field of a pair is not 0. -/
def TileArg.bad : TileArg → Bool
  | .buf p => p.bad
  | _ => false

/-- The distances of the uncorrectable words among `n` bytes of a buffer. -/
def State.uncorrectableIn (s : State) (u : Nat) (sp : Space) (off n : Nat) : List Nat :=
  s.poisoned.filterMap fun q => (wordMeets (.buf u sp off) n q).map Int.toNat

/-- A source tile in a buffer as it stands now: a word in C that an earlier operation has locked is taken when that operation completes
(R254, R284). -/
def State.tileNow (s : State) (b : Block) (h : Nat) (sp : Space) (off rotc : Nat) : TileSrc :=
  { hdr := h, loc := .buf sp off rotc (s.bufRead b sp off (hExtent h)) (if sp = .acc then b.matops.map fun m => (m.lo, m.hi) else [])
      (s.uncorrectableIn b.uid sp off (hExtent h)) }

/-- Where a source tile lies, as an operation takes it at its issue (R246, R254, R284). -/
def State.tileSrc (s : State) (b : Block) (g : Group) (a : TileArg) (h : Nat) : TileSrc :=
  match a with
  | .reg n => { hdr := h, loc := .bytes ((List.range (hExtent h)).map (g.tileByte n)) }
  | .buf p => s.tileNow b h (p.sp.getD .scr) p.addr p.rotc

/-- Take the bytes of a source again, at the moment a joint operation issues (R284). -/
def State.retake (s : State) (b : Block) (t : TileSrc) : TileSrc :=
  match t.loc with
  | .bytes _ => t
  | .buf sp off rotc _ _ _ => s.tileNow b t.hdr sp off rotc

/-- The bytes [lo, hi) of a buffer that a source tile occupies. -/
def TileSrc.region (t : TileSrc) : Option (Space × Nat × Nat) :=
  match t.loc with
  | .bytes _ => none
  | .buf sp off _ _ _ _ => some (sp, off, hExtent t.hdr)

/-! ## The checks of a product (R249 to R252) -/

/-- Step 5 of R251: the options of R250. -/
def optionsOk (h : Nat) (isA : Bool) : Bool :=
  let scl := hScl h
  let spr := if isA then true else hSpr h == 0
  let none_ := !(hRot h)
  match hFmt h with
  | 3 | 4 => decide (scl ≠ 2) && spr && (none_ || scl == 1)
  | 5 => spr && (none_ || scl == 1 || scl == 2)
  | 6 => (scl == 0 || scl == 4 || scl == 5) && spr && none_
  | 1 | 2 | 7 => scl == 0 && spr && none_
  | _ => true

/-- The header that R252 infers. -/
def resultHeader (integer : Bool) (g pitch : Nat) : Nat :=
  mkHeader (if integer then 10 else 0) 0 0 false false 0 (16 * g) 32 pitch 0 0

/-- Steps 6 to 12 of R251. Step 6 tests the pair of member 0's A with B: another member's unlisted FMT fails at step 7, which compares the
members' A (R251 does not say which A the pair of a joint product takes; assumption 130). `as` are the members' A headers with the TRAPVAL that names them, `hc` the accumulator's header if it
is read, `c` the D pair, and `srcs` the sources. -/
def Block.productFail (b : Block) (as : List (Nat × Nat)) (hb bname : Nat) (hc : Option Nat) (c : Pair) (srcs : List TileSrc) :
    Option Trap :=
  match as with
  | [] => none
  | (ha, aname) :: rest =>
    match pairInfo (hFmt ha) (hFmt hb) with
    | none => some (tileTrap 0x0E 0x06 aname)
    | some (k, _, integer) =>
      match as.find? fun x => decide (hN x.1 ≠ 16 ∨ hK x.1 ≠ k) with
      | some x => some (tileTrap 0x0F 0x16 x.2)
      | none =>
        if hN hb ≠ 32 ∨ hK hb ≠ k then some (tileTrap 0x0F 0x16 bname)
        else match rest.find? fun x => decide ((hFmt x.1, hScl x.1, hSpr x.1, hOrient x.1, hRot x.1, hSeed x.1) ≠
            (hFmt ha, hScl ha, hSpr ha, hOrient ha, hRot ha, hSeed ha)) with
          | some x => some (tileTrap 0x0F 0x17 x.2)
          | none =>
            if hRot ha != hRot hb || (hRot ha && decide (hSeed ha ≠ hSeed hb)) then some (tileTrap 0x0F 0x18 aname)
            else
              let size := 16 * as.length * c.rpitch
              match hc with
              | some h =>
                if h ≠ resultHeader integer as.length (hPitch h) then some (tileTrap 0x0F 0x19 c.tag)
                else if c.rpitch < 128 ∨ c.rpitch % 4 ≠ 0 then some (tileTrap 0x0F 0x1D c.tag)
                else if srcs.any (fun t => match t.region with
                    | some (sp, o, n) => decide (sp = .acc) && meets o n c.addr (16 + size)
                    | none => false) then some (tileTrap 0x0F 0x12 c.tag)
                else none
              | none =>
                if c.rpitch < 128 ∨ c.rpitch % 4 ≠ 0 then some (tileTrap 0x0F 0x1D c.tag)
                else if b.cSize < c.addr + 16 + size then some (tileTrap 0x0F 0x14 c.tag)
                else if srcs.any (fun t => match t.region with
                    | some (sp, o, n) => decide (sp = .acc) && meets o n c.addr (16 + size)
                    | none => false) then some (tileTrap 0x0F 0x12 c.tag)
                else none

/-! ## Issue (R253, R284, R286, R298) -/

/-- The locked region of a destination in `acc` (R253). -/
def lockRegion (addr h : Nat) : Nat × Nat := (addr / 64 * 64, roundUp (addr + dataEnd h) 64)

/-- Gated sub-arrays begin to wake (R298). -/
def Core.wakeSubs (now : Nat) (c : Core) : Core :=
  { c with subs := c.subs.map fun (k, x) => (k, if x.gated then { gated := false, wake := some (now + c.mwakelat.toNat) } else x) }

/-- A matrix operation issues: it joins the open batch, locks its region and starts the wake of gated sub-arrays. -/
def State.startMat (s : State) (u : Nat) (op : MatOp) : State :=
  match s.block? u with
  | none => s
  | some b =>
    (s.updBlock u fun b =>
      { b with matops := b.matops ++ [{ op with batch := b.mbseq, ctxids := op.gids.map fun g => ((b.group? g).map (·.ctxid)).getD 0 }],
               mbopen := true }).updCore b.stk b.core
      (Core.wakeSubs (s.cycle b.stk))

/-- The operation of a product (R283). -/
def productOp (id : Nat) (gids : List Nat) (z : Bool) (as : List TileSrc) (b : TileSrc) (c : Pair) : MatOp :=
  let integer := match as with
    | a :: _ => (match pairInfo (hFmt a.hdr) (hFmt b.hdr) with | some (_, _, i) => i | none => false)
    | [] => false
  let h := resultHeader integer as.length c.rpitch
  let r := lockRegion c.addr h
  { id := id, batch := 0, gids := gids, ctxids := [], work := .product z as b h, dst := .buf .acc c.addr c.rotc, lo := r.1, hi := r.2 }

/-- B and the C pair of a product: steps 1 to 5 on them, then steps 6 to 12 with the members' A tiles; the operation if all pass
(R251, R282). Of a joint product these faults, the reserved fields and step 1 of the B and C pairs among them, are raised at the rendezvous,
in every member (R279, R280 and R282 do not say when those two are; assumption 130). -/
def State.finishProduct (s : State) (b : Block) (g0 : Group) (word : Nat) (act : LaneMask) (z : Bool)
    (as : List (TileSrc × Nat)) (bArg : TileArg) (c : Pair) (gids : List Nat) : Except Trap MatOp :=
  let cArg : TileArg := .buf c
  let hb := s.tileHeader b g0 false bArg
  let steps := (b.tileStep1 matSource bArg).orElse fun _ => (b.tileStep1 matDest cArg).orElse fun _ =>
    (tileStep2 word g0.bound act true bArg).orElse fun _ => (s.tileStep3 b g0 false bArg).orElse fun _ =>
    (if z then none else s.tileStep3 b g0 false cArg).orElse fun _ =>
    if optionsOk hb false then none else some (tileTrap 0x0E 0x05 bArg.name)
  match (if bArg.bad || c.bad then some ({ cause := 0x02, val := word } : Trap) else steps) with
  | some t => .error t
  | none =>
    let bs := s.tileSrc b g0 bArg hb
    let hc := if z then none else some (s.tileHeader b g0 false cArg)
    let srcs := as.map (·.1) ++ [bs]
    match b.productFail (as.map fun x => (x.1.hdr, x.2)) hb bArg.name hc c srcs with
    | some t => .error t
    | none => .ok (productOp s.tick gids z (as.map (·.1)) bs c)

/-- Steps 1 to 5 of R251 on the issuing split's A tile (R280). -/
def Ctx.checkA (x : Ctx) (i : Instr) (a : TileArg) : Option Trap :=
  if a.bad then some (x.illegalOperand i)
  else (x.b.tileStep1 matSource a).orElse fun _ => (tileStep2 (x.wordVal i) x.g.bound x.act true a).orElse fun _ =>
    (x.s.tileStep3 x.b x.g false a).orElse fun _ =>
    if optionsOk (x.s.tileHeader x.b x.g false a) true then none else some (tileTrap 0x0E 0x05 a.name)

/-- A register of a tile in registers is pending (R46, R246). -/
def Ctx.tilePending (x : Ctx) (a : TileArg) : Bool :=
  match a with
  | .reg n =>
    let h := x.s.tileHeader x.b x.g false a
    x.g.pendingOn [n] [] false || (x.b.tileFail x.g.bound a h).isNone && x.g.pendingOn (tileRegs h a) [] false
  | .buf _ => false

/-- The registers of a tile operand on which the split waits: the header register while that is pending. -/
def Ctx.tileWaits (x : Ctx) (a : TileArg) : List Nat :=
  match a with
  | .reg n => if x.g.pendingOn [n] [] false then [n] else tileRegs (x.s.tileHeader x.b x.g false a) a
  | .buf _ => []

/-- The split waits for the registers of a tile operand. -/
def Ctx.waitTile (x : Ctx) (a : TileArg) : State := x.waitRegs (x.tileWaits a)

/-- UNCORRECTABLE for a data register of a tile operand that the issuing split reads. -/
def Ctx.tileBad (x : Ctx) (a : TileArg) : Option Trap := x.g.dataBad a (x.s.tileHeader x.b x.g false a)

/-! ## Gangs (R280 to R282) -/

/-- The members M0 to M(g − 1) of a GANG value (R114). -/
def gangList (g : BitVec 42) : List Nat := (List.range (field g 2 0)).map fun j => slice g.toNat (6 * j + 11) (6 * j + 6)

/-- The index of a member in a list. -/
def memberIndex (l : List Nat) (g : Nat) : Nat := l.findIdx fun x => x == g

/-- TRAPVAL of the gang faults: index and GID (R204). -/
def gangTrap (cause : Nat) (l : List Nat) (g : Nat) : Trap := { cause := cause, val := memberIndex l g % 8 + g % 32 * 256 }

/-- Every arrival of a list faults. -/
def State.faultArrivals (s : State) (u : Nat) (l : List (Arrival × Trap)) : State :=
  l.foldl (fun (s : State) x => s.takeTrap { blk := u, gid := x.1.gid, age := x.1.age } x.2) s

/-- Whether two arrivals agree in OP, D and B (R281): a register tile by its register number, a pair by its value. -/
def Arrival.agrees (p q : Arrival) : Bool :=
  decide ((p.z, p.d) = (q.z, q.d)) && (match p.b, q.b with
    | .reg m, .reg n => decide (m = n)
    | .buf _, .buf _ => p.bpair == q.bpair
    | _, _ => false)

/-- The rendezvous completes: agreement, the checks of R282, and the operation; every member goes on or faults. B is read here, at the issue
of the operation (R284); a register of B that another split of member 0 has written since the arrival is read as it stands now, and the
write did not wait (assumption 108). -/
def State.joint (s : State) (u word : Nat) (ps : List Arrival) : State :=
  match ps, s.block? u with
  | m0 :: rest, some b =>
    let now := s.cycle b.stk
    let s := s.updBlock u fun b => { b with arrivals := b.arrivals.filter fun p => !(ps.contains p) }
    let l := gangList m0.gang
    match rest.find? fun p => !(m0.agrees p) with
    | some p => s.faultArrivals u (ps.map fun q =>
        (q, gangTrap 0x10 l (if q.gid = m0.gid then (match rest with | r :: _ => r.gid | [] => 0) else p.gid)))
    | none =>
      match b.group? m0.gid with
      | none => s
      | some g0 =>
        let act : LaneMask := match g0.split? m0.age with
          | some p => p.mask &&& (if bitOf p.mode.toNat 3 then ~~~(g0.preg (field p.mode 2 0)) else g0.preg (field p.mode 2 0))
          | none => 0
        let bArg : TileArg := match m0.b with | .reg n => .reg n.toNat | .buf _ => .buf (pairOf m0.bpair)
        match s.finishProduct b g0 word act m0.z (ps.map fun p => (s.retake b p.a, p.aval)) bArg (pairOf m0.cpair)
            (ps.map (·.gid)) with
        | .error t => s.faultArrivals u (ps.map fun q => (q, t))
        | .ok op => match g0.dataBad bArg (s.tileHeader b g0 false bArg) with
          | some t => s.faultArrivals u (ps.map fun q => (q, t))
          | none => ps.foldl (fun (s : State) p => s.updGroup u p.gid fun g => g.updSplit p.age (Split.finish now)) (s.startMat u op)
  | _, _ => s

/-- Each member's oldest unmatched arrival of a list, if every member has one (R281). -/
def rendezvousOf (arr : List Arrival) (l : List Nat) : Option (List Arrival) :=
  l.foldr (fun g acc => match acc, arr.find? (fun p => p.gid == g && decide (gangList p.gang = l)) with
    | some r, some p => some (p :: r)
    | _, _ => none) (some [])

/-- An arrival (R280, R281), after its own A has passed. -/
def State.arriveGang (s : State) (u word : Nat) (p : Arrival) : State ⊕ Trap :=
  match s.block? u with
  | none => .inl s
  | some b =>
    let l := gangList p.gang
    match l.find? fun g => !(b.groups.any fun x => x.gid == g && x.attached) with
    | some g => .inr (gangTrap 0x11 l g)
    | none =>
      match b.arrivals.find? fun q => decide (q.gid ≠ p.gid) && decide (gangList q.gang ≠ l) && l.contains q.gid &&
          (gangList q.gang).contains p.gid with
      | some q =>
        let s := s.updBlock u fun b => { b with arrivals := b.arrivals.filter fun y => !(decide (y = q)) }
        .inl (s.faultArrivals u [(q, gangTrap 0x10 (gangList q.gang) p.gid), (p, gangTrap 0x10 l q.gid)])
      | none =>
        let s := s.updBlock u fun b => { b with arrivals := b.arrivals ++ [p] }
        match rendezvousOf (b.arrivals ++ [p]) l with
        | some ps => .inl (s.joint u word ps)
        | none => .inl s

/-- The pending arrivals of one group to one member list, oldest first. -/
def arrivalsOf (arr : List Arrival) (g : Nat) (l : List Nat) : List Arrival :=
  arr.filter fun q => q.gid == g && decide (gangList q.gang = l)

/-- A member that a pending rendezvous names has ended or detached before arriving (R281): every arrival in it faults. The k-th arrival of a
group to a list belongs to the k-th rendezvous of that list. -/
def State.gangGone (s : State) (u g : Nat) : State :=
  match s.block? u with
  | none => s
  | some b =>
    let broken := b.arrivals.filter fun p =>
      let l := gangList p.gang
      l.contains g && decide ((arrivalsOf b.arrivals g l).length ≤ (arrivalsOf b.arrivals p.gid l).findIdx fun q => decide (q = p))
    (s.updBlock u fun b => { b with arrivals := b.arrivals.filter fun p => !(broken.contains p) }).faultArrivals u
      (broken.map fun p => (p, gangTrap 0x11 (gangList p.gang) g))

/-- After a group may have left membership: a gathering copy no longer expects it, and gangs that wait for it break. -/
def State.memberLeft (s : State) (u g : Nat) : State :=
  match s.group? u g with
  | some x => if x.attached then s else (s.copyForget u g).gangGone u g
  | none => (s.copyForget u g).gangGone u g

/-- The group has stores in its queue to the header or the image of a tile operand in a buffer: they reach the banks before the tile is read
(R304, R314). -/
def Ctx.tileQueued (x : Ctx) (a : TileArg) : Bool :=
  match a with
  | .reg _ => false
  | .buf p => match p.sp with
    | none => false
    | some sp =>
      let h := x.s.tileHeader x.b x.g false a
      let n := if (x.b.tileFail x.g.bound a h).isNone then hExtent h else 16
      x.g.stq.any fun o => match o.loc with
        | some (.buf u sq off, k) => decide (u = x.c.blk ∧ sq = sp) && meets off k p.addr n
        | _ => false

/-- UNCORRECTABLE for a scalar of the C pair of a product, which member 0 alone reads (R26, R280). -/
def Ctx.accPairBad (x : Ctx) (d : BitVec 5) : Option Trap :=
  ([2 * d.toNat, 2 * d.toNat + 1].find? fun n => x.g.bad.contains (0xC0 + n)).map fun n => badReg (0xC0 + n)

/-- `mma` and `mmaz` (R280, R283). -/
def Ctx.product (x : Ctx) (i : Instr) (z : Bool) (d : BitVec 5) (a b : TileRef) : Res :=
  let aArg := x.g.tileArg a
  let bArg := x.g.tileArg b
  let cpair := x.g.pairVal d.toNat
  let l := gangList x.p.gang
  let first := l.isEmpty || l.head? = some x.c.gid
  let dWait : Wait := .operand [] [2 * d.toNat, 2 * d.toNat + 1] false
  if first && x.g.holds dWait then .wait (x.waitAs dWait)
  else if first && (x.accPairBad d).isSome then .trap ((x.accPairBad d).getD (badReg 0))
  else if x.tilePending aArg then .wait (x.waitTile aArg)
  else if first && x.tilePending bArg then .wait (x.waitTile bArg)
  else if x.tileQueued aArg || (first && (x.tileQueued bArg || x.tileQueued (.buf (pairOf cpair)))) then .wait x.s
  else if l.isEmpty then
    -- solo: every step is made for A, B and C in turn (R279)
    let c := pairOf cpair
    let early : Option Trap :=
      if aArg.bad || bArg.bad || c.bad then some (x.illegalOperand i)
      else (x.b.tileStep1 matSource aArg).orElse fun _ => (x.b.tileStep1 matSource bArg).orElse fun _ =>
        (x.b.tileStep1 matDest (.buf c)).orElse fun _ =>
        (tileStep2 (x.wordVal i) x.g.bound x.act true aArg).orElse fun _ =>
        (tileStep2 (x.wordVal i) x.g.bound x.act true bArg).orElse fun _ =>
        (x.s.tileStep3 x.b x.g false aArg).orElse fun _ => (x.s.tileStep3 x.b x.g false bArg).orElse fun _ =>
        (if z then none else x.s.tileStep3 x.b x.g false (.buf c)).orElse fun _ => x.checkA i aArg
    match early with
    | some t => .trap t
    | none =>
      let as := [(x.s.tileSrc x.b x.g aArg (x.s.tileHeader x.b x.g false aArg), aArg.name)]
      match x.s.finishProduct x.b x.g (x.wordVal i) x.act z as bArg c [x.c.gid] with
      | .error t => .trap t
      | .ok op => match (x.tileBad aArg).orElse fun _ => x.tileBad bArg with
        | some t => .trap t
        | none => .done (x.s.startMat x.c.blk op) []
  else match (x.checkA i aArg).orElse fun _ => x.tileBad aArg with
    | some t => .trap t
    | none =>
      let p : Arrival :=
        { gid := x.c.gid, age := x.c.age, z := z, gang := x.p.gang,
          a := x.s.tileSrc x.b x.g aArg (x.s.tileHeader x.b x.g false aArg), aval := aArg.name, d := d.toNat, cpair := cpair,
          b := b, bpair := match b with | .reg _ => 0 | .buf n => x.g.pairVal n.toNat,
          bregs := if first && (x.b.tileFail x.g.bound bArg (x.s.tileHeader x.b x.g false bArg)).isNone then x.tileWaits bArg else [] }
      match (x.waitAs .gang).arriveGang x.c.blk (x.wordVal i) p with
      | .inl s => .wait s
      | .inr t => .trap t

/-! ## Completion (R283 to R285, R292) -/

/-- The bytes of a source tile in a buffer that `pick` names, taken as they stand now, with which of their words are uncorrectable. -/
def State.takeWords (s : State) (b : Block) (h : Nat) (sp : Space) (off : Nat) (snap : List Byte) (bad : List Nat) (pick : Nat → Bool) :
    List Byte × List Nat :=
  let cur := s.bufRead b sp off (hExtent h)
  (snap.zipIdx.map fun (y, k) => if pick k then nth y cur k else y,
    (bad.filter fun d => !(pick d)) ++ (s.uncorrectableIn b.uid sp off (hExtent h)).filter pick)

/-- The unit takes some words of a source tile at a moment between issue and completion: each 4-byte word stays as the unit last took it,
or is taken as it stands now (R254). A word that an earlier operation has locked is taken when that operation completes, and not before
(R284). -/
def State.tileTake (s : State) (b : Block) (t : TileSrc) : TileSrc :=
  match t with
  | { hdr := _, loc := .bytes _ } => t
  | { hdr := h, loc := .buf sp off rotc snap late bad } =>
    let r := s.takeWords b h sp off snap bad fun k =>
      !(late.any fun r => decide (r.1 ≤ off + k ∧ off + k < r.2)) && bitOf (Config.free s.tick (sp.code * 2 ^ 32 + (off + k) / 4)).toNat 0
    { hdr := h, loc := .buf sp off rotc r.1 late r.2 }

/-- An operation that had locked C bytes has completed: the words of a source that lay there are taken now (R284), and from then on like
every other (R254). -/
def State.tileUnlock (s : State) (b : Block) (l : Nat × Nat) (t : TileSrc) : TileSrc :=
  match t with
  | { hdr := _, loc := .bytes _ } => t
  | { hdr := h, loc := .buf sp off rotc snap late bad } =>
    if late.contains l then
      let r := s.takeWords b h sp off snap bad fun k => decide (l.1 ≤ off + k ∧ off + k < l.2)
      { hdr := h, loc := .buf sp off rotc r.1 (late.erase l) r.2 }
    else t

/-- The image of a source tile as the unit has taken it. -/
def TileSrc.image (t : TileSrc) : List Byte :=
  match t with
  | { hdr := _, loc := .bytes l } => l
  | { hdr := h, loc := .buf _ _ rotc snap _ _ } => unrotate h rotc snap

/-- The source tiles of an operation change. -/
def MatWork.mapSources (f : TileSrc → TileSrc) : MatWork → MatWork
  | .product z as b h => .product z (as.map f) (f b) h
  | .cvtt a h => .cvtt (f a) h
  | .hadq a h seed slot => .hadq (f a) h seed slot
  | .transq a h => .transq (f a) h
  | .tfill v h => .tfill v h

/-- The unit takes words of the sources of the k-th operation of a block. -/
def State.sampleMat (s : State) (u k : Nat) : State :=
  match s.block? u with
  | none => s
  | some b => match nth? b.matops k with
    | none => s
    | some m => s.updBlock u fun b => { b with matops := setNth b.matops k { m with work := m.work.mapSources (s.tileTake b) } }

/-- The tagged address of a word of a source that was uncorrectable when the unit took it (R285). The header has been read at issue; a
chunk that SPR 4 skips is not read (R244). Every other word of the extent counts as read: R242 has every part read whole, and says nothing
of the gaps between the parts (assumption 131). -/
def TileSrc.poison (t : TileSrc) : Option Nat :=
  match t.loc with
  | .bytes _ => none
  | .buf sp off rotc _ _ bad =>
    (bad.find? fun d => decide (16 ≤ d) && (List.range 4).any fun i => !(skipped t.hdr t.image (unrotated t.hdr rotc (d + i)))).map fun d =>
      tagOf sp (Int.ofNat (off + d))

/-- The tagged address of an uncorrectable word of the accumulator that an `mma` reads (R283, R285): its rows are read whole, with their
padding (R242). -/
def State.accPoison (s : State) (b : Block) (m : MatOp) : Option Nat :=
  match m.work, m.dst with
  | .product false _ _ h, .buf sp off _ =>
    ((s.uncorrectableIn b.uid sp off (hExtent h)).find? fun d => decide (16 ≤ d)).map fun d => tagOf sp (Int.ofNat (off + d))
  | _, _ => none

/-- The source tiles of an operation. -/
def MatWork.sources : MatWork → List TileSrc
  | .product _ as b _ => as ++ [b]
  | .cvtt a _ => [a]
  | .hadq a _ _ _ => [a]
  | .transq a _ => [a]
  | .tfill _ _ => []

/-- The result header of an operation (R252, R292 to R297). -/
def MatWork.header : MatWork → Nat
  | .product _ _ _ h => h
  | .cvtt _ h => sealHeader h
  | .hadq _ h _ slot => sealHeader (h ||| 2 ^ 21 ||| slot * 2 ^ 24)
  | .transq _ h => sealHeader h
  | .tfill _ h => sealHeader h

/-- The code of 1.0 as a scale (R297). -/
def oneScale (scl : Nat) : Nat :=
  match scl with | 1 | 3 => 0x7F | 2 => 0x38 | _ => 0x3F800000

/-- The image of a result, from the images of the sources and the destination as it stands. An operation that met an
uncorrectable word writes 0x7FC0_0000, or 0x8000_0000 for i32 (R285); for other formats the spec states no code. -/
def MatWork.image (w : MatWork) (tick : Nat) (bad : Bool) (img : TileSrc → List Byte) (old : List Byte) : List Byte :=
  let h := w.header
  let lost (n k : Nat) : Nat :=
    if hFmt h = 0 then 0x7FC00000 else if hFmt h = 10 then 0x80000000
    else (Config.free tick (2 ^ 40 + n * 65536 + k)).toNat % 2 ^ elemBits (hFmt h)
  let lostScale (n k : Nat) : Nat := (Config.free tick (2 ^ 41 + n * 65536 + k)).toNat % (if hScl h = 4 ∨ hScl h = 5 then 2 ^ 32 else 256)
  let quant (val : Nat → Nat → Val) : List Byte :=
    if bad then tileImage tick h lost lostScale else tileImage tick h (resultCode h val) (fun n k => (scaleFor h val n k).1)
  match w with
  | .product z as b _ =>
    let rows := (List.range (hRows h)).flatMap fun i =>
      let a := nth b as (i / 16)
      let chunk := match pairInfo (hFmt a.hdr) (hFmt b.hdr) with | some (_, c, _) => c | none => 0
      let integer := hFmt h == 10
      let ia := img a
      let ib := img b
      ((List.range 32).flatMap fun j =>
        let c := if z then 0 else imgNat old (16 + i * hPitch h + 4 * j) 4
        leBytes 4 (if bad then lost i j else productElem a.hdr ia b.hdr ib chunk integer (i % 16) j c)) ++
        ((old.drop (16 + i * hPitch h + 128)).take (hPitch h - 128))
    leBytes 16 h ++ rows
  | .cvtt a _ => quant (valAt a.hdr (img a))
  | .hadq a _ seed _ => quant fun n k =>
      let q := k / 32
      nth (Val.fin false (Q.ofInt 0)) (hadamard seed q ((List.range 32).map fun i => valAt a.hdr (img a) n (32 * q + i))) (k % 32)
  | .transq a _ => quant fun n k => valAt a.hdr (img a) k n
  | .tfill v _ => if bad then tileImage tick h lost lostScale
      else tileImage tick h (fun _ _ => v.toNat % 2 ^ elemBits (hFmt h)) (fun _ _ => oneScale (hScl h))

/-- The register writes of an image (R246): lanes 4 to 31 of the header register and the bytes beyond the extent are 0. -/
def imageRegs (reg : Nat) (img : List Byte) : List (Nat × Word) :=
  ((List.range 32).map fun l => (32 * reg + l, if l < 4 then wordOf ((img.drop (4 * l)).take 4) else 0)) ++
    ((List.range (ceilDiv (img.length - 16) 128)).flatMap fun j => (List.range 32).map fun l =>
      (32 * (reg + 1 + j) + l, wordOf ((img.drop (16 + 128 * j + 4 * l)).take 4)))

/-- A register destination is written, and its pending result ends. -/
def Group.writeTile (now id reg : Nat) (img : List Byte) (g : Group) : Group :=
  let mine (p : Pend) : Bool := decide (p.kind = PendKind.matrix) && p.id == id
  if g.pend.any mine then
    Group.wakeOperands now { g.putWords (imageRegs reg img) with pend := g.pend.filter fun p => !(mine p) }
  else g

/-- Wake the splits of a block that wait on the C interlock. -/
def Block.wakeInterlock (now : Nat) (b : Block) : Block :=
  let go (p : Split) : Split := if decide (p.wait = .cInterlock) then p.wake now else p
  { b with groups := b.groups.map fun g => { g with splits := g.splits.map go } }

/-- The k-th operation of a block may complete: no sub-array of the core is waking or gated, and no earlier operation locks bytes
that it writes or reads (R253, R284, R298). -/
def State.matReady (s : State) (b : Block) (k : Nat) (m : MatOp) : Bool :=
  let now := s.cycle b.stk
  (s.core b.stk b.core).subs.all (fun x => !x.2.gated && match x.2.wake with | some t => decide (t ≤ now) | none => true) &&
    (b.matops.take k).all fun e => !(meets e.lo (e.hi - e.lo) m.lo (m.hi - m.lo)) &&
      m.work.sources.all fun t => match t.region with
        | some (sp, o, n) => !(decide (sp = .acc) && meets e.lo (e.hi - e.lo) o n)
        | none => true

/-- Write the result of an operation. -/
def State.writeResult (s : State) (b : Block) (m : MatOp) (img : List Byte) : State :=
  match m.dst with
  | .regs reg =>
    let f := Group.writeTile (s.cycle b.stk) m.id reg img
    s.updBlock b.uid fun b => { b with groups := b.groups.map f, draining := b.draining.map f }
  | .buf sp off rotc => s.bufStore b.uid sp off (rotate m.work.header rotc img) true

/-- An operation of a group, by GID and CTXID, met an uncorrectable word: the next `mwait` of the group that covers the batch reports it, or,
when the group has ended, a KIND 2 record does (R285). -/
def State.poisonFound (s : State) (u : Nat) (b : Block) (batch : Nat) (g : Nat × DWord) (tag : Nat) : State :=
  match (s.group? u g.1).filter fun x => decide (x.ctxid = g.2) with
  | some _ => s.updBlock u fun b => { b with poisonBatches := b.poisonBatches ++ [(batch, g.1, tag)] }
  | none => s.noticeOf b g.1 (b.draining.find? fun x => decide (x.ctxid = g.2)) 0x1C tag

/-- The k-th matrix operation of a block completes (R284). -/
def State.completeMat (s : State) (u k : Nat) : State :=
  match s.block? u with
  | none => s
  | some b => match nth? b.matops k with
    | none => s
    | some m =>
      if s.matReady b k m = false then s
      else
        let h := m.work.header
        let w := m.work.mapSources (s.tileTake b)
        let bad := (w.sources.findSome? TileSrc.poison).orElse fun _ => s.accPoison b m
        let old := match m.dst with
          | .regs _ => []
          | .buf sp off rotc => unrotate h rotc (s.bufRead b sp off (hExtent h))
        let img := w.image s.tick bad.isSome TileSrc.image old
        let s := s.writeResult b m img
        let s := s.updCore b.stk b.core fun c => { c with idle := s.cycle b.stk }
        let taken (b : Block) : List MatOp := (dropNth b.matops k).map fun e => { e with work := e.work.mapSources (s.tileUnlock b (m.lo, m.hi)) }
        let s := (s.updBlock u fun b => Block.wakeInterlock (s.cycle b.stk) { b with matops := taken b }).prune u
        let s := match bad with
          | none => s
          | some tag => (m.gids.zip m.ctxids).foldl (fun (s : State) g => s.poisonFound u b m.batch g tag) s
        (s.settleBatches u).granulesFreed b.stk b.core

/-! ## Producers (R292 to R297) -/

/-- The checks of a producing instruction up to its own: `src` the source, if any, `dst` the template. -/
def Ctx.produceFail (x : Ctx) (i : Instr) (src : Option TileArg) (dst : TileArg) : Option Trap :=
  let all := src.toList ++ [dst]
  let hd := x.s.tileHeader x.b x.g false dst
  if all.any TileArg.bad then some (x.illegalOperand i)
  else (src.bind (x.b.tileStep1 matSource)).orElse fun _ => (x.b.tileStep1 matDest dst).orElse fun _ =>
    (all.findSome? (tileStep2 (x.wordVal i) x.g.bound x.act true)).orElse fun _ =>
    (all.findSome? (x.s.tileStep3 x.b x.g false)).orElse fun _ =>
    if hSpr hd ≠ 0 ∨ hRot hd = true ∨ hSeed hd ≠ 0 then some (tileTrap 0x0E 0x07 dst.name)
    else match src with
      | none => none
      | some a =>
        let ha := x.s.tileHeader x.b x.g false a
        let past := match a, dst with
          | .reg _, .reg _ => overlaps (tileRegs ha a) (tileRegs hd dst)
          | .buf p, .buf q => decide (p.sp = q.sp) && meets p.addr (hExtent ha) q.addr (hExtent hd)
          | _, _ => false
        if past then some (tileTrap 0x0F 0x12 dst.name)
        else if hSpr ha ≠ 0 then some (tileTrap 0x0E 0x07 a.name)
        else none

/-- A producing instruction (R292): its checks, its own check, and the operation. -/
def Ctx.produce (x : Ctx) (i : Instr) (src : Option TileRef) (dst : TileRef) (own : Nat → Nat → Option (Nat × Nat × Bool))
    (work : TileSrc → Nat → MatWork) : Res :=
  let a := src.map x.g.tileArg
  let d := x.g.tileArg dst
  match (a.toList ++ [d]).find? x.tilePending with
  | some t => .wait (x.waitTile t)
  | none => if (a.toList ++ [d]).any x.tileQueued then .wait x.s else match x.produceFail i a d with
    | some t => .trap t
    | none =>
      let hd := x.s.tileHeader x.b x.g false d
      let sa : TileSrc := match a with
        | some y => x.s.tileSrc x.b x.g y (x.s.tileHeader x.b x.g false y)
        | none => { hdr := 0, loc := .bytes [] }
      match own sa.hdr hd with
      | some (cause, reason, atSrc) =>
        .trap (tileTrap cause reason (match a with | some y => if atSrc then y.name else d.name | none => d.name))
      | none => match a.bind x.tileBad with
       | some t => .trap t
       | none =>
        let r := match d with | .buf p => lockRegion p.addr hd | .reg _ => (0, 0)
        let op : MatOp :=
          { id := x.s.tick, batch := 0, gids := [x.c.gid], ctxids := [], work := work sa hd, lo := r.1, hi := r.2,
            dst := match d with | .reg n => .regs n | .buf p => .buf .acc p.addr p.rotc }
        let pend : Pend :=
          { kind := .matrix, vw := [], vregs := tileRegs hd d, sw := [], p6set := 0, p6clr := 0, id := x.s.tick, todo := 1 }
        let s : State := match d with
          | .reg _ => x.s.updCur x.c fun g => { g with pend := g.pend ++ [pend], bad := g.bad.filter fun r => !((tileRegs hd d).contains r) }
          | .buf _ => x.s
        .done (s.startMat x.c.blk op) []

end Sys2Proof.Machine
end

