-- ==== Sys2Proof/Machine/Process.lean ====
section
/-!
DEFINITION. The tables of a process: root entries (R382), layout records (R383 to R386) and the queue translation table (R387).
-/
namespace Sys2Proof.Machine

/-- What a cache of a table gives: the held copy while it is held, else what memory has now. -/
def State.cached (s : State) (pa : Nat) (held : Option Nat) (now : Nat) : Nat :=
  match held with
  | some e => if Config.cacheKeeps s.tick pa then e else now
  | none => now

/-! ## Root entries (R382) -/

/-- PROCROOT of a partition: bits <55:4> of the table's PA. -/
def State.procroot (s : State) (part : Nat) : Nat := field (s.part part).procroot 55 4 * 16

/-- The root entry of an ASID, through the device's cache of root entries. -/
def State.rootEntry (s : State) (part : Nat) (asid : BitVec 16) : Nat × State :=
  let pa := s.procroot part + 16 * asid.toNat
  let mine (r : Nat × BitVec 16 × Nat) : Bool := r.1 == part && decide (r.2.1 = asid)
  let e := s.cached (pa + 1) ((s.rcache.find? mine).map fun r => r.2.2) (s.readNat pa 16)
  (e, { s with rcache := (part, asid, e) :: s.rcache.filter fun r => !(mine r) })

/-- The PA of a process's layout page, if LV is 1. -/
def layoutPage (entry : Nat) : Option Nat := if bitOf entry 64 then some (slice entry 119 76 * 4096) else none

/-- The PA of a process's queue translation table, if QV is 1. -/
def queueTable (entry : Nat) : Option Nat := if bitOf entry 0 then some (slice entry 55 12 * 4096) else none

/-! ## Layout records (R383 to R386) -/

/-- VALID of a layout record. -/
def layoutValid (r : Nat) : Bool := bitOf r 256

/-- A record is accepted (R386). -/
def layoutAccepted (r : Nat) : Bool :=
  slice r 511 258 == 0 && slice r 223 220 == 0 && slice r 63 57 == 0 &&
    decide (1 ≤ slice r 163 160 ∧ slice r 163 160 ≤ 4) && decide (1 ≤ slice r 167 164 ∧ slice r 167 164 ≤ 4) &&
    decide (1 ≤ slice r 175 168) && decide (1 ≤ slice r 183 176) && decide (1 ≤ slice r 79 64) && decide (1 ≤ slice r 95 80) &&
    [0, 1, 2, 3, 4, 5, 6, 7, 10].contains (slice r 219 216) && (!(bitOf r 257) || decide (slice r 219 216 ≤ 2))

/-- The stack of a block under a layout record (R384). -/
def layoutStack (r bx by_ : Nat) : Nat :=
  let tx := bx / slice r 175 168
  let ty := by_ / slice r 183 176
  let k := (ty % slice r 167 164) * slice r 163 160 + tx % slice r 163 160
  slice r (185 + 2 * k) (184 + 2 * k)

/-- A process's layout record as a core sees it; none where the process has no layout page. -/
def State.layoutRecord (s : State) (core part : Nat) (asid : BitVec 16) (slot : Nat) : Option Nat × State :=
  let r := s.rootEntry part asid
  match layoutPage r.1 with
  | none => (none, r.2)
  | some page =>
    let s := r.2
    let pa := page + 64 * slot
    let mine (c : LayoutCopy) : Bool := c.core == core && c.part == part && decide (c.asid = asid) && c.slot == slot
    let rec_ := s.cached (pa + 2) ((s.lcache.find? mine).map fun c => c.record) (s.readNat pa 64)
    (some rec_, { s with lcache := { core := core, part := part, asid := asid, slot := slot, record := rec_ } ::
                           s.lcache.filter fun c => !(mine c) })

/-- Drop every cached copy of a slot (R385, R438): of one process, or of every process. -/
def State.dropLayouts (s : State) (slot : Nat) (own : Option (Nat × BitVec 16)) : State :=
  { s with lcache := s.lcache.filter fun c => !(c.slot == slot && match own with
      | some (part, asid) => c.part == part && decide (c.asid = asid)
      | none => true) }

/-- The Hadamard seed of a slot (R294), if it holds a record with VALID and SEEDV. -/
def State.seedOf (s : State) (b : Block) (l : Launch) (slot : Nat) : Option Word × State :=
  let r := s.layoutRecord (coreKey b.stk b.core) l.part l.asid slot
  ((r.1.filter fun x => layoutValid x && bitOf x 257).map fun x => BitVec.ofNat 32 (slice x 255 224), r.2)

/-! ## Queue translation (R387) -/

/-- The fields of a translation entry. -/
structure QueueEntry where
  rights : Nat
  kind   : Nat
  dep    : Bool
  front  : Bool
  stk    : Nat
  pkg    : Nat
  pq     : Nat
  dtag   : Nat
  deriving DecidableEq, Repr

/-- An entry by its bits; none if it is not valid or a reserved bit is set (R387). -/
def QueueEntry.ofNat (e : Nat) : Option QueueEntry :=
  if bitOf e 0 && decide (slice e 127 50 = 0) then
    some { rights := slice e 4 1, kind := slice e 7 5, dep := bitOf e 8, front := bitOf e 9, stk := slice e 11 10,
           pkg := slice e 21 12, pq := slice e 33 22, dtag := slice e 49 34 }
  else none

/-- The entry of a virtual queue number in a process's table, through the translation cache of a source port. -/
def State.queueEntry (s : State) (port part : Nat) (asid : BitVec 16) (vqn : Nat) : Option QueueEntry × State :=
  let r := s.rootEntry part asid
  match queueTable r.1 with
  | none => (none, r.2)
  | some qtt =>
    let s := r.2
    let pa := qtt + 16 * vqn
    let mine (c : QueueXlate) : Bool := c.port == port && c.part == part && decide (c.asid = asid) && c.vqn == vqn
    let e := s.cached (pa + 3) ((s.qcache.find? mine).map fun c => c.entry) (s.readNat pa 16)
    (QueueEntry.ofNat e, { s with qcache := { port := port, part := part, asid := asid, vqn := vqn, entry := e } ::
                                    s.qcache.filter fun c => !(mine c) })

/-- Drop cached queue translations at every source port (R388). -/
def State.dropQueueXlates (s : State) (p : QueueXlate → Bool) : State :=
  { s with qcache := s.qcache.filter fun c => !(p c) }

end Sys2Proof.Machine
end

