-- ==== Sys2Proof/Machine/MatOps.lean ====
section
/-!
DEFINITION. Row 0xB: products, batches, and moving, building, checking and producing tiles (R277 to R298), with the events by
which a matrix operation completes and a sub-array is gated or has woken (R284, R298).
-/
namespace Sys2Proof.Machine

/-! ## Products (R280 to R283) -/

/-- `mma` (R283). -/
def execMma (d : BitVec 5) (a b : TileRef) (s : State) : Host.Outcome State Fault Refusal :=
  issue (.mma d a b) s fun x => x.product (.mma d a b) false d a b

/-- `mmaz` (R283). -/
def execMmaz (d : BitVec 5) (a b : TileRef) (s : State) : Host.Outcome State Fault Refusal :=
  issue (.mmaz d a b) s fun x => x.product (.mmaz d a b) true d a b

/-! ## Batches (R286, R287, R298) -/

/-- `mfence`: closes the open batch and writes its number (R286). -/
def execMfence (d : BitVec 6) (s : State) : Host.Outcome State Fault Refusal :=
  issue (.mfence d) s fun x =>
    .done ((x.s.updCur x.c fun g => g.setS d.toNat (BitVec.ofNat 64 x.b.mbseq)).closeMatrixBatch x.c.blk) []

/-- A covered operation of a group met an uncorrectable word and its batch has completed (R285). -/
def Block.poisonedBatch (b : Block) (gid n : Nat) : Option (Nat × Nat × Nat) :=
  b.poisonBatches.find? fun e => e.2.1 == gid && decide (n < outstanding b.mbseq e.1) &&
    decide (outstanding b.mbseq b.mbdone < outstanding b.mbseq e.1)

/-- Forget what a group's `mwait` has reported. -/
def Block.forgetPoison (gid n : Nat) (b : Block) : Block :=
  { b with poisonBatches := b.poisonBatches.filter fun e => !(e.2.1 == gid && decide (n < outstanding b.mbseq e.1)) }

/-- `mwait` after its open batch is closed: it goes on, as an acquire (R309), waits, or reports an uncorrectable word. A fault that is not taken
yet, because the group is stopping or its reductions have still to be performed, is kept for the next try. -/
def Ctx.batchWait (x : Ctx) (s : State) (n : Nat) : Res :=
  match s.block? x.c.blk with
  | none => .done s []
  | some b =>
    match b.poisonedBatch x.c.gid n with
    | some e =>
      let t : Trap := { cause := 0x1C, val := e.2.2 }
      if x.g.stopping x.p || s.reductionsWait b x.g then .trap t
      else .jump ((s.updBlock x.c.blk (Block.forgetPoison x.c.gid n)).takeTrap x.c t)
    | none =>
      if outstanding b.mbseq b.mbdone ≤ n then .done (s.hear x.c.blk x.c.gid 0) []
      else .wait (s.updSplit x.c fun p => { p with wait := .batch 1 n })

/-- `mwait`: closes a non-empty open batch and waits until few enough batches are outstanding (R287, R285). -/
def execMwait (a : BitVec 6) (s : State) : Host.Outcome State Fault Refusal :=
  issue (.mwait a) s fun x =>
    let n := (x.rds a).toNat
    x.batchWait (if x.b.mbopen && (x.b.poisonedBatch x.c.gid n).isNone then x.s.closeMatrixBatch x.c.blk else x.s) n

/-- `mwake`: every gated sub-array begins to wake and every idle count restarts (R298). -/
def execMwake (s : State) : Host.Outcome State Fault Refusal :=
  issue .mwake s fun x =>
    .done (x.s.updCore x.b.stk x.b.core fun c => { Core.wakeSubs x.now c with idle := x.now }) []

/-! ## Moving, building and checking tiles (R288 to R291) -/

/-- UNCORRECTABLE for a word of a tile's image in a buffer (R26). -/
def State.imagePoison (s : State) (b : Block) (p : Pair) (h : Nat) : Option Trap :=
  match p.sp with
  | none => none
  | some sp => (s.poisonAt (.buf b.uid sp p.addr) (hExtent h)).map fun d =>
      { cause := 0x1C, val := tagOf sp (Int.ofNat p.addr + d) }

/-- The vector unit may read a tile in a space (R278). -/
def vectorSource : Space → Bool
  | .par => true
  | sp => matSource sp

/-- The checks of `tld` before it reads the header (R279, R288). -/
def Ctx.tldEarly (x : Ctx) (i : Instr) (d : Nat) (p : Pair) : Option Trap :=
  if p.bad then some (x.illegalOperand i)
  else (x.b.tileStep1 vectorSource (.buf p)).orElse fun _ => tileStep2 (x.wordVal i) x.g.bound x.act true (.reg d)

/-- The checks of `tld` on the header (R251, R288): the bound of the registers that the image reaches is the last condition of R245, before
RPITCH. -/
def Ctx.tldFail (x : Ctx) (d : Nat) (p : Pair) : Option Trap :=
  let a : TileArg := .buf p
  let h := x.s.tileHeader x.b x.g true a
  let name := if x.b.tileFits x.g.bound a (hExtent h) then (TileArg.reg d).name else a.name
  (x.s.headerBad x.b x.g a).orElse fun _ =>
    ((headerFail h none fun n => x.b.tileFits x.g.bound a n && decide (lastReg d n < x.g.bound)).map fun y =>
      tileTrap y.1 y.2 (if y = (0x0F, 0x14) then name else a.name)).orElse fun _ =>
    if p.rpitch ≠ hPitch h then some (tileTrap 0x0F 0x10 a.name) else none

/-- `tld`: a headed tile to registers, as a load (R288). A locked header waits before it is read, and a locked image before an uncorrectable
word of it counts (R253, R300). -/
def execTld (d : BitVec 7) (a : BitVec 5) (s : State) : Host.Outcome State Fault Refusal :=
  issue (.tld d a) s fun x =>
    let p := pairOf (x.g.pairVal a.toNat)
    let at_ : Loc := .buf x.c.blk (p.sp.getD .scr) p.addr
    match x.tldEarly (.tld d a) d.toNat p with
    | some t => .trap t
    | none => if x.s.lockedAt 16 at_ then .wait (x.waitAs .cInterlock) else match x.tldFail d.toNat p with
     | some t => .trap t
     | none =>
      let h := x.s.tileHeader x.b x.g true (.buf p)
      let regs := tileRegs h (.reg d.toNat)
      if x.g.pendingOn regs [] false then .wait (x.waitRegs regs)
      else match x.hold (hExtent h) [(0, at_)] with
        | .interlock => .wait (x.waitAs .cInterlock)
        | .stall => .wait (x.stalled x.s)
        | .go => match x.s.imagePoison x.b p h with
          | some t => .trap t
          | none =>
            let r := x.loadBytes (x.s.quantaFirst x.c.blk x.c.gid (hExtent h) [(0, at_)]) (hExtent h) at_
            let pend : Pend :=
              { kind := .load, vw := imageRegs d.toNat (unrotate h p.rotc r.1), vregs := regs, sw := [], p6set := 0, p6clr := 0 }
            .done (r.2.updCur x.c fun g =>
              { g with pend := g.pend ++ [pend], bad := g.bad.filter fun r => !(regs.contains r) }) []

/-- The checks of `tst` (R279, R289): the extent in the allocation is the last condition of R245, before RPITCH. A fault on either names the
pair, not the header register (R251 does not say which; assumption 130). -/
def Ctx.tstFail (x : Ctx) (i : Instr) (p : Pair) (r : Nat) : Option Trap :=
  let a : TileArg := .buf p
  let h := x.s.tileHeader x.b x.g true (.reg r)
  if p.bad then some (x.illegalOperand i)
  else (x.b.tileStep1 matSource a).orElse fun _ => (tileStep2 (x.wordVal i) x.g.bound x.act true (.reg r)).orElse fun _ =>
    (x.s.tileStep3 x.b x.g true (.reg r)).orElse fun _ =>
    if x.b.tileFits x.g.bound a (hExtent h) = false then some (tileTrap 0x0F 0x14 a.name)
    else if p.rpitch ≠ hPitch h then some (tileTrap 0x0F 0x10 a.name)
    else none

/-- `tst`: the tile in registers to a buffer, through the store queue (R289). -/
def execTst (a : BitVec 5) (b : BitVec 7) (s : State) : Host.Outcome State Fault Refusal :=
  issue (.tst a b) s fun x =>
    let p := pairOf (x.g.pairVal a.toNat)
    let r := b.toNat
    if x.tilePending (.reg r) then .wait (x.waitTile (.reg r))
    else match (x.tstFail (.tst a b) p r).orElse fun _ => x.tileBad (.reg r) with
      | some t => .trap t
      | none =>
        let h := x.s.tileHeader x.b x.g true (.reg r)
        let sp := p.sp.getD .scr
        let at_ : Loc := .buf x.c.blk sp p.addr
        if x.s.lockedAt (hExtent h) at_ then .wait (x.waitAs .cInterlock)
        else
          let img := rotate h p.rotc ((List.range (hExtent h)).map (x.g.tileByte r))
          .done ((x.s.quantaFirst x.c.blk x.c.gid (hExtent h) [(0, at_)]).updCur x.c fun g =>
            { g with stq := g.stq ++ storeAll x.s.tick 0 at_ img }) []

/-- `thdr`: a header in lanes 0 to 3 of a register (R290). -/
def execThdr (d : BitVec 7) (a : BitVec 5) (s : State) : Host.Outcome State Fault Refusal :=
  issue (.thdr d a) s fun x =>
    let h := sealHeader (x.g.pairVal a.toNat)
    match (tileStep2 (x.wordVal (.thdr d a)) x.g.bound x.act false (.reg d.toNat)).orElse fun _ =>
        (definedReason h).map fun r => tileTrap 0x0E r (TileArg.reg d.toNat).name with
    | some t => .trap t
    | none =>
      if x.g.pendingOn [d.toNat] [] false then .wait (x.waitRegs [d.toNat])
      else .done (x.s.updCur x.c fun g =>
        { g.putWords (imageRegs d.toNat (leBytes 16 h)) with bad := g.bad.filter fun r => !(r == d.toNat) }) []

/-- What `tchk` reports for a tile whose header it has read (R291): cause and reason, 0 if every step passes. -/
def Ctx.tchkValue (x : Ctx) (a : TileArg) : Nat :=
  match x.b.tileFail x.g.bound a (x.s.tileHeader x.b x.g true a) with
  | some (cause, reason) => cause * 256 + reason
  | none => 0

/-- The faults that `tchk` raises before it reads the header (R279, R291). -/
def Ctx.tchkEarly (x : Ctx) (i : Instr) (a : TileArg) : Option Trap :=
  if a.bad then some (x.illegalOperand i)
  else (x.b.tileStep1 vectorSource a).orElse fun _ => tileStep2 (x.wordVal i) x.g.bound x.act false a

/-- `tchk`: the first failure of the header checks, in a scalar (R291). -/
def execTchk (d : BitVec 6) (a : TileRef) (s : State) : Host.Outcome State Fault Refusal :=
  issue (.tchk d a) s fun x =>
    let t := x.g.tileArg a
    let reg : List Nat := match t with | .reg n => [n] | .buf _ => []
    match x.tchkEarly (.tchk d a) t with
    | some f => .trap f
    | none =>
      if (tileStep2 0 128 x.act true t).isSome then x.scalar d 0x0F15
      else if x.g.pendingOn reg [] false then .wait (x.waitRegs reg)
      else match x.s.headerBad x.b x.g t with
        | some f => .trap f
        | none => x.scalar d (BitVec.ofNat 64 (x.tchkValue t))

/-! ## Producing tiles (R292 to R297) -/

/-- A block scale that R250 lists for a format with block scales. -/
def blockScaled (fmt scl : Nat) : Bool :=
  match fmt with
  | 3 | 4 => [1, 3, 4, 5].contains scl
  | 5 => [1, 2, 3, 4, 5].contains scl
  | _ => false

/-- The shapes of two headers are equal. -/
def sameShape (a b : Nat) : Bool := hRows a == hRows b && hCols a == hCols b && hOrient a == hOrient b

/-- The checks of `cvtt` (R293): cause, reason, and whether TRAPVAL names the source. -/
def cvttFail (ha hd : Nat) : Option (Nat × Nat × Bool) :=
  if !(sameShape ha hd) then some (0x0F, 0x1A, false)
  else if hRot ha then some (0x0E, 0x07, true)
  else if hScl hd ≠ 0 ∧ blockScaled (hFmt hd) (hScl hd) = false then some (0x0E, 0x07, false)
  else none

/-- The checks of `hadq` (R294). -/
def hadqFail (seed : Option Word) (ha hd : Nat) : Option (Nat × Nat × Bool) :=
  if 2 < hFmt ha ∨ hScl ha ≠ 0 ∨ hRot ha = true then some (0x0E, 0x07, true)
  else if !(hScl hd == 1 && [3, 4, 5].contains (hFmt hd) || hScl hd == 2 && hFmt hd == 5) then some (0x0E, 0x07, false)
  else if !(sameShape ha hd) then some (0x0F, 0x1A, false)
  else if hK ha % 32 ≠ 0 then some (0x0F, 0x1B, true)
  else if seed.isNone then some (0x0F, 0x1C, false)
  else none

/-- The checks of `transq` (R296). -/
def transqFail (ha hd : Nat) : Option (Nat × Nat × Bool) :=
  if !([3, 4, 5].contains (hFmt ha) && [1, 2, 3].contains (hScl ha)) || hRot ha then some (0x0E, 0x07, true)
  else if !(hScl hd == 1 && [3, 4, 5].contains (hFmt hd) || hScl hd == 2 && hFmt hd == 5) then some (0x0E, 0x07, false)
  else if !(hRows hd == hCols ha && hCols hd == hRows ha && hOrient hd == hOrient ha) then some (0x0F, 0x1A, false)
  else none

/-- `hadq`: rotate by the seeded Hadamard transform and quantise (R294). -/
def execHadq (d : BitVec 6) (a b : TileRef) (s : State) : Host.Outcome State Fault Refusal :=
  issue (.hadq d a b) s fun x =>
    let slot := field (x.rds d) 5 0
    let r := x.s.seedOf x.b x.l slot
    { x with s := r.2 }.produce (.hadq d a b) (some a) b (hadqFail r.1) fun src h => .hadq src h (r.1.getD 0) slot

/-- `transq`: transpose and requantise (R296). -/
def execTransq (a b : TileRef) (s : State) : Host.Outcome State Fault Refusal :=
  issue (.transq a b) s fun x => x.produce (.transq a b) (some a) b transqFail .transq

/-- `cvtt`: convert to the format of a template (R293). -/
def execCvtt (a b : TileRef) (s : State) : Host.Outcome State Fault Refusal :=
  issue (.cvtt a b) s fun x => x.produce (.cvtt a b) (some a) b cvttFail .cvtt

/-- `tfill`: one code in every element of a template (R297). -/
def execTfill (a : BitVec 6) (b : TileRef) (s : State) : Host.Outcome State Fault Refusal :=
  issue (.tfill a b) s fun x => x.produce (.tfill a b) none b (fun _ _ => none) fun _ h => .tfill (x.rds a) h

/-! ## The matrix unit acts (R284, R298) -/

/-- MATRIX_OP_COMPLETE: operation `ev.k` of block `ev.b` completes (R284). -/
def execMatrixOpComplete (s : State) : Host.Outcome State Fault Refusal := .next (s.completeMat s.ev.b s.ev.k)

/-- A core of a stack has a matrix operation under way. -/
def State.matrixBusy (s : State) (stk core : Nat) : Bool := (s.onCore stk core).any fun b => !b.matops.isEmpty

/-- Gate a sub-array of a core that has been idle for MGATE cycles (R298). -/
def State.gateSub (s : State) (stk core sub : Nat) : State :=
  let c := s.core stk core
  let x := Assoc.getD { gated := false, wake := none } c.subs sub
  if c.mgate ≠ 0 ∧ c.idle + c.mgate.toNat ≤ s.cycle stk ∧ s.matrixBusy stk core = false ∧ x.wake.isNone then
    s.updCore stk core fun c => { c with subs := Assoc.put c.subs sub { gated := true, wake := none } }
  else s

/-- A sub-array has finished waking (R298). -/
def State.wakeDone (s : State) (stk core sub : Nat) : State :=
  match Assoc.get? (s.core stk core).subs sub with
  | some { gated := _, wake := some t } =>
    if t ≤ s.cycle stk then s.updCore stk core fun c => { c with subs := Assoc.put c.subs sub { gated := false, wake := none } } else s
  | _ => s

/-- MATRIX_GATE: sub-array `ev.k` of core `ev.n` of stack `ev.b` is gated (R298). -/
def execMatrixGate (s : State) : Host.Outcome State Fault Refusal := .next (s.gateSub s.ev.b s.ev.n s.ev.k)

/-- MATRIX_WAKE_DONE: sub-array `ev.k` of core `ev.n` of stack `ev.b` finishes waking (R298). -/
def execMatrixWakeDone (s : State) : Host.Outcome State Fault Refusal := .next (s.wakeDone s.ev.b s.ev.n s.ev.k)

end Sys2Proof.Machine
end

