-- ==== Sys2Proof/Machine/CopyOps.lean ====
section
/-!
DEFINITION. Row 0xA: copies and their batches (R271 to R276, R414), the barrier instructions (R406 to R412) and `bsync`, with the
events of the copy engine, of remote arrivals and of continuations (R274, R275, R409, R413).
-/
namespace Sys2Proof.Machine

/-! ## Releases -/

/-- A release of a level: the delayed reductions are performed, and it waits until the group's store queue is empty and what the level asks
for is performed (R306, R321). -/
def Ctx.releaseFirst (x : Ctx) (rel : Nat) (k : State → Res) : Res :=
  if x.g.quantum.any fun q => x.s.blocked x.b q.tgt then .wait x.s
  else
    let s := x.s.drainQuanta x.c.blk x.c.gid
    if x.g.stq.isEmpty && x.s.released x.b x.g rel then k s else .wait s

/-- The issuing block as it stands in a state. -/
def Ctx.blockIn (x : Ctx) (s : State) : Block := (s.block? x.c.blk).getD x.b

/-! ## Copies (R271 to R275) -/

/-- The first value of a list that is not a multiple of 4 raises MISALIGNED. R204 has TRAPVAL hold an address or a target; for a length or an
offset the model writes the value that is misaligned (R271, assumption 132). -/
def misaligned4 (l : List Nat) : Option Trap := (l.find? fun v => v % 4 ≠ 0).map fun v => { cause := 0x07, val := v }

/-- The address of a tagged address, as MISALIGNED gives it (R204); an unknown tag has none, and fails a later check. -/
def plainOf (v : DWord) : Nat := let a := LaneAddr.ofTag 0 v; if a.sp.isNone then v.toNat else a.plain

/-- `copy`: the group's slice for the gathering copy of its block (R271, R272). -/
def execCopy (d : BitVec 6) (a b : BitVec 5) (s : State) : Host.Outcome State Fault Refusal :=
  issue (.copy d a b) s fun x =>
    let dst := x.rdn (2 * a.toNat)
    let src := x.rdn (2 * a.toNat + 1)
    let b0 := x.rdn (2 * b.toNat)
    let b1 := x.rdn (2 * b.toNat + 1)
    let y : Slice :=
      { gid := x.c.gid, age := x.c.age, d := d.toNat, dst := dst, src := src, len := field b0 31 0, boff := field b0 47 32,
        bar := bitOf b0.toNat 48, soff := field b1 31 0, slen := field b1 63 32 }
    if 0xFFFFFFF0 < y.len ∨ field b0 63 49 ≠ 0 then .trap (x.illegalOperand (.copy d a b))
    else match misaligned4 [plainOf dst, plainOf src, y.len, y.soff, y.slen] with
      | some t => .trap t
      | none =>
        if !x.g.attached then .trap { cause := 0x20, val := 0xFFFFFFFF }
        else x.releaseFirst 1 fun s => Ctx.supply { x with s := s } y

/-- A cluster mask names only clusters of the issuing partition (R275). -/
def Ctx.maskAllowed (x : Ctx) (m : Nat) : Bool :=
  (List.range 24).all fun k => !(bitOf m k) || k == x.b.core / 8 || Config.inPartition x.l.part x.b.stk k

/-- The receivers' space of a `copym` (R275). -/
def multicastSpace : Space → Bool
  | .scr | .wgt | .act => true
  | _ => false

/-- The destination side of a `copym` under R224, with the issuing block's own allocation (R275). -/
def State.multicastRange (s : State) (b : Block) (v : DWord) (n : Nat) : List EngineFail :=
  let a := LaneAddr.ofTag 0 v
  match a.sp with
  | some sp => if multicastSpace sp then (s.engineRange b v n true).2.1 else [{ stage := 1, tag := a.tag, cause := 0x09, val := a.tag }]
  | none => [{ stage := 1, tag := a.tag, cause := 0x09, val := a.tag }]

/-- A checked `copym` joins the open batch (R275, R414). -/
def Ctx.startMulticast (x : Ctx) (s : State) (dst src : DWord) (len mask rank : Nat) (bar : Option Nat) : Res :=
  let r := s.engineRange x.b src len false
  if walkWaits r.2.1 then .wait x.s else
  match firstFail (r.2.1 ++ s.multicastRange x.b dst len) with
  | some t => .trap t
  | none =>
    let target := LaneAddr.ofTag 0 dst
    let op : CopyOp :=
      { seq := r.2.2.nextUid, batch := x.b.cbseq, srcs := r.1.map fun p => (p.2.2, p.2.1, []), dsts := [], bar := bar,
        clusters := (List.range 24).filter fun k => bitOf mask k, rank := rank, sp := target.sp.getD .scr, off := target.addr.toNat, lands := [] }
    .done ({ r.2.2 with nextUid := r.2.2.nextUid + 1 }.updBlock x.c.blk fun b =>
      { b with copies := if len = 0 then b.copies else b.copies ++ [op], cbopen := true }) []

/-- Write the batch number that a `copym` returns. -/
def Res.withScalar (c : Cur) (d : BitVec 6) (v : Nat) : Res → Res
  | .done s lat => .done (s.updCur c fun g => g.setS d.toNat (BitVec.ofNat 64 v)) lat
  | r => r

/-- `copym`: a multicast to the receivers of the named clusters (R271, R275). -/
def execCopym (d : BitVec 6) (a b : BitVec 5) (s : State) : Host.Outcome State Fault Refusal :=
  issue (.copym d a b) s fun x =>
    let dst := x.rdn (2 * a.toNat)
    let src := x.rdn (2 * a.toNat + 1)
    let b0 := x.rdn (2 * b.toNat)
    let b1 := x.rdn (2 * b.toNat + 1)
    let len := field b0 31 0
    let mask := field b1 23 0
    let bar := if bitOf b0.toNat 48 then some (16 * field b0 47 32) else none
    if 0xFFFFFFF0 < len ∨ field b0 63 49 ≠ 0 ∨ field b1 31 27 ≠ 0 ∨ field b1 63 32 ≠ 0 then .trap (x.illegalOperand (.copym d a b))
    else match misaligned4 [plainOf dst, plainOf src, len] with
      | some t => .trap t
      | none =>
        if x.maskAllowed mask = false then .trap { cause := 0x18, val := mask }
        else Res.withScalar x.c d x.b.cbseq <|
          if mask = 0 then .done (x.s.updBlock x.c.blk fun b => { b with cbopen := true }) []
          else x.releaseFirst 1 fun s => x.startMulticast s dst src len mask (field b1 26 24) bar

/-! ## Copy batches (R414) -/

/-- `bclose`: closes the open batch and writes its number. -/
def execBclose (d : BitVec 6) (s : State) : Host.Outcome State Fault Refusal :=
  issue (.bclose d) s fun x =>
    .done ((x.s.updCur x.c fun g => g.setS d.toNat (BitVec.ofNat 64 x.b.cbseq)).closeCopyBatch x.c.blk) []

/-- `bwait`: closes a non-empty open batch and waits until few enough batches are outstanding; its return is an acquire (R309). -/
def execBwait (a : BitVec 6) (s : State) : Host.Outcome State Fault Refusal :=
  issue (.bwait a) s fun x =>
    let n := (x.rds a).toNat
    let s := if x.b.cbopen then x.s.closeCopyBatch x.c.blk else x.s
    let b := x.blockIn s
    if outstanding b.cbseq b.cbdone ≤ n then .done (s.hear x.c.blk x.c.gid 0) [] else .wait (s.updSplit x.c fun p => { p with wait := .batch 0 n })

/-! ## Barrier addresses (R407) -/

/-- The checks of a barrier address, and the block and S offset it names. -/
inductive BarAt where
  | trap (t : Trap)
  | wait (s : State)
  | ok (blk off : Nat)
  deriving DecidableEq, Repr

/-- The saved block of the cluster launch that a rank names (R426). -/
def State.savedMate (s : State) (b : Block) (rank : Nat) : Option Block :=
  let clus := (s.launchOf b).clus
  if clus ≤ 1 ∨ (s.peer b rank).isSome = true then none
  else s.blocks.find? fun x => decide (x.place ≠ .resident) && x.launch == b.launch && decide (x.lin / clus = b.lin / clus) && x.rank == rank

/-- A `remarr` names a barrier of a saved block (R426): the block, if the address is aligned. -/
def Ctx.savedBar (x : Ctx) (v : DWord) : Option (Block × Nat) :=
  let a := LaneAddr.ofTag 0 v
  if a.sp = some .clu ∧ a.addr % 16 = 0 then
    (x.s.savedMate x.b (a.addr.toNat / 2 ^ 18)).map fun y => (y, a.addr.toNat % 2 ^ 18)
  else none

/-- A barrier address in `scr`, or also in `clu` for `remarr`, where a saved block takes the arrival in its saved image (R426). -/
def Ctx.barAt (x : Ctx) (clu : Bool) (v : DWord) : BarAt :=
  match (if clu then x.savedBar v else none) with
  | some (y, off) => if off + 16 ≤ y.sSize then .ok y.uid off else .trap { cause := 0x08, val := (LaneAddr.ofTag 0 v).tag }
  | none => match x.accessTag kindRW 16 (fun sp => decide (sp = .scr) || clu && decide (sp = .clu)) v with
    | .trap t => .trap t
    | .wait s => .wait s
    | .ok ((_, .buf u _ off) :: _) => .ok u off
    | .ok _ => .wait x.s

/-- A barrier instruction on a word of the own block: its operand is legal, its address passes, and no own store, delayed
reduction or `remarr` on the word is ahead of it (R409). -/
def Ctx.onBarrier (x : Ctx) (i : Instr) (legal : Bool) (v : DWord) (k : Nat → State → Res) : Res :=
  if !legal then .trap (x.illegalOperand i)
  else match x.barAt false v with
    | .trap t => .trap t
    | .wait s => .wait s
    | .ok _ off =>
      let at_ : Loc := .buf x.c.blk .scr off
      if x.g.queuedAt (fun _ => true) 16 at_ || x.s.remoteAhead x.c.blk x.c.gid x.c.blk then .wait x.s else k off (x.s.quantaFirst x.c.blk x.c.gid 16 [(0, at_)])

/-- BAR-STATE, with the tagged address. -/
def barState (off : Nat) : Trap := { cause := 0x13, val := taggedScr off }

/-- Groups of the block that are attached: NGRP<13:8>. -/
def Block.attachedCount (b : Block) : Nat := (b.groups.filter (·.attached)).length

/-! ## barinit, bararr, barexp, remarr (R408, R409) -/

/-- The word that `barinit` writes (R408). -/
def initBar (v attached : Nat) : Bar :=
  let mb := bitOf v 16
  let n := if mb then attached else slice v 15 0
  { ph := 0, ov := false, ca := false, mb := mb, r7 := 0, exp := n, pa := n, ps := 0, cpc := 0, cln := 0, r120 := 0, arr := 0 }

/-- `barinit`: writes the barrier word in one event (R408). -/
def execBarinit (a b : BitVec 6) (s : State) : Host.Outcome State Fault Refusal :=
  issue (.barinit a b) s fun x =>
    let v := (x.rds b).toNat
    x.onBarrier (.barinit a b) (v / 2 ^ 17 == 0) (x.rds a) fun off s =>
      if bitOf v 16 = true ∧ (off % 32 ≠ 0 ∨ 256 ≤ off ∨ x.b.sSize < off + 32) then .trap (barState off)
      else .done (s.barEvent x.c.blk off (fun _ => initBar v x.b.attachedCount) fun _ => false) []

/-- The issuing group as a member of a barrier (R409). -/
def Ctx.member (x : Ctx) (t : Bar) : Option Nat := if t.mb && x.g.attached then some x.c.gid else none

/-- BAR-STATE of an arrival (R409): the sectors overflow, or a member arrives twice. -/
def arrivalFails (t : Bar) (n : Nat) (member : Option Nat) : Bool :=
  decide (2 ^ 32 ≤ t.ps + n) || match member with | some g => t.arr.testBit g | none => false

/-- `bararr`: adds sectors and arrives, as a release (R409). -/
def execBararr (d a b : BitVec 6) (s : State) : Host.Outcome State Fault Refusal :=
  issue (.bararr d a b) s fun x =>
    let n := (x.rds b).toNat
    x.onBarrier (.bararr d a b) (n / 2 ^ 32 == 0) (x.rds a) fun off _ => x.releaseFirst 0 fun s =>
      let t := s.readBar (x.blockIn s) off
      if arrivalFails t n (x.member t) then .trap (barState off)
      else .done ((s.barEvent x.c.blk off (fun t => Bar.arrive { t with ps := t.ps + n } (x.member t)) fun t => t.pa == 0).updCur x.c
        fun g => g.setS d.toNat (BitVec.ofNat 64 t.ph)) []

/-- `barexp`: adds expected sectors (R409). -/
def execBarexp (a b : BitVec 6) (s : State) : Host.Outcome State Fault Refusal :=
  issue (.barexp a b) s fun x =>
    let n := (x.rds b).toNat
    x.onBarrier (.barexp a b) (n / 2 ^ 32 == 0) (x.rds a) fun off s =>
      if arrivalFails (s.readBar (x.blockIn s) off) n none then .trap (barState off)
      else .done (s.barEvent x.c.blk off (fun t => { t with ps := t.ps + n }) fun _ => false) []

/-- `remarr`: sends a non-member arrival to a barrier, possibly of another core, as a release (R409). -/
def execRemarr (a b : BitVec 6) (s : State) : Host.Outcome State Fault Refusal :=
  issue (.remarr a b) s fun x =>
    let n := (x.rds b).toNat
    if n / 2 ^ 32 ≠ 0 then .trap (x.illegalOperand (.remarr a b))
    else match x.barAt true (x.rds a) with
      | .trap t => .trap t
      | .wait s => .wait s
      | .ok u off => x.releaseFirst 1 fun s =>
        let t := s.readBar ((s.block? u).getD x.b) off
        if arrivalFails t n none then .trap { cause := 0x13, val := (x.rds a).toNat }
        else .done { s with remote := s.remote ++ [{ src := (x.c.blk, x.c.gid), blk := u, off := off, n := n }] } []

/-! ## barwait, bartry (R403, R410) -/

/-- How a wait on a phase stands (R403). -/
inductive PhaseTest where
  | pending | complete | state
  deriving DecidableEq, Repr

/-- The test of R403. -/
def phaseTest (ph p : Nat) : PhaseTest :=
  let d := (ph + 16 - p) % 16
  if d = 0 then .pending else if d ≤ 8 then .complete else .state

/-- The scope at which a return from a completed phase of a barrier acquires (R311): that of a cluster where an arrival of another core counted
in the phase. -/
def Block.phaseScope (b : Block) (off p : Nat) : Nat := if b.far.contains (off, p) then 1 else 0

/-- `barwait`: waits on a phase; a return is an acquire (R410, R311). -/
def execBarwait (a b : BitVec 6) (s : State) : Host.Outcome State Fault Refusal :=
  issue (.barwait a b) s fun x =>
    let p := (x.rds b).toNat
    x.onBarrier (.barwait a b) (p / 16 == 0) (x.rds a) fun off s =>
      match phaseTest (s.readBar (x.blockIn s) off).ph p with
      | .state => .trap (barState off)
      | .complete => .done ((s.barEvent x.c.blk off id fun _ => false).acquire x.c.blk x.c.gid (x.b.phaseScope off p)) []
      | .pending => .wait ((s.updSplit x.c fun q => { q with wait := .barwait off p }).barEvent x.c.blk off id fun _ => false)

/-- `bartry`: tests a phase; 1 is an acquire (R410, R311). -/
def execBartry (d a b : BitVec 6) (s : State) : Host.Outcome State Fault Refusal :=
  issue (.bartry d a b) s fun x =>
    let p := (x.rds b).toNat
    x.onBarrier (.bartry d a b) (p / 16 == 0) (x.rds a) fun off s =>
      let t := s.barEvent x.c.blk off id fun _ => false
      let out (t : State) (v : DWord) : Res := .done (t.updCur x.c fun g => g.setS d.toNat v) []
      match phaseTest (s.readBar (x.blockIn s) off).ph p with
      | .state => .trap (barState off)
      | .complete => out (t.acquire x.c.blk x.c.gid (x.b.phaseScope off p)) 1
      | .pending => out t 0

/-! ## barcont (R412) -/

/-- The operand checks of `barcont`, before the address. -/
def Ctx.contFail (x : Ctx) (i : Instr) (v : Nat) : Option Trap :=
  let entry := slice v 56 0
  let cln := slice v 62 57
  if bitOf v 63 = true ∨ cln = 0 ∨ 32 < cln then some (x.illegalOperand i)
  else if entry % 4 ≠ 0 then some { cause := 0x07, val := entry }
  else if x.l.inText entry then none else some (x.illegalOperand i)

/-- The word with a continuation armed (R412). -/
def Bar.arm (cpc cln : Nat) (t : Bar) : Bar := { t with ca := true, cpc := cpc, cln := cln }

/-- `barcont`: arms a continuation, as a release, and ends the guarded lanes (R412, R311). With the guard in no active lane it does nothing
after the checks of its operands and address; BAR-STATE belongs to the arming, which then does not take place (assumption 133). -/
def execBarcont (a b : BitVec 6) (s : State) : Host.Outcome State Fault Refusal :=
  issue (.barcont a b) s fun x =>
    let v := (x.rds b).toNat
    match x.contFail (.barcont a b) v with
    | some t => .trap t
    | none => x.onBarrier (.barcont a b) true (x.rds a) fun off _ =>
      if x.act = 0 then x.nothing
      else if x.lastWaits then .wait x.s
      else x.releaseFirst 0 fun s =>
        let t := s.readBar (x.blockIn s) off
        let cpc := slice v 31 2
        let cln := slice v 62 57
        if t.ca = true ∧ (t.cpc ≠ cpc ∨ t.cln ≠ cln) then .trap (barState off)
        else
          let s := (s.barEvent x.c.blk off (Bar.arm cpc cln) fun _ => false).updSplit x.c (Split.finish x.now)
          .jump ((s.exitLanes x.c x.act).memberLeft x.c.blk x.c.gid)

/-! ## bsync (R411) -/

/-- Wait at the block barrier for its pending phase, after a change to it. -/
def Ctx.atBlockBarrier (x : Ctx) (s : State) (f : Bar → Bar) : Res :=
  let ph := (x.blockIn s).barView.ph
  .wait ((s.updSplit x.c fun p => { p with wait := .bsync ph }).blockBarEvent x.c.blk f)

/-- `bsync`: an arrival of the group at the block barrier and the wait for its phase (R411). A detached group only waits. A split
restored in its wait does not arrive again: it waits on the phase of before, which may have completed (R403). A second arrival of a member
raises BAR-STATE (R409); the block barrier has no address, so TRAPVAL is a free value. -/
def execBsync (s : State) : Host.Outcome State Fault Refusal :=
  issue .bsync s fun x => x.releaseFirst 0 fun s =>
    if s.midWrite x.c.blk then .wait s else
    let s := s.flushPublisher x.c.blk true false
    let noAddress : Trap := { cause := 0x13, val := (Config.free x.s.tick 64).toNat }
    let arrived := (x.blockIn s).barView.arr.testBit x.c.gid
    match x.p.again with
    | some ph => (match phaseTest (x.blockIn s).barView.ph ph with
      | .pending => x.atBlockBarrier s id
      | .complete => .done (s.hear x.c.blk x.c.gid 0) []
      | .state => .trap noAddress)
    | none =>
      if !x.g.attached then x.atBlockBarrier s id
      else if arrived then .trap noAddress
      else x.atBlockBarrier s (Bar.arrive · (some x.c.gid))

/-! ## The engines act (R274, R275, R409, R413) -/

/-- The phase of a barrier counts an arrival of another core; what lies 8 phases back is forgotten (R311, R403). -/
def Block.hearFar (off ph : Nat) (b : Block) : Block :=
  { b with far := (off, ph) :: b.far.filter fun e => !(e.1 == off && (decide (8 ≤ (ph + 16 - e.2) % 16) || e.2 == ph)) }

/-- A remote arrival is performed at the S banks of its block, after every earlier one of its group to the same block (R409). -/
def State.performRemote (s : State) (k : Nat) : State :=
  match nth? s.remote k with
  | none => s
  | some r =>
    if (s.remote.take k).any fun e => e.src == r.src && e.blk == r.blk then s
    else
      let free := (Config.free s.tick 65).toNat % 2 ^ 32
      let add (t : Bar) : Bar := { t with ps := if t.ps + r.n < 2 ^ 32 then t.ps + r.n else free }
      let s : State := { s with remote := dropNth s.remote k }
      let s := match s.block? r.blk with
        | some q =>
          if r.src.1 = r.blk ∨ ((s.block? r.src.1).elim false fun p => decide (p.core = q.core)) = true then s
          else s.updBlock r.blk (Block.hearFar r.off (s.readBar q r.off).ph)
        | none => s
      s.barEvent r.blk r.off (fun t => (add t).arrive none) fun t => t.pa == 0

/-- REMOTE_ARRIVAL: the `ev.k`-th remote arrival is performed (R409). -/
def execRemoteArrival (s : State) : Host.Outcome State Fault Refusal := .next (s.performRemote s.ev.k)

/-- COPY_SECTOR_LAND: copy `ev.k` of block `ev.b` reads its source piece `ev.n` (`ev.lo`), or lands its destination sector `ev.n` (R274). -/
def execCopySectorLand (s : State) : Host.Outcome State Fault Refusal :=
  .next (if s.ev.lo then s.copyRead s.ev.b s.ev.k s.ev.n else s.copyLand s.ev.b s.ev.k s.ev.n)

/-- COPYM_DELIVERY: copy `ev.k` of block `ev.b` reaches its next cluster (`ev.lo`), or lands sector `ev.n` in a receiver (R275). -/
def execCopymDelivery (s : State) : Host.Outcome State Fault Refusal :=
  .next (if s.ev.lo then s.reachCluster s.ev.b s.ev.k else s.landMulticast s.ev.b s.ev.k s.ev.n)

/-- Start a due continuation of a block as a new group, when its core has a group slot and registers for it; its first instruction is an acquire
(R413, R311). -/
def State.spawn (s : State) (u k : Nat) : State :=
  match s.block? u with
  | none => s
  | some b => match nth? b.conts k, b.freeGids with
    | some c, gid :: _ =>
      if b.place = .resident ∧ b.preempt = none ∧ s.freeSlots b.stk b.core ≠ [] ∧ (s.core b.stk b.core).racq = [] ∧
          ceilDiv b.baseN 8 ≤ s.freeGranules b.stk b.core then
        let entry := (s.launchOf b).entry / 2 ^ 32 * 2 ^ 32 + 4 * c.cpc
        let s := s.updBlock u fun b => { b with conts := dropNth b.conts k }
        (s.addGroup b gid c.cln entry
          [(1, BitVec.ofNat 64 c.phase), (2, 0xFFFFFFFFFFFFFFFE), (3, BitVec.ofNat 64 (taggedScr c.boff))]).acquire u gid (b.phaseScope c.boff c.phase)
      else s
    | _, _ => s

/-- CONTINUATION_SPAWN: due continuation `ev.k` of block `ev.b` starts (R413). -/
def execContinuationSpawn (s : State) : Host.Outcome State Fault Refusal := .next (s.spawn s.ev.b s.ev.k)

end Sys2Proof.Machine
end

