-- ==== Sys2Proof/Machine/Place.lean ====
section
/-!
DEFINITION. What a launch asks of a core, and which waiting block may be placed or restored on which core (R31, R36, R37, R64, R106).
-/
namespace Sys2Proof.Machine

/-! ## Allocations of a launch record (R348) -/

/-- ETOT in µJ. -/
def Launch.etot (l : Launch) : Nat := l.fld 63 32
/-- NGRP. -/
def Launch.ngrp (l : Launch) : Nat := l.fld 421 416
/-- LANES. -/
def Launch.nln (l : Launch) : Nat := l.fld 427 422
/-- REGS. -/
def Launch.regs (l : Launch) : Nat := l.fld 435 428
/-- Granules that the groups of one block need. -/
def Launch.granules (l : Launch) : Nat := l.ngrp * ceilDiv l.regs 8
/-- The S allocation in bytes. -/
def Launch.sBytes (l : Launch) : Nat := l.fld 450 440 * 256
/-- The W allocation. -/
def Launch.wBytes (l : Launch) : Nat := l.fld 461 451 * 256
/-- The X allocation. -/
def Launch.xBytes (l : Launch) : Nat := l.fld 472 462 * 256
/-- The C allocation. -/
def Launch.cBytes (l : Launch) : Nat := l.fld 483 473 * 256
/-- Parameter bytes. -/
def Launch.parBytes (l : Launch) : Nat := l.fld 494 484 * 4

/-! ## Entries and watches of a core (R389) -/

/-- Physical entries in use on a core (R389). -/
def State.subsOn (s : State) (stk core : Nat) : Nat :=
  ((s.onCore stk core).map fun b => (b.subs.filter fun e => e.2.st != 0).length).sum

/-- Watches at a publisher's core (R389): the active and parked entries that publishers on it feed. -/
def State.watchesOn (s : State) (stk core : Nat) : Nat :=
  ((s.onCore stk core).map fun p => (s.blocks.map fun b => (b.subs.filter fun e => s.feeds p b e.2).length).sum).sum

/-! ## Placement (R31, R36, R37) -/

/-- Bytes of a buffer in use on a core. -/
def State.bufUse (s : State) (stk core : Nat) (f : Block → Nat) : Nat := ((s.onCore stk core).map f).sum

/-- A core can hold a number of groups and granules with S, W, X and C allocations at once (R31); a waiting `racq` comes first (R106). -/
def State.hasRoom (s : State) (stk core ng gr sz wz xz cz : Nat) : Bool :=
  decide (core < 192) && !(s.stack stk).dieReset && (s.core stk core).racq.isEmpty && decide (ng ≤ (s.freeSlots stk core).length) &&
    decide (gr ≤ s.freeGranules stk core) && decide (s.bufUse stk core (·.sSize) + sz ≤ 196608) &&
    decide (s.bufUse stk core (·.wSize) + wz ≤ 262144) && decide (s.bufUse stk core (·.xSize) + xz ≤ 131072) &&
    decide (s.bufUse stk core (·.cSize) + cz ≤ 262144)

/-- A core can hold an unstarted block of a launch; a due continuation waits ahead of it (R66). -/
def State.fitsNew (s : State) (l : Launch) (stk core : Nat) : Bool :=
  s.hasRoom stk core l.ngrp l.granules l.sBytes l.wBytes l.xBytes l.cBytes && (s.onCore stk core).all fun b => b.conts.isEmpty

/-- Watches that a publisher would need at a core (R389, R393). -/
def State.watchesFor (s : State) (b : Block) : Nat :=
  (s.blocks.map fun q => (q.subs.filter fun e => q.launch == b.launch && e.2.pblk == b.lin && (e.2.st == 1 || e.2.st == 2)).length).sum

/-- A core can hold a saved block: its groups with their extended granules, its allocations, its entries and watches (R107, R393). -/
def State.fitsSaved (s : State) (b : Block) (stk core : Nat) : Bool :=
  s.hasRoom stk core b.groups.length (b.groups.map Group.granules).sum b.sSize b.wSize b.xSize b.cSize &&
    decide (s.subsOn stk core + (b.subs.filter fun e => e.2.st != 0).length ≤ 16) && decide (s.watchesOn stk core + s.watchesFor b ≤ 16)

/-- What a distributor places at once: a block or a cluster launch, unstarted or saved (R37, R64). -/
structure Work where
  launch : Nat
  prio   : Nat
  saved  : Bool
  order  : Nat
  lin    : Nat
  size   : Nat
  clus   : Option Nat
  deriving DecidableEq, Repr

/-- The order of R36 and R64: priority, saved before unstarted, admission, linear index. -/
def Work.key (w : Work) : Nat := (((7 - w.prio) * 2 + b2n (!w.saved)) * 2 ^ 64 + w.order) * 2 ^ 96 + w.lin

/-- The cluster launch of a linear index. -/
def Launch.clusterOf (l : Launch) (lin : Nat) : Nat := lin / max 1 l.clus

/-- The unstarted work of a stack. -/
def State.newWork (s : State) (stk : Nat) : List Work :=
  s.launches.flatMap fun l =>
    let mine := l.waiting.filter fun u => u.stk == stk
    (mine.filter fun u => u.lin % max 1 l.clus == 0).map fun u =>
      { launch := l.uid, prio := l.prio, saved := false, order := l.start, lin := u.lin,
        size := (mine.filter fun v => l.clusterOf v.lin == l.clusterOf u.lin).length, clus := u.clus }

/-- The block is saved and its context has not been found invalid (R64, R217). -/
def Block.saved (b : Block) : Bool := match b.place with | .saved _ size => size != 0 | .resident => false

/-- The saved blocks of a cluster launch. -/
def State.savedOf (s : State) (launch c : Nat) : List Block :=
  s.blocks.filter fun b => b.saved && !b.ending && b.launch == launch && (s.launchOf b).clusterOf b.lin == c

/-- The saved work of a stack that is not held. -/
def State.savedWork (s : State) (stk : Nat) : List Work :=
  s.blocks.filterMap fun b =>
    let l := s.launchOf b
    let mates := s.savedOf b.launch (l.clusterOf b.lin)
    if b.saved = true ∧ b.stk = stk ∧ b.held = false ∧ b.ending = false ∧ (mates.all fun q => decide (b.lin ≤ q.lin)) = true then
      some { launch := l.uid, prio := l.prio, saved := true, order := l.start, lin := b.lin, size := mates.length, clus := none }
    else none

/-- The work of a stack that may start. -/
def State.workOn (s : State) (stk : Nat) : List Work :=
  s.savedWork stk ++ (s.newWork stk).filter fun w => match s.launch? w.launch with | some l => !l.held | none => false

/-- Distinct cores of a list for a list of blocks. -/
def State.matchCores (s : State) (stk : Nat) : List Block → List Nat → Bool
  | [], _ => true
  | b :: r, cores => cores.any fun c => s.fitsSaved b stk c && s.matchCores stk r (cores.filter fun x => x != c)

/-- Work fits on the cores of one cluster. -/
def State.fitsCluster (s : State) (stk : Nat) (w : Work) (c : Nat) : Bool :=
  let cores := (List.range 8).map fun k => 8 * c + k
  match s.launch? w.launch with
  | none => false
  | some l =>
    if w.saved then s.matchCores stk (s.savedOf w.launch (l.clusterOf w.lin)) cores
    else decide (w.size ≤ (cores.filter fun k => s.fitsNew l stk k).length)

/-- Work is a cluster launch: its grid has CLUS > 1, also where the last one holds a single block (R37). -/
def State.isCluster (s : State) (w : Work) : Bool := match s.launch? w.launch with | some l => decide (1 < l.clus) | none => false

/-- A cluster launch at the head of a cluster distributor holds back later work on its cluster (R37). -/
def State.heldBack (s : State) (stk : Nat) (w : Work) (c : Nat) : Bool :=
  match minBy? Work.key ((s.workOn stk).filter fun x => x.clus == some c) with
  | some h => s.isCluster h && decide (h.key < w.key)
  | none => false

/-- Work may start on a cluster of its distributor: it fits there, and no cluster launch holds it back (R36, R37). -/
def State.fitsOn (s : State) (stk : Nat) (w : Work) (c : Nat) : Bool :=
  (w.clus.isNone || w.clus == some c) && s.fitsCluster stk w c && !(s.heldBack stk w c)

/-- Work may start somewhere at its distributor. -/
def State.fitsAnywhere (s : State) (stk : Nat) (w : Work) : Bool := (List.range 24).any fun c => s.fitsOn stk w c

/-- Granules that one block of some work takes on a core that can hold it; none where no block of it can start there. -/
def State.wants (s : State) (stk core : Nat) (w : Work) : Option Nat :=
  match s.launch? w.launch with
  | none => none
  | some l =>
    if s.fitsOn stk w (core / 8) = false then none
    else if w.saved then ((s.savedOf w.launch (l.clusterOf w.lin)).find? fun b => s.fitsSaved b stk core).map fun b =>
      (b.groups.map Group.granules).sum
    else if s.fitsNew l stk core then some l.granules else none

/-- Granules of a core that are left for `grow`: blocks that wait and fit are placed or restored first (R106). -/
def State.granulesForGrow (s : State) (stk core : Nat) : Nat :=
  (sortBy Work.key (s.workOn stk)).foldl (fun free w => match s.wants stk core w with
    | some n => if n ≤ free then free - n else free
    | none => free) (s.freeGranules stk core)

end Sys2Proof.Machine
end

