-- ==== Sys2Proof/Machine/ControlOps.lean ====
section
/-!
DEFINITION. Rows 0x0 and 0x7: branches, traps, the state of a split, and the controls of group and block (R181 to R195).
-/
namespace Sys2Proof.Machine

/-! ## Branches (R183 to R185) -/

/-- The address of an instruction and its offset in words (R70). -/
def Ctx.target (x : Ctx) (o : Int) : BitVec 57 := x.p.pc + BitVec.ofInt 57 (4 * o)

/-- The whole split goes on at an address. -/
def Ctx.goto (x : Ctx) (pc : BitVec 57) : Res := .jump (x.s.updSplit x.c fun p => { p with pc := pc, readyAt := x.now })

/-- The split divides: the first part keeps it (R39, R40). -/
def Ctx.divideTo (x : Ctx) (parts : List (BitVec 57 × LaneMask)) : Res :=
  match parts with
  | [] => x.nothing
  | [y] => x.goto y.1
  | _ => .jump (x.s.updCur x.c fun g => g.divide x.now x.c.age parts)

/-- `bra`: the guarded lanes branch; a mixed guard divides the split (R183, R39). -/
def execBra (o : BitVec 24) (s : State) : Host.Outcome State Fault Refusal :=
  issue (.bra o) s fun x =>
    let t := x.target o.toInt
    if x.act = x.active then x.goto t
    else if x.act = 0 ∨ t = x.p.pc + 4 then x.nothing
    else x.divideTo [(x.p.pc + 4, x.active &&& ~~~x.act), (t, x.act)]

/-- `brau`: branches when the guard holds in every active lane (R183). -/
def execBrau (o : BitVec 24) (s : State) : Host.Outcome State Fault Refusal :=
  issue (.brau o) s fun x => if x.act = x.active then x.goto (x.target o.toInt) else x.nothing

/-- `brany`: branches when the guard holds in some active lane (R183). -/
def execBrany (o : BitVec 24) (s : State) : Host.Outcome State Fault Refusal :=
  issue (.brany o) s fun x => if x.act ≠ 0 then x.goto (x.target o.toInt) else x.nothing

/-- `call`: the link in every active lane, whose register holds good words again, and the whole split jumps (R184). -/
def execCall (d : BitVec 7) (k : BitVec 16) (s : State) : Host.Outcome State Fault Refusal :=
  issue (.call d k) s fun x =>
    let link : Word := (x.p.pc + 4).setWidth 32
    .jump ((x.s.updCur x.c fun g =>
      { g.setLanes d.toNat x.active fun _ => link with bad := (useOf x.mode x.mmode (.call d k)).mend g.bad }).updSplit x.c fun p =>
      { p with pc := x.target k.toInt, readyAt := x.now })

/-- The target of a lane of `ret` or `jmpi` (R185). -/
def Ctx.laneTarget (x : Ctx) (a : Src) (l : Nat) : BitVec 57 :=
  if x.guard.getLsbD l then BitVec.ofNat 57 (field x.p.pc 56 32 * 2 ^ 32 + (x.rdv a l).toNat) else x.p.pc + 4

/-- The distinct targets of a list, ascending. -/
def targetsOf (l : List (BitVec 57)) : List (BitVec 57) :=
  l.foldr (fun t r => if r.contains t then r else insertBy BitVec.toNat t r) []

/-- `ret` and `jmpi`: each lane to its own target (R185). -/
def Ctx.indirect (x : Ctx) (a : Src) : Res :=
  let bad := maskWhere x.act fun l => decide ((x.laneTarget a l).toNat % 4 ≠ 0)
  match lanesOf bad with
  | l :: _ => .trap { cause := 0x07, val := (x.laneTarget a l).toNat, lanes := some bad }
  | [] => x.divideTo ((targetsOf ((lanesOf x.active).map (x.laneTarget a))).map fun t =>
      (t, maskWhere x.active fun l => decide (x.laneTarget a l = t)))

/-- `ret` (R185). -/
def execRet (a : Src) (s : State) : Host.Outcome State Fault Refusal := issue (.ret a) s fun x => x.indirect a

/-- `jmpi` (R185). -/
def execJmpi (a : Src) (s : State) : Host.Outcome State Fault Refusal := issue (.jmpi a) s fun x => x.indirect a

/-! ## Traps, breakpoints, handler return (R186, R187) -/

/-- `trap`: SW-TRAP in the guarded lanes (R186). -/
def execTrap (k : BitVec 16) (s : State) : Host.Outcome State Fault Refusal :=
  issue (.trap k) s fun x => if x.act = 0 then x.nothing else .trap { cause := 0x1A, val := k.toNat, lanes := some x.act }

/-- `brk`: BREAKPOINT in every active lane (R186). -/
def execBrk (k : BitVec 16) (s : State) : Host.Outcome State Fault Refusal :=
  issue (.brk k) s fun x => .trap { cause := 0x1B, val := k.toNat, lanes := some x.active }

/-- `tret`: the lanes of a handler split return; outside a handler, ILLEGAL-OPERAND (R187). -/
def execTret (s : State) : Host.Outcome State Fault Refusal :=
  issue .tret s fun x => if x.p.handler then .jump (x.s.returnHandler x.c) else .trap (x.illegalOperand .tret)

/-! ## State of a split (R188 to R190) -/

/-- MODE-VALUE: the instruction word, with chain position 0. -/
def modeValue (i : Instr) : Trap := { cause := 0x03, val := (encode i).toNat }

/-- `setmode` (R188, R111). -/
def execSetmode (k : BitVec 16) (s : State) : Host.Outcome State Fault Refusal :=
  issue (.setmode k) s fun x =>
    if 11 < field k 7 4 ∨ 5 < field k 10 8 then .trap (modeValue (.setmode k))
    else .done (x.s.updSplit x.c fun p => { p with mode := BitVec.ofNat 16 (field k 13 0) }) []

/-- `setmmode` (R188, R113). -/
def execSetmmode (k : BitVec 16) (s : State) : Host.Outcome State Fault Refusal :=
  issue (.setmmode k) s fun x =>
    if 4 < field k 6 4 then .trap (modeValue (.setmmode k))
    else .done (x.s.updSplit x.c fun p => { p with mmode := BitVec.ofNat 10 (field k 9 0) }) []

/-- Member field j of a GANG value (R114). -/
def gangField (v : Nat) (j : Nat) : Nat := slice v (6 * j + 11) (6 * j + 6)

/-- Two values of a list are equal. -/
def hasRepeat : List Nat → Bool
  | [] => false
  | x :: r => r.contains x || hasRepeat r

/-- GANG may take a value (R115). -/
def gangOk (v gid : Nat) : Bool :=
  let n := slice v 2 0
  let l := (List.range n).map (gangField v)
  n == 0 || decide (2 ≤ n ∧ n ≤ 6) && l.all (fun m => decide (m ≤ 31)) && !(hasRepeat l) && l.contains gid

/-- The value as GANG holds it: fields at or beyond COUNT are 0 (R114). -/
def gangStored (v : Nat) : BitVec 42 :=
  let n := slice v 2 0
  BitVec.ofNat 42 (n + ((List.range n).map fun j => gangField v j * 2 ^ (6 * j + 6)).sum)

/-- `setgang` (R189, R115). -/
def execSetgang (a : BitVec 6) (s : State) : Host.Outcome State Fault Refusal :=
  issue (.setgang a) s fun x =>
    let v := (x.rds a).toNat
    if gangOk v x.c.gid then .done (x.s.updSplit x.c fun p => { p with gang := gangStored v }) []
    else .trap (x.illegalOperand (.setgang a))

/-- A split comes to the rendezvous: it waits, dormant if a dormant split exists, and the rendezvous may complete (R44). -/
def Group.atSync (now age : Nat) (g : Group) : Group :=
  let others := g.splits.any fun p => !p.live
  ((g.updSplit age fun p => { p with wait := .rendezvous, live := p.live && !others,
                                     since := if others then now else p.since }).refill now).rendezvous now

/-- `splitsync`: the rendezvous of all splits of the group (R190, R44). -/
def execSplitsync (s : State) : Host.Outcome State Fault Refusal :=
  issue .splitsync s fun x => .jump (x.s.updCur x.c (Group.atSync x.now x.c.age))

/-! ## Group and block controls (R191 to R194) -/

/-- `nop` (R192). -/
def execNop (s : State) : Host.Outcome State Fault Refusal := issue .nop s Ctx.nothing

/-- `yield`: every other ready candidate of the core is owed a turn first (R192). -/
def execYield (s : State) : Host.Outcome State Fault Refusal :=
  issue .yield s fun x =>
    let owed := x.s.readyOthers x.b.stk x.b.core x.g.ctxid.toNat x.c.age
    .done (x.s.updSplit x.c fun p => { p with owed := owed, owedTurns := 64 }) []

/-- `exit`: the guarded lanes end; the last launched lane ends the group (R191, R45), behind its delayed reductions (R270). -/
def execExit (s : State) : Host.Outcome State Fault Refusal :=
  issue .exit s fun x =>
    if x.act = 0 then x.nothing
    else if x.lastWaits then .wait x.s
    else .jump (((x.s.updSplit x.c (Split.finish x.now)).exitLanes x.c x.act).memberLeft x.c.blk x.c.gid)

/-- The groups a `grow` of n is granted (R53): none while a `racq` waits on the core, which comes first, and none of the granules that a
waiting block would take there (R106). -/
def Ctx.granted (x : Ctx) (n : Nat) : Nat :=
  if x.b.preempt.isSome || !(x.s.core x.b.stk x.b.core).racq.isEmpty then 0
  else min (min n (32 - x.b.groups.length)) (min (x.s.freeSlots x.b.stk x.b.core).length
    (x.s.granulesForGrow x.b.stk x.b.core / max 1 (ceilDiv x.b.baseN 8)))

/-- Start the granted groups at the lowest free indices; they may issue from the next cycle on (R54, R193). -/
def State.growGroups (u grower nln entry now : Nat) : Nat → Nat → State → State
  | 0, _, s => s
  | n + 1, rank, s =>
    match s.block? u with
    | none => s
    | some b => match b.freeGids with
      | [] => s
      | gid :: _ =>
        let s := s.addGroup b gid nln entry [(1, BitVec.ofNat 64 rank), (2, BitVec.ofNat 64 grower)]
        State.growGroups u grower nln entry now n (rank + 1) (s.updGroup u gid fun g => { g with lastIssue := now + 1 })

/-- `grow`: n more groups at an entry address (R193, R53, R54). -/
def execGrow (d a : BitVec 6) (k : BitVec 8) (s : State) : Host.Outcome State Fault Refusal :=
  issue (.grow d a k) s fun x =>
    let entry := field (x.rds a) 56 0
    if entry % 4 ≠ 0 then .trap { cause := 0x07, val := entry }
    else if x.l.inText entry = false then .trap (x.illegalOperand (.grow d a k))
    else
      let n := x.granted k.toNat
      .done ((State.growGroups x.c.blk x.c.gid x.b.nln entry x.now n 0 x.s).updCur x.c fun g => g.setS d.toNat (BitVec.ofNat 64 n)) []

/-- `detach` (R194, R56). -/
def execDetach (s : State) : Host.Outcome State Fault Refusal :=
  issue .detach s fun x =>
    if x.g.attached then .done ((x.s.detachGroup x.c.blk x.c.gid).memberLeft x.c.blk x.c.gid) [] else x.nothing

/-- `attach` (R194, R57). -/
def execAttach (s : State) : Host.Outcome State Fault Refusal :=
  issue .attach s fun x => .done (x.s.attachGroup x.c.blk x.c.gid) []

/-! ## System registers (R117, R195) -/

/-- CAP0 (R117). -/
def cap0 : Nat := packFields [(0x0768, 16), (4, 4), (24, 8), (8, 4), (64, 8), (512, 10)]

/-- What `srd` reads. -/
def Ctx.sysReg (x : Ctx) (k : Nat) : Nat :=
  match k with
  | 0x00 => cap0
  | 0x01 => 0x0000003F001704FF
  | 0x10 => x.c.gid
  | 0x11 => x.b.bx
  | 0x12 => x.b.blky
  | 0x13 => x.b.bz
  | 0x14 => packFields [(x.b.groups.length, 6), (0, 2), (x.b.attachedCount, 6)]
  | 0x15 => x.b.nln
  | 0x16 => x.b.core
  | 0x17 => x.b.core / 8
  | 0x18 => x.b.stk
  | 0x19 => x.s.pkg.toNat
  | 0x20 => packFields [(x.g.liveCount, 3), (0, 5), (x.g.splits.length, 5)]
  | 0x21 => packFields [(x.active.toNat, 32), (x.g.alive.toNat, 32)]
  | 0x30 => packFields [(x.g.baseN, 8), (x.g.ext, 4), (0, 4), (x.g.bound, 8)]
  | 0x40 => x.g.trapCause.toNat
  | 0x41 => x.g.trapPc.toNat
  | 0x42 => x.g.trapVal.toNat
  | 0x43 => x.g.trapLanes.toNat
  | 0x44 => x.g.trapVec.toNat
  | 0x50 => x.g.srseed.toNat
  | 0x51 => x.g.aquant.toNat
  | 0x60 => (x.s.core x.b.stk x.b.core).mgate.toNat
  | 0x61 => (x.s.core x.b.stk x.b.core).mwakelat.toNat
  | 0x70 => x.b.yieldreq
  | 0x80 => x.b.cbseq
  | 0x81 => x.b.cbdone
  | 0x82 => x.b.mbseq
  | 0x83 => x.b.mbdone
  | _ => 0

/-- `srd` (R195). -/
def execSrd (d : BitVec 6) (k : BitVec 16) (s : State) : Host.Outcome State Fault Refusal :=
  issue (.srd d k) s fun x => x.scalar d (BitVec.ofNat 64 (x.sysReg k.toNat))

/-- What `swr` does with a value (R117, R118, R195). -/
def Ctx.writeSysReg (x : Ctx) (k : Nat) (v : DWord) : Res :=
  match k with
  | 0x44 => if v.toNat % 4 ≠ 0 then .trap { cause := 0x07, val := v.toNat }
      else .done (x.s.updCur x.c fun g => { g with trapVec := BitVec.ofNat 64 (field v 56 0) }) []
  | 0x50 => .done (x.s.updCur x.c fun g => { g with srseed := v.setWidth 32, gens := seedGens (v.setWidth 32) }) []
  | 0x51 => if field v 15 0 = 0 then x.nothing else .done (x.s.updCur x.c fun g => { g with aquant := v.setWidth 16 }) []
  | 0x60 => .done (x.s.updCore x.b.stk x.b.core fun c => { c with mgate := v.setWidth 16 }) []
  | _ => x.nothing

/-- `swr` (R195). -/
def execSwr (d : BitVec 6) (k : BitVec 16) (s : State) : Host.Outcome State Fault Refusal :=
  issue (.swr d k) s fun x => x.writeSysReg k.toNat (x.rds d)

/-! ## A word that is no instruction (R86) -/

/-- ILLEGAL_INSTRUCTION: a word whose OP names no instruction raises ILLEGAL-INSTRUCTION precisely, with the word at position 0
(R86, R78). -/
def execIllegalInstruction (w : Word) (s : State) : Host.Outcome State Fault Refusal :=
  issue (.illegalInstruction w) s fun _ => .trap { cause := 0x01, val := w.toNat }

end Sys2Proof.Machine
end

