-- ==== Sys2Proof/Machine/CounterOps.lean ====
section
/-!
DEFINITION. Locks (R394 to R396), and row 0xF: counters, landing counters and the energy account (R415 to R423).
-/
namespace Sys2Proof.Machine

/-! ## Locks (R394, R395) -/

/-- The checks of a lock address: tagged `glb`, size 4; the word is never read (R394). -/
def Ctx.lockAt (x : Ctx) (v : DWord) (k : Nat → Res) : Res :=
  match x.accessTagWith false kindRW 4 (fun sp => decide (sp = .glb)) v with
  | .trap t => .trap t
  | .wait s => .wait s
  | .ok ((_, .glb pa) :: _) => k pa
  | .ok _ => .wait x.s

/-- LOCK-STATE, with the tagged address of the lock. -/
def lockState (v : DWord) : Trap := { cause := 0x1F, val := taggedGlb (field v 56 0) }

/-- A group ahead on the table-space list of a slice is about to execute `lock` again: what the list has later comes after it (R395). -/
def State.lockAhead (s : State) (stk sl : Nat) (me : Nat × Nat × Nat) : Bool :=
  let l := ((s.stack stk).lockSpace.filter fun w => w.1 == sl).map fun w => w.2
  l.contains me && (l.takeWhile fun w => !(decide (w = me))).any fun w =>
    (s.block? w.1).any fun b => s.blockRuns b && (b.group? w.2.1).any fun g => !g.suspended && (g.split? w.2.2).any g.ready

/-- A group leaves the table-space lists of a stack. -/
def Stack.leaveSpace (me : Nat × Nat × Nat) (k : Stack) : Stack := { k with lockSpace := k.lockSpace.filter fun w => !(decide (w.2 = me)) }

/-- `lock`: takes the lock, as a stack-scope acquire, or sleeps in its FIFO or on the slice's table-space list (R395). -/
def execLock (a : BitVec 6) (s : State) : Host.Outcome State Fault Refusal :=
  issue (.lock a) s fun x => x.lockAt (x.rds a) fun pa =>
    let k := x.s.stack x.b.stk
    let sl := x.s.sliceOf x.l.part x.b.stk pa
    let me := (x.c.blk, x.c.gid, x.c.age)
    let noSpace : Res := .wait ((x.waitAs (.lock pa)).updStack x.b.stk fun k =>
      if k.lockSpace.any fun w => decide (w.2 = me) then k else { k with lockSpace := k.lockSpace ++ [(sl, me)] })
    match k.lockOn pa with
    | some e =>
      if e.owner = x.g.ctxid then .trap (lockState (x.rds a))
      else if x.s.lockAhead x.b.stk sl me then .wait x.s
      else if k.lockWaiters e.slice < 4096 then
        .wait ((x.waitAs (.lock pa)).updStack x.b.stk fun k =>
          { k.leaveSpace me with
            locks := k.locks.map fun y => if y.pa = pa then { y with waiters := y.waiters ++ [me] } else y })
      else noSpace
    | none =>
      if x.s.lockAhead x.b.stk sl me then .wait x.s
      else if k.lockEntries sl < 256 then
        .done ((x.s.updStack x.b.stk fun k =>
          { k.leaveSpace me with
            locks := k.locks ++ [{ slice := sl, pa := pa, owner := x.g.ctxid, order := k.lockSeq, waiters := [] }]
            lockSeq := k.lockSeq + 1 }).acquire x.c.blk x.c.gid 2) []
      else noSpace

/-- `unlock`: a release that passes the lock on (R395). -/
def execUnlock (a : BitVec 6) (s : State) : Host.Outcome State Fault Refusal :=
  issue (.unlock a) s fun x => x.lockAt (x.rds a) fun pa =>
    match (x.s.stack x.b.stk).lockOn pa with
    | some e =>
      if e.owner = x.g.ctxid then x.releaseFirst 1 fun s => .done (s.passLock x.b.stk e) [] else .trap (lockState (x.rds a))
    | none => .trap (lockState (x.rds a))

/-! ## Counters (R416 to R418) -/

/-- A signed value as 64 bits. -/
def ofSigned (z : Int) : DWord := BitVec.ofInt 64 z

/-- The counter of a selector of `crd` (R418). -/
def Ctx.counter (x : Ctx) (k : Nat) : Option DWord :=
  match k with
  | 0 => some (BitVec.ofNat 64 x.now)
  | 1 => some (BitVec.ofNat 64 x.s.time)
  | 2 => some (BitVec.ofNat 64 x.b.eused)
  | 3 => some (ofSigned (x.s.part x.l.part).eacct)
  | 4 => some (BitVec.ofNat 64 x.s.epkg)
  | _ => none

/-- `crd` (R418). -/
def execCrd (d a : BitVec 6) (s : State) : Host.Outcome State Fault Refusal :=
  issue (.crd d a) s fun x =>
    match x.counter (x.rds a).toNat with
    | some v => x.scalar d v
    | none => .trap (x.illegalOperand (.crd d a))

/-- The landing counter at a place, at its point of atomicity (R415, R416). -/
def State.landing (s : State) (p : Loc) : Nat := leNat (s.placeBytes p 8)

/-- What `cwait` waits on, with its destination and threshold. -/
def Loc.cwait (d least : Nat) : Loc → Wait
  | .glb pa => .cwait true 0 pa d least
  | .buf u _ off => .cwait false u off d least

/-- `cwait`: waits until a landing counter reaches a threshold; its return is a system-scope acquire (R416). A wait ends at the write that meets the
threshold (`State.wakeCwait`). -/
def execCwait (d a b : BitVec 6) (s : State) : Host.Outcome State Fault Refusal :=
  issue (.cwait d a b) s fun x =>
    match x.accessTag kindR 8 (fun sp => decide (sp = .glb) || decide (sp = .scr)) (x.rds a) with
    | .trap t => .trap t
    | .wait s => .wait s
    | .ok [] => .wait x.s
    | .ok ((_, p) :: _) =>
      if x.g.queuedAt (fun _ => true) 8 p || x.s.ownedAt 8 p || x.quantaStall 8 [(0, p)] || x.s.arrivingAt x.b p then .wait x.s
      else
        let s := x.s.quantaFirst x.c.blk x.c.gid 8 [(0, p)]
        let v := s.landing p
        if (x.rds b).toNat ≤ v then
          .done ((s.acquire x.c.blk x.c.gid 3).updCur x.c fun g => g.setS d.toNat (BitVec.ofNat 64 v)) []
        else .wait (s.updSplit x.c fun q => { q with wait := p.cwait d.toNat (x.rds b).toNat })

/-! ## The energy account (R423) -/

/-- µJ in a reservation, 0 if it is negative. -/
def reserveMicro (eres : Int) : Nat := (eres / 1024).toNat

/-- `eres`: from GPOOL to the block's reservation (R423). -/
def execEres (d a : BitVec 6) (s : State) : Host.Outcome State Fault Refusal :=
  issue (.eres d a) s fun x =>
    let g := min (x.rds a).toNat x.l.gpool.toNat
    .done (((x.s.updLaunch x.l.uid fun l => { l with gpool := l.gpool - Int.ofNat g }).updBlock x.c.blk fun b =>
      { b with eres := b.eres + 1024 * Int.ofNat g }).updCur x.c fun y => y.setS d.toNat (BitVec.ofNat 64 g)) []

/-- `erel`: from the block's reservation to GPOOL (R423). -/
def execErel (d a : BitVec 6) (s : State) : Host.Outcome State Fault Refusal :=
  issue (.erel d a) s fun x =>
    let r := min (x.rds a).toNat (reserveMicro x.b.eres)
    .done (((x.s.updLaunch x.l.uid fun l => { l with gpool := l.gpool + Int.ofNat r }).updBlock x.c.blk fun b =>
      { b with eres := b.eres - 1024 * Int.ofNat r }).updCur x.c fun y => y.setS d.toNat (BitVec.ofNat 64 r)) []

/-- The value of a selector of `eqry` (R423). -/
def Ctx.energy (x : Ctx) (k : Nat) : Option DWord :=
  match k with
  | 0 => some (ofSigned x.b.eres)
  | 1 => some (ofSigned x.l.gpool)
  | 2 => some (BitVec.ofNat 64 (x.s.part x.l.part).pcap)
  | 3 => some (ofSigned (x.s.part x.l.part).emax)
  | _ => none

/-- `eqry` (R423). -/
def execEqry (d a : BitVec 6) (s : State) : Host.Outcome State Fault Refusal :=
  issue (.eqry d a) s fun x =>
    match x.energy (x.rds a).toNat with
    | some v => x.scalar d v
    | none => .trap (x.illegalOperand (.eqry d a))

end Sys2Proof.Machine
end

