-- ==== Sys2Proof/Machine/Home.lean ====
section
/-!
DEFINITION. A queue port as the home of queues: writing a descriptor (R326), the checks of an arriving message (R329), the
fault log (R366), waiters (R333), and what a port does with each message (R332, R339 to R343, R362).
-/
namespace Sys2Proof.Machine

/-! ## Descriptors (R326) -/

/-- DEST of a descriptor. The number of a block slot is not architectural: a free value. -/
def State.destOf (s : State) (d : Desc) : Nat :=
  match d.bind with
  | none => 0
  | some b =>
    if b.glb then b.base
    else
      let core := match s.block? b.blk with | some x => x.core | none => 0
      packFields [(b.base, 32), ((Config.free s.tick 71).toNat, 8), (core, 8), (0, 13), (1, 3)]

/-- The 64-byte layout of R326. -/
def State.descImage (s : State) (d : Desc) : BitVec 512 :=
  BitVec.ofNat 512 (packFields [(d.esz, 3), (b2n d.order, 1), (b2n d.dep, 1), (d.kind, 3), (b2n d.sys, 1), (b2n d.valid, 1), (0, 13),
    (d.win, 16), (d.wbase, 17), (d.sbase, 44), (d.ssize, 32), (d.head, 48), (d.tail, 48), (d.rsv, 48), (s.destOf d, 64),
    ((d.bind.map (·.dlen)).getD 0, 32), ((d.bind.map (·.lcoff)).getD 0, 32), (0, 6), (d.coal, 16), (d.wake.length, 6), (d.dtag, 16),
    (d.puts, 32), (d.takes, 32)])

/-- The RW fields of an image over a descriptor; a write that creates the queue clears the RO fields (R388). -/
def Desc.ofImage (old : Desc) (x : BitVec 512) : Desc :=
  let n := x.toNat
  let d := { old with esz := slice n 2 0, order := bitOf n 3, dep := bitOf n 4, kind := slice n 7 5, sys := bitOf n 8,
                      valid := bitOf n 9, win := slice n 38 23, wbase := slice n 55 39, sbase := slice n 99 56,
                      ssize := slice n 131 100, coal := slice n 425 410, dtag := slice n 447 432 }
  if d.valid && !old.valid then { d with head := 0, rsv := 0, puts := 0, takes := 0, cells := [], wake := [], bind := none } else d

/-- A write that leaves VALID set is refused for its fields (R326). -/
def State.descBad (s : State) (w pq : Nat) (d : Desc) : Bool :=
  d.valid && (d.win == 0 || decide (131072 < d.wbase + d.win) || decide (4 < d.esz) || d.kind == 7 ||
    (d.dep && d.kind != 0) || (d.kind == 1 && (!d.order || d.esz != 1)) || (d.kind == 3 && d.esz == 0) ||
    (s.port w).descs.any fun e => e.1 != pq && e.2.valid && meets e.2.wbase e.2.win d.wbase d.win)

/-- The owner of a launch queue, which the spec names and does not place: a free value, fixed when the queue is created (R348). -/
def State.someOwner (s : State) : Nat × BitVec 16 × BitVec 14 :=
  ((Config.free s.tick 67).toNat % 16, (Config.free s.tick 68).setWidth 16, (Config.free s.tick 69).setWidth 14)

/-- Write a descriptor under R326: refused, or written. `soft` says that the write touches DTAG and COAL alone. -/
def State.writeDesc (s : State) (w pq : Nat) (soft : Bool) (x : BitVec 512) : Bool × State :=
  let old := s.desc w pq
  let d := old.ofImage x
  if (old.valid && !soft && decide (old.rsv ≠ old.head)) || s.descBad w pq d then (true, s)
  else (false, s.changeDesc w pq fun _ => if d.valid && !old.valid then { d with owner := s.someOwner } else d)

/-! ## Messages -/

/-- Two stacks are joined by one way or the other around the ring (R354). -/
def State.joined (s : State) (a b : Nat) : Bool :=
  ((List.range ((b + 4 - a) % 4)).all fun k => s.boundaryUp ((a + k) % 4) 0) ||
    (List.range ((a + 4 - b) % 4)).all fun k => s.boundaryUp ((a + 4 - k) % 4) 1

/-- The window of a handle's home: 0 to 3 a stack, 4 the front die. -/
def Handle.win (h : Handle) : Nat := if h.front then 4 else h.stk

/-- Who a group of a block is as a producer (R366). -/
def State.originOf (s : State) (u gid h : Nat) : Origin :=
  match s.block? u with
  | some b => { pkg := s.pkg.toNat, stk := b.stk, core := b.core, slot := (b.group? gid).elim 0 (·.slot), h := h, lid := (s.launchOf b).lid }
  | none => { pkg := s.pkg.toNat, h := h }

/-- The die from which the messages of a producer of the package start: a compute die for a group, else that of its port (R354). -/
def Msg.start (own : Nat) (m : Msg) : Standing := .here (m.backTo own).1

/-- A message leaves for its home port, and its source port keeps it (R362). -/
def State.sendMsg (s : State) (m : Msg) : State :=
  let m := { m with req := s.nextReq, sent := s.time, load := s.nextLoad, at_ := m.start s.pkg.toNat }
  { s with net := s.net ++ [m], kept := s.kept ++ [m], nextReq := s.nextReq + 1, nextLoad := s.nextLoad + 1 }

/-- A message through a handle of a block. -/
def Handle.msg (hd : Handle) (who : Origin) (blk gid h epoch : Nat) (body : MsgBody) : Msg :=
  { req := 0, pkg := hd.pkg, win := hd.win, pq := hd.pq, dtag := hd.dtag, kind := hd.kind, vqn := hd.vqn, prod := .handle blk h,
    blk := blk, gid := gid, sent := 0, epoch := epoch, body := body, who := who }

/-- An answer goes back, and the port records it for the producer's request number (R362). -/
def State.answer (s : State) (m : Msg) (a : AnswerBody) : State :=
  let back := m.backTo s.pkg.toNat
  (s.updPort m.win fun p => { p with answers := (m.prod, m.req, a) :: p.answers }).post m.win back.1 back.2 a

/-- A message is held at the core behind a `qfence` (R344): an earlier put of its group is not acknowledged. -/
def State.fenced (s : State) (m : Msg) : Bool :=
  match (match m.prod with | .handle _ _ => s.block? m.blk | _ => none) with
  | none => false
  | some b => (b.groups ++ b.draining).any fun g => (g.puts.any fun p => p.req == m.req) && g.puts.any fun p => decide (p.epoch < m.epoch)

/-- The window of a message's source port: the producer's stack, or the front die. -/
def Msg.source (m : Msg) : Nat :=
  match m.prod with
  | .handle _ _ => m.who.stk % 4
  | .agent stk _ _ => stk
  | .source w => w
  | _ => 4

/-- Two messages are copies of one request (R362). -/
def Msg.repeats (m x : Msg) : Bool := decide (m.prod = x.prod) && m.req == x.req

/-- The home port takes the k-th message, which has reached it: a repeated request number is answered as before and does nothing else
(R362). `f` gives none while the message must wait, or where it is of another kind. -/
def State.atHome (s : State) (k : Nat) (f : Msg → State → Option State) : State :=
  match nth? s.net k with
  | none => s
  | some m =>
    if m.pkg ≠ s.pkg.toNat ∨ m.at_ ≠ .here m.win ∨ m.asleep = true ∨ s.fenced m = true then s
    else
      let s' := { s with net := dropNth s.net k }
      match (s.port m.win).answers.find? fun (e : Producer × Nat × AnswerBody) => decide (e.1 = m.prod) && e.2.1 == m.req with
      | some e => s'.post m.win (m.backTo s.pkg.toNat).1 (m.backTo s.pkg.toNat).2 e.2.2
      | none => if s'.net.any fun x => x.asleep && m.repeats x then s' else (f m s').getD s

/-! ## The checks of R329, and the fault log (R366) -/

/-- A failing check of a message: 1 not VALID, 2 DTAG, 3 KIND; 0 for none. A reply of the atomic agent needs an element queue of
32 bytes (R347). -/
def State.fails (s : State) (m : Msg) : Nat :=
  let d := s.desc m.win m.pq
  if !d.valid then 1
  else match m.prod with
    | .agent _ _ _ => if d.esz = 1 ∧ d.dep = false then 0 else 3
    | _ => if d.dtag ≠ m.dtag then 2 else if d.kind ≠ m.kind then 3 else 0

/-- The producer of a message as the fault log names it: package, stack, core, group slot, handle, launch identifier. A completion element
comes from the front die, with the launch that it names. -/
def Msg.producer (m : Msg) (own : Nat) (data : List Byte) : Origin :=
  match m.prod with
  | .handle _ _ => m.who
  | .host _ => m.who
  | .agent stk _ _ => { pkg := own, stk := stk }
  | .source w => { pkg := own, stk := w % 4 }
  | .cp => { pkg := own, lid := leNat (data.take 8) }

/-- One element of a fault log (R366). -/
def State.logElement (s : State) (m : Msg) (op reason seq : Nat) (cont : Bool) (who : Origin) (data : List Byte) : List Byte :=
  leBytes 64 (packFields [(op, 8), (reason, 8), (0, 176), (s.time, 64), (who.lid, 64), (b2n cont, 1), (0, 9), (who.h, 4),
    (who.slot, 6), (who.core, 8), (who.stk, 2), (who.pkg, 10), (m.pkg, 10), (m.win % 4, 2), (m.pq, 12), (m.vqn, 16),
    (m.dtag, 16), (seq, 48), (0, 48)]) ++ data

/-- Put an element into a port's fault log, if that is one and has room (assumption 113). -/
def State.putLog (s : State) (w : Nat) (element : List Byte) : Option State :=
  if (s.desc w (s.port w).flogPq).faultLog then s.putElement w (s.port w).flogPq (.source w) element else none

/-- Write a failing message to a port's fault log, in one element or two (R366). None while the log has no room: the message waits. -/
def State.log (s : State) (w : Nat) (m : Msg) (op reason seq : Nat) (data : List Byte) : Option State :=
  let who := m.producer s.pkg.toNat data
  if data.length ≤ 192 then s.putLog w (s.logElement m op reason seq false who data)
  else (s.putLog w (s.logElement m op reason seq true who (data.take 192))).bind fun t =>
    t.putLog w (s.logElement m op reason seq false who (data.drop 192))

/-- The group that produced a message: the one that holds its unacknowledged put, ended or not, else the group of its GID. -/
def Block.producing (b : Block) (m : Msg) : Option Group :=
  ((b.groups ++ b.draining).find? fun g => g.gid == m.gid && g.puts.any fun p => p.req == m.req).orElse fun _ => b.group? m.gid

/-- QUEUE-TARGET to the producing group (R329, R212); a completion element writes a KIND 8 record instead (R350). -/
def State.targetNotice (s : State) (m : Msg) (data : List Byte) : State :=
  match m.prod with
  | .handle u _ => match s.block? u with
    | some b => s.noticeOf b m.gid (b.producing m) 0x17 m.vqn
    | none => s
  | .agent _ _ _ => match s.block? m.blk with
    | some b => s.notice b m.gid 0x17 m.vqn
    | none => s
  | .cp => s.record 4 { kind := 8, val := 9, launch := leNat (data.take 8) }
  | _ => s

/-! ## Waiters (R333) -/

/-- A waiter joins a queue's waiters by its age; a full port keeps no record of it (R333, R334). -/
def State.addWaiter (s : State) (w pq : Nat) (x : Waiter) : State :=
  if ((s.port w).waitersOf pq).length < 32 ∨ (s.port w).overflow.length < 1024 then
    s.updPort w fun p => p.setWaiters pq (s.desc w pq) (insertBy (·.age) x (p.waitersOf pq))
  else s

/-- The age of a waiter: the one with which it last slept, or a new one (R334). -/
def State.ageFor (s : State) (last : Nat) : Nat := if last = 0 then s.waitAge + 1 else last

/-- A group sleeps at a queue, with its age of before if it has one (R334). -/
def State.sleepAt (s : State) (m : Msg) (ret : RetTo) (take : Bool) : State :=
  let age := s.ageFor ret.wage
  let back := m.backTo s.pkg.toNat
  let x : Waiter := { blk := ret.blk, gid := ret.gid, split := ret.age, h := ret.h, take := take, age := age, out := back.2.map fun n => (n, back.1) }
  ({ s with waitAge := s.waitAge + 1 }.addWaiter m.win m.pq x).answer m (.sleep { ret with wage := age })

/-- A put of an agent, a command processor or an outside agent sleeps at a full queue as a reserve-waiter (R353); at a port that keeps no
record of it, it tries again (R333). -/
def State.sleepPut (s : State) (m : Msg) : State :=
  let age := s.ageFor m.wage
  let x : Waiter := { blk := 0, gid := 0, split := 0, h := 0, take := false, age := age, put := some m.load }
  let t := { s with waitAge := s.waitAge + 1 }.addWaiter m.win m.pq x
  let held := ((t.port m.win).waitersOf m.pq).any fun y => y.put == some m.load
  { t with net := t.net ++ [{ m with asleep := held, wage := age }] }

/-! ## What a port does with a message -/

/-- A reservation (R340, R329). One for a single element, of no number of cells, asks for as many as the element has (R341); a `qrsv` that was
checked for another element size executes again. -/
def State.serveReserve (m : Msg) (s : State) : Option State :=
  match m.body with
  | .reserve want ret =>
    let d := s.desc m.win m.pq
    let n := if want = 0 then d.cellsPer else want
    if s.fails m ≠ 0 then some ((s.targetNotice m []).answer m (.grant seqFail n d.esz (s.fails m) ret))
    else if ret.op = 0 ∧ d.esz ≠ ret.esz then some (s.answer m (.again ret))
    else
      let g := min n d.room / d.cellsPer * d.cellsPer
      if g = 0 then some (s.sleepAt m ret false)
      else some ((s.setDesc m.win m.pq (d.grant g m.prod m.gid)).answer m (.grant d.rsv g d.esz 0 ret))
  | _ => none

/-- A fill, or a whole put (R332, R329). -/
def State.serveFill (m : Msg) (s : State) : Option State :=
  let ack (s : State) : State := s.answer m (.ack m.req m.blk m.gid)
  let r := s.fails m
  match m.body with
  | .fill op seq _ why data =>
    if seq = seqFail then (s.log m.win m op (if why = 0 then max 1 r else why) seq data).map ack
    else if r ≠ 0 then (s.log m.win m op r seq data).map fun s => ack (s.targetNotice m data)
    else
      let d := s.desc m.win m.pq
      some (ack (if d.cells.any fun c => c.seq == seq && decide (c.st = .reserved) then s.fillCells m.win m.pq seq data else s))
  | .put data =>
    if r ≠ 0 then (s.log m.win m 1 r seqFail data).map fun s => ack (s.targetNotice m data)
    else some (match s.putElement m.win m.pq m.prod data with
      | some s => ack s
      | none => s.sleepPut m)
  | _ => none

/-- A take (R342). A failing one returns nothing, and the group stays waiting (R329, assumption 116); one that was checked for another element
size than that of the queue executes again (R341). -/
def State.serveTake (m : Msg) (s : State) : Option State :=
  match m.body with
  | .take kind ret =>
    if s.fails m ≠ 0 then some (s.answer m (.lost ret))
    else if (s.desc m.win m.pq).esz ≠ ret.esz then some (s.answer m (.again ret))
    else match (s.desc m.win m.pq).ready with
      | seq :: _ =>
        let bad := s.badWords m.win (s.desc m.win m.pq) seq
        let r := s.takeElement m.win m.pq seq
        some (r.2.answer m (.taken kind seq r.1 { ret with bad := bad }))
      | [] => if kind = .try_ then some (s.answer m (.nothing ret)) else some (s.sleepAt m ret true)
  | _ => none

/-- A peek (R343). -/
def State.servePeek (m : Msg) (s : State) : Option State :=
  match m.body with
  | .peek ret =>
    let d := s.desc m.win m.pq
    some (s.answer m (if s.fails m ≠ 0 then .lost ret else .counts d.ready.length d.room ret))
  | _ => none

/-- A deposit binding (R339). -/
def State.serveBind (m : Msg) (s : State) : Option State :=
  match m.body with
  | .bind b ret =>
    some (if s.fails m ≠ 0 then s.answer m (.lost ret)
      else if (s.desc m.win m.pq).bind.isSome then s.answer m (.bound false ret)
      else (s.changeDesc m.win m.pq fun d => { d with bind := some b }).answer m (.bound true ret))
  | _ => none

/-- A close notice (R343): the cells that the handle had reserved become void, and its binding is released. -/
def State.voidCells (s : State) (w pq first n : Nat) (prod : Producer) (unbind : Bool) : State :=
  s.changeDesc w pq fun d =>
    { d with
      cells := d.cells.map fun c =>
        if seqDist first c.seq < n ∧ c.st = .reserved ∧ c.prod = prod then { c with st := .void } else c
      bind := d.bind.filter fun b => !(unbind && decide (prod = .handle b.blk b.h)) }

/-- A close notice arrives, and is acknowledged. -/
def State.serveClose (m : Msg) (s : State) : Option State :=
  match m.body with
  | .close first n unbind => some ((s.voidCells m.win m.pq first n m.prod unbind).answer m (.ack m.req m.blk m.gid))
  | _ => none

/-- A descriptor that `qxset` writes (R388, R326). -/
def State.serveDesc (m : Msg) (s : State) : Option State :=
  match m.body with
  | .desc image ret =>
    let r := s.writeDesc m.win m.pq false image
    some (r.2.answer m (.desc r.1 ret))
  | _ => none

/-! ## Closing a handle (R343) -/

/-- The notice of a handle that closes, or of cells granted to a handle that has closed. It goes to its home, or, when the home hive is not
connected, to the source port's fault log with OP 4; while the log has no room the source port keeps it. A failed grant has no cells. -/
def State.closeNotice (s : State) (who : Origin) (blk gid h : Nat) (hd : Handle) (first n : Nat) (unbind : Bool) : State :=
  let n := if first = seqFail then 0 else n
  let m := hd.msg who blk gid h 0 (.close first n unbind)
  if s.connected hd.pkg then s.sendMsg m
  else (s.log m.source m 4 4 first [BitVec.ofNat 8 n]).getD (s.sendMsg m)

/-- A handle of a block closes: it frees at once, and the sleepers on it wake. -/
def State.closeHandle (s : State) (u gid h : Nat) : State :=
  match s.block? u with
  | none => s
  | some b => match Assoc.get? b.handles h with
    | none => s
    | some hd =>
      let who := s.originOf u gid h
      let rise (p : Split) : Split := if p.wait = Wait.queue h then p.wake (s.cycle b.stk) else p
      let s := s.updBlock u fun b =>
        { b with handles := Assoc.erase b.handles h,
                 groups := b.groups.map fun g => { g with splits := g.splits.map rise } }
      (s.dropWaiters fun x => x.blk == u && x.h == h).closeNotice who u gid h hd hd.rseq hd.rcnt hd.bound

end Sys2Proof.Machine
end

