-- ==== Sys2Proof/Machine/TableOps.lean ====
section
/-!
DEFINITION. Row 0xD: invalidation of translations (R380, R381), layout records (R385, R386), subscriptions (R390 to R392) and
`qxset` (R388).
-/
namespace Sys2Proof.Machine

/-! ## Invalidation of translations (R380, R381) -/

/-- A selection picks a cached leaf (R380, R381): by its VA, its guest PA, and its address spaces. -/
def TlbEntry.picked (sel : TlbSelect) (e : TlbEntry) : Bool :=
  (match sel.vmid with | some v => decide (e.vmid = v) | none => true) &&
    (if e.g then sel.globals else match sel.asid with | some a => decide (e.asid = a) | none => true) &&
    (match sel.va with | some v => decide (e.vbase ≤ v.toNat) && decide (v.toNat < e.vbase + e.size) | none => true) &&
    (match sel.gpa with | some p => decide (e.gbase ≤ p) && decide (p < e.gbase + e.size) | none => true)

/-- The frames of the cached leaves that a selection picks. -/
def State.framesOf (s : State) (sel : TlbSelect) : List (Nat × Nat) :=
  ((s.dies.map (·.tlb) ++ s.cores.map fun c => c.2.tlb).flatten.filter (TlbEntry.picked sel)).map fun e => (e.pbase, e.size)

/-- Drop the picked leaves from every cache of the device, and the failed walks that no split has reported yet. -/
def State.dropLeaves (s : State) (sel : TlbSelect) : State :=
  let keep (l : List TlbEntry) : List TlbEntry := l.filter fun e => !(e.picked sel)
  let clear (g : Group) : Group := { g with splits := g.splits.map fun p => { p with walked := [], early := [] } }
  { s with
    dies := s.dies.map fun k => { k with tlb := keep k.tlb }
    cores := s.cores.map fun (k, c) => (k, { c with tlb := keep c.tlb })
    blocks := s.blocks.map fun b => { b with groups := b.groups.map clear } }

/-- The selection of `tlbinv` (R381). -/
def tlbSelect (va sel : Nat) : TlbSelect :=
  { va := if bitOf sel 32 then none else some (BitVec.ofNat 57 va)
    asid := if bitOf sel 33 then none else some (BitVec.ofNat 16 (slice sel 15 0))
    vmid := some (BitVec.ofNat 14 (slice sel 29 16))
    globals := bitOf sel 34 }

/-- Go on, or wait until the accesses in flight to some frames have been performed (`State.atDecision` ends the wait). -/
def Ctx.afterFrames (x : Ctx) (s : State) (fs : List (Nat × Nat)) : Res :=
  if s.framesBusy fs then .wait (s.updSplit x.c fun p => { p with inval := fs, wait := .frames }) else .done s []

/-- `tlbinv` (R381). -/
def execTlbinv (a b : BitVec 6) (s : State) : Host.Outcome State Fault Refusal :=
  issue (.tlbinv a b) s fun x =>
    let v := (x.rds b).toNat
    if x.p.inval ≠ [] then x.afterFrames x.s x.p.inval
    else if slice v 31 30 ≠ 0 ∨ slice v 63 35 ≠ 0 then .trap (x.illegalOperand (.tlbinv a b))
    else if !x.l.priv && (decide (slice v 15 0 ≠ x.l.asid.toNat) || decide (slice v 29 16 ≠ x.l.vmid.toNat) || bitOf v 33) then
      .trap { cause := 0x21, val := x.wordVal (.tlbinv a b) }
    else
      let sel := tlbSelect (x.rds a).toNat v
      x.afterFrames (x.s.dropLeaves sel) (x.s.framesOf sel)

/-! ## Layout records (R385, R386) -/

/-- A system-scope release: also every earlier put of the group is acknowledged (R306). -/
def Ctx.releaseSystem (x : Ctx) (k : State → Res) : Res :=
  x.releaseFirst 2 k

/-- Write a record to a slot and drop its cached copies. -/
def Ctx.writeSlot (x : Ctx) (s : State) (page slot : Nat) (bytes : List Byte) : State :=
  (s.engineWrite (.glb (page + 64 * slot)) bytes).dropLayouts slot (some (x.l.part, x.l.asid))

/-- `lrload` (R385). -/
def execLrload (d a b : BitVec 6) (s : State) : Host.Outcome State Fault Refusal :=
  issue (.lrload d a b) s fun x =>
    let slot := (x.rds a).toNat
    if 64 ≤ slot then .trap (x.illegalOperand (.lrload d a b))
    else match x.accessTag kindR 64 (fun sp => decide (sp = .glb)) (x.rds b) with
      | .trap t => .trap t
      | .wait s => .wait s
      | .ok ((_, .glb pa) :: _) => x.releaseSystem fun s =>
        if s.engineOwns pa 64 then .wait s
        else
          let r := s.rootEntry x.l.part x.l.asid
          let bytes := s.readMem pa 64
          let out (st : Nat) (s : State) : Res := .done (s.updCur x.c fun g => g.setS d.toNat (BitVec.ofNat 64 st)) []
          match layoutPage r.1 with
          | none => out 1 r.2
          | some page =>
            if layoutValid (leNat bytes) && !layoutAccepted (leNat bytes) then out 2 r.2
            else out 0 (x.writeSlot r.2 page slot bytes)
      | .ok _ => .wait x.s

/-- `lrinv` (R385). -/
def execLrinv (a : BitVec 6) (s : State) : Host.Outcome State Fault Refusal :=
  issue (.lrinv a) s fun x =>
    let slot := (x.rds a).toNat
    if 64 ≤ slot then .trap (x.illegalOperand (.lrinv a))
    else x.releaseSystem fun s =>
      let r := s.rootEntry x.l.part x.l.asid
      match layoutPage r.1 with
      | none => .done r.2 []
      | some page =>
        let rec_ := r.2.readNat (page + 64 * slot) 64
        .done (x.writeSlot r.2 page slot (leBytes 64 (rec_ - if layoutValid rec_ then 2 ^ 256 else 0))) []

/-! ## Subscriptions (R389 to R392) -/

/-- An entry that has never been used. -/
def Sub.free : Sub :=
  { st := 0, reason := 0, pblk := 0, poff := 0, plen := 0, moff := 0, bar := false, boff := 0, pcore := 0, res := 0, fwd := 0,
    batch := [], since := 0 }

/-- An entry of a block by its number. -/
def Block.sub (b : Block) (e : Nat) : Sub := Assoc.getD Sub.free b.subs e

/-- The block of the issuing grid that may publish to the issuing block: resident on its stack, and another block. -/
def Ctx.publisher (x : Ctx) (lin : Nat) : Option Block :=
  x.s.blocks.find? fun p => p.launch == x.b.launch && p.lin == lin && decide (p.place = .resident) && p.stk == x.b.stk &&
    p.uid != x.b.uid

/-- The first failing check of `wsub` by its REASON code, or the publisher (R390). -/
def Ctx.subscribe (x : Ctx) (y : Sub) (e : Nat) : Except Nat Block :=
  if (x.b.sub e).st ≠ 0 then .error 1
  else if 16 ≤ x.s.subsOn x.b.stk x.b.core then .error 2
  else match x.publisher y.pblk with
    | none => .error 3
    | some p =>
      if y.poff % 4 ≠ 0 ∨ y.moff % 4 ≠ 0 ∨ y.plen % 4 ≠ 0 ∨ y.plen < 4 ∨ p.sSize < y.poff + y.plen ∨ x.b.sSize < y.moff + y.plen then .error 4
      else if y.bar = true ∧ x.b.sSize < 16 * y.boff + 16 then .error 5
      else if 16 ≤ x.s.watchesOn p.stk p.core then .error 6
      else .ok p

/-- SUBSCRIPTION for an entry number. -/
def subTrap (e : Nat) : Trap := { cause := 0x1E, val := e }

/-- The 32-byte layout of R389. -/
def Sub.image (y : Sub) : List Byte :=
  leBytes 32 (packFields [(y.poff, 32), (y.plen, 32), (y.moff, 32), (y.pblk, 32), (y.boff, 16), (b2n y.bar, 1), (0, 3), (y.pcore, 8), (0, 4),
    (y.res, 6), (0, 2), (y.st, 3), (0, 1), (y.reason, 4), (y.fwd, 32), (0, 48)])

/-- Replace an entry of a block, in its context area too while it is saved. -/
def State.setSub (s : State) (u e : Nat) (y : Sub) : State :=
  let s := s.updBlock u fun b => { b with subs := Assoc.put b.subs e y }
  match s.block? u with
  | some b => match b.place with
    | .saved pa size => if size = 0 then s else s.writeMem (s.sectionPa pa 7 + 32 * e) y.image
    | .resident => s
  | none => s

/-- `wsub`: mirrors a region of another block's S into the own S (R390). -/
def execWsub (a : BitVec 5) (b : BitVec 6) (s : State) : Host.Outcome State Fault Refusal :=
  issue (.wsub a b) s fun x =>
    let a0 := x.rdn (2 * a.toNat)
    let a1 := x.rdn (2 * a.toNat + 1)
    let v := (x.rds b).toNat
    let e := slice v 19 16
    if v / 2 ^ 21 ≠ 0 then .trap (x.illegalOperand (.wsub a b))
    else
      let old := x.b.sub e
      let y : Sub :=
        { Sub.free with st := 1, reason := old.reason, pblk := field a0 31 0, poff := field a0 63 32, plen := field a1 31 0,
                        moff := field a1 63 32, bar := bitOf v 20, boff := slice v 15 0 }
      match x.subscribe y e with
      | .error r => .jump ((x.s.setSub x.c.blk e { old with reason := r }).takeTrap x.c (subTrap e))
      | .ok p => .done (x.s.setSub x.c.blk e { y with pcore := p.core }) []

/-- `wunsub`: flushes an entry's batches, waits for them to land and frees the entry (R392). -/
def execWunsub (a : BitVec 6) (s : State) : Host.Outcome State Fault Refusal :=
  issue (.wunsub a) s fun x =>
    let e := (x.rds a).toNat
    if 16 ≤ e then .trap (x.illegalOperand (.wunsub a))
    else
      let y := x.b.sub e
      match y.st with
      | 0 => .trap (subTrap e)
      | 3 => .done (x.s.setSub x.c.blk e { Sub.free with reason := y.reason }) []
      | _ => if x.s.blocks.any fun p => x.s.feeds p x.b y && x.s.midWrite p.uid then .wait x.s else .wait (((x.waitAs (.batch 3 e)).setSub x.c.blk e { y with batch := [] }).sendBatches x.c.blk e [y.batch] true false)

/-- `wflush`: flushes the batches that the block publishes, or those that feed one of its entries (R392). -/
def execWflush (a : BitVec 6) (s : State) : Host.Outcome State Fault Refusal :=
  issue (.wflush a) s fun x =>
    let v := (x.rds a).toNat
    if v = 0 then (if x.s.midWrite x.c.blk then .wait x.s else .done (x.s.flushPublisher x.c.blk true false) [])
    else if v < 16 ∨ 32 ≤ v then .trap (x.illegalOperand (.wflush a))
    else if (x.b.sub (v - 16)).st = 0 then .trap (subTrap (v - 16))
    else if x.s.blocks.any fun p => x.s.feeds p x.b (x.b.sub (v - 16)) && x.s.midWrite p.uid then .wait x.s
    else .done (x.s.flushSubs (fun u e _ => u == x.c.blk && e == v - 16) true false) []

/-- A landed batch was the last of an entry that a `wunsub` waits for: the entry frees and the split goes on (R392). A split that a pre-emption has
stopped executes `wunsub` again after restore, and the entry stays until then. -/
def State.unsubscribed (s : State) (u e : Nat) : State :=
  match s.block? u with
  | none => s
  | some b =>
    let waits (p : Split) : Bool := decide (p.wait = .batch 3 e) && !p.stop
    if decide (b.place = .resident) && (b.groups.any fun g => g.splits.any waits) && !(s.subnet.any fun y => y.blk == u && y.ent == e) then
      let go (p : Split) : Split := if waits p then p.finish (s.cycle b.stk) else p
      ((s.setSub u e { Sub.free with reason := (b.sub e).reason }).updBlock u fun b =>
        { b with groups := b.groups.map fun g => { g with splits := g.splits.map go } }).acquireAll u 0 (b.gidsWhere waits)
    else s

/-- A batch in transit lands in two parts: its first `m` bytes, and the rest (R302). The count does not depend on how the bytes fall into batches
(R391). -/
def SubBatch.cut (m : Nat) (y : SubBatch) : List SubBatch :=
  match y.upd with
  | (off, bytes) :: r =>
    if 0 < m ∧ m < bytes.length ∧ (off + m) % 4 = 0 then
      [{ y with upd := [(off, bytes.take m)], rem := false, orphan := false }, { y with upd := (off + m, bytes.drop m) :: r }]
    else if m = bytes.length ∧ r ≠ [] then [{ y with upd := [(off, bytes)], rem := false, orphan := false }, { y with upd := r }]
    else [y]
  | [] => [y]

/-- The `k`-th batch in transit is cut so. -/
def State.cutBatch (s : State) (k m : Nat) : State :=
  match nth? s.subnet k with
  | some y => { s with subnet := s.subnet.take k ++ y.cut m ++ s.subnet.drop (k + 1) }
  | none => s

/-- A batch lands in the mirror (R391): its bytes, FWD, and the sectors it completes; a remainder counts as one where the flush
says so. -/
def State.landUpdates (u : Nat) : List (Nat × List Byte) → State → State
  | [], s => s
  | (off, bytes) :: r, s => State.landUpdates u r (s.bufStore u .scr off bytes false)

/-- The `k`-th batch in transit lands, after every earlier one of its entry (R391). A batch to an entry that is gone is discarded. -/
def State.landBatch (s : State) (k : Nat) : State :=
  match nth? s.subnet k with
  | none => s
  | some y =>
    if (s.subnet.take k).any fun z => z.blk == y.blk && z.ent == y.ent then s
    else
      let s := { s with subnet := dropNth s.subnet k }
      match s.block? y.blk with
      | none => s
      | some b =>
        let e := b.sub y.ent
        if e.st ≠ 1 ∧ e.st ≠ 2 then s.unsubscribed y.blk y.ent
        else
          let n := (y.upd.map fun u => u.2.length).sum
          let full := (e.res + n) / 32
          let left := (e.res + n) % 32
          let rest := if y.rem && left != 0 then 1 else 0
          let s := State.landUpdates y.blk y.upd s
          let s := s.setSub y.blk y.ent { e with fwd := (e.fwd + n) % 2 ^ 32, res := if y.rem then 0 else left }
          let s := if e.bar then State.sectors y.blk (16 * e.boff) (full + rest) s else s
          let s := if y.orphan then
              (match s.block? y.blk with
                | some b => s.setSub y.blk y.ent { b.sub y.ent with st := 3 }
                | none => s).notice b 0 0x1E y.ent
            else s
          s.unsubscribed y.blk y.ent

/-- SUBSCRIPTION_BATCH_LAND: batch `ev.k` in transit lands (R391). -/
def execSubscriptionBatchLand (s : State) : Host.Outcome State Fault Refusal := .next (s.landBatch s.ev.k)

/-- SUBSCRIPTION_BATCH_TIMEOUT: the open batch of entry `ev.k` of block `ev.b` is flushed 256 cycles after its first update; a
remainder stays (R391). -/
def execSubscriptionBatchTimeout (s : State) : Host.Outcome State Fault Refusal :=
  .next (match s.block? s.ev.b with
    | none => s
    | some b =>
      let e := b.sub s.ev.k
      let now := s.cycle b.stk
      if e.batch ≠ [] ∧ e.since + 256 ≤ now then
        (s.setSub s.ev.b s.ev.k { e with batch := [] }).sendBatches s.ev.b s.ev.k [e.batch] false false
      else s)

/-! ## qxset (R388) -/

/-- A handle that stands for none. -/
def noHandle : Handle :=
  { vqn := 0, rights := 0, bound := false, rseq := 0, rcnt := 0, pkg := 0, front := false, stk := 0, pq := 0, kind := 0, dep := false,
    dtag := 0, opening := false, asked := none, esz := 0, why := 0 }

/-- Where the answer to the next request goes. -/
def Ctx.retTo (x : Ctx) (s : State) (d h : Nat) (hd : Handle) : RetTo :=
  { blk := x.c.blk, gid := x.c.gid, age := x.c.age, req := s.nextReq, d := d, wage := x.p.qage, h := h, hd := hd, op := 0, data := [],
    who := s.originOf x.c.blk x.c.gid h }

/-- OP 3 of `qxset`: the image is read once and sent to the port, which writes it under R326; the port's answer is waited for. -/
def Ctx.writeDescriptor (x : Ctx) (d : BitVec 6) (v : Nat) (addr : DWord) : Res :=
  match x.accessTag kindR 64 (fun sp => decide (sp = .glb)) addr with
  | .trap t => .trap t
  | .wait s => .wait s
  | .ok [] => .wait x.s
  | .ok ((_, p) :: _) => match x.hold 64 [(0, p)] with
    | .go =>
      let y := (x.s.quantaFirst x.c.blk x.c.gid 64 [(0, p)]).look x.b true false 64 p
      let image : BitVec 512 := BitVec.ofNat 512 (leNat (forwarded x.g.stq p y.1))
      let ret := x.retTo y.2 d.toNat 0 noHandle
      let m : Msg :=
        { req := y.2.nextReq, pkg := y.2.pkg.toNat, win := if bitOf v 30 then 4 else slice v 29 28, pq := slice v 27 16, dtag := 0, kind := 0,
          vqn := 0, prod := .handle x.c.blk 16, blk := x.c.blk, gid := x.c.gid, sent := y.2.time, epoch := 0, body := .desc image ret,
          who := ret.who, load := y.2.nextLoad, at_ := .here (8 + x.b.stk) }
      .wait (({ y.2 with net := y.2.net ++ [m], nextReq := y.2.nextReq + 1, nextLoad := y.2.nextLoad + 1 }).updSplit x.c fun q =>
        { q with wait := .answer ret.req })
    | _ => .wait x.s

/-- `qxset` by its operation; an operation beyond 3, or a bit of rds(A) that no row names, which is one outside OP and <31:16>, is illegal
(R388). -/
def Ctx.qxset (x : Ctx) (i : Instr) (d a b : BitVec 6) : Res :=
  let v := (x.rds a).toNat
  let done (s : State) : Res := .done (s.updCur x.c fun g => g.setS d.toNat 0) []
  if 3 < v % 8 ∨ v / 2 ^ 3 % 2 ^ 13 ≠ 0 ∨ v / 2 ^ 32 ≠ 0 then .trap (x.illegalOperand i)
  else
    let asid : BitVec 16 := BitVec.ofNat 16 (slice v 31 16)
    match v % 8 with
    | 0 => done (x.s.dropQueueXlates fun c => decide (c.asid = asid) && c.vqn == field (x.rds b) 15 0)
    | 1 => done (x.s.dropQueueXlates fun c => decide (c.asid = asid))
    | 2 => done (x.s.dropQueueXlates fun _ => true)
    | _ => x.writeDescriptor d v (x.rds b)

/-- `qxset`, the row of OP 0; the word does not hold the operation, rds(A)<2:0> does (R388). -/
def execQxsetDropVqn (d a b : BitVec 6) (s : State) : Host.Outcome State Fault Refusal :=
  issue (.qxsetDropVqn d a b) s fun x => x.qxset (.qxsetDropVqn d a b) d a b

/-- `qxset`, the row of OP 1 (R388). -/
def execQxsetDropAsid (d a b : BitVec 6) (s : State) : Host.Outcome State Fault Refusal :=
  issue (.qxsetDropAsid d a b) s fun x => x.qxset (.qxsetDropAsid d a b) d a b

/-- `qxset`, the row of OP 2 (R388). -/
def execQxsetDropAll (d a b : BitVec 6) (s : State) : Host.Outcome State Fault Refusal :=
  issue (.qxsetDropAll d a b) s fun x => x.qxset (.qxsetDropAll d a b) d a b

/-- `qxset`, the row of OP 3 (R388). -/
def execQxsetWriteDescriptor (d a b : BitVec 6) (s : State) : Host.Outcome State Fault Refusal :=
  issue (.qxsetWriteDescriptor d a b) s fun x => x.qxset (.qxsetWriteDescriptor d a b) d a b

end Sys2Proof.Machine
end

