-- ==== Sys2Proof/Machine/QueueOps.lean ====
section
/-!
DEFINITION. Row 0xC: the queue instructions (R337 to R345). Each sends a message to the queue's home port and waits for the answer
where it needs one; the answers arrive by the events of PortOps.
-/
namespace Sys2Proof.Machine

/-! ## Element sizes (R323, R341) -/

/-- Bytes of an element of a size code. -/
def eszBytes (e : Nat) : Nat := 16 <<< min e 4

/-- Cells of an element of a size code. -/
def eszCells (e : Nat) : Nat := if e ≤ 2 then 1 else if e = 3 then 2 else 4

/-- The size code that an operation counts on: under a reservation the one that its grant carried, else the one that the home port holds, at
another package's port a free value. An answer of another size executes the instruction again (R341). -/
def State.eszOf (s : State) (hd : Handle) : Nat :=
  if hd.rcnt ≠ 0 then hd.esz
  else if hd.pkg = s.pkg.toNat then (s.desc hd.win hd.pq).esz else (Config.free s.tick 73).toNat % 5

/-! ## Handles (R327, R338) -/

/-- The rights of R327. -/
def rightPut : Nat := 1
/-- TAKE. -/
def rightTake : Nat := 2
/-- SVC. -/
def rightSvc : Nat := 4
/-- EMIT. -/
def rightEmit : Nat := 8

/-- The open handle of a number (R338 check 1); `raw` is what TRAPVAL shows. -/
def Ctx.openHandle (x : Ctx) (v raw : Nat) : Except Trap Handle :=
  match (if v < 16 then Assoc.get? x.b.handles v else none) with
  | some hd => if hd.opening then .error { cause := 0x14, val := raw % 2 ^ 16 } else .ok hd
  | none => .error { cause := 0x14, val := raw % 2 ^ 16 }

/-- R338 check 2: one of the rights needed, a kind of a list (any for none), and element mode where it is asked for. -/
def rightsTrap (h : Nat) (hd : Handle) (need : Nat) (kinds : List Nat) (elem : Bool) : Option Trap :=
  if hd.rights &&& need = 0 ∨ (kinds ≠ [] ∧ kinds.contains hd.kind = false) ∨ (elem = true ∧ hd.dep = true) then
    some { cause := 0x15, val := h + need * 2 ^ 8 }
  else none

/-- R338 check 3. -/
def State.unreachable (s : State) (hd : Handle) : Option Trap :=
  if s.connected hd.pkg then none else some { cause := 0x16, val := hd.pkg + hd.stk * 2 ^ 16 }

/-- The checks of R338 for a handle operand. -/
def Ctx.handleFor (x : Ctx) (v : DWord) (need : Nat) (kinds : List Nat) (elem : Bool) (k : Nat → Handle → Res) : Res :=
  match x.openHandle v.toNat v.toNat with
  | .error t => .trap t
  | .ok hd => match (rightsTrap v.toNat hd need kinds elem).orElse fun _ => x.s.unreachable hd with
    | some t => .trap t
    | none => k v.toNat hd

/-- Change a handle of a block. -/
def State.updHandle (s : State) (u h : Nat) (f : Handle → Handle) : State :=
  s.updBlock u fun b => match Assoc.get? b.handles h with
    | some hd => { b with handles := Assoc.put b.handles h (f hd) }
    | none => b

/-! ## Asking a port -/

/-- The split waits for the answer to the next request. -/
def Ctx.ask (x : Ctx) (s : State) (h : Nat) (hd : Handle) (body : MsgBody) : Res :=
  .wait ((s.sendMsg (hd.msg (s.originOf x.c.blk x.c.gid h) x.c.blk x.c.gid h x.g.epoch body)).updSplit x.c fun p =>
    { p with wait := .answer s.nextReq })

/-- A group owes the acknowledgement of one more put (R332). -/
def Group.owePut (p : PutRef) (g : Group) : Group := { g with puts := g.puts ++ [p] }

/-- Reserve cells (R340): not while another reservation through the handle is under way. The grant goes on with the instruction. A put owes
its acknowledgement from here on (R315, R344). -/
def Ctx.reserve (x : Ctx) (s : State) (d h : Nat) (hd : Handle) (n op : Nat) (data : List Byte) : Res :=
  if hd.asked.isSome then .wait s
  else
    let owe (g : Group) : Group := if op = 0 then g else g.owePut { req := s.nextReq, epoch := x.g.epoch, ord := s.nextReq }
    x.ask ((s.updHandle x.c.blk h fun y => { y with asked := some s.nextReq }).updCur x.c owe) h hd
      (.reserve n { x.retTo s d h hd with op := op, data := data, esz := x.s.eszOf hd })

/-- Fill the next element of a handle's reservation (R328, R341): the message leaves, and the group owes an acknowledgement, in the place of
a put and behind its `qfence`s. -/
def State.sendFill (s : State) (u gid h op : Nat) (ref : PutRef) (data : List Byte) : State :=
  match (s.block? u).bind fun b => Assoc.get? b.handles h with
  | none => s
  | some hd =>
    let e := s.eszOf hd
    let m := hd.msg (s.originOf u gid h) u gid h ref.epoch (.fill op hd.rseq (eszCells e) hd.why (data.take (eszBytes e)))
    let s := s.updHandle u h fun y =>
      { y with rseq := if y.rseq = seqFail then seqFail else seqAdd y.rseq (eszCells e), rcnt := y.rcnt - eszCells e }
    (s.updGroup u gid (Group.owePut { ref with req := s.nextReq })).sendMsg m

/-- The place of a put that issues now among the group's puts. -/
def Ctx.newPut (x : Ctx) (s : State) : PutRef := { req := 0, epoch := x.g.epoch, ord := s.nextReq }

/-- Put one element, as a release (R341, R315): into the handle's reservation, or into cells that it reserves first, as many as one
element has. -/
def Ctx.putElement (x : Ctx) (h : Nat) (hd : Handle) (op : Nat) (data : State → List Byte × State) : Res :=
  x.releaseFirst 1 fun s =>
    let y := data s
    if hd.rcnt ≠ 0 then .done (y.2.sendFill x.c.blk x.c.gid h op (x.newPut s) y.1) []
    else x.reserve y.2 0 h hd 0 op y.1

/-! ## Registers and addresses of an element (R338, R341) -/

/-- The registers of an element from a first register up. -/
def elemRegs (r n : Nat) : List Nat := (List.range (ceilDiv n 128)).map (r + ·)

/-- The element in registers: byte 4j + i is byte i of lane j mod 32 of register r + ⌊j / 32⌋ (R341). -/
def Ctx.elemBytes (x : Ctx) (r n : Nat) : List Byte :=
  (List.range (n / 4)).flatMap fun j => leBytes 4 (x.g.vreg (r + j / 32) (j % 32)).toNat

/-- The range checks and waits for the registers of an element; `read` says that they are read. -/
def Ctx.onRegs (x : Ctx) (i : Instr) (read : Bool) (r n : Nat) (k : Res) : Res :=
  let regs := elemRegs r n
  if regs.any fun y => decide (x.g.bound ≤ y) then .trap (x.regRange i)
  else if x.g.pendingOn regs [] false then .wait (x.waitRegs regs)
  else match (if read then regs.find? fun y => x.g.bad.contains y else none) with
    | some y => .trap { cause := 0x1C, val := 0xFFFFFFFFFFFFFF00 + y }
    | none => k

/-- The 16-byte pieces of an element at a tagged address in `glb` or `scr`, under R224 with a size of ESZ and an alignment of 16
bytes (R338). -/
def Ctx.elemPlaces (x : Ctx) (kind n : Nat) (v : DWord) : Access :=
  let a := LaneAddr.ofTag 0 v
  let piece (sp : Space) (k : Nat) : LaneAddr :=
    LaneAddr.mk' k sp (if sp = .glb then (a.addr + 16 * Int.ofNat k) % 2 ^ 57 else a.addr + 16 * Int.ofNat k)
  match a.sp with
  | some sp =>
    if sp ≠ .glb ∧ sp ≠ .scr then .trap { cause := 0x09, val := a.tag }
    else if a.addr % 16 ≠ 0 then .trap { cause := 0x07, val := a.plain }
    else if sp = .scr ∧ (x.s.local? x.b sp a.addr n).isNone = true then .trap { cause := 0x08, val := a.tag }
    else wholeSplit (x.accessWith true kind 16 ((List.range (n / 16)).map (piece sp)))
  | none => .trap { cause := 0x09, val := a.tag }

/-! ## qopen (R339) -/

/-- The failing value of `qopen`. -/
def openFail (r : Nat) : DWord := BitVec.ofNat 64 (0xFFFFFFFFFFFFFF00 + r)

/-- The translation of a virtual queue number: the input map of a graph instance for 0xFF00 up (R387, R398), else the process's
table through the source port's cache. -/
def Ctx.translateQueue (x : Ctx) (vqn : Nat) : Option QueueEntry × State :=
  match (if 0xFF00 ≤ vqn then x.l.inst else none) with
  | some (u, _) => match (x.s.insts.find? fun i => i.uid == u).bind fun i => nth? i.pqs (vqn - 0xFF00) with
    | some pq =>
      (some { rights := rightEmit + rightTake, kind := 3, dep := false, front := true, stk := 0, pkg := x.s.pkg.toNat, pq := pq,
              dtag := x.l.asid.toNat }, x.s)
    | none => (none, x.s)
  | none => x.s.queueEntry x.b.stk x.l.part x.l.asid vqn

/-- A handle of an entry. -/
def QueueEntry.handle (e : QueueEntry) (vqn rights : Nat) : Handle :=
  { noHandle with vqn := vqn, rights := rights, pkg := e.pkg, front := e.front, stk := e.stk, pq := e.pq, kind := e.kind, dep := e.dep,
                  dtag := e.dtag }

/-- The binding pair of a deposit queue (R339): the binding, or the reason of its failure; 0 while a walk that it needs waits (R11). -/
def Ctx.binding (x : Ctx) (s : State) (h : Nat) (hd : Handle) (v0 v1 : DWord) : Except Nat Binding × State :=
  let a := LaneAddr.ofTag 0 v0
  let n := eszBytes (s.eszOf hd)
  let base := a.addr.toNat
  let dlen := field v1 31 0
  let lc := field v1 63 32
  let out (glb : Bool) (at_ lcat : Nat) : Binding :=
    { blk := x.c.blk, h := h, glb := glb, base := at_, dlen := dlen, lcoff := lc, lcat := lcat }
  if base % n ≠ 0 ∨ dlen = 0 ∨ dlen % n ≠ 0 ∨ lc % 8 ≠ 0 then (.error 5, s)
  else if a.sp = some .scr then
    if x.b.sSize < base + dlen ∨ x.b.sSize < lc + 8 then (.error 5, s)
    else if hd.front = true ∨ hd.pkg ≠ s.pkg.toNat ∨ hd.stk ≠ x.b.stk then (.error 7, s)
    else (.ok (out false base lc), s)
  else
    let p := s.portTranslate x.l base kindW
    let q := p.2.portTranslate x.l lc kindRW
    match p.1, q.1 with
    | .error 0, _ | _, .error 0 => (.error 0, s)
    | .ok (pa, e), .ok (la, _) =>
      if hd.front = true ∨ hd.pkg ≠ s.pkg.toNat ∨ homeOf pa ≠ hd.stk ∨ homeOf la ≠ hd.stk ∨ e.vbase + e.size < base + dlen then (.error 5, q.2)
      else (.ok (out true pa la), q.2)
    | _, _ => (.error 5, q.2)

/-- `qopen` with a translation: the right, the handle, and the binding of a deposit queue. -/
def Ctx.openQueue (x : Ctx) (s : State) (d : BitVec 6) (b : BitVec 5) (h : Nat) (hd : Handle) (e : QueueEntry) : Res :=
  let out (v : DWord) (s : State) : Res := .done (s.updCur x.c fun g => g.setS d.toNat v) []
  let put (s : State) (hd : Handle) : State := s.updBlock x.c.blk fun b => { b with handles := Assoc.put b.handles h hd }
  if hd.rights &&& e.rights ≠ hd.rights then out (openFail 3) s
  else if !(hd.dep && decide (hd.rights &&& rightTake ≠ 0)) then out (BitVec.ofNat 64 h) (put s hd)
  else if b = 0 then out (openFail 6) s
  else match s.unreachable hd with
    | some t => .trap t
    | none =>
      let v0 := x.rdn (2 * b.toNat)
      let sp := (LaneAddr.ofTag 0 v0).sp
      if sp ≠ some .glb ∧ sp ≠ some .scr then .trap { cause := 0x09, val := (LaneAddr.ofTag 0 v0).tag }
      else
        let r := x.binding s h hd v0 (x.rdn (2 * b.toNat + 1))
        match r.1 with
        | .error 0 => .wait x.s
        | .error n => out (openFail n) r.2
        | .ok y => x.ask (put r.2 { hd with opening := true }) h hd
            (.bind y { x.retTo r.2 d.toNat h hd with data := leBytes 8 v0.toNat ++ leBytes 8 (x.rdn (2 * b.toNat + 1)).toNat })

/-- `qopen` (R339). -/
def execQopen (d a : BitVec 6) (b : BitVec 5) (s : State) : Host.Outcome State Fault Refusal :=
  issue (.qopen d a b) s fun x =>
    let v := x.rds a
    let out (n : Nat) (s : State) : Res := .done (s.updCur x.c fun g => g.setS d.toNat (openFail n)) []
    match (List.range 16).find? fun h => (Assoc.get? x.b.handles h).isNone with
    | none => out 1 x.s
    | some h =>
      let r := x.translateQueue (field v 15 0)
      match r.1 with
      | none => out 2 r.2
      | some e => x.openQueue r.2 d b h (e.handle (field v 15 0) (field v 19 16)) e

/-! ## Reservations and puts (R340, R341) -/

/-- What `qrsv` writes (R340). -/
def grantWord (first g : Nat) : DWord := BitVec.ofNat 64 (first % 2 ^ 48 + g * 2 ^ 56)

/-- `qrsv` (R340). -/
def execQrsv (d a b : BitVec 6) (s : State) : Host.Outcome State Fault Refusal :=
  issue (.qrsv d a b) s fun x => x.handleFor (x.rds a) rightPut [0, 2, 3] false fun h hd =>
    let n := (x.rds b).toNat
    if n = 0 ∨ 32 < n ∨ n % eszCells (x.s.eszOf hd) ≠ 0 then .trap (x.illegalOperand (.qrsv d a b))
    else if hd.rcnt ≠ 0 then x.scalar d (grantWord hd.rseq hd.rcnt)
    else x.reserve x.s d.toNat h hd n 0 []

/-- `qput` (R341). -/
def execQput (a : BitVec 6) (b : BitVec 7) (s : State) : Host.Outcome State Fault Refusal :=
  issue (.qput a b) s fun x => x.handleFor (x.rds a) rightPut [0, 2] false fun h hd =>
    let n := eszBytes (x.s.eszOf hd)
    x.onRegs (.qput a b) true b.toNat n (x.putElement h hd 1 fun s => (x.elemBytes b.toNat n, s))

/-- Read the bytes of places as a group of a block sees them, through its core's L1 (R303), under the words that the split has read ahead (R302). -/
def Block.readPlaces (b : Block) (early : List (Loc × Bool × List Byte)) : List (Nat × Loc) → State → List Byte × State
  | [], s => ([], s)
  | (_, p) :: r, s =>
    let y := s.look b false false 16 p
    let z := b.readPlaces early r y.2
    (withEarly early false p y.1 ++ z.1, z.2)

/-- `qputs`: a put of the element at a tagged address (R341). -/
def execQputs (a b : BitVec 6) (s : State) : Host.Outcome State Fault Refusal :=
  issue (.qputs a b) s fun x => x.handleFor (x.rds a) rightPut [0, 2] false fun h hd =>
    match x.elemPlaces kindR (eszBytes (x.s.eszOf hd)) (x.rds b) with
    | .trap t => .trap t
    | .wait s => .wait s
    | .ok ps => match x.hold 16 ps with
      | .go => x.putElement h hd 1 (x.b.readPlaces x.p.early ps)
      | _ => .wait x.s

/-- `emit`: a put to the input queue of a graph node (R341). -/
def execEmit (a : BitVec 6) (b : BitVec 7) (s : State) : Host.Outcome State Fault Refusal :=
  issue (.emit a b) s fun x => x.handleFor (x.rds a) rightEmit [3] false fun h hd =>
    let n := eszBytes (x.s.eszOf hd)
    x.onRegs (.emit a b) true b.toNat n (x.putElement h hd 3 fun s => (x.elemBytes b.toNat n, s))

/-! ## Takes and peeks (R342, R343) -/

/-- The vector registers that an element of any size from a first register up may write (R342). -/
def Ctx.elemHold (x : Ctx) (d : Nat) : List Nat := (elemRegs d 256).filter fun r => decide (r < x.g.bound)

/-- Ask for an element; the registers it will write are held back until the answer arrives. -/
def Ctx.take (x : Ctx) (h : Nat) (hd : Handle) (d : Nat) (kind : TakeKind) (regs : List Nat) (sw : List (Nat × DWord)) (p6 : Bool) : Res :=
  let held : Pend :=
    { kind := .load, vw := [], vregs := regs, sw := sw, p6set := 0, p6clr := 0, p6 := p6, id := x.s.nextReq, todo := 1 }
  x.ask (x.s.updCur x.c fun g => { g with pend := g.pend ++ [held] }) h hd (.take kind { x.retTo x.s d h hd with esz := x.s.eszOf hd })

/-- `qget` (R342). -/
def execQget (d : BitVec 7) (a : BitVec 6) (s : State) : Host.Outcome State Fault Refusal :=
  issue (.qget d a) s fun x => x.handleFor (x.rds a) rightTake [] true fun h hd =>
    let n := eszBytes (x.s.eszOf hd)
    x.onRegs (.qget d a) false d.toNat n (x.take h hd d.toNat .get (x.elemHold d.toNat) [] false)

/-- `qtry` (R342). -/
def execQtry (d : BitVec 7) (a : BitVec 6) (s : State) : Host.Outcome State Fault Refusal :=
  issue (.qtry d a) s fun x => x.handleFor (x.rds a) rightTake [] true fun h hd =>
    let n := eszBytes (x.s.eszOf hd)
    x.onRegs (.qtry d a) false d.toNat n (x.take h hd d.toNat .try_ (x.elemHold d.toNat) [] true)

/-- `qgets` (R342). -/
def execQgets (d a b : BitVec 6) (s : State) : Host.Outcome State Fault Refusal :=
  issue (.qgets d a b) s fun x => x.handleFor (x.rds a) rightTake [] true fun h hd =>
    match x.elemPlaces kindW (eszBytes (x.s.eszOf hd)) (x.rds b) with
    | .trap t => .trap t
    | .wait s => .wait s
    | .ok ps => x.take h hd d.toNat (.gets (ps.map (·.2))) [] [(d.toNat, 0)] false

/-- `qpeek` (R343). -/
def execQpeek (d a : BitVec 6) (s : State) : Host.Outcome State Fault Refusal :=
  issue (.qpeek d a) s fun x => x.handleFor (x.rds a) (rightPut + rightTake) [] false fun h hd =>
    x.ask x.s h hd (.peek (x.retTo x.s d.toNat h hd))

/-! ## Closing, and acknowledgements (R343, R344) -/

/-- `qclose` (R343). -/
def execQclose (a : BitVec 6) (s : State) : Host.Outcome State Fault Refusal :=
  issue (.qclose a) s fun x =>
    match x.openHandle (x.rds a).toNat (x.rds a).toNat with
    | .error t => .trap t
    | .ok _ => .done (x.s.closeHandle x.c.blk x.c.gid (x.rds a).toNat) []

/-- `qfence`: later puts of the group wait at the core for the earlier ones (R344). -/
def execQfence (s : State) : Host.Outcome State Fault Refusal :=
  issue .qfence s fun x => .done (x.s.updCur x.c fun g => { g with epoch := g.epoch + 1 }) []

/-- `qack`: waits until every earlier put of the group is acknowledged (R344). -/
def execQack (s : State) : Host.Outcome State Fault Refusal :=
  issue .qack s fun x => if x.g.puts.isEmpty then x.nothing else .wait (x.waitAs (.batch 2 x.s.nextReq))

/-! ## Service requests (R345, R346) -/

/-- The request of a lane in the layout of R346. -/
def Ctx.request (x : Ctx) (v : Nat) (rh : Handle) (r l : Nat) : List Byte :=
  let op := slice v 11 8
  let wide := bitOf v 12
  let reg (k : Nat) : Nat := (x.g.vreg (r + k) l).toNat
  let pair (k : Nat) : Nat := reg k + if wide then reg (k + 1) * 2 ^ 32 else 0
  leBytes 32 (packFields [(op, 4), (b2n wide, 1), (0, 3), (slice v 23 13 * 32 + l, 16), (x.l.asid.toNat, 16), (rh.pq, 12), (rh.stk, 2),
    (rh.pkg, 10), (reg 0 + reg 1 % 2 ^ 25 * 2 ^ 32, 57), (b2n x.l.priv, 1), (0, 6), (pair 2, 64), (if op = 9 then pair 4 else 0, 64)])

/-- Fill up to n requests of 32 bytes each, in order; what is left is returned. -/
def State.fillRequests (u gid h : Nat) (ref : PutRef) : Nat → List Byte → State → List Byte × State
  | 0, data, s => (data, s)
  | n + 1, data, s =>
    if data.isEmpty then ([], s) else State.fillRequests u gid h ref n (data.drop 32) (s.sendFill u gid h 2 ref (data.take 32))

/-- The checks of R345 and R338 for the two handles of `qsvc`. -/
def Ctx.svcHandles (x : Ctx) (v : Nat) : Except Trap (Handle × Handle) :=
  if v / 2 ^ 24 ≠ 0 then .error { cause := 0x14, val := v % 2 ^ 16 }
  else match x.openHandle (slice v 3 0) v, x.openHandle (slice v 7 4) v with
    | .error t, _ => .error t
    | _, .error t => .error t
    | .ok hd, .ok rh =>
      match (rightsTrap (slice v 3 0) hd rightSvc [1] false).orElse fun _ =>
          (rightsTrap (slice v 7 4) rh rightTake [] true).orElse fun _ =>
          (x.s.unreachable hd).orElse fun _ => x.s.unreachable rh with
      | some t => .error t
      | none => .ok (hd, rh)

/-- `qsvc`: one request for each active guarded lane (R345). QDONE counts those put before a sleep. -/
def execQsvc (a b : BitVec 6) (s : State) : Host.Outcome State Fault Refusal :=
  issue (.qsvc a b) s fun x =>
    let v := (x.rds a).toNat
    let r := 2 * b.toNat
    let h := slice v 3 0
    match x.svcHandles v with
    | .error t => .trap t
    | .ok (hd, rh) =>
      let go : Res :=
        if x.act = 0 then x.nothing
        else x.releaseFirst 1 fun s =>
          let data := ((lanesOf x.act).drop x.p.qdone).flatMap (x.request v rh r)
          let f := State.fillRequests x.c.blk x.c.gid h (x.newPut s) hd.rcnt data s
          let put := (data.length - f.1.length) / 32
          if f.1.isEmpty then .done (f.2.updSplit x.c fun p => { p with qdone := 0 }) []
          else x.reserve (f.2.updSplit x.c fun p => { p with qdone := p.qdone + put }) 0 h hd (f.1.length / 32) 2 f.1
      if slice v 11 8 = 9 then x.onRegs (.qsvc a b) true (r + 4) 256 go else go

end Sys2Proof.Machine
end

