-- ==== Sys2Proof/Machine/PortOps.lean ====
section
/-!
DEFINITION. The events of queues: a home port takes a message (R332, R339 to R343), an answer, an acknowledgement or a wake-up reaches
its group (R332, R334, R342), cells enter the window (R325), deposits land (R335), the atomic agent executes (R347), and a message
is sent again (R362).
-/
namespace Sys2Proof.Machine

/-! ## A home port takes a message -/

/-- PORT_RESERVE: message `ev.k` is a reservation, granted or recorded as a waiter (R340). -/
def execPortReserve (s : State) : Host.Outcome State Fault Refusal := .next (s.atHome s.ev.k State.serveReserve)

/-- PORT_FILL: message `ev.k` is a fill, accepted and acknowledged, or logged (R332, R329). -/
def execPortFill (s : State) : Host.Outcome State Fault Refusal := .next (s.atHome s.ev.k State.serveFill)

/-- PORT_TAKE: message `ev.k` is a take (R342). -/
def execPortTake (s : State) : Host.Outcome State Fault Refusal := .next (s.atHome s.ev.k State.serveTake)

/-- PORT_PEEK: message `ev.k` is a peek (R343). -/
def execPortPeek (s : State) : Host.Outcome State Fault Refusal := .next (s.atHome s.ev.k State.servePeek)

/-- PORT_BINDING: message `ev.k` is a deposit binding (R339). -/
def execPortBinding (s : State) : Host.Outcome State Fault Refusal := .next (s.atHome s.ev.k State.serveBind)

/-- PORT_CLOSE_NOTICE: message `ev.k` is a close notice (R343). -/
def execPortCloseNotice (s : State) : Host.Outcome State Fault Refusal := .next (s.atHome s.ev.k State.serveClose)

/-- MESSAGE_RESEND: message `ev.k` of those that the source ports keep has gone unacknowledged for 50 µs; a copy of it starts again (R362). -/
def execMessageResend (s : State) : Host.Outcome State Fault Refusal :=
  .next (match nth? s.kept s.ev.k with
    | none => s
    | some m =>
      if m.sent + 50000 ≤ s.time ∧ s.fenced m = false then
        let m := { m with sent := s.time }
        { s with kept := setNth s.kept s.ev.k m, nextLoad := s.nextLoad + 1,
                 net := s.net ++ [{ m with load := s.nextLoad, at_ := m.start s.pkg.toNat }] }
      else s)

/-! ## Answers reach a group (R342) -/

/-- Who an answer is for. -/
def RetTo.cur (r : RetTo) : Cur := { blk := r.blk, gid := r.gid, age := r.age }

/-- The registers that a take held back are free again. -/
def Group.unhold (req : Nat) (g : Group) : Group :=
  { g with pend := g.pend.filter fun p => !(decide (p.kind = .load) && p.id == req && p.todo == 1) }

/-- The block and split that still wait for an answer. -/
def State.awaits (s : State) (r : RetTo) : Option (Block × Split) :=
  (s.block? r.blk).bind fun b => (b.group? r.gid).bind fun g => (g.split? r.age).bind fun p =>
    if p.wait = .answer r.req then some (b, p) else none

/-- Write a scalar of an answer; the register holds a good word again (R26). -/
def Group.answerS (g : Group) (d : Nat) (v : DWord) : Group := { g.setS d v with bad := g.bad.filter fun r => !(r == 0xC0 + d) }

/-- The waiting split completes its instruction, after a change to its group. -/
def State.complete (s : State) (r : RetTo) (f : Split → Group → Group) : State :=
  match s.awaits r with
  | none => s
  | some (b, p) =>
    let now := s.cycle b.stk
    s.updGroup r.blk r.gid fun g =>
      (((f p (g.unhold r.req)).updSplit r.age fun p => { p.finish now with qdone := 0 })).wakeOperands now

/-- An element in registers (R342): the launched lanes it occupies (R100); `qtry` also sets p6 in the active lanes of the split. A
register that takes one of the uncorrectable words `bad` of the element holds one (R219). Of an element that is larger than the one its
instruction was checked for, what lies beyond the register bound is lost (assumption 117). -/
def Group.takeElement (d : Nat) (data : List Byte) (bad : List Nat) (g : Group) : Group :=
  let words := wordsOf (data.length / 4) data
  let inside (j : Nat) : Bool := decide (d + j / 32 < g.bound)
  { g.putWords ((words.zipIdx.filter fun e => inside e.2).map fun (w, j) => (32 * (d + j / 32) + j % 32, w)) with
    bad := (g.bad.filter fun r => !((elemRegs d data.length).contains r)) ++ (bad.filter inside).map fun j => d + j / 32 }

/-- The stores of `qgets` enter the store queue, word by word (R302). Of an element that is larger than the one its instruction was checked
for, what lies beyond its places is lost (assumption 117). -/
def placeStores (ins : Nat) : List Loc → List Byte → List StoreOp
  | [], _ => []
  | p :: r, data => if data.isEmpty then [] else storeAll ins 0 p (data.take 16) ++ placeStores ins r (data.drop 16)

/-- The places of the uncorrectable words of an element that `qgets` writes. -/
def placesOf (l : List Loc) (bad : List Nat) : List Loc :=
  bad.filterMap fun j => (nth? l (j / 4)).map (Loc.plus (4 * (j % 4)))

/-- An item of the store queue writes one of some words. -/
def StoreOp.writesAt (l : List Loc) (o : StoreOp) : Bool := match o.loc with | some (p, _) => l.contains p | none => false

/-- A taken element arrives, as a system-scope acquire (R342, R315). -/
def State.takenAnswer (s : State) (kind : TakeKind) (seq : Nat) (data : List Byte) (r : RetTo) : State :=
  match s.awaits r with
  | none => s
  | some _ =>
    let s := s.acquire r.blk r.gid 3
    let lost := match kind with | .gets at_ => placesOf at_ r.bad | _ => []
    let s := lost.foldl State.poison s
    s.complete r fun p g => match kind with
      | .get => g.takeElement r.d data r.bad
      | .try_ => (g.takeElement r.d data r.bad).setP 6 p.mask p.mask
      | .gets at_ =>
        { g.answerS r.d (BitVec.ofNat 64 seq) with
          stq := g.stq ++ (placeStores s.tick at_ data).filter fun o => !(o.writesAt lost) }

/-- A group no longer owes the acknowledgement of a request as a put that waits for its cells. -/
def Group.dropPut (req : Nat) (g : Group) : Group := { g with puts := g.puts.filter fun p => !(p.req == req) }

/-- Reserve again for the requests that are left, in the place of their `qsvc` (R345). -/
def State.reserveMore (s : State) (r : RetTo) (ref : PutRef) (data : List Byte) (put : Nat) : State :=
  let ret := { r with req := s.nextReq, wage := 0, data := data }
  let s' := (s.updHandle r.blk r.h fun y => { y with asked := some s.nextReq }).updGroup r.blk r.gid
    (Group.owePut { ref with req := s.nextReq })
  (s'.sendMsg (r.hd.msg r.who r.blk r.gid r.h ref.epoch (.reserve (data.length / 32) ret))).updSplit r.cur fun p =>
    { p with wait := .answer s.nextReq, qdone := p.qdone + put }

/-- The split that waits for an answer executes its instruction again. -/
def State.again (s : State) (r : RetTo) : State :=
  match s.awaits r with
  | none => s
  | some (b, _) => s.updSplit r.cur (Split.wake (s.cycle b.stk))

/-- A grant for a put arrives: it fills its cells. A grant of another element size than the one that the put was made up for executes it again,
under the grant (R341). -/
def State.grantPut (s : State) (g esz : Nat) (r : RetTo) : State :=
  match s.group? r.blk r.gid with
  | none => s
  | some x =>
    let ref := (x.puts.find? fun p => p.req == r.req).getD { req := r.req, epoch := x.epoch, ord := r.req }
    let s := s.updGroup r.blk r.gid (Group.dropPut r.req)
    if r.op = 2 then
      let f := State.fillRequests r.blk r.gid r.h ref g r.data s
      if f.1.isEmpty then f.2.complete r fun _ x => x
      else f.2.reserveMore r ref f.1 ((r.data.length - f.1.length) / 32)
    else if r.data.length ≠ eszBytes esz then s.again r
    else (s.sendFill r.blk r.gid r.h r.op ref r.data).complete r fun _ x => x

/-- A grant arrives (R340): the handle holds it, and the instruction that asked goes on. A grant for a handle that has closed
meanwhile is given back, and the split executes again. -/
def State.grantAnswer (s : State) (first g esz why : Nat) (r : RetTo) : State :=
  if ((s.block? r.blk).bind fun b => Assoc.get? b.handles r.h).any fun hd => decide (hd.asked = some r.req) then
    let s := s.updHandle r.blk r.h fun y => { y with rseq := first, rcnt := g, esz := esz, why := why, asked := none }
    if r.op = 0 then s.complete r fun _ x => x.answerS r.d (grantWord first g) else s.grantPut g esz r
  else ((s.updGroup r.blk r.gid (Group.dropPut r.req)).closeNotice r.who r.blk r.gid r.h r.hd first g false).again r

/-- The group sleeps at the queue (R333); if its handle has closed it executes again. -/
def State.sleepAnswer (s : State) (r : RetTo) : State :=
  match s.awaits r with
  | none => s
  | some (b, _) =>
    let isOpen := match Assoc.get? b.handles r.h with | some hd => !hd.opening | none => false
    let now := s.cycle b.stk
    let s := s.updHandle r.blk r.h fun y => if y.asked = some r.req then { y with asked := none } else y
    State.stopInPlace (u := r.blk) <| s.updGroup r.blk r.gid fun g =>
      (((g.unhold r.req).dropPut r.req).updSplit r.age fun p =>
        if isOpen then { p with wait := .queue r.h, qage := r.wage } else p.wake now).wakeOperands now

/-- The answer to a binding (R339): the handle opens, or `qopen` gives reason 0x04. -/
def State.boundAnswer (s : State) (ok : Bool) (r : RetTo) : State :=
  if ok then
    (s.updHandle r.blk r.h fun y => { y with opening := false, bound := true }).complete r fun _ g => g.answerS r.d (BitVec.ofNat 64 r.h)
  else
    (s.updBlock r.blk fun b => { b with handles := Assoc.erase b.handles r.h }).complete r fun _ g => g.answerS r.d (openFail 4)

/-- A take, a peek or a binding has failed (R329): nothing returns to the group, which stays waiting; what the operation holds back stays so
until a pre-emption (assumption 116). -/
def State.lostAnswer (s : State) (r : RetTo) : State :=
  match s.awaits r with
  | none => s
  | some _ => (s.updSplit r.cur fun p => { p with wait := .unanswered r.req r.h }).stopInPlace r.blk

/-- The queue has another element size than the one for which an instruction was checked: it executes again, under the size of now (R341). -/
def State.againAnswer (s : State) (r : RetTo) : State :=
  ((s.updHandle r.blk r.h fun y => if y.asked = some r.req then { y with asked := none } else y).updGroup r.blk r.gid fun g =>
    (g.unhold r.req).wakeOperands (s.cycle (((s.block? r.blk).map (·.stk)).getD 0))).again r

/-- An answer reaches the core. -/
def State.arriveAnswer (s : State) : AnswerBody → State
  | .grant first g esz why r => s.grantAnswer first g esz why r
  | .taken kind seq data r => s.takenAnswer kind seq data r
  | .nothing r => s.complete r fun p g => g.setP 6 p.mask 0
  | .sleep r => s.sleepAnswer r
  | .lost r => s.lostAnswer r
  | .again r => s.againAnswer r
  | .counts e c r => s.complete r fun _ g => g.answerS r.d (BitVec.ofNat 64 (min e (2 ^ 32 - 1) + min c (2 ^ 32 - 1) * 2 ^ 32))
  | .bound ok r => s.boundAnswer ok r
  | .desc refused r => s.complete r fun _ g => g.answerS r.d (BitVec.ofNat 64 (b2n refused))
  | .ack _ _ _ => s
  | .wake _ _ _ => s

/-- What an answer is: 1 an acknowledgement, 2 a wake-up, 0 another. -/
def AnswerBody.sort : AnswerBody → Nat
  | .ack _ _ _ => 1
  | .wake _ _ _ => 2
  | _ => 0

/-- An answer from another package's port tells of a failure there (R329): the producing group gets its QUEUE-TARGET notice, once for a reservation
and once for a put. Whether a put that was acknowledged has failed is a free value. -/
def State.remoteFails (s : State) (m : Msg) (a : AnswerBody) : State :=
  let failed := bitOf (Config.free s.tick 114).toNat 0
  if m.pkg = s.pkg.toNat then s
  else match m.body, a with
    | .reserve _ _, .grant first _ _ _ _ => if first = seqFail then s.targetNotice m [] else s
    | .fill _ seq _ _ data, .ack _ _ _ => if seq ≠ seqFail ∧ failed = true then s.targetNotice m data else s
    | .put data, .ack _ _ _ => if failed then s.targetNotice m data else s
    | _, _ => s

/-- Answer `k`, for an agent of the package, has reached its die: it is taken off, and its message is no longer kept. The second copy of an
answer is discarded (R362). -/
def State.received (s : State) (k sort : Nat) (f : AnswerBody → State → State) : State :=
  match nth? s.replies k with
  | none => s
  | some y =>
    if y.out.isSome ∨ y.at_ ≠ .here y.dst ∨ y.body.sort ≠ sort then s
    else
      let s := { s with replies := dropNth s.replies k }
      match y.body.request? with
      | none => f y.body s
      | some req =>
        match s.kept.find? fun m => m.req == req with
        | some m => f y.body ({ s with kept := s.kept.filter fun m => !(m.req == req) }.remoteFails m y.body)
        | none => s

/-- QUEUE_ANSWER_ARRIVAL: answer `ev.k` reaches its group (R342). -/
def execQueueAnswerArrival (s : State) : Host.Outcome State Fault Refusal :=
  .next (s.received s.ev.k 0 fun a s => s.arriveAnswer a)

/-- A put of a group is acknowledged (R332): the splits at `qack` whose puts are all acknowledged go on (R344). -/
def Group.acked (now req : Nat) (g : Group) : Group :=
  let puts := g.puts.filter fun p => !(p.req == req)
  let go (p : Split) : Split := match p.wait with
    | .batch 2 n => if puts.any fun q => decide (q.ord < n) then p else p.goOn now
    | _ => p
  { g with puts := puts, splits := g.splits.map go }

/-- A wake-up reaches a sleeper, which executes its instruction again (R334). -/
def State.woken (s : State) : AnswerBody → State
  | .wake u gid age => match s.block? u with
    | none => s
    | some b => s.updSplit { blk := u, gid := gid, age := age } fun p => match p.wait with
      | .queue _ => p.wake (s.cycle b.stk)
      | _ => p
  | _ => s

/-- The answer that put a sleeper to sleep has not arrived yet. -/
def State.sleepOnWay (s : State) (c : Cur) : Bool :=
  s.replies.any fun y => match y.body with | .sleep r => decide (r.cur = c) | _ => false

/-- A put of a block is acknowledged (R332). -/
def State.acknowledged (s : State) (req u gid : Nat) : State :=
  match s.block? u with
  | none => s
  | some b =>
    let now := s.cycle b.stk
    let got (g : Group) : Group := if g.puts.any fun p => p.req == req then g.acked now req else g
    ((((s.updBlock u fun b => { b with groups := b.groups.map got, draining := b.draining.map got }).tryHeld u gid).tryEnded u).prune u)

/-- PUT_ACKNOWLEDGE: acknowledgement `ev.k` reaches the producing group (R332). -/
def execPutAcknowledge (s : State) : Host.Outcome State Fault Refusal :=
  .next (s.received s.ev.k 1 fun a s => match a with
    | .ack req u gid => s.acknowledged req u gid
    | _ => s)

/-- QUEUE_WAKE: wake-up `ev.k` reaches a sleeper, which executes its instruction again (R334); not ahead of the answer that put it
to sleep. -/
def execQueueWake (s : State) : Host.Outcome State Fault Refusal :=
  .next (match (nth? s.replies s.ev.k).map fun (y : Reply) => y.body with
    | some (.wake u gid age) =>
      if s.sleepOnWay { blk := u, gid := gid, age := age } then s else s.received s.ev.k 2 fun a s => s.woken a
    | _ => s)

/-- Another package's port wakes a group that sleeps at a queue of it, by way of base die `w` (R334, R362). -/
def State.remoteWake (s : State) (w : Nat) (c : Cur) : State :=
  match (s.block? c.blk).bind fun b => ((b.group? c.gid).bind fun g => g.split? c.age).bind fun p => match p.wait with
    | .queue h => (Assoc.get? b.handles h).map fun hd => (hd.pkg, b.stk)
    | _ => none with
  | some (pkg, stk) =>
    if w < 4 ∧ pkg ≠ s.pkg.toNat ∧ s.severed pkg = false then s.post w (8 + stk) none (.wake c.blk c.gid c.age) else s
  | none => s

/-- A port holds a waiter record of a split, or its wake-up is on its way. -/
def State.recorded (s : State) (c : Cur) : Bool :=
  let mine (x : Waiter) : Bool := x.out.isNone && x.put.isNone && x.blk == c.blk && x.gid == c.gid && x.split == c.age
  (s.ports.any fun p => (p.descs.any fun d => d.2.wake.any mine) || p.overflow.any fun e => mine e.2) ||
    s.replies.any fun y => match y.body with | .wake u g n => decide (c = { blk := u, gid := g, age := n }) | _ => false

/-- QUEUE_WAIT_RETRY: split `ev.n` of group `ev.g` of block `ev.b` sleeps without a record at a full port and tries again (R333); at another
package's port it may be without one, which the package cannot see. -/
def execQueueWaitRetry (s : State) : Host.Outcome State Fault Refusal :=
  let c : Cur := { blk := s.ev.b, gid := s.ev.g, age := s.ev.n }
  .next (match s.block? c.blk with
    | none => s
    | some b =>
      if s.recorded c then s
      else s.updSplit c fun p => match p.wait with
        | .queue _ => p.wake (s.cycle b.stk)
        | _ => p)

/-! ## The super, and deposits (R325, R335) -/

/-- SUPER_REFILL: the filled cells of queue `ev.g` at port `ev.b` that have entered the window are moved (R325). -/
def execSuperRefill (s : State) : Host.Outcome State Fault Refusal :=
  .next (s.refill s.ev.b s.ev.g)

/-- Where an element of a deposit queue lands, and its counter. -/
def Binding.places (b : Binding) (off : Nat) : Loc × Loc :=
  if b.glb then (.glb (b.base + off), .glb b.lcat) else (.buf b.blk .scr (b.base + off), .buf b.blk .scr b.lcat)

/-- A word of the next element of a deposit queue lands ahead of the others: the element's write is atomic word by word only (R302). -/
def State.depositWord (s : State) (w pq j : Nat) : State :=
  let d := s.desc w pq
  match d.bind, d.ready with
  | some b, seq :: _ =>
    let at_ := (b.places (seq / d.cellsPer * d.bytes % b.dlen)).1.plus (4 * j)
    if d.valid && d.dep && decide (4 * j < d.bytes) && !(b.landed.contains (seq, j)) && !(s.ownedAt 4 at_) then
      let t := s.landSector at_ (((s.readCells w d seq d.cellsPer).drop (4 * j)).take 4)
      let t := if (s.badWords w d seq).contains j then t.poison at_ else t
      t.setDesc w pq { d with bind := some { b with landed := (seq, j) :: b.landed.filter fun e => e.1 == seq } }
    else s
  | _, _ => s

/-- The words of an element that have not landed yet, over what stands at its place. -/
def Binding.rest (b : Binding) (seq : Nat) (now new : List Byte) : List Byte :=
  now.zipIdx.map fun (y, k) => if b.landed.contains (seq, k / 4) then y else nth 0 new k

/-- DEPOSIT_LANDING: the next admitted element of queue `ev.g` at port `ev.b` lands, what of it has not landed already, and its size is added to the
counter (R335); the forwarder takes it as one update (R391, assumption 111). -/
def execDepositLanding (s : State) : Host.Outcome State Fault Refusal :=
  let w := s.ev.b
  let d := s.desc w s.ev.g
  .next (match d.bind, d.ready with
    | some b, seq :: _ =>
      if d.valid && d.dep then
        let at_ := b.places (seq / d.cellsPer * d.bytes % b.dlen)
        if s.ownedAt d.bytes at_.1 || s.ownedAt 8 at_.2 then s
        else
          let bad := s.badWords w d seq
          let r := s.takeElement w s.ev.g seq
          let bytes := if b.landed.isEmpty then r.1 else b.rest seq (r.2.placeBytes at_.1 d.bytes) r.1
          let s := ((bad.filter fun j => !(b.landed.contains (seq, j))).map fun j => at_.1.plus (4 * j)).foldl State.poison
            (r.2.landSector at_.1 bytes)
          let s := match at_.1 with | .buf u sp o => s.forwardRange u sp o r.1 | .glb _ => s
          s.engineWrite at_.2 (leBytes 8 (leNat (s.placeBytes at_.2 8) + d.bytes))
      else s
    | _, _ => s)

/-! ## The atomic agent (R345 to R347) -/

/-- The new value of an operation of R346 over w bits; a load keeps the old one. -/
def svcNew (op w old b c : Nat) : Nat :=
  let so := (BitVec.ofNat w old).toInt
  let sb := (BitVec.ofNat w b).toInt
  match op with
  | 0 => (old + b) % 2 ^ w
  | 1 => if so ≤ sb then old else b
  | 2 => if sb ≤ so then old else b
  | 3 => min old b
  | 4 => max old b
  | 5 => old &&& b
  | 6 => old ||| b
  | 7 => old ^^^ b
  | 8 => b
  | 9 => if old = c then b else old
  | 10 => (atomNew 8 0x0020 (BitVec.ofNat 32 old) (BitVec.ofNat 32 b) 0).toNat
  | _ => old

/-- STATUS of a request before its translation (R347). -/
def svcEarly (op : Nat) (wide : Bool) (va : Nat) : Nat :=
  if 12 ≤ op ∨ (op = 10 ∧ wide = true) then 5 else if va % (if wide then 8 else 4) ≠ 0 then 4 else 0

/-- Who a request acts for: its ASID under PRIV, in the partition that the domain tag names; it carries no VMID. -/
def svcLaunch (asid dtag : Nat) (priv : Bool) : Launch :=
  { Launch.empty with record := asid % 2 ^ 16 * 2 ^ 608, part := Config.domainPartition dtag % 16, priv := priv }

/-- Execute a request at a stack: STATUS and OLD, which is a free value where the request has no effect; none while an engine owns
the line (R347, R239), or while a walk that it needs cannot cross the front link (R11). -/
def State.svcExec (s : State) (stk dtag req : Nat) : Option ((Nat × Nat) × State) :=
  let op := slice req 3 0
  let wide := bitOf req 4
  let n := if wide then 8 else 4
  let va := slice req 120 64
  match svcEarly op wide va with
  | 0 =>
    let t := s.portTranslate (svcLaunch (slice req 39 24) dtag (bitOf req 121)) va (if op = 11 then kindR else kindRW)
    match t.1 with
    | .error 0 => none
    | .error 4 => some ((1, (Config.free s.tick 74).toNat), t.2)
    | .error _ => some ((2, (Config.free s.tick 74).toNat), t.2)
    | .ok (pa, _) =>
      if homeOf pa ≠ stk then some ((3, (Config.free s.tick 74).toNat), t.2)
      else if t.2.engineOwns pa n then none
      else
        let old := t.2.readNat pa n
        let m := 2 ^ (8 * n)
        let new := svcNew op (8 * n) old (slice req 191 128 % m) (slice req 255 192 % m)
        some ((0, old), if op = 11 then t.2 else t.2.engineWrite (.glb pa) (leBytes n new))
  | st => some ((st, (Config.free s.tick 74).toNat), s)

/-- The reply element of a request (R346). -/
def svcReply (req status old : Nat) : List Byte :=
  leBytes 32 (packFields [(slice req 23 8, 16), (status, 8), (0, 40), (old, 64), (slice req 120 64, 64), (0, 64)])

/-- The atomic agent of stack `ev.b` executes the next request of service queue `ev.g`, if its operation is one of those given, and
puts the reply as a producer of its own; a reply that still waits for a cell holds back later requests (R347, R353). The domain tag and
the virtual number of a reply are free values: a request names neither. -/
def State.serveRequest (s : State) (ops : Nat → Bool → Bool) : State :=
  let w := s.ev.b
  let pq := s.ev.g
  let d := s.desc w pq
  let busy := s.kept.any fun m => decide (m.prod = .agent w 0 pq)
  match d.ready with
  | seq :: _ =>
    let req := leNat (s.readCells w d seq d.cellsPer)
    let from_ := d.cells.find? fun c => c.seq == seq
    if d.valid = false ∨ d.kind ≠ 1 ∨ 4 ≤ w ∨ busy = true ∨ ops (slice req 3 0) (bitOf req 4) = false then s
    else match s.svcExec w d.dtag req with
      | none => s
      | some ((status, old), s) =>
        let s := (s.takeElement w pq seq).2
        let blk := match from_.map (·.prod) with | some (.handle u _) => u | _ => s.nextUid
        s.sendMsg { req := 0, pkg := slice req 63 54, win := slice req 53 52, pq := slice req 51 40,
                    dtag := (Config.free s.tick 75).toNat % 2 ^ 16, kind := 0, vqn := (Config.free s.tick 72).toNat % 2 ^ 16,
                    prod := .agent w 0 pq, blk := blk, gid := (from_.map (·.gid)).getD 0, sent := 0, epoch := 0,
                    body := .put (svcReply req status old) }
  | [] => s

/-- A request of one defined operation. -/
def svcOnly (n : Nat) (op : Nat) (wide : Bool) : Bool := op == n && !(op == 10 && wide)

/-- SVC_ADD (R347). -/
def execSvcAdd (s : State) : Host.Outcome State Fault Refusal := .next (s.serveRequest (svcOnly 0))
/-- SVC_SIGNED_MIN (R347). -/
def execSvcSignedMin (s : State) : Host.Outcome State Fault Refusal := .next (s.serveRequest (svcOnly 1))
/-- SVC_SIGNED_MAX (R347). -/
def execSvcSignedMax (s : State) : Host.Outcome State Fault Refusal := .next (s.serveRequest (svcOnly 2))
/-- SVC_UNSIGNED_MIN (R347). -/
def execSvcUnsignedMin (s : State) : Host.Outcome State Fault Refusal := .next (s.serveRequest (svcOnly 3))
/-- SVC_UNSIGNED_MAX (R347). -/
def execSvcUnsignedMax (s : State) : Host.Outcome State Fault Refusal := .next (s.serveRequest (svcOnly 4))
/-- SVC_AND (R347). -/
def execSvcAnd (s : State) : Host.Outcome State Fault Refusal := .next (s.serveRequest (svcOnly 5))
/-- SVC_OR (R347). -/
def execSvcOr (s : State) : Host.Outcome State Fault Refusal := .next (s.serveRequest (svcOnly 6))
/-- SVC_XOR (R347). -/
def execSvcXor (s : State) : Host.Outcome State Fault Refusal := .next (s.serveRequest (svcOnly 7))
/-- SVC_EXCHANGE (R347). -/
def execSvcExchange (s : State) : Host.Outcome State Fault Refusal := .next (s.serveRequest (svcOnly 8))
/-- SVC_COMPARE_AND_SWAP (R347). -/
def execSvcCompareAndSwap (s : State) : Host.Outcome State Fault Refusal := .next (s.serveRequest (svcOnly 9))
/-- SVC_F32_ADD (R347). -/
def execSvcF32Add (s : State) : Host.Outcome State Fault Refusal := .next (s.serveRequest (svcOnly 10))
/-- SVC_LOAD (R347). -/
def execSvcLoad (s : State) : Host.Outcome State Fault Refusal := .next (s.serveRequest (svcOnly 11))
/-- SVC_UNDEFINED_OP: the reply carries STATUS 5 (R347). -/
def execSvcUndefinedOp (s : State) : Host.Outcome State Fault Refusal :=
  .next (s.serveRequest fun op wide => decide (12 ≤ op) || op == 10 && wide)

end Sys2Proof.Machine
end

