-- ==== Sys2Proof/Machine/Links.lean ====
section
/-!
DEFINITION. The links of the package: flits, credits, sequence and replay at one end of a module (R355 to R357), messages in slots (R456),
the way of a message from die to die (R354, R361), and its arrival.
-/
namespace Sys2Proof.Machine

/-! ## Flits (R355, R356) -/

/-- One bit of CRC-32C, reflected. -/
def crcBit (c : Nat) : Nat := if c % 2 = 1 then (c / 2) ^^^ 0x82F63B78 else c / 2

/-- One byte of CRC-32C. -/
def crcByte (c : Nat) (b : Byte) : Nat :=
  crcBit (crcBit (crcBit (crcBit (crcBit (crcBit (crcBit (crcBit (c ^^^ b.toNat))))))))

/-- CRC-32C: initial value and final XOR 0xFFFF_FFFF. -/
def crc32c (l : List Byte) : Nat := l.foldl crcByte 0xFFFFFFFF ^^^ 0xFFFFFFFF

/-- The CRC over bytes 0 to 251 of a flit. -/
def flitCrc (f : BitVec 2048) : Nat := crc32c (leBytes 252 f.toNat)

/-- A flit fails: its CRC does not match, or a reserved bit is set (R356). -/
def flitBad (f : BitVec 2048) : Bool :=
  flitCrc f != field f 2047 2016 || field f 2015 1984 != 0 || field f 63 47 != 0 || field f 35 34 != 0 || field f 19 15 != 0

/-- The payload of a flit: 15 slots. -/
def flitPayload (f : BitVec 2048) : BitVec 1920 := BitVec.ofNat 1920 (field f 1983 64)

/-- The header fields of a flit that is sent; it always carries an acknowledgement. -/
structure FlitHdr where
  seq    : Nat := 0
  nul    : Bool := false
  cls    : Nat := 0
  ackseq : Nat
  nak    : Bool := false
  cred   : Nat := 0
  ccls   : Nat := 0
  deriving DecidableEq, Repr

/-- A flit in the layout of R355. -/
def FlitHdr.flit (h : FlitHdr) (payload : BitVec 1920) : BitVec 2048 :=
  let low := packFields [(h.seq, 12), (b2n h.nul, 1), (h.cls, 2), (0, 5), (h.ackseq, 12), (1, 1), (b2n h.nak, 1), (0, 2), (h.cred, 9),
    (h.ccls, 2), (0, 17), (payload.toNat, 1920)]
  BitVec.ofNat 2048 (low + crc32c (leBytes 252 low) * 2 ^ 2016)

/-! ## One end of a module (R357) -/

/-- The SEQ of the last accepted flit. -/
def LinkEnd.last (e : LinkEnd) : Nat := (e.e + 4095) % 4096

/-- Flits the replay buffer holds: 128 on a die-to-die module, 512 on a fabric link. -/
def linkCap (w b : Nat) : Nat := if linkFull w b = 8 then 512 else 128

/-- Credits of a class that an end may return: a receive buffer each that is free and not yet made known to the other end (R355). -/
def LinkEnd.due (e : LinkEnd) (c : Nat) : Nat :=
  Config.rxBuffers c + Assoc.getD 0 e.freed c - Assoc.getD 0 e.given c

/-- Make up a flit. It returns credits of a class, of those that are due as many as the end chooses: free values (R355, assumption 118). -/
def LinkEnd.makeFlit (tick : Nat) (h : FlitHdr) (payload : BitVec 1920) (e : LinkEnd) : BitVec 2048 × LinkEnd :=
  let c := (Config.free tick 80).toNat % 4
  let n := (Config.free tick 81).toNat % (min 511 (e.due c) + 1)
  ({ h with cred := n, ccls := c }.flit payload, { e with given := Assoc.put e.given c (Assoc.getD 0 e.given c + n) })

/-- Put a NUL flit with an acknowledgement or a NAK on the way. -/
def LinkEnd.sendNul (tick : Nat) (nak : Bool) (e : LinkEnd) : LinkEnd :=
  let r := e.makeFlit tick { nul := true, ackseq := e.last, nak := nak } 0
  { r.2 with out := r.2.out ++ [r.1] }

/-- A NAK, unless one is outstanding. -/
def LinkEnd.sendNak (tick : Nat) (e : LinkEnd) : LinkEnd := if e.nak then e else { e.sendNul tick true with nak := true }

/-- Resend every buffered flit in SEQ order: one more replay if there is one (R357, R458). -/
def LinkEnd.resend (time : Nat) (e : LinkEnd) : LinkEnd :=
  if e.buf.isEmpty then e
  else { e with out := e.out ++ e.buf.map (·.flit), buf := e.buf.map fun x => { x with at_ := time }, replays := (e.replays + 1) % 2 ^ 16 }

/-- An end can send a new flit of a class: it holds a credit, and its replay buffer has room (R355, R357). -/
def LinkEnd.canSend (e : LinkEnd) (cap cls : Nat) : Bool :=
  !e.down && e.training.isNone && decide (e.buf.length < cap) && decide (0 < Assoc.getD 0 e.credits cls)

/-- Send a new flit of a class: the next SEQ, kept in the replay buffer, for one credit. `x` holds what the buffer keeps beside. -/
def LinkEnd.sendNew (tick time cls : Nat) (payload : BitVec 1920) (x : Sent) (e : LinkEnd) : LinkEnd :=
  let r := e.makeFlit tick { seq := e.txSeq, cls := cls, ackseq := e.last } payload
  { r.2 with txSeq := (e.txSeq + 1) % 4096, buf := e.buf ++ [{ x with seq := e.txSeq, flit := r.1, at_ := time }], out := e.out ++ [r.1],
             credits := Assoc.put e.credits cls (Assoc.getD 0 e.credits cls - 1) }

/-- Send the flits taken over from dead modules, in class 3, while the buffer takes them (R359). -/
def LinkEnd.sendRescue (tick time cap : Nat) : Nat → LinkEnd → LinkEnd
  | 0, e => e
  | n + 1, e => match e.rescue with
    | [] => e
    | (m, x) :: r =>
      if e.canSend cap 3 then
        LinkEnd.sendRescue tick time cap n
          { e.sendNew tick time 3 (Config.rescueWrap m x.seq (field x.flit 14 13) (flitPayload x.flit)) { x with dead := (m, x.seq) :: x.dead }
            with rescue := r }
      else e

/-- The acknowledgement, the NAK and the credits of a received flit (R357). -/
def LinkEnd.applyAck (time : Nat) (f : BitVec 2048) (e : LinkEnd) : LinkEnd :=
  let a := field f 31 20
  let e := { e with credits := Assoc.put e.credits (field f 46 45) (Assoc.getD 0 e.credits (field f 46 45) + field f 44 36) }
  if field f 32 32 = 0 then e
  else
    let e := { e with buf := e.buf.filter fun x => decide (2048 ≤ (a + 4096 - x.seq % 4096) % 4096) }
    if field f 33 33 = 1 then e.resend time else e

/-- The sequence test of R357 on a flit that is not NUL: whether it is delivered, and the receiver after it. -/
def LinkEnd.accept (tick seq : Nat) (e : LinkEnd) : Bool × LinkEnd :=
  let d := (seq + 4096 - e.e % 4096) % 4096
  if d = 0 then (true, ({ e with e := (e.e + 1) % 4096, nak := false }).sendNul tick false)
  else if d < 2048 then (false, e.sendNak tick)
  else (false, e.sendNul tick false)

/-- The same test on a rescue flit at the receiver of the dead module; its acknowledgement travels with the sibling's, and nothing leaves the
dead module (R359). -/
def LinkEnd.acceptRescue (tick seq : Nat) (e : LinkEnd) : Bool × LinkEnd :=
  let r := e.accept tick seq
  (r.1, { r.2 with out := e.out, given := e.given })

/-- A payload is delivered, and its receive buffer is free again (R355). -/
def LinkEnd.deliver (cls bufCls : Nat) (payload : BitVec 1920) (e : LinkEnd) : LinkEnd :=
  { e with got := e.got ++ [(cls, payload)], freed := Assoc.put e.freed bufCls (Assoc.getD 0 e.freed bufCls + 1) }

/-! ## Messages in slots (R456) -/

/-- Bytes in slots of 16. -/
def slotsOf : Nat → List Byte → List (BitVec 128)
  | 0, _ => []
  | n + 1, l => if l.isEmpty then [] else BitVec.ofNat 128 (leNat (l.take 16)) :: slotsOf n (l.drop 16)

/-- The data that a request carries behind its header. -/
def MsgBody.data : MsgBody → List Byte
  | .fill _ _ _ _ data => data
  | .put data => data
  | .bind _ ret => ret.data
  | .desc image _ => leBytes 64 image.toNat
  | _ => []

/-- The data that an answer carries behind its header. -/
def AnswerBody.data : AnswerBody → List Byte
  | .taken _ _ data _ => data
  | _ => []

/-- The slots of a message: a header, and one for each 16 bytes, or part of them, that it carries. -/
def messageSlots (load : Nat) (data : List Byte) : List (BitVec 128) := Config.msgHeader load :: slotsOf (data.length + 1) data

/-- The slots of an open flit from the messages of its class, in order: what fills it, the messages whose last slot it holds, and what
is left. A message that does not fit continues in the next flit of the class on the same module (R355). -/
def packSlots (cls : Nat) : Nat → List Ready → List (BitVec 128) × List Nat × List Ready
  | _, [] => ([], [], [])
  | room, r :: l =>
    if r.cls ≠ cls ∨ room = 0 then let t := packSlots cls room l; (t.1, t.2.1, r :: t.2.2)
    else if r.slots.length ≤ room then
      let t := packSlots cls (room - r.slots.length) l
      (r.slots ++ t.1, r.load.toList ++ t.2.1, t.2.2)
    else
      let t := packSlots cls 0 l
      (r.slots.take room ++ t.1, t.2.1, { r with slots := r.slots.drop room, begun := true } :: t.2.2)

/-- A payload of up to 15 slots; the unused ones are 0. -/
def slotsPayload (l : List (BitVec 128)) : BitVec 1920 := BitVec.ofNat 1920 (packFields (l.map fun x => (x.toNat, 128)))

/-- Send the open flit of a class: full, or with every message of the class that is ready (R456). With nothing ready, a full buffer or no
credit a NUL flit leaves (R357). -/
def LinkEnd.transmit (tick time cap cls : Nat) (e : LinkEnd) : List Nat × LinkEnd :=
  let e := e.sendRescue tick time cap cap
  let t := packSlots cls 15 e.ready
  if e.down || e.training.isSome then ([], e)
  else if t.1.isEmpty || !(e.canSend cap cls) then ([], e.sendNul tick false)
  else
    let p := slotsPayload t.1
    (t.2.1, { e with ready := t.2.2 }.sendNew tick time cls p
      { seq := 0, flit := 0, at_ := 0, cls := cls, payload := p, ends := t.2.1, dead := [] })

/-! ## The two ends of a module -/

/-- The other end of a module of the package; a fabric link ends in a switch. The compute die's end of a vertical module is the
model's own: boundary 5. -/
def linkPeer (w b : Nat) : Option (Nat × Nat) :=
  if 4 ≤ w then (if w = 4 ∧ b < 4 then some (b, 3) else none)
  else match b with
    | 0 => some ((w + 1) % 4, 1)
    | 1 => some ((w + 3) % 4, 0)
    | 2 => some (w, 5)
    | 5 => some (w, 2)
    | 3 => some (4, w)
    | _ => none

/-- Change both ends of a module. -/
def State.updModule (s : State) (w b m : Nat) (f : LinkEnd → LinkEnd) : State :=
  let s := s.updLink w b m f
  match linkPeer w b with
  | some (x, y) => s.updLink x y m f
  | none => s

/-- The die at an end of a boundary. -/
def endDie (w b : Nat) : Nat := if w < 4 ∧ b = 5 then 8 + w else w

/-- The window and the boundary of a compute die's links, or the window of another die. -/
def dieWindow (die : Nat) : Nat := if 8 ≤ die then die - 8 else die

/-! ## The way of a message (R354, R361) -/

/-- Every boundary of the way of `n` hops from a stack around the ring is up; `right` goes from s to s + 1. -/
def State.wayUp (s : State) (k n : Nat) (right : Bool) : Bool :=
  (List.range n).all fun j => if right then s.boundaryUp ((k + j) % 4) 0 else s.boundaryUp ((k + 4 - j % 4) % 4) 1

/-- The lateral boundaries by which traffic from a stack to another leaves: the shorter way, either of two equal ones, and the other way
round while a boundary of it is down. -/
def State.lateral (s : State) (k d : Nat) : List Nat :=
  let r := (d + 4 - k) % 4
  let right := s.wayUp k r true
  let left := s.wayUp k ((4 - r) % 4) false
  (if right && (decide (r ≤ 2) || !left) then [0] else []) ++ if left && (decide (2 ≤ r) || !right) then [1] else []

/-- The fabric links of a base die by which a message to a package may leave: the planes of the own hive, and for another hive also the
optical links (R361). -/
def State.fabric (s : State) (k pkg : Nat) : List Nat :=
  (List.range (if pkg / 32 = s.pkg.toNat / 32 then 6 else 8)).filter fun m => !(s.link k 4 m).down

/-- The modules, as (boundary, module), by which a message at a die may go on to a die of the package, or to another package: any module
of the boundary that is up (R354). -/
def State.hops (s : State) (die : Nat) (dst : Option Nat) (pkg : Nat) : List (Nat × Nat) :=
  let w := dieWindow die
  let across (b : Nat) : List (Nat × Nat) :=
    ((List.range (linkModules w b)).filter fun m => !(s.link w b m).down).map fun m => (b, m)
  if 8 ≤ die then across 5
  else if 4 ≤ die then match dst with
    | some d => across (dieWindow d)
    | none => (List.range 4).flatMap across
  else match dst with
    | some d =>
      if d = 4 then across 3 else if dieWindow d = die then across 2 else (s.lateral die (dieWindow d)).flatMap across
    | none =>
      if !(s.fabric die pkg).isEmpty then (s.fabric die pkg).map fun m => (4, m)
      else ((List.range 4).filter fun d => d != die && !(s.fabric d pkg).isEmpty).flatMap fun d => (s.lateral die d).flatMap across

/-- The die of the package to which a message goes; none for another package. -/
def Msg.toDie (own : Nat) (m : Msg) : Option Nat := if m.pkg = own then some m.win else none

/-- The die of the package to which an answer goes; none for another package. -/
def Reply.toDie (y : Reply) : Option Nat := if 16 ≤ y.dst then none else some y.dst

/-- A message goes into the slots of a module (R456). -/
def State.board (s : State) (w b m load : Nat) (data : List Byte) : State :=
  s.updLink w b m fun e => { e with ready := e.ready ++ [{ cls := 0, slots := messageSlots load data, load := some load, begun := false }] }

/-- Message `k`, or answer `k`, goes on from its die by a module that leads towards its home; it does not wait for a module that is down,
and while none leads on it stays where it is (R354). -/
def State.ride (s : State) (answer : Bool) (k b m : Nat) : State :=
  if answer then
    match nth? s.replies k with
    | none => s
    | some y => match y.at_ with
      | .here die =>
        if y.at_ ≠ .here y.dst ∧ (s.hops die y.toDie (y.dst - 16)).contains (b, m) then
          { s with replies := setNth s.replies k { y with at_ := .riding (dieWindow die) b m } }.board (dieWindow die) b m y.load y.body.data
        else s
      | _ => s
  else
    match nth? s.net k with
    | none => s
    | some x => match x.at_ with
      | .here die =>
        if x.toDie s.pkg.toNat ≠ some die ∧ x.asleep = false ∧ s.fenced x = false ∧
            (s.hops die (x.toDie s.pkg.toNat) x.pkg).contains (b, m) then
          { s with net := setNth s.net k { x with at_ := .riding (dieWindow die) b m } }.board (dieWindow die) b m x.load x.body.data
        else s
      | _ => s

/-- A message stands in the slots of a module at one end. -/
def Standing.rides (w b m : Nat) (p : Standing) : Bool := decide (p = .riding w b m)

/-- Some messages that ride on a module come off it at a place. What passes through to a third package is no longer of concern here (R361), and an
answer for an outside agent that has come to its die is given to it. -/
def State.alight (s : State) (picked : Nat → Bool) (w b m : Nat) (dest : Standing) : State :=
  let sits (load : Nat) (p : Standing) : Bool := p.rides w b m && picked load
  let gone (x : Msg) : Bool := sits x.load x.at_ && decide (dest = .away) && (match x.prod with | .host _ => x.who.pkg != s.pkg.toNat | _ => false)
  let net := (s.net.filter fun x => !(gone x)).map fun x => if sits x.load x.at_ then { x with at_ := dest } else x
  (s.replies.map fun y => if sits y.load y.at_ then { y with at_ := dest } else y).foldl State.settleReply { s with net := net, replies := [] }

/-- The messages whose last slot a delivered flit holds come off at the die of the receiver; over a fabric link they leave the package. -/
def State.landLoads (s : State) (ends : List Nat) (w b m : Nat) : State :=
  s.alight (fun n => ends.contains n) w b m (match linkPeer w b with | some (x, y) => .here (endDie x y) | none => .away)

end Sys2Proof.Machine
end

