-- ==== Sys2Proof/Machine/LinkOps.lean ====
section
/-!
DEFINITION. The events of links: flits that arrive (R357, R359), retraining and modules that go down (R358 to R360, R457, R458), the
reconfiguration of the optical tier (R365), and the outboxes of the event path (R373).
-/
namespace Sys2Proof.Machine

/-! ## Receiving (R357, R359) -/

/-- Retraining begins at both ends: no flit is on the way from then on (R457). -/
def State.startTraining (s : State) (w b m : Nat) (driver : Bool) : State :=
  (s.updModule w b m fun e => { e with training := some (driver, s.time), leads := false, out := [] }).updLink w b m fun e =>
    { e with leads := true }

/-- CRC failures of both receivers of a module within the last 1 ms (R358, R458). -/
def State.recentFails (s : State) (w b m : Nat) : Nat :=
  let own := (s.link w b m).fails
  let other := match linkPeer w b with | some (x, y) => (s.link x y m).fails | none => []
  ((own ++ other).filter fun t => decide (s.time ≤ t + 1000000)).length

/-- A flit fails its CRC (R357): counted; the third failure within 1 ms starts retraining in place of the NAK (R358, R457). -/
def State.crcFailure (s : State) (w b m : Nat) : State :=
  let s := s.updLink w b m fun e => { e with crcerr := (e.crcerr + 1) % 2 ^ 16, fails := e.fails ++ [s.time] }
  if 3 ≤ s.recentFails w b m then s.startTraining w b m false else s.updLink w b m (LinkEnd.sendNak s.tick)

/-- A rescue flit passes the receivers of the dead modules that it was sent on for, the last first; each keeps its own e (R359). Whether
it is delivered, at the end of the module that it was made up for. -/
def State.rescued (w b : Nat) : List (Nat × Nat) → State → Bool × State
  | [], s => (true, s)
  | (m, seq) :: r, s =>
    let y := (s.link w b m).acceptRescue s.tick seq
    let s := s.updLink w b m fun _ => y.2
    if y.1 then State.rescued w b r s else (false, s)

/-- An accepted flit is delivered: its payload, and the messages whose last slot it holds (R357, R359). The flit as its sender keeps it says
which. -/
def State.deliverFlit (s : State) (w b m : Nat) (f : BitVec 2048) : State :=
  let sent := match linkPeer w b with
    | some (x, y) => ((s.link x y m).buf.find? fun (e : Sent) => e.seq == field f 11 0).map fun e => (x, y, e)
    | none => none
  match sent with
  | none => s.updLink w b m (LinkEnd.deliver (field f 14 13) (field f 14 13) (flitPayload f))
  | some (x, y, e) =>
    let r := State.rescued w b e.dead (s.updLink w b m fun k => { k with freed := Assoc.put k.freed (field f 14 13) (Assoc.getD 0 k.freed (field f 14 13) + 1) })
    if r.1 then
      let first := ((e.dead.map fun (d : Nat × Nat) => d.1).getLast?).getD m
      (r.2.updLink w b first fun k => { k with got := k.got ++ [(e.cls, e.payload)] }).landLoads e.ends x y m
    else r.2

/-- A good flit at an end (R357, R359). -/
def State.takeFlit (s : State) (w b m : Nat) (f : BitVec 2048) : State :=
  let cap := linkCap w b
  let s := s.updLink w b m fun e => (e.applyAck s.time f).sendRescue s.tick s.time cap cap
  if field f 12 12 = 1 then s
  else
    let r := (s.link w b m).accept s.tick (field f 11 0)
    let s := s.updLink w b m fun _ => r.2
    if r.1 then s.deliverFlit w b m f else s

/-- FLIT_RECEIVE: a flit reaches the end of module `ev.k` of boundary `ev.g` at window `ev.b`: the next one of the other end with
the bits of `ev.w` flipped on its way, or, on a fabric link, the flit `ev.w` (R357). A module that is down or retrains takes none. -/
def execFlitReceive (s : State) : Host.Outcome State Fault Refusal :=
  let w := s.ev.b
  let b := s.ev.g
  let m := s.ev.k
  let take (s : State) (f : BitVec 2048) : State := if flitBad f then s.crcFailure w b m else s.takeFlit w b m f
  .next (if (s.link w b m).down ∨ (s.link w b m).training.isSome ∨ linkModules w b ≤ m then s
    else match linkPeer w b with
      | none => if linkFull w b = 8 then take s s.ev.w else s
      | some (x, y) => match (s.link x y m).out with
        | [] => s
        | f :: r => take (s.updLink x y m fun e => { e with out := r }) (f ^^^ s.ev.w))

/-- REPLAY_TIMEOUT: the oldest buffered flit of an end was last sent 2 µs ago: every buffered flit is resent (R357). -/
def execReplayTimeout (s : State) : Host.Outcome State Fault Refusal :=
  let e := s.link s.ev.b s.ev.g s.ev.k
  .next (match e.buf with
    | x :: _ =>
      if x.at_ + 2000 ≤ s.time ∧ e.training = none ∧ e.down = false then s.updLink s.ev.b s.ev.g s.ev.k (LinkEnd.resend s.time) else s
    | [] => s)

/-! ## Retraining (R358 to R360) -/

/-- The source that writes a window's records, and the fields of VAL that name the module (R372). -/
def linkName (w b : Nat) : Nat × Nat :=
  if 4 ≤ w then (4, b % 4 + 3 * 4) else (w, w % 4 + if b = 4 then 16 else (if b = 5 then 2 else b % 4) * 4)

/-- A KIND 9 record of a module (R372). -/
def State.linkRecord (s : State) (w b m reason : Nat) : State :=
  let e := s.link w b m
  let n := linkName w b
  s.record n.1 { kind := 9, val := packFields [(n.2, 8), (m, 8), (e.width, 7), (b2n e.down, 1), (reason, 8)] }

/-- The module whose transmitter takes over the flits of a dead one: any other that is up. A fabric link has one only among links 6
and 7 of its base die, where both reach the same circuit, which the spec leaves open: a free value (R359). -/
def State.sibling (s : State) (w b m : Nat) : Option Nat :=
  let up := (List.range (linkModules w b)).filter fun k => k != m && !(s.link w b k).down
  let fit := if linkFull w b = 8 then
      (if 6 ≤ m ∧ (Config.free s.tick 82).toNat % 2 = 1 then up.filter fun k => decide (6 ≤ k) else [])
    else up
  if fit.isEmpty then none else nth? fit ((Config.free s.tick 83).toNat % fit.length)

/-- The rest of the messages of a dead module that have begun, in flits as it would have sent them, for its sibling to send on. -/
def LinkEnd.closeBegun (tick time : Nat) : Nat → LinkEnd → LinkEnd
  | 0, e => e
  | n + 1, e => match e.ready with
    | [] => e
    | r :: _ =>
      let t := packSlots r.cls 15 e.ready
      let p := slotsPayload t.1
      LinkEnd.closeBegun tick time n ({ e with ready := t.2.2 }.sendNew tick time r.cls p
        { seq := 0, flit := 0, at_ := 0, cls := r.cls, payload := p, ends := t.2.1, dead := [] })

/-- The messages that ride on a module ride on another from now on. -/
def State.reboard (s : State) (w b m k : Nat) : State :=
  let moved (p : Standing) : Standing := if p.rides w b m then .riding w b k else p
  { s with net := s.net.map fun x => { x with at_ := moved x.at_ }, replies := s.replies.map fun y => { y with at_ := moved y.at_ } }

/-- What one end of a module that goes down holds moves to a sibling: the unacknowledged flits, with the rest of a message that has begun in
flits of its own, to be sent on in class 3, ahead of what it still had to send on for an earlier dead module, and the messages that have not begun as they are
(R359). With no sibling, the messages that have not
arrived stand again at the die that sent them, and wait for another way (R354); over a fabric link R362 recovers them. -/
def State.rescueEnd (s : State) (w b m : Nat) : State :=
  let old := s.link w b m
  match s.sibling w b m with
  | none =>
    (s.updLink w b m fun e => { e with ready := [], buf := e.buf.map fun x => { x with ends := [] } }).alight (fun _ => true) w b m
      (.here (endDie w b))
  | some k =>
    let rest := LinkEnd.closeBegun s.tick s.time ((old.ready.map fun r => r.slots.length).sum + 1) { old with ready := old.ready.filter (·.begun) }
    let fresh := old.ready.filter fun r => !r.begun
    let moved := (rest.buf.map fun x => (m, x)) ++ old.rescue
    let cap := linkCap w b
    let s := (s.updLink w b m fun e => { e with buf := [], rescue := [], ready := [], txSeq := rest.txSeq }).updLink w b k fun e =>
      { e with rescue := e.rescue ++ moved, ready := e.ready ++ fresh }.sendRescue s.tick s.time cap cap
    s.reboard w b m k

/-- A module has gone down: its record, that of its boundary if no module of it is up, and what its ends hold (R359, R360). -/
def State.moduleGone (s : State) (w b m : Nat) : State :=
  let s := s.linkRecord w b m 2
  let s := if linkFull w b ≠ 8 ∧ s.boundaryUp w b = false then s.linkRecord w b m 3 else s
  let s := s.rescueEnd w b m
  match linkPeer w b with
  | some (x, y) => s.rescueEnd x y m
  | none => s

/-- RETRAIN_COMPLETE: retraining of module `ev.k` of boundary `ev.g`, started by the end at window `ev.b`, ends; `ev.lo` and `ev.hi`
say which halves pass (R358). Copies whose walk waited for a front link are looked at again (R11). -/
def execRetrainComplete (s : State) : Host.Outcome State Fault Refusal :=
  let w := s.ev.b
  let b := s.ev.g
  let m := s.ev.k
  let e := s.link w b m
  .next (match e.training, e.leads with
    | some (driver, _), true =>
      let full := linkFull w b
      let new : Nat × Nat := if driver ∧ s.ev.lo ∧ s.ev.hi then (full, 0)
        else if s.ev.lo then (full / 2, 1) else if s.ev.hi then (full / 2, 2) else (0, 3)
      let dead := new.1 == 0
      let s := s.updModule w b m fun e =>
        { e with training := none, leads := false, fails := [], retrains := (e.retrains + 1) % 2 ^ 16, width := new.1, half := new.2,
                 down := dead }
      if dead then s.moduleGone w b m
      else s.blocks.foldl (fun s x => s.gatherEnd x.uid)
        ((s.updModule w b m (LinkEnd.resend s.time)).linkRecord w b m (if driver then 4 else 1))
    | _, _ => s)

/-- A write to a window is refused: CTLSTAT<0> (R435). -/
def State.refuse (s : State) (w : Nat) : State := s.updSource w fun e => { e with refused := true }

/-- LCTL_RETRAIN: a write of `ev.v` to LCTL of module `ev.k` of boundary `ev.g` in window `ev.b` (R360); it waits while the front link of the
stack carries nothing (R11). -/
def execLctlRetrain (s : State) : Host.Outcome State Fault Refusal :=
  let w := s.ev.b
  let b := s.ev.g
  let m := s.ev.k
  .next (if s.ev.v.getLsbD 0 = false ∨ 5 ≤ b ∨ linkModules w b ≤ m ∨ (4 ≤ w ∧ 4 ≤ b) ∨ s.frontUp w = false then s
    else if (s.link w b m).training.isSome then s.refuse w
    else s.startTraining w b m true)

/-- A message of another class of traffic goes into the slots of a module that is up (R355). -/
def State.offer (s : State) (w b m cls : Nat) (slots : List (BitVec 128)) : State :=
  if linkModules w b ≤ m ∨ cls ≠ 1 ∧ cls ≠ 2 ∨ (s.link w b m).down = true then s
  else s.updLink w b m fun e => { e with ready := e.ready ++ [{ cls := cls, slots := slots, load := none, begun := false }] }

/-- A module's transmitter sends the open flit of a class, or a NUL flit (R355, R456). What a fabric link sends leaves the package. -/
def State.transmit (s : State) (w b m cls : Nat) : State :=
  if linkModules w b ≤ m ∨ 3 ≤ cls then s
  else
    let r := (s.link w b m).transmit s.tick s.time (linkCap w b) cls
    let s := s.updLink w b m fun _ => r.2
    if (linkPeer w b).isNone then s.landLoads r.1 w b m else s

/-! ## Reconfiguration (R365) -/

/-- CONNREQ_WRITE: a write of `ev.v` to CONNREQ (R365, R437). -/
def execConnreqWrite (s : State) : Host.Outcome State Fault Refusal :=
  let map : BitVec 32 := s.ev.v.setWidth 32
  .next (if s.connbusy.isSome ∨ map.getLsbD (s.pkg.toNat / 32) = false then s.refuse 4
    else { s with connmap := map, conngrp := s.conngrp &&& map, connbusy := some (map, s.time, false) })

/-- OP and the data with which a message is logged at its source port (R366). An operation that R366 does not name logs a free value. -/
def State.logOf (s : State) (m : Msg) : Nat × Nat × List Byte :=
  match m.body with
  | .fill op seq _ _ data => (op, seq, data)
  | .put data => (1, seqFail, data)
  | .close first n _ => (4, first, [BitVec.ofNat 8 n])
  | _ => ((Config.free s.tick 84).toNat % 256, seqFail, [])

/-- A message to a departed hive is logged at its source port with reason 4, and its producer learns of it (R365): a put counts as
acknowledged, a reservation as failed, and what waits for a take, a peek or a binding as of R329. None while the log has no room. -/
def State.cutOff (s : State) (m : Msg) : Option State :=
  let x := s.logOf m
  (s.log m.source m x.1 4 x.2.1 x.2.2).map fun s =>
    let s := { s with kept := s.kept.filter fun y => !(m.repeats y), net := s.net.filter fun y => !(m.repeats y) }.targetNotice m x.2.2
    match m.prod with
    | .host _ => s
    | _ => match m.body with
    | .reserve n ret => s.arriveAnswer (.grant seqFail n ret.hd.esz 4 ret)
    | .take _ ret => s.arriveAnswer (.lost ret)
    | .peek ret => s.arriveAnswer (.lost ret)
    | .bind _ ret => s.arriveAnswer (.lost ret)
    | _ => s.acknowledged m.req m.blk m.gid

/-- Cut off the messages to departed hives; those that the log does not take yet stay. -/
def State.cutAll : List Msg → State → State
  | [], s => s
  | m :: r, s => State.cutAll r (if s.connected m.pkg then s else (s.cutOff m).getD s)

/-- RECONFIG_DRAIN_END: every message to a departing hive is acknowledged, or 10 ms have passed and the rest are logged (R365).
Messages that follow a reservation that failed so are logged when they come up. -/
def execReconfigDrainEnd (s : State) : Host.Outcome State Fault Refusal :=
  let clear (s : State) : Bool := s.kept.all fun m => s.connected m.pkg
  .next (match s.connbusy with
    | some (map, t0, false) =>
      if clear s then { s with connbusy := some (map, t0, true) }
      else if t0 + 10000000 ≤ s.time then
        let s := State.cutAll s.kept s
        if clear s then { s with connbusy := some (map, t0, true) } else s
      else s
    | _ => State.cutAll s.kept s)

/-- RECONFIG_SWITCH_DONE: the circuits have switched (R365). -/
def execReconfigSwitchDone (s : State) : Host.Outcome State Fault Refusal :=
  .next (match s.connbusy with
    | some (map, _, true) => { s with conngrp := map, connbusy := none }.record 4 { kind := 9, val := 5 * 2 ^ 24 }
    | _ => s)

/-! ## The event path (R373) -/

/-- Suspension records that wait in group slots of a stack are tried again (R212). -/
def State.retryHeld (s : State) (stk : Nat) : State :=
  (s.blocks.filter fun b => b.stk == stk).foldl (fun s b =>
    ((b.groups.foldl (fun s g => s.tryHeld b.uid g.gid) s).tryEnded b.uid).prune b.uid) s

/-- OUTBOX_DRAIN: the oldest record of the outbox of source `ev.k` goes to the front event queue when a cell is free (R373). -/
def execOutboxDrain (s : State) : Host.Outcome State Fault Refusal :=
  .next (match (s.source s.ev.k).outbox with
    | [] => s
    | w :: r => match s.putRecord s.ev.k w with
      | none => s
      | some s => (s.updSource s.ev.k fun e => { e with outbox := r }).retryHeld s.ev.k)

/-- EVSTAT_OVF_CLEAR: a write of `ev.v` to EVSTAT of source `ev.k` (R373); it waits while the front link of the stack carries nothing (R11). -/
def execEvstatOvfClear (s : State) : Host.Outcome State Fault Refusal :=
  .next (if s.ev.v.getLsbD 8 = true ∧ (s.source s.ev.k).outbox.length < 32 ∧ s.frontUp s.ev.k = true then
      s.setOvf s.ev.k false
    else s)

end Sys2Proof.Machine
end

