-- ==== Sys2Proof/Machine/Launch.lean ====
section
/-!
DEFINITION. Launch records and their checks (R348, R349), admission against the energy account (R421), distribution (R31, R32),
completion elements (R350), and graph instances (R351, R352, R398).
-/
namespace Sys2Proof.Machine

/-! ## Fields of a launch record (R348) -/

/-- KIND. -/
def Launch.kind (l : Launch) : Nat := l.fld 7 0
/-- The watchdog interval in ns; 0 for none. -/
def Launch.interval (l : Launch) : Nat := if l.fld 31 27 = 0 then 0 else 2 ^ l.fld 31 27 * 1000
/-- CQV. -/
def Launch.cqv (l : Launch) : Bool := bitOf l.record 560
/-- Blocks of the grid. -/
def Launch.blocks (l : Launch) : Nat := l.gx * l.gy * l.gz

/-- A field of w bits at bit `lo` replaced. -/
def putBits (x lo w v : Nat) : Nat := x - slice x (lo + w - 1) lo * 2 ^ lo + v % 2 ^ w * 2 ^ lo

/-- ASID and VMID of a record replaced. -/
def underSpace (r : Nat) (asid : BitVec 16) (vmid : BitVec 14) : Nat := putBits (putBits r 608 16 asid.toNat) 624 14 vmid.toNat

/-- A reserved bit of a launch record is set (R349 reason 0x02). -/
def recordReserved (r : Nat) : Bool :=
  [(1023, 704), (639, 638), (575, 561), (543, 538), (495, 495), (319, 313), (255, 249), (191, 185)].any fun x => slice r x.1 x.2 != 0

/-- Every field lies in its range and the allocations within R13 (R349 reason 0x03); reserved values of ET, RM and USE lie in
none. -/
def Launch.inRange (l : Launch) : Bool :=
  decide (1 ≤ l.ngrp ∧ l.ngrp ≤ 32) && decide (1 ≤ l.nln ∧ l.nln ≤ 32) && decide (1 ≤ l.regs ∧ l.regs ≤ 128) &&
    decide (1 ≤ l.clus ∧ l.clus ≤ 8) && decide (1 ≤ l.gx) && decide (1 ≤ l.gy) && decide (1 ≤ l.gz) && decide (l.parBytes ≤ 4096) &&
    decide (l.sBytes ≤ 196608) && decide (l.wBytes ≤ 262144) && decide (l.xBytes ≤ 131072) && decide (l.cBytes ≤ 262144) &&
    decide (l.fld 519 516 ≤ 11) && decide (l.fld 522 520 ≤ 5) && decide (l.fld 534 532 ≤ 4)

/-! ## What the command processor reads -/

/-- Read `n` bytes at a VA of a launch's address space, page by page; none where a page cannot be read without a fault. -/
def State.readVa (l : Launch) (kind : Nat) : Nat → Nat → Nat → State → Option (List Byte) × State
  | 0, _, _, s => (some [], s)
  | fuel + 1, va, n, s =>
    if n = 0 then (some [], s)
    else
      let k := min n (4096 - va % 4096)
      let t := s.portTranslate l (va % 2 ^ 57) kind
      match t.1 with
      | .error _ => (none, t.2)
      | .ok (pa, _) =>
        if (t.2.poisonAt (.glb pa) k).isSome then (none, t.2)
        else
          let r := State.readVa l kind fuel (va + k) (n - k) t.2
          (r.1.map fun rest => t.2.readMem pa k ++ rest, r.2)

/-- Read all bytes of a range. -/
def State.readSpan (s : State) (l : Launch) (kind va n : Nat) : Option (List Byte) × State := State.readVa l kind (n / 4096 + 2) va n s

/-- The k-byte entries of a table. -/
def entriesOf (k : Nat) : Nat → List Byte → List Nat
  | 0, _ => []
  | n + 1, l => leNat (l.take k) :: entriesOf k n (l.drop k)

/-- The `.preempt` table passes R96: COFF rises strictly, is a multiple of 4 and lies in the kernel's `.text`; reserved bits
are 0. -/
def Launch.tableOk (l : Launch) : Nat → List Nat → Bool
  | _, [] => true
  | lo, e :: r =>
    decide (lo ≤ slice e 31 0) && slice e 31 0 % 4 == 0 && l.inText (l.entry + slice e 31 0) && slice e 255 233 == 0 &&
      slice e 231 231 == 0 && l.tableOk (slice e 31 0 + 1) r

/-- The layout record that a record names (R349 reason 0x06): none for a failure. -/
def State.recordLayout (s : State) (l : Launch) : Option (Option Nat) × State :=
  if bitOf l.record 20 then
    let r := s.layoutRecord 4096 l.part l.asid (l.fld 26 21)
    match r.1 with
    | some x => (if layoutValid x && layoutAccepted x then some (some x) else none, r.2)
    | none => (none, r.2)
  else (some none, s)

/-- The completion queue of a record with CQV = 1 (R349 reason 0x09). A queue of another package is held to pass or fail by a free
value. -/
def State.recordQueue (s : State) (l : Launch) : Option Handle × State :=
  let vqn := l.fld 559 544
  let r := s.queueEntry 4 l.part l.asid vqn
  match r.1 with
  | none => (none, r.2)
  | some e =>
    let hd := e.handle vqn rightPut
    let d := s.desc hd.win hd.pq
    let ok := if e.pkg = s.pkg.toNat then d.valid && d.kind == 0 && decide (1 ≤ d.esz) else (Config.free s.tick 90).toNat % 2 == 1
    (if e.rights % 2 = 1 ∧ ok = true then some hd else none, r.2)

/-- The checks of R349 on a KIND 1 record, in order: the reason of the first failure, or the launch with its parameters, table, layout
snapshot and completion queue. -/
def State.checkGrid (s : State) (l : Launch) : Except Nat Launch × State :=
  if l.kind ≠ 1 ∨ l.fld 15 8 ≠ 1 then (.error 1, s)
  else if recordReserved l.record then (.error 2, s)
  else if !l.inRange then (.error 3, s)
  else
    let par := s.readSpan l kindR (l.fld 248 192) l.parBytes
    let pre := par.2.readSpan l kindR (l.fld 312 256) (32 * l.fld 511 496)
    let ent := pre.2.readSpan l kindX l.entry 4
    let s := ent.2
    match par.1, pre.1, ent.1 with
    | some p, some t, some _ =>
      if l.entry % 4 ≠ 0 then (.error 4, s)
      else
        let l := { l with params := p, table := entriesOf 32 (l.fld 511 496) t }
        if !(l.tableOk 0 l.table) then (.error 5, s)
        else
          let y := s.recordLayout l
          match y.1 with
          | none => (.error 6, y.2)
          | some rec_ =>
            if 512 < l.granules then (.error 7, y.2)
            else if l.cqv then
              let q := y.2.recordQueue l
              if q.1.isSome then (.ok { l with layout := rec_, cq := q.1 }, q.2) else (.error 9, q.2)
            else (.ok { l with layout := rec_ }, y.2)
    | _, _, _ => (.error 4, s)

/-! ## Completion (R350, R67) -/

/-- A completion element. -/
def Launch.element (l : Launch) (status reason time : Nat) : List Byte :=
  leBytes 32 (packFields [(l.lid, 64), (l.fld 607 576, 32), (status, 8), (reason, 8), (0, 16), (time, 64), (0, 64)])

/-- A put by a command processor: it waits at the home port for a cell. -/
def State.cpPut (s : State) (pkg win pq dtag kind vqn : Nat) (data : List Byte) : State :=
  s.sendMsg { req := 0, pkg := pkg, win := win, pq := pq, dtag := dtag, kind := kind, vqn := vqn, prod := .cp, blk := 0, gid := 0,
              sent := 0, epoch := 0, body := .put data }

/-- The completion element of a launch with CQV = 1, to its completion queue. -/
def State.putCompletion (s : State) (l : Launch) (status reason : Nat) : State :=
  match l.cq with
  | some hd => s.cpPut hd.pkg hd.win hd.pq hd.dtag 0 hd.vqn (l.element status reason s.time)
  | none => s

/-- A launch-record error: the completion element, or a KIND 8 record where CQV is 0 or the completion queue cannot be named
(R349, R350). -/
def State.recordError (s : State) (l : Launch) (reason : Nat) : State :=
  let q := if l.cqv then s.recordQueue l else (none, s)
  match q.1 with
  | some hd => q.2.putCompletion { l with cq := some hd } 1 reason
  | none => q.2.record 4 { kind := 8, launch := l.lid, val := reason }

/-! ## Distribution (R31, R32, R37) -/

/-- The block index of a linear index (R36). -/
def Launch.index (l : Launch) (lin : Nat) : Nat × Nat × Nat :=
  (lin % max 1 l.gx, lin / max 1 l.gx % max 1 l.gy, lin / (max 1 l.gx * max 1 l.gy))

/-- Unstarted blocks of a stack. -/
def State.unstartedOn (s : State) (stk : Nat) : Nat :=
  (s.launches.map fun l => (l.waiting.filter fun u => u.stk == stk).length).sum

/-- The stack of fewest unstarted blocks, the lowest on equal counts. -/
def State.idlest (s : State) : Nat := (minBy? s.unstartedOn (List.range 4)).getD 0

/-- Distribute `n` cluster launches from a linear index on (R32, R37). Whether the die distributor holds one or hands it to a cluster
distributor, and which, is a free value. -/
def State.distribute (u : Nat) : Nat → Nat → State → State
  | 0, _, s => s
  | n + 1, lin, s =>
    match s.launch? u with
    | none => s
    | some l =>
      let size := max 1 l.clus
      let lins := (List.range size).filterMap fun k => if lin + k < l.total then some (lin + k) else none
      let x := l.index lin
      let stk := match l.layout with | some r => layoutStack r x.1 x.2.1 | none => s.idlest
      let c := (Config.free s.tick (256 + lin)).toNat % 25
      let clus := if c = 24 then none else some c
      State.distribute u n (lin + size) (s.updLaunch u fun l =>
        { l with waiting := l.waiting ++ lins.map fun k => { lin := k, stk := stk, clus := clus } })

/-- A grid is admitted with an energy pool, and its blocks are distributed, all in this one step (assumption 104). MODE<15:14> of the record
are ignored (R111). -/
def State.startGrid (s : State) (l : Launch) (pool : Int) : State :=
  let u := s.nextUid
  let l := { l with uid := u, record := putBits l.record 526 2 0, gpool := pool, total := l.blocks, waiting := [], retired := 0, held := false,
                    used := 0, status := 0, start := u }
  State.distribute u (ceilDiv l.total (max 1 l.clus)) 0 { s with launches := s.launches ++ [l], nextUid := u + 1 }

/-! ## Graphs (R397, R398, R352) -/

/-- What the copy of a graph table gives: a failure, not ready, or the header, entries, templates and descriptors. -/
inductive GraphCopy where
  | bad
  | aside
  | ok (hdr : Nat) (nodes : List Nat) (tmpl : List Launch) (pqs : List Nat)
  deriving DecidableEq, Repr

/-- NNODE. -/
def graphNodes (hdr : Nat) : Nat := slice hdr 39 32
/-- COAL of a node entry. -/
def nodeCoal (e : Nat) : Nat := slice e 1039 1024
/-- ESZ code of a node entry. -/
def nodeEsz (e : Nat) : Nat := slice e 1042 1040
/-- ORDER. -/
def nodeOrder (e : Nat) : Bool := bitOf e 1043
/-- ROOT. -/
def nodeRoot (e : Nat) : Bool := bitOf e 1055
/-- The successors of a node entry. -/
def nodeSucc (e : Nat) : List Nat := (List.range (slice e 1047 1044)).map fun j => slice e (1071 + 16 * j) (1056 + 16 * j)

/-- A node entry passes the checks of R398 that do not need its template. -/
def nodeOk (n e : Nat) : Bool :=
  slice e 1054 1048 == 0 && slice e 2047 1184 == 0 && decide (slice e 1047 1044 ≤ 8) && decide (1 ≤ nodeCoal e) &&
    decide (1 ≤ nodeEsz e ∧ nodeEsz e ≤ 4) && (nodeSucc e).all (fun k => decide (k < n)) &&
    decide (slice e 494 484 * 4 + nodeCoal e * eszBytes (nodeEsz e) ≤ 4096)

/-- The template of a node under the instance's address space. -/
def Launch.template (l : Launch) (e : Nat) : Launch := { l with record := underSpace (e % 2 ^ 1024) l.asid l.vmid, cq := none }

/-- Check the templates of a list of entries. -/
def State.checkTemplates (l : Launch) : List Nat → State → Option (List Launch) × State
  | [], s => (some [], s)
  | e :: r, s =>
    let t := s.checkGrid (l.template e)
    match t.1 with
    | .error _ => (none, t.2)
    | .ok x =>
      let y := State.checkTemplates l r t.2
      (y.1.map fun ts => x :: ts, y.2)

/-- The descriptor of an instance's input queue: KIND 3 with the node's ESZ, ORDER and COAL, and the launch's ASID as DTAG; the other
fields stay as the driver set them (R398). -/
def Desc.forNode (d : Desc) (l : Launch) (e : Nat) : Desc :=
  { d with valid := true, kind := 3, dep := false, order := nodeOrder e, esz := nodeEsz e, coal := nodeCoal e, dtag := l.asid.toNat,
           head := 0, rsv := 0, puts := 0, takes := 0, cells := [], wake := [], bind := none }

/-- A free descriptor of the pool: not VALID, and one that R326 would take for the node. -/
def State.poolFree (s : State) (l : Launch) (e pq : Nat) : Bool :=
  !(s.desc 4 pq).valid && !(s.descBad 4 pq ((s.desc 4 pq).forNode l e))

/-- Assign descriptors of the pool to nodes, the lowest free first. -/
def State.poolFor (s : State) (l : Launch) : List Nat → List Nat → Option (List Nat)
  | [], _ => some []
  | e :: r, pool => match pool.find? (s.poolFree l e) with
    | none => none
    | some pq => (s.poolFor l r (pool.filter fun x => x != pq)).map fun l => pq :: l

/-- Two records launch the same graph. -/
def Launch.sameGraph (l x : Launch) : Bool :=
  x.kind == 2 && x.part == l.part && decide (x.asid = l.asid) && decide (x.vmid = l.vmid) && x.fld 703 640 == l.fld 703 640

/-- An earlier instance of the same graph has not completed (R352): it runs, or its record arrived before `seq` and waits for admission. -/
def State.graphBusy (s : State) (l : Launch) (seq : Nat) : Bool :=
  (s.insts.any fun i => l.sameGraph i.l) || s.admits.any fun a => decide (a.seq < seq) && l.sameGraph a.l

/-- Copy a graph table and check it (R398, R349 reason 0x08); `seq` is the record's place in the order of arrival. -/
def State.copyGraph (s : State) (l : Launch) (seq : Nat) : GraphCopy × State :=
  let gva := l.fld 703 640
  let h := s.readSpan l kindR gva 64
  match h.1 with
  | none => (.bad, h.2)
  | some bytes =>
    let hdr := leNat bytes
    let n := graphNodes hdr
    if hdr % 2 = 1 then (.aside, h.2)
    else if slice hdr 511 76 ≠ 0 ∨ slice hdr 51 49 ≠ 0 ∨ slice hdr 47 40 ≠ 0 then (.bad, h.2)
    else
      let b := h.2.readSpan l kindR (gva + 64) (256 * n)
      match b.1 with
      | none => (.bad, b.2)
      | some bytes =>
        let nodes := entriesOf 256 n bytes
        if !(nodes.all (nodeOk n)) || !(nodes.any nodeRoot) then (.bad, b.2)
        else
          let t := State.checkTemplates l nodes b.2
          match t.1 with
          | none => (.bad, t.2)
          | some tmpl =>
            let pool := (List.range (slice hdr 75 64)).map fun k => slice hdr 63 52 + k
            match (if bitOf hdr 48 && t.2.graphBusy l seq then none else t.2.poolFor l nodes pool) with
            | none => (.aside, t.2)
            | some pqs => (.ok hdr nodes tmpl pqs, t.2)

/-- The checks of R349 on a KIND 2 record: the reason of a failure, not ready (none), or the copy with the completion queue. -/
def State.checkGraph (s : State) (l : Launch) (seq : Nat) : Except Nat (Option (Launch × GraphCopy)) × State :=
  if l.kind ≠ 2 ∨ l.fld 15 8 ≠ 1 then (.error 1, s)
  else if recordReserved l.record then (.error 2, s)
  else
    let g := s.copyGraph l seq
    match g.1 with
    | .bad => (.error 8, g.2)
    | c =>
      let q := if l.cqv then g.2.recordQueue l else (none, g.2)
      if l.cqv ∧ q.1 = none then (.error 9, q.2)
      else if c = .aside then (.ok none, q.2) else (.ok (some ({ l with cq := q.1 }, c)), q.2)

/-- Write the descriptors of an instance. -/
def State.openNodes (l : Launch) : List (Nat × Nat) → State → State
  | [], s => s
  | (pq, e) :: r, s => State.openNodes l r (s.changeDesc 4 pq fun d => { d.forNode l e with owner := s.someOwner })

/-- Launch a grid of a node from its template with records behind its parameters (R351): GPOOL is drawn from the instance's pool
without waiting (R421). -/
def State.startNode (s : State) (iu node : Nat) (records : List Byte) : State :=
  match s.insts.find? fun i => i.uid == iu with
  | none => s
  | some i => match nth? i.tmpl node with
    | none => s
    | some t =>
      let g := min (Int.ofNat t.etot) i.pool
      ({ s with insts := s.insts.map fun (i : Inst) => if i.uid = iu then { i with pool := i.pool - g } else i }).startGrid
        { t with params := t.params ++ records, inst := some (iu, node) } g

/-- Start a graph instance: its descriptors, and one grid of each ROOT node (R352, R398). -/
def State.startInst (s : State) (l : Launch) : GraphCopy → State
  | .ok hdr nodes tmpl pqs =>
    let u := s.nextUid
    let s := State.openNodes l (pqs.zip nodes) { s with nextUid := u + 1 }
    let s := { s with insts := s.insts ++ [{ uid := u, l := { l with uid := u }, hdr := hdr, nodes := nodes, tmpl := tmpl, pqs := pqs,
                                              pool := l.etot, used := 0 }] }
    (nodes.zipIdx.filter fun x => nodeRoot x.1).foldl (fun s x => s.startNode u x.2 []) s
  | _ => s

/-! ## Admission (R421) -/

/-- The registers of R432 as the codes of `Partition.written`: a front register by offset / 8, a register of stack s by 16 + 16 s +
offset / 8. -/
def partitionRegs : List Nat :=
  [1, 4, 5, 6, 7, 8] ++ (List.range 4).flatMap fun k => (List.range 9).map fun r => 16 + 16 * k + r

/-- PCTL.READY: every register of R432 has been written since EXIST was set. -/
def Partition.ready (p : Partition) : Bool := p.exist && partitionRegs.all fun r => p.written.contains r

/-- The ready record at the head of admission: the highest priority, then the earliest. -/
def State.admitHead (s : State) : Option Admit :=
  minBy? (fun a => (7 - a.l.prio) * 2 ^ 64 + a.seq) (s.admits.filter fun a => !a.aside && (s.part a.l.part).ready)

/-- The account covers a launch. -/
def State.covers (s : State) (l : Launch) : Bool :=
  let p := s.part l.part
  decide (min (Int.ofNat l.etot) p.emax ≤ p.eacct)

/-- VER of the graph that a record names reads odd: an edit is under way (R398, R399). -/
def State.verOdd (s : State) (l : Launch) : Bool :=
  match (s.readSpan l kindR (l.fld 703 640) 64).1 with | some bytes => leNat bytes % 2 == 1 | none => false

/-- What admission reads of VER of a record that is set aside (R399). -/
def State.oddSince (s : State) (l : Launch) (before : Option Nat) : Option Nat :=
  if s.verOdd l then some (before.getD s.time) else none

/-- Admit the head of admission, if the account covers it: EACCT falls by ETOT and the pool becomes ETOT. The snapshot of the layout record is
taken now (R384). A graph record that is no longer ready is set aside again. None where nothing changes. -/
def State.admitOne (s : State) : Option State :=
  match s.admitHead with
  | none => none
  | some a =>
    if s.covers a.l then
      let s := { s with admits := s.admits.filter fun x => x.seq != a.seq }
      let pay (s : State) : State := s.updPart a.l.part fun p => { p with eacct := p.eacct - Int.ofNat a.l.etot }
      if a.l.kind = 2 then
        let c := s.checkGraph a.l a.seq
        match c.1 with
        | .error r => some (c.2.recordError a.l r)
        | .ok none => some { c.2 with admits := c.2.admits ++ [{ a with aside := true, odd := c.2.oddSince a.l none, wdog := false }] }
        | .ok (some (l, g)) => some ((pay c.2).startInst l g)
      else
        let y := s.recordLayout a.l
        match y.1 with
        | none => some (y.2.recordError a.l 6)
        | some rec_ => some ((pay y.2).startGrid { a.l with layout := rec_ } a.l.etot)
    else none

/-- Admit while the head of admission can be admitted. -/
def State.admitAll : Nat → State → State
  | 0, s => s
  | n + 1, s => match s.admitOne with
    | none => s
    | some s => State.admitAll n s

/-- Admission runs. -/
def State.admission (s : State) : State := State.admitAll (s.admits.length + 1) s

/-- A grid or instance settles its use with the account (R421). -/
def State.settle (s : State) (l : Launch) (used : Nat) : State :=
  (s.updPart l.part fun p =>
    { p with eacct := min (p.eacct + Int.ofNat l.etot - Int.ofNat (ceilDiv used 1024)) p.emax }).admission

/-! ## The end of grids and instances (R66, R67, R351, R352) -/

/-- A put to an input queue of an instance is on its way. -/
def State.feeding (s : State) (i : Inst) : Bool := s.net.any fun m => m.win == 4 && m.pkg == s.pkg.toNat && i.pqs.contains m.pq

/-- An instance completes when its grids have completed and no input queue holds a dequeueable record (R352): its descriptors return
to the pool. -/
def State.finishInst (s : State) (iu : Nat) : State :=
  match s.insts.find? fun i => i.uid == iu with
  | none => s
  | some i =>
    if (s.launches.any fun l => (l.inst.map fun x => x.1) == some iu) || s.feeding i || i.pqs.any fun q => !(s.desc 4 q).ready.isEmpty then s
    else
      let s := i.pqs.foldl (fun s q => s.changeDesc 4 q fun d => { d with valid := false }) s
      let s := { s with insts := s.insts.filter fun x => x.uid != iu }
      (s.putCompletion i.l 0 0).settle i.l i.used

/-- A completed node grid emits its completion element into each successor's input queue (R351). -/
def State.emitSuccessors (s : State) (l : Launch) (i : Inst) (node : Nat) : State :=
  (nodeSucc (nth 0 i.nodes node)).foldl (fun s k =>
    s.cpPut s.pkg.toNat 4 (nth 0 i.pqs k) i.l.asid.toNat 3 (0xFF00 + k) (l.element l.status 0 s.time)) s

/-- A grid completes when it has no block left (R67). -/
def State.finishGrid (s : State) (u : Nat) : State :=
  match s.launch? u with
  | none => s
  | some l =>
    if !l.waiting.isEmpty || s.blocks.any fun b => b.launch == u then s
    else
      let s := { s with launches := s.launches.filter fun x => x.uid != u }
      let s := s.putCompletion l l.status 0
      match l.inst with
      | none => s.settle l l.used
      | some (iu, node) =>
        let s := { s with insts := s.insts.map fun (i : Inst) => if i.uid = iu then { i with used := i.used + l.used } else i }
        let s := match s.insts.find? fun i => i.uid == iu with
          | some i => s.emitSuccessors l i node
          | none => s
        s.finishInst iu

/-- A block that a pre-emption record asked for has been saved, or is gone: the KIND 11 record follows the last (R211). -/
def State.preemptDone (s : State) (u : Nat) (saved : Bool) : State :=
  let q := s.prereqs.map fun (r : PreReq) =>
    if r.left.contains u then { r with left := r.left.filter fun x => x != u, saved := r.saved + b2n saved } else r
  (q.filter fun r => r.left.isEmpty).foldl (fun s r => s.record 4 { kind := 11, launch := r.lid, val := r.saved })
    { s with prereqs := q.filter fun r => !r.left.isEmpty }

/-- A block leaves the package for good (R66, R343, R393, R422): its handles close, its subscriptions and those it feeds end, its positive
reservation returns to GPOOL, and its energy counts for the launch. -/
def State.freeBlock (s : State) (u : Nat) : State :=
  match s.block? u with
  | none => s
  | some b =>
    let s := s.flushSubs (fun v _ e => v != u && e.pblk == b.lin && (e.st == 1 || e.st == 2) && match s.block? v with
      | some q => q.launch == b.launch
      | none => false) true true
    let s := (b.handles.map fun x => x.1).foldl (fun s h => s.closeHandle u 0 h) s
    let s := s.updLaunch b.launch fun l =>
      { l with used := l.used + b.eused, retired := l.retired + 1, gpool := l.gpool + max 0 (b.eres / 1024) }
    let s := { s with blocks := s.blocks.filter (fun x => x.uid != u),
                      poisoned := s.poisoned.filter fun q => match q with | .buf v _ _ => v != u | .glb _ => true }
    ((s.granulesFreed b.stk b.core).preemptDone u false).finishGrid b.launch

end Sys2Proof.Machine
end

