-- ==== Sys2Proof/Machine/LaunchOps.lean ====
section
/-!
DEFINITION. The events of launches: taking and admitting records (R349, R421), placing, stealing and foraging blocks (R31 to R37),
retirement (R66), graph nodes (R351), the watchdog, throttling (R422), YIELDREQ (R59) and the rotation of splits (R43).
-/
namespace Sys2Proof.Machine

/-! ## Taking launch records (R348, R349) -/

/-- The launch that a record of a launch queue stands for: privileged from a queue with SYS = 1, else under the ASID and VMID of the
queue's owner (R348). -/
def Desc.launchOf (d : Desc) (r : Nat) : Launch :=
  { Launch.empty with part := d.owner.1, priv := d.sys, record := if d.sys then r else underSpace r d.owner.2.1 d.owner.2.2 }

/-- Take the next record of launch queue `ev.g`, if it is of the kinds given and the partition admits launches (R432). -/
def State.takeRecord (s : State) (graph : Bool) (f : Launch → State → State) : State :=
  let d := s.desc 4 s.ev.g
  match d.ready with
  | [] => s
  | seq :: _ =>
    let r := leNat ((s.readCells 4 d seq d.cellsPer).take 128)
    if d.valid = false ∨ d.kind ≠ 2 ∨ (r % 256 == 2) ≠ graph ∨ (s.part d.owner.1).ready = false then s
    else f (d.launchOf r) (s.takeElement 4 s.ev.g seq).2

/-- A record comes to admission, ready or set aside. -/
def State.enqueueAdmit (s : State) (l : Launch) (aside : Bool) : State :=
  { s with admits := s.admits ++ [{ seq := s.nextUid, l := l, aside := aside, odd := if aside then s.oddSince l none else none, wdog := false }],
           nextUid := s.nextUid + 1 }

/-- LAUNCH_GRID: a command processor takes a record of launch queue `ev.g` that is not of KIND 2, checks it, and admission runs. -/
def execLaunchGrid (s : State) : Host.Outcome State Fault Refusal :=
  .next (s.takeRecord false fun l s =>
    let c := s.checkGrid l
    match c.1 with
    | .error r => c.2.recordError l r
    | .ok l => (c.2.enqueueAdmit l false).admission)

/-- LAUNCH_GRAPH: a command processor takes a KIND 2 record of launch queue `ev.g`; one that is not ready is set aside (R421). -/
def execLaunchGraph (s : State) : Host.Outcome State Fault Refusal :=
  .next (s.takeRecord true fun l s =>
    let c := s.checkGraph l s.nextUid
    match c.1 with
    | .error r => c.2.recordError l r
    | .ok x => (c.2.enqueueAdmit l x.isNone).admission)

/-- HELD_RECORD_READY: record `ev.k` of admission, set aside, has become ready (R421). -/
def execHeldRecordReady (s : State) : Host.Outcome State Fault Refusal :=
  .next (match nth? s.admits s.ev.k with
    | none => s
    | some a =>
      if !a.aside then s
      else
        let c := s.checkGraph a.l a.seq
        match c.1 with
        | .error r => State.recordError { c.2 with admits := c.2.admits.filter fun x => x.seq != a.seq } a.l r
        | .ok none => { c.2 with admits := c.2.admits.map fun (x : Admit) => if x.seq = a.seq then { x with odd := c.2.oddSince a.l x.odd } else x }
        | .ok (some _) =>
          { c.2 with admits := c.2.admits.map fun (x : Admit) => if x.seq = a.seq then { x with aside := false } else x }.admission)

/-- ENERGY_REFILL: at a microsecond of TIME every partition's EACCT gains PCAP up to EMAX (R420), and admission runs. -/
def execEnergyRefill (s : State) : Host.Outcome State Fault Refusal :=
  .next (if (s.refills + 1) * 1000 ≤ s.time then
      { s with refills := s.refills + 1,
               parts := s.parts.map fun (x : Nat × Partition) =>
                 (x.1, { x.2 with eacct := min (x.2.eacct + Int.ofNat x.2.pcap) x.2.emax }) }.admission
    else s)

/-! ## Placement (R31, R36, R37) -/

/-- Work may be placed on cores of a stack: nothing earlier of its distributor fits anywhere, the cores are distinct cores of one
cluster, and no cluster launch holds it back (R36, R37). -/
def State.mayPlace (s : State) (stk : Nat) (w : Work) (cores : List Nat) : Bool :=
  cores.length == w.size && !(hasRepeat cores) &&
    ((s.workOn stk).all fun x => !(decide (x.clus = w.clus) && decide (x.key < w.key) && s.fitsAnywhere stk x)) &&
    cores.all fun c => c / 8 == nth 0 cores 0 / 8 && (w.clus.isNone || w.clus == some (c / 8)) && !(s.heldBack stk w (c / 8))

/-- Start a block on a core (R31, R98, R101, R118, R220, R422): every group with its lanes, s1 and s2; buffers zero. -/
def State.startBlock (s : State) (l : Launch) (lin stk core rank : Nat) : State :=
  let u := s.nextUid
  let x := l.index lin
  let pool := match s.launch? l.uid with | some y => y.gpool | none => 0
  let g := min (Int.ofNat (l.etot / l.blocks)) (max 0 pool)
  let b : Block :=
    { uid := u, launch := l.uid, lin := lin, bx := x.1, blky := x.2.1, bz := x.2.2, stk := stk, core := core, rank := rank,
      seq := s.cycle stk, place := .resident, nln := l.nln, baseN := l.regs, S := [], W := [], X := [], C := [],
      par := Sparse.write [] 0 l.params, sSize := l.sBytes, wSize := l.wBytes, xSize := l.xBytes, cSize := l.cBytes,
      parSize := l.params.length, bar := 2 ^ 6, cbseq := 0, cbdone := 0, mbseq := 0, mbdone := 0, cbopen := false, mbopen := false, copies := [],
      matops := [], gather := [], expect := [], arrivals := [], handles := [], subs := [], yieldreq := 0, eused := 0, eres := 1024 * g,
      throttled := false, groups := [], draining := [], conts := [], preempt := none, held := false, ending := false, wdogAt := 0,
      emptySince := s.time, poisonBatches := [], bars := [], far := [] }
  let s := ({ s with nextUid := u + 1, blocks := s.blocks ++ [b] }.updLaunch l.uid fun y => { y with gpool := y.gpool - g }).dropL1 stk core
  (List.range l.ngrp).foldl (fun s k => s.addGroup b k l.nln l.entry [(1, BitVec.ofNat 64 k), (2, BitVec.allOnes 64)]) s

/-- Ranks follow the core numbers (R221). -/
def rankOf (cores : List Nat) (c : Nat) : Nat := (cores.filter fun x => decide (x < c)).length

/-- BLOCK_PLACEMENT: the block or cluster launch with lowest linear index `ev.n` of launch `ev.k` starts on cores `ev.cores` of stack
`ev.b`, its blocks in ascending order (R31, R36, R37). -/
def execBlockPlacement (s : State) : Host.Outcome State Fault Refusal :=
  let stk := s.ev.b
  .next (match s.launch? s.ev.k, (s.workOn stk).find? fun w => !w.saved && w.launch == s.ev.k && w.lin == s.ev.n with
    | some l, some w =>
      if s.mayPlace stk w s.ev.cores && s.ev.cores.all fun c => s.fitsNew l stk c then
        let lins := (List.range w.size).map fun k => w.lin + k
        let s' := s.updLaunch l.uid fun y => { y with waiting := y.waiting.filter fun u => !(lins.contains u.lin) }
        (lins.zip s.ev.cores).foldl (fun t x => t.startBlock l x.1 stk x.2 (rankOf s.ev.cores x.2)) s'
      else s
    | _, _ => s)

/-- Work from the end of an order, whole cluster launches only: up to `want` blocks, and at least one unit. -/
def takeLast (want : Nat) : Nat → List Work → List Work
  | _, [] => []
  | got, w :: r => if got = 0 ∨ got + w.size ≤ want then w :: takeLast want (got + w.size) r else []

/-- Move unstarted work to a stack and a holder. -/
def State.moveWork (s : State) (ws : List Work) (stk : Nat) (clus : Option Nat) : State :=
  { s with launches := s.launches.map fun (l : Launch) =>
      { l with waiting := l.waiting.map fun u =>
          if ws.any fun w => w.launch == l.uid && l.clusterOf w.lin == l.clusterOf u.lin then { u with stk := stk, clus := clus } else u } }

/-- Half of the blocks of some work, rounded down, at least 1, those that would start last (R34, R35). -/
def lastHalf (ws : List Work) : List Work :=
  takeLast (max 1 ((ws.map (·.size)).sum / 2)) 0 (sortBy Work.key ws).reverse

/-- BLOCK_STEAL: the die distributor of stack `ev.b`, which has no unstarted block, steals homeless blocks (R34). -/
def execBlockSteal (s : State) : Host.Outcome State Fault Refusal :=
  let homeless (k : Nat) : List Work :=
    (s.newWork k).filter fun w => match s.launch? w.launch with | some l => l.layout.isNone | none => false
  let count (k : Nat) : Nat := ((homeless k).map (·.size)).sum
  .next (if 4 ≤ s.ev.b ∨ s.unstartedOn s.ev.b ≠ 0 then s
    else match minBy? (fun k => 2 ^ 100 - count k) ((List.range 4).filter fun k => k != s.ev.b) with
      | some k => s.moveWork (lastHalf (homeless k)) s.ev.b none
      | none => s)

/-- CLUSTER_FORAGE: cluster distributor `ev.k` of stack `ev.b`, which has no unstarted block, asks the next one that has (R35). -/
def execClusterForage (s : State) : Host.Outcome State Fault Refusal :=
  let stk := s.ev.b
  let held (c : Nat) : List Work := (s.newWork stk).filter fun w => w.clus == some c
  .next (if 24 ≤ s.ev.k ∨ held s.ev.k ≠ [] then s
    else match ((List.range 23).map fun k => (s.ev.k + 1 + k) % 24).find? fun c => !(held c).isEmpty with
      | some c => s.moveWork (lastHalf (held c)) stk (some s.ev.k)
      | none => s)

/-! ## Retirement (R66) -/

/-- A continuation stands armed on a barrier of a block. -/
def State.armed (s : State) (b : Block) : Bool := !b.conts.isEmpty || b.bars.any fun o => (s.readBar b o).ca

/-- A block retires when its groups have ended, nothing of theirs is in flight, no continuation is armed and its batches are
complete. -/
def State.mayRetire (s : State) (b : Block) : Bool :=
  decide (b.place = .resident) && b.groups.isEmpty && b.draining.isEmpty && !(s.armed b) && b.copies.isEmpty && b.matops.isEmpty

/-- BLOCK_RETIRE: block `ev.b` retires (R66); with its last block a grid completes (R67). -/
def execBlockRetire (s : State) : Host.Outcome State Fault Refusal :=
  .next (match s.block? s.ev.b with
    | some b => if s.mayRetire b then s.freeBlock b.uid else s
    | none => s)

/-! ## Graph nodes (R351) -/

/-- Take n elements of a queue in its order. -/
def State.takeMany (w pq : Nat) : Nat → State → List Byte × State
  | 0, s => ([], s)
  | n + 1, s => match (s.desc w pq).ready with
    | [] => ([], s)
    | seq :: _ =>
      let r := s.takeElement w pq seq
      let t := State.takeMany w pq n r.2
      (r.1 ++ t.1, t.2)

/-- GRAPH_NODE_LAUNCH: node `ev.k` of instance `ev.b` has as many dequeueable records as COAL of its queue says (R326): a command processor
takes them and launches a grid. With fewer, the instance may be complete. -/
def execGraphNodeLaunch (s : State) : Host.Outcome State Fault Refusal :=
  .next (match s.insts.find? fun i => i.uid == s.ev.b with
    | none => s
    | some i => match nth? i.nodes s.ev.k, nth? i.pqs s.ev.k with
      | some _, some pq =>
        let n := (s.desc 4 pq).coal
        if 0 < n ∧ n ≤ (s.desc 4 pq).ready.length then
          let r := State.takeMany 4 pq n s
          r.2.startNode i.uid s.ev.k r.1
        else s.finishInst i.uid
      | _, _ => s)

/-! ## Watchdog, throttle, YIELDREQ, rotation -/

/-- The split of a block that has waited longest, with its group. -/
def Block.longestWait (b : Block) : Option (Group × Split) :=
  minBy? (fun x => x.2.waitT) (b.groups.flatMap fun g => (g.splits.filter fun p => decide (p.wait ≠ .none)).map fun p => (g, p))

/-- A WATCHDOG record of a block (R204, R212): a group and the WAIT code. -/
def State.watchRecord (s : State) (b : Block) (g : Option Group) (code : Nat) : State :=
  let l := s.launchOf b
  ((s.updBlock b.uid fun b => { b with wdogAt := s.time }).countFault b.stk 0x1D).record b.stk
    { kind := 5, cause := 0x1D, stk := b.stk, core := b.core, slot := g.elim 0 (·.slot), gid := g.elim 0 (·.gid),
      ctxid := g.elim 0 (·.ctxid.toNat), val := code, asid := l.asid.toNat, vmid := l.vmid.toNat, launch := l.lid }

/-- The watchdog of a block: its longest-waiting split, or a continuation that stays armed without groups (R66, R106). One record for
one wait. -/
def State.watchBlock (s : State) (b : Block) : State :=
  let n := (s.launchOf b).interval
  let due (t : Nat) : Bool := n != 0 && decide (t + n ≤ s.time) && decide (b.wdogAt ≤ t)
  if b.place ≠ .resident then s
  else match b.longestWait with
    | some (g, p) => if due p.waitT then s.watchRecord b (some g) p.wait.code else s
    | none => if b.groups.isEmpty && s.armed b && due b.emptySince then s.watchRecord b none 0 else s

/-- The watchdog of a graph record that is held aside because VER reads odd, as every reading of it has since a TIME (R399). -/
def State.watchHeld (s : State) (a : Admit) : State :=
  let odd := s.oddSince a.l a.odd
  let due := match odd with | some t => a.aside && !a.wdog && a.l.interval != 0 && decide (t + a.l.interval ≤ s.time) | none => false
  let t : State := { s with admits := s.admits.map fun (x : Admit) =>
    if x.seq = a.seq && x.aside then { x with odd := odd, wdog := x.wdog || due } else x }
  if due then t.record 4 { kind := 5, cause := 0x1D, asid := a.l.asid.toNat, vmid := a.l.vmid.toNat, launch := a.l.lid } else t

/-- WATCHDOG: the interval of block `ev.b`, or with `ev.lo` of record `ev.k` of admission, has passed. -/
def execWatchdog (s : State) : Host.Outcome State Fault Refusal :=
  .next (if s.ev.lo then (match nth? s.admits s.ev.k with | some a => s.watchHeld a | none => s)
    else match s.block? s.ev.b with
      | some b => s.watchBlock b
      | none => s)

/-- THROTTLE_CHANGE: block `ev.b` is throttled while ERES ≤ 0 (R422). -/
def execThrottleChange (s : State) : Host.Outcome State Fault Refusal :=
  .next (s.updBlock s.ev.b fun b => { b with throttled := decide (b.eres ≤ 0) })

/-- YIELD_REQUEST: the distributor writes `ev.n` to YIELDREQ of block `ev.b`, unless a pre-emption stands (R59, R65). -/
def execYieldRequest (s : State) : Host.Outcome State Fault Refusal :=
  .next (s.updBlock s.ev.b fun b => if b.preempt.isSome || decide (b.place ≠ .resident) then b else { b with yieldreq := s.ev.n % 64 })

/-- Rotate the splits of a group (R43): the one dormant longest becomes live, the one live longest and outside a chain dormant. -/
def Group.rotate (now : Nat) (g : Group) : Group :=
  let g := { g with rot := 0 }
  let old (l : List Split) : Option Split := minBy? (fun p => p.since * 2 ^ 64 + p.age) l
  let chained (p : Split) : Bool := match g.chain with | some c => c.age == p.age | none => false
  match old g.dormant, old (g.splits.filter fun p => p.live && !(chained p)) with
  | some d, some l =>
    (g.updSplit l.age fun p => { p with live := false, since := now }).updSplit d.age fun p =>
      { p with live := true, since := now, readyAt := now }
  | _, _ => g

/-- SPLIT_ROTATION: the rotation counter of group `ev.g` of block `ev.b` has reached 4,096 cycles and restarts (R43). -/
def execSplitRotation (s : State) : Host.Outcome State Fault Refusal :=
  .next (match s.block? s.ev.b with
    | none => s
    | some b =>
      if b.place = .resident then
        s.updGroup s.ev.b s.ev.g fun g => if 4096 ≤ g.rot ∧ g.suspended = false then g.rotate (s.cycle b.stk) else g
      else s)

end Sys2Proof.Machine
end

