-- ==== Sys2Proof/Machine/PreemptOps.lean ====
section
/-!
DEFINITION. Pre-emption and suspension from outside: resume records (R210), pre-emption records and requests (R60, R211), the save of
a block in its context area (R213 to R216), and its restore (R64, R217).
-/
namespace Sys2Proof.Machine

/-! ## Context pools (R214) -/

/-- The context pool of a partition on a stack: its base and size. -/
def State.pool (s : State) (part stk : Nat) : Nat × Nat :=
  let p := s.part part
  (field (nth 0 p.cpbase stk) 55 12 * 4096, field (nth 0 p.cpsize stk) 47 0)

/-- A range of a pool is aligned to 4 KiB, lies in the pool and meets no area. -/
def State.areaFree (s : State) (part stk pa n : Nat) : Bool :=
  let q := s.pool part stk
  pa % 4096 == 0 && decide (q.1 ≤ pa) && decide (pa + n ≤ q.1 + q.2) && s.areas.all fun a => !(meets a.pa a.size pa n)

/-- A free place for an area: the base of the pool or the first aligned place behind an area. -/
def State.hole (s : State) (part stk n : Nat) : Option Nat :=
  ((s.pool part stk).1 :: s.areas.map fun a => roundUp (a.pa + a.size) 4096).find? fun pa => s.areaFree part stk pa n

/-- A pool can hold areas of some sizes at once. -/
def State.poolHolds (part stk : Nat) : List Nat → State → Bool
  | [], _ => true
  | n :: r, s => match s.hole part stk n with
    | none => false
    | some pa => State.poolHolds part stk r { s with areas := { part := part, stk := stk, pa := pa, size := n } :: s.areas }

/-- Free the area at a PA. -/
def State.freeArea (s : State) (pa : Nat) : State := { s with areas := s.areas.filter fun a => a.pa != pa }

/-- The size of a block's context area when every group is saved in full (R215, R216). -/
def Block.fullArea (b : Block) : Nat :=
  256 + (b.groups.map fun g => roundUp (0x800 + 128 * g.bound) 256).sum + roundUp b.sSize 256 + roundUp b.wSize 256 +
    roundUp b.xSize 256 + roundUp b.cSize 256 + roundUp (16 + 16 * b.conts.length) 256 + 256 + 512

/-! ## The image of a group (R116, R216) -/

/-- The rank of an age among the splits of a group. -/
def Group.rank (g : Group) (a : Nat) : Nat := (g.splits.filter fun p => decide (p.age < a)).length

/-- An entry of the split table (R116). -/
def Split.tableEntry (rank : Nat) (p : Split) : Nat :=
  packFields [(p.pc.toNat, 57), (0, 7), (p.mask.toNat, 32), (p.mode.toNat, 16), (p.mmode.toNat, 10), (0, 6), (p.gang.toNat, 42), (rank, 5),
    (if p.live then 1 else 2, 2), (p.wait.code, 4), (p.qdone, 6), (0, 69)]

/-- The split table: the live splits in the first 4 entries, the dormant ones behind them. -/
def Group.splitTable (g : Group) : List Nat :=
  let part (live : Bool) (n : Nat) : List Nat :=
    let l := (sortBy (·.age) (g.splits.filter fun p => p.live == live)).map fun p => p.tableEntry (g.rank p.age)
    (l ++ List.replicate n 0).take n
  part true 4 ++ part false 28

/-- The handler save: MODE, MMODE, GANG, age and lanes of the faulting split. The spec does not lay these 32 bytes out. -/
def Group.handlerSave (g : Group) : Nat :=
  match g.handler with
  | none => 0
  | some h => packFields [(h.mode.toNat, 16), (h.mmode.toNat, 10), (0, 6), (h.gang.toNat, 42), (g.rank h.age, 5), (0, 17), (h.mask.toNat, 32)]

/-- The record of a group with the registers of a mask (R216). -/
def Group.image (full : Bool) (vmask : Nat) (g : Group) : List Byte :=
  let regs := (List.range 128).filter fun r => bitOf vmask r
  leBytes 64 (packFields [(g.gid, 5), (0, 3), (b2n g.attached, 1), (b2n g.suspended, 1), (b2n g.handler.isSome, 1), (b2n full, 1), (0, 20),
      (0x800 + 128 * regs.length, 32), (g.ctxid.toNat, 64), (0, 64), (vmask, 128), (g.baseN, 8), (g.ext, 4), (0, 4), (g.bound, 8), (0, 168)]) ++
    [g.trapCause, g.trapPc, g.trapVal, g.trapLanes, g.trapVec, g.srseed.setWidth 64, g.aquant.setWidth 64, 0].flatMap (fun v => leBytes 8 v.toNat) ++
    (List.range 32).flatMap (fun l => leBytes 4 (nth 0 g.gens l).toNat) ++
    (List.range 64).flatMap (fun i => leBytes 8 (g.sreg i).toNat) ++
    (List.range 7).flatMap (fun i => leBytes 4 (g.preg i).toNat) ++ leBytes 4 0 ++ leBytes 32 g.handlerSave ++ List.replicate 192 0 ++
    g.splitTable.flatMap (leBytes 32) ++
    regs.flatMap fun r => (List.range 32).flatMap fun l => leBytes 4 (g.vreg r l).toNat

/-- The PAs of the group records of a context area, in order. -/
def State.recordsFrom (s : State) : Nat → Nat → List Nat
  | 0, _ => []
  | n + 1, pa => pa :: s.recordsFrom n (pa + roundUp (s.readNat (pa + 4) 4) 256)

/-- The record of a group in the context area at a PA. -/
def State.recordOf (s : State) (pa gid : Nat) : Option Nat :=
  (s.recordsFrom (s.readNat (pa + 5) 1) (s.sectionPa pa 0)).find? fun q => s.readNat q 1 % 32 == gid

/-- A split as the saved table has it; it is found by its rank. What the table does not hold comes from the split itself. -/
def Split.load (susp : Bool) (table : List Nat) (rank : Nat) (p : Split) : Split :=
  match table.find? fun e => slice e 176 175 != 0 && slice e 174 170 == rank with
  | none => p
  | some e =>
    { p with pc := BitVec.ofNat 57 (slice e 56 0), mask := BitVec.ofNat 32 (slice e 95 64), mode := BitVec.ofNat 16 (slice e 111 96),
             mmode := BitVec.ofNat 10 (slice e 121 112), gang := BitVec.ofNat 42 (slice e 169 128), live := slice e 176 175 == 1,
             qdone := slice e 186 181, wait := if p.wait = Wait.fault ∧ susp = false then .none else p.wait }

/-- A group as its saved record at a PA has it; a register that is not saved is 0 (R96, R120). -/
def State.loadGroup (s : State) (pa : Nat) (g : Group) : Group :=
  let rd (o n : Nat) : Nat := s.readNat (pa + o) n
  let flags := rd 0 4
  let regs := (List.range 128).filter fun r => bitOf (rd 24 16) r
  let table := (List.range 32).map fun k => rd (0x400 + 32 * k) 32
  { g with
    attached := bitOf flags 8, suspended := bitOf flags 9, baseN := rd 40 1, ext := rd 41 1 % 16,
    trapCause := BitVec.ofNat 64 (rd 0x40 8), trapPc := BitVec.ofNat 64 (rd 0x48 8), trapVal := BitVec.ofNat 64 (rd 0x50 8),
    trapLanes := BitVec.ofNat 64 (rd 0x58 8), trapVec := BitVec.ofNat 64 (rd 0x60 8), srseed := BitVec.ofNat 32 (rd 0x68 4),
    aquant := BitVec.ofNat 16 (rd 0x70 2), gens := (List.range 32).map fun l => BitVec.ofNat 32 (rd (0x80 + 4 * l) 4),
    s := Sparse.write [] 0 ((List.range 64).map fun i => BitVec.ofNat 64 (rd (0x100 + 8 * i) 8)),
    p := Sparse.write [] 0 ((List.range 7).map fun i => BitVec.ofNat 32 (rd (0x300 + 4 * i) 4)),
    v := Sparse.putAll [] (regs.zipIdx.flatMap fun x => (List.range 32).map fun l =>
      (32 * x.1 + l, BitVec.ofNat 32 (rd (0x800 + 128 * x.2 + 4 * l) 4))),
    splits := g.splits.map fun p => p.load (bitOf flags 9) table (g.rank p.age),
    handler := g.handler.map fun h =>
      let w := rd 0x320 32
      { h with mode := BitVec.ofNat 16 (slice w 15 0), mmode := BitVec.ofNat 10 (slice w 25 16), gang := BitVec.ofNat 42 (slice w 73 32),
               mask := BitVec.ofNat 32 (slice w 127 96) } }

/-! ## Resume records (R210) -/

/-- The partition whose resume queue a queue of the front port is (R438). -/
def State.resumePart (s : State) (pq : Nat) : Option Nat :=
  (s.parts.find? fun x => x.2.exist && bitOf x.2.resq.toNat 63 && field x.2.resq 11 0 == pq).map fun x => x.1

/-- A command processor takes the next record of resume queue `ev.g`, if a test picks it, for the queue's partition. -/
def State.takeResume (s : State) (pick : Nat → Bool) (f : Nat → Nat → State → State) : State :=
  let d := s.desc 4 s.ev.g
  match s.resumePart s.ev.g, d.ready with
  | some p, seq :: _ =>
    let r := leNat ((s.readCells 4 d seq d.cellsPer).take 32)
    if d.valid && d.kind == 6 && pick r then f p r (s.takeElement 4 s.ev.g seq).2 else s
  | _, _ => s

/-- KIND of a record of a resume queue. -/
def recKind (r : Nat) : Nat := slice r 7 0
/-- ACTION. -/
def recAction (r : Nat) : Nat := slice r 15 8
/-- CTXID of a resume record, or LID of a pre-emption record. -/
def recName (r : Nat) : Nat := slice r 127 64

/-- Whether a group is suspended: by its record while its block is saved. -/
def State.isSuspended (s : State) (b : Block) (g : Group) : Bool :=
  match b.place with
  | .saved pa size => if size = 0 then g.suspended else match s.recordOf pa g.gid with
    | some q => bitOf (s.readNat q 4) 9
    | none => g.suspended
  | .resident => g.suspended

/-- The suspended group of a context identifier in a partition, on the stack that the identifier names. -/
def State.suspendedAt (s : State) (part ctx : Nat) : Option (Block × Group) :=
  s.blocks.findSome? fun b =>
    if (s.launchOf b).part = part ∧ b.stk = ctx % 4 ∧ b.ending = false then
      (b.groups.find? fun g => decide (g.ctxid.toNat = ctx) && s.isSuspended b g).map fun g => (b, g)
    else none

/-- A stale resume record: KIND 6 with its CTXID. -/
def State.staleResume (s : State) (ctx : Nat) : State := s.record (ctx % 4) { kind := 6, stk := ctx % 4, ctxid := ctx }

/-- Change a group that a resume record names; while its block is saved its record changes as well (R65). The record's put orders what the group
reads from now on, as an acquire (R320). -/
def State.changeSuspended (s : State) (b : Block) (g : Nat) (f : Group → Group) : State :=
  match b.place with
  | .resident => (s.acquire b.uid g 3).updGroup b.uid g f
  | .saved pa size =>
    match b.group? g, (if size = 0 then none else s.recordOf pa g) with
    | some x, some q =>
      let y := f (s.loadGroup q x)
      (s.writeMem q (y.image (bitOf (s.readNat q 4) 11) (s.readNat (q + 24) 16))).updGroup b.uid g fun _ => y
    | _, _ => s.updGroup b.uid g f

/-- ACTION 0: the faulting split executes again at TRAPPC. -/
def Group.retry (now : Nat) (g : Group) : Group :=
  { g with suspended := false,
           splits := g.splits.map fun p => if p.wait = .fault then { p.wake now with stop := false } else p }

/-- ACTION 1: the handler runs at TRAPVEC; TRAPVEC = 0 acts as retry. A handler that was already in force keeps its save. -/
def Group.resumeInHandler (l : Launch) (now : Nat) (g : Group) : Group :=
  if g.trapVec = 0 then g.retry now
  else match g.splits.find? fun p => decide (p.wait = .fault) with
    | none => g.retry now
    | some p =>
      let h := g.enterHandler l p g.trapCause.toNat (BitVec.ofNat 57 (field g.trapPc 56 0)) now
      { h.updSplit p.age fun q => { q with stop := false } with
        suspended := false, handler := if g.handler.isSome then g.handler else h.handler }

/-- A delayed reduction of a block has still to be performed: its groups end behind it (R270). -/
def State.endWaits (s : State) (b : Block) : Bool := decide (b.place = .resident) && b.groups.any (s.reductionsWait b)

/-- The blocks that a resume record ends may end now. -/
def State.endsNow (s : State) (action r : Nat) : Bool :=
  decide (action < 2) || match (s.resumePart s.ev.g).bind fun part => s.suspendedAt part (recName r) with
    | some (b, _) => !(s.blocks.any fun y => (y.uid == b.uid || action == 3 && y.launch == b.launch) && s.endWaits y)
    | none => true

/-- Perform a resume record on the group that it names. -/
def State.resume (s : State) (action : Nat) (f : Block → Group → State → State) : State :=
  s.takeResume (fun r => recKind r == 0x20 && recAction r == action && s.endsNow action r) fun part r s =>
    match s.suspendedAt part (recName r) with
    | some (b, g) => f b g s
    | none => s.staleResume (recName r)

/-- RESUME_RETRY: a record of resume queue `ev.g` with ACTION 0. A record of another KIND, or with an ACTION above 3, changes nothing
and writes a KIND 6 record. -/
def execResumeRetry (s : State) : Host.Outcome State Fault Refusal :=
  .next (s.takeResume (fun r => if recKind r = 0x20 then recAction r == 0 || decide (3 < recAction r) else recKind r != 0x21) fun part r s =>
    match (if recKind r = 0x20 ∧ recAction r = 0 then s.suspendedAt part (recName r) else none) with
    | some (b, g) => s.changeSuspended b g.gid (Group.retry (s.cycle b.stk))
    | none => s.staleResume (recName r))

/-- RESUME_HANDLER: a record with ACTION 1. -/
def execResumeHandler (s : State) : Host.Outcome State Fault Refusal :=
  .next (s.resume 1 fun b g s => s.changeSuspended b g.gid (Group.resumeInHandler (s.launchOf b) (s.cycle b.stk)))

/-- Every sleeper and walk of a block leaves the lists that hold it. -/
def State.forgetWaits (s : State) (u : Nat) : State :=
  let s := s.dropWaiters fun x => x.blk == u
  let s := (List.range 4).foldl (fun s k => s.dropLockWaits k fun w => w.1 == u) s
  { s with
    dies := s.dies.map fun k => { k with walks := k.walks.filter fun w => w.blk != u }
    cores := s.cores.map fun (k, c) => (k, { c with racq := c.racq.filter fun r => r.1 != u }) }

/-- A pending result that an ended block does not wait for: of a matrix operation, or of a take, whose element is lost (R210, R353). -/
def Pend.abandoned (p : Pend) : Bool := decide (p.kind = .matrix) || decide (p.kind = .load) && p.todo == 1

/-- End a block (R210 ACTION 2): every group ends as under R191; barriers, continuations and batches are abandoned; its subscriptions and what is
on its way to them go (R393), the granules of its groups are free (R163), and it retires when nothing of it is in flight any more (R66). -/
def State.endBlock (s : State) (u : Nat) : State :=
  match s.block? u with
  | none => s
  | some b => match b.place with
    | .saved pa size =>
      let s := b.groups.foldl (fun s g => s.releaseLocks b.stk g.ctxid) s
      (if size = 0 then s else s.freeArea pa).freeBlock u
    | .resident =>
      let s := s.forgetWaits u
      let s := b.groups.foldl (fun s g => s.endGroup u g.gid) s
      let s := s.updBlock u fun b =>
        { b with conts := [], bars := [], copies := [], matops := [], gather := [], expect := [], arrivals := [], poisonBatches := [], subs := [],
                 preempt := none, ending := true,
                 draining := (b.draining.map fun g => { g with pend := g.pend.filter fun p => !(p.abandoned) }).filter fun g => !(s.quiet g) }
      { s with subnet := s.subnet.filter fun y => y.blk != u }.granulesFreed b.stk b.core

/-- RESUME_END_BLOCK: a record with ACTION 2. -/
def execResumeEndBlock (s : State) : Host.Outcome State Fault Refusal :=
  .next (s.resume 2 fun b _ s => s.endBlock b.uid)

/-- End a grid (R210 ACTION 3): unstarted blocks are discarded and every block ends; STATUS is 2. -/
def State.endGrid (s : State) (u : Nat) : State :=
  let s := s.updLaunch u fun l => { l with waiting := [], status := 2 }
  (((s.blocks.filter fun b => b.launch == u).map (·.uid)).foldl (fun s v => s.endBlock v) s).finishGrid u

/-- RESUME_END_GRID: a record with ACTION 3. -/
def execResumeEndGrid (s : State) : Host.Outcome State Fault Refusal :=
  .next (s.resume 3 fun b _ s => s.endGrid b.launch)

/-! ## Requests for pre-emption (R60, R61, R211) -/

/-- The blocks of a block's cluster launch that are resident, itself among them. -/
def State.mates (s : State) (b : Block) : List Block :=
  let l := s.launchOf b
  s.blocks.filter fun q => decide (q.place = .resident) && !q.ending && q.launch == b.launch && l.clusterOf q.lin == l.clusterOf b.lin

/-- The context pool can hold the areas of some blocks of a partition, beside those of the blocks already asked (R214). -/
def State.poolFits (s : State) (part stk : Nat) (bs : List Block) : Bool :=
  let asked := s.blocks.filter fun q => decide (q.place = .resident) && q.stk == stk && q.preempt.isSome && (s.launchOf q).part == part
  State.poolHolds part stk ((asked ++ bs.filter fun b => b.preempt.isNone).map Block.fullArea) s

/-- Ask one block: a second request merges with the first (R65). -/
def State.ask (s : State) (hold : Bool) (u : Nat) : State :=
  (s.updBlock u fun b =>
    { b with preempt := match b.preempt with
        | some q => some { q with hold := q.hold || hold }
        | none => some { t0 := s.time, forced := false, hold := hold } }).stopInPlace u

/-- Request the pre-emption of a block with its cluster launch, if the pool can hold the areas. -/
def State.request (s : State) (hold : Bool) (u : Nat) : State :=
  match s.block? u with
  | none => s
  | some b =>
    let ms := s.mates b
    if s.poolFits (s.launchOf b).part b.stk ms then (ms.map (·.uid)).foldl (fun s v => s.ask hold v) s else s

/-- The launch that a pre-emption record names: one of the partition with its LID. -/
def State.named (s : State) (part lid : Nat) : Option Launch := s.launches.find? fun l => l.part == part && l.lid == lid

/-- A pre-emption record that cannot be performed: reserved bits, ACTION above 2, or an unknown LID (R211). -/
def State.badPreempt (s : State) (part r : Nat) : Bool :=
  slice r 255 224 != 0 || slice r 63 17 != 0 || decide (2 < recAction r) || (s.named part (recName r)).isNone

/-- Take a pre-emption record with one of some ACTIONs and perform it on its launch; one that cannot be performed writes a KIND 6
record with CTXID 0 and VAL = LID. -/
def State.takePreempt (s : State) (acts : Nat → Bool) (f : Launch → Nat → State → State) : State :=
  s.takeResume (fun r => recKind r == 0x21 && acts (recAction r)) fun part r s =>
    match s.named part (recName r) with
    | some l => if s.badPreempt part r then s.record 4 { kind := 6, val := recName r } else f l r s
    | none => s.record 4 { kind := 6, val := recName r }

/-- Begin a record's work on some resident blocks; with none of them it is done (R211). -/
def State.beginPreempt (s : State) (l : Launch) (hold : Bool) (us : List Nat) : State :=
  if us.isEmpty then s.record 4 { kind := 11, launch := l.lid, val := 0 }
  else us.foldl (fun s u => s.request hold u)
    { s with prereqs := s.prereqs ++ [{ lid := l.lid, launch := l.uid, hold := hold, left := us, saved := 0 }] }

/-- PREEMPT_ONE_BLOCK: a pre-emption record of resume queue `ev.g` with ACTION 0, or with one above 2. -/
def execPreemptOneBlock (s : State) : Host.Outcome State Fault Refusal :=
  .next (s.takePreempt (fun a => a == 0 || decide (2 < a)) fun l r s =>
    let at_ (b : Block) : Bool := b.launch == l.uid && decide (b.place = .resident) && !b.ending && b.bx == slice r 159 128 &&
      b.blky == slice r 191 160 && b.bz == slice r 223 192
    match s.blocks.find? at_ with
    | some b => s.beginPreempt l (bitOf r 16) ((s.mates b).map (·.uid))
    | none => s.beginPreempt l (bitOf r 16) [])

/-- PREEMPT_LAUNCH: a record with ACTION 1; with HOLD the launch's unstarted blocks do not start either. -/
def execPreemptLaunch (s : State) : Host.Outcome State Fault Refusal :=
  .next (s.takePreempt (fun a => a == 1) fun l r s =>
    let s := if bitOf r 16 then s.updLaunch l.uid fun x => { x with held := true } else s
    s.beginPreempt l (bitOf r 16)
      ((s.blocks.filter fun b => b.launch == l.uid && decide (b.place = .resident) && !b.ending).map (·.uid)))

/-- RELEASE_HELD_BLOCKS: a record with ACTION 2. Saves of the launch that are still under way hold nothing either. -/
def execReleaseHeldBlocks (s : State) : Host.Outcome State Fault Refusal :=
  .next (s.takePreempt (fun a => a == 2) fun l _ s =>
    let s := s.updLaunch l.uid fun x => { x with held := false }
    { s with
      blocks := s.blocks.map fun (b : Block) =>
        if b.launch = l.uid then { b with held := false, preempt := b.preempt.map fun q => { q with hold := false } } else b
      prereqs := s.prereqs.map fun (q : PreReq) => if q.launch = l.uid then { q with hold := false } else q })

/-- The order in which a distributor chooses victims (R60): lowest priority, youngest launch, the block that started last, the highest
linear index. -/
def State.victimKey (s : State) (b : Block) : Nat :=
  let l := s.launchOf b
  ((l.prio * 2 ^ 64 + (2 ^ 64 - 1 - l.start)) * 2 ^ 64 + (2 ^ 64 - 1 - b.seq)) * 2 ^ 96 + (2 ^ 96 - 1 - b.lin)

/-- A distributor's request on a stack: for the first work that no core can take, one block of lower priority, while no earlier
request is under way (R60). -/
def State.distributorRequest (s : State) (stk : Nat) : State :=
  let stuck (w : Work) : Bool := !((List.range 24).any fun c => s.fitsCluster stk w c)
  match minBy? Work.key ((s.workOn stk).filter stuck) with
  | none => s
  | some w =>
    let here := s.blocks.filter fun b => decide (b.place = .resident) && b.stk == stk && !b.ending
    if here.any fun b => b.preempt.isSome then s
    else match minBy? s.victimKey (here.filter fun b => decide ((s.launchOf b).prio < w.prio)) with
      | some b => s.request false b.uid
      | none => s

/-- PREEMPTION_REQUEST: the die distributor of stack `ev.b` asks for room, or with `ev.lo` the request of pre-emption record `ev.k` for
block `ev.n`, which waited for the context pool, starts. -/
def execPreemptionRequest (s : State) : Host.Outcome State Fault Refusal :=
  .next (if s.ev.lo then (match nth? s.prereqs s.ev.k with
      | some r => if r.left.contains s.ev.n && ((s.block? s.ev.n).elim false fun b => b.preempt.isNone) then s.request r.hold s.ev.n else s
      | none => s)
    else if 4 ≤ s.ev.b then s else s.distributorRequest s.ev.b)

/-- PREEMPT_TIMEOUT: 20 µs after its request, block `ev.b` starts no further turn (R62). -/
def execPreemptTimeout (s : State) : Host.Outcome State Fault Refusal :=
  .next (s.updBlock s.ev.b fun b =>
    { b with preempt := b.preempt.map fun q => if q.t0 + 20000 ≤ s.time then { q with forced := true } else q })

/-! ## The save (R62, R63, R213 to R216) -/

/-- An issue slot is inside an open chain of a group. -/
def State.inChain (s : State) (b : Block) (g : Group) : Bool :=
  (List.range 2).any fun k => match s.chainOf b.stk b.core k with
    | some (x, y, _) => x.uid == b.uid && y.gid == g.gid
    | none => false

/-- A group has stopped: suspended, every split stopped, or past the 20 µs; and no chain of it is open (R62, R205). -/
def State.groupStopped (s : State) (b : Block) (g : Group) : Bool :=
  !(s.inChain b g) && b.stands g

/-- A message that is answered to a group. -/
def MsgBody.asks : MsgBody → Bool
  | .reserve _ _ => true
  | .take _ _ => true
  | .peek _ => true
  | .bind _ _ => true
  | _ => false

/-- The block that an answer goes to. -/
def AnswerBody.blk : AnswerBody → Option Nat
  | .grant _ _ _ _ r => some r.blk
  | .taken _ _ _ r => some r.blk
  | .nothing r => some r.blk
  | .sleep r => some r.blk
  | .lost r => some r.blk
  | .again r => some r.blk
  | .counts _ _ r => some r.blk
  | .bound _ r => some r.blk
  | .desc _ r => some r.blk
  | .ack _ _ _ => none
  | .wake _ _ _ => none

/-- A queue operation of a block waits for its answer. -/
def State.asking (s : State) (u : Nat) : Bool :=
  (s.kept.any fun m => m.blk == u && m.body.asks) || s.replies.any fun y => y.body.blk == some u

/-- Nothing of a block is in flight: loads, stores up to their home slices (R320), reductions that must wait for their words (R270), puts, copies,
matrix operations, queue answers, held records (R63). -/
def State.drained (s : State) (b : Block) : Bool :=
  b.draining.isEmpty && b.copies.isEmpty && b.matops.isEmpty && !(s.asking b.uid) &&
    b.groups.all fun g => g.stq.isEmpty && g.puts.isEmpty && g.heldRec.isEmpty && !(s.inTransit g.ctxid) && !(s.reductionsWait b g) &&
      g.pend.all fun p => decide (p.kind = .long)

/-- The union of the entries by which a group is saved; none for a full save (R62, R213). -/
def State.saveMask (s : State) (b : Block) (g : Group) : Option Nat :=
  let l := s.launchOf b
  if g.suspended || g.splits.any fun p => !p.stop || !(s.atStop b g p) then none
  else some (g.splits.foldl (fun m p => m ||| (l.stopEntry p.pc.toNat).getD 0) 0)

/-- A group with what an entry mask keeps; a split whose entry does not mark MODE and MMODE live gets the launch default (R62, R120). -/
def Group.masked (l : Launch) (m : Nat) (g : Group) : Group :=
  { g with v := Sparse.drop (fun k => !(bitOf m (32 + k / 32))) g.v, s := Sparse.drop (fun k => !(bitOf m (160 + k))) g.s,
           p := Sparse.drop (fun k => !(bitOf m (224 + k))) g.p,
           splits := g.splits.map fun p =>
             if bitOf ((l.stopEntry p.pc.toNat).getD 0) 232 then p else { p with mode := l.mode, mmode := l.mmode } }

/-- The record of a group as it is saved, and whether it is saved in full. -/
def State.saveGroup (s : State) (b : Block) (g : Group) : List Byte × Bool :=
  match s.saveMask b g with
  | none => (g.image true (2 ^ g.bound - 1), true)
  | some m => ((g.masked (s.launchOf b) m).image false (slice m 159 32 % 2 ^ g.bound), false)

/-- Bytes padded with zeros to a multiple of 256. -/
def padded (l : List Byte) : List Byte := l ++ List.replicate (roundUp l.length 256 - l.length) 0

/-- A handle entry (R327). -/
def Handle.image (h : Handle) : List Byte :=
  leBytes 16 (packFields [(h.vqn, 16), (h.rights, 4), (1, 1), (b2n h.bound, 1), (0, 10), (h.rseq, 48), (h.rcnt, 6), (0, 13), (h.pkg, 10),
    (b2n h.front, 1), (h.stk, 2), (h.pq, 12), (h.kind, 3), (b2n h.dep, 1)])

/-- The handle section of a block. -/
def Block.handleBytes (b : Block) : List Byte :=
  (List.range 16).flatMap fun h => match Assoc.get? b.handles h with
    | some hd => hd.image
    | none => List.replicate 16 0

/-- The subscription section of a block. -/
def Block.subBytes (b : Block) : List Byte := (List.range 16).flatMap fun e => (b.sub e).image

/-- The sections of a context area, in the order of OFFS (R215). -/
def State.areaSections (s : State) (b : Block) : List (List Byte) :=
  [(sortBy (·.gid) b.groups).flatMap fun g => padded (s.saveGroup b g).1, Sparse.read b.S 0 b.sSize, Sparse.read b.W 0 b.wSize,
   Sparse.read b.X 0 b.xSize, Sparse.read b.C 0 b.cSize, leBytes 16 b.bar ++ b.conts.flatMap Cont.image, b.handleBytes, b.subBytes]

/-- The offsets of sections and their bytes, from an offset on; an empty section is absent. -/
def placeSections : Nat → List (List Byte) → List Nat × List Byte
  | _, [] => ([], [])
  | o, x :: r =>
    if x.isEmpty then let t := placeSections o r; (0 :: t.1, t.2)
    else let t := placeSections (o + (padded x).length) r; (o :: t.1, padded x ++ t.2)

/-- The context area of a block (R215). -/
def State.areaImage (s : State) (b : Block) : List Byte :=
  let l := s.launchOf b
  let t := placeSections 256 (s.areaSections b)
  let full := b.groups.any fun g => (s.saveGroup b g).2
  leBytes 256 (packFields ([(0x0768C7A0, 32), (1, 8), (b.groups.length, 8), ((b.groups.filter (·.attached)).length, 6), (0, 10),
      (256 + t.2.length, 32), (b2n full, 1), (b2n (b.groups.any (·.suspended)), 1), (b2n (!b.conts.isEmpty), 1), (b2n (decide (1 < l.clus)), 1),
      (0, 28), (l.lid, 64), (b.bx, 32), (b.blky, 32), (b.bz, 32)] ++ t.1.map (fun o => (o, 32)) ++
    [(b.yieldreq, 6), (0, 26), (b.cbseq, 32), (b.cbdone, 32), (b.mbseq, 32), (b.mbdone, 32), (b.eused, 64), (0, 1280)])) ++ t.2

/-- The engines of a block let go of what has only gathered; delayed reductions and long results are performed (R170, R270); its
entries go to STATE 2 (R393). -/
def State.settleBlock (s : State) (b : Block) : State :=
  let s := b.groups.foldl (fun s g => s.drainQuanta b.uid g.gid) (s.flushPublisher b.uid false false)
  (s.forgetWaits b.uid).updBlock b.uid fun b =>
    { b with gather := [], expect := [], arrivals := [],
             subs := b.subs.map fun (e, y) => (e, if y.st = 1 then { y with st := 2 } else y),
             groups := b.groups.map fun g => { g.flushLong (s.cycle b.stk) with chain := none, fetched := [] } }

/-- Where a place of a saved buffer lies in a context area. -/
def State.areaLoc (s : State) (u pa : Nat) : Loc → Loc
  | .buf v sp o => if v = u ∧ sectionOf sp ≠ 0 then .glb (s.sectionPa pa (sectionOf sp) + o) else .buf v sp o
  | q => q

/-- Save a block in its context area at a PA: the block's resources become free (R63). -/
def State.saveBlock (s : State) (u pa : Nat) : State :=
  match s.block? u with
  | none => s
  | some b =>
    let hold := s.prereqs.any (fun r => r.hold && r.left.contains u) || (match b.preempt with | some q => q.hold | none => false)
    let t := s.settleBlock b
    let b := (t.block? u).getD b
    let image := t.areaImage b
    if t.areaFree (t.launchOf b).part b.stk pa image.length then
      let s := t.writeMem pa image
      let s := { s with areas := { part := (s.launchOf b).part, stk := b.stk, pa := pa, size := image.length } :: s.areas,
                        poisoned := s.poisoned.map (s.areaLoc u pa) }
      let s := s.updBlock u fun b =>
        { b with place := .saved pa image.length, S := [], W := [], X := [], C := [], held := hold, preempt := none }
      (s.granulesFreed b.stk b.core).preemptDone u true
    else s

/-- PREEMPT_SAVE: block `ev.b`, whose groups have stopped and which is drained, is saved at PA `ev.v` of its context pool. -/
def execPreemptSave (s : State) : Host.Outcome State Fault Refusal :=
  .next (match s.block? s.ev.b with
    | some b =>
      if b.place = .resident ∧ b.preempt.isSome = true ∧ b.ending = false ∧ (b.groups.all (s.groupStopped b)) = true ∧ s.drained b = true
      then s.saveBlock b.uid s.ev.v.toNat else s
    | none => s)

/-! ## The restore (R64, R107, R217, R393) -/

/-- A subscription entry as its image has it, active again. -/
def Sub.load (e : Nat) (y : Sub) : Sub :=
  { y with st := if slice e 170 168 = 2 then 1 else slice e 170 168, reason := slice e 175 172, poff := slice e 31 0, plen := slice e 63 32,
           moff := slice e 95 64, pblk := slice e 127 96, boff := slice e 143 128, bar := bitOf e 144, pcore := slice e 155 148,
           res := slice e 165 160, fwd := slice e 207 176 }

/-- A handle as its image has it. -/
def Handle.load (e : Nat) (h : Handle) : Handle :=
  { h with vqn := slice e 15 0, rights := slice e 19 16, bound := bitOf e 21, rseq := slice e 79 32, rcnt := slice e 85 80, pkg := slice e 108 99,
           front := bitOf e 109, stk := slice e 111 110, pq := slice e 123 112, kind := slice e 126 124, dep := bitOf e 127 }

/-- A split starts again at the instruction before which it stopped (R64); one that waited at `bsync` executes it again (R411), a
returned handler split and the faulting split of a suspended group wait on. -/
def Split.restart (now : Nat) (p : Split) : Split :=
  { p with stop := false, walked := [], inval := [], early := [], qage := 0, owed := [], owedTurns := 0, readyAt := now,
           again := p.wait.phaseAgain p.again,
           wait := if p.wait = .fault ∨ p.wait = .returned then p.wait else .none }

/-- A group as it restores on a slot. A handler whose every split has returned ends then (R187, R203). -/
def State.restoreGroup (s : State) (pa slot : Nat) (now : Nat) (g : Group) : Group :=
  let g := match s.recordOf pa g.gid with
    | some q => s.loadGroup q g
    | none => g
  (({ g with slot := slot, rot := 0, lastIssue := 0, splits := g.splits.map (Split.restart now) }).refill now).handlerEnd now

/-- A block as its context area at a PA has it, on a core. -/
def State.loadBlock (s : State) (pa core rank : Nat) (b : Block) : Block :=
  let rd (o n : Nat) : Nat := s.readNat (pa + o) n
  let sec (k n : Nat) : Sparse 8 := Sparse.write [] 0 (s.readMem (s.sectionPa pa k) n)
  let free := s.freeSlots b.stk core
  { b with
    place := .resident, core := core, rank := rank, held := false, yieldreq := rd 68 1 % 64, eused := rd 88 8,
    cbseq := rd 72 4, cbdone := rd 76 4, mbseq := rd 80 4, mbdone := rd 84 4,
    S := sec 1 b.sSize, W := sec 2 b.wSize, X := sec 3 b.xSize, C := sec 4 b.cSize, bar := s.readNat (s.sectionPa pa 5) 16,
    handles := b.handles.map fun (h, hd) => (h, hd.load (s.readNat (s.sectionPa pa 6 + 16 * h) 16)),
    subs := b.subs.map fun (e, y) => (e, y.load (s.readNat (s.sectionPa pa 7 + 32 * e) 32)),
    groups := b.groups.zipIdx.map fun x => s.restoreGroup pa (nth 0 free x.2) (s.cycle b.stk) x.1 }

/-- The uncorrectable words of a saved buffer, as places of the buffer. -/
def State.restorePoison (s : State) (b : Block) (pa : Nat) : List Loc :=
  s.poisoned.flatMap fun q => match q with
    | .glb x => [(Space.scr, b.sSize), (.wgt, b.wSize), (.act, b.xSize), (.acc, b.cSize)].filterMap fun y =>
        let o := s.sectionPa pa (sectionOf y.1)
        if o ≤ x ∧ x < o + y.2 then some (.buf b.uid y.1 (x - o)) else none
    | _ => []

/-- Subscribers of a restored publisher name its new core (R393). -/
def State.rewriteCore (s : State) (b : Block) (core : Nat) : State :=
  s.allSubs.foldl (fun s x => match s.block? x.1 with
    | some q =>
      let y := q.sub x.2
      if q.launch = b.launch ∧ y.pblk = b.lin ∧ (y.st = 1 ∨ y.st = 2) then s.setSub x.1 x.2 { y with pcore := core } else s
    | none => s) s

/-- Restore one block on a core; with a wrong MAGIC or VER it is not restored, and a KIND 7 record is written (R217). -/
def State.restoreBlock (s : State) (b : Block) (core rank : Nat) : State :=
  match b.place with
  | .resident => s
  | .saved pa _ =>
    if s.readNat pa 4 = 0x0768C7A0 ∧ s.readNat (pa + 4) 1 = 1 then
      let s := { s with poisoned := s.poisoned ++ s.restorePoison b pa }
      ((((s.updBlock b.uid (s.loadBlock pa core rank)).rewriteCore b core).freeArea pa).dropL1 b.stk core)
    else
      ((s.record b.stk { kind := 7, stk := b.stk, launch := s.readNat (pa + 16) 8 }).updBlock b.uid fun b =>
        { b with place := .saved pa 0 }).freeArea pa

/-- BLOCK_RESTORE: the saved blocks of launch `ev.k` whose lowest linear index is `ev.n` restore on cores `ev.cores` of stack `ev.b`. Where a block of
their cluster launch has retired meanwhile, the ranks are counted anew over the cores of those restored (assumption 107). -/
def execBlockRestore (s : State) : Host.Outcome State Fault Refusal :=
  let stk := s.ev.b
  .next (match s.launch? s.ev.k, (s.savedWork stk).find? fun w => w.launch == s.ev.k && w.lin == s.ev.n with
    | some l, some w =>
      let bs := sortBy (·.lin) (s.savedOf w.launch (l.clusterOf w.lin))
      let mate (b : Block) : Bool := b.launch == w.launch && l.clusterOf b.lin == l.clusterOf w.lin && decide (b.place = .resident)
      if s.mayPlace stk w s.ev.cores && !(s.blocks.any mate) && (bs.zip s.ev.cores).all fun x => s.fitsSaved x.1 stk x.2 then
        (bs.zip s.ev.cores).foldl (fun t x => t.restoreBlock x.1 x.2 (rankOf s.ev.cores x.2)) s
      else s
    | _, _ => s)

end Sys2Proof.Machine
end

