-- ==== Sys2Proof/Machine/Windows.lean ====
section
/-!
DEFINITION. The readback and control windows (R434 to R438): where a PA lies in a window, and what a read of an entry gives.
-/
namespace Sys2Proof.Machine

/-- The window of a PA (R226, R437): 0 to 3 the stacks', 4 the front die's. -/
def windowOf (pa : Nat) : Option Nat :=
  if pa / 2 ^ 46 = 1 then some (pa / 2 ^ 44 % 4) else if pa / 2 ^ 44 = 8 then some 4 else none

/-! ## Control registers (R436 to R438) -/

/-- BOOTSTAT (R430). -/
def Boot.stat (b : Boot) : Nat := packFields [(b.step, 4), (0, 4), (b.err, 8), (b.tries, 8), (0, 40)]

/-- CTLSTAT of a window. -/
def State.ctlstat (s : State) (w : Nat) : Nat :=
  packFields [(b2n (s.source w).refused, 1), (b2n (decide (w < 4) && (s.stack w).dieReset), 1), (b2n (s.port w).replaying, 1), (0, 61)]

/-- LSTAT of a module (R360). -/
def LinkEnd.stat (e : LinkEnd) : Nat :=
  packFields [(e.width, 7), (b2n e.down, 1), (e.half, 2), (0, 6), (e.replays, 16), (e.crcerr, 16), (e.retrains, 16)]

/-- EVSTAT of a source (R373). -/
def EvSource.stat (e : EvSource) : Nat := packFields [(e.outbox.length, 6), (0, 2), (b2n e.ovf, 1), (b2n e.ovf, 1), (0, 54)]

/-- CKCTL (R439). -/
def Checkpoint.reg (c : Checkpoint) : Nat := c.list.toNat / 256 * 256 + c.status % 4 * 8 + b2n c.path * 2

/-- A front register of a partition (R438). -/
def Partition.front (p : Partition) (r : Nat) : Nat :=
  match r with
  | 0x00 => b2n p.exist + 2 * b2n p.ready
  | 0x08 => p.procroot.toNat
  | 0x20 => b2n p.xpte
  | 0x28 => (ofSigned p.eacct).toNat
  | 0x30 => p.pcap
  | 0x38 => (ofSigned p.emax).toNat
  | 0x40 => p.resq.toNat
  | _ => 0

/-- A register of a partition on a stack (R438). -/
def Partition.onStack (p : Partition) (stk r : Nat) : Nat :=
  match r / 8 with
  | 0 => (nth 0 p.cpbase stk).toNat
  | 1 => (nth 0 p.cpsize stk).toNat
  | 8 => (nth 0 p.svcq stk).toNat
  | k => if k < 8 then (nth 0 (nth [] p.shm stk) (k - 2)).toNat else 0

/-- The register at an offset of the control region, with its size in bytes (R436). -/
def State.controlReg (s : State) (w off : Nat) : Nat × Nat :=
  if off = 0 then (8, s.ctlstat w)
  else if off = 0x300 then (8, b2n (s.port w).replaying)
  else if 0x1000 ≤ off ∧ off < 0x2000 ∧ w < 4 then (8, (s.part (off / 0x100 - 0x10)).onStack w (off % 0x100))
  else if 0x8000 ≤ off ∧ off < 0x9400 then
    let b := off / 0x400 - 0x20
    let m := off % 0x400 / 0x10
    (8, if off % 0x10 = 0 ∧ m < linkModules w b ∧ (w < 4 ∨ b < 4) then (s.link w b m).stat else 0)
  else if off = 0xA000 then (8, (s.source w).stat)
  else if 0xA100 ≤ off ∧ off < 0xA200 then (4, Assoc.getD 0 (s.source w).summary ((off - 0xA100) / 4))
  else if 0xB000 ≤ off ∧ off < 0xB100 ∧ w < 4 then (4, Assoc.getD 0 (s.stack w).faults ((off - 0xB000) / 4))
  else if 0xB100 ≤ off ∧ off < 0xB11C ∧ w < 4 then (4, Assoc.getD 0 (s.stack w).corrected ((off - 0xB100) / 4))
  else (8, 0)

/-- The package register at an offset (R437). -/
def State.packageReg (s : State) (off : Nat) : Nat :=
  match off with
  | 0x00 => s.boot.stat
  | 0x08 => (s.conngrp ||| BitVec.ofNat 32 (2 ^ (s.pkg.toNat / 32))).toNat
  | 0x10 => s.connmap.toNat + b2n s.connbusy.isSome * 2 ^ 32
  | 0x18 => s.evmsi.toNat
  | 0x20 => s.ckpt.reg
  | _ => if 0x100 ≤ off ∧ off < 0x1100 then (s.part (off / 0x100 - 1)).front (off % 0x100) else 0

/-! ## Entries of the other regions (R434) -/

/-- A word of a core's buffer region. Where a block's allocation lies in it is not stated: a free value. -/
def State.bufferWord (s : State) (stk core : Nat) (sp : Space) (o : Nat) : List Byte :=
  let base (b : Block) : Nat := (Config.free (8 * b.uid + sp.code) 96).toNat % 2 ^ 18
  match (s.onCore stk core).find? fun b => decide (base b ≤ o) && decide (o < base b + b.bufSize sp) with
  | some b => Sparse.read (b.buf sp) (o - base b) 8
  | none => leBytes 8 (Config.free s.tick 97).toNat

/-- Draw `n` numbers of a list without repeats, in an order that is a free value. -/
def drawn (key : Nat) : Nat → List Nat → List Nat
  | 0, _ => []
  | n + 1, l => if l.isEmpty then [] else
    let k := (Config.free (1000 * key + n) 98).toNat % l.length
    nth 0 l k :: drawn key n (dropNth l k)

/-- What stands in place `i` of a table of `n` entries that hold some things: which entry holds which is not stated, but each is held once, in a
place that is a free value. -/
def placed {α : Type} (key n i : Nat) (l : List α) : Option α := nth? l ((drawn key n (List.range n)).findIdx fun j => j == i)

/-- A physical subscription entry of a core. -/
def State.subEntry (s : State) (stk core e : Nat) : List Byte :=
  let used := (s.onCore stk core).flatMap fun b => (b.subs.filter fun x => x.2.st != 0).map fun x => x.2.image
  (placed (coreKey stk core) 16 e used).getD (List.replicate 32 0)

/-- What the watches of a core show: the entries that its blocks feed, with their regions (R389). -/
def State.watchNumbers (s : State) (stk core : Nat) : List Nat :=
  (s.onCore stk core).flatMap fun p => s.blocks.flatMap fun b =>
    (b.subs.filter fun e => s.feeds p b e.2).flatMap fun e => [p.uid, b.uid, e.1, e.2.poff, e.2.plen, e.2.moff]

/-- What the second-level translation entries of a stack show. -/
def State.tlbNumbers (s : State) (stk : Nat) : List Nat :=
  (s.stack stk).tlb.flatMap fun e => [e.asid.toNat, e.vmid.toNat, e.vbase, e.size, e.pbase, b2n e.r, b2n e.w, b2n e.x, b2n e.u, b2n e.g, b2n e.d,
    b2n e.hc, e.hstk, b2n e.r2, b2n e.w2, b2n e.x2, e.gbase, b2n e.hc2, e.hstk2]

/-- What the die distributor's region shows: of each block its CTXIDs, ERES and handle table, and the waiters of the stack's port (R434). -/
def State.distributorNumbers (s : State) (w : Nat) : List Nat :=
  ((s.blocks.filter fun b => b.stk == w).flatMap fun b =>
    [b.uid, b.core, (ofSigned b.eres).toNat, leNat b.handleBytes] ++ b.groups.flatMap fun g => [g.gid, g.ctxid.toNat]) ++
  (s.port w).descs.flatMap (fun d => d.2.wake.flatMap fun x => [d.1, x.blk, x.gid, x.split, x.h, b2n x.take, x.age]) ++
  (s.port w).overflow.flatMap fun e => [e.1, e.2.blk, e.2.gid, e.2.split, e.2.h, b2n e.2.take, e.2.age]

/-- The entry at an offset of a core's region: its base and its bytes. The layout of the watches is not stated: a function of what they show that
is left open. -/
def State.coreEntry (s : State) (stk core o : Nat) : Nat × List Byte :=
  if (s.stack stk).dieReset then
    (if (0xE0000 ≤ o ∧ o < 0xE0200) ∨ 0xF0000 ≤ o then (o / 32 * 32, List.replicate 32 0) else (o / 8 * 8, List.replicate 8 0))
  else if o < 0x40000 then (o / 8 * 8, s.bufferWord stk core .scr (o / 8 * 8))
  else if o < 0x80000 then (o / 8 * 8, s.bufferWord stk core .wgt (o / 8 * 8 - 0x40000))
  else if o < 0xA0000 then (o / 8 * 8, s.bufferWord stk core .act (o / 8 * 8 - 0x80000))
  else if o < 0xE0000 then (o / 8 * 8, s.bufferWord stk core .acc (o / 8 * 8 - 0xA0000))
  else if o < 0xE0200 then (o / 32 * 32, s.subEntry stk core ((o - 0xE0000) / 32))
  else if o < 0xF0000 then (o / 8 * 8, leBytes 8 (Config.windowBits (o / 8) (s.watchNumbers stk core)).toNat)
  else
    let k := (o - 0xF0000) / 32
    let g := (s.onCore stk core).findSome? fun b => b.groups.find? fun g => g.slot == k / 32
    (o / 32 * 32, match g with
      | some g => leBytes 32 (nth 0 g.splitTable (k % 32))
      | none => List.replicate 32 0)

/-- A lock entry (R395). -/
def LockEntry.image (e : LockEntry) : List Byte :=
  leBytes 32 (packFields [(e.pa, 56), (1, 1), (0, 23), (e.owner.toNat, 64), (0, 24), (e.waiters.length, 12), (0, 76)])

/-- The entry at an offset of an L2 slice: a lock entry, or a translation entry, whose layout is not stated: a function of what the stack's entries
show that is left open. -/
def State.sliceEntry (s : State) (stk slice_ o : Nat) : Nat × List Byte :=
  if o < 0x2000 then
    let used := (s.stack stk).locks.filter fun e => e.slice == slice_
    (o / 32 * 32, match placed (1000 + 64 * stk + slice_) 256 (o / 32) used with
      | some e => e.image
      | none => List.replicate 32 0)
  else (o / 8 * 8, leBytes 8 (Config.windowBits (2 ^ 20 * (slice_ + 1) + o / 8) (s.tlbNumbers stk)).toNat)

/-- The entry at an offset of a window: the offset of its first word, and its bytes. The die distributor's region is not laid out: a function of
what it shows that is left open. -/
def State.windowEntry (s : State) (w off : Nat) : Nat × List Byte :=
  let o := off % 2 ^ 32
  let at_ (x : Nat × List Byte) (base : Nat) : Nat × List Byte := (base + x.1, x.2)
  match off / 2 ^ 32 with
  | 0 =>
    let r := s.controlReg w (o / 4 * 4)
    if r.1 = 4 then (o / 4 * 4, leBytes 4 r.2) else (o / 8 * 8, leBytes 8 (s.controlReg w (o / 8 * 8)).2)
  | 1 => if o < 2 ^ 18 then (off / 64 * 64, leBytes 64 (s.descImage (s.desc w (o / 64))).toNat) else (off / 8 * 8, List.replicate 8 0)
  | 2 => if o < 2 ^ 23 then (off / 64 * 64, Sparse.read (s.port w).cells (o / 64 * 64) 64) else (off / 8 * 8, List.replicate 8 0)
  | 3 => if w < 4 ∧ o / 2 ^ 20 < 192 then at_ (s.coreEntry w (o / 2 ^ 20) (o % 2 ^ 20)) (off / 2 ^ 20 * 2 ^ 20)
      else (off / 8 * 8, List.replicate 8 0)
  | 4 => if w < 4 ∧ o / 2 ^ 20 < 64 then at_ (s.sliceEntry w (o / 2 ^ 20) (o % 2 ^ 20)) (off / 2 ^ 20 * 2 ^ 20)
      else (off / 8 * 8, List.replicate 8 0)
  | 5 => (off / 8 * 8, if w < 4 then leBytes 8 (Config.windowBits (2 ^ 30 + o / 8) (s.distributorNumbers w)).toNat else List.replicate 8 0)
  | 6 => (off / 8 * 8, leBytes 8 (if w = 4 then s.packageReg (o / 8 * 8) else 0))
  | _ => (off / 8 * 8, List.replicate 8 0)

/-- A Juazo core reads a word of a window (R435): the first word of an entry latches the entry for the core; the others come from
its latch. It waits while the front link of the stack carries nothing (R11). -/
def State.windowRead (s : State) (who pa : Nat) : State :=
  match windowOf pa with
  | none => s
  | some w => if s.frontUp w = false then s else
    let off := pa % 2 ^ 44
    let e := s.windowEntry w off
    let key := pa - off + e.1
    let k := (off - e.1) / 8
    let mine (x : Nat × Nat × List Byte) : Bool := x.1 == who && x.2.1 == key
    let word (l : List Byte) : HostOut := .data who ((l.drop (8 * k)).take 8)
    if k = 0 then
      { s with latched := (who, key, e.2) :: s.latched.filter (fun x => !(mine x)), hostOut := s.hostOut ++ [word e.2] }
    else
      let l := match s.latched.find? mine with | some x => x.2.2 | none => e.2
      { s with hostOut := s.hostOut ++ [word l] }

/-- ENTRY_LATCH_READ: Juazo core `ev.k` reads the word at PA `ev.v` of a window. -/
def execEntryLatchRead (s : State) : Host.Outcome State Fault Refusal := .next (s.windowRead s.ev.k s.ev.v.toNat)

end Sys2Proof.Machine
end

