-- ==== Sys2Proof/Machine/Interrupts.lean ====
section
/-!
DEFINITION. The IMSICs of the Juazo cores and the APLIC of the front die (R370). The spec gives their numbers and the wired sources; registers
and behaviour are those of the RISC-V Advanced Interrupt Architecture (assumption 115).
-/
namespace Sys2Proof.Machine

/-- An interrupt file of a core: 0 machine, 1 supervisor, 2 to 8 guests. -/
def State.file (s : State) (core file : Nat) : ImsicFile := Assoc.getD {} s.imsics (16 * core + file)

/-- There is such a file. -/
def fileExists (core file : Nat) : Bool := decide (core < 64) && decide (file < 9)

/-- Change an interrupt file. -/
def State.updFile (s : State) (core file : Nat) (f : ImsicFile → ImsicFile) : State :=
  { s with imsics := Assoc.put s.imsics (16 * core + file) (f (s.file core file)) }

/-- 64 bits of a bit array replaced; identity 0 does not exist. -/
def putIdentities (x : BitVec 512) (k v : Nat) : BitVec 512 :=
  BitVec.ofNat 512 (x.toNat - slice x.toNat (64 * k + 63) (64 * k) * 2 ^ (64 * k) + v % 2 ^ 64 * 2 ^ (64 * k)) &&& ~~~1#512

/-- A write to a register of a file: 0x70 delivery, 0x72 threshold, 0x80 up pending, 0xC0 up enable bits. -/
def ImsicFile.write (f : ImsicFile) (reg v : Nat) : ImsicFile :=
  if reg = 0x70 then { f with delivery := v % 2 }
  else if reg = 0x72 then { f with threshold := v % 512 }
  else if 0x80 ≤ reg ∧ reg < 0x90 ∧ reg % 2 = 0 then { f with eip := putIdentities f.eip ((reg - 0x80) / 2) v }
  else if 0xC0 ≤ reg ∧ reg < 0xD0 ∧ reg % 2 = 0 then { f with eie := putIdentities f.eie ((reg - 0xC0) / 2) v }
  else f

/-- The identity that a file signals: the lowest one pending and enabled, below the threshold if that is not 0. -/
def ImsicFile.top (f : ImsicFile) : Nat :=
  if f.delivery = 0 then 0
  else ((List.range 512).find? fun k => (f.eip &&& f.eie).getLsbD k && (f.threshold == 0 || decide (k < f.threshold))).getD 0

/-- A Juazo core claims the top interrupt of one of its files: it reads its identity and priority, and the pending bit is cleared. -/
def State.claim (s : State) (core file : Nat) : State :=
  if fileExists core file then
    let n := (s.file core file).top
    let s := s.updFile core file fun f => { f with eip := f.eip &&& ~~~(1#512 <<< n) }
    { s with hostOut := s.hostOut ++ [.data core (leBytes 4 (n * 2 ^ 16 + n))] }
  else s

/-- A write to a register of the APLIC: its domain, source modes, pending and enable bits, and targets. The sources are 1 to 5; a level mode
takes the wire as it stands. -/
def State.aplicWrite (s : State) (off v : Nat) : State :=
  let a := s.aplic
  let mask : BitVec 8 := 0x3E
  let bits : BitVec 8 := BitVec.ofNat 8 v &&& mask
  let one : BitVec 8 := (1#8 <<< (v % 8)) &&& mask
  let put (a : Aplic) : State := { s with aplic := a }
  let k := off % 0x1000 / 4
  if off = 0 then put { a with domaincfg := v &&& 0x100 }
  else if 4 ≤ off ∧ off ≤ 20 ∧ off % 4 = 0 then
    let b := { a with sourcecfg := Assoc.put a.sourcecfg k (v % 8), ip := a.ip &&& ~~~(1#8 <<< k) }
    put (if 6 ≤ v % 8 then b.wire k (s.source (k - 1)).ovf else b)
  else if off = 0x1C00 then put { a with ip := a.ip ||| bits }
  else if off = 0x1CDC then put { a with ip := a.ip ||| one }
  else if off = 0x1D00 then put { a with ip := a.ip &&& ~~~bits }
  else if off = 0x1DDC then put { a with ip := a.ip &&& ~~~one }
  else if off = 0x1E00 then put { a with ie := a.ie ||| bits }
  else if off = 0x1EDC then put { a with ie := a.ie ||| one }
  else if off = 0x1F00 then put { a with ie := a.ie &&& ~~~bits }
  else if off = 0x1FDC then put { a with ie := a.ie &&& ~~~one }
  else if 0x3004 ≤ off ∧ off ≤ 0x3014 ∧ off % 4 = 0 then put { a with target := Assoc.put a.target k (v % 2 ^ 32) }
  else s

/-- Source k of the APLIC sends its MSI, in the only delivery mode: pending, enabled, and the domain's interrupts on. It goes to the machine file
of its target's core, and the source stops pending. -/
def State.aplicSend (s : State) (k : Nat) : State :=
  let a := s.aplic
  let t := Assoc.getD 0 a.target k
  let core := slice t 31 18
  let eiid := slice t 10 0
  if 1 ≤ k ∧ k ≤ 5 ∧ bitOf a.domaincfg 8 = true ∧ a.ip.getLsbD k = true ∧ a.ie.getLsbD k = true then
    let s := { s with aplic := { a with ip := a.ip &&& ~~~(1#8 <<< k) } }
    if fileExists core 0 && decide (1 ≤ eiid) && decide (eiid < 512) then s.updFile core 0 fun f => { f with eip := f.eip ||| 1#512 <<< eiid } else s
  else s

end Sys2Proof.Machine
end

