-- ==== Sys2Proof/Machine/Iommu.lean ====
section
/-!
DEFINITION. The IOMMU of the front die (R369): device and process contexts, the two stages, MSI page tables, translation requests, faults,
page requests and commands. The spec names the RISC-V IOMMU architecture and what of it is there; layouts, codes and the order of the steps are
that architecture's (assumption 114).
-/
namespace Sys2Proof.Machine

/-! ## Queues in memory, and interrupts -/

/-- Entries of a queue whose base register is `b`. -/
def ioqSize (b : Nat) : Nat := 2 ^ (slice b 4 0 + 1)

/-- The base of the memory that a register with a PPN in <53:10> names. -/
def ioqBase (b : Nat) : Nat := slice b 53 10 * 4096

/-- Change the IOMMU. -/
def State.updIommu (s : State) (f : Iommu → Iommu) : State := { s with iommu := f s.iommu }

/-- A bit of a number set. -/
def setBit (x n : Nat) : Nat := x ||| 2 ^ n

/-- An interrupt of the IOMMU becomes pending: 0 command queue, 1 fault queue, 3 page-request queue. Its vector's MSI is sent unless it is
masked, or was pending. -/
def State.ioInterrupt (s : State) (k : Nat) : State :=
  if bitOf s.iommu.ipsr k then s
  else
    let v := slice s.iommu.icvec (4 * k + 3) (4 * k)
    let cfg (j : Nat) : Nat := Assoc.getD 0 s.iommu.msiCfg (4 * v + j)
    let s := s.updIommu fun u => { u with ipsr := setBit u.ipsr k }
    if bitOf (cfg 3) 0 then s else s.sendMsi (cfg 0 + cfg 1 * 2 ^ 32) (cfg 2)

/-- Put a record into the fault queue: full, it sets FQOF; where its memory cannot be written, FQMF. -/
def State.ioReport (s : State) (rec_ : List Byte) : State :=
  let u := s.iommu
  let raise (t : State) : State := if bitOf t.iommu.fqcsr 1 then t.ioInterrupt 1 else t
  let at_ := ioqBase u.fqb + 32 * u.fqt
  if !(bitOf u.fqcsr 0) || bitOf u.fqcsr 8 || bitOf u.fqcsr 9 then s
  else if (u.fqt + 1) % ioqSize u.fqb = u.fqh then raise (s.updIommu fun u => { u with fqcsr := setBit u.fqcsr 9 })
  else if !(isDeviceMemory at_) then raise (s.updIommu fun u => { u with fqcsr := setBit u.fqcsr 8 })
  else raise ((s.writeMem at_ rec_).updIommu fun u => { u with fqt := (u.fqt + 1) % ioqSize u.fqb })

/-! ## Contexts -/

/-- Why a translation stops: the cause, and the guest PA that a second stage could not translate. -/
structure IoStop where
  cause : Nat
  val2  : Nat := 0
  deriving DecidableEq, Repr

/-- The kind of access of a request. A translation request asks to read. -/
def ioKind (a : BusAccess) : Nat :=
  if a.at_ = 1 then kindR else if a.amo.isSome then kindRW else if a.write.isSome then kindW else if a.exec then kindX else kindR

/-- A page fault of an access: cause 12, 13 or 15, or of the second stage 20, 21 or 23. -/
def ioPageFault (second : Bool) (kind : Nat) : Nat := (if second then 8 else 0) + if kind = 2 then 12 else if needsW kind then 15 else 13

/-- An access fault of an access: cause 1, 5 or 7. -/
def ioAccessFault (kind : Nat) : Nat := if kind = 2 then 1 else if needsW kind then 7 else 5

/-- What a failed walk is: `.protection false` stands for an access fault on the way. -/
def WalkResult.ioStop (kind gpa : Nat) : WalkResult → IoStop
  | .pageFault false => { cause := ioPageFault false kind }
  | .protection false => { cause := ioAccessFault kind }
  | _ => { cause := ioPageFault true kind, val2 := gpa / 4 * 4 + 1 }

/-- The device extension is in force for the IOMMU: as on the Juazo cores, whose JCFG it follows (R369, R376). -/
def State.ioExt (s : State) : Bool := !s.jcfg.isEmpty

/-- A leaf with its A and D bits: updated where the context says so, else they must stand. PBMT 3 is reserved. -/
def State.ioLeaf (s : State) (f : Leaf) (ade write : Bool) : Option (Nat × State) :=
  if slice f.pte 62 61 = 3 then none
  else if ade then some (s.setAD f write)
  else if bitOf f.pte 6 && (!write || bitOf f.pte 7) then some (f.pte, s) else none

/-- The second stage of a guest PA, as `iohgatp` and GADE of a device context have it: the PA, the leaf and the size of its page. -/
def State.ioStage2 (s : State) (dc : List Nat) (gpa kind : Nat) : Except WalkResult (Nat × Nat × Nat × State) :=
  let h := nth 0 dc 1
  if slice h 63 60 = 0 then .ok (gpa, 0xDF, 4096, s)
  else if 2 ^ 59 ≤ gpa then .error (.pageFault true)
  else
    let look (s : State) (a : Nat) : Except WalkResult (Nat × State) := if isDeviceMemory a then .ok (a, s) else .error (.protection false)
    match walkTable s.ioExt (.pageFault true) look 11 gpa 4 (slice h 43 0 * 4096) s with
    | .error e => .error e
    | .ok (f, s) =>
      if !(bitOf f.pte 4 && ptePermits f.pte kind) then .error (.pageFault true)
      else match s.ioLeaf f (bitOf (nth 0 dc 0) 7) (needsW kind) with
        | none => .error (.pageFault true)
        | some r => .ok (leafBase r.1 + gpa % leafSize f.level r.1, r.1, leafSize f.level r.1, r.2)

/-- A walk of a directory from its top index down, through a translation of its addresses: the address of the leaf entry of `n` bytes. `bad` is
the cause of a load that faults; the two above it are those of an entry that is not valid and of one that is misconfigured. -/
def ioDirectory (look : State → Nat → Except IoStop (Nat × State)) (bad n : Nat) : List Nat → Nat → State → Except IoStop (Nat × State)
  | [], table, s => look s table
  | [i], table, s => look s (table + n * i)
  | i :: r, table, s => match look s (table + 8 * i) with
    | .error e => .error e
    | .ok (pa, s) =>
      let e := s.readNat pa 8
      if !(bitOf e 0) then .error { cause := bad + 1 }
      else if slice e 9 1 ≠ 0 ∨ slice e 63 54 ≠ 0 then .error { cause := bad + 2 }
      else ioDirectory look bad n r (ioqBase e) s

/-- A device context is misconfigured: reserved bits, features that depend on others, or modes that are not there. -/
def dcBad (dc : List Nat) : Bool :=
  let tc := nth 0 dc 0
  let mode (k : Nat) : Nat := slice (nth 0 dc k) 63 60
  slice tc 63 32 != 0 || slice tc 23 12 != 0 || bitOf tc 10 || bitOf tc 11 ||
    (!(bitOf tc 1) && (bitOf tc 2 || bitOf tc 3 || bitOf tc 6)) || (!(bitOf tc 2) && bitOf tc 6) || (bitOf tc 3 && mode 1 == 0) ||
    (!(bitOf tc 5) && bitOf tc 9) || !([0, 10].contains (mode 1)) || (mode 1 == 10 && nth 0 dc 1 % 4 != 0) ||
    !((if bitOf tc 5 then [0, 1, 2, 3] else [0, 10]).contains (mode 3)) || decide (1 < mode 4) || slice (nth 0 dc 5) 63 52 != 0 ||
    slice (nth 0 dc 6) 63 52 != 0 || slice (nth 0 dc 2) 11 0 != 0

/-- The device context of a device: cached, or read from the directory that `ddtp` names. -/
def State.deviceContext (s : State) (dev : Nat) : Except IoStop (List Nat × State) :=
  match s.iommu.dcs.find? fun e => e.1 == dev && Config.cacheKeeps s.tick dev with
  | some e => .ok (e.2, s)
  | none =>
    let levels := slice s.iommu.ddtp 3 0 - 1
    let idx := [slice dev 23 15, slice dev 14 6, slice dev 5 0]
    if (idx.take (3 - levels)).any fun i => i != 0 then .error { cause := 260 }
    else
      let look (s : State) (a : Nat) : Except IoStop (Nat × State) := if isDeviceMemory a then .ok (a, s) else .error { cause := 257 }
      match ioDirectory look 257 64 (idx.drop (3 - levels)) (ioqBase s.iommu.ddtp) s with
      | .error e => .error e
      | .ok (pa, s) =>
        let dc := (List.range 8).map fun k => s.readNat (pa + 8 * k) 8
        if !(bitOf (nth 0 dc 0) 0) then .error { cause := 258 }
        else if dcBad dc then .error { cause := 259 }
        else .ok (dc, s.updIommu fun u => { u with dcs := (dev, dc) :: u.dcs.filter fun e => e.1 != dev })

/-- The process context of a device: its TA and its first stage. -/
def State.processContext (s : State) (dc : List Nat) (dev pid kind : Nat) : Except IoStop (List Nat × State) :=
  match s.iommu.pcs.find? fun e => e.1 == dev && e.2.1 == pid && Config.cacheKeeps s.tick pid with
  | some e => .ok (e.2.2, s)
  | none =>
    let fsc := nth 0 dc 3
    let levels := slice fsc 63 60
    let idx := [slice pid 19 17, slice pid 16 8, slice pid 7 0]
    if (idx.take (3 - levels)).any fun i => i != 0 then .error { cause := 260 }
    else
      let look (s : State) (a : Nat) : Except IoStop (Nat × State) := match s.ioStage2 dc a kindR with
        | .ok (pa, _, _, s) => if isDeviceMemory pa then .ok (pa, s) else .error { cause := 265 }
        | .error (.protection false) => .error { cause := 265 }
        | .error e => .error (e.ioStop kind a)
      match ioDirectory look 265 16 (idx.drop (3 - levels)) (slice fsc 43 0 * 4096) s with
      | .error e => .error e
      | .ok (pa, s) =>
        let pc := [s.readNat pa 8, s.readNat (pa + 8) 8]
        if !(bitOf (nth 0 pc 0) 0) then .error { cause := 266 }
        else if slice (nth 0 pc 0) 11 3 ≠ 0 ∨ slice (nth 0 pc 0) 63 32 ≠ 0 ∨ [0, 10].contains (slice (nth 0 pc 1) 63 60) = false then
          .error { cause := 267 }
        else .ok (pc, s.updIommu fun u => { u with pcs := (dev, pid, pc) :: u.pcs.filter fun e => !(e.1 == dev && e.2.1 == pid) })

/-! ## A translation -/

/-- The first stage that an access meets: its root register, PSCID, whether it acts as a supervisor, and SUM. -/
structure IoSpace where
  satp  : Nat
  pscid : Nat
  super : Bool
  sum   : Bool
  deriving DecidableEq, Repr

/-- The first stage of an access under a device context, through its process context where it has one. -/
def State.ioSpace (s : State) (dc : List Nat) (a : BusAccess) : Except IoStop (IoSpace × State) :=
  let tc := nth 0 dc 0
  let user (satp ta : Nat) : IoSpace := { satp := satp, pscid := slice ta 31 12, super := false, sum := false }
  if !(bitOf tc 5) then (if a.pasid.isSome then .error { cause := 260 } else .ok (user (nth 0 dc 3) (nth 0 dc 2), s))
  else match a.pasid.orElse fun _ => if bitOf tc 9 then some 0 else none with
    | none => .ok (user 0 0, s)
    | some pid =>
      if slice (nth 0 dc 3) 63 60 = 0 then .ok (user 0 0, s)
      else match s.processContext dc a.dev pid (ioKind a) with
        | .error e => .error e
        | .ok (pc, s) =>
          let ta := nth 0 pc 0
          if a.priv && !(bitOf ta 1) then .error { cause := 260 }
          else .ok ({ satp := nth 0 pc 1, pscid := slice ta 31 12, super := a.priv, sum := bitOf ta 2 }, s)

/-- A leaf of the first stage lets an access through, U with privilege. -/
def IoSpace.permits (y : IoSpace) (pte kind : Nat) : Bool :=
  ptePermits pte kind && if y.super then (!(bitOf pte 4) || (y.sum && kind != kindX)) else bitOf pte 4

/-- The bits of an address that a mask picks, gathered (the number of an interrupt file). -/
def gatherBits (x mask : Nat) : Nat := packFields (((List.range 52).filter (bitOf mask)).map fun k => (b2n (bitOf x k), 1))

/-- A guest PA lies in the MSI pages of a device context. -/
def msiPage (dc : List Nat) (gpa : Nat) : Bool :=
  slice (nth 0 dc 4) 63 60 == 1 && gpa / 4096 ||| nth 0 dc 5 == nth 0 dc 6 ||| nth 0 dc 5

/-- The MSI page table, flat and without memory-resident files: the page of the interrupt file that a guest PA stands for. -/
def State.msiTranslate (s : State) (dc : List Nat) (gpa : Nat) : Except IoStop Nat :=
  let at_ := slice (nth 0 dc 4) 43 0 * 4096 + 16 * gatherBits (gpa / 4096) (nth 0 dc 5)
  let e := s.readNat at_ 8
  if !(isDeviceMemory at_) then .error { cause := 261 }
  else if !(bitOf e 0) then .error { cause := 262 }
  else if slice e 2 1 ≠ 3 ∨ slice e 9 3 ≠ 0 ∨ slice e 63 54 ≠ 0 ∨ s.readNat (at_ + 8) 8 ≠ 0 then .error { cause := 263 }
  else .ok (ioqBase e)

/-- A guest PA to its page: through the MSI page table, or the second stage. -/
def State.ioGuest (s : State) (dc : List Nat) (gpa kind : Nat) : Except IoStop (Nat × Nat × Nat × State) :=
  if msiPage dc gpa then (match s.msiTranslate dc gpa with
    | .error e => .error e
    | .ok pa => .ok (pa + gpa % 4096, 0xC6, 4096, s))
  else match s.ioStage2 dc gpa kind with
    | .error (.protection false) => .error { cause := ioAccessFault kind }
    | .error _ => .error { cause := ioPageFault true kind, val2 := gpa / 4 * 4 }
    | .ok r => .ok r

/-- The page of an address in a first stage and the second: what a cache of the IOMMU would hold. -/
def State.ioWalk (s : State) (dc : List Nat) (y : IoSpace) (va kind : Nat) : Except IoStop (IoEntry × State) :=
  let h := nth 0 dc 1
  let gscid := if slice h 63 60 = 0 then none else some (slice h 59 44)
  let entry (pte size gpa : Nat) (r : Nat × Nat × Nat × State) : IoEntry × State :=
    let n := min size r.2.2.1
    let both (k : Nat) : Bool := bitOf pte k && bitOf r.2.1 k
    ({ gscid := gscid, pscid := if slice y.satp 63 60 = 0 then none else some y.pscid, vbase := va / n * n, size := n, pbase := r.1 / n * n,
       gbase := gpa / n * n, r := both 1, w := both 2 && both 7, x := both 3, u := bitOf pte 4, g := bitOf pte 5 }, r.2.2.2)
  if slice y.satp 63 60 = 0 then (s.ioGuest dc va kind).map (entry 0xDF 4096 va)
  else if slice va 63 56 ≠ 0 ∧ slice va 63 56 ≠ 255 then .error { cause := ioPageFault false kind }
  else
    let look (s : State) (a : Nat) : Except WalkResult (Nat × State) := match s.ioStage2 dc a kindR with
      | .ok (pa, _, _, s) => if isDeviceMemory pa then .ok (pa, s) else .error (.protection false)
      | .error e => .error e
    match walkTable s.ioExt (.pageFault false) look 9 va 4 (slice y.satp 43 0 * 4096) s with
    | .error e => .error (e.ioStop kind va)
    | .ok (f, s) =>
      if !(y.permits f.pte kind) then .error { cause := ioPageFault false kind }
      else match s.ioLeaf f (bitOf (nth 0 dc 0) 8) (needsW kind) with
        | none => .error { cause := ioPageFault false kind }
        | some r =>
          let size := leafSize f.level r.1
          let gpa := leafBase r.1 + va % size
          (r.2.ioGuest dc gpa kind).map (entry r.1 size gpa)

/-- A cached page serves an access. -/
def IoEntry.serves (e : IoEntry) (gscid pscid : Option Nat) (va kind : Nat) : Bool :=
  decide (e.gscid = gscid) && (decide (e.pscid = pscid) || (e.g && pscid.isSome)) && decide (e.vbase ≤ va) && decide (va < e.vbase + e.size) &&
    (!needsR kind || e.r) && (!needsW kind || e.w) && (kind != kindX || e.x)

/-- The page of an access: from the cache, while it keeps it, or by a walk. -/
def State.ioPage (s : State) (dc : List Nat) (y : IoSpace) (va kind : Nat) : Except IoStop (IoEntry × State) :=
  let h := nth 0 dc 1
  let gscid := if slice h 63 60 = 0 then none else some (slice h 59 44)
  let pscid := if slice y.satp 63 60 = 0 then none else some y.pscid
  let held (e : IoEntry) : Bool := e.serves gscid pscid va kind && (if y.super then !e.u || (y.sum && kind != kindX) else e.u) &&
    Config.cacheKeeps s.tick va
  match (if msiPage dc va then none else s.iommu.tlb.find? held) with
  | some e => .ok (e, s)
  | none => match s.ioWalk dc y va kind with
    | .error e => .error e
    | .ok (e, s) => .ok (e, if msiPage dc e.gbase then s else s.updIommu fun u => { u with tlb := e :: u.tlb })

/-- The context and the page of an access of a PCI Express function; with `ddtp` in Bare mode its address stands, and a translated address
is taken as it is, or as a guest PA where the context says so. -/
def State.ioTranslate (s : State) (a : BusAccess) : Except IoStop (List Nat × IoEntry × State) :=
  let bare (pa : Nat) : IoEntry :=
    { gscid := none, pscid := none, vbase := pa / 4096 * 4096, size := 4096, pbase := pa / 4096 * 4096, gbase := pa / 4096 * 4096,
      r := true, w := true, x := true, u := true, g := false }
  match slice s.iommu.ddtp 3 0 with
  | 0 => .error { cause := 256 }
  | 1 => if a.at_ = 0 then .ok ([], bare a.pa, s) else .error { cause := 260 }
  | _ => match s.deviceContext a.dev with
    | .error e => .error e
    | .ok (dc, s) =>
      let tc := nth 0 dc 0
      if a.at_ ≠ 0 ∧ bitOf tc 1 = false then .error { cause := 260 }
      else if a.at_ = 2 then
        if bitOf tc 3 then (s.ioGuest dc a.pa (ioKind a)).map fun r =>
          (dc, { bare r.1 with vbase := a.pa / 4096 * 4096 }, r.2.2.2)
        else .ok (dc, bare a.pa, s)
      else match s.ioSpace dc a with
        | .error e => .error e
        | .ok (y, s) => (s.ioPage dc y a.pa (ioKind a)).map fun r => (dc, r.1, r.2)

/-- TTYP of a fault record. -/
def ioTtyp (a : BusAccess) : Nat :=
  if a.at_ = 1 then 8 else (if a.at_ = 2 then 4 else 0) + if needsW (ioKind a) then 3 else if a.exec then 1 else 2

/-- The record of a fault. -/
def ioFaultRecord (a : BusAccess) (e : IoStop) : List Byte :=
  leBytes 32 (packFields [(e.cause, 12), (a.pasid.getD 0, 20), (b2n a.pasid.isSome, 1), (b2n a.priv, 1), (ioTtyp a, 6), (a.dev, 24), (0, 64),
    (a.pa, 64), (e.val2, 64)])

/-- Faults that DTF of a context does not keep from being reported. -/
def ioAlways (cause : Nat) : Bool := [256, 257, 258, 259, 268, 273].contains cause

/-- A translation has stopped: it is reported, unless the context says that its faults are not, and the function gets an error. A translation
request that only finds no page, or no permission, completes without any. -/
def State.ioFail (s : State) (a : BusAccess) (e : IoStop) : State :=
  let dtf := match s.iommu.dcs.find? fun x => x.1 == a.dev with | some x => bitOf (nth 0 x.2 0) 4 | none => false
  let quiet := decide (a.at_ = 1) && [12, 13, 15, 20, 21, 23, 262, 266].contains e.cause
  let s := if quiet || (dtf && !(ioAlways e.cause)) then s else s.ioReport (ioFaultRecord a e)
  { s with hostOut := s.hostOut ++ [if quiet then .translated a.dev a.pa 0 4096 0 else .error a.who] }

/-- A translation request is answered: the page, with what its leaf permits; where T2GPA says so the guest PA. -/
def State.ioAnswer (s : State) (a : BusAccess) (dc : List Nat) (e : IoEntry) : State :=
  let base := if bitOf (nth 0 dc 0) 3 then e.gbase else e.pbase
  { s with hostOut := s.hostOut ++ [.translated a.dev e.vbase base e.size (b2n e.r + 2 * b2n e.w + 4 * b2n e.x)] }

/-! ## Page requests and commands -/

/-- A response to a page request: its group, and the code 0 for success, 1 for an invalid request, 15 for a failure. -/
def State.pageResponse (s : State) (lo hi code : Nat) : State :=
  { s with hostOut := s.hostOut ++ [.pageResponse (slice lo 63 40) (if bitOf lo 32 then some (slice lo 31 12) else none)
      (slice hi 11 3 * 2 ^ 32 + code * 2 ^ 44)] }

/-- A page request of a device (PRI): it enters the page-request queue; one that cannot is answered at once. -/
def State.pageRequest (s : State) (lo hi : Nat) : State :=
  let u := s.iommu
  let raise (t : State) : State := if bitOf t.iommu.pqcsr 1 then t.ioInterrupt 3 else t
  let reply (t : State) (code : Nat) : State := if bitOf hi 2 then t.pageResponse lo hi code else t
  let at_ := ioqBase u.pqb + 16 * u.pqt
  if slice u.ddtp 3 0 < 2 then reply s 15
  else match s.deviceContext (slice lo 63 40) with
    | .error _ => reply s 15
    | .ok (dc, s) =>
      if !(bitOf (nth 0 dc 0) 2) then reply s 1
      else if !(bitOf u.pqcsr 0) || bitOf u.pqcsr 8 then reply s 15
      else if bitOf u.pqcsr 9 || (u.pqt + 1) % ioqSize u.pqb == u.pqh then
        raise (reply (s.updIommu fun u => { u with pqcsr := setBit u.pqcsr 9 }) 0)
      else if !(isDeviceMemory at_) then raise (reply (s.updIommu fun u => { u with pqcsr := setBit u.pqcsr 8 }) 15)
      else raise ((s.writeMem at_ (leBytes 8 lo ++ leBytes 8 hi)).updIommu fun u => { u with pqt := (u.pqt + 1) % ioqSize u.pqb })

/-- IOTINVAL picks a cached page. -/
def ioInvalidates (lo hi : Nat) (e : IoEntry) : Bool :=
  let addr := slice hi 61 10 * 4096
  let inside (base : Nat) : Bool := !(bitOf lo 10) || (decide (base ≤ addr) && decide (addr < base + e.size))
  if slice lo 9 7 = 0 then
    (if bitOf lo 33 then decide (e.gscid = some (slice lo 59 44)) else e.gscid.isNone) &&
      (!(bitOf lo 32) || (decide (e.pscid = some (slice lo 31 12)) && !e.g)) && inside e.vbase
  else e.gscid.isSome && (!(bitOf lo 33) || decide (e.gscid = some (slice lo 59 44))) && inside e.gbase

/-- A fence may complete: the invalidations before it are answered, and what it asks of reads and writes of devices is performed. -/
def State.fenceReady (s : State) (lo : Nat) : Bool :=
  s.iommu.asked.isEmpty && s.dma.all fun a => if a.write.isSome then !(bitOf lo 13) else !(bitOf lo 12)

/-- A command of 16 bytes: the state after it; none for an illegal one. A fence that must wait is not done. -/
def State.ioCommand (s : State) (lo hi : Nat) : Option State :=
  let f := slice lo 9 7
  match slice lo 6 0 with
  | 1 => if 2 ≤ f then none else some (s.updIommu fun u => { u with tlb := u.tlb.filter fun e => !(ioInvalidates lo hi e) })
  | 2 => if f ≠ 0 then none else
      let at_ := hi * 4 % 2 ^ 56
      some (if bitOf lo 10 && isDeviceMemory at_ then s.engineWrite (.glb at_) (leBytes 4 (slice lo 63 32)) else s)
  | 3 => if 2 ≤ f ∨ (f = 1 ∧ bitOf lo 33 = false) then none else
      let dev := slice lo 63 40
      let hit (d : Nat) : Bool := !(bitOf lo 33) || d == dev
      some (s.updIommu fun u =>
        if f = 0 then { u with dcs := u.dcs.filter fun e => !(hit e.1), pcs := u.pcs.filter fun e => !(hit e.1) }
        else { u with pcs := u.pcs.filter fun e => !(e.1 == dev && e.2.1 == slice lo 31 12) })
  | 4 =>
    let dev := slice lo 55 40 + if bitOf lo 33 then slice lo 63 56 * 2 ^ 16 else 0
    let pid := if bitOf lo 32 then some (slice lo 31 12) else none
    if f = 0 then
      let tag := s.nextReq
      some ({ s with nextReq := tag + 1, hostOut := s.hostOut ++ [HostOut.invalidate dev pid hi tag] }.updIommu fun u =>
        { u with asked := u.asked ++ [tag] })
    else if f = 1 then some { s with hostOut := s.hostOut ++ [.pageResponse dev pid hi] }
    else none
  | _ => none

/-- The IOMMU takes the next command of its queue. -/
def State.nextCommand (s : State) : State :=
  let u := s.iommu
  let raise (t : State) : State := if bitOf t.iommu.cqcsr 1 then t.ioInterrupt 0 else t
  let at_ := ioqBase u.cqb + 16 * u.cqh
  let next (t : State) : State := t.updIommu fun u => { u with cqh := (u.cqh + 1) % ioqSize u.cqb }
  if !(bitOf u.cqcsr 0) || decide (slice u.cqcsr 10 8 ≠ 0) || u.cqh == u.cqt then s
  else if !(isDeviceMemory at_) then raise (s.updIommu fun u => { u with cqcsr := setBit u.cqcsr 8 })
  else
    let lo := s.readNat at_ 8
    if slice lo 6 0 = 2 ∧ s.fenceReady lo = false then s
    else match s.ioCommand lo (s.readNat (at_ + 8) 8) with
      | some t => next t
      | none => raise (s.updIommu fun u => { u with cqcsr := setBit u.cqcsr 10 })

/-! ## Registers -/

/-- `capabilities`: version 1.0, Sv57, Sv57x4, Svpbmt, flat MSI page tables, A and D updates, ATS, guest PAs for ATS, MSIs, 56 PA bits, and
process numbers of 8, 17 and 20 bits; no performance monitor (R369). -/
def ioCapabilities : Nat :=
  0x10 + 2 ^ 11 + 2 ^ 15 + 2 ^ 19 + 2 ^ 22 + 2 ^ 24 + 2 ^ 25 + 2 ^ 26 + 56 * 2 ^ 32 + 2 ^ 38 + 2 ^ 39 + 2 ^ 40

/-- A register with ENABLE, which also shows in its ON bit. -/
def ioCsr (v : Nat) : Nat := v + if bitOf v 0 then 2 ^ 16 else 0

/-- The register at an offset: its size in bytes and its value. -/
def Iommu.reg (u : Iommu) (off : Nat) : Nat × Nat :=
  match off with
  | 0 => (8, ioCapabilities) | 8 => (4, u.fctl) | 16 => (8, u.ddtp)
  | 24 => (8, u.cqb) | 32 => (4, u.cqh) | 36 => (4, u.cqt)
  | 40 => (8, u.fqb) | 48 => (4, u.fqh) | 52 => (4, u.fqt)
  | 56 => (8, u.pqb) | 64 => (4, u.pqh) | 68 => (4, u.pqt)
  | 72 => (4, ioCsr u.cqcsr) | 76 => (4, ioCsr u.fqcsr) | 80 => (4, ioCsr u.pqcsr) | 84 => (4, u.ipsr)
  | 760 => (8, u.icvec)
  | _ => if 768 ≤ off ∧ off < 1024 then (4, Assoc.getD 0 u.msiCfg ((off - 768) / 4)) else (4, 0)

/-- ENABLE and INTERRUPT ENABLE are written; the flags of `flags` are cleared by writing 1. -/
def ioWriteCsr (old v flags : Nat) : Nat := (old &&& (0xF00 - (v &&& flags))) + v % 4

/-- A write to a register. Enabling a queue starts it empty. -/
def Iommu.write (u : Iommu) (off v : Nat) : Iommu :=
  let base (b : Nat) : Nat := b &&& (0x3FFFFFFFFFFC00 + 31)
  match off with
  | 16 => { u with ddtp := if slice v 3 0 ≤ 4 then (v &&& 0x3FFFFFFFFFFC0F) else u.ddtp }
  | 24 => { u with cqb := base v, cqt := 0 }
  | 36 => { u with cqt := v % ioqSize u.cqb }
  | 40 => { u with fqb := base v, fqh := 0 }
  | 48 => { u with fqh := v % ioqSize u.fqb }
  | 56 => { u with pqb := base v, pqh := 0 }
  | 64 => { u with pqh := v % ioqSize u.pqb }
  | 72 => { u with cqcsr := ioWriteCsr u.cqcsr v 0xF00, cqh := if bitOf v 0 && !(bitOf u.cqcsr 0) then 0 else u.cqh }
  | 76 => { u with fqcsr := ioWriteCsr u.fqcsr v 0x300, fqt := if bitOf v 0 && !(bitOf u.fqcsr 0) then 0 else u.fqt }
  | 80 => { u with pqcsr := ioWriteCsr u.pqcsr v 0x300, pqt := if bitOf v 0 && !(bitOf u.pqcsr 0) then 0 else u.pqt }
  | 84 => { u with ipsr := u.ipsr &&& (15 - v % 16) }
  | 760 => { u with icvec := v % 2 ^ 16 }
  | _ => if 768 ≤ off ∧ off < 1024 then { u with msiCfg := Assoc.put u.msiCfg ((off - 768) / 4) (v % 2 ^ 32) } else u

/-- A Juazo core reads a register. -/
def State.iommuRead (s : State) (who off : Nat) : State :=
  { s with hostOut := s.hostOut ++ [.data who (leBytes (s.iommu.reg off).1 (s.iommu.reg off).2)] }

end Sys2Proof.Machine
end

