-- ==== Sys2Proof/Machine/ControlPlane.lean ====
section
/-!
DEFINITION. The control plane: the power clamp (R22 to R24), start-up (R427 to R431), die resets (R238), scrubbing and checkpoints
(R433, R439), shootdowns (R380), accesses from outside (R237, R319, R368), writes to the windows (R234, R326, R366, R435 to R438), and
the records of R26.
-/
namespace Sys2Proof.Machine

/-! ## The power clamp (R22 to R24) -/

/-- A power-clamp record (R24). -/
def State.powerRecord (s : State) (avg die trigger : Nat) (ends : Bool) (mhz : Nat) : State :=
  s.record 4 { kind := 10, val := packFields [(mhz, 16), (b2n ends, 1), (trigger, 2), (0, 1), (die, 4), (0, 8), (avg, 32)] }

/-- One decision of the controller: a lowering condition holds or not. -/
def State.powerDecision (s : State) (lower : Bool) : State :=
  let p := s.power
  if lower then
    let mhz := if p.mhz ≤ 1800 then p.mhz else p.mhz - 100
    { s with power := { p with mhz := mhz, low := min p.low mhz, peak := false } }
  else if 3900 ≤ p.avg then { s with power := { p with peak := false } }
  else
    let mhz := p.mhz + 100
    let s : State := { s with power := { p with mhz := mhz, peak := false, clamp := decide (mhz < 3600) } }
    if mhz < 3600 then s else s.powerRecord p.avg 0 0 true p.low

/-- The samples of the last 10 ms, newest first, when one of `w` W stands for `n` microseconds; before 10 ms have been sampled their average is
that of the samples there are (assumption 121). -/
def Power.sampled (p : Power) (n w : Nat) : List Nat := (List.replicate (min n 10000) w ++ p.samples).take 10000

/-- The average of some samples, rounded down to whole W: R24 does not say how it is brought to the 32 bits of VAL (assumption 124). -/
def average (l : List Nat) : Nat := l.sum / max 1 l.length

/-- POWER_SAMPLE: a sample of the input power, `ev.k` W, for the microseconds since the last; `ev.hot` is a die at 105 °C. EPKG counts its
energy (R19, R419). The first at which a condition of R22 holds begins the clamp with a decision. -/
def execPowerSample (s : State) : Host.Outcome State Fault Refusal :=
  let n := (s.time - s.power.lastSample) / 1000
  let l := s.power.sampled n s.ev.k
  let p := s.power
  .next (if s.time < p.lastSample + 1000 then s
    else
      let avg := average l
      let s : State := { s with epkg := (s.epkg + 1024 * s.ev.k * n) % 2 ^ 64 }
      let p : Power :=
        { p with avg := avg, samples := l, lastSample := s.time / 1000 * 1000, peak := p.peak || decide (4400 ≤ s.ev.k) }
      if p.clamp then { s with power := p }
      else if 4000 ≤ avg ∨ 4400 ≤ s.ev.k ∨ s.ev.hot.isSome = true then
        let t := { s with power := { p with clamp := true, low := p.mhz, lastDecision := s.time } }.powerDecision true
        let trigger := if 4000 ≤ avg then 0 else if 4400 ≤ s.ev.k then 1 else 2
        t.powerRecord avg (if trigger = 2 then s.ev.hot.getD 0 else 0) trigger false t.power.mhz
      else { s with power := { p with peak := false } })

/-- POWER_CLAMP_DECISION: every 10 µs of the clamp; `ev.hot` is a die at 105 °C. -/
def execPowerClampDecision (s : State) : Host.Outcome State Fault Refusal :=
  let p := s.power
  .next (if p.clamp ∧ p.lastDecision + 10000 ≤ s.time then
      { s with power := { p with lastDecision := p.lastDecision + 10000 } }.powerDecision
        (decide (4000 ≤ p.avg) || p.peak || s.ev.hot.isSome)
    else s)

/-! ## Start-up (R427 to R431) -/

/-- A record of the event kind that R26 and R433 ask for without laying it out: its KIND, CAUSE and VAL are free values. -/
def State.openRecord (s : State) (src kind : Nat) (k : Nat) : State :=
  s.record src { kind := kind, cause := (Config.free s.tick k).toNat % 256, val := (Config.free s.tick (k + 1)).toNat }

/-- The fields of EVMSI; the other bits are reserved (R437). -/
def evmsiBits : DWord := 0x80FFFFFFFFFFF1FF

/-- An image is accepted when both of its signatures verify (R428). -/
def imageAccepted (i : BootImage) : Bool := i.edOk && i.mldsaOk

/-- Both images are accepted. -/
def imagesOk (i : BootInput) : Bool := imageAccepted i.firmware && imageAccepted i.config

/-- The digest of an image, over its header and its body (R428). -/
def imageDigest (i : BootImage) : BitVec 384 := Config.sha384 (leBytes 64 i.header.toNat ++ i.body)

/-- The configuration image takes effect (R431). -/
def State.configure (s : State) (i : BootInput) : State :=
  let own : BitVec 32 := BitVec.ofNat 32 (2 ^ (i.pkg.toNat / 32))
  let map := own ||| i.conngrp.getD own
  { s with pkg := i.pkg, evmsi := i.evmsi &&& evmsiBits, conngrp := map, connmap := map,
           boot := { s.boot with bifurc := i.bifurc, bootSrc := i.bootSrc, scrubOff := i.scrubOff, images := some (i.firmware, i.config) } }

/-- A module that fails its training at start-up is down at both ends, and a KIND 9 record says so, with one of its boundary if no module of
that is up (R354, R360, R372). -/
def State.deadModule (s : State) (x : Nat × Nat × Nat) : State :=
  if (s.link x.1 x.2.1 x.2.2).down then s
  else (s.updModule x.1 x.2.1 x.2.2 fun e => { e with down := true, width := 0, half := 3 }).moduleGone x.1 x.2.1 x.2.2

/-- A module of which one half alone passes its training at start-up carries half its width (R358, R427). -/
def State.halfModule (s : State) (x : Nat × Nat × Nat × Bool) : State :=
  s.updModule x.1 x.2.1 x.2.2.1 fun e => { e with width := linkFull x.1 x.2.1 / 2, half := if x.2.2.2 then 2 else 1 }

/-- The package stays in reset while its identity fails, and the dies while the ROM waits for an image (R427, R430). -/
def Boot.held (b : Boot) : Bool := b.err == 1 || b.err == 2

/-- What happens while the package is held in reset: a start, a replacement image, and the passage of time. -/
def Act.inReset : Act → Bool
  | .event i _ => decide (i = .powerOnBoot) || decide (i = .recoveryImage)
  | .elapse _ _ => true
  | _ => false

/-- Every compute die is in reset, or leaves it (R430, R417). -/
def State.holdDies (s : State) (hold : Bool) : State :=
  { s with dies := s.dies.map fun k => { k with dieReset := hold, cycle := 0 } }

/-- The steps of R427 in order; a failing one sets ERR, and the steps after it do not run, but for step 5, after which the
package goes on without the fabric links that failed. While identity or images
fail, every die is held in reset (R427, R430). `six` says that step 6 has completed. -/
def State.start (s : State) (i : BootInput) (six : Bool) : State :=
  let stop (s : State) (step err : Nat) : State := { s with boot := { s.boot with step := step, err := err } }
  if !i.identityOk then (stop s 0 1).holdDies true
  else if !(imagesOk i) then
    let s := (stop s 1 2).holdDies true
    { s with boot := { s.boot with tries := min 255 (s.boot.tries + 1) } }
  else
    let fabric (x : Nat × Nat × Nat) : Bool := x.2.1 == 4
    let halves (s : State) (far : Bool) : State := (i.halfLinks.filter fun x => (x.2.1 == 4) == far).foldl State.halfModule s
    let s := ((i.badLinks.filter fun x => !(fabric x)).foldl State.deadModule (halves ((s.configure i).holdDies false) false))
    let s := if i.scrubOff.isEmpty then s else s.openRecord 4 4 103
    if i.badLinks.any fun x => !(fabric x) then stop s 2 3
    else if !i.hbmOk then stop s 3 4
    else
      let up := i.fabricOk && !(i.badLinks.any fabric)
      stop ((i.badLinks.filter fabric).foldl State.deadModule (halves s true)) (if six then 6 else 5) (if up then 0 else 5)

/-- POWER_ON_BOOT: package reset, and the steps of R427 with what `ev.boot` gives them; `ev.hi` says that step 6 completes. -/
def execPowerOnBoot (s : State) : Host.Outcome State Fault Refusal :=
  .next (match s.ev.boot with
    | some i => { State.reset with agenda := s.agenda, tick := s.tick, hostOut := s.hostOut, ev := s.ev }.start i s.ev.hi
    | none => s)

/-- RECOVERY_IMAGE: a replacement image arrives while the ROM waits for one (R430): one that verifies starts the package again at
step 1. -/
def execRecoveryImage (s : State) : Host.Outcome State Fault Refusal :=
  .next (match s.ev.boot with
    | some i =>
      if s.boot.err ≠ 2 then s
      else if imagesOk i then { s with boot := { s.boot with step := 0, err := 0 } }.start i s.ev.hi
      else { s with boot := { s.boot with tries := min 255 (s.boot.tries + 1) } }
    | none => s)

/-- The attestation report of a start with two images, for a nonce (R429). -/
def attestation (fw cfg : BootImage) (nonce : BitVec 512) : Report :=
  let f := imageDigest fw
  let c := imageDigest cfg
  let v := (Config.imageVersion fw.header, Config.imageVersion cfg.header)
  { keys := Config.deviceKeys, rom := Config.romDigest, firmware := f, config := c, versions := v, nonce := nonce,
    ed := Config.sign false f c v.1 v.2 nonce, mldsa := Config.sign true f c v.1 v.2 nonce }

/-- ATTESTATION_REQUEST: Juazo core `ev.k` asks for a report with nonce `ev.w`, once the images of the start are in force (R429). -/
def execAttestationRequest (s : State) : Host.Outcome State Fault Refusal :=
  .next (match s.boot.images with
    | none => s
    | some (fw, cfg) =>
      let r := attestation fw cfg (s.ev.w.setWidth 512)
      { s with boot := { s.boot with report := some r }, hostOut := s.hostOut ++ [.report s.ev.k r] })

/-! ## Die resets (R238) -/

/-- COMPUTE_DIE_RESET_ENTER: the compute die of stack `ev.b` goes into reset. Its memory is served on; what its cores cached is gone.
The model enters it only while no block is resident on the stack. -/
def execComputeDieResetEnter (s : State) : Host.Outcome State Fault Refusal :=
  let stk := s.ev.b
  .next (if 4 ≤ stk ∨ (s.blocks.any fun b => decide (b.place = .resident) && b.stk == stk) = true then s
    else { s.updStack stk fun k => { k with dieReset := true, tlb := [] } with cores := s.cores.filter fun c => c.1 / 192 != stk })

/-- COMPUTE_DIE_RESET_EXIT: it leaves reset, unless the ROM holds it there (R430); CYCLE counts from there (R417), and the wake-ups that its port has held go out (R238). -/
def execComputeDieResetExit (s : State) : Host.Outcome State Fault Refusal :=
  let w := s.ev.b
  .next (if w < 4 ∧ (s.stack w).dieReset = true ∧ s.boot.held = false then
      let s := s.updStack w fun k => { k with dieReset := false, cycle := 0 }
      (s.port w).descs.foldl (fun s e => s.changeDesc w e.1 id) s
    else s)

/-! ## Scrubbing and checkpoints (R433, R439) -/

/-- A KIND 4 record of an uncorrectable word: its tagged address, or the value that R204 gives a register. -/
def State.scrubRecord (s : State) (win core slot gid val : Nat) : State :=
  (if win < 4 then s.countFault win 0x1C else s).record win
    { kind := 4, cause := 0x1C, stk := win % 4, core := core, slot := slot, gid := gid, val := val }

/-- Report an uncorrectable word found at a place. -/
def State.scrubLoc (s : State) : Loc → State
  | .glb pa => s.scrubRecord (homeOf pa) 0 0 0 pa
  | .buf u sp off => match s.block? u with
    | some b => s.scrubRecord b.stk b.core 0 0 (tagOf sp (Int.ofNat off))
    | none => s

/-- Report uncorrectable word `k` of the package: of device memory and the typed buffers, then of the L1 copies, then of cell SRAM. What VAL holds
for a word of cell SRAM is not stated: a free value. -/
def State.scrubWord (s : State) (k : Nat) : State :=
  match nth? s.poisoned k with
  | some p => s.scrubLoc p
  | none => match nth? s.badLines (k - s.poisoned.length) with
    | some q => s.scrubRecord (q.1 / 192) (q.1 % 192) 0 0 q.2
    | none => match nth? s.badCells (k - s.poisoned.length - s.badLines.length) with
      | some q => s.scrubRecord q.1 0 0 0 (Config.free s.tick 112).toNat
      | none => s

/-- SCRUB_PASS: a scrub finds what `ev.scrub` says: a corrected word is counted at its stack; uncorrectable word `ev.k` of the
package, or of the registers of group `ev.g` of block `ev.b`, is reported. A disabled class is not scrubbed. -/
def execScrubPass (s : State) : Host.Outcome State Fault Refusal :=
  .next (match s.ev.scrub with
    | none => s
    | some x =>
      if s.boot.scrubOff.contains (if x.reg then 0 else x.cls) then s
      else if x.corrected then
        (if x.win < 4 ∧ x.cls < 7 then s.updStack x.win fun k =>
          { k with corrected := Assoc.put k.corrected x.cls (min (Assoc.getD 0 k.corrected x.cls + 1) (2 ^ 32 - 1)) } else s)
      else if x.reg then
        (match s.block? s.ev.b with
        | none => s
        | some b => match b.group? s.ev.g with
          | none => s
          | some g => match nth? g.bad s.ev.k with
            | some code => s.scrubRecord b.stk b.core g.slot g.gid (0xFFFFFFFFFFFFFF00 + code)
            | none => s)
      else s.scrubWord s.ev.k)

/-- LIST and PATH of a write to CKCTL. -/
def Checkpoint.write (c : Checkpoint) (v : DWord) : Checkpoint :=
  { c with list := BitVec.ofNat 64 (v.toNat / 256 * 256), path := v.getLsbD 1 }

/-- CHECKPOINT_START: a write of `ev.v` to CKCTL with START; START is ignored while a copy runs. -/
def execCheckpointStart (s : State) : Host.Outcome State Fault Refusal :=
  .next (if s.ev.v.getLsbD 0 = false then s
    else
      let c := s.ckpt.write s.ev.v
      { s with ckpt := { c with status := 1, copied := if c.status = 1 then c.copied else 0 } })

/-- Lines of HBM in a stack. -/
def stackLines : Nat := 0x6000000000 / 64

/-- The PA of a line of HBM, in the order of the image: stack by stack. -/
def linePa (k : Nat) : Nat := k / stackLines * 2 ^ 44 + 64 * (k % stackLines)

/-- The targets of `n` bytes of the image from a byte of it, as (address, bytes): what the entries of the target list at a PA give in order. None
past the list's end, which an entry of length 0 marks (assumption 122). The first number bounds the entries. -/
def State.imageTargets (s : State) : Nat → Nat → Nat → Nat → Option (List (Nat × Nat))
  | 0, _, _, _ => none
  | fuel + 1, at_, off, n =>
    let len := s.readNat (at_ + 8) 8
    if n = 0 then some []
    else if len = 0 ∨ isDeviceMemory at_ = false then none
    else if len ≤ off then s.imageTargets fuel (at_ + 16) (off - len) n
    else
      let k := min n (len - off)
      (s.imageTargets fuel (at_ + 16) 0 (n - k)).map fun r => (s.readNat at_ 8 + off, k) :: r

/-- Hand the bytes of a line to their targets, over the path of CKCTL. -/
def imageOut (path : Bool) : List (Nat × Nat) → List Byte → List HostOut
  | [], _ => []
  | (target, n) :: r, l => .image path target (l.take n) :: imageOut path r (l.drop n)

/-- The checkpoint engine copies the next line, as it stands now (R27, R439); with no target for it the copy stops with a target error. An
uncorrectable word of it is reported. -/
def State.copyLine (s : State) : State :=
  let c := s.ckpt
  let pa := linePa c.copied
  if c.status ≠ 1 ∨ 4 * stackLines ≤ c.copied then s
  else match s.imageTargets (64 * c.copied + 130) (c.list.toNat / 256 * 256) (64 * c.copied) 64 with
    | none => { s with ckpt := { c with status := 3 } }
    | some l =>
      let t : State := { s with ckpt := { c with copied := c.copied + 1 }, hostOut := s.hostOut ++ imageOut c.path l (s.readMem pa 64) }
      (s.poisoned.filter fun p => (wordMeets (.glb pa) 64 p).isSome).foldl State.scrubLoc t

/-- The checkpoint engine copies the next `n` lines. -/
def State.copyLines : Nat → State → State
  | 0, s => s
  | n + 1, s => State.copyLines n s.copyLine

/-- CHECKPOINT_DONE: the copy ends when every line has been copied; unless `ev.lo` it stops with a target error. -/
def execCheckpointDone (s : State) : Host.Outcome State Fault Refusal :=
  .next (if s.ckpt.status ≠ 1 then s
    else if s.ev.lo = false then { s with ckpt := { s.ckpt with status := 3 } }
    else if s.ckpt.copied < 4 * stackLines then s
    else { s with ckpt := { s.ckpt with status := 2 } })

/-! ## Accesses from outside -/

/-- TLB_SHOOTDOWN: the selection `ev.tlb` of a fence leaves every translation cache (R380). The step is its completion: it waits until
no access in flight reaches a dropped frame. -/
def execTlbShootdown (s : State) : Host.Outcome State Fault Refusal :=
  .next (match s.ev.tlb with
    | none => s
    | some sel => if s.framesBusy (s.framesOf sel) then s else s.dropLeaves sel)

/-- The bytes that an access names. -/
def busBytes (a : BusAccess) : Nat := if a.amo.isSome then a.len else match a.write with | some l => l.length | none => a.len

/-- An access is one that can be made: bytes of one line, and an atomic on an aligned word of 4 or 8 bytes with an operation of RISC-V's. -/
def busFits (a : BusAccess) : Bool :=
  decide (0 < busBytes a) && decide (a.pa % 64 + busBytes a ≤ 64) && match a.amo with
  | none => true
  | some op => decide (op ≤ 9) && (a.len == 4 || a.len == 8) && a.pa % a.len == 0 && a.write.isSome

/-- An access of one line by a Juazo core, a walker or a PCI Express function at the home L2 slice (R237, R319, R368): one to a PA that is no
device memory takes an access fault on its side (R226); a line that an engine owns is recalled first (R239). It crosses the front link of the home's
stack, and waits while that is down (R11). A read or an atomic of an uncorrectable word gives its data or an error. None while it must wait. -/
def State.busAccess? (s : State) (a : BusAccess) : Option State :=
  let n := busBytes a
  let bad := (s.poisonAt (.glb a.pa) n).isSome && (Config.free s.tick 105).toNat % 2 == 1
  let reads (s : State) : State := { s with hostOut := s.hostOut ++ [.data a.who (s.readMem a.pa n)] }
  let fails : State := { s with hostOut := s.hostOut ++ [.error a.who] }
  if !(isDeviceMemory a.pa) then some fails
  else if s.frontUp (homeOf a.pa) = false ∨ s.engineOwns a.pa n = true then none
  else match a.write, a.amo with
    | none, _ => some (if bad then fails else reads s)
    | some l, none => some (s.engineWrite (.glb a.pa) l)
    | some l, some op =>
      let new := svcNew op (8 * n) (s.readNat a.pa n) (leNat (l.take n)) (leNat (l.drop n))
      some (if bad then fails else (reads s).engineWrite (.glb a.pa) (leBytes n new))

/-- A PA lies in a PCI Express aperture (R437). -/
def isAperture (pa : Nat) : Bool := decide (9 ≤ pa / 2 ^ 44 ∧ pa / 2 ^ 44 ≤ 11)

/-- HOST_COHERENT_ACCESS: `ev.bus` by a Juazo core, to device memory or to a PCI Express aperture; the windows have rows of their own. -/
def execHostCoherentAccess (s : State) : Host.Outcome State Fault Refusal :=
  .next (match s.ev.bus with
    | some a =>
      if (windowOf a.pa).isSome || !(busFits a) then s
      else if isAperture a.pa then { s with hostOut := s.hostOut ++ [.peer a.who a.pa a.write a.len] }
      else (s.busAccess? a).getD s
    | none => s)

/-- An access of a PCI Express function at the PA that its translation gives: an MSI to an interrupt file, an access of a peer's aperture, or of device
memory at the home L2 slice; one to a window is an unsupported request (R368, R370, R435). -/
def State.dmaAt (s : State) (a : BusAccess) : Option State :=
  match Config.imsicAt (a.pa / 4096), a.write with
  | some _, some l => some (if a.pa % 4096 = 0 ∧ l.length = 4 then s.sendMsi a.pa (leNat l) else s)
  | _, _ =>
    if isAperture a.pa then some { s with hostOut := s.hostOut ++ [.peer a.who a.pa a.write a.len] }
    else s.busAccess? a

/-- The k-th waiting access of a PCI Express function is translated and performed, or answered with the fault or the translation that it asks
for. It passes no earlier posted write of its function (R368, R369). -/
def State.performDma (s : State) (k : Nat) : State :=
  match nth? s.dma k with
  | none => s
  | some a =>
    if (s.dma.take k).any fun e => e.dev == a.dev && e.write.isSome then s
    else
      let gone (t : State) : State := { t with dma := dropNth s.dma k }
      match s.ioTranslate a with
      | .error e => (gone s).ioFail a e
      | .ok (dc, e, t) =>
        if a.at_ = 1 then (gone t).ioAnswer a dc e
        else ((gone t).dmaAt { a with pa := e.pbase + (a.pa - e.vbase) }).getD s

/-- PCIE_DMA: `ev.bus` by a PCI Express function arrives, and is translated and performed unless it must wait (R368). -/
def execPcieDma (s : State) : Host.Outcome State Fault Refusal :=
  .next (match s.ev.bus with
    | some a => if busFits a && a.amo.isNone then { s with dma := s.dma ++ [a] }.performDma s.dma.length else s
    | none => s)

/-- What drivers and devices do at the front die outside the rows of the table (R27, R368 to R370, R439). -/
def State.atFront (s : State) : FrontAct → State
  | .iommuRead who off => s.iommuRead who off
  | .iommuWrite off v => s.updIommu fun u => u.write off v
  | .command => s.nextCommand
  | .pageRequest lo hi => s.pageRequest lo hi
  | .invalidated tag => s.updIommu fun u => { u with asked := u.asked.filter fun t => t != tag }
  | .imsicWrite core file reg v => if fileExists core file then s.updFile core file fun f => f.write reg v else s
  | .imsicClaim core file => s.claim core file
  | .aplicWrite off v => s.aplicWrite off v
  | .aplicSend k => s.aplicSend k
  | .dma k => s.performDma k
  | .checkpoint n => State.copyLines n s

/-! ## Writes to the windows (R234, R326, R435 to R438) -/

/-- A register of a partition has been written since EXIST was set (R432). -/
def Partition.wrote (p : Partition) (code : Nat) : Partition :=
  if p.exist && !(p.written.contains code) then { p with written := code :: p.written } else p

/-- Step 7 of R427 completes with the first partition whose registers have all been written (R432, assumption 84). -/
def State.partitionsMade (s : State) : State :=
  if s.boot.step = 6 ∧ (s.parts.any fun x => x.2.ready) = true then { s with boot := { s.boot with step := 7 } } else s

/-- SHM_WRITE: a write of `ev.v` to SHM`ev.k` of partition `ev.g` on stack `ev.b` (R234); `ev.lo` says that a host-coherence
request of the partition is outstanding. Writes to a stack's window wait while its front link carries nothing (R11). -/
def execShmWrite (s : State) : Host.Outcome State Fault Refusal :=
  let stk := s.ev.b
  let held := s.blocks.any fun b => b.stk == stk && (s.launchOf b).part == s.ev.g
  .next (if 4 ≤ stk ∨ 6 ≤ s.ev.k ∨ 16 ≤ s.ev.g ∨ s.frontUp stk = false then s
    else if held ∨ s.ev.lo = true then s.refuse stk
    else (s.updPart s.ev.g fun p =>
      { p with shm := setNth p.shm stk (setNth (nth [] p.shm stk) s.ev.k (s.ev.v &&& 0x00003FFFFFFFFFC0)) }.wrote (16 + 16 * stk + 2 + s.ev.k)).partitionsMade)

/-- DESCRIPTOR_WRITE: a write of `ev.v` to word `ev.n` of descriptor `ev.g` in window `ev.b` (R326). -/
def execDescriptorWrite (s : State) : Host.Outcome State Fault Refusal :=
  let w := s.ev.b
  .next (if 5 ≤ w ∨ 4096 ≤ s.ev.g ∨ 8 ≤ s.ev.n ∨ s.frontUp w = false then s
    else
      let image := BitVec.ofNat 512 (putBits (s.descImage (s.desc w s.ev.g)).toNat (64 * s.ev.n) 64 s.ev.v.toNat)
      let r := s.writeDesc w s.ev.g (s.ev.n == 6) image
      if r.1 then r.2.refuse w else r.2)

/-- ROOTINV_WRITE: a write of `ev.v` to ROOTINV of partition `ev.g` (R438). -/
def execRootinvWrite (s : State) : Host.Outcome State Fault Refusal :=
  .next { s with rcache := s.rcache.filter fun r =>
    !(r.1 == s.ev.g && (s.ev.v.getLsbD 16 || decide (r.2.1.toNat = field s.ev.v 15 0))) }

/-- LRINV_WRITE: a write of `ev.v` to LRINV of partition `ev.g` (R438). -/
def execLrinvWrite (s : State) : Host.Outcome State Fault Refusal :=
  .next { s with lcache := s.lcache.filter fun c =>
    !(c.part == s.ev.g && decide (c.asid.toNat = field s.ev.v 15 0) && (s.ev.v.getLsbD 22 || c.slot == field s.ev.v 21 16)) }

/-- A register that names a queue of a kind at a port may take a value: it is not valid, or names a valid queue of the kind. -/
def State.namesQueue (s : State) (w kind : Nat) (v : DWord) : Bool :=
  !(v.getLsbD 63) || ((s.desc w (field v 11 0)).valid && (s.desc w (field v 11 0)).kind == kind)

/-- A write to a register of a partition on a stack (R438). -/
def State.writeStackPart (s : State) (stk p r : Nat) (v : DWord) : State :=
  let put (f : Partition → Partition) : State := s.updPart p fun x => (f x).wrote (16 + 16 * stk + r / 8)
  match r with
  | 0x00 => if field v 55 44 = stk ∧ field v 43 0 < 0x6000000000 then put fun x => { x with cpbase := setNth x.cpbase stk (v &&& 0x00FFFFFFFFFFF000) } else s.refuse stk
  | 0x08 => if field v 47 0 % 4096 = 0 then put fun x => { x with cpsize := setNth x.cpsize stk (v &&& 0x0000FFFFFFFFFFFF) } else s.refuse stk
  | 0x40 => if s.namesQueue stk 1 v then put fun x => { x with svcq := setNth x.svcq stk (v &&& 0x8000000000000FFF) } else s.refuse stk
  | _ => s

/-- A partition has a resident, saved or admitted block, or a launch that waits for admission. -/
def State.partBusy (s : State) (p : Nat) : Bool := (s.launches.any fun l => l.part == p) || s.admits.any fun a => a.l.part == p

/-- A write to a front register of a partition (R438, R420). Admission runs after a write to the account. -/
def State.writeFrontPart (s : State) (p r : Nat) (v : DWord) : State :=
  let put (f : Partition → Partition) : State := s.updPart p fun x => (f x).wrote (r / 8)
  match r with
  | 0x00 =>
    let on := v.getLsbD 0
    let was := (s.part p).exist
    if on = false ∧ was = true ∧ s.partBusy p = true then s.refuse 4
    else s.updPart p fun x => { x with exist := on, written := if on && was then x.written else [] }
  | 0x08 => put fun x => { x with procroot := v &&& 0x00FFFFFFFFFFFFF0 }
  | 0x20 => put fun x => { x with xpte := v.getLsbD 0 }
  | 0x28 => (put fun x => { x with eacct := v.toInt }).admission
  | 0x30 => put fun x => { x with pcap := field v 31 0 }
  | 0x38 => (put fun x => { x with emax := v.toInt }).admission
  | 0x40 => if s.namesQueue 4 6 v then put fun x => { x with resq := v &&& 0x8000000000000FFF } else s.refuse 4
  | _ => s

/-- A write of 8 bytes, or of 4 to a counter, at an offset of a control region (R436). -/
def State.writeControl (s : State) (w off : Nat) (v : DWord) : State :=
  if off = 0 then (if v.getLsbD 0 then s.updSource w fun e => { e with refused := false } else s)
  else if 0x100 ≤ off ∧ off < 0x300 then
    s.updPort w fun p => { p with replay := BitVec.ofNat 4096 (putBits p.replay.toNat (64 * ((off - 0x100) / 8)) 64 v.toNat) }
  else if off = 0x300 then (if v = 1 ∨ v = 2 then s else s.refuse w)
  else if 0x1000 ≤ off ∧ off < 0x2000 ∧ w < 4 then s.writeStackPart w (off / 0x100 - 0x10) (off % 0x100) v
  else if v.setWidth 32 ≠ (0 : BitVec 32) then s
  else if 0xA100 ≤ off ∧ off < 0xA200 then s.updSource w fun e => { e with summary := Assoc.put e.summary ((off - 0xA100) / 4) 0 }
  else if 0xB000 ≤ off ∧ off < 0xB100 ∧ w < 4 then s.updStack w fun k => { k with faults := Assoc.put k.faults ((off - 0xB000) / 4) 0 }
  else if 0xB100 ≤ off ∧ off < 0xB11C ∧ w < 4 then
    s.updStack w fun k => { k with corrected := Assoc.put k.corrected ((off - 0xB100) / 4) 0 }
  else s

/-- A write at an offset of the package registers (R437). -/
def State.writePackage (s : State) (off : Nat) (v : DWord) : State :=
  if off = 0x18 then { s with evmsi := v &&& evmsiBits }
  else if off = 0x20 then { s with ckpt := s.ckpt.write v }
  else if 0x100 ≤ off ∧ off < 0x1100 then s.writeFrontPart (off / 0x100 - 1) (off % 0x100) v
  else s

/-- REGISTER_WRITE: a write of `ev.v` at offset `ev.n` of window `ev.b` to a register that has no row of its own (R435). -/
def execRegisterWrite (s : State) : Host.Outcome State Fault Refusal :=
  let off := s.ev.n
  .next (if 5 ≤ s.ev.b ∨ s.frontUp s.ev.b = false then s
    else if off < 2 ^ 32 then (s.writeControl s.ev.b off s.ev.v).partitionsMade
    else if s.ev.b = 4 ∧ off / 2 ^ 32 = 6 then (s.writePackage (off % 2 ^ 32) s.ev.v).partitionsMade
    else s)

/-! ## Replay of the fault log (R366, R436) -/

/-- The producer that a fault-log element names: the handle of the block whose group stands in the slot, or none that lives. -/
def State.loggedProducer (s : State) (e : Nat) : Producer × Nat × Nat :=
  let h := slice e 333 330
  let mine := (s.onCore (slice e 349 348) (slice e 347 340)).findSome? fun b => (b.groups.find? fun g =>
    g.slot == slice e 339 334 && (s.launchOf b).lid == slice e 319 256 && slice e 359 350 == s.pkg.toNat).map fun g => (b.uid, g.gid)
  match mine with
  | some (u, g) => (.handle u h, u, g)
  | none => (.host (packFields [(slice e 359 350, 10), (slice e 349 348, 2), (slice e 347 340, 8), (slice e 339 334, 6), (h, 4)]), 0, 0)

/-- The kind that the OP of an element wants of its queue. -/
def loggedKind (op : Nat) (d : Desc) : Nat :=
  match op with
  | 2 => 1
  | 3 => 3
  | _ => if d.kind = 1 then 0 else d.kind

/-- The message that an element records, with its data cut to the size of the target's elements. -/
def State.loggedMsg (s : State) (w e : Nat) (data : List Byte) : Msg :=
  let d := s.desc w (slice e 383 372)
  let who := s.loggedProducer e
  let op := slice e 7 0
  let seq := slice e 463 416
  { req := s.nextReq, pkg := s.pkg.toNat, win := w, pq := slice e 383 372, dtag := slice e 415 400, kind := loggedKind op d,
    vqn := slice e 399 384, prod := who.1, blk := who.2.1, gid := who.2.2, sent := s.time, epoch := 0,
    who := { pkg := slice e 359 350, stk := slice e 349 348, core := slice e 347 340, slot := slice e 339 334, h := slice e 333 330,
             lid := slice e 319 256 }
    at_ := .here w
    body := if seq = seqFail then .put (data.take d.bytes) else .fill op seq d.cellsPer 0 (data.take d.bytes) }

/-- A recorded close notice: the cells it names become void, and the binding of the handle is released. -/
def State.replayClose (s : State) (w e : Nat) : State :=
  let first := slice e 463 416
  let n := slice e 519 512
  s.changeDesc w (slice e 383 372) fun d =>
    { d with cells := d.cells.map fun c => if first ≠ seqFail ∧ seqDist first c.seq < n ∧ c.st = .reserved then { c with st := .void } else c,
             bind := d.bind.filter fun b => !(b.h == slice e 333 330 && decide ((s.loggedProducer e).1 = .handle b.blk b.h) ||
               (b.h == slice e 333 330 && (s.block? b.blk).isNone)) }

/-- Replay an element with its data at a port: RBUSY stays set while the port cannot take it. A fill that fails again is logged again
and sets CTLSTAT<0>. -/
def State.replayElement (s : State) (w e : Nat) (data : List Byte) : State :=
  let done (s : State) : State := s.updPort w fun p => { p with replaying := false }
  if slice e 7 0 = 4 then done (s.replayClose w e)
  else
    let m := s.loggedMsg w e data
    let full := match m.body with
      | .put l => s.fails m == 0 && (s.putElement w m.pq m.prod l).isNone
      | _ => false
    match (if full then none else State.serveFill m { s with nextReq := s.nextReq + 1 }) with
    | none => s.updPort w fun p => { p with replaying := true }
    | some t => done (if s.fails m ≠ 0 then t.refuse w else t)

/-- A staged element of a port: the first or the second 256 bytes of PREPLAY. -/
def State.staged (s : State) (w k : Nat) : Nat := slice (s.port w).replay.toNat (2048 * k + 2047) (2048 * k)

/-- Data bytes 0 to 191 of an element. -/
def elementData (e : Nat) : List Byte := leBytes 192 (e / 2 ^ 512)

/-- A write to PRGO of a window waits while the front link of its stack carries nothing; a replay under way goes on (R11). -/
def State.replayBars (s : State) (w : Nat) : Bool := decide (5 ≤ w) || (!(s.port w).replaying && !(s.frontUp w))

/-- PRGO_REPLAY_ONE: a write of 1 to PRGO of window `ev.b`, or the port goes on with it. -/
def execPrgoReplayOne (s : State) : Host.Outcome State Fault Refusal :=
  .next (if s.replayBars s.ev.b then s else s.replayElement s.ev.b (s.staged s.ev.b 0) (elementData (s.staged s.ev.b 0)))

/-- PRGO_REPLAY_TWO: a write of 2 to PRGO of window `ev.b`: the first element's data goes on in the second. -/
def execPrgoReplayTwo (s : State) : Host.Outcome State Fault Refusal :=
  .next (if s.replayBars s.ev.b then s
    else if bitOf (s.staged s.ev.b 0) 320 = false then s.refuse s.ev.b
    else s.replayElement s.ev.b (s.staged s.ev.b 0) (elementData (s.staged s.ev.b 0) ++ elementData (s.staged s.ev.b 1)))

/-! ## The records of R26 -/

/-- RATED_CONDITION_EXCURSION: an event record of the front die reports it. -/
def execRatedConditionExcursion (s : State) : Host.Outcome State Fault Refusal :=
  .next (s.openRecord 4 ((Config.free s.tick 107).toNat % 256) 108)

/-- DUPLICATE_AND_COMPARE_MISMATCH: a record of the reporting die `ev.b`. -/
def execDuplicateAndCompareMismatch (s : State) : Host.Outcome State Fault Refusal :=
  .next (if 5 ≤ s.ev.b then s else s.openRecord s.ev.b ((Config.free s.tick 110).toNat % 256) 111)

end Sys2Proof.Machine
end

