-- ==== Sys2Proof/Machine/FloatOps.lean ====
section
/-!
DEFINITION. Rows 0x4 and 0x5: floating-point arithmetic and conversions (R165 to R180).
-/
namespace Sys2Proof.Machine

/-- The format of MODE.ET; the decode checks leave only floating types where it is used (R165). -/
def Ctx.fmt (x : Ctx) : Fmt := (etFmt x.et).getD .f32

/-- Element k of a word as a value (R140 steps 1 and 2). -/
def Ctx.val (x : Ctx) (w : Word) (k : Nat) : Val := x.fmt.operand (roundingOf x.mode).ftz (elemCode (etWidth x.et) w k)

/-- An arithmetic instruction rounded once per element under MODE.RM (R140, R166): `f k` is the exact result of element k. -/
def Ctx.rounded (x : Ctx) (w : Bool) (d : BitVec 7) (f : Nat → Nat → Val) : Res :=
  let r := roundingOf x.mode
  x.lanewiseGen w d fun l g => wordRsr x.et r (fun k u => x.fmt.enc r u (f l k)) g

/-- Rounding mode of MODE. -/
def Ctx.rm (x : Ctx) : Nat := (roundingOf x.mode).rm

/-- A two-operand arithmetic instruction. -/
def Ctx.arith2 (x : Ctx) (w : Bool) (d : BitVec 7) (a b : Src) (f : Nat → Val → Val → Val) : Res :=
  x.rounded w d fun l k => f x.rm (x.val (x.rdv a l) k) (x.val (x.rdv b l) k)

/-- A fused instruction, which reads D. -/
def Ctx.arith3 (x : Ctx) (w : Bool) (d : BitVec 7) (a b : Src) (f : Nat → Val → Val → Val → Val) : Res :=
  x.rounded w d fun l k => f x.rm (x.val (x.rdv a l) k) (x.val (x.rdv b l) k) (x.val (x.g.vreg d.toNat l) k)

/-- A pending result of `fdiv` to `flog2`: rounded under RNE, written when it arrives (R169, R170). -/
def Ctx.long (x : Ctx) (d : BitVec 7) (f : Nat → Nat → Val) : Res :=
  let r := { roundingOf x.mode with rm := 0 }
  let word (l : Nat) : Word := mapElems x.et fun k => x.fmt.enc r 0 (f l k)
  let vw := (lanesOf x.act).map fun l => (32 * d.toNat + l, word l)
  if vw.isEmpty then x.nothing
  else .done (x.s.updCur x.c fun g =>
    { g with pend := g.pend ++ [{ kind := .long, vw := vw, vregs := [d.toNat], sw := [], p6set := 0, p6clr := 0 }] }) []

/-- The element code of the chosen operand of `fmin` and `fmax` (R167): values are compared with −0 below +0; one NaN gives
the other operand, two NaNs a NaN. -/
def minMaxCode (f : Fmt) (r : Rounding) (max : Bool) (a b : Nat) : Nat :=
  let va := f.operand r.ftz a
  let vb := f.operand r.ftz b
  match va, vb with
  | .nan n, .nan _ => f.enc r 0 (.nan n)
  | .nan _, _ => f.flushVal r.ftz b
  | _, .nan _ => f.flushVal r.ftz a
  | _, _ =>
    let less := match orderVal va vb with
      | .less => true
      | .equal => (match va with | .fin s _ => s | _ => false)
      | _ => false
    f.flushVal r.ftz (if less != max then a else b)

/-- The element code of `fabs` (`clear`) and `fneg` (R168): an e5m2 NaN under DNAN = 0 is the operand quieted, its other fraction
bit kept (DEDUCED, log entry 97). -/
def signCode (f : Fmt) (r : Rounding) (clear : Bool) (c : Nat) : Nat :=
  let w := f.width
  let t := c % 2 ^ (w - 1)
  match f.dec c with
  | .nan n =>
    if f = .d8 then c
    else if f = .e5m2 ∧ r.dnan = false then
      let q := t ||| 2
      if clear ∨ 128 ≤ c then q else q + 128
    else f.enc r 0 (.nan (if clear then n % 2 ^ 31 else if n < 2 ^ 31 then n + 2 ^ 31 else n - 2 ^ 31))
  | _ => if f = .d8 ∧ t = 0 then c else if clear then t else if c < 2 ^ (w - 1) then c + 2 ^ (w - 1) else t

/-- The class code of an element (R177). -/
def classCode (f : Fmt) (c : Nat) : Nat :=
  let neg := c.testBit (f.width - 1)
  let t := c % 2 ^ (f.width - 1)
  match f.dec c with
  | .nan _ => if f = .e4m3 ∨ f = .d8 ∨ t.testBit (f.frac - 1) then 9 else 8
  | .inf s => if s then 0 else 7
  | .fin _ q =>
    if q.num = 0 then (if neg then 3 else 4)
    else if f ≠ .d8 ∧ t < 2 ^ f.frac then (if neg then 2 else 5)
    else if neg then 1 else 6

/-- The exponent of an element as a w-bit code (R179). -/
def exponentCode (w : Nat) : Val → Nat
  | .fin _ q => if q.num = 0 then 0 else wrapInt w (log2Floor q + 1)
  | _ => 2 ^ (w - 1)

/-! ## Conversions (R172, R173) -/

/-- The value of a source element of a conversion: d8 at its exact decimal value, FTZ on f32, f16 and bf16 (R172, R173). -/
def convertSource (et : Nat) (ftz : Bool) (c : Nat) : Val :=
  match etFmt et with
  | some f => f.dec (f.flushVal ftz c)
  | none =>
    let z := if etSigned et then signedOf (etWidth et) c else Int.ofNat c
    .fin (decide (z < 0)) (Q.ofInt z)

/-- A floating value to an integer type (R173). -/
def toInteger (signed : Bool) (w rm u : Nat) : Val → Nat
  | .nan _ => 0
  | .inf s => clampInt signed w (if s then -(Int.ofNat (2 ^ w)) else Int.ofNat (2 ^ w))
  | .fin _ q => clampInt signed w (roundInt rm u q)

/-- Convert one element from a type to a type (R172). -/
def convertElem (r : Rounding) (src dst : Nat) (u c : Nat) : Nat :=
  match etFmt dst with
  | some f => f.enc r u (convertSource src r.ftz c)
  | none =>
    if etFloat src then toInteger (etSigned dst) (etWidth dst) r.rm u (convertSource src r.ftz c)
    else
      let z := if etSigned src then signedOf (etWidth src) c else Int.ofNat c
      if r.sat then clampInt (etSigned dst) (etWidth dst) z else wrapInt (etWidth dst) z

/-- A conversion takes generator values unless both types are integers (R172). -/
def convertRounds (r : Rounding) (src dst : Nat) : Bool := r.rm == 5 && (etFloat src || etFloat dst)

/-- Round an element to an integral value (R176). -/
def roundIntegral (r : Rounding) (u : Nat) (v : Val) : Val :=
  match v with
  | .fin s q => .fin s (Q.ofInt (roundInt r.rm u q))
  | v => v

/-- One packed element widened to 32 bits (R175). -/
def widenElem (r : Rounding) (et c : Nat) : Nat :=
  match etFmt et with
  | some f => Fmt.f32.enc { r with ftz := false } 0 (f.operand r.ftz c)
  | none => if etSigned et then wrapInt 32 (signedOf (etWidth et) c) else c

/-- `cvtpk` in one lane (R174): the word and the generator after it. -/
def packLane (et : Nat) (r : Rounding) (w : Bool) (a b d : Word) (g : Word) : Word × Word :=
  let src := if etFloat et then 2 else 0
  let n := etWidth et
  let p := elemsRsr n (convertRounds r src et) (fun k u => convertElem r src et u (if k = 0 then a.toNat else b.toNat)) 0 2 g
  let old := if n = 8 ∧ w = false then d.toNat % 65536 * 65536 else 0
  (BitVec.ofNat 32 (packElems n p.1 + old), p.2)

/-! ## Row 0x4 -/

/-- `fadd`: x + y (R166). -/
def execFadd (w : Bool) (d : BitVec 7) (a b : Src) (s : State) : Host.Outcome State Fault Refusal :=
  issue (.fadd w d a b) s fun x =>
    x.arith2 w d a b Val.add

/-- `fsub`: x − y (R166). -/
def execFsub (w : Bool) (d : BitVec 7) (a b : Src) (s : State) : Host.Outcome State Fault Refusal :=
  issue (.fsub w d a b) s fun x =>
    x.arith2 w d a b fun rm p q => Val.add rm p q.neg

/-- `fmul`: x × y (R166). -/
def execFmul (w : Bool) (d : BitVec 7) (a b : Src) (s : State) : Host.Outcome State Fault Refusal :=
  issue (.fmul w d a b) s fun x =>
    x.arith2 w d a b fun _ p q => Val.mul p q

/-- `fma`: x × y + z (R166). -/
def execFma (w : Bool) (d : BitVec 7) (a b : Src) (s : State) : Host.Outcome State Fault Refusal :=
  issue (.fma w d a b) s fun x =>
    x.arith3 w d a b Val.fma

/-- `fms`: x × y − z (R166). -/
def execFms (w : Bool) (d : BitVec 7) (a b : Src) (s : State) : Host.Outcome State Fault Refusal :=
  issue (.fms w d a b) s fun x =>
    x.arith3 w d a b fun rm p q z => Val.fma rm p q z.neg

/-- `fnma`: z − x × y (R166). -/
def execFnma (w : Bool) (d : BitVec 7) (a b : Src) (s : State) : Host.Outcome State Fault Refusal :=
  issue (.fnma w d a b) s fun x =>
    x.arith3 w d a b Val.fnma

/-- `fmin` (R167). -/
def execFmin (w : Bool) (d : BitVec 7) (a b : Src) (s : State) : Host.Outcome State Fault Refusal :=
  issue (.fmin w d a b) s fun x =>
    x.lanewise w d fun l => mapElems x.et fun k =>
      minMaxCode x.fmt (roundingOf x.mode) false (elemCode (etWidth x.et) (x.rdv a l) k) (elemCode (etWidth x.et) (x.rdv b l) k)

/-- `fmax` (R167). -/
def execFmax (w : Bool) (d : BitVec 7) (a b : Src) (s : State) : Host.Outcome State Fault Refusal :=
  issue (.fmax w d a b) s fun x =>
    x.lanewise w d fun l => mapElems x.et fun k =>
      minMaxCode x.fmt (roundingOf x.mode) true (elemCode (etWidth x.et) (x.rdv a l) k) (elemCode (etWidth x.et) (x.rdv b l) k)

/-- `fabs` (R168). -/
def execFabs (w : Bool) (d : BitVec 7) (a : Src) (s : State) : Host.Outcome State Fault Refusal :=
  issue (.fabs w d a) s fun x =>
    x.lanewise w d fun l => mapElems x.et fun k =>
      signCode x.fmt (roundingOf x.mode) true (elemCode (etWidth x.et) (x.rdv a l) k)

/-- `fneg` (R168). -/
def execFneg (w : Bool) (d : BitVec 7) (a : Src) (s : State) : Host.Outcome State Fault Refusal :=
  issue (.fneg w d a) s fun x =>
    x.lanewise w d fun l => mapElems x.et fun k =>
      signCode x.fmt (roundingOf x.mode) false (elemCode (etWidth x.et) (x.rdv a l) k)

/-- `fdiv`: x / y under RNE, pending (R169, R170). -/
def execFdiv (d : BitVec 7) (a b : Src) (s : State) : Host.Outcome State Fault Refusal :=
  issue (.fdiv d a b) s fun x =>
    x.long d fun l k => Val.div (x.val (x.rdv a l) k) (x.val (x.rdv b l) k)

/-- `fsqrt`: √x under RNE, pending (R169, R170). -/
def execFsqrt (d : BitVec 7) (a : Src) (s : State) : Host.Outcome State Fault Refusal :=
  issue (.fsqrt d a) s fun x =>
    x.long d fun l k => Val.sqrt (x.val (x.rdv a l) k)

/-- `frcp`: 1 / x under RNE, pending (R169, R170). -/
def execFrcp (d : BitVec 7) (a : Src) (s : State) : Host.Outcome State Fault Refusal :=
  issue (.frcp d a) s fun x =>
    x.long d fun l k => Val.rcp (x.val (x.rdv a l) k)

/-- `frsq`: 1 / √x under RNE, pending (R169, R170). -/
def execFrsq (d : BitVec 7) (a : Src) (s : State) : Host.Outcome State Fault Refusal :=
  issue (.frsq d a) s fun x =>
    x.long d fun l k => Val.rsq (x.val (x.rdv a l) k)

/-- `fexp2`: 2^x under RNE, pending (R169, R170). -/
def execFexp2 (d : BitVec 7) (a : Src) (s : State) : Host.Outcome State Fault Refusal :=
  issue (.fexp2 d a) s fun x =>
    x.long d fun l k => Val.exp2 (x.val (x.rdv a l) k)

/-- `flog2`: log2 x under RNE, pending (R169, R170). -/
def execFlog2 (d : BitVec 7) (a : Src) (s : State) : Host.Outcome State Fault Refusal :=
  issue (.flog2 d a) s fun x =>
    x.long d fun l k => Val.log2 (x.val (x.rdv a l) k)

/-! ## Row 0x5 -/

/-- `cvt`: each element from type K to MODE.ET (R171 to R173). -/
def execCvt (w : Bool) (d : BitVec 7) (a : Src) (k : BitVec 4) (s : State) : Host.Outcome State Fault Refusal :=
  issue (.cvt w d a k) s fun x =>
    let r := roundingOf x.mode
    x.lanewiseGen w d fun l g =>
      let p := elemsRsr (etWidth x.et) (convertRounds r k.toNat x.et)
        (fun e u => convertElem r k.toNat x.et u (elemCode (etWidth x.et) (x.rdv a l) e)) 0 (etCount x.et) g
      (BitVec.ofNat 32 (packElems (etWidth x.et) p.1), p.2)

/-- `cvtpk`: narrow two 32-bit sources into a packed word (R174). -/
def execCvtpk (w : Bool) (d : BitVec 7) (a b : Src) (s : State) : Host.Outcome State Fault Refusal :=
  issue (.cvtpk w d a b) s fun x =>
    x.lanewiseGen w d fun l g =>
      packLane x.et (roundingOf x.mode) w (x.rdv a l) (x.rdv b l) (x.g.vreg d.toNat l) g

/-- `cvtup`: widen one packed element (R175). -/
def execCvtup (w : Bool) (d : BitVec 7) (a : Src) (k : BitVec 2) (s : State) : Host.Outcome State Fault Refusal :=
  issue (.cvtup w d a k) s fun x =>
    x.lanewise w d fun l =>
      BitVec.ofNat 32 (widenElem (roundingOf x.mode) x.et (elemCode (etWidth x.et) (x.rdv a l) k.toNat))

/-- `frnd`: each element to an integral value under MODE.RM (R176). -/
def execFrnd (w : Bool) (d : BitVec 7) (a : Src) (s : State) : Host.Outcome State Fault Refusal :=
  issue (.frnd w d a) s fun x =>
    let r := roundingOf x.mode
    x.lanewiseGen w d fun l g =>
      wordRsr x.et r (fun k u => x.fmt.enc { r with rm := 1 } u (roundIntegral r u (x.val (x.rdv a l) k))) g

/-- `fclass`: the class code of each element (R177). -/
def execFclass (w : Bool) (d : BitVec 7) (a : Src) (s : State) : Host.Outcome State Fault Refusal :=
  issue (.fclass w d a) s fun x =>
    x.lanewise w d fun l => mapElems x.et fun k => classCode x.fmt (elemCode (etWidth x.et) (x.rdv a l) k)

/-- `fldexp`: x × 2^y (R178). -/
def execFldexp (w : Bool) (d : BitVec 7) (a b : Src) (s : State) : Host.Outcome State Fault Refusal :=
  issue (.fldexp w d a b) s fun x =>
    x.rounded w d fun l k =>
      (x.val (x.rdv a l) k).ldexp (signedOf (etWidth x.et) (elemCode (etWidth x.et) (x.rdv b l) k))

/-- `frexp`: the binary exponent of each element (R179). -/
def execFrexp (w : Bool) (d : BitVec 7) (a : Src) (s : State) : Host.Outcome State Fault Refusal :=
  issue (.frexp w d a) s fun x =>
    x.lanewise w d fun l => mapElems x.et fun k => exponentCode (etWidth x.et) (x.val (x.rdv a l) k)

end Sys2Proof.Machine
end

