-- ==== Sys2Proof/Machine/IntOps.lean ====
section
/-!
DEFINITION. Rows 0x1, 0x2, 0x3 and 0xE and the register granules: integer, logic, comparison, select, indexed access and
scalar instructions (R144 to R164).
-/
namespace Sys2Proof.Machine

/-! ## Element functions (R149 to R154) -/

/-- An exact function of the elements, narrowed under SAT where the entry says so (R146). -/
def elemExact (et : Nat) (sat : Bool) (f : Int → Int → Int) (a b : Word) : Word :=
  mapElems et fun k => narrowInt sat et (f (elemInt et a k) (elemInt et b k))

/-- A function of the element patterns and the unsigned amount y (R149). -/
def elemShift (et : Nat) (f : Nat → Nat → Nat → Nat) (a : Word) (y : Nat → Nat) : Word :=
  mapElems et fun k => f (etWidth et) (elemCode (etWidth et) a k) (y k)

/-- The high w bits of the 2w-bit product (R149). -/
def mulHigh (et : Nat) (a b : Word) : Word :=
  mapElems et fun k => wrapInt (etWidth et) (elemInt et a k * elemInt et b k / Int.ofNat (2 ^ etWidth et))

/-- x × y + d (R149). -/
def mulAdd (et : Nat) (sat : Bool) (a b d : Word) : Word :=
  mapElems et fun k => narrowInt sat et (elemInt et a k * elemInt et b k + elemInt et d k)

/-- Left shift; 0 from w up. -/
def shiftLeft (w x y : Nat) : Nat := if w ≤ y then 0 else x * 2 ^ y % 2 ^ w

/-- Right shift with zero fill; 0 from w up. -/
def shiftRight (w x y : Nat) : Nat := if w ≤ y then 0 else x / 2 ^ y

/-- Arithmetic right shift of the pattern read signed; the sign from w up. -/
def shiftArith (w x y : Nat) : Nat := wrapInt w (signedOf w x / Int.ofNat (2 ^ (if w ≤ y then w else y)))

/-- Rotate left by y mod w. -/
def rotateLeft (w x y : Nat) : Nat := let r := y % w; (x * 2 ^ r + x / 2 ^ (w - r)) % 2 ^ w

/-- The sum of absolute element differences as one word (R149). -/
def sumAbsDiff (et : Nat) (a b : Word) : Word :=
  BitVec.ofNat 32 (((List.range (etCount et)).map fun k => (elemInt et a k - elemInt et b k).natAbs).sum)

/-- The number of 1 bits among the low w. -/
def popCount (w x : Nat) : Nat := ((List.range w).filter fun i => x.testBit i).length

/-- 0 bits above the highest 1 bit of the low w; w for 0. -/
def leadingZeros (w x : Nat) : Nat := if x = 0 then w else w - 1 - x.log2

/-- Bit i moves to bit w − 1 − i. -/
def bitReverse (w x : Nat) : Nat :=
  ((List.range w).map fun i => if x.testBit i then 2 ^ (w - 1 - i) else 0).sum

/-- |x| in a signed view, x in an unsigned one (R152). -/
def absElems (et : Nat) (sat : Bool) (a : Word) : Word :=
  mapElems et fun k => narrowInt sat et (Int.ofNat (elemInt et a k).natAbs)

/-- The field position and length of R153. -/
def bitField (b : Word) : Nat × Nat := (field b 4 0, min (field b 13 8) (32 - field b 4 0))

/-- Extract a bit field (R153). -/
def fieldExtract (et : Nat) (a b : Word) : Word :=
  let (pos, len) := bitField b
  if len = 0 then 0
  else
    let f := a.toNat / 2 ^ pos % 2 ^ len
    BitVec.ofNat 32 (if etSigned et then wrapInt 32 (signedOf len f) else f)

/-- Insert a bit field into d (R153). -/
def fieldInsert (a b d : Word) : Word :=
  let (pos, len) := bitField b
  let m := (2 ^ len - 1) * 2 ^ pos
  (d &&& ~~~(BitVec.ofNat 32 m)) ||| BitVec.ofNat 32 (a.toNat % 2 ^ len * 2 ^ pos)

/-- Permute bytes under selector nibbles (R154). -/
def bytePermute (a b : Word) : Word :=
  BitVec.ofNat 32 (packElems 8 ((List.range 4).map fun k =>
    let s := field b (4 * k + 3) (4 * k)
    let byte := elemCode 8 a (s % 4)
    if bitOf s 3 then 0 else if bitOf s 2 then (if bitOf byte 7 then 0xFF else 0) else byte))

/-- A two-source instruction whose result is a function of the two words. -/
def Ctx.binary (x : Ctx) (w : Bool) (d : BitVec 7) (a b : Src) (f : Word → Word → Word) : Res :=
  x.lanewise w d fun l => f (x.rdv a l) (x.rdv b l)

/-- A one-source instruction. -/
def Ctx.unary (x : Ctx) (w : Bool) (d : BitVec 7) (a : Src) (f : Word → Word) : Res :=
  x.lanewise w d fun l => f (x.rdv a l)

/-- A comparison (R155). -/
def Ctx.compare (x : Ctx) (r : Rel) (w : Bool) (d : BitVec 3) (a b : Src) : Res :=
  x.predicate w d fun l => relHolds r x.mode (x.rdv a l) (x.rdv b l)

/-- A two-source scalar instruction (R160). -/
def Ctx.scalar2 (x : Ctx) (d a b : BitVec 6) (f : DWord → DWord → DWord) : Res := x.scalar d (f (x.rds a) (x.rds b))

/-! ## Row 0x1 (R148, R149) -/

/-- `add`: x + y (R149). -/
def execAdd (w : Bool) (d : BitVec 7) (a b : Src) (s : State) : Host.Outcome State Fault Refusal :=
  issue (.add w d a b) s fun x =>
    x.binary w d a b (elemExact x.et x.sat (· + ·))

/-- `sub`: x − y (R149). -/
def execSub (w : Bool) (d : BitVec 7) (a b : Src) (s : State) : Host.Outcome State Fault Refusal :=
  issue (.sub w d a b) s fun x =>
    x.binary w d a b (elemExact x.et x.sat (· - ·))

/-- `mul`: x × y (R149). -/
def execMul (w : Bool) (d : BitVec 7) (a b : Src) (s : State) : Host.Outcome State Fault Refusal :=
  issue (.mul w d a b) s fun x =>
    x.binary w d a b (elemExact x.et x.sat (· * ·))

/-- `mulhi`: the high w bits of the product (R149). -/
def execMulhi (w : Bool) (d : BitVec 7) (a b : Src) (s : State) : Host.Outcome State Fault Refusal :=
  issue (.mulhi w d a b) s fun x =>
    x.binary w d a b (mulHigh x.et)

/-- `mad`: x × y + d (R149). -/
def execMad (w : Bool) (d : BitVec 7) (a b : Src) (s : State) : Host.Outcome State Fault Refusal :=
  issue (.mad w d a b) s fun x =>
    x.lanewise w d fun l => mulAdd x.et x.sat (x.rdv a l) (x.rdv b l) (x.g.vreg d.toNat l)

/-- `min`: the smaller element (R149). -/
def execMin (w : Bool) (d : BitVec 7) (a b : Src) (s : State) : Host.Outcome State Fault Refusal :=
  issue (.min w d a b) s fun x =>
    x.binary w d a b (elemExact x.et false min)

/-- `max`: the larger element (R149). -/
def execMax (w : Bool) (d : BitVec 7) (a b : Src) (s : State) : Host.Outcome State Fault Refusal :=
  issue (.max w d a b) s fun x =>
    x.binary w d a b (elemExact x.et false max)

/-- `and`: bitwise AND (R149). -/
def execAnd (w : Bool) (d : BitVec 7) (a b : Src) (s : State) : Host.Outcome State Fault Refusal :=
  issue (.and w d a b) s fun x =>
    x.binary w d a b (· &&& ·)

/-- `or`: bitwise OR (R149). -/
def execOr (w : Bool) (d : BitVec 7) (a b : Src) (s : State) : Host.Outcome State Fault Refusal :=
  issue (.or w d a b) s fun x =>
    x.binary w d a b (· ||| ·)

/-- `xor`: bitwise XOR (R149). -/
def execXor (w : Bool) (d : BitVec 7) (a b : Src) (s : State) : Host.Outcome State Fault Refusal :=
  issue (.xor w d a b) s fun x =>
    x.binary w d a b (· ^^^ ·)

/-- `andn`: x AND NOT y (R149). -/
def execAndn (w : Bool) (d : BitVec 7) (a b : Src) (s : State) : Host.Outcome State Fault Refusal :=
  issue (.andn w d a b) s fun x =>
    x.binary w d a b fun p q => p &&& ~~~q

/-- `shl`: shift left (R149). -/
def execShl (w : Bool) (d : BitVec 7) (a b : Src) (s : State) : Host.Outcome State Fault Refusal :=
  issue (.shl w d a b) s fun x =>
    x.binary w d a b fun p q => elemShift x.et shiftLeft p (elemCode (etWidth x.et) q)

/-- `shr`: shift right with zero fill (R149). -/
def execShr (w : Bool) (d : BitVec 7) (a b : Src) (s : State) : Host.Outcome State Fault Refusal :=
  issue (.shr w d a b) s fun x =>
    x.binary w d a b fun p q => elemShift x.et shiftRight p (elemCode (etWidth x.et) q)

/-- `sar`: arithmetic shift right (R149). -/
def execSar (w : Bool) (d : BitVec 7) (a b : Src) (s : State) : Host.Outcome State Fault Refusal :=
  issue (.sar w d a b) s fun x =>
    x.binary w d a b fun p q => elemShift x.et shiftArith p (elemCode (etWidth x.et) q)

/-- `rotl`: rotate left (R149). -/
def execRotl (w : Bool) (d : BitVec 7) (a b : Src) (s : State) : Host.Outcome State Fault Refusal :=
  issue (.rotl w d a b) s fun x =>
    x.binary w d a b fun p q => elemShift x.et rotateLeft p (elemCode (etWidth x.et) q)

/-- `sad`: the sum of absolute differences (R149). -/
def execSad (w : Bool) (d : BitVec 7) (a b : Src) (s : State) : Host.Outcome State Fault Refusal :=
  issue (.sad w d a b) s fun x =>
    x.binary w d a b (sumAbsDiff x.et)

/-! ## Row 0x2 (R150 to R154) -/

/-- `addi`: x + K, K signed in every view (R150). -/
def execAddi (w : Bool) (d : BitVec 7) (a : Src) (k : BitVec 8) (s : State) : Host.Outcome State Fault Refusal :=
  issue (.addi w d a k) s fun x =>
    x.unary w d a fun p => mapElems x.et fun e => narrowInt x.sat x.et (elemInt x.et p e + k.toInt)

/-- `andi`: K zero-extended to each element (R150). -/
def execAndi (w : Bool) (d : BitVec 7) (a : Src) (k : BitVec 8) (s : State) : Host.Outcome State Fault Refusal :=
  issue (.andi w d a k) s fun x =>
    x.unary w d a fun p => p &&& mapElems x.et fun _ => k.toNat

/-- `ori`: K zero-extended to each element (R150). -/
def execOri (w : Bool) (d : BitVec 7) (a : Src) (k : BitVec 8) (s : State) : Host.Outcome State Fault Refusal :=
  issue (.ori w d a k) s fun x =>
    x.unary w d a fun p => p ||| mapElems x.et fun _ => k.toNat

/-- `xori`: K zero-extended to each element (R150). -/
def execXori (w : Bool) (d : BitVec 7) (a : Src) (k : BitVec 8) (s : State) : Host.Outcome State Fault Refusal :=
  issue (.xori w d a k) s fun x =>
    x.unary w d a fun p => p ^^^ mapElems x.et fun _ => k.toNat

/-- `shli`: the amount is K (R150). -/
def execShli (w : Bool) (d : BitVec 7) (a : Src) (k : BitVec 5) (s : State) : Host.Outcome State Fault Refusal :=
  issue (.shli w d a k) s fun x =>
    x.unary w d a fun p => elemShift x.et shiftLeft p fun _ => k.toNat

/-- `shri`: the amount is K (R150). -/
def execShri (w : Bool) (d : BitVec 7) (a : Src) (k : BitVec 5) (s : State) : Host.Outcome State Fault Refusal :=
  issue (.shri w d a k) s fun x =>
    x.unary w d a fun p => elemShift x.et shiftRight p fun _ => k.toNat

/-- `sari`: the amount is K (R150). -/
def execSari (w : Bool) (d : BitVec 7) (a : Src) (k : BitVec 5) (s : State) : Host.Outcome State Fault Refusal :=
  issue (.sari w d a k) s fun x =>
    x.unary w d a fun p => elemShift x.et shiftArith p fun _ => k.toNat

/-- `movi`: K16 sign-extended (R151). -/
def execMovi (w : Bool) (d : BitVec 7) (k : BitVec 16) (s : State) : Host.Outcome State Fault Refusal :=
  issue (.movi w d k) s fun x =>
    x.lanewise w d fun _ => k.signExtend 32

/-- `movhi`: K16 in the high half, the low half kept (R151). -/
def execMovhi (w : Bool) (d : BitVec 7) (k : BitVec 16) (s : State) : Host.Outcome State Fault Refusal :=
  issue (.movhi w d k) s fun x =>
    x.lanewise w d fun l => BitVec.ofNat 32 (k.toNat * 65536 + field (x.g.vreg d.toNat l) 15 0)

/-- `popc`: 1 bits of each element (R152). -/
def execPopc (w : Bool) (d : BitVec 7) (a : Src) (s : State) : Host.Outcome State Fault Refusal :=
  issue (.popc w d a) s fun x =>
    x.unary w d a fun p => elemShift x.et (fun w v _ => popCount w v) p fun _ => 0

/-- `clz`: leading 0 bits of each element (R152). -/
def execClz (w : Bool) (d : BitVec 7) (a : Src) (s : State) : Host.Outcome State Fault Refusal :=
  issue (.clz w d a) s fun x =>
    x.unary w d a fun p => elemShift x.et (fun w v _ => leadingZeros w v) p fun _ => 0

/-- `brev`: the bits of each element reversed (R152). -/
def execBrev (w : Bool) (d : BitVec 7) (a : Src) (s : State) : Host.Outcome State Fault Refusal :=
  issue (.brev w d a) s fun x =>
    x.unary w d a fun p => elemShift x.et (fun w v _ => bitReverse w v) p fun _ => 0

/-- `bfx`: extract a bit field, extended by the view (R153). -/
def execBfx (w : Bool) (d : BitVec 7) (a b : Src) (s : State) : Host.Outcome State Fault Refusal :=
  issue (.bfx w d a b) s fun x =>
    x.binary w d a b (fieldExtract x.et)

/-- `bfi`: insert a bit field into D (R153). -/
def execBfi (w : Bool) (d : BitVec 7) (a b : Src) (s : State) : Host.Outcome State Fault Refusal :=
  issue (.bfi w d a b) s fun x =>
    x.lanewise w d fun l => fieldInsert (x.rdv a l) (x.rdv b l) (x.g.vreg d.toNat l)

/-- `prmt`: permute bytes (R154). -/
def execPrmt (w : Bool) (d : BitVec 7) (a b : Src) (s : State) : Host.Outcome State Fault Refusal :=
  issue (.prmt w d a b) s fun x =>
    x.binary w d a b bytePermute

/-- `abs`: the absolute value of each element (R152). -/
def execAbs (w : Bool) (d : BitVec 7) (a : Src) (s : State) : Host.Outcome State Fault Refusal :=
  issue (.abs w d a) s fun x =>
    x.unary w d a (absElems x.et x.sat)

/-! ## Row 0x3 (R155 to R159) -/

/-- `cmpeq` (R155, R156). -/
def execCmpeq (w : Bool) (d : BitVec 3) (a b : Src) (s : State) : Host.Outcome State Fault Refusal :=
  issue (.cmpeq w d a b) s fun x =>
    x.compare .eq w d a b

/-- `cmpne` (R155, R156). -/
def execCmpne (w : Bool) (d : BitVec 3) (a b : Src) (s : State) : Host.Outcome State Fault Refusal :=
  issue (.cmpne w d a b) s fun x =>
    x.compare .ne w d a b

/-- `cmplt` (R155, R156). -/
def execCmplt (w : Bool) (d : BitVec 3) (a b : Src) (s : State) : Host.Outcome State Fault Refusal :=
  issue (.cmplt w d a b) s fun x =>
    x.compare .lt w d a b

/-- `cmple` (R155, R156). -/
def execCmple (w : Bool) (d : BitVec 3) (a b : Src) (s : State) : Host.Outcome State Fault Refusal :=
  issue (.cmple w d a b) s fun x =>
    x.compare .le w d a b

/-- `cmpgt` (R155, R156). -/
def execCmpgt (w : Bool) (d : BitVec 3) (a b : Src) (s : State) : Host.Outcome State Fault Refusal :=
  issue (.cmpgt w d a b) s fun x =>
    x.compare .gt w d a b

/-- `cmpge` (R155, R156). -/
def execCmpge (w : Bool) (d : BitVec 3) (a b : Src) (s : State) : Host.Outcome State Fault Refusal :=
  issue (.cmpge w d a b) s fun x =>
    x.compare .ge w d a b

/-- `cmpun` (R155, R156). -/
def execCmpun (w : Bool) (d : BitVec 3) (a b : Src) (s : State) : Host.Outcome State Fault Refusal :=
  issue (.cmpun w d a b) s fun x =>
    x.compare .un w d a b

/-- `sel`: A where the guard holds and B where it fails, in every active lane (R158). -/
def execSel (w : Bool) (d : BitVec 7) (a b : Src) (s : State) : Host.Outcome State Fault Refusal :=
  issue (.sel w d a b) s fun x =>
    x.vector w d x.active fun l => if x.guard.getLsbD l then x.rdv a l else x.rdv b l

/-- `mov`: the whole word (R158). -/
def execMov (w : Bool) (d : BitVec 7) (a : Src) (s : State) : Host.Outcome State Fault Refusal :=
  issue (.mov w d a) s fun x =>
    x.unary w d a id

/-- `pand` (R157). -/
def execPand (w : Bool) (d a b : BitVec 3) (s : State) : Host.Outcome State Fault Refusal :=
  issue (.pand w d a b) s fun x =>
    x.predicate w d fun l => (x.g.preg a.toNat &&& x.g.preg b.toNat).getLsbD l

/-- `por` (R157). -/
def execPor (w : Bool) (d a b : BitVec 3) (s : State) : Host.Outcome State Fault Refusal :=
  issue (.por w d a b) s fun x =>
    x.predicate w d fun l => (x.g.preg a.toNat ||| x.g.preg b.toNat).getLsbD l

/-- `pxor` (R157). -/
def execPxor (w : Bool) (d a b : BitVec 3) (s : State) : Host.Outcome State Fault Refusal :=
  issue (.pxor w d a b) s fun x =>
    x.predicate w d fun l => (x.g.preg a.toNat ^^^ x.g.preg b.toNat).getLsbD l

/-- `pnot` (R157). -/
def execPnot (w : Bool) (d a : BitVec 3) (s : State) : Host.Outcome State Fault Refusal :=
  issue (.pnot w d a) s fun x =>
    x.predicate w d fun l => !((x.g.preg a.toNat).getLsbD l)

/-- `pset`: the word is not 0 (R157). -/
def execPset (w : Bool) (d : BitVec 3) (a : Src) (s : State) : Host.Outcome State Fault Refusal :=
  issue (.pset w d a) s fun x =>
    x.predicate w d fun l => decide (x.rdv a l ≠ 0)

/-- The index of a lane of `movix` and `stix`: an exact sum (R159). -/
def Ctx.index (x : Ctx) (a : BitVec 7) (b : Src) (l : Nat) : Nat := (x.g.vreg a.toNat l).toNat + (x.rdv b l).toNat

/-- The checks of an indexed access: REG-RANGE in the lanes whose index reaches the bound, then the operand wait on the
registers reached (R159). -/
def Ctx.indexed (x : Ctx) (a : BitVec 7) (b : Src) (f : Res) : Res :=
  let bad := x.act &&& maskOf fun l => decide (x.g.bound ≤ x.index a b l)
  match lanesOf bad with
  | l :: _ => .trap { cause := 0x04, val := x.index a b l, lanes := some bad }
  | [] =>
    let regs := (lanesOf x.act).map (x.index a b)
    if x.g.pendingOn regs [] false then .wait (x.waitRegs regs) else f

/-- `movix`: lane l of the register that the index names (R159). -/
def execMovix (d a : BitVec 7) (b : Src) (s : State) : Host.Outcome State Fault Refusal :=
  issue (.movix d a b) s fun x =>
    x.indexed a b (x.lanewise false d fun l => x.g.vreg (x.index a b l) l)

/-- `stix`: write lane l of the register that the index names (R159). -/
def execStix (d a : BitVec 7) (b : Src) (s : State) : Host.Outcome State Fault Refusal :=
  issue (.stix d a b) s fun x =>
    x.indexed a b (.done (x.s.updCur x.c fun g =>
      { g with v := Sparse.putAll g.v ((lanesOf x.act).map fun l => (32 * x.index a b l + l, x.g.vreg d.toNat l)) }) [])

/-! ## Row 0xE (R160) -/

/-- `sadd`: a + b (R160). -/
def execSadd (d a b : BitVec 6) (s : State) : Host.Outcome State Fault Refusal :=
  issue (.sadd d a b) s fun x =>
    x.scalar2 d a b (· + ·)

/-- `ssub`: a − b (R160). -/
def execSsub (d a b : BitVec 6) (s : State) : Host.Outcome State Fault Refusal :=
  issue (.ssub d a b) s fun x =>
    x.scalar2 d a b (· - ·)

/-- `smul`: the low 64 bits of a × b (R160). -/
def execSmul (d a b : BitVec 6) (s : State) : Host.Outcome State Fault Refusal :=
  issue (.smul d a b) s fun x =>
    x.scalar2 d a b (· * ·)

/-- `sand`: AND (R160). -/
def execSand (d a b : BitVec 6) (s : State) : Host.Outcome State Fault Refusal :=
  issue (.sand d a b) s fun x =>
    x.scalar2 d a b (· &&& ·)

/-- `sor`: OR (R160). -/
def execSor (d a b : BitVec 6) (s : State) : Host.Outcome State Fault Refusal :=
  issue (.sor d a b) s fun x =>
    x.scalar2 d a b (· ||| ·)

/-- `sxor`: XOR (R160). -/
def execSxor (d a b : BitVec 6) (s : State) : Host.Outcome State Fault Refusal :=
  issue (.sxor d a b) s fun x =>
    x.scalar2 d a b (· ^^^ ·)

/-- `sshl`: shift left; 0 from 64 up (R160). -/
def execSshl (d a b : BitVec 6) (s : State) : Host.Outcome State Fault Refusal :=
  issue (.sshl d a b) s fun x =>
    x.scalar2 d a b (fun p q => BitVec.ofNat 64 (shiftLeft 64 p.toNat q.toNat))

/-- `sshr`: shift right; 0 from 64 up (R160). -/
def execSshr (d a b : BitVec 6) (s : State) : Host.Outcome State Fault Refusal :=
  issue (.sshr d a b) s fun x =>
    x.scalar2 d a b (fun p q => BitVec.ofNat 64 (shiftRight 64 p.toNat q.toNat))

/-- `ssar`: arithmetic shift right; the sign from 64 up (R160). -/
def execSsar (d a b : BitVec 6) (s : State) : Host.Outcome State Fault Refusal :=
  issue (.ssar d a b) s fun x =>
    x.scalar2 d a b (fun p q => BitVec.ofNat 64 (shiftArith 64 p.toNat q.toNat))

/-- `scmplt`: 1 if a < b signed (R160). -/
def execScmplt (d a b : BitVec 6) (s : State) : Host.Outcome State Fault Refusal :=
  issue (.scmplt d a b) s fun x =>
    x.scalar2 d a b (fun p q => BitVec.ofNat 64 (b2n (p.slt q)))

/-- `scmpeq`: 1 if a = b (R160). -/
def execScmpeq (d a b : BitVec 6) (s : State) : Host.Outcome State Fault Refusal :=
  issue (.scmpeq d a b) s fun x =>
    x.scalar2 d a b (fun p q => BitVec.ofNat 64 (b2n (p == q)))

/-- `smin`: the smaller, signed (R160). -/
def execSmin (d a b : BitVec 6) (s : State) : Host.Outcome State Fault Refusal :=
  issue (.smin d a b) s fun x =>
    x.scalar2 d a b (fun p q => if p.slt q then p else q)

/-- `smax`: the larger, signed (R160). -/
def execSmax (d a b : BitVec 6) (s : State) : Host.Outcome State Fault Refusal :=
  issue (.smax d a b) s fun x =>
    x.scalar2 d a b (fun p q => if p.slt q then q else p)

/-- `saddi`: a + K sign-extended (R160). -/
def execSaddi (d a : BitVec 6) (k : BitVec 8) (s : State) : Host.Outcome State Fault Refusal :=
  issue (.saddi d a k) s fun x =>
    x.scalar d (x.rds a + k.signExtend 64)

/-- `smovi`: K16 sign-extended (R160). -/
def execSmovi (d : BitVec 6) (k : BitVec 16) (s : State) : Host.Outcome State Fault Refusal :=
  issue (.smovi d k) s fun x =>
    x.scalar d (k.signExtend 64)

/-- `smovhi`: d × 2^16 OR K16 (R160). -/
def execSmovhi (d : BitVec 6) (k : BitVec 16) (s : State) : Host.Outcome State Fault Refusal :=
  issue (.smovhi d k) s fun x =>
    x.scalar d (x.rds d <<< 16 ||| k.setWidth 64)

/-! ## Register granules (R162 to R164) -/

/-- The most extended granules a group may hold (R103). -/
def Group.maxExt (g : Group) : Nat := (128 - g.baseN) / 8

/-- REG-RANGE with the granule count (R162). -/
def granuleTrap (k : BitVec 8) : Trap := { cause := 0x04, val := k.toNat }

/-- `racq`: take n granules at once if they are free and no earlier request waits; else wait in the registers state (R162,
R163, R106). -/
def execRacq (d : BitVec 6) (k : BitVec 8) (s : State) : Host.Outcome State Fault Refusal :=
  issue (.racq d k) s fun x =>
    if x.g.maxExt < x.g.ext + k.toNat then .trap (granuleTrap k)
    else if (x.s.core x.b.stk x.b.core).racq.isEmpty && decide (k.toNat ≤ x.s.freeGranules x.b.stk x.b.core) then
      .done (x.s.updCur x.c fun g =>
        let g := { g with ext := g.ext + k.toNat }
        g.setS d.toNat (BitVec.ofNat 64 g.bound)) []
    else
      .wait (({ x with s := x.s.updCore x.b.stk x.b.core fun c =>
        { c with racq := c.racq ++ [(x.c.blk, x.c.gid, x.c.age, k.toNat, d.toNat)] } } : Ctx).waitAs .registers)

/-- `rrel`: the pending results of `fdiv` to `flog2` are written (R170); wait until no pending result, of whatever kind, targets the released
registers (assumption 102) and no B tile of a joint product that waits for its rendezvous lies in them (R300), lower B, and offer the granules
(R164, R106). The values of the released registers are lost. -/
def execRrel (d : BitVec 6) (k : BitVec 8) (s : State) : Host.Outcome State Fault Refusal :=
  issue (.rrel d k) s fun x =>
    if x.g.ext < k.toNat then .trap (granuleTrap k)
    else
      let low := x.g.bound - 8 * k.toNat
      let regs := (List.range (8 * k.toNat)).map (low + ·)
      if (x.g.flushLong x.now).pendingOn regs [] false then .wait (x.waitRegs regs)
      else if x.b.arrivals.any fun p => p.gid == x.g.gid && p.bregs.any fun r => decide (low ≤ r) then .wait x.s
      else
        .done ((x.s.updCur x.c fun g =>
          let g := g.flushLong x.now
          let g := { g with ext := g.ext - k.toNat, v := Sparse.drop (fun a => decide (32 * low ≤ a)) g.v,
                             bad := g.bad.filter fun r => decide (r < low) || decide (128 ≤ r) }
          g.setS d.toNat (BitVec.ofNat 64 g.bound)).granulesFreed x.b.stk x.b.core) []

end Sys2Proof.Machine
end

