-- ==== Sys2Proof/Machine/LaneOps.lean ====
section
/-!
DEFINITION. Row 0x6: exchange between the lanes of a split (R196 to R202).
-/
namespace Sys2Proof.Machine

/-! ## Shuffles (R197) -/

/-- The source lane of a shuffle, if it exists and is active. -/
def Ctx.source (x : Ctx) (k : Int) : Option Nat :=
  if 0 ≤ k ∧ k ≤ 31 then (if x.active.getLsbD k.toNat then some k.toNat else none) else none

/-- Add p6 in the participating lanes to a vector result: set where there is a source lane. -/
def Res.withStatus (x : Ctx) (has : Nat → Bool) : Res → Res
  | .done s lat => .done (x.setStatus s x.act (maskOf has)) lat
  | r => r

/-- A shuffle: `lane l d` is the source lane of lane l for the amount d. -/
def Ctx.shuffle (x : Ctx) (w : Bool) (d : BitVec 7) (a b : Src) (lane : Nat → Nat → Int) : Res :=
  let src (l : Nat) : Option Nat := x.source (lane l (field (x.rdv b l) 4 0))
  (x.vector w d x.act fun l => match src l with
    | some k => x.rdv a k
    | none => x.g.vreg d.toNat l).withStatus x fun l => (src l).isSome

/-- `shfl`: from lane d (R197). -/
def execShfl (w : Bool) (d : BitVec 7) (a b : Src) (s : State) : Host.Outcome State Fault Refusal :=
  issue (.shfl w d a b) s fun x => x.shuffle w d a b fun _ k => Int.ofNat k

/-- `shflup`: from lane l − d (R197). -/
def execShflup (w : Bool) (d : BitVec 7) (a b : Src) (s : State) : Host.Outcome State Fault Refusal :=
  issue (.shflup w d a b) s fun x => x.shuffle w d a b fun l k => Int.ofNat l - Int.ofNat k

/-- `shfldn`: from lane l + d (R197). -/
def execShfldn (w : Bool) (d : BitVec 7) (a b : Src) (s : State) : Host.Outcome State Fault Refusal :=
  issue (.shfldn w d a b) s fun x => x.shuffle w d a b fun l k => Int.ofNat (l + k)

/-- `shflx`: from lane l XOR d (R197). -/
def execShflx (w : Bool) (d : BitVec 7) (a b : Src) (s : State) : Host.Outcome State Fault Refusal :=
  issue (.shflx w d a b) s fun x => x.shuffle w d a b fun l k => Int.ofNat (l ^^^ k)

/-! ## Broadcast and copy to a scalar (R198) -/

/-- `bcast`: one source lane to every participating lane (R198). -/
def execBcast (d : BitVec 7) (a : Src) (b : BitVec 6) (s : State) : Host.Outcome State Fault Refusal :=
  issue (.bcast d a b) s fun x =>
    let src := x.source (Int.ofNat (field (x.rds b) 4 0))
    (x.vector false d x.act fun l => match src with
      | some k => x.rdv a k
      | none => x.g.vreg d.toNat l).withStatus x fun _ => src.isSome

/-- `vtos`: one lane's word to a scalar (R198). -/
def execVtos (d : BitVec 6) (a : Src) (b : BitVec 6) (s : State) : Host.Outcome State Fault Refusal :=
  issue (.vtos d a b) s fun x =>
    let src := x.source (Int.ofNat (field (x.rds b) 4 0))
    (x.scalar d (match src with | some k => (x.rdv a k).setWidth 64 | none => 0)).withStatus x fun _ => src.isSome

/-! ## Votes (R199) -/

/-- The participating lanes whose word of A is not 0. -/
def Ctx.nonZero (x : Ctx) (a : Src) : LaneMask := maskWhere x.act fun l => decide (x.rdv a l ≠ 0)

/-- `vall`: A is not 0 in every participating lane (R199). -/
def execVall (d : BitVec 6) (a : Src) (s : State) : Host.Outcome State Fault Refusal :=
  issue (.vall d a) s fun x => x.scalar d (BitVec.ofNat 64 (b2n (decide (x.nonZero a = x.act))))

/-- `vany`: A is not 0 in some participating lane (R199). -/
def execVany (d : BitVec 6) (a : Src) (s : State) : Host.Outcome State Fault Refusal :=
  issue (.vany d a) s fun x => x.scalar d (BitVec.ofNat 64 (b2n (decide (x.nonZero a ≠ 0))))

/-- `ballot`: the mask of participating lanes where A is not 0 (R199). -/
def execBallot (d : BitVec 6) (a : Src) (s : State) : Host.Outcome State Fault Refusal :=
  issue (.ballot d a) s fun x => x.scalar d ((x.nonZero a).setWidth 64)

/-- `lanes`: the number of participating lanes below in which A is not 0 (R199). -/
def execLanes (d : BitVec 7) (a : Src) (s : State) : Host.Outcome State Fault Refusal :=
  issue (.lanes d a) s fun x => x.vector false d x.act fun l =>
    BitVec.ofNat 32 ((lanesOf (x.nonZero a)).filter fun k => decide (k < l)).length

/-! ## Reductions (R200) -/

/-- Element codes, each with the lane whose generator a step on it takes. -/
abbrev Leaves := List (Nat × Nat)

/-- One level of the pairwise tree: neighbours combine, an odd last one passes up. -/
def pairUp (op : Nat → Nat → Word → Nat × Word) : Leaves → List Word → Leaves × List Word
  | (l, a) :: (_, b) :: r, g =>
    let y := op a b (nth 0 g l)
    let rest := pairUp op r (setNth g l y.2)
    ((l, y.1) :: rest.1, rest.2)
  | l, g => (l, g)

/-- The tree of one element, level by level. -/
def reduceTree (op : Nat → Nat → Word → Nat × Word) : Nat → Leaves → List Word → Nat × List Word
  | 0, l, g => (match l with | x :: _ => x.2 | [] => 0, g)
  | n + 1, l, g => let r := pairUp op l g; reduceTree op n r.1 r.2

/-- The trees of the elements from k on, in ascending order (R134, R200; DEDUCED, log entry 98). -/
def reduceElems (op : Nat → Nat → Word → Nat × Word) (leaves : Nat → Leaves) : Nat → Nat → List Word → List Nat × List Word
  | _, 0, g => ([], g)
  | k, n + 1, g =>
    let r := reduceTree op 5 (leaves k) g
    let rest := reduceElems op leaves (k + 1) n r.2
    (r.1 :: rest.1, rest.2)

/-- A reduction under a floating type in the fixed tree of R200. -/
def Ctx.reduceFloat (x : Ctx) (d : BitVec 6) (a : Src) (op : Nat → Nat → Word → Nat × Word) : Res :=
  let w := etWidth x.et
  let r := reduceElems op (fun k => (lanesOf x.act).map fun l => (l, elemCode w (x.rdv a l) k)) 0 (etCount x.et) x.g.gens
  .done (x.s.updCur x.c fun g => { g with gens := r.2 }.setS d.toNat ((BitVec.ofNat 32 (packElems w r.1)).setWidth 64)) []

/-- A reduction under an integer type: `f` of the element values of the lanes. -/
def Ctx.reduceInt (x : Ctx) (d : BitVec 6) (a : Src) (f : List Int → Nat) : Res :=
  x.scalar d (if (lanesOf x.act).isEmpty then 0
    else (mapElems x.et fun k => f ((lanesOf x.act).map fun l => elemInt x.et (x.rdv a l) k)).setWidth 64)

/-- One `fadd` of two words under MODE (R166). -/
def Ctx.addWord (x : Ctx) (a b g : Word) : Word × Word :=
  let r := roundingOf x.mode
  wordRsr x.et r (fun k u => x.fmt.enc r u (Val.add x.rm (x.val a k) (x.val b k))) g

/-- One `fadd` of two element codes under MODE (R166), with the generator after it. -/
def Ctx.addCode (x : Ctx) (a b : Nat) (g : Word) : Nat × Word :=
  let r := roundingOf x.mode
  let g' := if r.rm == 5 then rngNext g else g
  (x.fmt.enc r g'.toNat (Val.add r.rm (x.fmt.operand r.ftz a) (x.fmt.operand r.ftz b)), g')

/-- One `fmin` or `fmax` of two element codes (R167). -/
def Ctx.pickCode (x : Ctx) (max : Bool) (a b : Nat) (g : Word) : Nat × Word :=
  (minMaxCode x.fmt (roundingOf x.mode) max a b, g)

/-- The least element of a list. -/
def leastOf : List Int → Int
  | [] => 0
  | z :: r => r.foldl min z

/-- The greatest element of a list. -/
def greatestOf : List Int → Int
  | [] => 0
  | z :: r => r.foldl max z

/-- `redadd` (R200). -/
def execRedadd (d : BitVec 6) (a : Src) (s : State) : Host.Outcome State Fault Refusal :=
  issue (.redadd d a) s fun x =>
    if etFloat x.et then x.reduceFloat d a x.addCode else x.reduceInt d a fun l => narrowInt x.sat x.et l.sum

/-- `redmin` (R200). -/
def execRedmin (d : BitVec 6) (a : Src) (s : State) : Host.Outcome State Fault Refusal :=
  issue (.redmin d a) s fun x =>
    if etFloat x.et then x.reduceFloat d a (x.pickCode false)
    else x.reduceInt d a fun l => narrowInt false x.et (leastOf l)

/-- `redmax` (R200). -/
def execRedmax (d : BitVec 6) (a : Src) (s : State) : Host.Outcome State Fault Refusal :=
  issue (.redmax d a) s fun x =>
    if etFloat x.et then x.reduceFloat d a (x.pickCode true)
    else x.reduceInt d a fun l => narrowInt false x.et (greatestOf l)

/-! ## Scan (R201) -/

/-- The running sums over lanes in order, with the generators after them: floating values are rounded at every lane. -/
def Ctx.scanFloat (x : Ctx) (a : Src) : List Nat → Word → List Word → List (Nat × Word) × List Word
  | [], _, g => ([], g)
  | l :: r, prev, g =>
    let y := x.addWord prev (x.rdv a l) (nth 0 g l)
    let rest := x.scanFloat a r y.1 (setNth g l y.2)
    ((l, y.1) :: rest.1, rest.2)

/-- The exact sums under an integer type, each narrowed on its own. -/
def Ctx.scanInt (x : Ctx) (a : Src) (c : Word) (l : Nat) : Word :=
  mapElems x.et fun k => narrowInt x.sat x.et
    (elemInt x.et c k + (((lanesOf x.act).filter fun m => decide (m ≤ l)).map fun m => elemInt x.et (x.rdv a m) k).sum)

/-- `scan`: an inclusive running sum over the participating lanes (R201). -/
def execScan (d : BitVec 7) (a : Src) (b : BitVec 6) (s : State) : Host.Outcome State Fault Refusal :=
  issue (.scan d a b) s fun x =>
    let c : Word := (x.rds b).setWidth 32
    if etFloat x.et then
      let r := x.scanFloat a (lanesOf x.act) c x.g.gens
      .done (x.s.updCur x.c fun g =>
        { g with gens := r.2, v := Sparse.putAll g.v (r.1.map fun y => (32 * d.toNat + y.1, y.2)) }) []
    else x.vector false d x.act (x.scanInt a c)

end Sys2Proof.Machine
end

