-- ==== Sys2Proof/Machine/Dispatch.lean ====
section
/-!
DEFINITION. One arm per constructor of `Instr`: the direct call of its meaning.
-/
namespace Sys2Proof.Machine

/-- The meaning of an instruction or event at a state. -/
def exec (i : Instr) (s : State) : Host.Outcome State Fault Refusal :=
  match i with
  | .nop => Sys2Proof.Machine.execNop s
  | .exit => Sys2Proof.Machine.execExit s
  | .trap k => Sys2Proof.Machine.execTrap k s
  | .brk k => Sys2Proof.Machine.execBrk k s
  | .yield => Sys2Proof.Machine.execYield s
  | .srd d k => Sys2Proof.Machine.execSrd d k s
  | .swr d k => Sys2Proof.Machine.execSwr d k s
  | .grow d a k => Sys2Proof.Machine.execGrow d a k s
  | .detach => Sys2Proof.Machine.execDetach s
  | .attach => Sys2Proof.Machine.execAttach s
  | .racq d k => Sys2Proof.Machine.execRacq d k s
  | .rrel d k => Sys2Proof.Machine.execRrel d k s
  | .tret => Sys2Proof.Machine.execTret s
  | .add w d a b => Sys2Proof.Machine.execAdd w d a b s
  | .sub w d a b => Sys2Proof.Machine.execSub w d a b s
  | .mul w d a b => Sys2Proof.Machine.execMul w d a b s
  | .mulhi w d a b => Sys2Proof.Machine.execMulhi w d a b s
  | .mad w d a b => Sys2Proof.Machine.execMad w d a b s
  | .min w d a b => Sys2Proof.Machine.execMin w d a b s
  | .max w d a b => Sys2Proof.Machine.execMax w d a b s
  | .and w d a b => Sys2Proof.Machine.execAnd w d a b s
  | .or w d a b => Sys2Proof.Machine.execOr w d a b s
  | .xor w d a b => Sys2Proof.Machine.execXor w d a b s
  | .andn w d a b => Sys2Proof.Machine.execAndn w d a b s
  | .shl w d a b => Sys2Proof.Machine.execShl w d a b s
  | .shr w d a b => Sys2Proof.Machine.execShr w d a b s
  | .sar w d a b => Sys2Proof.Machine.execSar w d a b s
  | .rotl w d a b => Sys2Proof.Machine.execRotl w d a b s
  | .sad w d a b => Sys2Proof.Machine.execSad w d a b s
  | .addi w d a k => Sys2Proof.Machine.execAddi w d a k s
  | .andi w d a k => Sys2Proof.Machine.execAndi w d a k s
  | .ori w d a k => Sys2Proof.Machine.execOri w d a k s
  | .xori w d a k => Sys2Proof.Machine.execXori w d a k s
  | .shli w d a k => Sys2Proof.Machine.execShli w d a k s
  | .shri w d a k => Sys2Proof.Machine.execShri w d a k s
  | .sari w d a k => Sys2Proof.Machine.execSari w d a k s
  | .movi w d k => Sys2Proof.Machine.execMovi w d k s
  | .movhi w d k => Sys2Proof.Machine.execMovhi w d k s
  | .popc w d a => Sys2Proof.Machine.execPopc w d a s
  | .clz w d a => Sys2Proof.Machine.execClz w d a s
  | .brev w d a => Sys2Proof.Machine.execBrev w d a s
  | .bfx w d a b => Sys2Proof.Machine.execBfx w d a b s
  | .bfi w d a b => Sys2Proof.Machine.execBfi w d a b s
  | .prmt w d a b => Sys2Proof.Machine.execPrmt w d a b s
  | .abs w d a => Sys2Proof.Machine.execAbs w d a s
  | .cmpeq w d a b => Sys2Proof.Machine.execCmpeq w d a b s
  | .cmpne w d a b => Sys2Proof.Machine.execCmpne w d a b s
  | .cmplt w d a b => Sys2Proof.Machine.execCmplt w d a b s
  | .cmple w d a b => Sys2Proof.Machine.execCmple w d a b s
  | .cmpgt w d a b => Sys2Proof.Machine.execCmpgt w d a b s
  | .cmpge w d a b => Sys2Proof.Machine.execCmpge w d a b s
  | .cmpun w d a b => Sys2Proof.Machine.execCmpun w d a b s
  | .sel w d a b => Sys2Proof.Machine.execSel w d a b s
  | .mov w d a => Sys2Proof.Machine.execMov w d a s
  | .movix d a b => Sys2Proof.Machine.execMovix d a b s
  | .stix d a b => Sys2Proof.Machine.execStix d a b s
  | .pand w d a b => Sys2Proof.Machine.execPand w d a b s
  | .por w d a b => Sys2Proof.Machine.execPor w d a b s
  | .pxor w d a b => Sys2Proof.Machine.execPxor w d a b s
  | .pnot w d a => Sys2Proof.Machine.execPnot w d a s
  | .pset w d a => Sys2Proof.Machine.execPset w d a s
  | .fadd w d a b => Sys2Proof.Machine.execFadd w d a b s
  | .fsub w d a b => Sys2Proof.Machine.execFsub w d a b s
  | .fmul w d a b => Sys2Proof.Machine.execFmul w d a b s
  | .fma w d a b => Sys2Proof.Machine.execFma w d a b s
  | .fms w d a b => Sys2Proof.Machine.execFms w d a b s
  | .fnma w d a b => Sys2Proof.Machine.execFnma w d a b s
  | .fmin w d a b => Sys2Proof.Machine.execFmin w d a b s
  | .fmax w d a b => Sys2Proof.Machine.execFmax w d a b s
  | .fabs w d a => Sys2Proof.Machine.execFabs w d a s
  | .fneg w d a => Sys2Proof.Machine.execFneg w d a s
  | .fdiv d a b => Sys2Proof.Machine.execFdiv d a b s
  | .fsqrt d a => Sys2Proof.Machine.execFsqrt d a s
  | .frcp d a => Sys2Proof.Machine.execFrcp d a s
  | .frsq d a => Sys2Proof.Machine.execFrsq d a s
  | .fexp2 d a => Sys2Proof.Machine.execFexp2 d a s
  | .flog2 d a => Sys2Proof.Machine.execFlog2 d a s
  | .cvt w d a k => Sys2Proof.Machine.execCvt w d a k s
  | .cvtpk w d a b => Sys2Proof.Machine.execCvtpk w d a b s
  | .cvtup w d a k => Sys2Proof.Machine.execCvtup w d a k s
  | .frnd w d a => Sys2Proof.Machine.execFrnd w d a s
  | .fclass w d a => Sys2Proof.Machine.execFclass w d a s
  | .fldexp w d a b => Sys2Proof.Machine.execFldexp w d a b s
  | .frexp w d a => Sys2Proof.Machine.execFrexp w d a s
  | .shfl w d a b => Sys2Proof.Machine.execShfl w d a b s
  | .shflup w d a b => Sys2Proof.Machine.execShflup w d a b s
  | .shfldn w d a b => Sys2Proof.Machine.execShfldn w d a b s
  | .shflx w d a b => Sys2Proof.Machine.execShflx w d a b s
  | .vall d a => Sys2Proof.Machine.execVall d a s
  | .vany d a => Sys2Proof.Machine.execVany d a s
  | .ballot d a => Sys2Proof.Machine.execBallot d a s
  | .redadd d a => Sys2Proof.Machine.execRedadd d a s
  | .redmin d a => Sys2Proof.Machine.execRedmin d a s
  | .redmax d a => Sys2Proof.Machine.execRedmax d a s
  | .scan d a b => Sys2Proof.Machine.execScan d a b s
  | .lanes d a => Sys2Proof.Machine.execLanes d a s
  | .bcast d a b => Sys2Proof.Machine.execBcast d a b s
  | .vtos d a b => Sys2Proof.Machine.execVtos d a b s
  | .bra o => Sys2Proof.Machine.execBra o s
  | .call d k => Sys2Proof.Machine.execCall d k s
  | .ret a => Sys2Proof.Machine.execRet a s
  | .jmpi a => Sys2Proof.Machine.execJmpi a s
  | .brau o => Sys2Proof.Machine.execBrau o s
  | .brany o => Sys2Proof.Machine.execBrany o s
  | .setmode k => Sys2Proof.Machine.execSetmode k s
  | .setmmode k => Sys2Proof.Machine.execSetmmode k s
  | .setgang a => Sys2Proof.Machine.execSetgang a s
  | .splitsync => Sys2Proof.Machine.execSplitsync s
  | .ld8 d a sp k => Sys2Proof.Machine.execLd8 d a sp k s
  | .ld16 d a sp k => Sys2Proof.Machine.execLd16 d a sp k s
  | .ld32 d a sp k => Sys2Proof.Machine.execLd32 d a sp k s
  | .ld64 d a sp k => Sys2Proof.Machine.execLd64 d a sp k s
  | .ld128 d a sp k => Sys2Proof.Machine.execLd128 d a sp k s
  | .st8 d a sp k => Sys2Proof.Machine.execSt8 d a sp k s
  | .st16 d a sp k => Sys2Proof.Machine.execSt16 d a sp k s
  | .st32 d a sp k => Sys2Proof.Machine.execSt32 d a sp k s
  | .st64 d a sp k => Sys2Proof.Machine.execSt64 d a sp k s
  | .st128 d a sp k => Sys2Proof.Machine.execSt128 d a sp k s
  | .pref a sp k => Sys2Proof.Machine.execPref a sp k s
  | .ldu d a sp k => Sys2Proof.Machine.execLdu d a sp k s
  | .fence => Sys2Proof.Machine.execFence s
  | .fencei => Sys2Proof.Machine.execFencei s
  | .ld8s d a sp k => Sys2Proof.Machine.execLd8s d a sp k s
  | .ld16s d a sp k => Sys2Proof.Machine.execLd16s d a sp k s
  | .aadd d a b => Sys2Proof.Machine.execAadd d a b s
  | .amin d a b => Sys2Proof.Machine.execAmin d a b s
  | .amax d a b => Sys2Proof.Machine.execAmax d a b s
  | .aand d a b => Sys2Proof.Machine.execAand d a b s
  | .aor d a b => Sys2Proof.Machine.execAor d a b s
  | .axor d a b => Sys2Proof.Machine.execAxor d a b s
  | .axchg d a b => Sys2Proof.Machine.execAxchg d a b s
  | .acas d a b => Sys2Proof.Machine.execAcas d a b s
  | .afadd d a b => Sys2Proof.Machine.execAfadd d a b s
  | .radd a b => Sys2Proof.Machine.execRadd a b s
  | .rmin a b => Sys2Proof.Machine.execRmin a b s
  | .rmax a b => Sys2Proof.Machine.execRmax a b s
  | .rfadd a b => Sys2Proof.Machine.execRfadd a b s
  | .lock a => Sys2Proof.Machine.execLock a s
  | .unlock a => Sys2Proof.Machine.execUnlock a s
  | .copy d a b => Sys2Proof.Machine.execCopy d a b s
  | .copym d a b => Sys2Proof.Machine.execCopym d a b s
  | .bclose d => Sys2Proof.Machine.execBclose d s
  | .bwait a => Sys2Proof.Machine.execBwait a s
  | .barinit a b => Sys2Proof.Machine.execBarinit a b s
  | .bararr d a b => Sys2Proof.Machine.execBararr d a b s
  | .barwait a b => Sys2Proof.Machine.execBarwait a b s
  | .barexp a b => Sys2Proof.Machine.execBarexp a b s
  | .barcont a b => Sys2Proof.Machine.execBarcont a b s
  | .bartry d a b => Sys2Proof.Machine.execBartry d a b s
  | .remarr a b => Sys2Proof.Machine.execRemarr a b s
  | .bsync => Sys2Proof.Machine.execBsync s
  | .mma d a b => Sys2Proof.Machine.execMma d a b s
  | .mmaz d a b => Sys2Proof.Machine.execMmaz d a b s
  | .mfence d => Sys2Proof.Machine.execMfence d s
  | .mwait a => Sys2Proof.Machine.execMwait a s
  | .tld d a => Sys2Proof.Machine.execTld d a s
  | .tst a b => Sys2Proof.Machine.execTst a b s
  | .thdr d a => Sys2Proof.Machine.execThdr d a s
  | .tchk d a => Sys2Proof.Machine.execTchk d a s
  | .hadq d a b => Sys2Proof.Machine.execHadq d a b s
  | .transq a b => Sys2Proof.Machine.execTransq a b s
  | .cvtt a b => Sys2Proof.Machine.execCvtt a b s
  | .tfill a b => Sys2Proof.Machine.execTfill a b s
  | .mwake => Sys2Proof.Machine.execMwake s
  | .qopen d a b => Sys2Proof.Machine.execQopen d a b s
  | .qrsv d a b => Sys2Proof.Machine.execQrsv d a b s
  | .qput a b => Sys2Proof.Machine.execQput a b s
  | .qputs a b => Sys2Proof.Machine.execQputs a b s
  | .qget d a => Sys2Proof.Machine.execQget d a s
  | .qgets d a b => Sys2Proof.Machine.execQgets d a b s
  | .qtry d a => Sys2Proof.Machine.execQtry d a s
  | .qpeek d a => Sys2Proof.Machine.execQpeek d a s
  | .qclose a => Sys2Proof.Machine.execQclose a s
  | .qfence => Sys2Proof.Machine.execQfence s
  | .qack => Sys2Proof.Machine.execQack s
  | .qsvc a b => Sys2Proof.Machine.execQsvc a b s
  | .emit a b => Sys2Proof.Machine.execEmit a b s
  | .tlbinv a b => Sys2Proof.Machine.execTlbinv a b s
  | .lrload d a b => Sys2Proof.Machine.execLrload d a b s
  | .lrinv a => Sys2Proof.Machine.execLrinv a s
  | .wsub a b => Sys2Proof.Machine.execWsub a b s
  | .wunsub a => Sys2Proof.Machine.execWunsub a s
  | .wflush a => Sys2Proof.Machine.execWflush a s
  | .qxsetDropVqn d a b => Sys2Proof.Machine.execQxsetDropVqn d a b s
  | .qxsetDropAsid d a b => Sys2Proof.Machine.execQxsetDropAsid d a b s
  | .qxsetDropAll d a b => Sys2Proof.Machine.execQxsetDropAll d a b s
  | .qxsetWriteDescriptor d a b => Sys2Proof.Machine.execQxsetWriteDescriptor d a b s
  | .sadd d a b => Sys2Proof.Machine.execSadd d a b s
  | .ssub d a b => Sys2Proof.Machine.execSsub d a b s
  | .smul d a b => Sys2Proof.Machine.execSmul d a b s
  | .sand d a b => Sys2Proof.Machine.execSand d a b s
  | .sor d a b => Sys2Proof.Machine.execSor d a b s
  | .sxor d a b => Sys2Proof.Machine.execSxor d a b s
  | .sshl d a b => Sys2Proof.Machine.execSshl d a b s
  | .sshr d a b => Sys2Proof.Machine.execSshr d a b s
  | .ssar d a b => Sys2Proof.Machine.execSsar d a b s
  | .saddi d a k => Sys2Proof.Machine.execSaddi d a k s
  | .smovi d k => Sys2Proof.Machine.execSmovi d k s
  | .smovhi d k => Sys2Proof.Machine.execSmovhi d k s
  | .scmplt d a b => Sys2Proof.Machine.execScmplt d a b s
  | .scmpeq d a b => Sys2Proof.Machine.execScmpeq d a b s
  | .smin d a b => Sys2Proof.Machine.execSmin d a b s
  | .smax d a b => Sys2Proof.Machine.execSmax d a b s
  | .crd d a => Sys2Proof.Machine.execCrd d a s
  | .cwait d a b => Sys2Proof.Machine.execCwait d a b s
  | .eres d a => Sys2Proof.Machine.execEres d a s
  | .erel d a => Sys2Proof.Machine.execErel d a s
  | .eqry d a => Sys2Proof.Machine.execEqry d a s
  | .illegalInstruction w => Sys2Proof.Machine.execIllegalInstruction w s
  | .splitRotation => Sys2Proof.Machine.execSplitRotation s
  | .loadDataReturn => Sys2Proof.Machine.execLoadDataReturn s
  | .longResultWrite => Sys2Proof.Machine.execLongResultWrite s
  | .atomicReply => Sys2Proof.Machine.execAtomicReply s
  | .storeQueueDrain => Sys2Proof.Machine.execStoreQueueDrain s
  | .quantumReductionPerform => Sys2Proof.Machine.execQuantumReductionPerform s
  | .pageWalkComplete => Sys2Proof.Machine.execPageWalkComplete s
  | .resumeRetry => Sys2Proof.Machine.execResumeRetry s
  | .resumeHandler => Sys2Proof.Machine.execResumeHandler s
  | .resumeEndBlock => Sys2Proof.Machine.execResumeEndBlock s
  | .resumeEndGrid => Sys2Proof.Machine.execResumeEndGrid s
  | .preemptOneBlock => Sys2Proof.Machine.execPreemptOneBlock s
  | .preemptLaunch => Sys2Proof.Machine.execPreemptLaunch s
  | .releaseHeldBlocks => Sys2Proof.Machine.execReleaseHeldBlocks s
  | .preemptionRequest => Sys2Proof.Machine.execPreemptionRequest s
  | .preemptTimeout => Sys2Proof.Machine.execPreemptTimeout s
  | .preemptSave => Sys2Proof.Machine.execPreemptSave s
  | .blockRestore => Sys2Proof.Machine.execBlockRestore s
  | .yieldRequest => Sys2Proof.Machine.execYieldRequest s
  | .launchGrid => Sys2Proof.Machine.execLaunchGrid s
  | .launchGraph => Sys2Proof.Machine.execLaunchGraph s
  | .heldRecordReady => Sys2Proof.Machine.execHeldRecordReady s
  | .energyRefill => Sys2Proof.Machine.execEnergyRefill s
  | .blockPlacement => Sys2Proof.Machine.execBlockPlacement s
  | .blockSteal => Sys2Proof.Machine.execBlockSteal s
  | .clusterForage => Sys2Proof.Machine.execClusterForage s
  | .blockRetire => Sys2Proof.Machine.execBlockRetire s
  | .graphNodeLaunch => Sys2Proof.Machine.execGraphNodeLaunch s
  | .continuationSpawn => Sys2Proof.Machine.execContinuationSpawn s
  | .watchdog => Sys2Proof.Machine.execWatchdog s
  | .throttleChange => Sys2Proof.Machine.execThrottleChange s
  | .remoteArrival => Sys2Proof.Machine.execRemoteArrival s
  | .copySectorLand => Sys2Proof.Machine.execCopySectorLand s
  | .copymDelivery => Sys2Proof.Machine.execCopymDelivery s
  | .matrixOpComplete => Sys2Proof.Machine.execMatrixOpComplete s
  | .matrixGate => Sys2Proof.Machine.execMatrixGate s
  | .matrixWakeDone => Sys2Proof.Machine.execMatrixWakeDone s
  | .portReserve => Sys2Proof.Machine.execPortReserve s
  | .portFill => Sys2Proof.Machine.execPortFill s
  | .portTake => Sys2Proof.Machine.execPortTake s
  | .portPeek => Sys2Proof.Machine.execPortPeek s
  | .portBinding => Sys2Proof.Machine.execPortBinding s
  | .portCloseNotice => Sys2Proof.Machine.execPortCloseNotice s
  | .putAcknowledge => Sys2Proof.Machine.execPutAcknowledge s
  | .queueWake => Sys2Proof.Machine.execQueueWake s
  | .queueWaitRetry => Sys2Proof.Machine.execQueueWaitRetry s
  | .superRefill => Sys2Proof.Machine.execSuperRefill s
  | .depositLanding => Sys2Proof.Machine.execDepositLanding s
  | .svcAdd => Sys2Proof.Machine.execSvcAdd s
  | .svcSignedMin => Sys2Proof.Machine.execSvcSignedMin s
  | .svcSignedMax => Sys2Proof.Machine.execSvcSignedMax s
  | .svcUnsignedMin => Sys2Proof.Machine.execSvcUnsignedMin s
  | .svcUnsignedMax => Sys2Proof.Machine.execSvcUnsignedMax s
  | .svcAnd => Sys2Proof.Machine.execSvcAnd s
  | .svcOr => Sys2Proof.Machine.execSvcOr s
  | .svcXor => Sys2Proof.Machine.execSvcXor s
  | .svcExchange => Sys2Proof.Machine.execSvcExchange s
  | .svcCompareAndSwap => Sys2Proof.Machine.execSvcCompareAndSwap s
  | .svcF32Add => Sys2Proof.Machine.execSvcF32Add s
  | .svcLoad => Sys2Proof.Machine.execSvcLoad s
  | .svcUndefinedOp => Sys2Proof.Machine.execSvcUndefinedOp s
  | .messageResend => Sys2Proof.Machine.execMessageResend s
  | .flitReceive => Sys2Proof.Machine.execFlitReceive s
  | .replayTimeout => Sys2Proof.Machine.execReplayTimeout s
  | .retrainComplete => Sys2Proof.Machine.execRetrainComplete s
  | .lctlRetrain => Sys2Proof.Machine.execLctlRetrain s
  | .connreqWrite => Sys2Proof.Machine.execConnreqWrite s
  | .reconfigDrainEnd => Sys2Proof.Machine.execReconfigDrainEnd s
  | .reconfigSwitchDone => Sys2Proof.Machine.execReconfigSwitchDone s
  | .outboxDrain => Sys2Proof.Machine.execOutboxDrain s
  | .evstatOvfClear => Sys2Proof.Machine.execEvstatOvfClear s
  | .powerSample => Sys2Proof.Machine.execPowerSample s
  | .powerClampDecision => Sys2Proof.Machine.execPowerClampDecision s
  | .powerOnBoot => Sys2Proof.Machine.execPowerOnBoot s
  | .recoveryImage => Sys2Proof.Machine.execRecoveryImage s
  | .attestationRequest => Sys2Proof.Machine.execAttestationRequest s
  | .computeDieResetEnter => Sys2Proof.Machine.execComputeDieResetEnter s
  | .computeDieResetExit => Sys2Proof.Machine.execComputeDieResetExit s
  | .scrubPass => Sys2Proof.Machine.execScrubPass s
  | .checkpointStart => Sys2Proof.Machine.execCheckpointStart s
  | .checkpointDone => Sys2Proof.Machine.execCheckpointDone s
  | .tlbShootdown => Sys2Proof.Machine.execTlbShootdown s
  | .hostCoherentAccess => Sys2Proof.Machine.execHostCoherentAccess s
  | .pcieDma => Sys2Proof.Machine.execPcieDma s
  | .subscriptionBatchTimeout => Sys2Proof.Machine.execSubscriptionBatchTimeout s
  | .subscriptionBatchLand => Sys2Proof.Machine.execSubscriptionBatchLand s
  | .shmWrite => Sys2Proof.Machine.execShmWrite s
  | .descriptorWrite => Sys2Proof.Machine.execDescriptorWrite s
  | .prgoReplayOne => Sys2Proof.Machine.execPrgoReplayOne s
  | .prgoReplayTwo => Sys2Proof.Machine.execPrgoReplayTwo s
  | .rootinvWrite => Sys2Proof.Machine.execRootinvWrite s
  | .lrinvWrite => Sys2Proof.Machine.execLrinvWrite s
  | .entryLatchRead => Sys2Proof.Machine.execEntryLatchRead s
  | .registerWrite => Sys2Proof.Machine.execRegisterWrite s
  | .queueAnswerArrival => Sys2Proof.Machine.execQueueAnswerArrival s
  | .ratedConditionExcursion => Sys2Proof.Machine.execRatedConditionExcursion s
  | .duplicateAndCompareMismatch => Sys2Proof.Machine.execDuplicateAndCompareMismatch s

end Sys2Proof.Machine
end

