-- ==== Sys2Proof/Machine/Step.lean ====
section
/-!
DEFINITION. One step of the package, and how a word comes to be the next instruction.

The agenda says what acts next. When it is empty a step asks the free value `Config.sched` for the next act; when it is not, a
step performs its head.
-/
namespace Sys2Proof.Machine

/-- A row of the table that is a device event: everything after `illegalInstruction`. -/
def isEvent (i : Instr) : Bool := decide (208 < i.ctorIdx)

/-- Fetch, decode and execute for a split on an issue slot. -/
def issueAt (stk core slot : Nat) (c : Cur) (s : State) : Host.Outcome State Fault Refusal :=
  match s.block? c.blk with
  | none => .next s
  | some b => match b.group? c.gid with
    | none => .next s
    | some g => match g.split? c.age with
      | none => .next s
      | some p => match s.fetch c b g p with
        | .wait s => .next (s.endIssue stk core slot c)
        | .trap t => .next ((s.fetchTrap c t).endIssue stk core slot c)
        | .word w s => match decodeWord w with
          | .error _ => .next ((s.badWord c w).endIssue stk core slot c)
          | .ok i => match exec i { s with cur := some c } with
            | .next s => .next (s.endIssue stk core slot c)
            | .fault r => .fault r
            | .refused r => .refused r

/-- Perform one act; nothing but a start acts while the package is held in reset (R427, R430). An event acts on the argument the agenda gives it. -/
def runAct (a : Act) (s : State) : Host.Outcome State Fault Refusal :=
  if s.boot.held && !a.inReset then .next s else
  match a with
  | .issue stk core slot => match s.slotTurn stk core slot with
    | .idle s => .next s
    | .go c s => issueAt stk core slot c s
  | .event i x => if isEvent i then exec i { s with ev := x } else .next s
  | .elapse cycles ns => .next (s.elapse cycles ns).performOverdue
  | .arrive m => .next (s.arrive m)
  | .depart k w a => .next (s.depart k w a)
  | .poison l => .next (s.poison l)
  | .poisonReg u g code => .next (s.poisonReg u g code)
  | .root asid vmid pa => .next { s with roots := (asid, vmid, pa) :: s.roots.filter fun r => !(decide (r.1 = asid ∧ r.2.1 = vmid)) }
  | .root2 vmid pa => .next { s with roots2 := (vmid, pa) :: s.roots2.filter fun r => !(decide (r.1 = vmid)) }
  | .extension part on => .next { s with jcfg := (if on then [part] else []) ++ s.jcfg.filter fun p => p != part }
  | .ride answer k b m => .next (s.ride answer k b m)
  | .offer w b m cls slots => .next (s.offer w b m cls slots)
  | .transmit w b m cls => .next (s.transmit w b m cls)
  | .sample blk k => .next (s.sampleMat blk k)
  | .land k => .next (s.landStore k)
  | .glimpse c l fresh => .next (s.glimpse c l fresh)
  | .cutCopy u k what n m => .next (s.updCopy u k (CopyOp.cut what n m))
  | .cutBatch k m => .next (s.cutBatch k m)
  | .depositWord w pq j => .next (s.depositWord w pq j)
  | .remoteWake w c => .next (s.remoteWake w c)
  | .portDesc k => .next (s.atHome k State.serveDesc)
  | .poisonCell w word => .next (s.poisonCell w word)
  | .poisonLine core pa => .next (s.poisonLine core pa)
  | .front x => .next (s.atFront x)

/-- One step. -/
def step (s : State) : Host.Outcome State Fault Refusal :=
  match s.agenda with
  | [] => .next { s with agenda := [Config.sched s.tick], tick := s.tick + 1 }
  | a :: rest => runAct a { s with agenda := rest, tick := s.tick + 1 }

/-! ## A word as the next instruction -/

/-- The launch record of `withFetchWord`: one block of one group with 32 lanes and 128 registers, ENTRY 4096, the default
MODE with GP = 7 (the guard holds in every lane). -/
def probeRecord : Nat :=
  1 + 2 ^ 8 + 4096 * 2 ^ 128 + 2 ^ 320 + 2 ^ 352 + 2 ^ 384 + 2 ^ 416 + 32 * 2 ^ 422 + 128 * 2 ^ 428 + 2 ^ 436 + 7 * 2 ^ 512

/-- The launch of `withFetchWord`. -/
def probeLaunch : Launch :=
  { Launch.empty with record := probeRecord, total := 1 }

/-- The block of `withFetchWord`, on core 0 of stack 0. -/
def probeBlock : Block :=
  { uid := 0, launch := 0, lin := 0, bx := 0, blky := 0, bz := 0, stk := 0, core := 0, rank := 0, seq := 0, place := .resident,
    nln := 32, baseN := 128, S := [], W := [], X := [], C := [], par := [], sSize := 0, wSize := 0, xSize := 0, cSize := 0,
    parSize := 0, bar := (Bar.join 1 (Bar.ofNat (2 ^ 6) 0)).blockWord, cbseq := 0, cbdone := 0, mbseq := 0, mbdone := 0,
    cbopen := false, mbopen := false, copies := [], matops := [], gather := [], expect := [], arrivals := [], handles := [], subs := [],
    yieldreq := 0, eused := 0, eres := 0, throttled := false,
    groups := [newGroup 0 0 0 32 128 4096 7 0 [(2, BitVec.allOnes 64)] 0], draining := [], conts := [], preempt := none,
    held := false, ending := false, wdogAt := 0, emptySince := 0, poisonBatches := [], bars := [], far := [] }

/-- The translation of the page at VA 4096 to PA 0 of stack 0, with X. -/
def probeEntry : TlbEntry :=
  { asid := 0, vmid := 0, vbase := 4096, size := 4096, pbase := 0, r := true, w := true, x := true, u := true, g := false,
    d := true, hc := false, hstk := 0, r2 := true, w2 := true, x2 := true }

/-- `s` with an instruction where the next step fetches: a launch of one group is resident on core 0 of stack 0, the page of
its PC is translated, the bytes of the word stand there, and the core's first issue slot acts next. It stands for the
loader, the launch record and the placement (assumption 5). -/
def State.withFetchWord (s : State) (_nbits w : Nat) : State :=
  let s := s.writeMem 0 (bytesOfWord w)
  { s.updCore 0 0 fun _ => { Core.reset with tlb := [probeEntry] } with
    launches := [probeLaunch], blocks := [probeBlock], agenda := [.issue 0 0 0] }

end Sys2Proof.Machine
end

