-- ==== Sys2Proof/Safety.lean ====
section
/-!
DEFINITION. What counts as a safe run, and the words in which the statements speak: when an instruction reaches its own effect,
what a step leaves alone, and how a result is written.
-/
namespace Sys2Proof.Machine

/-! ## Safe runs -/

/-- The step at a state gives a next state: neither a stop nor a refusal. -/
def Proceeds (s : State) : Prop := ∃ t, step s = .next t

/-- Device memory is in its canonical form. -/
def State.memWf (s : State) : Bool := Sparse.wf s.mem

/-- The package has its four compute stacks, five queue ports and five sources of records (R9, R322, R371). -/
def State.shapely (s : State) : Prop := s.dies.length = 4 ∧ s.ports.length = 5 ∧ s.sources.length = 5

/-! ## When an instruction reaches its own effect -/

/-- `State.cur` names a live split's block, group and age, and `x` is what the instruction sees there. -/
def Sees (i : Instr) (s : State) (x : Ctx) : Prop := s.ctx? i = some x

/-- The instruction passes the decode checks of R78, no register it names is pending (R46, R51), and no register it
reads is uncorrectable (R26). -/
def Issues (i : Instr) (s : State) (x : Ctx) : Prop :=
  Sees i s x ∧ x.check i = none ∧ x.pending i = false ∧ x.badRegister i = none

/-- A rational of the model as a number. -/
def Q.value (q : Q) : Rat := mkRat q.num q.den

/-- The instruction, once it issues, answers a next state of which `R` holds. -/
def Completes (i : Instr) (s : State) (R : Ctx → State → Prop) : Prop :=
  ∀ x, Issues i s x → ∃ t, exec i s = .next t ∧ R x t

/-- The instruction, once it issues where `H` holds of the state and the operands, answers a next state of which `R` holds. -/
def CompletesIf (i : Instr) (s : State) (H : Ctx → Prop) (R : Ctx → State → Prop) : Prop :=
  ∀ x, Issues i s x → H x → ∃ t, exec i s = .next t ∧ R x t

/-- Element k of a source in a lane, as an integer of the view of R145. -/
def Ctx.int (x : Ctx) (a : Src) (l k : Nat) : Int := elemInt x.et (x.rdv a l) k

/-- Element k of a source in a lane, as a bit pattern. -/
def Ctx.code (x : Ctx) (a : Src) (l k : Nat) : Nat := elemCode (etWidth x.et) (x.rdv a l) k

/-- A word from its elements as exact integers, narrowed under SAT (R146, R148). -/
def Ctx.narrowed (x : Ctx) (sat : Bool) (f : Nat → Int) : Word := mapElems x.et fun k => narrowInt sat x.et (f k)

/-- A word from its elements as bit patterns. -/
def Ctx.packed (x : Ctx) (f : Nat → Nat) : Word := mapElems x.et f

/-! ## What a step leaves alone -/

/-- Nothing changes but the blocks: device memory, every other die, port, link, launch and table stay. -/
def OnlyBlocks (s t : State) : Prop := ∃ l, t = { s with blocks := l }

/-- Nothing changes but the blocks and the cores, with the marks of uncorrectable words of L1 copies: device memory stays. -/
def OnlyBlocksAndCores (s t : State) : Prop := ∃ l c m, t = { s with blocks := l, cores := c, badLines := m }

/-- Of the blocks only one changes, and that as `R` says. -/
def OneBlock (u : Nat) (s t : State) (R : Block → Block → Prop) : Prop :=
  (∀ w, w ≠ u → t.block? w = s.block? w) ∧ ∃ b b', s.block? u = some b ∧ t.block? u = some b' ∧ R b b'

/-- Nothing changes but one block, and that as `R` says. -/
def OnlyBlock (u : Nat) (s t : State) (R : Block → Block → Prop) : Prop := OnlyBlocks s t ∧ OneBlock u s t R

/-- Nothing of a block changes but one group (its buffers and its barrier stay), and that as `R` says. -/
def OnlyGroupOf (n : Nat) (b b' : Block) (R : Group → Group → Prop) : Prop :=
  (∃ l, b' = { b with groups := l }) ∧ (∀ m, m ≠ n → b'.group? m = b.group? m) ∧
    ∃ g g', b.group? n = some g ∧ b'.group? n = some g' ∧ R g g'

/-- Of the groups of all blocks only one changes, and that as `R` says. -/
def OneGroup (u n : Nat) (s t : State) (R : Group → Group → Prop) : Prop :=
  OneBlock u s t fun b b' => OnlyGroupOf n b b' R

/-- Nothing changes but one group, and that as `R` says. -/
def OnlyGroup (u n : Nat) (s t : State) (R : Group → Group → Prop) : Prop :=
  OnlyBlock u s t fun b b' => OnlyGroupOf n b b' R

/-- Of a group's splits only one changes, and that as `R` says. -/
def OnlySplit (a : Nat) (g g' : Group) (R : Split → Split → Prop) : Prop :=
  (∀ m, m ≠ a → g'.split? m = g.split? m) ∧ ∃ p p', g.split? a = some p ∧ g'.split? a = some p' ∧ R p p'

/-- The split stands at the next address; its lanes, modes and GANG stay, and it does not wait. -/
def Advanced (p p' : Split) : Prop :=
  p'.pc = p.pc + 4 ∧ p'.mask = p.mask ∧ p'.mode = p.mode ∧ p'.mmode = p.mmode ∧ p'.gang = p.gang ∧ p'.live = p.live ∧
    p'.wait = .none ∧ p'.handler = p.handler

/-- The split stands at an address and may issue there; nothing else of what the spec gives it changes. -/
def StandsAt (pc : BitVec 57) (p p' : Split) : Prop :=
  p'.pc = pc ∧ p'.mask = p.mask ∧ p'.mode = p.mode ∧ p'.mmode = p.mmode ∧ p'.gang = p.gang ∧ p'.live = p.live ∧
    p'.wait = p.wait ∧ p'.handler = p.handler ∧ p'.stop = p.stop

/-- The split waits and stands where it stood. -/
def Waits (w : Wait) (p p' : Split) : Prop := p' = { p with wait := w }

/-- The group becomes `upd` of itself, but that its issuing split goes on as `R` says, that no chain is open, and that the
registers the instruction writes leave the list of uncorrectable ones. -/
def Retired (i : Instr) (x : Ctx) (upd : Group → Group) (R : Split → Split → Prop) (g g' : Group) : Prop :=
  (∃ splits bad, g' = { upd g with splits := splits, chain := none, bad := bad }) ∧ OnlySplit x.c.age g g' R ∧
    g'.bad = (useOf x.mode x.mmode i).mend g.bad

/-- After `s1` the issuing group changes by `upd`, its split goes on, and nothing else changes. -/
def Ends (i : Instr) (x : Ctx) (s1 : State) (upd : Group → Group) (t : State) : Prop :=
  OnlyGroup x.c.blk x.c.gid s1 t fun g g' =>
    (∃ splits bad, g' = { upd g with splits := splits, chain := none, bad := bad }) ∧
    OnlySplit x.c.age g g' (fun _ p' => Advanced x.p p') ∧ g'.bad = (useOf x.mode x.mmode i).mend g.bad

/-- The instruction changes its group by `upd` and goes on, and nothing else changes. -/
def Does (i : Instr) (s : State) (x : Ctx) (upd : Group → Group) (t : State) : Prop :=
  OnlyGroup x.c.blk x.c.gid s t (Retired i x upd Advanced)

/-- After `s1` the issuing split waits where it stands, and nothing else changes. -/
def SleepsAfter (x : Ctx) (s1 : State) (w : Wait) (t : State) : Prop :=
  OnlyGroup x.c.blk x.c.gid s1 t fun g g' =>
    (∃ splits chain, g' = { g with splits := splits, chain := chain }) ∧ OnlySplit x.c.age g g' (Waits w)

/-- The issuing split stands at another address and nothing else changes. -/
def Jumps (s : State) (x : Ctx) (upd : Group → Group) (pc : BitVec 57) (t : State) : Prop :=
  OnlyGroup x.c.blk x.c.gid s t fun g g' =>
    (∃ splits, g' = { upd g with splits := splits, chain := none }) ∧ OnlySplit x.c.age g g' (StandsAt pc)

/-- Each active lane goes on at its own target: the lanes of one target form one split, with the MODE, MMODE and GANG of the
issuing split. The lanes that go to `first` keep its age; every other target's split takes one not given before, in ascending target order. Every
other split, and all else, stays (R39). -/
def GoesTo (s : State) (x : Ctx) (tgt : Nat → BitVec 57) (first : BitVec 57) (t : State) : Prop :=
  OnlyGroup x.c.blk x.c.gid s t fun g g' =>
    (∃ splits n, g' = { g with splits := splits, chain := none, nextAge := n }) ∧
    (∀ m, m ≠ x.c.age → m < g.nextAge → g'.split? m = g.split? m) ∧
    ∃ age : Nat → Nat, ∀ l < 32, x.active.getLsbD l = true →
      (tgt l = first → age l = x.c.age) ∧ (tgt l ≠ first → g.nextAge ≤ age l) ∧
      (∀ k < 32, x.active.getLsbD k = true → tgt l ≠ first → tgt k ≠ first → (tgt l).toNat < (tgt k).toNat → age l < age k) ∧
      ∃ q ∈ g'.splits, q.age = age l ∧ q.pc = tgt l ∧ q.mode = x.mode ∧ q.mmode = x.mmode ∧ q.gang = x.p.gang ∧
        ∀ k < 32, q.mask.getLsbD k = (x.active.getLsbD k && decide (tgt k = tgt l))

/-- The split waits and nothing else changes. -/
def Sleeps (s : State) (x : Ctx) (w : Wait) (t : State) : Prop := SleepsAfter x s w t

/-- How an instruction ends by the checks of its addresses (R224): the fault they raise, the wait for a page walk, or what
`ok` says of the places where its lanes act. -/
def AccessEnds (x : Ctx) (a : Access) (t : State) (ok : List (Nat × Loc) → Prop) : Prop :=
  match a with
  | .trap f => t = x.s.takeTrap x.c f
  | .wait s => t = s
  | .ok ps => ok ps

/-- What an acquire under MMODE makes of the issuing group: its splits read again what they have read ahead, and it knows of the puts before the
releases that its scope reaches (R307, R309). -/
def Ctx.heard (x : Ctx) (s : State) : State := if bitOf x.ord 0 then s.hear x.c.blk x.c.gid x.scope else s

/-- How a load of `size` bytes a lane ends (R257): what it has read becomes a pending result as `R` says, and the split goes on. -/
def LoadEnds (i : Instr) (s : State) (x : Ctx) (size : Nat) (l : List LaneAddr) (R : List (Nat × List Byte) → Pend → Prop)
    (t : State) : Prop :=
  AccessEnds x (x.access kindR size l) t fun ps =>
    (ps = [] → Does i s x id t) ∧
    (ps ≠ [] → x.hold size ps = .interlock → Sleeps s x .cInterlock t) ∧
    (ps ≠ [] → x.hold size ps = .stall → t = x.stalled x.s) ∧
    (ps ≠ [] → x.hold size ps = .go → x.g.quantum = [] → OnlyBlocksAndCores s t ∧ OneGroup x.c.blk x.c.gid (x.heard s) t fun g g' =>
      ∃ p : Pend, Retired i x (fun g => { g with pend := g.pend ++ [p] }) Advanced g g' ∧ p.kind = .load ∧
        p.p6set = 0 ∧ p.p6clr = 0 ∧ R (x.loadAll size ps (x.s.quantaFirst x.c.blk x.c.gid size ps)).1 p) ∧
    (ps ≠ [] → x.hold size ps = .go → bitOf x.ord 0 = true → 1 ≤ x.scope → (t.core x.b.stk x.b.core).l1 = [])

/-- The pending result of a vector load: lane l of register d + j takes word j of what its lane has read. -/
def LoadsWords (d n : Nat) (conv : List Byte → List Word) (r : List (Nat × List Byte)) (p : Pend) : Prop :=
  p.vregs = (List.range n).map (d + ·) ∧ p.sw = [] ∧
    ∀ e, e ∈ p.vw ↔ ∃ y ∈ r, ∃ j < n, e = (32 * (d + j) + y.1, nth 0 (conv y.2) j)

/-- How a store of `size` bytes a lane ends (R257, R304): its words enter the group's store queue in lane order, and memory
stays. -/
def StoreEnds (i : Instr) (s : State) (x : Ctx) (size : Nat) (l : List LaneAddr) (data : Nat → List Byte) (t : State) : Prop :=
  AccessEnds x (x.access kindW size l) t fun ps =>
    ((∃ y ∈ ps, x.s.lockedAt size y.2 = true) → Sleeps s x .cInterlock t) ∧
    ((∀ y ∈ ps, x.s.lockedAt size y.2 = false) → x.g.quantum = [] →
      Does i s x (fun g => { g with stq := g.stq ++ ps.flatMap fun y => storeAll x.s.tick x.relLevel y.2 (data y.1) }) t)

/-- The use with which an atomic stands in the store queue: the declared one of a relaxed atomic (R268), 5 for an acquire at block scope and 6 for
a wider one. -/
def Ctx.atomUse (x : Ctx) : Nat := if x.ord = 0 then x.useMode else if bitOf x.ord 0 then (if 1 ≤ x.scope then 6 else 5) else 0

/-- The items that an atomic sends, one a lane: OP, MODE, operands, and the register lane for the old word. -/
def Ctx.atomItems (x : Ctx) (op : Nat) (dest : Option Nat) (b : Src) (ps : List (Nat × Loc)) : List StoreOp :=
  ps.map fun y => .atom x.s.tick y.2.atom op x.mode (x.rdv b y.1)
    (match dest with | some d => x.g.vreg d y.1 | none => 0) x.relLevel x.atomUse
    (if dest.isSome || x.atomUse == 4 then some x.s.tick else none) (dest.map fun d => 32 * d + y.1) y.1

/-- The pending result that awaits the old words of an atomic, if anything is to be written. -/
def Ctx.atomPend (x : Ctx) (dest : Option Nat) (ps : List (Nat × Loc)) : List Pend :=
  if dest.isSome || x.atomUse == 4 then
    [{ kind := .atomic, vw := [], vregs := dest.toList, sw := [], p6set := 0, p6clr := 0, p6 := x.atomUse == 4,
       id := x.s.tick, todo := ps.length }]
  else []

/-- How an atomic ends (R267, R268, R306): it enters the store queue, is delayed, or waits. An acquire enters an empty queue, when nothing holds it
back, and no later access of its group is performed before it. -/
def AtomicEnds (i : Instr) (s : State) (x : Ctx) (op : Nat) (dest : Option Nat) (a : AddrRef) (b : Src) (t : State) : Prop :=
  AccessEnds x (x.access kindRW 4 (x.lanes.map (x.atomAddr a))) t fun ps =>
    let queued := Does i s x (fun g => { g with pend := g.pend ++ x.atomPend dest ps, stq := g.stq ++ x.atomItems op dest b ps }) t
    let remote := ps.any fun y => y.2.atom.blk?.any (x.s.remoteAhead x.c.blk x.c.gid)
    (ps = [] → Does i s x id t) ∧
    (ps ≠ [] → x.g.quantum = [] → x.ord = 2 ∨ (x.ord = 0 ∧ x.useMode ≠ 3) → queued) ∧
    (ps ≠ [] → x.g.stq = [] → remote = false → x.ord = 0 → x.useMode = 3 → Does i s x (fun g => { g with quantum := g.quantum ++ ps.map fun y =>
      { op := op, mode := x.mode, tgt := y.2.atom, b := x.rdv b y.1, cycle := x.now, ins := x.s.tick } }) t) ∧
    (ps ≠ [] → bitOf x.ord 0 = true →
      (x.g.stq ≠ [] ∨ x.s.released x.b x.g x.relLevel = false ∨ ∃ y ∈ ps, x.s.blocked x.b y.2.atom = true) → t = x.stalled x.s) ∧
    (ps ≠ [] → bitOf x.ord 0 = true → x.g.stq = [] → x.g.quantum = [] → x.s.released x.b x.g x.relLevel = true →
      (∀ y ∈ ps, x.s.blocked x.b y.2.atom = false) → queued)

/-- A pending result of a load whose words are fixed. -/
def Pend.arriving (regs : List Nat) (words : List (Nat × Word)) : Pend :=
  { kind := .load, vw := words, vregs := regs, sw := [], p6set := 0, p6clr := 0 }

/-- A pending result that an answer to a request will bring. -/
def Pend.asked (regs : List Nat) (p6 : Bool) (req : Nat) : Pend :=
  { kind := .load, vw := [], vregs := regs, sw := [], p6set := 0, p6clr := 0, p6 := p6, id := req, todo := 1 }

/-- What a split is, apart from its place among the live ones: where it stands, its lanes and modes, and what it waits for. -/
def Split.stands (p : Split) : BitVec 57 × LaneMask × BitVec 16 × BitVec 10 × BitVec 42 × Wait :=
  (p.pc, p.mask, p.mode, p.mmode, p.gang, p.wait)

/-- The group but for its splits, its chain, and the list of uncorrectable registers stays. -/
def KeepsAllButSplits (g g' : Group) : Prop := ∃ splits chain bad, g' = { g with splits := splits, chain := chain, bad := bad }

/-! ## Copies -/

/-- The slice that a `copy` supplies by its operands (R271). -/
def Ctx.copySlice (x : Ctx) (d : BitVec 6) (a b : BitVec 5) : Slice :=
  let b0 := x.rdn (2 * b.toNat)
  let b1 := x.rdn (2 * b.toNat + 1)
  { gid := x.c.gid, age := x.c.age, d := d.toNat, dst := x.rdn (2 * a.toNat), src := x.rdn (2 * a.toNat + 1), len := field b0 31 0,
    boff := field b0 47 32, bar := bitOf b0.toNat 48, soff := field b1 31 0, slen := field b1 63 32 }

/-- The operands of a `copy` that must be multiples of 4 and are not, in the order of R271. -/
def Slice.odd (y : Slice) : List Nat := [plainOf y.dst, plainOf y.src, y.len, y.soff, y.slen].filter fun v => decide (v % 4 ≠ 0)

/-- The groups that a gathering copy expects once this group has supplied a slice (R272). -/
def Ctx.expects (x : Ctx) : List Nat :=
  if x.b.gather = [] then (x.b.groups.filter fun g => g.attached).map fun g => g.gid else x.b.expect

/-- The group has no place in the gathering copy under way: it is not expected, or has supplied its slice (R272). -/
def Ctx.WaitsOut (x : Ctx) : Prop := x.b.gather ≠ [] ∧ (x.c.gid ∉ x.b.expect ∨ ∃ z ∈ x.b.gather, z.gid = x.c.gid)

/-- Nothing of the group is ahead of a release at block scope: no delayed reduction and no queued store. -/
def Ctx.Settled (x : Ctx) : Prop := x.g.quantum = [] ∧ x.g.stq = []

/-- Nothing of the group is ahead of a release at cluster scope: no delayed reduction, no queued store, none of the core in transit. -/
def Ctx.Clear (x : Ctx) : Prop := x.g.quantum = [] ∧ x.g.stq = [] ∧ x.s.coreTransit x.b = false

/-- A `copy` supplies its slice: legal aligned operands, an attached group, nothing ahead of its release, and a place in the gathering. -/
def Ctx.Supplies (x : Ctx) (d : BitVec 6) (a b : BitVec 5) : Prop :=
  (x.copySlice d a b).len ≤ 0xFFFFFFF0 ∧ field (x.rdn (2 * b.toNat)) 63 49 = 0 ∧ (x.copySlice d a b).odd = [] ∧ x.g.attached = true ∧
    x.Clear ∧ ¬ x.WaitsOut

/-! ## Barriers -/

/-- A barrier word after an event and the completion rule (R401). -/
def Bar.after (t : Bar) : Bar := if t.done then t.complete else t

/-- A scalar names a word of the issuing block's S that a barrier instruction may act on at once: aligned, inside the allocation, no
word of device memory or of a buffer uncorrectable, nothing of the group in the store queue or delayed, and no `remarr` of it to its own block
on its way. -/
def Ctx.Barrier (x : Ctx) (a : BitVec 6) (off : Nat) : Prop :=
  (x.rds a).toNat = taggedScr off ∧ off < 2 ^ 32 ∧ off % 16 = 0 ∧ off + 16 ≤ x.b.sSize ∧ x.s.poisoned = [] ∧ x.Settled ∧
    x.s.remoteAhead x.c.blk x.c.gid x.c.blk = false

/-- The word fits its fields and its place at an offset of a block's S. -/
def Bar.Fits (t : Bar) (b : Block) (off : Nat) : Prop :=
  t.ph < 16 ∧ t.r7 < 2 ^ 9 ∧ t.exp < 2 ^ 16 ∧ t.pa < 2 ^ 16 ∧ t.ps < 2 ^ 32 ∧ t.cpc < 2 ^ 32 ∧ t.cln < 2 ^ 8 ∧ t.r120 < 2 ^ 8 ∧
    t.arr < 2 ^ 32 ∧ (t.mb = false → t.arr = 0) ∧ (t.mb = true → off + 20 ≤ b.sSize)

/-! ## Queues -/

/-- A handle operand passes the checks of R338. -/
def Ctx.Opens (x : Ctx) (v : DWord) (need : Nat) (kinds : List Nat) (elem : Bool) (h : Nat) (hd : Handle) : Prop :=
  v.toNat = h ∧ h < 16 ∧ Assoc.get? x.b.handles h = some hd ∧ hd.opening = false ∧ hd.rights &&& need ≠ 0 ∧
    (kinds = [] ∨ hd.kind ∈ kinds) ∧ (elem = true → hd.dep = false) ∧ x.s.connected hd.pkg = true

/-- A handle operand that fails them traps, with the cause of the first check that fails and the TRAPVAL of R204: no open handle of that number,
then the rights, the kind and the mode, then the link to the package of the queue (R338). -/
def Ctx.Rejects (x : Ctx) (v : DWord) (need : Nat) (kinds : List Nat) (elem : Bool) (t : State) : Prop :=
  let trap (cause val : Nat) : Prop := t = x.s.takeTrap x.c ⟨cause, val, none⟩
  let opened (hd : Handle) : Prop := v.toNat < 16 ∧ Assoc.get? x.b.handles v.toNat = some hd ∧ hd.opening = false
  ((∀ hd, ¬ opened hd) → trap 0x14 (v.toNat % 2 ^ 16)) ∧
    ∀ hd, opened hd →
      let wrong := hd.rights &&& need = 0 ∨ (kinds ≠ [] ∧ hd.kind ∉ kinds) ∨ (elem = true ∧ hd.dep = true)
      (wrong → trap 0x15 (v.toNat + need * 2 ^ 8)) ∧
        (¬ wrong → x.s.connected hd.pkg = false → trap 0x16 (hd.pkg + hd.stk * 2 ^ 16))

/-- A message as it leaves a state: with its request number, its TIME, the number of its copy, and the die that it leaves from. -/
def State.stamped (s : State) (m : Msg) : Msg :=
  { m with req := s.nextReq, sent := s.time, load := s.nextLoad, at_ := m.start s.pkg.toNat }

/-- A message leaves, and its source port keeps it until it is answered (R362). -/
def Sends (s t : State) (m : Msg) : Prop :=
  t.net = s.net ++ [s.stamped m] ∧ t.kept = s.kept ++ [s.stamped m] ∧ t.nextReq = s.nextReq + 1

/-- A request leaves through a handle and the split waits for its answer; registers, store queue and memory stay, and `pend`
becomes pending. -/
def Asks (s : State) (x : Ctx) (h : Nat) (hd : Handle) (body : MsgBody) (pend : List Pend) (t : State) : Prop :=
  Sends s t (hd.msg (s.originOf x.c.blk x.c.gid h) x.c.blk x.c.gid h x.g.epoch body) ∧
    t.mem = s.mem ∧ t.cores = s.cores ∧ t.ports = s.ports ∧ (∀ w, w ≠ x.c.blk → t.block? w = s.block? w) ∧
    ∃ g', t.group? x.c.blk x.c.gid = some g' ∧ g'.v = x.g.v ∧ g'.s = x.g.s ∧ g'.p = x.g.p ∧ g'.stq = x.g.stq ∧ g'.pend = x.g.pend ++ pend ∧
      (g'.split? x.c.age).map Split.stands = some { x.p with wait := .answer s.nextReq }.stands

/-- The group owes the acknowledgement of a put from its request on (R315, R332). -/
def Owes (s : State) (x : Ctx) (t : State) : Prop :=
  ∃ g', t.group? x.c.blk x.c.gid = some g' ∧ g'.puts = x.g.puts ++ [{ req := s.nextReq, epoch := x.g.epoch, ord := s.nextReq }]

/-- An element leaves for the handle's next reserved cells: the message, the acknowledgement that the group owes, and the handle's
next cell. -/
def Puts (i : Instr) (s : State) (x : Ctx) (h op : Nat) (hd : Handle) (data : List Byte) (t : State) : Prop :=
  let cells := eszCells (s.eszOf hd)
  Sends s t (hd.msg (s.originOf x.c.blk x.c.gid h) x.c.blk x.c.gid h x.g.epoch
      (.fill op hd.rseq cells hd.why (data.take (eszBytes (s.eszOf hd))))) ∧
    t.mem = s.mem ∧ (∃ b', t.block? x.c.blk = some b' ∧ ∃ y, Assoc.get? b'.handles h = some y ∧ y.rcnt = hd.rcnt - cells) ∧
    OneGroup x.c.blk x.c.gid { s with blocks := s.blocks.map fun b => { b with handles := [] } }
      { t with blocks := t.blocks.map fun b => { b with handles := [] } }
      (Retired i x (fun g => { g with puts := g.puts ++ [{ req := s.nextReq, epoch := g.epoch, ord := s.nextReq }] }) Advanced)

/-! ## Tiles and tables -/

/-- Nothing that the group has still to write is part of a tile operand: no register of it is pending, and no store to it stands in the group's store
queue (R46, R304). -/
def Ctx.TileArrived (x : Ctx) (a : TileArg) : Prop := x.tilePending a = false ∧ x.tileQueued a = false

/-- A tile operand may be read at once: it has arrived, and no register that holds its data is uncorrectable. -/
def Ctx.TileReady (x : Ctx) (a : TileArg) : Prop := x.TileArrived a ∧ x.tileBad a = none

/-- The C pair of a product may be read at once: neither scalar is pending or uncorrectable, and no store to the accumulator stands in the store
queue. Of a gang only member 0 reads it (R280). -/
def Ctx.PairReady (x : Ctx) (d : BitVec 5) : Prop :=
  x.g.holds (.operand [] [2 * d.toNat, 2 * d.toNat + 1] false) = false ∧ x.accPairBad d = none ∧
    x.tileQueued (.buf (pairOf (x.g.pairVal d.toNat))) = false

/-- The arrival of a gang member at `mma` or `mmaz` (R280). -/
def Ctx.arrival (x : Ctx) (z : Bool) (d : BitVec 5) (a b : TileRef) : Arrival :=
  { gid := x.c.gid, age := x.c.age, z := z, gang := x.p.gang,
    a := x.s.tileSrc x.b x.g (x.g.tileArg a) (x.s.tileHeader x.b x.g false (x.g.tileArg a)), aval := (x.g.tileArg a).name, d := d.toNat,
    cpair := x.g.pairVal d.toNat, b := b, bpair := match b with | .reg _ => 0 | .buf n => x.g.pairVal n.toNat
    bregs := if decide ((gangList x.p.gang).head? = some x.c.gid) &&
        (x.b.tileFail x.g.bound (x.g.tileArg b) (x.s.tileHeader x.b x.g false (x.g.tileArg b))).isNone then x.tileWaits (x.g.tileArg b) else [] }

/-- The B operand of an arrival. -/
def Arrival.bArg (p : Arrival) : TileArg := match p.b with | .reg n => .reg n.toNat | .buf _ => .buf (pairOf p.bpair)

/-- A gang member's own A passes and nothing keeps it from the rendezvous: member 0's B and C pair may be read, every member is an attached group,
and no arrival that waits names this group in another gang (R280, R281). -/
def Ctx.Joins (x : Ctx) (i : Instr) (d : BitVec 5) (a b : TileRef) : Prop :=
  gangList x.p.gang ≠ [] ∧ x.TileReady (x.g.tileArg a) ∧ x.checkA i (x.g.tileArg a) = none ∧
    ((gangList x.p.gang).head? = some x.c.gid → x.TileArrived (x.g.tileArg b) ∧ x.PairReady d) ∧
    (∀ g ∈ gangList x.p.gang, ∃ y ∈ x.b.groups, y.gid = g ∧ y.attached = true) ∧
    ∀ q ∈ x.b.arrivals, q.gid = x.c.gid ∨ gangList q.gang = gangList x.p.gang ∨ q.gid ∉ gangList x.p.gang ∨ x.c.gid ∉ gangList q.gang

/-- How `mma` and `mmaz` go (R280 to R284): a solo product whose tiles pass issues its operation; a gang member waits for the others, or
completes the rendezvous; a check that fails is the fault it gives. -/
def ProductCompletes (i : Instr) (z : Bool) (d : BitVec 5) (a b : TileRef) (s : State) : Prop :=
  let solo := fun x : Ctx => x.s.finishProduct x.b x.g (x.wordVal i) x.act z
    [(x.s.tileSrc x.b x.g (x.g.tileArg a) (x.s.tileHeader x.b x.g false (x.g.tileArg a)), (x.g.tileArg a).name)] (x.g.tileArg b)
    (pairOf (x.g.pairVal d.toNat)) [x.c.gid]
  (CompletesIf i s (fun x => gangList x.p.gang = [] ∧ x.TileReady (x.g.tileArg a) ∧ x.TileReady (x.g.tileArg b) ∧ x.PairReady d ∧
      x.checkA i (x.g.tileArg a) = none ∧ ∃ op, solo x = .ok op) fun x t => ∃ op, solo x = .ok op ∧ Ends i x (s.startMat x.c.blk op) id t) ∧
  (CompletesIf i s (fun x => x.Joins i d a b ∧ rendezvousOf (x.b.arrivals ++ [x.arrival z d a b]) (gangList x.p.gang) = none) fun x t =>
    OnlyBlock x.c.blk s t fun b0 b' => (∃ l, b' = { b0 with arrivals := b0.arrivals ++ [x.arrival z d a b], groups := l }) ∧
      OnlyGroupOf x.c.gid { b0 with arrivals := b'.arrivals } b' fun g g' => KeepsAllButSplits g g' ∧ OnlySplit x.c.age g g' (Waits .gang)) ∧
  (∀ ps, CompletesIf i s (fun x => x.Joins i d a b ∧ rendezvousOf (x.b.arrivals ++ [x.arrival z d a b]) (gangList x.p.gang) = some ps) fun x t =>
    t = ((x.waitAs .gang).updBlock x.c.blk fun b0 => { b0 with arrivals := b0.arrivals ++ [x.arrival z d a b] }).joint
      x.c.blk (x.wordVal i) ps) ∧
  (Completes i s fun x t => x.TileArrived (x.g.tileArg a) →
    (gangList x.p.gang = [] → x.TileArrived (x.g.tileArg b) → x.PairReady d → x.checkA i (x.g.tileArg a) = none →
      ∀ f, solo x = .error f → t = x.s.takeTrap x.c f) ∧
    (gangList x.p.gang ≠ [] → ((gangList x.p.gang).head? = some x.c.gid → x.TileArrived (x.g.tileArg b) ∧ x.PairReady d) →
      ∀ f, x.checkA i (x.g.tileArg a) = some f → t = x.s.takeTrap x.c f))

/-- How a producing instruction goes (R292), with its own check and its work, which may depend on what it sees: where its
tiles have arrived and the checks pass, and `H` holds, one matrix operation issues, for a buffer or for registers that become pending;
a check that fails is the fault it gives. -/
def ProduceCompletes (i : Instr) (s : State) (src : Option TileRef) (dst : TileRef) (H : Ctx → Prop)
    (own : Ctx → Nat → Nat → Option (Nat × Nat × Bool)) (work : Ctx → TileSrc → Nat → MatWork) : Prop :=
  let a := fun x : Ctx => src.map x.g.tileArg
  let d := fun x : Ctx => x.g.tileArg dst
  let hd := fun x : Ctx => x.s.tileHeader x.b x.g false (d x)
  let sa : Ctx → TileSrc := fun x => match a x with
    | some y => x.s.tileSrc x.b x.g y (x.s.tileHeader x.b x.g false y)
    | none => { hdr := 0, loc := .bytes [] }
  let arrived := fun x : Ctx => ∀ y ∈ (a x).toList ++ [d x], x.TileArrived y
  (CompletesIf i s (fun x => H x ∧ arrived x ∧ x.produceFail i (a x) (d x) = none ∧ own x (sa x).hdr (hd x) = none ∧
      (a x).bind x.tileBad = none ∧ x.g.bad = []) fun x t =>
    ∃ op : MatOp, op.gids = [x.c.gid] ∧ op.work = work x (sa x) (hd x) ∧
      (∀ p, d x = .buf p → op.dst = .buf .acc p.addr p.rotc ∧ (op.lo, op.hi) = lockRegion p.addr (hd x) ∧
        Ends i x (s.startMat x.c.blk op) id t) ∧
      (∀ n, d x = .reg n → op.dst = .regs n ∧ Ends i x (s.startMat x.c.blk op) (fun g => { g with pend := g.pend ++
        [{ kind := .matrix, vw := [], vregs := tileRegs (hd x) (d x), sw := [], p6set := 0, p6clr := 0, id := op.id, todo := 1 }] }) t)) ∧
  (Completes i s fun x t => H x → arrived x →
    (∀ f, x.produceFail i (a x) (d x) = some f → t = x.s.takeTrap x.c f) ∧
    (x.produceFail i (a x) (d x) = none → ∀ cause reason atSrc, own x (sa x).hdr (hd x) = some (cause, reason, atSrc) →
      ∃ name, t = x.s.takeTrap x.c (tileTrap cause reason name)))

/-- How `qxset` goes by the operation in rds(A)<2:0> (R388), whatever row of the table it is. -/
def QxsetCompletes (i : Instr) (s : State) (d a b : BitVec 6) : Prop :=
  let v := fun x : Ctx => (x.rds a).toNat
  let asid := fun x : Ctx => (BitVec.ofNat 16 (v x / 2 ^ 16) : BitVec 16)
  let legal := fun x : Ctx => v x % 8 ≤ 3 ∧ v x / 2 ^ 3 % 2 ^ 13 = 0 ∧ v x / 2 ^ 32 = 0
  let drops := fun (x : Ctx) (p : QueueXlate → Bool) (t : State) =>
    Ends i x { s with qcache := s.qcache.filter fun c => !(p c) } (fun g => g.setS d.toNat 0) t
  let image := fun x : Ctx => x.accessTag kindR 64 (fun sp => decide (sp = .glb)) (x.rds b)
  (Completes i s fun x t => (¬ legal x → t = x.s.takeTrap x.c (x.illegalOperand i)) ∧
    (legal x → v x % 8 = 3 → ∀ f, image x = .trap f → t = x.s.takeTrap x.c f)) ∧
  (CompletesIf i s (fun x => legal x ∧ v x % 8 = 0) fun x t =>
    drops x (fun c => decide (c.asid = asid x) && c.vqn == field (x.rds b) 15 0) t) ∧
  (CompletesIf i s (fun x => legal x ∧ v x % 8 = 1) fun x t => drops x (fun c => decide (c.asid = asid x)) t) ∧
  (CompletesIf i s (fun x => legal x ∧ v x % 8 = 2) fun x t => drops x (fun _ => true) t) ∧
  (∀ k p l, CompletesIf i s (fun x => legal x ∧ v x % 8 = 3 ∧ image x = .ok ((k, p) :: l) ∧ x.hold 64 [(0, p)] = .go ∧ x.g.quantum = [])
    fun x t => ∃ g' m ret, t.group? x.c.blk x.c.gid = some g' ∧
      (g'.split? x.c.age).map Split.stands = some { x.p with wait := .answer s.nextReq }.stands ∧
      t.net = s.net ++ [m] ∧ m.req = s.nextReq ∧ m.pkg = s.pkg.toNat ∧ m.win = (if bitOf (v x) 30 then 4 else slice (v x) 29 28) ∧
      m.pq = slice (v x) 27 16 ∧ m.body = .desc (BitVec.ofNat 512 (leNat (forwarded x.g.stq p (x.s.look x.b true false 64 p).1))) ret ∧
      ret.d = d.toNat ∧ ret.req = s.nextReq)

/-! ## Events -/

/-- The event answers a next state of which `R` holds. -/
def Happens (i : Instr) (s : State) (R : State → Prop) : Prop := ∃ t, exec i s = .next t ∧ R t

/-- Exactly some bytes of device memory change. -/
def WritesMem (s t : State) (pa : Nat) (bytes : List Byte) : Prop :=
  ∀ a, Sparse.get t.mem a = if pa ≤ a ∧ a < pa + bytes.length then nth 0 bytes (a - pa) else Sparse.get s.mem a

/-- Exactly some bytes of a buffer change. -/
def WritesBuf (b b' : Block) (sp : Space) (off : Nat) (bytes : List Byte) : Prop :=
  ∀ a, Sparse.get (b'.buf sp) a = if off ≤ a ∧ a < off + bytes.length then nth 0 bytes (a - off) else Sparse.get (b.buf sp) a

/-- Message k has reached its home port, which may take it now: no `qfence` holds it back, and its request has not been answered before and does
not sleep there (R344, R353, R362). -/
def State.Reaches (s : State) (k : Nat) (m : Msg) : Prop :=
  nth? s.net k = some m ∧ m.pkg = s.pkg.toNat ∧ m.at_ = .here m.win ∧ m.asleep = false ∧ s.fenced m = false ∧ m.win < 5 ∧
    (∀ a ∈ (s.port m.win).answers, a.1 = m.prod → a.2.1 ≠ m.req) ∧ ∀ x ∈ s.net, x.asleep = true → m.repeats x = false

/-- Message k of a handle may be taken by its home port now, and passes the checks of R329. -/
def State.Delivers (s : State) (k : Nat) (m : Msg) : Prop :=
  s.Reaches k m ∧ s.fails m = 0 ∧ ∃ u h, m.prod = .handle u h

/-- The last answer on its way is one to a message, from its home port to the die that it came from. -/
def Answers (s t : State) (m : Msg) (a : AnswerBody) : Prop :=
  ∃ y, t.replies.getLast? = some y ∧ y.body = a ∧ y.at_ = .here m.win ∧ y.dst = (m.backTo s.pkg.toNat).1 ∧ y.out = none

/-- Answer k has reached its die, for an agent of the package, and its request is still kept where it answers one. -/
def State.Arrives (s : State) (k : Nat) (a : AnswerBody) : Prop :=
  ∃ y, nth? s.replies k = some y ∧ y.body = a ∧ y.out = none ∧ y.at_ = .here y.dst ∧
    ∀ req, a.request? = some req → ∃ m ∈ s.kept, m.req = req

/-- Message k has left the network; all that changes of the others is that puts that slept at the queue may wake (R353). -/
def Consumes (s t : State) (k : Nat) : Prop :=
  t.net.map (fun m : Msg => { m with asleep := false }) = (dropNth s.net k).map fun m : Msg => { m with asleep := false }

/-- The replay of fault-log element `e` with its data at port `w` (R366): a close notice voids the reserved cells that it names and no others, and releases a binding of its handle; a fill
whose cells are reserved fills them, one whose cells are not does nothing; an element of no sequence puts anew, when there is room; an element whose
checks fail again is logged again and sets CTLSTAT<0>. While the log or the queue has no room RBUSY stays set. -/
def Replays (i : Instr) (s : State) (w e : Nat) (data : List Byte) : Prop :=
  let m := s.loggedMsg w e data
  let d := s.desc w m.pq
  let after := fun t : State => t.desc w m.pq
  let done := fun (t : State) => (t.port w).replaying = false
  let waits := exec i s = .next (s.updPort w fun p => { p with replaying := true })
  let holds := fun b : Binding => b.h = slice e 333 330 ∧ ((s.loggedProducer e).1 = .handle b.blk b.h ∨ s.block? b.blk = none)
  let op := slice e 7 0
  let seq := slice e 463 416
  let void := fun c : Cell => seq ≠ seqFail ∧ seqDist seq c.seq < slice e 519 512 ∧ c.st = .reserved
  (op = 4 → Happens i s fun t => done t ∧ t.mem = s.mem ∧ (∀ c ∈ (after t).cells, ¬ void c) ∧
    (∀ b, d.bind = some b → holds b → (after t).bind = none) ∧ (∀ b, d.bind = some b → ¬ holds b → (after t).bind = some b) ∧
    ∀ c ∈ d.cells, ¬ void c → c.st = .reserved ∨ c.st = .filled → c ∈ (after t).cells) ∧
  (op ≠ 4 → s.fails m = 0 → seq ≠ seqFail →
    ((∃ c ∈ d.cells, c.seq = seq ∧ c.st = .reserved) → Happens i s fun t => done t ∧ (after t).puts = (d.puts + 1) % 2 ^ 32 ∧
      ∀ c ∈ d.cells, seqDist seq c.seq < d.cellsPer → c.st = .reserved → ∃ c' ∈ (after t).cells, c'.seq = c.seq ∧ c'.st = .filled) ∧
    ((∀ c ∈ d.cells, c.seq = seq → c.st ≠ .reserved) → Happens i s fun t => done t ∧ t.mem = s.mem ∧ after t = d)) ∧
  (op ≠ 4 → s.fails m = 0 → seq = seqFail →
    (d.cellsPer ≤ d.room → Happens i s fun t => done t ∧ (after t).puts = (d.puts + 1) % 2 ^ 32 ∧ (after t).rsv = seqAdd d.rsv d.cellsPer) ∧
    (d.room < d.cellsPer → waits)) ∧
  (op ≠ 4 → s.fails m ≠ 0 →
    (s.log w m (if seq = seqFail then 1 else op) (s.fails m) seq (data.take d.bytes) = none → waits) ∧
    ((s.log w m (if seq = seqFail then 1 else op) (s.fails m) seq (data.take d.bytes)).isSome = true →
      Happens i s fun t => done t ∧ (t.source w).refused = true ∧ 1 ≤ seqDist (s.desc w (s.port w).flogPq).rsv (t.desc w (s.port w).flogPq).rsv))

/-- The next record of resume queue `ev.g`, for the partition of the queue, and the state after it is taken. -/
def State.NextResume (s : State) (part r : Nat) (s1 : State) : Prop :=
  s.resumePart s.ev.g = some part ∧ (s.desc 4 s.ev.g).valid = true ∧ (s.desc 4 s.ev.g).kind = 6 ∧
    ∃ seq rest, (s.desc 4 s.ev.g).ready = seq :: rest ∧
      r = leNat ((s.readCells 4 (s.desc 4 s.ev.g) seq (s.desc 4 s.ev.g).cellsPer).take 32) ∧ s1 = (s.takeElement 4 s.ev.g seq).2

/-- The next record of launch queue `ev.g`, in a partition that admits launches, and the state after it is taken. -/
def State.NextLaunch (s : State) (r : Nat) (s1 : State) : Prop :=
  (s.desc 4 s.ev.g).valid = true ∧ (s.desc 4 s.ev.g).kind = 2 ∧ (s.part (s.desc 4 s.ev.g).owner.1).ready = true ∧
    ∃ seq rest, (s.desc 4 s.ev.g).ready = seq :: rest ∧
      r = leNat ((s.readCells 4 (s.desc 4 s.ev.g) seq (s.desc 4 s.ev.g).cellsPer).take 128) ∧ s1 = (s.takeElement 4 s.ev.g seq).2

/-- The agent of stack `ev.b` takes a request of the operations given and sends its reply (R347); it waits while an earlier reply is unacknowledged
or an engine owns the word. -/
def Serves (i : Instr) (s : State) (ops : Nat → Bool → Bool) : Prop :=
  let d := s.desc s.ev.b s.ev.g
  let busy := s.kept.any fun m => decide (m.prod = .agent s.ev.b 0 s.ev.g)
  ∀ seq rest, d.ready = seq :: rest → d.valid = true → d.kind = 1 → s.ev.b < 4 →
    let req := leNat (s.readCells s.ev.b d seq d.cellsPer)
    (busy = true ∨ ops (slice req 3 0) (bitOf req 4) = false ∨ s.svcExec s.ev.b d.dtag req = none → exec i s = .next s) ∧
    ∀ st old s1, busy = false → ops (slice req 3 0) (bitOf req 4) = true → s.svcExec s.ev.b d.dtag req = some ((st, old), s1) →
      Happens i s fun t => t.mem = s1.mem ∧ ∃ m, t.net.getLast? = some m ∧ t.kept.getLast? = some m ∧
        m.body = .put (svcReply req st old) ∧ m.pq = slice req 51 40 ∧ m.win = slice req 53 52 ∧ m.pkg = slice req 63 54

/-! ## How a result is written -/

/-- The registers an instruction writes: lane l of vector register r, scalar r, lane l of predicate r; a register without a new
value keeps its own. `lat` are the latch values of a chainable instruction (R81), `gens` the lane generators (R118). -/
structure Change where
  v    : Nat → Nat → Option Word := fun _ _ => none
  s    : Nat → Option DWord := fun _ => none
  p    : Nat → Nat → Option Bool := fun _ _ => none
  lat  : Option (List Word) := none
  gens : Option (List Word) := none

/-- The registers of `g'` are those of `g` with the change. -/
def Registers (ch : Change) (g g' : Group) : Prop :=
  (∀ r l, l < 32 → g'.vreg r l = (ch.v r l).getD (g.vreg r l)) ∧
  (∀ r, g'.sreg r = (ch.s r).getD (g.sreg r)) ∧
  (∀ r l, l < 32 → (g'.preg r).getLsbD l = (ch.p r l).getD ((g.preg r).getLsbD l)) ∧
  g'.gens = ch.gens.getD g.gens

/-- The chain after the instruction (R79 to R82): open behind a chainable one, with its latch values in front, and with the registers that it
and the earlier ones have read. -/
def ChainMoves (i : Instr) (x : Ctx) (lat : Option (List Word)) (g' : Group) : Prop :=
  let u := useOf x.mode x.mmode i
  match lat with
  | none => g'.chain = none
  | some l => ∃ ch, g'.chain = some ch ∧ ch.age = x.p.age ∧ ch.pos = x.pos + 1 ∧ ch.next = x.p.pc + 4 ∧ ch.lat.head? = some l ∧
    ch.vr = u.vr ++ x.g.chain.elim [] (·.vr) ∧ ch.sr = u.sr ++ x.g.chain.elim [] (·.sr) ∧
    ch.pr = u.preds x.gp ++ x.g.chain.elim [] (·.pr)

/-- Of a group nothing changes but its registers, its generators, its splits, its chain and its list of uncorrectable registers. -/
def KeepsAllButRegisters (g g' : Group) : Prop :=
  ∃ v s p gens splits chain bad,
    g' = { g with v := v, s := s, p := p, gens := gens, splits := splits, chain := chain, bad := bad }

/-- The instruction writes the change and nothing else, and its split goes on: the frame of a register instruction. Of the list
of uncorrectable registers, those it writes leave. -/
def Writes (i : Instr) (s : State) (x : Ctx) (ch : Change) (t : State) : Prop :=
  OnlyGroup x.c.blk x.c.gid s t fun g g' =>
    KeepsAllButRegisters g g' ∧ Registers ch g g' ∧ OnlySplit x.c.age g g' Advanced ∧ ChainMoves i x ch.lat g' ∧
    g'.bad = (useOf x.mode x.mmode i).mend g.bad

/-- The instruction, once it issues, answers a next state in which the change is written and nothing else. -/
def Gives (i : Instr) (s : State) (ch : Ctx → Change) : Prop :=
  Completes i s fun x t => Writes i s x (ch x) t

/-- A vector result in the lanes of a mask (R72, R81): W suppresses the write; the latch keeps the old word in the other
lanes, 0 under W. -/
def Change.vec (x : Ctx) (w : Bool) (d : BitVec 7) (m : LaneMask) (chain : Bool) (f : Nat → Word) : Change :=
  { v := fun r l => if r = d.toNat ∧ m.getLsbD l = true ∧ w = false then some (f l) else none
    lat := if chain then
        some ((List.range 32).map fun l => if m.getLsbD l then f l else if w then 0 else x.g.vreg d.toNat l)
      else none }

/-- A vector result in the active guarded lanes that takes generator values (R134): `f l g` is the word of lane l and the
generator after it. -/
def Change.vecGen (x : Ctx) (w : Bool) (d : BitVec 7) (f : Nat → Word → Word × Word) : Change :=
  { Change.vec x w d x.act true (fun l => (f l (nth 0 x.g.gens l)).1) with
    gens := some ((List.range 32).map fun l => if x.act.getLsbD l then (f l (nth 0 x.g.gens l)).2 else nth 0 x.g.gens l) }

/-- A scalar result; s0 takes none (R74). -/
def Change.scal (d : BitVec 6) (y : DWord) : Change :=
  { s := fun r => if r = d.toNat ∧ d.toNat ≠ 0 then some y else none }

/-- A predicate result in the active guarded lanes (R155); p7 takes none (R74). -/
def Change.pred (x : Ctx) (w : Bool) (d : BitVec 3) (f : Nat → Bool) : Change :=
  { p := fun r l => if r = d.toNat ∧ d.toNat ≠ 7 ∧ x.act.getLsbD l = true ∧ w = false then some (f l) else none
    lat := some ((List.range 32).map fun l =>
      if x.act.getLsbD l then (if f l then 1 else 0)
      else if w then 0 else if (x.g.preg d.toNat).getLsbD l then 1 else 0) }

/-- The status predicate p6 in the participating lanes (R109). -/
def Change.status (ch : Change) (x : Ctx) (f : Nat → Bool) : Change :=
  { ch with p := fun r l => if r = 6 ∧ x.act.getLsbD l = true then some (f l) else none }

end Sys2Proof.Machine
end

