-- ==== Sys2Proof/Certificates/Slice0/Obligations.lean ====
section
/-!
DEFINITION. The statements for the provers: one definition per statement. OBLIGATIONS.json gives each its number, tier and sources.
-/
open Sys2Proof Sys2Proof.Machine

/-- In every active guarded lane each of the eight instructions writes, element by element of the view of MODE.ET, the exact sum, difference, product, high half, product plus D, smaller or larger element, or the sum of absolute differences; add, sub, mul and mad clamp under SAT and otherwise keep the low bits. W suppresses the write; the latch takes the result. The other lanes and registers, every other group and block, and all memory stay; the split stands at the next address. -/
def Obligations.IntegerArithmeticWritesExactResults : Prop :=
  ∀ (w : Bool) (d : BitVec 7) (a b : Src) (s : State),
    (Gives (.add w d a b) s fun x => .vec x w d x.act true fun l => x.narrowed x.sat fun k => x.int a l k + x.int b l k) ∧
    (Gives (.sub w d a b) s fun x => .vec x w d x.act true fun l => x.narrowed x.sat fun k => x.int a l k - x.int b l k) ∧
    (Gives (.mul w d a b) s fun x => .vec x w d x.act true fun l => x.narrowed x.sat fun k => x.int a l k * x.int b l k) ∧
    (Gives (.mulhi w d a b) s fun x => .vec x w d x.act true fun l => x.narrowed false fun k => x.int a l k * x.int b l k / 2 ^ etWidth x.et) ∧
    (Gives (.mad w d a b) s fun x => .vec x w d x.act true fun l => x.narrowed x.sat fun k => x.int a l k * x.int b l k + elemInt x.et (x.g.vreg d.toNat l) k) ∧
    (Gives (.min w d a b) s fun x => .vec x w d x.act true fun l => x.narrowed false fun k => Min.min (x.int a l k) (x.int b l k)) ∧
    (Gives (.max w d a b) s fun x => .vec x w d x.act true fun l => x.narrowed false fun k => Max.max (x.int a l k) (x.int b l k)) ∧
    (Gives (.sad w d a b) s fun x => .vec x w d x.act true fun l =>
      BitVec.ofNat 32 (((List.range (etCount x.et)).map fun k => (x.int a l k - x.int b l k).natAbs).sum))

/-- In every active guarded lane the logic instructions write the bitwise result of the two words, and the shifts write, element by element, the pattern shifted or rotated by the unsigned amount of B: 0 from the width up for shl and shr, the sign for sar, the amount modulo the width for rotl. W, the latch and the frame are as for the arithmetic instructions. -/
def Obligations.LogicAndShiftsWriteTheirPatterns : Prop :=
  ∀ (w : Bool) (d : BitVec 7) (a b : Src) (s : State),
    (Gives (.and w d a b) s fun x => .vec x w d x.act true fun l => x.rdv a l &&& x.rdv b l) ∧
    (Gives (.or w d a b) s fun x => .vec x w d x.act true fun l => x.rdv a l ||| x.rdv b l) ∧
    (Gives (.xor w d a b) s fun x => .vec x w d x.act true fun l => x.rdv a l ^^^ x.rdv b l) ∧
    (Gives (.andn w d a b) s fun x => .vec x w d x.act true fun l => x.rdv a l &&& ~~~(x.rdv b l)) ∧
    (Gives (.shl w d a b) s fun x => .vec x w d x.act true fun l => x.packed fun k => if etWidth x.et ≤ x.code b l k then 0 else x.code a l k * 2 ^ x.code b l k % 2 ^ etWidth x.et) ∧
    (Gives (.shr w d a b) s fun x => .vec x w d x.act true fun l => x.packed fun k => if etWidth x.et ≤ x.code b l k then 0 else x.code a l k / 2 ^ x.code b l k) ∧
    (Gives (.sar w d a b) s fun x => .vec x w d x.act true fun l => x.packed fun k => wrapInt (etWidth x.et) (signedOf (etWidth x.et) (x.code a l k) / 2 ^ Min.min (etWidth x.et) (x.code b l k))) ∧
    (Gives (.rotl w d a b) s fun x => .vec x w d x.act true fun l => x.packed fun k => let r := x.code b l k % etWidth x.et
      (x.code a l k * 2 ^ r + x.code a l k / 2 ^ (etWidth x.et - r)) % 2 ^ etWidth x.et)

/-- addi adds the signed constant in every view and saturates under SAT; andi, ori and xori apply the constant zero-extended to each element; shli, shri and sari shift by it; movi writes the constant sign-extended; movhi puts it above the low half of D. Mask, W, latch and frame are as for row 0x1. -/
def Obligations.ImmediateFormsUseTheirConstant : Prop :=
  (∀ (w : Bool) (d : BitVec 7) (a : Src) (k : BitVec 8) (s : State),
    (Gives (.addi w d a k) s fun x => .vec x w d x.act true fun l => x.narrowed x.sat fun e => x.int a l e + k.toInt) ∧
    (Gives (.andi w d a k) s fun x => .vec x w d x.act true fun l => x.rdv a l &&& x.packed fun _ => k.toNat) ∧
    (Gives (.ori w d a k) s fun x => .vec x w d x.act true fun l => x.rdv a l ||| x.packed fun _ => k.toNat) ∧
    (Gives (.xori w d a k) s fun x => .vec x w d x.act true fun l => x.rdv a l ^^^ x.packed fun _ => k.toNat)) ∧
  (∀ (w : Bool) (d : BitVec 7) (a : Src) (k : BitVec 5) (s : State),
    (Gives (.shli w d a k) s fun x => .vec x w d x.act true fun l => x.packed fun e =>
      if etWidth x.et ≤ k.toNat then 0 else x.code a l e * 2 ^ k.toNat % 2 ^ etWidth x.et) ∧
    (Gives (.shri w d a k) s fun x => .vec x w d x.act true fun l => x.packed fun e =>
      if etWidth x.et ≤ k.toNat then 0 else x.code a l e / 2 ^ k.toNat) ∧
    (Gives (.sari w d a k) s fun x => .vec x w d x.act true fun l => x.packed fun e =>
      wrapInt (etWidth x.et) (signedOf (etWidth x.et) (x.code a l e) / 2 ^ Min.min (etWidth x.et) k.toNat))) ∧
  (∀ (w : Bool) (d : BitVec 7) (k : BitVec 16) (s : State),
    (Gives (.movi w d k) s fun x => .vec x w d x.act true fun _ => k.signExtend 32) ∧
    (Gives (.movhi w d k) s fun x => .vec x w d x.act true fun l => k ++ (x.g.vreg d.toNat l).extractLsb' 0 16))

/-- The unary bit instructions work on each element, bfx, bfi and prmt on the whole word of each active guarded lane; mask, W, latch and frame are as for row 0x1. Bit i of a reversed pattern is bit w-1-i; the leading zeros are exactly the 0 bits above the highest 1 bit, w for 0. bfx takes len bits from pos, sign-extended in a signed view; bfi replaces those bits of D; prmt chooses each byte by its selector nibble. The field is pos = b<4:0>, len = min(b<13:8>, 32 - pos). -/
def Obligations.BitInstructionsWriteTheirWords : Prop :=
  (∀ (w : Bool) (d : BitVec 7) (a : Src) (s : State),
    (Gives (.popc w d a) s fun x => .vec x w d x.act true fun l => x.packed fun k =>
      ((List.range (etWidth x.et)).filter fun i => (x.code a l k).testBit i).length) ∧
    (Gives (.clz w d a) s fun x => .vec x w d x.act true fun l => x.packed fun k =>
      if x.code a l k = 0 then etWidth x.et else etWidth x.et - 1 - (x.code a l k).log2) ∧
    (Gives (.brev w d a) s fun x => .vec x w d x.act true fun l => x.packed fun k => bitReverse (etWidth x.et) (x.code a l k)) ∧
    (Gives (.abs w d a) s fun x => .vec x w d x.act true fun l => x.narrowed x.sat fun k => (x.int a l k).natAbs)) ∧
  (∀ (w : Bool) (d : BitVec 7) (a b : Src) (s : State),
    (Gives (.bfx w d a b) s fun x => .vec x w d x.act true fun l => fieldExtract x.et (x.rdv a l) (x.rdv b l)) ∧
    (Gives (.bfi w d a b) s fun x => .vec x w d x.act true fun l =>
      fieldInsert (x.rdv a l) (x.rdv b l) (x.g.vreg d.toNat l)) ∧
    (Gives (.prmt w d a b) s fun x => .vec x w d x.act true fun l => bytePermute (x.rdv a l) (x.rdv b l))) ∧
  (∀ w c i, w = 8 ∨ w = 16 ∨ w = 32 → c < 2 ^ w → i < w → (bitReverse w c).testBit i = c.testBit (w - 1 - i)) ∧
  (∀ w c, w = 8 ∨ w = 16 ∨ w = 32 → c < 2 ^ w → leadingZeros w c ≤ w ∧
    (∀ i, w - leadingZeros w c ≤ i → c.testBit i = false) ∧
    (leadingZeros w c < w → c.testBit (w - 1 - leadingZeros w c) = true)) ∧
  (∀ (et : Nat) (a b : Word) (i : Nat), i < 32 →
    (fieldExtract et a b).getLsbD i =
      if (bitField b).2 = 0 then false
      else if i < (bitField b).2 then a.getLsbD ((bitField b).1 + i)
      else etSigned et && a.getLsbD ((bitField b).1 + (bitField b).2 - 1)) ∧
  (∀ (a b d : Word) (i : Nat), i < 32 →
    (fieldInsert a b d).getLsbD i =
      if (bitField b).1 ≤ i ∧ i < (bitField b).1 + (bitField b).2 then a.getLsbD (i - (bitField b).1) else d.getLsbD i) ∧
  (∀ (a b : Word) (k i : Nat), k < 4 → i < 8 →
    (bytePermute a b).getLsbD (8 * k + i) =
      if b.getLsbD (4 * k + 3) then false
      else if b.getLsbD (4 * k + 2) then a.getLsbD (8 * field b (4 * k + 1) (4 * k) + 7)
      else a.getLsbD (8 * field b (4 * k + 1) (4 * k) + i)) ∧
  (∀ b : Word, bitField b = (b.toNat % 32, Min.min (b.toNat / 256 % 64) (32 - b.toNat % 32)))

/-- Each comparison writes its relation of the two words to pD in the active guarded lanes; p7 takes no write; W suppresses the write; the latch value is 1 or 0, in the other lanes the old bit of pD, or 0 under W. eq, lt, le, gt and ge hold when the relation holds in every element, ne where eq does not, un where some pair is unordered. Under an integer type the elements compare as the integers of the view; under a floating type a pair is unordered exactly where an operand is a NaN, finite values compare as numbers, so that -0 equals +0, and infinities by sign. -/
def Obligations.ComparisonsSetTheirPredicate : Prop :=
(∀ (w : Bool) (d : BitVec 3) (a b : Src) (s : State),
    (Gives (.cmpeq w d a b) s fun x => .pred x w d fun l => relHolds .eq x.mode (x.rdv a l) (x.rdv b l)) ∧
    (Gives (.cmpne w d a b) s fun x => .pred x w d fun l => relHolds .ne x.mode (x.rdv a l) (x.rdv b l)) ∧
    (Gives (.cmplt w d a b) s fun x => .pred x w d fun l => relHolds .lt x.mode (x.rdv a l) (x.rdv b l)) ∧
    (Gives (.cmple w d a b) s fun x => .pred x w d fun l => relHolds .le x.mode (x.rdv a l) (x.rdv b l)) ∧
    (Gives (.cmpgt w d a b) s fun x => .pred x w d fun l => relHolds .gt x.mode (x.rdv a l) (x.rdv b l)) ∧
    (Gives (.cmpge w d a b) s fun x => .pred x w d fun l => relHolds .ge x.mode (x.rdv a l) (x.rdv b l)) ∧
    (Gives (.cmpun w d a b) s fun x => .pred x w d fun l => relHolds .un x.mode (x.rdv a l) (x.rdv b l))) ∧
  ∀ (mode : BitVec 16) (a b : Word),
    (relHolds .eq mode a b = true ↔ ∀ k < etCount (etOf mode), orderElem mode a b k = .equal) ∧
    (relHolds .ne mode a b = true ↔ ¬ relHolds .eq mode a b = true) ∧
    (relHolds .lt mode a b = true ↔ ∀ k < etCount (etOf mode), orderElem mode a b k = .less) ∧
    (relHolds .le mode a b = true ↔ ∀ k < etCount (etOf mode), orderElem mode a b k = .less ∨ orderElem mode a b k = .equal) ∧
    (relHolds .gt mode a b = true ↔ ∀ k < etCount (etOf mode), orderElem mode a b k = .greater) ∧
    (relHolds .ge mode a b = true ↔ ∀ k < etCount (etOf mode), orderElem mode a b k = .greater ∨ orderElem mode a b k = .equal) ∧
    (relHolds .un mode a b = true ↔ ∃ k < etCount (etOf mode), orderElem mode a b k = .unordered) ∧
    (etFmt (etOf mode) = none → ∀ k,
      (orderElem mode a b k = .less ↔ elemInt (etOf mode) a k < elemInt (etOf mode) b k) ∧
      (orderElem mode a b k = .equal ↔ elemInt (etOf mode) a k = elemInt (etOf mode) b k) ∧
      orderElem mode a b k ≠ .unordered) ∧
    (∀ f, etFmt (etOf mode) = some f → ∀ k,
      (orderElem mode a b k = .unordered ↔
        (∃ n, f.operand (roundingOf mode).ftz (elemCode (etWidth (etOf mode)) a k) = .nan n) ∨
        (∃ n, f.operand (roundingOf mode).ftz (elemCode (etWidth (etOf mode)) b k) = .nan n)) ∧
      orderElem mode a b k = orderVal (f.operand (roundingOf mode).ftz (elemCode (etWidth (etOf mode)) a k))
        (f.operand (roundingOf mode).ftz (elemCode (etWidth (etOf mode)) b k))) ∧
    (∀ (s t : Bool) (p q : Q), 0 < p.den → 0 < q.den →
      (orderVal (.fin s p) (.fin t q) = .less ↔ p.value < q.value) ∧ (orderVal (.fin s p) (.fin t q) = .equal ↔ p.value = q.value) ∧
      (orderVal (.fin s p) (.fin t q) = .greater ↔ q.value < p.value)) ∧
    (∀ (s t : Bool) (q : Q), orderVal (.inf s) (.inf s) = .equal ∧ orderVal (.inf true) (.inf false) = .less ∧
      orderVal (.inf false) (.inf true) = .greater ∧ orderVal (.inf true) (.fin t q) = .less ∧ orderVal (.inf false) (.fin t q) = .greater ∧
      orderVal (.fin t q) (.inf true) = .greater ∧ orderVal (.fin t q) (.inf false) = .less) ∧
    (∀ (f : Fmt) (ftz s : Bool) (c : Nat) (q : Q), c < 2 ^ f.width → f.operand ftz c = .fin s q → 0 < q.den) ∧
    (∀ (f : Fmt) (ftz : Bool), f ≠ .d8 → orderVal (f.operand ftz (2 ^ (f.width - 1))) (f.operand ftz 0) = .equal)

/-- The predicate instructions write AND, OR, XOR or NOT of predicate bits, and pset writes 1 where the word is not 0, in each active guarded lane, with the latch, W and frame of the comparisons. Reading p7 gives all-true and a write to it is discarded. -/
def Obligations.PredicateInstructionsCombineBits : Prop :=
  (∀ (w : Bool) (d a b : BitVec 3) (s : State),
    (Gives (.pand w d a b) s fun x => .pred x w d fun l => (x.g.preg a.toNat).getLsbD l && (x.g.preg b.toNat).getLsbD l) ∧
    (Gives (.por w d a b) s fun x => .pred x w d fun l => (x.g.preg a.toNat).getLsbD l || (x.g.preg b.toNat).getLsbD l) ∧
    (Gives (.pxor w d a b) s fun x => .pred x w d fun l => (x.g.preg a.toNat).getLsbD l != (x.g.preg b.toNat).getLsbD l) ∧
    (Gives (.pnot w d a) s fun x => .pred x w d fun l => !(x.g.preg a.toNat).getLsbD l)) ∧
  (∀ (w : Bool) (d : BitVec 3) (a : Src) (s : State),
    Gives (.pset w d a) s fun x => .pred x w d fun l => x.rdv a l != 0) ∧
  (∀ g : Group, g.preg 7 = BitVec.allOnes 32)

/-- sel (OP 0x37, chainable) writes A in every active lane where the guard holds and B where it fails, inactive lanes keeping D; its latch treats every active lane as guarded. mov (OP 0x38, B field 0, chainable) copies the whole word of A in each active guarded lane. Neither value depends on MODE.ET. Nothing else changes. -/
def Obligations.SelectAndMoveFollowTheGuard : Prop :=
  (∀ (w : Bool) (d : BitVec 7) (a b : Src) (s : State),
    encodeFields (.sel w d a b) = { op := 0x37, w := b2n w, d := d.toNat, a := a.enc, b := b.enc } ∧
    (∀ mode mmode, (useOf mode mmode (.sel w d a b)).chainable = true) ∧
    Gives (.sel w d a b) s fun x => .vec x w d x.active true fun l => if x.guard.getLsbD l then x.rdv a l else x.rdv b l) ∧
  (∀ (w : Bool) (d : BitVec 7) (a : Src) (s : State),
    encodeFields (.mov w d a) = { op := 0x38, w := b2n w, d := d.toNat, a := a.enc, b := 0 } ∧
    (∀ mode mmode, (useOf mode mmode (.mov w d a)).chainable = true) ∧
    Gives (.mov w d a) s fun x => .vec x w d x.act true fun l => x.rdv a l)

/-- With every index below the register bound and no pending result on the registers reached, movix writes lane l of vD with lane l of the register that the exact unsigned sum names, and stix writes that register's lane with vS; nothing else changes. Otherwise the lowest lane whose index reaches the bound raises REG-RANGE with that index, the failing lanes in TRAPLANES, and no lane is written. -/
def Obligations.IndexedAccessReachesItsRegister : Prop :=
  (∀ (d a : BitVec 7) (b : Src) (s : State),
    Completes (.movix d a b) s fun x t =>
      (∀ l, x.act.getLsbD l = true → x.index a b l < x.g.bound) →
      x.g.pendingOn ((lanesOf x.act).map (x.index a b)) [] false = false →
      Writes (.movix d a b) s x (.vec x false d x.act false fun l => x.g.vreg (x.index a b l) l) t) ∧
  (∀ (d a : BitVec 7) (b : Src) (s : State),
    Completes (.stix d a b) s fun x t =>
      (∀ l, x.act.getLsbD l = true → x.index a b l < x.g.bound) →
      x.g.pendingOn ((lanesOf x.act).map (x.index a b)) [] false = false →
      Writes (.stix d a b) s x
        { v := fun r l => if x.act.getLsbD l = true ∧ r = x.index a b l then some (x.g.vreg d.toNat l) else none } t) ∧
  (∀ (d a : BitVec 7) (b : Src) (s : State) (x : Ctx) (l : Nat),
    (∀ i, i = .movix d a b ∨ i = .stix d a b → Issues i s x → x.act.getLsbD l = true → x.g.bound ≤ x.index a b l →
      (∀ m < l, x.act.getLsbD m = true → x.index a b m < x.g.bound) →
      exec i s = .next (x.s.takeTrap x.c
        ⟨0x04, x.index a b l, some (x.act &&& maskOf fun m => decide (x.g.bound ≤ x.index a b m))⟩))) ∧
  (∀ (x : Ctx) (a : BitVec 7) (b : Src) (l : Nat), x.index a b l = (x.g.vreg a.toNat l).toNat + (x.rdv b l).toNat)

/-- Sums, differences and products modulo 2^64, logic, shifts (0, or the sign for ssar, from 64 up), comparisons as 1 or 0, signed minimum and maximum, the sign-extended immediate forms and smovhi (D times 2^16 OR K16). The guard and the lane mask play no part; a write to s0 is discarded; nothing else changes. -/
def Obligations.ScalarInstructionsWriteSixtyFourBits : Prop :=
  (∀ (d a b : BitVec 6) (s : State),
    (Gives (.sadd d a b) s fun x => .scal d (x.rds a + x.rds b)) ∧
    (Gives (.ssub d a b) s fun x => .scal d (x.rds a - x.rds b)) ∧
    (Gives (.smul d a b) s fun x => .scal d (x.rds a * x.rds b)) ∧
    (Gives (.sand d a b) s fun x => .scal d (x.rds a &&& x.rds b)) ∧
    (Gives (.sor d a b) s fun x => .scal d (x.rds a ||| x.rds b)) ∧
    (Gives (.sxor d a b) s fun x => .scal d (x.rds a ^^^ x.rds b)) ∧
    (Gives (.sshl d a b) s fun x => .scal d (x.rds a <<< x.rds b)) ∧
    (Gives (.sshr d a b) s fun x => .scal d (x.rds a >>> x.rds b)) ∧
    (Gives (.ssar d a b) s fun x => .scal d (BitVec.sshiftRight' (x.rds a) (x.rds b))) ∧
    (Gives (.scmplt d a b) s fun x => .scal d (if BitVec.slt (x.rds a) (x.rds b) then 1 else 0)) ∧
    (Gives (.scmpeq d a b) s fun x => .scal d (if x.rds a = x.rds b then 1 else 0)) ∧
    (Gives (.smin d a b) s fun x => .scal d (if BitVec.slt (x.rds a) (x.rds b) then x.rds a else x.rds b)) ∧
    (Gives (.smax d a b) s fun x => .scal d (if BitVec.slt (x.rds a) (x.rds b) then x.rds b else x.rds a))) ∧
  (∀ (d a : BitVec 6) (k : BitVec 8) (s : State), Gives (.saddi d a k) s fun x => .scal d (x.rds a + k.signExtend 64)) ∧
  (∀ (d : BitVec 6) (k : BitVec 16) (s : State),
    (Gives (.smovi d k) s fun _ => .scal d (k.signExtend 64)) ∧
    (Gives (.smovhi d k) s fun x => .scal d (x.rds d <<< 16 ||| k.setWidth 64)))

/-- In every active guarded lane each element takes the exact sum, difference, product, fused sum, scaled value or integral value of its operands, decoded and flushed under R140, and rounds it once to the element format under RM, SAT, FTZ and DNAN; each rounded element takes one value of the lane's generator under RSR. W suppresses the write, not the generator; nothing else changes and the split goes on. -/
def Obligations.FloatArithmeticRoundsExactResultOnce : Prop :=
  (∀ (w : Bool) (d : BitVec 7) (a b : Src) (s : State),
    (Gives (.fadd w d a b) s fun x => .vecGen x w d fun l g => wordRsr x.et (roundingOf x.mode) (fun k u =>
      x.fmt.enc (roundingOf x.mode) u (Val.add x.rm (x.val (x.rdv a l) k) (x.val (x.rdv b l) k))) g) ∧
    (Gives (.fsub w d a b) s fun x => .vecGen x w d fun l g => wordRsr x.et (roundingOf x.mode) (fun k u =>
      x.fmt.enc (roundingOf x.mode) u (Val.add x.rm (x.val (x.rdv a l) k) (x.val (x.rdv b l) k).neg)) g) ∧
    (Gives (.fmul w d a b) s fun x => .vecGen x w d fun l g => wordRsr x.et (roundingOf x.mode) (fun k u =>
      x.fmt.enc (roundingOf x.mode) u (Val.mul (x.val (x.rdv a l) k) (x.val (x.rdv b l) k))) g) ∧
    (Gives (.fma w d a b) s fun x => .vecGen x w d fun l g => wordRsr x.et (roundingOf x.mode) (fun k u =>
      x.fmt.enc (roundingOf x.mode) u (Val.fma x.rm (x.val (x.rdv a l) k) (x.val (x.rdv b l) k) (x.val (x.g.vreg d.toNat l) k))) g) ∧
    (Gives (.fms w d a b) s fun x => .vecGen x w d fun l g => wordRsr x.et (roundingOf x.mode) (fun k u =>
      x.fmt.enc (roundingOf x.mode) u (Val.fma x.rm (x.val (x.rdv a l) k) (x.val (x.rdv b l) k) (x.val (x.g.vreg d.toNat l) k).neg)) g) ∧
    (Gives (.fnma w d a b) s fun x => .vecGen x w d fun l g => wordRsr x.et (roundingOf x.mode) (fun k u =>
      x.fmt.enc (roundingOf x.mode) u (Val.fnma x.rm (x.val (x.rdv a l) k) (x.val (x.rdv b l) k) (x.val (x.g.vreg d.toNat l) k))) g) ∧
    (Gives (.fldexp w d a b) s fun x => .vecGen x w d fun l g => wordRsr x.et (roundingOf x.mode) (fun k u =>
      x.fmt.enc (roundingOf x.mode) u ((x.val (x.rdv a l) k).ldexp (signedOf (etWidth x.et) (x.code b l k)))) g)) ∧
  (∀ (w : Bool) (d : BitVec 7) (a : Src) (s : State),
    Gives (.frnd w d a) s fun x => .vecGen x w d fun l g => wordRsr x.et (roundingOf x.mode) (fun k u =>
      x.fmt.enc { roundingOf x.mode with rm := 1 } u (roundIntegral (roundingOf x.mode) u (x.val (x.rdv a l) k))) g)

/-- fmin and fmax write the chosen operand's code (-0 below +0, the other operand beside one NaN, a NaN for two), fabs and fneg the code with its sign cleared or inverted (every other bit kept outside NaN and d8), fclass the code of its class in the table of R177, frexp its binary exponent (0 for zero, the least code for infinity and NaN), and cvtup the 32-bit value of one element. None takes a generator value; mask, W, latch and frame are as for the other vector instructions. -/
def Obligations.FloatCodeInstructionsChooseAndClassify : Prop :=
  (∀ (w : Bool) (d : BitVec 7) (a b : Src) (s : State),
    (Gives (.fmin w d a b) s fun x => .vec x w d x.act true fun l => x.packed fun k =>
      minMaxCode x.fmt (roundingOf x.mode) false (x.code a l k) (x.code b l k)) ∧
    (Gives (.fmax w d a b) s fun x => .vec x w d x.act true fun l => x.packed fun k =>
      minMaxCode x.fmt (roundingOf x.mode) true (x.code a l k) (x.code b l k))) ∧
  (∀ (w : Bool) (d : BitVec 7) (a : Src) (s : State),
    (Gives (.fabs w d a) s fun x => .vec x w d x.act true fun l => x.packed fun k =>
      signCode x.fmt (roundingOf x.mode) true (x.code a l k)) ∧
    (Gives (.fneg w d a) s fun x => .vec x w d x.act true fun l => x.packed fun k =>
      signCode x.fmt (roundingOf x.mode) false (x.code a l k)) ∧
    (Gives (.fclass w d a) s fun x => .vec x w d x.act true fun l => x.packed fun k => classCode x.fmt (x.code a l k)) ∧
    (Gives (.frexp w d a) s fun x => .vec x w d x.act true fun l => x.packed fun k =>
      match x.val (x.rdv a l) k with
      | .fin _ q => if q.num = 0 then 0 else wrapInt (etWidth x.et) (log2Floor q + 1)
      | _ => 2 ^ (etWidth x.et - 1))) ∧
  (∀ (w : Bool) (d : BitVec 7) (a : Src) (k : BitVec 2) (s : State),
    Gives (.cvtup w d a k) s fun x => .vec x w d x.act true fun l => BitVec.ofNat 32
      (match etFmt x.et with
      | some f => Fmt.f32.enc { roundingOf x.mode with ftz := false } 0 (f.operand (roundingOf x.mode).ftz (x.code a l k.toNat))
      | none => if etSigned x.et then wrapInt 32 (signedOf (etWidth x.et) (x.code a l k.toNat)) else x.code a l k.toNat)) ∧
  (∀ f : Fmt, f ≠ .d8 → f ≠ .e2m1 → ∀ r c, c < 2 ^ f.width → (∀ n, f.dec c ≠ .nan n) →
    signCode f r true c = c % 2 ^ (f.width - 1) ∧ (signCode f r false c).testBit (f.width - 1) = !c.testBit (f.width - 1) ∧
    signCode f r false c % 2 ^ (f.width - 1) = c % 2 ^ (f.width - 1)) ∧
  (∀ (f : Fmt) (r : Rounding) (a b : Nat),
    let va := f.operand r.ftz a
    let vb := f.operand r.ftz b
    let fa := f.flushVal r.ftz a
    let fb := f.flushVal r.ftz b
    let isNan := fun v : Val => ∃ n, v = .nan n
    let ends := fun lo hi : Nat => minMaxCode f r false a b = lo ∧ minMaxCode f r true a b = hi
    (isNan va → isNan vb → ends (f.enc r 0 va) (f.enc r 0 va)) ∧ (isNan va → ¬ isNan vb → ends fb fb) ∧
    (¬ isNan va → isNan vb → ends fa fa) ∧ (orderVal va vb = .less → ends fa fb) ∧ (orderVal va vb = .greater → ends fb fa) ∧
    (∀ p q, va = .fin true p → vb = .fin false q → p.num = 0 → q.num = 0 → ends fa fb) ∧
    (∀ p q, va = .fin false p → vb = .fin true q → p.num = 0 → q.num = 0 → ends fb fa)) ∧
  (∀ (f : Fmt) (c : Nat), c < 2 ^ f.width →
    let neg := c.testBit (f.width - 1)
    let quiet := f = .e4m3 ∨ f = .d8 ∨ c.testBit (f.frac - 1) = true
    let small := f ≠ .d8 ∧ c % 2 ^ (f.width - 1) < 2 ^ f.frac
    classCode f c ≤ 9 ∧
    (classCode f c = 0 ↔ f.dec c = .inf true) ∧ (classCode f c = 7 ↔ f.dec c = .inf false) ∧
    (classCode f c = 8 ↔ (∃ n, f.dec c = .nan n) ∧ ¬ quiet) ∧ (classCode f c = 9 ↔ (∃ n, f.dec c = .nan n) ∧ quiet) ∧
    (classCode f c = 3 ↔ ∃ s q, f.dec c = .fin s q ∧ q.num = 0 ∧ neg = true) ∧
    (classCode f c = 4 ↔ ∃ s q, f.dec c = .fin s q ∧ q.num = 0 ∧ neg = false) ∧
    (classCode f c = 2 ↔ ∃ s q, f.dec c = .fin s q ∧ q.num ≠ 0 ∧ small ∧ neg = true) ∧
    (classCode f c = 5 ↔ ∃ s q, f.dec c = .fin s q ∧ q.num ≠ 0 ∧ small ∧ neg = false) ∧
    (classCode f c = 1 ↔ ∃ s q, f.dec c = .fin s q ∧ q.num ≠ 0 ∧ ¬ small ∧ neg = true) ∧
    (classCode f c = 6 ↔ ∃ s q, f.dec c = .fin s q ∧ q.num ≠ 0 ∧ ¬ small ∧ neg = false))

/-- With some active guarded lane each of the six appends to the group's pending results the exact quotient, root, reciprocal, reciprocal root, power or logarithm of each element, rounded once under RNE whatever RM holds, for its destination; no register, generator, memory or other group changes. With none nothing is pending. How exact the exp2 and log2 values are is the model's reading (log entry 70). -/
def Obligations.LongFunctionsLeavePendingResults : Prop :=
  ∀ (d : BitVec 7) (a b : Src) (s : State),
    (Completes (.fdiv d a b) s fun x t =>
      (x.act = 0 → Writes (.fdiv d a b) s x {} t) ∧
      (x.act ≠ 0 → Does (.fdiv d a b) s x (fun g => { g with pend := g.pend ++ [
        { kind := .long, vw := (lanesOf x.act).map fun l => (32 * d.toNat + l, x.packed fun k =>
              x.fmt.enc { roundingOf x.mode with rm := 0 } 0 (Val.div (x.val (x.rdv a l) k) (x.val (x.rdv b l) k)))
          vregs := [d.toNat], sw := [], p6set := 0, p6clr := 0 }] }) t)) ∧
    (Completes (.fsqrt d a) s fun x t =>
      (x.act = 0 → Writes (.fsqrt d a) s x {} t) ∧
      (x.act ≠ 0 → Does (.fsqrt d a) s x (fun g => { g with pend := g.pend ++ [
        { kind := .long, vw := (lanesOf x.act).map fun l => (32 * d.toNat + l, x.packed fun k =>
              x.fmt.enc { roundingOf x.mode with rm := 0 } 0 (Val.sqrt (x.val (x.rdv a l) k)))
          vregs := [d.toNat], sw := [], p6set := 0, p6clr := 0 }] }) t)) ∧
    (Completes (.frcp d a) s fun x t =>
      (x.act = 0 → Writes (.frcp d a) s x {} t) ∧
      (x.act ≠ 0 → Does (.frcp d a) s x (fun g => { g with pend := g.pend ++ [
        { kind := .long, vw := (lanesOf x.act).map fun l => (32 * d.toNat + l, x.packed fun k =>
              x.fmt.enc { roundingOf x.mode with rm := 0 } 0 (Val.rcp (x.val (x.rdv a l) k)))
          vregs := [d.toNat], sw := [], p6set := 0, p6clr := 0 }] }) t)) ∧
    (Completes (.frsq d a) s fun x t =>
      (x.act = 0 → Writes (.frsq d a) s x {} t) ∧
      (x.act ≠ 0 → Does (.frsq d a) s x (fun g => { g with pend := g.pend ++ [
        { kind := .long, vw := (lanesOf x.act).map fun l => (32 * d.toNat + l, x.packed fun k =>
              x.fmt.enc { roundingOf x.mode with rm := 0 } 0 (Val.rsq (x.val (x.rdv a l) k)))
          vregs := [d.toNat], sw := [], p6set := 0, p6clr := 0 }] }) t)) ∧
    (Completes (.fexp2 d a) s fun x t =>
      (x.act = 0 → Writes (.fexp2 d a) s x {} t) ∧
      (x.act ≠ 0 → Does (.fexp2 d a) s x (fun g => { g with pend := g.pend ++ [
        { kind := .long, vw := (lanesOf x.act).map fun l => (32 * d.toNat + l, x.packed fun k =>
              x.fmt.enc { roundingOf x.mode with rm := 0 } 0 (Val.exp2 (x.val (x.rdv a l) k)))
          vregs := [d.toNat], sw := [], p6set := 0, p6clr := 0 }] }) t)) ∧
    (Completes (.flog2 d a) s fun x t =>
      (x.act = 0 → Writes (.flog2 d a) s x {} t) ∧
      (x.act ≠ 0 → Does (.flog2 d a) s x (fun g => { g with pend := g.pend ++ [
        { kind := .long, vw := (lanesOf x.act).map fun l => (32 * d.toNat + l, x.packed fun k =>
              x.fmt.enc { roundingOf x.mode with rm := 0 } 0 (Val.log2 (x.val (x.rdv a l) k)))
          vregs := [d.toNat], sw := [], p6set := 0, p6clr := 0 }] }) t))

/-- cvt converts every element from type K to MODE.ET and takes a generator value per element unless both types are integers; cvtpk narrows A into element 0 and B into element 1 and, in the 8-bit types, moves the old elements 0 and 1 of D to 2 and 3 (0 under W). Between integer types of one width the code stays, or is clamped under SAT. Nothing else changes. -/
def Obligations.ConversionsWriteConvertedElements : Prop :=
  (∀ (w : Bool) (d : BitVec 7) (a : Src) (k : BitVec 4) (s : State),
    Gives (.cvt w d a k) s fun x => .vecGen x w d fun l g =>
      let p := elemsRsr (etWidth x.et) (convertRounds (roundingOf x.mode) k.toNat x.et)
        (fun e u => convertElem (roundingOf x.mode) k.toNat x.et u (x.code a l e)) 0 (etCount x.et) g
      (BitVec.ofNat 32 (packElems (etWidth x.et) p.1), p.2)) ∧
  (∀ (w : Bool) (d : BitVec 7) (a b : Src) (s : State),
    Gives (.cvtpk w d a b) s fun x => .vecGen x w d fun l g =>
      packLane x.et (roundingOf x.mode) w (x.rdv a l) (x.rdv b l) (x.g.vreg d.toNat l) g) ∧
  (∀ (et : Nat) (r : Rounding) (w : Bool) (a b d g : Word),
    (etWidth et = 16 → ∀ e < 2, r.rm ≠ 5 → elemCode 16 (packLane et r w a b d g).1 e =
      convertElem r (if etFloat et then 2 else 0) et g.toNat (if e = 0 then a.toNat else b.toNat) % 2 ^ 16) ∧
    (etWidth et = 8 → ∀ e < 4, r.rm ≠ 5 → elemCode 8 (packLane et r w a b d g).1 e =
      if e = 0 then convertElem r (if etFloat et then 2 else 0) et g.toNat a.toNat % 2 ^ 8
      else if e = 1 then convertElem r (if etFloat et then 2 else 0) et g.toNat b.toNat % 2 ^ 8
      else if w then 0 else elemCode 8 d (e - 2))) ∧
  (∀ (r : Rounding) (src dst u c : Nat), etFmt src = none → etFmt dst = none → src < 12 → dst < 12 → etWidth src = etWidth dst →
    c < 2 ^ etWidth src →
    convertElem r src dst u c = (if r.sat then
      clampInt (etSigned dst) (etWidth dst) (if etSigned src then signedOf (etWidth src) c else c) else c))

/-- Element k of a packed word is the low bits of the k-th code, in every element type; a word rounded under RSR takes for element k the k+1-st value of the generator and leaves the generator after its last element; integer results keep their low bits without SAT and are clamped to the range of the view with it. -/
def Obligations.ElementsStandInTheirPlaces : Prop :=
  (∀ (et : Nat) (f : Nat → Nat) (k : Nat), et < 12 → k < etCount et →
    elemCode (etWidth et) (mapElems et f) k = f k % 2 ^ etWidth et) ∧
  (∀ (et : Nat) (r : Rounding) (f : Nat → Nat → Nat) (g : Word), et < 12 →
    (∀ k < etCount et, elemCode (etWidth et) (wordRsr et r f g).1 k =
      f k (if r.rm = 5 then Nat.repeat rngNext (k + 1) g else g).toNat % 2 ^ etWidth et) ∧
    (wordRsr et r f g).2 = if r.rm = 5 then Nat.repeat rngNext (etCount et) g else g) ∧
  (∀ (et : Nat) (z : Int), et < 12 →
    narrowInt false et z < 2 ^ etWidth et ∧ (narrowInt false et z : Int) % 2 ^ etWidth et = z % 2 ^ etWidth et ∧
    narrowInt true et z < 2 ^ etWidth et ∧
    (etSigned et = true → signedOf (etWidth et) (narrowInt true et z) =
      max (-(2 ^ (etWidth et - 1))) (min (2 ^ (etWidth et - 1) - 1) z)) ∧
    (etSigned et = false → (narrowInt true et z : Int) = max 0 (min (2 ^ etWidth et - 1) z))) ∧
  (∀ g : Word, rngNext g =
    let a := g ^^^ (g <<< 13); let b := a ^^^ (a >>> 17); b ^^^ (b <<< 5))

/-- For every format the code lo of a non-negative value is the greatest code whose magnitude is not above it. A representable magnitude rounds to its own code under every mode. RTZ always takes lo, as do RDN for positive and RUP for negative values, whose opposites take the code after it; RNE takes the nearer, on a tie the even one, RNA the nearer, on a tie the one away from zero, RSR the code after lo where the generator's value lies below the fraction of the way. Beyond the largest value the result is the overflow value of the format, or the largest under SAT. A NaN is the canonical one under DNAN, else the operand narrowed; under FTZ a subnormal result of f32, f16 and bf16 is zero of its sign. -/
def Obligations.RoundingTakesANeighbouringCode : Prop :=
  (∀ (f : Fmt) (q : Q), 0 < q.den → 0 ≤ q.num →
    f.lo q ≤ f.maxCode ∧ Q.lt q (f.mag (f.lo q)) = false ∧ (f.lo q < f.maxCode → Q.lt q (f.mag (f.lo q + 1)) = true)) ∧
  (∀ (f : Fmt) (sat neg : Bool) (rm u c : Nat), c ≤ f.maxCode → f.roundFin sat rm u neg (f.mag c) = f.signed neg c) ∧
  (∀ (f : Fmt) (sat neg : Bool) (u : Nat) (q : Q), f.roundFin sat 1 u neg q = f.signed neg (f.lo q.abs)) ∧
  (∀ (f : Fmt) (sat : Bool) (u : Nat) (q : Q),
    f.roundFin sat 2 u false q = f.roundFin sat 1 u false q ∧ f.roundFin sat 3 u true q = f.roundFin sat 1 u true q) ∧
  (∀ (f : Fmt) (sat neg : Bool) (rm u : Nat) (q : Q), f.lo q.abs < f.maxCode →
    f.roundFin sat rm u neg q = f.signed neg (f.lo q.abs) ∨ f.roundFin sat rm u neg q = f.signed neg (f.lo q.abs + 1)) ∧
  (∀ (f : Fmt) (sat neg : Bool) (rm u : Nat) (q : Q), 0 < q.den → rm ≤ 5 →
    let c := f.lo q.abs
    let lo := (f.mag c).value
    let hi := (f.magHi c).value
    let a := q.abs.value
    let up := a ≠ lo ∧ (rm = 0 → lo + hi < 2 * a ∨ (lo + hi = 2 * a ∧ c % 2 = 1)) ∧ rm ≠ 1 ∧ (rm = 2 → neg = true) ∧
      (rm = 3 → neg = false) ∧ (rm = 4 → lo + hi ≤ 2 * a) ∧ (rm = 5 → (u + 1 : Rat) * (hi - lo) ≤ (a - lo) * 2 ^ 32)
    let beyond := if sat = true ∧ f ≠ .f32 then f.maxCode
      else match f with
        | .f32 => 0x7F800000 | .f16 => 0x7C00 | .bf16 => 0x7F80 | .e5m2 => 0x7C | .e4m3 => 0x7F | .e2m1 => 7 | .d8 => 0x7F
    (¬ up → f.roundFin sat rm u neg q = f.signed neg c) ∧
    (up → f.roundFin sat rm u neg q = f.signed neg (if c < f.maxCode then c + 1 else beyond))) ∧
  (∀ (f : Fmt) (c : Nat), (c < f.maxCode → f.magHi c = f.mag (c + 1)) ∧ (f.magHi f.maxCode).value = match f with
    | .f32 => 2 ^ 128 | .f16 => 2 ^ 16 | .bf16 => 2 ^ 128 | .e5m2 => 65536 | .e4m3 => 480 | .e2m1 => 8 | .d8 => 1000000) ∧
  (∀ (f : Fmt) (r : Rounding) (u n : Nat), n < 2 ^ 32 → n / 2 ^ 23 % 2 ^ 8 = 255 →
    let s := n / 2 ^ 31
    f.enc r u (.nan n) = (if r.dnan then f.nanCode else match f with
      | .f32 => n | .f16 => s * 2 ^ 15 + 31 * 2 ^ 10 + (n / 2 ^ 13 % 2 ^ 10 ||| 2 ^ 9) | .bf16 => n / 2 ^ 16 ||| 2 ^ 6
      | .e5m2 => s * 128 + 0x7E | .e4m3 => s * 128 + 0x7F | .d8 => 0x80 | .e2m1 => 0)) ∧
  (∀ (f : Fmt) (r : Rounding) (u : Nat) (neg : Bool), f.enc r u (.inf neg) = (match f with
      | .e4m3 => if r.sat then f.signed neg 0x7E else if r.dnan then 0x7F else f.signed neg 0x7F
      | .e2m1 => f.signed neg 7
      | .f32 => f.signed neg 0x7F800000 | .f16 => f.signed neg 0x7C00 | .bf16 => f.signed neg 0x7F80 | .e5m2 => f.signed neg 0x7C
      | .d8 => f.signed neg 0x7F)) ∧
  (∀ (f : Fmt) (r : Rounding) (u : Nat) (neg : Bool) (q : Q),
    let c := f.roundFin r.sat r.rm u neg q
    let t := c % 2 ^ (f.width - 1)
    f.enc r u (.fin neg q) = if r.ftz = true ∧ (f = .f32 ∨ f = .f16 ∨ f = .bf16) ∧ t < 2 ^ f.frac then c - t
      else if r.dnan = true ∧ f = .e4m3 ∧ c = 0xFF then 0x7F else c) ∧
  (∀ (f : Fmt) (neg : Bool) (c : Nat), f.signed neg c = if neg = true ∧ ¬ (f = .d8 ∧ c = 0) then c + 2 ^ (f.width - 1) else c)

/-- In every participating lane a shuffle writes A of its source lane (d, l - d, l + d or l XOR d) where that lane exists and is active, and keeps D otherwise; p6 tells which, W or not. bcast does so from one lane for all, and vtos writes that lane's word, or 0, to the scalar. Nothing else changes. -/
def Obligations.LaneExchangeCopiesFromActiveLanes : Prop :=
  (∀ (w : Bool) (d : BitVec 7) (a b : Src) (s : State),
    (Gives (.shfl w d a b) s fun x =>
      let src := fun l => (x.rdv b l).toNat % 32
      let has := fun l => decide (src l < 32) && x.active.getLsbD (src l)
      (Change.vec x w d x.act true fun l => if has l then x.rdv a (src l) else x.g.vreg d.toNat l).status x has) ∧
    (Gives (.shflup w d a b) s fun x =>
      let src := fun l => if (x.rdv b l).toNat % 32 ≤ l then l - (x.rdv b l).toNat % 32 else 32
      let has := fun l => decide (src l < 32) && x.active.getLsbD (src l)
      (Change.vec x w d x.act true fun l => if has l then x.rdv a (src l) else x.g.vreg d.toNat l).status x has) ∧
    (Gives (.shfldn w d a b) s fun x =>
      let src := fun l => l + (x.rdv b l).toNat % 32
      let has := fun l => decide (src l < 32) && x.active.getLsbD (src l)
      (Change.vec x w d x.act true fun l => if has l then x.rdv a (src l) else x.g.vreg d.toNat l).status x has) ∧
    (Gives (.shflx w d a b) s fun x =>
      let src := fun l => l ^^^ (x.rdv b l).toNat % 32
      let has := fun l => decide (src l < 32) && x.active.getLsbD (src l)
      (Change.vec x w d x.act true fun l => if has l then x.rdv a (src l) else x.g.vreg d.toNat l).status x has)) ∧
  (∀ (d : BitVec 7) (a : Src) (b : BitVec 6) (s : State), Gives (.bcast d a b) s fun x =>
    let src := (x.rds b).toNat % 32
    (Change.vec x false d x.act false fun l =>
      if x.active.getLsbD src then x.rdv a src else x.g.vreg d.toNat l).status x fun _ => x.active.getLsbD src) ∧
  (∀ (d : BitVec 6) (a : Src) (b : BitVec 6) (s : State), Gives (.vtos d a b) s fun x =>
    let src := (x.rds b).toNat % 32
    (Change.scal d (if x.active.getLsbD src then (x.rdv a src).setWidth 64 else 0)).status x fun _ => x.active.getLsbD src)

/-- vall writes 1 where every participating lane's word is not 0 (also with no lane), vany where some is, ballot the mask of those lanes; lanes writes to each participating lane how many participating lanes below it hold a word that is not 0. The whole word counts, whatever ET; nothing else changes. -/
def Obligations.VotesCountTheNonZeroLanes : Prop :=
  (∀ (d : BitVec 6) (a : Src) (s : State),
    (Gives (.vall d a) s fun x => .scal d (if ((lanesOf x.act).all fun l => x.rdv a l != 0) = true then 1 else 0)) ∧
    (Gives (.vany d a) s fun x => .scal d (if ((lanesOf x.act).any fun l => x.rdv a l != 0) = true then 1 else 0)) ∧
    (Gives (.ballot d a) s fun x => .scal d ((x.nonZero a).setWidth 64)) ∧
    (∀ (x : Ctx) l, l < 32 → (x.nonZero a).getLsbD l = (x.act.getLsbD l && decide (x.rdv a l ≠ 0)))) ∧
  (∀ (d : BitVec 7) (a : Src) (s : State), Gives (.lanes d a) s fun x => .vec x false d x.act false fun l =>
    BitVec.ofNat 32 ((List.range 32).filter fun k => decide (k < l) && (x.act.getLsbD k && decide (x.rdv a k ≠ 0))).length)

/-- Under an integer type redadd writes the exact sum narrowed once, redmin and redmax the least and the greatest element, and scan each running sum narrowed on its own; under a floating type the reductions go pairwise up the fixed tree and scan rounds at every lane, with the lane generators that the steps take, element by element (the order of elements is the model's reading, log entry 98). At each level of the tree neighbours combine, the left one with the generator of its lane, and an odd last one passes up; five levels reduce 32 lanes to one. The running value of a scan starts from rds(B) and enters the next lane as it was rounded. With no lane a reduction writes 0. Nothing else changes. -/
def Obligations.ReductionsAndScanCombineLanes : Prop :=
  (∀ (d : BitVec 6) (a : Src) (s : State),
    (Completes (.redadd d a) s fun x t =>
      (etFloat x.et = false → Writes (.redadd d a) s x (.scal d (if x.act = 0 then 0 else (x.narrowed x.sat fun k =>
        ((lanesOf x.act).map fun l => x.int a l k).sum).setWidth 64)) t) ∧
      (etFloat x.et = true →
        let r := reduceElems x.addCode (fun k => (lanesOf x.act).map fun l => (l, x.code a l k)) 0 (etCount x.et) x.g.gens
        Writes (.redadd d a) s x { Change.scal d ((BitVec.ofNat 32 (packElems (etWidth x.et) r.1)).setWidth 64) with gens := some r.2 } t)) ∧
    (Completes (.redmin d a) s fun x t =>
      (etFloat x.et = false → ∃ y : Word, Writes (.redmin d a) s x (.scal d (y.setWidth 64)) t ∧
        (x.act = 0 → y = 0) ∧ (x.act ≠ 0 → ∀ k < etCount x.et,
          (∃ l ∈ lanesOf x.act, elemInt x.et y k = x.int a l k) ∧ ∀ l ∈ lanesOf x.act, elemInt x.et y k ≤ x.int a l k)) ∧
      (etFloat x.et = true →
        let r := reduceElems (x.pickCode false) (fun k => (lanesOf x.act).map fun l => (l, x.code a l k)) 0 (etCount x.et) x.g.gens
        Writes (.redmin d a) s x { Change.scal d ((BitVec.ofNat 32 (packElems (etWidth x.et) r.1)).setWidth 64) with gens := some r.2 } t)) ∧
    (Completes (.redmax d a) s fun x t =>
      (etFloat x.et = false → ∃ y : Word, Writes (.redmax d a) s x (.scal d (y.setWidth 64)) t ∧
        (x.act = 0 → y = 0) ∧ (x.act ≠ 0 → ∀ k < etCount x.et,
          (∃ l ∈ lanesOf x.act, elemInt x.et y k = x.int a l k) ∧ ∀ l ∈ lanesOf x.act, x.int a l k ≤ elemInt x.et y k)) ∧
      (etFloat x.et = true →
        let r := reduceElems (x.pickCode true) (fun k => (lanesOf x.act).map fun l => (l, x.code a l k)) 0 (etCount x.et) x.g.gens
        Writes (.redmax d a) s x { Change.scal d ((BitVec.ofNat 32 (packElems (etWidth x.et) r.1)).setWidth 64) with gens := some r.2 } t))) ∧
  (∀ (d : BitVec 7) (a : Src) (b : BitVec 6) (s : State), Completes (.scan d a b) s fun x t =>
    (etFloat x.et = false → Writes (.scan d a b) s x (.vec x false d x.act false fun l => x.narrowed x.sat fun k =>
      elemInt x.et ((x.rds b).setWidth 32) k + (((lanesOf x.act).filter fun m => decide (m ≤ l)).map fun m => x.int a m k).sum) t) ∧
    (etFloat x.et = true →
      let r := x.scanFloat a (lanesOf x.act) ((x.rds b).setWidth 32) x.g.gens
      let sum := fun l => ((r.1.find? fun y => y.1 == l).map (·.2)).getD 0
      Writes (.scan d a b) s x { Change.vec x false d x.act false sum with gens := some r.2 } t)) ∧
  (∀ (op : Nat → Nat → Word → Nat × Word) (l : List (Nat × Nat)) (g : List Word), (l.map (·.1)).Nodup → g.length = 32 → (∀ y ∈ l, y.1 < 32) →
    let r := pairUp op l g
    let leaf := fun i => nth (0, 0) l i
    r.1.length = (l.length + 1) / 2 ∧ r.2.length = 32 ∧
    (∀ i, 2 * i + 1 < l.length → nth (0, 0) r.1 i = ((leaf (2 * i)).1, (op (leaf (2 * i)).2 (leaf (2 * i + 1)).2 (nth 0 g (leaf (2 * i)).1)).1) ∧
      nth 0 r.2 (leaf (2 * i)).1 = (op (leaf (2 * i)).2 (leaf (2 * i + 1)).2 (nth 0 g (leaf (2 * i)).1)).2) ∧
    (∀ i, 2 * i + 1 = l.length → nth (0, 0) r.1 i = leaf (2 * i)) ∧
    (∀ m, (∀ i, 2 * i + 1 < l.length → m ≠ (leaf (2 * i)).1) → nth 0 r.2 m = nth 0 g m)) ∧
  (∀ (op : Nat → Nat → Word → Nat × Word) (l : List (Nat × Nat)) (g : List Word),
    (∀ n y, l = [y] → reduceTree op n l g = (y.2, g)) ∧ (∀ n, l = [] → reduceTree op n l g = (0, g)) ∧
    (∀ n, reduceTree op (n + 1) l g = reduceTree op n (pairUp op l g).1 (pairUp op l g).2)) ∧
  (∀ (op : Nat → Nat → Word → Nat × Word) (leaves : Nat → List (Nat × Nat)) (g : List Word) (n k : Nat), k < n →
    let before := fun m => (reduceElems op leaves 0 m g).2
    nth 0 (reduceElems op leaves 0 n g).1 k = (reduceTree op 5 (leaves k) (before k)).1 ∧
      before (k + 1) = (reduceTree op 5 (leaves k) (before k)).2 ∧ before 0 = g) ∧
  (∀ (x : Ctx) (a : Src) (l : List Nat) (c : Word) (g : List Word), l.Nodup → g.length = 32 → (∀ m ∈ l, m < 32) →
    let r := x.scanFloat a l c g
    r.1.map (·.1) = l ∧ (∀ i < l.length,
      let y := x.addWord (if i = 0 then c else (nth (0, 0) r.1 (i - 1)).2) (x.rdv a (nth 0 l i)) (nth 0 g (nth 0 l i))
      (nth (0, 0) r.1 i).2 = y.1 ∧ nth 0 r.2 (nth 0 l i) = y.2) ∧ ∀ m, m ∉ l → nth 0 r.2 m = nth 0 g m)

/-- The target is the address of the branch plus four times the signed offset. Under bra each active lane goes on at the target where the guard holds and at the next address where it fails, the lanes of one address in one split: those that fall through keep the split and its age, those that branch take a new one; undivided, the whole split keeps it. brau branches with the guard in every active lane, brany with it in some. No register and no other split, group or memory changes. -/
def Obligations.BranchesTakeTheLanesTheGuardNames : Prop :=
  ∀ (o : BitVec 24) (s : State),
    (Completes (.bra o) s fun x t => GoesTo s x (fun l => if x.guard.getLsbD l then x.p.pc + BitVec.ofInt 57 (4 * o.toInt) else x.p.pc + 4)
      (if x.act = x.active then x.p.pc + BitVec.ofInt 57 (4 * o.toInt) else x.p.pc + 4) t) ∧
    (Completes (.brau o) s fun x t => GoesTo s x (fun _ => if x.act = x.active then x.p.pc + BitVec.ofInt 57 (4 * o.toInt) else x.p.pc + 4)
      (if x.act = x.active then x.p.pc + BitVec.ofInt 57 (4 * o.toInt) else x.p.pc + 4) t) ∧
    (Completes (.brany o) s fun x t => GoesTo s x (fun _ => if x.act ≠ 0 then x.p.pc + BitVec.ofInt 57 (4 * o.toInt) else x.p.pc + 4)
      (if x.act ≠ 0 then x.p.pc + BitVec.ofInt 57 (4 * o.toInt) else x.p.pc + 4) t)

/-- call ignores the guard: in every active lane it writes the low 32 bits of the next address to vD, and the whole split goes on at its own address plus four times the signed K16, undivided. A vD at or beyond the register bound raises REG-RANGE with nothing written. Nothing else changes. -/
def Obligations.CallLinksEveryActiveLane : Prop :=
  ∀ (d : BitVec 7) (k : BitVec 16) (s : State) (x : Ctx),
    (Sees (.call d k) s x → x.check (.call d k) = none → d.toNat < x.g.bound) ∧
    (Sees (.call d k) s x → x.g.bound ≤ d.toNat →
      exec (.call d k) s = .next (x.s.takeTrap x.c (x.regRange (.call d k)))) ∧
    (Issues (.call d k) s x → ∃ t, exec (.call d k) s = .next t ∧
      OnlyGroup x.c.blk x.c.gid s t fun g g' =>
        (∃ v splits bad, g' = { g with v := v, splits := splits, chain := none, bad := bad }) ∧ g'.bad = (useOf x.mode x.mmode (.call d k)).mend g.bad ∧
        OnlySplit x.c.age g g' (StandsAt (x.p.pc + BitVec.ofInt 57 (4 * k.toInt))) ∧
        ∀ r l, l < 32 → g'.vreg r l =
          if r = d.toNat ∧ x.active.getLsbD l = true then (x.p.pc + 4).setWidth 32 else g.vreg r l)

/-- With every target of a guarded lane at a multiple of four, the lanes of each distinct target form one split there, the unguarded ones at the next address; the lowest target's lanes keep the split and its age, the others take new ones in ascending target order; nothing else changes. Otherwise the lowest lane whose target is misaligned gives TRAPVAL, the misaligned lanes TRAPLANES, and MISALIGNED is raised. -/
def Obligations.IndirectJumpsSendEachLaneToItsTarget : Prop :=
  ∀ (a : Src) (s : State), ∀ i, i = .ret a ∨ i = .jmpi a →
    (Completes i s fun x t =>
      let tgt := fun l => if x.guard.getLsbD l
        then ((x.p.pc.extractLsb' 32 25 ++ x.rdv a l : BitVec 57)) else x.p.pc + 4
      (∀ l < 32, x.act.getLsbD l = true → (x.rdv a l).toNat % 4 = 0) →
      ∀ m < 32, x.active.getLsbD m = true → (∀ l < 32, x.active.getLsbD l = true → (tgt m).toNat ≤ (tgt l).toNat) →
      GoesTo s x tgt (tgt m) t) ∧
    (∀ x, Issues i s x → ∀ l < 32, x.act.getLsbD l = true → (x.rdv a l).toNat % 4 ≠ 0 →
      (∀ m < l, x.act.getLsbD m = true → (x.rdv a m).toNat % 4 = 0) →
      exec i s = .next (x.s.takeTrap x.c ⟨0x07, (x.p.pc.extractLsb' 32 25 ++ x.rdv a l : BitVec 57).toNat,
        some (x.act &&& maskOf fun m => decide ((x.rdv a m).toNat % 4 ≠ 0))⟩))

/-- With a legal ET and RM setmode writes K16<13:0> to the issuing split's MODE, and with a legal USE setmmode writes K16<9:0> to its MMODE; no other split, register or memory changes and the split goes on. A reserved value raises MODE-VALUE with the instruction word. -/
def Obligations.ModeWritesTakeLegalValuesOnly : Prop :=
  (∀ (k : BitVec 16) (s : State),
    (Completes (.setmode k) s fun x t =>
      k.toNat / 16 % 16 ≤ 11 → k.toNat / 256 % 8 ≤ 5 →
      OnlyGroup x.c.blk x.c.gid s t (Retired (.setmode k) x id fun p p' =>
        p'.mode = k &&& 0x3FFF ∧ p'.pc = p.pc + 4 ∧ p'.mask = p.mask ∧ p'.mmode = p.mmode ∧ p'.gang = p.gang ∧ p'.wait = .none)) ∧
    (Completes (.setmmode k) s fun x t =>
      k.toNat / 16 % 8 ≤ 4 →
      OnlyGroup x.c.blk x.c.gid s t (Retired (.setmmode k) x id fun p p' =>
        p'.mmode = k.setWidth 10 ∧ p'.pc = p.pc + 4 ∧ p'.mask = p.mask ∧ p'.mode = p.mode ∧ p'.gang = p.gang ∧ p'.wait = .none)) ∧
    (∀ x, Issues (.setmode k) s x → 11 < k.toNat / 16 % 16 ∨ 5 < k.toNat / 256 % 8 →
      exec (.setmode k) s = .next (x.s.takeTrap x.c ⟨0x03, (encode (.setmode k)).toNat, none⟩)) ∧
    (∀ x, Issues (.setmmode k) s x → 4 < k.toNat / 16 % 8 →
      exec (.setmmode k) s = .next (x.s.takeTrap x.c ⟨0x03, (encode (.setmmode k)).toNat, none⟩)))

/-- setgang ignores the guard and writes rds(A) to the issuing split's GANG: COUNT and the member fields below it, the others 0. It raises ILLEGAL-OPERAND and leaves GANG unchanged when COUNT is 1 or 7, a member exceeds 31, two members are equal, or none is the executing group. Nothing else changes. -/
def Obligations.GangTakesCheckedMemberLists : Prop :=
  (∀ (a : BitVec 6) (s : State),
    (Completes (.setgang a) s fun x t =>
      gangOk (x.rds a).toNat x.c.gid = true →
      OnlyGroup x.c.blk x.c.gid s t (Retired (.setgang a) x id fun p p' =>
        p'.gang = gangStored (x.rds a).toNat ∧ p'.pc = p.pc + 4 ∧ p'.mask = p.mask ∧ p'.mode = p.mode ∧ p'.mmode = p.mmode ∧ p'.wait = .none)) ∧
    (∀ x, Issues (.setgang a) s x → gangOk (x.rds a).toNat x.c.gid = false →
      exec (.setgang a) s = .next (x.s.takeTrap x.c (x.illegalOperand (.setgang a))))) ∧
  (∀ v gid, gangOk v gid = true ↔ v % 8 = 0 ∨ (2 ≤ v % 8 ∧ v % 8 ≤ 6 ∧ (∀ j < v % 8, gangField v j ≤ 31) ∧
    (∀ i j, i < j → j < v % 8 → gangField v i ≠ gangField v j) ∧ ∃ j < v % 8, gangField v j = gid)) ∧
  (∀ v j, v % 8 ≤ 6 → j < 6 → (gangStored v).toNat % 8 = v % 8 ∧
    gangField (gangStored v).toNat j = if j < v % 8 then v / 2 ^ (6 * j + 6) % 64 else 0)

/-- nop changes nothing but the PC. yield goes on owing a turn to each other candidate of the core, for at most 64 turns. A split at splitsync waits while some split of the group is elsewhere, no other split moving; when it is the last, and no pre-emption has stopped one of them, every split goes on past its own splitsync with its lanes and modes. Registers, other groups and memory stay. Two live splits merge when PC, MODE and MMODE agree and neither has begun its instruction, stands in a chain or is stopped; the older keeps its age and GANG and takes both lane sets; after a decision no pair is left that merges. Free live slots go to the dormant splits of lowest PC; a division shares its slots in ascending PC; a rotation exchanges the split dormant longest and the one live longest outside a chain. Which waits count as begun is log entry 125, that a handler split merges with its own kind only is the model's (log entry 15). -/
def Obligations.SplitsyncJoinsAllSplits : Prop :=
  (∀ (s : State),
    (Gives .nop s fun _ => {}) ∧
    (Completes .yield s fun x t => OnlyGroup x.c.blk x.c.gid s t (Retired .yield x id fun p p' => Advanced p p' ∧
      p'.owedTurns = 64 ∧ ∀ o, o ∈ p'.owed ↔ ∃ b ∈ x.s.onCore x.b.stk x.b.core, x.s.blockRuns b = true ∧ b.forced = false ∧
        ∃ g ∈ b.groups, g.suspended = false ∧ ∃ q, o = (g.ctxid.toNat, q.age) ∧
          (minBy? (fun (r : Split) => r.readyAt * 2 ^ 64 + r.age) (g.splits.filter fun r => g.ready r &&
            !x.s.yields x.b.stk x.b.core r && !x.s.behindAcquire b g r && !(g.ctxid.toNat == x.g.ctxid.toNat && r.age == x.c.age))) = some q)) ∧
    (Completes .splitsync s fun x t => OnlyGroup x.c.blk x.c.gid s t fun g g' => KeepsAllButSplits g g' ∧
      ((∃ q ∈ g.splits, q.age ≠ x.c.age ∧ q.wait ≠ .rendezvous) →
        (∃ p', g'.split? x.c.age = some p' ∧ p'.stands = { x.p with wait := .rendezvous }.stands) ∧
        ∀ m, m ≠ x.c.age → (g'.split? m).map Split.stands = (g.split? m).map Split.stands) ∧
      ((∀ q ∈ g.splits, q.stop = false ∧ (q.age ≠ x.c.age → q.wait = .rendezvous)) →
        ∀ m, (g'.split? m).map Split.stands =
          (g.split? m).map fun q => { q with pc := q.pc + 4, wait := .none }.stands))) ∧
  (∀ (g : Group) (now : Nat), (g.splits.map (·.age)).Nodup → (∀ p ∈ g.splits, p.age < 2 ^ 64) →
    let ready := fun p : Split => p.live = true ∧ p.stop = false ∧ p.wait.notBegun = true ∧ g.inChain p = false
    let m := g.settle now 64
    let r := g.refill now
    (∀ p ∈ g.splits, ∀ q ∈ g.splits, g.mergeable p q = true ↔ ready p ∧ ready q ∧ p.age ≠ q.age ∧ p.pc = q.pc ∧ p.mode = q.mode ∧
      p.mmode = q.mmode ∧ p.handler = q.handler) ∧
    (∀ p q, g.mergePair g.splits = some (p, q) → p ∈ g.splits ∧ q ∈ g.splits ∧ g.mergeable p q = true ∧ p.age < q.age ∧
      (g.merge p q).split? p.age = some { p with mask := p.mask ||| q.mask } ∧ (g.merge p q).split? q.age = none ∧
      (∃ l, g.merge p q = { g with splits := l }) ∧ ∀ a, a ≠ p.age → a ≠ q.age → (g.merge p q).split? a = g.split? a) ∧
    (g.splits.length ≤ 32 → g.dormant = [] ∨ 4 ≤ g.liveCount → ∀ p ∈ m.splits, ∀ q ∈ m.splits, m.mergeable p q = false) ∧
    ((∃ l, r = { g with splits := l }) ∧ (4 ≤ r.liveCount ∨ r.dormant = []) ∧ r.splits.length = g.splits.length ∧
      ∀ p ∈ r.splits, p ∈ g.splits ∨ ∃ q ∈ g.dormant, p = { q with live := true, since := now, readyAt := now } ∧
        ∀ y ∈ r.dormant, q.pc.toNat < y.pc.toNat ∨ (q.pc = y.pc ∧ q.age ≤ y.age)) ∧
    (∀ ages : List Nat, let d := g.placeDivision now ages
      (∀ a, a ∉ ages → d.split? a = g.split? a) ∧
      (∀ p ∈ d.splits, ∀ q ∈ d.splits, p.age ∈ ages → q.age ∈ ages → p.live = true → q.live = false →
        p.pc.toNat < q.pc.toNat ∨ (p.pc = q.pc ∧ p.age < q.age)) ∧
      ((∃ q ∈ d.splits, q.age ∈ ages ∧ q.live = false) → 4 ≤ d.liveCount)) ∧
    (g.dormant ≠ [] → (∃ p ∈ g.splits, p.live = true ∧ g.inChain p = false) → ∃ d ∈ g.dormant, ∃ l ∈ g.splits,
      (∀ y ∈ g.dormant, d.since ≤ y.since) ∧ l.live = true ∧ g.inChain l = false ∧
      (∀ y ∈ g.splits, y.live = true → g.inChain y = false → l.since ≤ y.since) ∧
      (g.rotate now).split? d.age = some { d with live := true, since := now, readyAt := now } ∧
      (g.rotate now).split? l.age = some { l with live := false, since := now } ∧
      ∀ a, a ≠ d.age → a ≠ l.age → (g.rotate now).split? a = g.split? a))

/-- An exit whose guard holds in no lane only advances. Otherwise the guarded lanes count as exited, the rest of the split goes on, no split without lanes remains, and registers and every other group stay while a launched lane remains; in a handler the last split to end ends it. When the last launched lane exits, the block no longer holds the group; while a quantum reduction of the group has still to be performed, that exit waits. Of a detached group it is stated for a block without a gathering copy or a joint operation that waits. -/
def Obligations.ExitEndsTheGuardedLanes : Prop :=
  ∀ (s : State), Completes .exit s fun x t =>
    (x.act = 0 → Writes .exit s x {} t) ∧
    (x.act ≠ 0 → x.g.alive &&& ~~~x.act ≠ 0 → (x.g.attached = true ∨ (x.b.gather = [] ∧ x.b.expect = [] ∧ x.b.arrivals = [])) →
      (x.g.handler = none ∨ (x.p.handler = true ∧ x.act ≠ x.active) ∨
        ∃ q ∈ x.g.splits, q.handler = true ∧ q.mask ≠ 0 ∧ q.age ≠ x.c.age ∧ q.wait ≠ .returned) →
      OnlyGroup x.c.blk x.c.gid s t fun g g' =>
        (∃ splits, g' = { g with splits := splits, chain := none, exited := g.exited ||| x.act }) ∧
        (∀ q ∈ g'.splits, q.mask ≠ 0) ∧
        (x.act ≠ x.active → ∃ p', g'.split? x.c.age = some p' ∧ p'.pc = x.p.pc + 4 ∧ p'.mask = x.active &&& ~~~x.act ∧
          p'.mode = x.mode ∧ p'.mmode = x.mmode ∧ p'.gang = x.p.gang)) ∧
    (x.act ≠ 0 → x.g.alive &&& ~~~x.act ≠ 0 → (x.g.attached = true ∨ (x.b.gather = [] ∧ x.b.expect = [] ∧ x.b.arrivals = [])) →
      x.g.handler.isSome = true → x.p.handler = true → x.act = x.active → (∀ q ∈ x.g.splits, q.age = x.c.age → q = x.p) →
      (∀ q ∈ x.g.splits, q.handler = true → q.age ≠ x.c.age → q.wait = .returned ∧ q.stop = false) →
      OnlyGroup x.c.blk x.c.gid s t fun g g' =>
        (∃ splits, g' = { g with splits := splits, chain := none, exited := g.exited ||| x.act, handler := none }) ∧
        ∀ q ∈ g'.splits, q.handler = false) ∧
    (x.act ≠ 0 → x.g.alive &&& ~~~x.act = 0 →
      (x.s.reductionsWait x.b x.g = false → t.group? x.c.blk x.c.gid = none) ∧ (x.s.reductionsWait x.b x.g = true → t = x.s))

/-- trap raises SW-TRAP in the guarded lanes, or only advances with none; brk raises BREAKPOINT in every active lane; a word that is no instruction raises ILLEGAL-INSTRUCTION. tret waits while a handler split still runs; then the returned lanes form one split with the faulting split's age, MODE, MMODE and GANG, after the trap or breakpoint or at the faulting instruction. Outside a handler it raises ILLEGAL-OPERAND. The end of a handler is stated where no pre-emption has stopped a returned split. PreciseFaultsWriteTheTrapRegisters says what taking an exception does. -/
def Obligations.TrapsEnterAndTretReturns : Prop :=
  ∀ (k : BitVec 16) (w : Word) (s : State),
    (Completes (.trap k) s fun x t =>
      (x.act = 0 → Writes (.trap k) s x {} t) ∧ (x.act ≠ 0 → t = x.s.takeTrap x.c ⟨0x1A, k.toNat, some x.act⟩)) ∧
    (Completes (.brk k) s fun x t => t = x.s.takeTrap x.c ⟨0x1B, k.toNat, some x.active⟩) ∧
    (Completes (.illegalInstruction w) s fun x t => t = x.s.takeTrap x.c ⟨0x01, w.toNat, none⟩) ∧
    (Completes .tret s fun x t =>
      (x.p.handler = false → t = x.s.takeTrap x.c (x.illegalOperand .tret)) ∧
      (x.p.handler = true → ∀ h, x.g.handler = some h →
        ((∃ q ∈ x.g.splits, q.handler = true ∧ q.age ≠ x.c.age ∧ q.wait ≠ .returned) →
          OnlyGroup x.c.blk x.c.gid s t fun g g' => KeepsAllButSplits g g' ∧
            OnlySplit x.c.age g g' fun p p' => p'.stands = { p with wait := .returned }.stands) ∧
        ((∀ q ∈ x.g.splits, q.handler = true → q.stop = false ∧ (q.age ≠ x.c.age → q.wait = .returned)) →
          OnlyGroup x.c.blk x.c.gid s t fun g g' =>
            (∃ splits, g' = { g with splits := splits, chain := none, handler := none }) ∧ (∀ q ∈ g'.splits, q.handler = false) ∧
            ∃ q ∈ g'.splits, q.age = h.age ∧ q.mode = h.mode ∧ q.mmode = h.mmode ∧ q.gang = h.gang ∧ q.wait = .none ∧
              (q.pc = if h.cause = 0x1A ∨ h.cause = 0x1B then h.pc + 4 else h.pc) ∧
              ∀ l < 32, q.mask.getLsbD l = true ↔ ∃ r ∈ x.g.splits, r.handler = true ∧ r.mask.getLsbD l = true)))

/-- Delivery stores cause, address (the head of the split's chain), value and lanes; memory, other groups and the registers stay. With HANDLE, a TRAPVEC other than 0, no handler in force and a cause other than PAGE-FAULT and UNCORRECTABLE, the split runs the handler under the launch's modes with GANG 0 and its own state is kept for the return. Otherwise the group is suspended, its split standing at TRAPPC, and a record is formed, which goes out once earlier stores and puts are performed. Delayed reductions are performed first; the statement is about a group with none. A group that is already suspended, or in a handler that the split is not part of, drops the fault, and the split keeps its lanes and modes; so does one with a quantum reduction still in its store queue, and its split raises the fault again once that is performed (log entry 109). -/
def Obligations.PreciseFaultsWriteTheTrapRegisters : Prop :=
  ∀ (s : State) (c : Cur) (f : Trap) (b : Block) (g : Group) (p : Split),
    s.block? c.blk = some b → b.group? c.gid = some g → g.split? c.age = some p → g.quantum = [] →
    (g.suspended = true ∨ (g.handler.isSome = true ∧ p.handler = false) ∨ g.stq.any StoreOp.isQuantum = true → OnlyGroup c.blk c.gid s (s.takeTrap c f) fun g g' =>
      (∃ splits chain gens, g' = { g with splits := splits, chain := chain, gens := gens }) ∧ OnlySplit c.age g g' fun p p' =>
        p'.mask = p.mask ∧ p'.mode = p.mode ∧ p'.mmode = p.mmode ∧ p'.gang = p.gang ∧ p'.handler = p.handler) ∧
    (g.suspended = false → (g.handler = none ∨ p.handler = true) → g.stq.any StoreOp.isQuantum = false →
    let l := s.launchOf b
    let pc := match g.chain with
      | some ch => if ch.age = p.age ∧ ch.next = p.pc then ch.head else p.pc
      | none => p.pc
    let handles := g.handler = none ∧ l.handle = true ∧ g.trapVec ≠ 0 ∧ f.cause ≠ 0x0B ∧ f.cause ≠ 0x1C
    ∃ s1, s1.mem = s.mem ∧ (handles → s.takeTrap c f = s1) ∧ (¬ handles → s.takeTrap c f = s1.tryHeld c.blk c.gid) ∧
      OneGroup c.blk c.gid s s1 fun g g' =>
        g'.trapCause = BitVec.ofNat 64 f.cause ∧ g'.trapPc = pc.setWidth 64 ∧ g'.trapVal = BitVec.ofNat 64 f.val ∧
        g'.trapLanes = (f.lanes.getD p.mask).setWidth 64 ∧ g'.trapVec = g.trapVec ∧
        g'.chain = (match g.chain with | some ch => if ch.age = p.age then none else some ch | none => none) ∧
        g'.exited = g.exited ∧ g'.attached = g.attached ∧ g'.baseN = g.baseN ∧ g'.ext = g.ext ∧
        (g.pend = [] → g'.v = g.v ∧ g'.s = g.s ∧ g'.p = g.p) ∧
        (handles → g'.suspended = g.suspended ∧
          (∃ q, g'.split? c.age = some q ∧ q.stands = (g.trapVec.setWidth 57, p.mask, l.mode, l.mmode, 0, .none) ∧ q.handler = true) ∧
          ∃ h, g'.handler = some h ∧ h.age = p.age ∧ h.mode = p.mode ∧ h.mmode = p.mmode ∧ h.gang = p.gang ∧ h.mask = p.mask ∧
            h.cause = f.cause ∧ h.pc = pc) ∧
        (¬ handles → g'.suspended = true ∧ g'.handler = g.handler ∧ (∃ w, g'.heldRec = g.heldRec ++ [w]) ∧
          ∃ q, g'.split? c.age = some q ∧ q.stands = (pc, p.mask, p.mode, p.mmode, p.gang, .fault)))

/-- srd writes to sD the value of the register that K16 names, as the table of R117 lays it out. swr writes only the four registers that take writes: TRAPVEC (a value that is no multiple of four raises MISALIGNED), SRSEED with the generator of every lane, AQUANT (0 is ignored) and the core's MGATE. Everything else stays. -/
def Obligations.SystemRegistersReadAndTakeWrites : Prop :=
  (∀ (d : BitVec 6) (k : BitVec 16) (s : State), Gives (.srd d k) s fun x => .scal d (BitVec.ofNat 64 (x.sysReg k.toNat))) ∧
  (∀ x : Ctx, x.sysReg 0x00 = 0x0768 + 4 * 2 ^ 16 + 24 * 2 ^ 20 + 8 * 2 ^ 28 + 64 * 2 ^ 32 + 512 * 2 ^ 40 ∧ x.sysReg 0x01 = 0x3F001704FF ∧ x.sysReg 0x10 = x.c.gid ∧ x.sysReg 0x11 = x.b.bx ∧ x.sysReg 0x12 = x.b.blky ∧
    x.sysReg 0x13 = x.b.bz ∧ x.sysReg 0x14 % 64 = x.b.groups.length % 64 ∧ x.sysReg 0x14 / 256 % 64 = x.b.attachedCount % 64 ∧
    x.sysReg 0x15 = x.b.nln ∧ x.sysReg 0x16 = x.b.core ∧ x.sysReg 0x17 = x.b.core / 8 ∧
    x.sysReg 0x20 % 8 = (x.g.splits.filter fun p => p.live).length % 8 ∧ x.sysReg 0x20 / 256 % 32 = x.g.splits.length % 32 ∧ x.sysReg 0x18 = x.b.stk ∧ x.sysReg 0x19 = x.s.pkg.toNat ∧
    x.sysReg 0x21 = x.active.toNat + 2 ^ 32 * x.g.alive.toNat ∧ x.sysReg 0x30 % 256 = x.g.baseN % 256 ∧
    x.sysReg 0x30 / 256 % 16 = x.g.ext % 16 ∧ x.sysReg 0x30 / 2 ^ 16 % 256 = x.g.bound % 256 ∧
    x.sysReg 0x40 = x.g.trapCause.toNat ∧ x.sysReg 0x41 = x.g.trapPc.toNat ∧ x.sysReg 0x42 = x.g.trapVal.toNat ∧
    x.sysReg 0x43 = x.g.trapLanes.toNat ∧ x.sysReg 0x44 = x.g.trapVec.toNat ∧ x.sysReg 0x50 = x.g.srseed.toNat ∧
    x.sysReg 0x51 = x.g.aquant.toNat ∧ x.sysReg 0x60 = (x.s.core x.b.stk x.b.core).mgate.toNat ∧
    x.sysReg 0x61 = (x.s.core x.b.stk x.b.core).mwakelat.toNat ∧ x.sysReg 0x70 = x.b.yieldreq ∧
    x.sysReg 0x80 = x.b.cbseq ∧ x.sysReg 0x81 = x.b.cbdone ∧ x.sysReg 0x82 = x.b.mbseq ∧ x.sysReg 0x83 = x.b.mbdone) ∧
  (∀ (d : BitVec 6) (s : State),
    (Completes (.swr d 0x44) s fun x t =>
      ((x.rds d).toNat % 4 = 0 → Does (.swr d 0x44) s x (fun g => { g with trapVec := (x.rds d).setWidth 57 |>.setWidth 64 }) t) ∧
      ((x.rds d).toNat % 4 ≠ 0 → t = x.s.takeTrap x.c ⟨0x07, (x.rds d).toNat, none⟩)) ∧
    (Completes (.swr d 0x50) s fun x t => Does (.swr d 0x50) s x (fun g =>
      { g with srseed := (x.rds d).setWidth 32, gens := seedGens ((x.rds d).setWidth 32) }) t) ∧
    (Completes (.swr d 0x51) s fun x t => Does (.swr d 0x51) s x (fun g =>
      if (x.rds d).toNat % 2 ^ 16 = 0 then g else { g with aquant := (x.rds d).setWidth 16 }) t) ∧
    (Completes (.swr d 0x60) s fun x t => OnlyBlocksAndCores s t ∧
      OneGroup x.c.blk x.c.gid s t (Retired (.swr d 0x60) x id Advanced) ∧
      t.core x.b.stk x.b.core = { s.core x.b.stk x.b.core with mgate := (x.rds d).setWidth 16 })) ∧
  (∀ (d : BitVec 6) (k : BitVec 16) (s : State) (x : Ctx), Issues (.swr d k) s x → k = 0x44 ∨ k = 0x50 ∨ k = 0x51 ∨ k = 0x60) ∧
  (∀ (seed : Word) (l : Nat), l < 32 → nth 0 (seedGens seed) l =
    let g := seed ^^^ BitVec.ofNat 32 ((l + 1) * 0x9E3779B1)
    if g = 0 then 1 else g)

/-- A count of 0 or above 32, which is a decode fault, and an entry outside the text raise ILLEGAL-OPERAND, a misaligned entry MISALIGNED. Otherwise the block has as many new groups as granted (none under a pre-emption request), each attached, with its rank in s1, the grower's index in s2, the launched lanes and one split at the entry under the launch's modes. Stated for a block without membership-tracked barriers. -/
def Obligations.GrowStartsTheGrantedGroups : Prop :=
  ∀ (d a : BitVec 6) (k : BitVec 8) (s : State),
    let i := Instr.grow d a k
    (∀ x, Sees i s x → k = 0 ∨ 32 < k.toNat → exec i s = .next (x.s.takeTrap x.c (x.illegalOperand i))) ∧
    (∀ x, Issues i s x →
      ((x.rds a).toNat % 4 ≠ 0 → exec i s = .next (x.s.takeTrap x.c ⟨0x07, (x.rds a).toNat % 2 ^ 57, none⟩)) ∧
      ((x.rds a).toNat % 4 = 0 → x.l.inText ((x.rds a).toNat % 2 ^ 57) = false →
        exec i s = .next (x.s.takeTrap x.c (x.illegalOperand i)))) ∧
    (Completes i s fun x t => (x.rds a).toNat % 4 = 0 → x.l.inText ((x.rds a).toNat % 2 ^ 57) = true →
      x.s.mbOffsets x.b = [] →
      (x.granted k.toNat ≤ k.toNat ∧ (x.b.preempt.isSome = true → x.granted k.toNat = 0)) ∧
      t.mem = s.mem ∧
      ∃ b', t.block? x.c.blk = some b' ∧ b'.groups.length = x.b.groups.length + x.granted k.toNat ∧
        (∃ g' p', b'.group? x.c.gid = some g' ∧ (d ≠ 0 → g'.sreg d.toNat = BitVec.ofNat 64 (x.granted k.toNat)) ∧
          g'.split? x.c.age = some p' ∧ p'.pc = x.p.pc + 4) ∧
        ∀ r < x.granted k.toNat, ∃ h ∈ b'.groups, h.gid ≠ x.c.gid ∧ h.sreg 1 = BitVec.ofNat 64 r ∧
          h.sreg 2 = BitVec.ofNat 64 x.c.gid ∧ h.attached = true ∧ h.lanes = lowLanes x.b.nln ∧ h.baseN = x.b.baseN ∧
          ∃ q, h.splits = [q] ∧ q.stands = (BitVec.ofNat 57 (x.rds a).toNat, lowLanes x.b.nln, x.l.mode, x.l.mmode, 0, .none))

/-- Attaching an attached group and detaching a detached one change nothing but the PC. Otherwise the group's membership flips; attaching raises EXP and PA of the pending phase by one, detaching lowers EXP by one and PA too unless the group has arrived at that phase. Stated for a block without membership-tracked barriers, and for detach without a gathering copy or a joint operation that waits. -/
def Obligations.MembershipStepsMoveTheBlockBarrier : Prop :=
  (∀ s : State,
    (Completes .attach s fun x t =>
      (x.g.attached = true → Writes .attach s x {} t) ∧
      (x.g.attached = false → x.s.mbOffsets x.b = [] → t.mem = s.mem ∧ ∃ b' g' p', t.block? x.c.blk = some b' ∧
        b'.group? x.c.gid = some g' ∧ g'.attached = true ∧ g'.split? x.c.age = some p' ∧ p'.pc = x.p.pc + 4 ∧
        ((x.b.barView.pa + 1) % 2 ^ 16 ≠ 0 → b'.bar = (Bar.join 1 x.b.barView).blockWord))) ∧
    (Completes .detach s fun x t =>
      (x.g.attached = false → Writes .detach s x {} t) ∧
      (x.g.attached = true → x.s.mbOffsets x.b = [] → x.b.gather = [] → x.b.arrivals = [] → t.mem = s.mem ∧ ∃ b' g' p',
        t.block? x.c.blk = some b' ∧
        b'.group? x.c.gid = some g' ∧ g'.attached = false ∧ g'.split? x.c.age = some p' ∧ p'.pc = x.p.pc + 4 ∧
        ((Bar.leave x.c.gid x.b.barView).pa ≠ 0 → b'.bar = (Bar.leave x.c.gid x.b.barView).blockWord)))) ∧
  (∀ b : Bar, (Bar.join 1 b).exp = (b.exp + 1) % 2 ^ 16 ∧ (Bar.join 1 b).pa = (b.pa + 1) % 2 ^ 16 ∧
    (Bar.join 1 b).ph = b.ph ∧ (Bar.join 1 b).arr = b.arr) ∧
  (∀ (b : Bar) (n : Nat), (Bar.leave n b).exp = b.exp - 1 ∧
    (Bar.leave n b).pa = (if b.arr.testBit n then b.pa else b.pa - 1) ∧ (Bar.leave n b).ph = b.ph)

/-- racq beyond the limit of the group, and rrel of more granules than it has, raise REG-RANGE with n. racq takes all n at once when no earlier request waits and they are free, else its split waits in the registers state behind the others. rrel waits while a pending result other than those of fdiv to flog2 targets a released register, or while a joint product still has to read one as its B, then writes every pending result of those and lowers the bound, keeping every register below it. That it waits for results of every kind is the model's reading (log entry 102). Each writes the new bound to sD. The last clause is stated for a core where no racq waits. -/
def Obligations.GranulesExtendAndReleaseTheBound : Prop :=
  ∀ (d : BitVec 6) (k : BitVec 8) (s : State),
    (Completes (.racq d k) s fun x t =>
      ((128 - x.g.baseN) / 8 < x.g.ext + k.toNat → t = x.s.takeTrap x.c ⟨0x04, k.toNat, none⟩) ∧
      (x.g.ext + k.toNat ≤ (128 - x.g.baseN) / 8 → (x.s.core x.b.stk x.b.core).racq = [] →
        k.toNat ≤ x.s.freeGranules x.b.stk x.b.core →
        Does (.racq d k) s x (fun g => { g with ext := g.ext + k.toNat }.setS d.toNat
          (BitVec.ofNat 64 (g.baseN + 8 * (g.ext + k.toNat)))) t) ∧
      (x.g.ext + k.toNat ≤ (128 - x.g.baseN) / 8 → (x.s.core x.b.stk x.b.core).racq ≠ [] ∨
        x.s.freeGranules x.b.stk x.b.core < k.toNat → OnlyBlocksAndCores s t ∧
        (OneGroup x.c.blk x.c.gid s t fun g g' => KeepsAllButSplits g g' ∧ OnlySplit x.c.age g g' (Waits .registers)) ∧
        t.core x.b.stk x.b.core = { s.core x.b.stk x.b.core with
          racq := (s.core x.b.stk x.b.core).racq ++ [(x.c.blk, x.c.gid, x.c.age, k.toNat, d.toNat)] })) ∧
    (Completes (.rrel d k) s fun x t =>
      let low := x.g.bound - 8 * k.toNat
      (x.g.ext < k.toNat → t = x.s.takeTrap x.c ⟨0x04, k.toNat, none⟩) ∧
      (k.toNat ≤ x.g.ext → (∃ p ∈ x.g.pend, p.kind ≠ .long ∧ ∃ r ∈ p.vregs, low ≤ r ∧ r < x.g.bound) →
        OnlyGroup x.c.blk x.c.gid s t fun g g' => KeepsAllButSplits g g' ∧
          OnlySplit x.c.age g g' (Waits (.operand ((List.range (8 * k.toNat)).map (low + ·)) [] false))) ∧
      (k.toNat ≤ x.g.ext → (∀ p ∈ x.g.pend, p.kind ≠ .long → ∀ r ∈ p.vregs, r < low ∨ x.g.bound ≤ r) →
        (x.s.core x.b.stk x.b.core).racq = [] → (∀ p ∈ x.b.arrivals, p.gid = x.c.gid → ∀ r ∈ p.bregs, r < low) →
        OnlyGroup x.c.blk x.c.gid s t fun _ g' =>
          let g := x.g.flushLong x.now
          (∃ v sc splits bad, g' = { g with v := v, s := sc, splits := splits, bad := bad, chain := none, ext := g.ext - k.toNat }) ∧
          g'.bound = low ∧ (∀ r l, r < low → l < 32 → g'.vreg r l = g.vreg r l) ∧
          (∀ r, g'.sreg r = if r = d.toNat ∧ r ≠ 0 then BitVec.ofNat 64 low else g.sreg r) ∧
          OnlySplit x.c.age g g' Advanced) ∧
      (k.toNat ≤ x.g.ext → (∀ p ∈ x.g.pend, p.kind ≠ .long → ∀ r ∈ p.vregs, r < low ∨ x.g.bound ≤ r) →
        (∃ p ∈ x.b.arrivals, p.gid = x.c.gid ∧ ∃ r ∈ p.bregs, low ≤ r) → t = x.s)) ∧
    (∀ (g : Group) (n : Nat), (g.flushLong n).pend = g.pend.filter fun p => decide (p.kind ≠ .long))

/-- An address is base plus unit times K, modulo 2^57 in glb and exact elsewhere. A lane in a space the vector pipes may not reach so raises SPACE-ACCESS; else a misaligned one MISALIGNED; else one outside its allocation SPACE-RANGE, each with the lowest such lane's address and all such lanes in TRAPLANES; else, in glb, one without a leaf PAGE-FAULT, one that the leaf or the address map refuses PROTECTION, one homed on another stack FOREIGN-HOME. Lanes that pass act at the places that their addresses name. A page walk goes down from level 4 through table entries to a leaf, whose frame, size and permissions it caches and whose A and D bits it sets; a bad entry is a PAGE-FAULT, a leaf that does not permit the access a PROTECTION; the same for a guest address in the second stage. -/
def Obligations.AddressChecksComeInTheirOrder : Prop :=
  (∀ (x : Ctx) (kind size : Nat) (l : List LaneAddr),
    let foreign := l.filter fun a => !(a.sp.any (mayAccess kind))
    let odd := l.filter fun a => decide (a.addr % Int.ofNat size ≠ 0)
    let outside := l.filter fun a => a.sp.any fun sp => decide (sp ≠ .glb) && (x.s.local? x.b sp a.addr size).isNone
    let lanes := fun (r : List LaneAddr) => some (maskOf fun k => r.any fun y => y.lane == k)
    (∀ a r, foreign = a :: r → x.access kind size l = .trap ⟨0x09, a.tag, lanes (a :: r)⟩) ∧
    (∀ a r, foreign = [] → odd = a :: r → x.access kind size l = .trap ⟨0x07, a.plain, lanes (a :: r)⟩) ∧
    (∀ a r, foreign = [] → odd = [] → outside = a :: r → x.access kind size l = .trap ⟨0x08, a.tag, lanes (a :: r)⟩) ∧
    (foreign = [] → odd = [] → outside = [] → (∀ a ∈ l, a.sp ≠ some .glb) → x.s.poisoned = [] →
      ∃ ps, x.access kind size l = .ok ps ∧ ∀ k p, (k, p) ∈ ps ↔
        ∃ a ∈ l, a.lane = k ∧ ∃ sp, a.sp = some sp ∧ x.s.local? x.b sp a.addr size = some p)) ∧
  (∀ (x : Ctx) (kind size : Nat) (l : List LaneAddr), (∀ a ∈ l, a.sp = some .glb ∧ a.addr % Int.ofNat size = 0) →
    (∀ a ∈ l, x.checkGlb kind a ≠ .miss) →
    let failing := fun n => l.filterMap fun a => match x.checkGlb kind a with
      | .fail st cause val => if st = n then some (a.lane, cause, val) else none
      | _ => none
    let fault := fun (y : Nat × Nat × Nat) (r : List (Nat × Nat × Nat)) =>
      x.access kind size l = .trap ⟨y.2.1, y.2.2, some (maskOf fun m => (y :: r).any fun z => z.1 == m)⟩
    (∀ y r, failing 4 = y :: r → fault y r) ∧
    (∀ y r, failing 4 = [] → failing 5 = y :: r → fault y r) ∧
    (∀ y r, failing 4 = [] → failing 5 = [] → failing 6 = y :: r → fault y r) ∧
    ((∀ a ∈ l, ∃ pa, x.checkGlb kind a = .ok pa) → x.s.poisoned = [] → x.s.badLines = [] →
      ∃ ps, x.access kind size l = .ok ps ∧ ∀ k p, (k, p) ∈ ps ↔ ∃ a ∈ l, a.lane = k ∧ ∃ pa, x.checkGlb kind a = .ok pa ∧ p = .glb pa)) ∧
  (∀ (s : State) (walked : List (Nat × WalkResult)) (stk core : Nat) (l : Launch) (va kind : Nat),
    let check := s.checkVa walked stk core l va kind
    let found := s.lookup walked stk core l.asid l.vmid va kind
    let val := va % 2 ^ 57 + (if kind = 1 ∨ kind = 3 then 2 ^ 57 else 0) + if kind = 2 then 2 ^ 58 else 0
    (found = .miss → check = .miss) ∧
    (∀ b : Bool, found = .pageFault b → check = .fail 4 0x0B (val + if b then 2 ^ 59 else 0)) ∧
    (∀ b : Bool, found = .protection b → check = .fail 5 0x0C (val + if b then 2 ^ 59 else 0)) ∧
    (∀ e, found = .hit e →
      let pa := e.pbase + (va - e.vbase)
      let first := (l.priv = true ∨ e.u = true) ∧ (kind = 0 ∨ kind = 3 → e.r = true) ∧ (kind = 1 ∨ kind = 3 → e.w = true) ∧
        (kind = 2 → e.x = true) ∧ (e.hc = true → e.hstk = e.pbase / 2 ^ 44 % 4)
      let second := (kind = 0 ∨ kind = 3 → e.r2 = true) ∧ (kind = 1 ∨ kind = 3 → e.w2 = true) ∧ (kind = 2 → e.x2 = true) ∧
        (e.hc2 = true → e.hstk2 = e.pbase / 2 ^ 44 % 4)
      (¬ first → check = .fail 5 0x0C val) ∧ (first → ¬ second → check = .fail 5 0x0C (val + 2 ^ 59)) ∧
      (first → second → isDeviceMemory pa = false → check = .fail 5 0x0C val) ∧
      (first → second → isDeviceMemory pa = true → kind ≠ 2 → homeOf pa ≠ stk →
        check = .fail 6 0x0A (va % 2 ^ 57 + 2 ^ 57 * homeOf pa)) ∧
      (first → second → isDeviceMemory pa = true → kind = 2 ∨ homeOf pa = stk → check = .ok pa))) ∧
  (∀ kind, mayAccess kind .par = true ↔ kind = 0) ∧
  (∀ kind sp, mayAccess kind sp = true ∨ sp = .par ∨ kind = 3) ∧
  (∀ (x : Ctx) (n : BitVec 6) (unit : Nat) (k : BitVec 5) (l : Nat),
    (x.ea .glb (.s n) unit k l).addr = ((x.rds n).toNat + unit * k.toInt) % 2 ^ 57) ∧
  (∀ (x : Ctx) (sp : Space) (a : Src) (unit : Nat) (k : BitVec 5) (l : Nat), sp ≠ .glb →
    (x.ea sp a unit k l).addr = (x.rdv a l).toNat + unit * k.toInt ∧ (x.ea sp a unit k l).lane = l) ∧
  (∀ (ext : Bool) (level pte : Nat),
    let valid := bitOf pte 0 = true ∧ pte / 2 ^ 57 % 2 ^ 4 = 0
    let r := bitOf pte 1 = true
    let w := bitOf pte 2 = true
    let x := bitOf pte 3 = true
    (pteKind ext level pte = .table ↔ valid ∧ ¬ r ∧ ¬ w ∧ ¬ x ∧ pte / 2 ^ 54 % 2 ^ 3 = 0 ∧ pte / 2 ^ 61 % 2 ^ 3 = 0 ∧ bitOf pte 4 = false ∧
      bitOf pte 6 = false ∧ bitOf pte 7 = false ∧ level ≠ 0) ∧
    (pteKind ext level pte = .leaf ↔ valid ∧ (r ∨ (x ∧ ¬ w)) ∧ (ext = true ∨ pte / 2 ^ 54 % 2 ^ 3 = 0) ∧
      (bitOf pte 63 = true → level = 0 ∧ ptePpn pte % 16 = 8) ∧ (bitOf pte 63 = false → ptePpn pte % 2 ^ (9 * level) = 0))) ∧
  (∀ (s : State) (ext priv : Bool) (asid : BitVec 16) (va kind root level : Nat) (table : Nat → Nat), s.root1 asid 0 = some root →
    level ≤ 4 → table 4 = root → kind < 4 →
    let entry := fun n => table n + 8 * (va / 2 ^ (12 + 9 * n) % 512)
    let pte := fun n => s.readNat (entry n) 8
    (∀ n, level < n → n ≤ 4 → pteKind ext n (pte n) = .table ∧ table (n - 1) = ptePpn (pte n) * 4096) →
    let got := s.walk ext asid 0 va kind priv
    let f := pte level
    let write := kind = 1 ∨ kind = 3
    let permits := (kind = 0 ∨ kind = 3 → bitOf f 1 = true) ∧ (write → bitOf f 2 = true) ∧ (kind = 2 → bitOf f 3 = true) ∧
      (priv = true ∨ bitOf f 4 = true) ∧ f / 2 ^ 61 % 4 < 2
    (pteKind ext level f = .bad → got = (.pageFault false, s)) ∧
    (pteKind ext level f = .leaf → ¬ permits → got = (.protection false, s)) ∧
    (pteKind ext level f = .leaf → permits →
      let new := f ||| 0x40 ||| (if kind = 1 ∨ kind = 3 then 0x80 else 0)
      let size := if bitOf f 63 then 65536 else 2 ^ (12 + 9 * level)
      (∃ e, got.1 = .leaf e ∧ e.asid = asid ∧ e.vmid = 0 ∧ e.size = size ∧ e.vbase = va / size * size ∧
        e.pbase = (if bitOf f 63 then ptePpn f / 16 * 65536 else ptePpn f * 4096) ∧ e.r = bitOf f 1 ∧ e.w = bitOf f 2 ∧ e.x = bitOf f 3 ∧
        e.u = bitOf f 4 ∧ e.g = bitOf f 5 ∧ (e.d = true ↔ bitOf f 7 = true ∨ write) ∧
        e.hc = (ext && bitOf f 56) ∧ e.hstk = if ext then f / 2 ^ 54 % 4 else 0) ∧
      ∀ q, Sparse.get got.2.mem q = if new ≠ f ∧ entry level ≤ q ∧ q < entry level + 8 then nth 0 (leBytes 8 new) (q - entry level)
        else Sparse.get s.mem q)) ∧
  (∀ (s : State) (ext priv : Bool) (asid : BitVec 16) (vmid : BitVec 14) (va kind : Nat),
    (s.root1 asid vmid = none → s.walk ext asid vmid va kind priv = (.pageFault false, s)) ∧
    ((s.root1 asid vmid).isSome = true → vmid ≠ 0 → s.root2 vmid = none → s.walk ext asid vmid va kind priv = (.pageFault true, s))) ∧
  (∀ (s : State) (ext : Bool) (gpa kind root level : Nat) (table : Nat → Nat), level ≤ 4 → table 4 = root → kind < 4 →
    let entry := fun n => table n + 8 * (gpa / 2 ^ (12 + 9 * n) % (if n = 4 then 2048 else 512))
    let pte := fun n => s.readNat (entry n) 8
    (∀ n, level < n → n ≤ 4 → pteKind ext n (pte n) = .table ∧ table (n - 1) = ptePpn (pte n) * 4096) →
    let f := pte level
    let permits := (kind = 0 ∨ kind = 3 → bitOf f 1 = true) ∧ (kind = 1 ∨ kind = 3 → bitOf f 2 = true) ∧ (kind = 2 → bitOf f 3 = true) ∧
      bitOf f 4 = true ∧ f / 2 ^ 61 % 4 < 2
    let size := if bitOf f 63 then 65536 else 2 ^ (12 + 9 * level)
    (2 ^ 59 ≤ gpa → s.stage2 ext root gpa kind = .error (.pageFault true)) ∧
    (gpa < 2 ^ 59 → pteKind ext level f = .bad → s.stage2 ext root gpa kind = .error (.pageFault true)) ∧
    (gpa < 2 ^ 59 → pteKind ext level f = .leaf → ¬ permits → s.stage2 ext root gpa kind = .error (.protection true)) ∧
    (gpa < 2 ^ 59 → pteKind ext level f = .leaf → permits → ∃ y t,
      s.stage2 ext root gpa kind = .ok ((if bitOf f 63 then ptePpn f / 16 * 65536 else ptePpn f * 4096) + gpa % size, y, t)))

/-- After the checks each load reads its bytes in every active guarded lane (ldu once, at the lowest lane) and leaves a pending result: zero- or sign-extended words, or two or four words in consecutive registers, or 64 bits to a scalar. The split goes on; no register, memory or other group changes. A locked C region makes it wait, an engine-owned line, an own atomic on the words or an earlier store of the core to the same slice stalls it. An acquire also knows of the puts before the releases that it reaches (log entry 127), and drops the L1 at cluster scope or wider. Stated for a group without delayed reductions, which would be performed first. -/
def Obligations.LoadsFixTheirValuesAtIssue : Prop :=
  ∀ (a : Src) (sp : Space) (k : BitVec 5) (s : State),
    (∀ d : BitVec 7, Completes (.ld8 d a sp k) s fun x t => LoadEnds (.ld8 d a sp k) s x 1 (x.lanes.map (x.ea sp a 1 k))
      (LoadsWords d.toNat 1 fun l => [BitVec.ofNat 32 (leNat l)]) t) ∧
    (∀ d : BitVec 7, Completes (.ld16 d a sp k) s fun x t => LoadEnds (.ld16 d a sp k) s x 2 (x.lanes.map (x.ea sp a 2 k))
      (LoadsWords d.toNat 1 fun l => [BitVec.ofNat 32 (leNat l)]) t) ∧
    (∀ d : BitVec 7, Completes (.ld32 d a sp k) s fun x t => LoadEnds (.ld32 d a sp k) s x 4 (x.lanes.map (x.ea sp a 4 k))
      (LoadsWords d.toNat 1 fun l => [BitVec.ofNat 32 (leNat l)]) t) ∧
    (∀ d : BitVec 7, Completes (.ld8s d a sp k) s fun x t => LoadEnds (.ld8s d a sp k) s x 1 (x.lanes.map (x.ea sp a 1 k))
      (LoadsWords d.toNat 1 fun l => [(BitVec.ofNat 8 (leNat l)).signExtend 32]) t) ∧
    (∀ d : BitVec 7, Completes (.ld16s d a sp k) s fun x t => LoadEnds (.ld16s d a sp k) s x 2 (x.lanes.map (x.ea sp a 2 k))
      (LoadsWords d.toNat 1 fun l => [(BitVec.ofNat 16 (leNat l)).signExtend 32]) t) ∧
    (∀ d : BitVec 6, Completes (.ld64 d a sp k) s fun x t => LoadEnds (.ld64 d a sp k) s x 8 (x.lanes.map (x.ea sp a 8 k))
      (LoadsWords (2 * d.toNat) 2 fun l => [BitVec.ofNat 32 (leNat (l.take 4)), BitVec.ofNat 32 (leNat ((l.drop 4).take 4))]) t) ∧
    (∀ d : BitVec 5, Completes (.ld128 d a sp k) s fun x t => LoadEnds (.ld128 d a sp k) s x 16 (x.lanes.map (x.ea sp a 16 k))
      (LoadsWords (4 * d.toNat) 4 fun l => (List.range 4).map fun j => BitVec.ofNat 32 (leNat ((l.drop (4 * j)).take 4))) t) ∧
    (∀ d : BitVec 6, Completes (.ldu d a sp k) s fun x t =>
      LoadEnds (.ldu d a sp k) s x 8 ((x.lanes.take 1).map (x.ea sp a 8 k)) (fun r p => p.vw = [] ∧ p.vregs = [] ∧
        p.sw = if d = 0 then [] else r.map fun y => (d.toNat, BitVec.ofNat 64 (leNat y.2))) t)

/-- The bytes of a load are those of memory, or of a line of the core's L1 unless the load is volatile or an acquire at cluster scope or wider, under the core's stores on their way to the slice, the words that the split has read ahead of the load's others, and the bytes of the group's own stores that still stand in its store queue, the youngest on top. A load of a buffer reads the buffer. Stores elsewhere forward nothing, and memory stays. -/
def Obligations.LoadsSeeOwnStoresThenMemory : Prop :=
  (∀ (x : Ctx) (s : State) (n pa : Nat), pa % 64 + n ≤ 64 →
    (x.loadBytes s n (.glb pa)).2.mem = s.mem ∧
    let seen := fun l => forwarded x.g.stq (.glb pa) (withEarly x.p.early x.fresh (.glb pa) l)
    let home := ((s.lineFor x.b.stk x.b.core (pa / 64 * 64)).drop (pa % 64)).take n
    (x.fresh = true ∨ (s.core x.b.stk x.b.core).l1.find? (fun e => e.1 == pa / 64 * 64) = none →
      (x.loadBytes s n (.glb pa)).1 = seen home) ∧
    (∀ e, (s.core x.b.stk x.b.core).l1.find? (fun e => e.1 == pa / 64 * 64) = some e →
      (x.loadBytes s n (.glb pa)).1 = seen ((e.2.drop (pa % 64)).take n) ∨ (x.loadBytes s n (.glb pa)).1 = seen home) ∧
    ((∀ t ∈ s.transit, t.core ≠ coreKey x.b.stk x.b.core) → home = s.readMem pa n)) ∧
  (∀ (x : Ctx) (s : State) (n u off : Nat) (sp : Space) (b : Block), s.block? u = some b →
    x.loadBytes s n (.buf u sp off) =
      (forwarded x.g.stq (.buf u sp off) (withEarly x.p.early x.fresh (.buf u sp off) (s.bufRead b sp off n)), s)) ∧
  (∀ (e : List (Loc × Bool × List Byte)) (p : Loc) (fresh home : Bool) (bytes l : List Byte), l.length = bytes.length →
    withEarly (e ++ [(p, home, bytes)]) fresh p l = if fresh = true ∧ home = false then withEarly e fresh p l else bytes) ∧
  (∀ (q : List StoreOp) (ins pa rel : Nat) (bytes l : List Byte), l.length = bytes.length →
    forwarded (q ++ [.glb ins pa bytes rel]) (.glb pa) l = bytes) ∧
  (∀ (q : List StoreOp) (p : Loc) (l : List Byte), (∀ o ∈ q, ∀ r m, o.loc = some (r, m) → p.meets l.length r m = false) →
    forwarded q p l = l) ∧
  (∀ x : Ctx, x.fresh = true ↔ x.vol = true ∨ (x.ord % 2 = 1 ∧ 1 ≤ x.scope))

/-- After the checks each store takes the low bytes of its word, or 8 or 16 bytes of consecutive registers or of a scalar, in every active guarded lane, and appends them with their places to the store queue; a system-scope release is marked. No register, memory or other group changes, and the split goes on; a locked C region makes it wait. -/
def Obligations.StoresEnterTheStoreQueue : Prop :=
  ∀ (d : BitVec 7) (sp : Space) (k : BitVec 5) (s : State),
    (∀ a : Src, Completes (.st8 d a sp k) s fun x t =>
      StoreEnds (.st8 d a sp k) s x 1 (x.lanes.map (x.ea sp (.v d) 1 k)) (fun l => leBytes 1 (x.rdv a l).toNat) t) ∧
    (∀ a : Src, Completes (.st16 d a sp k) s fun x t =>
      StoreEnds (.st16 d a sp k) s x 2 (x.lanes.map (x.ea sp (.v d) 2 k)) (fun l => leBytes 2 (x.rdv a l).toNat) t) ∧
    (∀ a : Src, Completes (.st32 d a sp k) s fun x t =>
      StoreEnds (.st32 d a sp k) s x 4 (x.lanes.map (x.ea sp (.v d) 4 k)) (fun l => leBytes 4 (x.rdv a l).toNat) t) ∧
    (∀ a : Src, Completes (.st64 d a sp k) s fun x t =>
      StoreEnds (.st64 d a sp k) s x 8 (x.lanes.map (x.ea sp (.v d) 8 k)) (fun l => x.data64 a l) t) ∧
    (∀ a : BitVec 5, Completes (.st128 d a sp k) s fun x t =>
      StoreEnds (.st128 d a sp k) s x 16 (x.lanes.map (x.ea sp (.v d) 16 k)) (fun l => (List.range 4).flatMap fun j => leBytes 4 (x.g.vreg (4 * a.toNat + j) l).toNat) t) ∧
    (∀ (x : Ctx) (n : BitVec 6) (l : Nat), x.data64 (.s n) l = leBytes 8 (x.rds n).toNat) ∧
    (∀ (x : Ctx) (n : BitVec 7) (l : Nat), x.data64 (.v n) l =
      leBytes 4 (x.g.vreg n.toNat l).toNat ++ leBytes 4 (x.g.vreg (n.toNat + 1) l).toNat)

/-- An item leaves when each earlier one lets it pass (another word of one instruction, a commutative update, a non-ordering atomic) and nothing holds it: an engine on its line, a release with earlier stores of the core in transit or, at system scope, unacknowledged puts of the group or of those it has acquired from (log entry 127), a fence amid a store that a subscription mirrors (log entry 128), a store to S behind an own remarr. A store to a buffer writes exactly its bytes there; one to memory goes on its way, and when it lands, behind the earlier ones of its core to its slice, exactly its bytes change. Landing is stated where no suspension record waits. That a release waits for all stores of its core is the model's reading (log entry 110). -/
def Obligations.StoreQueueDrainWritesItsBytesOnly : Prop :=
  (∀ (s : State) (b : Block) (g : Group) (o : StoreOp), s.block? s.ev.b = some b → s.ev.g < 32 →
    b.group? s.ev.g = some g → nth? g.stq s.ev.k = some o → g.heldRec = [] →
    let goes := (∀ e ∈ g.stq.take s.ev.k, o.passes e = true) ∧ s.mayLeave b g o = true
    (¬ goes → exec .storeQueueDrain s = .next s) ∧
    (∀ ins pa bytes rel, o = .glb ins pa bytes rel → goes → Happens .storeQueueDrain s fun t => t.mem = s.mem ∧
      t.transit = s.transit ++ [{ core := coreKey b.stk b.core, ctx := g.ctxid, slice := s.sliceFor b pa, pa := pa, bytes := bytes }] ∧
      ∃ g', t.group? s.ev.b s.ev.g = some g' ∧ g'.stq = dropNth g.stq s.ev.k) ∧
    (∀ ins u sp off bytes rel v, o = .buf ins u sp off bytes rel → goes → sp = .wgt ∨ sp = .act ∨ sp = .acc →
      s.block? u = some v → v.place = .resident → Happens .storeQueueDrain s fun t =>
        t.mem = s.mem ∧ (∃ g', t.group? s.ev.b s.ev.g = some g' ∧ g'.stq = dropNth g.stq s.ev.k) ∧
        ∃ v', t.block? u = some v' ∧ ∀ a, Sparse.get (v'.buf sp) a =
          if off ≤ a ∧ a < off + bytes.length then nth 0 bytes (a - off) else Sparse.get (v.buf sp) a)) ∧
  (∀ (s : State) (k : Nat) (e : Transit), nth? s.transit k = some e → (∀ b ∈ s.blocks, ∀ g ∈ b.groups ++ b.draining, g.heldRec = []) →
    let waits := (∃ y ∈ s.transit.take k, y.core = e.core ∧ y.slice = e.slice) ∨ s.engineOwns e.pa e.bytes.length = true
    (waits → s.landStore k = s) ∧
    (¬ waits → (s.landStore k).transit = dropNth s.transit k ∧
      ∀ a, Sparse.get (s.landStore k).mem a = if e.pa ≤ a ∧ a < e.pa + e.bytes.length then nth 0 e.bytes (a - e.pa) else Sparse.get s.mem a)) ∧
  (∀ o e : StoreOp, o.passes e = true ↔
    (o.ins? = e.ins? ∧ o.ins?.isSome = true ∧ (o.meets e = false ∨ (o.useOf = 1 ∧ e.useOf = 1))) ∨
      (o.useOf = 2 ∧ e.isFence = false ∧ e.acquires = false ∧ o.meets e = false)) ∧
  (∀ (s : State) (b : Block) (g : Group) (ins pa rel : Nat) (bytes : List Byte),
    s.mayLeave b g (.glb ins pa bytes rel) = true ↔ s.engineOwns pa bytes.length = false ∧
      (1 ≤ rel → ∀ e ∈ s.transit, e.core ≠ coreKey b.stk b.core) ∧ (2 ≤ rel → g.puts = [] ∧ ∀ q ∈ g.heard, s.outstanding q = false)) ∧
  (∀ (s : State) (b : Block) (g : Group) (rel : Nat), s.mayLeave b g (.fence rel) = true ↔ s.released b g rel = true ∧ s.midWrite b.uid = false) ∧
  (∀ (s : State) (b : Block) (g : Group) (ins u off rel : Nat) (bytes : List Byte), s.mayLeave b g (.buf ins u .scr off bytes rel) = true ↔
    s.released b g rel = true ∧ s.remoteAhead b.uid g.gid u = false)

/-- By MMODE an atomic enters the store queue (relaxed or release), where a non-ordering one may pass every item to another location, is delayed (quantum), or enters an empty queue as an acquire, with a pending result for the old words. Performing one gives the old word to its pending result and writes the word that its operation forms (sum, minimum, maximum, AND, OR, XOR, exchange, compare and swap, floating sum under RNE), and no other byte; an unavailable speculative one writes nothing and clears p6; an acquire beyond block scope then drops the L1. -/
def Obligations.AtomicsReadThenWriteOneWord : Prop :=
  (∀ (a : AddrRef) (b : Src) (s : State),
    (∀ d : BitVec 7,
      (Completes (.aadd d a b) s fun x t => AtomicEnds (.aadd d a b) s x 0 (some d.toNat) a b t) ∧
      (Completes (.amin d a b) s fun x t => AtomicEnds (.amin d a b) s x 1 (some d.toNat) a b t) ∧
      (Completes (.amax d a b) s fun x t => AtomicEnds (.amax d a b) s x 2 (some d.toNat) a b t) ∧
      (Completes (.aand d a b) s fun x t => AtomicEnds (.aand d a b) s x 3 (some d.toNat) a b t) ∧
      (Completes (.aor d a b) s fun x t => AtomicEnds (.aor d a b) s x 4 (some d.toNat) a b t) ∧
      (Completes (.axor d a b) s fun x t => AtomicEnds (.axor d a b) s x 5 (some d.toNat) a b t) ∧
      (Completes (.axchg d a b) s fun x t => AtomicEnds (.axchg d a b) s x 6 (some d.toNat) a b t) ∧
      (Completes (.acas d a b) s fun x t => AtomicEnds (.acas d a b) s x 7 (some d.toNat) a b t) ∧
      (Completes (.afadd d a b) s fun x t => AtomicEnds (.afadd d a b) s x 8 (some d.toNat) a b t)) ∧
    (Completes (.radd a b) s fun x t => AtomicEnds (.radd a b) s x 9 none a b t) ∧
    (Completes (.rmin a b) s fun x t => AtomicEnds (.rmin a b) s x 10 none a b t) ∧
    (Completes (.rmax a b) s fun x t => AtomicEnds (.rmax a b) s x 11 none a b t) ∧
    (Completes (.rfadd a b) s fun x t => AtomicEnds (.rfadd a b) s x 12 none a b t)) ∧
  (∀ (s : State) (stk core pa op : Nat) (mode : BitVec 16) (b d : Word),
    let old := BitVec.ofNat 32 (s.readNat pa 4)
    (s.atomic stk core (.glb pa) op mode b d).1 = old ∧
    ∀ q, Sparse.get (s.atomic stk core (.glb pa) op mode b d).2.mem q =
      if pa ≤ q ∧ q < pa + 4 then nth 0 (leBytes 4 (atomNew op mode old b d).toNat) (q - pa) else Sparse.get s.mem q) ∧
  (∀ (mode : BitVec 16) (old b d : Word),
    atomNew 3 mode old b d = old &&& b ∧ atomNew 4 mode old b d = old ||| b ∧ atomNew 5 mode old b d = old ^^^ b ∧
    atomNew 6 mode old b d = b ∧ (atomNew 7 mode old b d = if old = d then b else old) ∧
    (∀ k < etCount (etOf mode),
      elemCode (etWidth (etOf mode)) (atomNew 0 mode old b d) k =
        (elemCode (etWidth (etOf mode)) old k + elemCode (etWidth (etOf mode)) b k) % 2 ^ etWidth (etOf mode) ∧
      elemInt (etOf mode) (atomNew 1 mode old b d) k = min (elemInt (etOf mode) old k) (elemInt (etOf mode) b k) ∧
      elemInt (etOf mode) (atomNew 2 mode old b d) k = max (elemInt (etOf mode) old k) (elemInt (etOf mode) b k) ∧
      ∀ f, etFmt (etOf mode) = some f →
        let r := { roundingOf mode with rm := 0 }
        elemCode (etWidth (etOf mode)) (atomNew 8 mode old b d) k = f.enc r 0 (Val.add 0
          (f.operand r.ftz (elemCode (etWidth (etOf mode)) old k)) (f.operand r.ftz (elemCode (etWidth (etOf mode)) b k))) % 2 ^ etWidth (etOf mode)) ∧
    atomNew 9 mode old b d = atomNew 0 mode old b d ∧ atomNew 10 mode old b d = atomNew 1 mode old b d ∧
    atomNew 11 mode old b d = atomNew 2 mode old b d ∧ atomNew 12 mode old b d = atomNew 8 mode old b d) ∧
  (∀ (s : State) (u n stk core ins op rel use lane : Nat) (t : AtomTarget) (mode : BitVec 16) (b d : Word) (id key : Option Nat),
    let done := s.performAtom u n stk core (.atom ins t op mode b d rel use id key lane)
    (use ≠ 4 ∨ s.available t = true → done.mem = (s.atomic stk core t op mode b d).2.mem) ∧
    (use = 4 → s.available t = false → done.mem = s.mem) ∧
    (∀ pa y, use = 6 → t = .glb pa → s.block? u = some y → (done.core y.stk y.core).l1 = [])) ∧
  (∀ (q : List StoreOp) (ins op rel lane : Nat) (t : AtomTarget) (mode : BitVec 16) (b d : Word) (id key : Option Nat),
    (∀ e ∈ q, e.isFence = false ∧ e.acquires = false ∧ (StoreOp.atom ins t op mode b d rel 2 id key lane).meets e = false) →
    q.all (StoreOp.atom ins t op mode b d rel 2 id key lane).passes = true) ∧
  (∀ (g : Group) (p : Pend) (lane : Nat) (key : Option Nat) (spec ok : Bool) (old : Word), p ∈ g.pend → p.kind = .atomic →
    ∃ p' ∈ (g.atomDone (some p.id) key lane spec ok old).pend, p'.id = p.id ∧ p'.todo = p.todo - 1 ∧
      (∀ k, key = some k → ok = true → p'.vw = p.vw ++ [(k, old)]) ∧ (key = none ∨ ok = false → p'.vw = p.vw) ∧
      (spec = true → lane < 32 → (p'.p6set.getLsbD lane = (ok || p.p6set.getLsbD lane) ∧ p'.p6clr.getLsbD lane = (!ok || p.p6clr.getLsbD lane))))

/-- A relaxed fence only advances; an acquire waits for earlier atomics and drops the L1 at cluster scope or wider; a release enters the store queue; acquire-release waits until the queue is empty, from cluster scope up until no store of the core is in transit (log entry 110), at system scope until the puts are acknowledged that happen before it (log entry 127), and while a store that a subscription mirrors is half performed (log entry 128). fencei waits for the group's stores to land. pref checks space and range and changes no register and no memory; it waits behind a store to the same slice. Stated for a group without delayed reductions. -/
def Obligations.FencesOrderTheGroupsAccesses : Prop :=
  (∀ (a : Src) (sp : Space) (k : BitVec 5) (s : State), Completes (.pref a sp k) s fun x t =>
    let l := x.lanes.map (x.ea sp a 64 k)
    (∀ f, ((access1 kindR l).orElse fun _ => x.access3 1 l) = some f → t = x.s.takeTrap x.c f) ∧
    (((access1 kindR l).orElse fun _ => x.access3 1 l) = none →
      (∀ y ∈ l, y.sp = some .glb → x.checkGlb kindR y ≠ .miss) →
      (∀ y ∈ l, y.sp = some .glb → ∀ pa, x.checkGlb kindR y = .ok pa → x.behindStore (.glb pa) = false) →
      OnlyBlocksAndCores s t ∧ OneGroup x.c.blk x.c.gid s t (Retired (.pref a sp k) x id Advanced))) ∧
  (∀ s : State, Completes .fence s fun x t => x.g.quantum = [] →
    (x.ord = 0 → Does .fence s x id t) ∧
    (x.ord = 1 → x.g.stq.any StoreOp.isAtom = true → t.mem = s.mem ∧ t.cores = s.cores ∧
      ∃ g', t.group? x.c.blk x.c.gid = some g' ∧ g'.split? x.c.age = some x.p) ∧
    (x.ord = 1 → x.g.stq.any StoreOp.isAtom = false →
      OnlyBlocksAndCores s t ∧ OneGroup x.c.blk x.c.gid (x.heard s) t (Retired .fence x id Advanced) ∧
      (1 ≤ x.scope → (t.core x.b.stk x.b.core).l1 = [])) ∧
    (x.ord = 2 → Does .fence s x (fun g => { g with stq := g.stq ++ [.fence x.relLevel] }) t) ∧
    (x.ord = 3 → x.g.stq ≠ [] ∨ (1 ≤ x.scope ∧ x.s.coreTransit x.b = true) ∨ (x.scope = 3 ∧ (x.g.puts ≠ [] ∨ ∃ q ∈ x.g.heard, x.s.outstanding q = true)) ∨
      x.s.midWrite x.c.blk = true → t.mem = s.mem ∧ t.cores = s.cores ∧
      ∃ g', t.group? x.c.blk x.c.gid = some g' ∧ g'.split? x.c.age = some x.p) ∧
    (x.ord = 3 → x.g.stq = [] → (1 ≤ x.scope → x.s.coreTransit x.b = false) → (x.scope = 3 → x.g.puts = [] ∧
      ∀ q ∈ x.g.heard, x.s.outstanding q = false) → x.s.midWrite x.c.blk = false → t.mem = s.mem ∧
      (1 ≤ x.scope → (t.core x.b.stk x.b.core).l1 = []) ∧
      ∃ g' p', t.group? x.c.blk x.c.gid = some g' ∧ g'.split? x.c.age = some p' ∧ p'.pc = x.p.pc + 4)) ∧
  (∀ s : State, Completes .fencei s fun x t =>
    (x.g.stq ≠ [] ∨ x.s.inTransit x.g.ctxid = true → t = x.s) ∧
    (x.g.stq = [] → x.s.inTransit x.g.ctxid = false → Does .fencei s x (fun g => { g with fetched := [] }) t))

/-- lock on a word the group already holds raises LOCK-STATE; on a word another group holds its split sleeps last in the lock's list; on a free one the group becomes its owner, as an acquire, and the L1 is dropped. With the slice's table full its split sleeps on the table-space list, once; a group ahead on that list that may issue is let go first (log entry 129). unlock by another group raises LOCK-STATE; by the owner it waits until its store queue is empty and no store of its core is in transit (log entry 110), then the first waiter owns the lock and goes on past its lock, or the entry frees. Stated for a package of four stacks. -/
def Obligations.LocksPassInOrder : Prop :=
  ∀ (a : BitVec 6) (s : State), s.shapely →
    (Completes (.lock a) s fun x t => x.b.stk < 4 →
      AccessEnds x (x.accessTagWith false kindRW 4 (fun sp => decide (sp = .glb)) (x.rds a)) t fun ps => ∀ l pa r, ps = (l, .glb pa) :: r →
        let k := x.s.stack x.b.stk
        let me := (x.c.blk, x.c.gid, x.c.age)
        let sl := x.s.sliceOf x.l.part x.b.stk pa
        (∀ e, k.lockOn pa = some e → e.owner = x.g.ctxid →
          t = x.s.takeTrap x.c ⟨0x1F, (x.rds a).toNat % 2 ^ 57, none⟩) ∧
        (x.s.lockAhead x.b.stk sl me = true → (∀ e, k.lockOn pa = some e → e.owner ≠ x.g.ctxid) → t = x.s) ∧
        (∀ e, k.lockOn pa = some e → e.owner ≠ x.g.ctxid → x.s.lockAhead x.b.stk sl me = false → k.lockWaiters e.slice < 4096 →
          (∃ e', (t.stack x.b.stk).lockOn pa = some e' ∧ e'.owner = e.owner ∧ e'.waiters = e.waiters ++ [me]) ∧ t.mem = s.mem ∧
          OneGroup x.c.blk x.c.gid s t fun g g' => OnlySplit x.c.age g g' (Waits (.lock pa))) ∧
        (k.lockOn pa = none → x.s.lockAhead x.b.stk sl me = false → k.lockEntries sl < 256 →
          (∃ e', (t.stack x.b.stk).lockOn pa = some e' ∧ e'.owner = x.g.ctxid ∧ e'.waiters = []) ∧ t.mem = s.mem ∧
          (t.core x.b.stk x.b.core).l1 = [] ∧
          OneGroup x.c.blk x.c.gid (s.hear x.c.blk x.c.gid 2) t (Retired (.lock a) x id Advanced)) ∧
        (((∃ e, k.lockOn pa = some e ∧ e.owner ≠ x.g.ctxid ∧ 4096 ≤ k.lockWaiters e.slice) ∨ (k.lockOn pa = none ∧ 256 ≤ k.lockEntries sl)) →
          x.s.lockAhead x.b.stk sl me = false →
          (t.stack x.b.stk).lockSpace = (if ∃ w ∈ k.lockSpace, w.2 = me then k.lockSpace else k.lockSpace ++ [(sl, me)]) ∧ t.mem = s.mem ∧
          OneGroup x.c.blk x.c.gid s t fun g g' => OnlySplit x.c.age g g' (Waits (.lock pa)))) ∧
    (Completes (.unlock a) s fun x t => x.b.stk < 4 →
      AccessEnds x (x.accessTagWith false kindRW 4 (fun sp => decide (sp = .glb)) (x.rds a)) t fun ps => ∀ l pa r, ps = (l, .glb pa) :: r →
        let k := x.s.stack x.b.stk
        ((∀ e, k.lockOn pa = some e → e.owner ≠ x.g.ctxid) →
          t = x.s.takeTrap x.c ⟨0x1F, (x.rds a).toNat % 2 ^ 57, none⟩) ∧
        (∀ e, k.lockOn pa = some e → e.owner = x.g.ctxid → x.Clear → t.mem = s.mem ∧
          (∃ g' p', t.group? x.c.blk x.c.gid = some g' ∧ g'.split? x.c.age = some p' ∧ p'.pc = x.p.pc + 4) ∧
          (e.waiters = [] → e ∉ (t.stack x.b.stk).locks) ∧
          ∀ u n q more, e.waiters = (u, n, q) :: more → ∃ e' ∈ (t.stack x.b.stk).locks, e'.pa = e.pa ∧ e'.waiters = more ∧
            ∀ g, x.s.group? u n = some g → e'.owner = g.ctxid ∧ ∀ p, g.split? q = some p →
              ∃ g' p', t.group? u n = some g' ∧ g'.split? q = some p' ∧ p'.pc = p.pc + 4 ∧ p'.wait = .none) ∧
        (∀ e, k.lockOn pa = some e → e.owner = x.g.ctxid → x.g.quantum = [] → x.g.stq ≠ [] ∨ x.s.coreTransit x.b = true → t.mem = s.mem ∧
          ∃ g', t.group? x.c.blk x.c.gid = some g' ∧ g'.split? x.c.age = some x.p))

/-- copy raises ILLEGAL-OPERAND, MISALIGNED or COPY-SLICE by its operands, else it waits for its group's stores and supplies its slice; the split waits until every expected group has supplied one. Then the slices must cover the copy exactly once (the lowest bad byte is reported), the ranges pass, and the copy joins the open batch: each supplier gets CBSEQ and goes on; or every supplier takes the fault. copym checks its operands and masks and joins one multicast to the batch. Ranges are cut into pieces of one 32-byte sector. By log 110 both also wait for the core's stores in transit, where R272 asks for the group's own; by log 120 a check that needs a walk waits while the front link of its stack carries nothing. -/
def Obligations.CopiesStartWhenEverySliceIsIn : Prop :=
  (∀ (d : BitVec 6) (a b : BitVec 5) (s : State),
    let i := Instr.copy d a b
    let gathered := fun x : Ctx => x.b.gather ++ [x.copySlice d a b]
    let joined := fun x : Ctx => (x.waitAs .copy).updBlock x.c.blk fun b => { b with gather := [], expect := [] }
    let last := fun x : Ctx => (x.waitAs .copy).updBlock x.c.blk fun b => { b with gather := gathered x, expect := x.expects }
    let walks := fun x : Ctx => ∃ b1, (last x).block? x.c.blk = some b1 ∧ (last x).copyWaits b1 (gathered x) = true
    let all := fun x : Ctx => x.Supplies d a b ∧ ∀ g ∈ x.expects, ∃ z ∈ gathered x, z.gid = g
    (Completes i s fun x t =>
      let y := x.copySlice d a b
      let reserved := 0xFFFFFFF0 < y.len ∨ field (x.rdn (2 * b.toNat)) 63 49 ≠ 0
      (reserved → t = x.s.takeTrap x.c (x.illegalOperand i)) ∧
      (¬ reserved → ∀ v r, y.odd = v :: r → t = x.s.takeTrap x.c ⟨0x07, v, none⟩) ∧
      (¬ reserved → y.odd = [] → x.g.attached = false → t = x.s.takeTrap x.c ⟨0x20, 0xFFFFFFFF, none⟩) ∧
      (¬ reserved → y.odd = [] → x.g.attached = true → x.g.quantum = [] →
        (x.g.stq ≠ [] ∨ x.s.coreTransit x.b = true → t = x.s) ∧ (x.Clear → x.WaitsOut → Sleeps s x .copy t)) ∧
      (all x → ¬ walks x → ∀ f, ((joined x).startCopy x.c.blk (gathered x)).1 = .error f →
        t = ((gathered x).foldl (fun (s : State) (z : Slice) => s.takeTrap ⟨x.c.blk, z.gid, z.age⟩ f)
          ((joined x).startCopy x.c.blk (gathered x)).2).retryCopies x.c.blk (gathered x))) ∧
    (CompletesIf i s (fun x => x.Supplies d a b ∧ ((∃ g ∈ x.expects, ∀ z ∈ gathered x, z.gid ≠ g) ∨ walks x)) fun x t =>
      OnlyBlock x.c.blk s t fun b b' => (∃ l, b' = { b with gather := gathered x, expect := x.expects, groups := l }) ∧
        OnlyGroupOf x.c.gid { b with gather := b'.gather, expect := b'.expect } b' fun g g' => KeepsAllButSplits g g' ∧
          OnlySplit x.c.age g g' (Waits .copy)) ∧
    (CompletesIf i s (fun x => all x ∧ ¬ walks x ∧ ((joined x).startCopy x.c.blk (gathered x)).1 = .ok ()) fun x t =>
      let y := x.copySlice d a b
      ∃ b' g' p', t.block? x.c.blk = some b' ∧ b'.gather = [] ∧ b'.expect = [] ∧
        b'.cbopen = true ∧ (y.len = 0 → x.b.gather = [] → b'.copies = x.b.copies) ∧
        (x.b.gather = [] → y.len ≠ 0 → ∃ op : CopyOp, b'.copies = x.b.copies ++ [op] ∧ op.batch = x.b.cbseq ∧
          op.bar = if y.bar then some (16 * y.boff) else none) ∧
        b'.group? x.c.gid = some g' ∧ (d ≠ 0 → g'.sreg d.toNat = BitVec.ofNat 64 x.b.cbseq) ∧
        g'.split? x.c.age = some p' ∧ p'.pc = x.p.pc + 4 ∧ p'.wait = .none)) ∧
  (∀ (d : BitVec 6) (a b : BitVec 5) (s : State),
    let i := Instr.copym d a b
    let dst := fun x : Ctx => x.rdn (2 * a.toNat)
    let src := fun x : Ctx => x.rdn (2 * a.toNat + 1)
    let b0 := fun x : Ctx => x.rdn (2 * b.toNat)
    let b1 := fun x : Ctx => x.rdn (2 * b.toNat + 1)
    let len := fun x : Ctx => field (b0 x) 31 0
    let mask := fun x : Ctx => field (b1 x) 23 0
    let reserved := fun x : Ctx => 0xFFFFFFF0 < len x ∨ field (b0 x) 63 49 ≠ 0 ∨ field (b1 x) 31 27 ≠ 0 ∨ field (b1 x) 63 32 ≠ 0
    let odd := fun x : Ctx => [plainOf (dst x), plainOf (src x), len x].filter fun v => decide (v % 4 ≠ 0)
    let walks := fun x : Ctx => walkWaits (x.s.engineRange x.b (src x) (len x) false).2.1
    let fails := fun x : Ctx => firstFail ((x.s.engineRange x.b (src x) (len x) false).2.1 ++ x.s.multicastRange x.b (dst x) (len x))
    let number := fun (x : Ctx) (g : Group) => g.setS d.toNat (BitVec.ofNat 64 x.b.cbseq)
    let legal := fun x : Ctx => ¬ reserved x ∧ odd x = [] ∧ x.maskAllowed (mask x) = true
    (Completes i s fun x t =>
      (reserved x → t = x.s.takeTrap x.c (x.illegalOperand i)) ∧
      (¬ reserved x → ∀ v r, odd x = v :: r → t = x.s.takeTrap x.c ⟨0x07, v, none⟩) ∧
      (¬ reserved x → odd x = [] → x.maskAllowed (mask x) = false → t = x.s.takeTrap x.c ⟨0x18, mask x, none⟩) ∧
      (legal x → mask x ≠ 0 → x.g.quantum = [] → x.g.stq ≠ [] ∨ x.s.coreTransit x.b = true → t = x.s) ∧
      (legal x → mask x ≠ 0 → x.Clear → walks x = true → t = x.s) ∧
      (legal x → mask x ≠ 0 → x.Clear → walks x = false → ∀ f, fails x = some f → t = x.s.takeTrap x.c f)) ∧
    (CompletesIf i s (fun x => legal x ∧ mask x = 0) fun x t =>
      Ends i x (s.updBlock x.c.blk fun b => { b with cbopen := true }) (number x) t) ∧
    (CompletesIf i s (fun x => legal x ∧ mask x ≠ 0 ∧ x.Clear ∧ fails x = none) fun x t =>
      ∃ b' g' p', t.block? x.c.blk = some b' ∧ b'.cbopen = true ∧ (len x = 0 → b'.copies = x.b.copies) ∧
        (len x ≠ 0 → ∃ op : CopyOp, b'.copies = x.b.copies ++ [op] ∧ op.batch = x.b.cbseq ∧ op.rank = field (b1 x) 26 24 ∧
          (∀ k, k ∈ op.clusters ↔ k < 24 ∧ bitOf (mask x) k = true)) ∧
        b'.group? x.c.gid = some g' ∧ (d ≠ 0 → g'.sreg d.toNat = BitVec.ofNat 64 x.b.cbseq) ∧
        g'.split? x.c.age = some p' ∧ p'.pc = x.p.pc + 4)) ∧
  (∀ (len : Nat) (l : List (Nat × Nat)),
    let covered := fun o => (l.filter fun z => decide (z.1 ≤ o ∧ o < z.1 + z.2)).length
    let right := fun o => if o < len then covered o = 1 else covered o = 0
    (sliceHole len l = none ↔ ∀ o, right o) ∧ ∀ o, sliceHole len l = some o → ¬ right o ∧ ∀ q < o, right q) ∧
  (∀ a n o : Nat, a ≤ o → o < a + n →
    (∃ q ∈ sectorsOf a n, q.1 ≤ o ∧ o < q.1 + q.2) ∧ ∀ q ∈ sectorsOf a n, a ≤ q.1 ∧ q.1 + q.2 ≤ a + n ∧ 0 < q.2 ∧
      q.1 / 32 = (q.1 + q.2 - 1) / 32)

/-- bclose and mfence write the open batch's number, CBSEQ or MBSEQ, and close it. bwait and mwait close an open batch that holds something and wait until no more batches than rds(A) are closed and not completed. Closing steps the number by one modulo 2^32; the count of completed batches reaches the first batch with a running operation. Their return is an acquire, so that the group reads again what it has read ahead. mwait reports an uncorrectable word of a covered operation, unless the group is stopping or reductions of it must come first. mwake starts the wake of each gated sub-array and the idle count anew. -/
def Obligations.BatchesCloseAndAreAwaited : Prop :=
  (∀ (d a : BitVec 6) (s : State),
    (Completes (.bclose d) s fun x t =>
      Ends (.bclose d) x (s.closeCopyBatch x.c.blk) (fun g => g.setS d.toNat (BitVec.ofNat 64 x.b.cbseq)) t) ∧
    (Completes (.mfence d) s fun x t =>
      Ends (.mfence d) x (s.closeMatrixBatch x.c.blk) (fun g => g.setS d.toNat (BitVec.ofNat 64 x.b.mbseq)) t) ∧
    (let s1 := fun x : Ctx => if x.b.cbopen then s.closeCopyBatch x.c.blk else s;
      (CompletesIf (.bwait a) s (fun x => ∀ b1, (s1 x).block? x.c.blk = some b1 → outstanding b1.cbseq b1.cbdone ≤ (x.rds a).toNat)
        fun x t => Ends (.bwait a) x ((s1 x).hear x.c.blk x.c.gid 0) id t) ∧
      (CompletesIf (.bwait a) s (fun x => ∃ b1, (s1 x).block? x.c.blk = some b1 ∧ (x.rds a).toNat < outstanding b1.cbseq b1.cbdone)
        fun x t => SleepsAfter x (s1 x) (.batch 0 (x.rds a).toNat) t)) ∧
    (let s1 := fun x : Ctx => if x.b.mbopen then s.closeMatrixBatch x.c.blk else s;
      (CompletesIf (.mwait a) s (fun x => x.b.poisonBatches = [] ∧
          ∀ b1, (s1 x).block? x.c.blk = some b1 → outstanding b1.mbseq b1.mbdone ≤ (x.rds a).toNat)
        fun x t => Ends (.mwait a) x ((s1 x).hear x.c.blk x.c.gid 0) id t) ∧
      (CompletesIf (.mwait a) s (fun x => x.b.poisonBatches = [] ∧
          ∃ b1, (s1 x).block? x.c.blk = some b1 ∧ (x.rds a).toNat < outstanding b1.mbseq b1.mbdone)
        fun x t => SleepsAfter x (s1 x) (.batch 1 (x.rds a).toNat) t) ∧
      (CompletesIf (.mwait a) s (fun x => x.g.stopping x.p = false ∧ x.s.reductionsWait x.b x.g = false ∧
          (x.b.poisonedBatch x.c.gid (x.rds a).toNat).isSome = true)
        fun x t => ∃ g', t.group? x.c.blk x.c.gid = some g' ∧ g'.trapCause = 0x1C ∧
          ∀ e, x.b.poisonedBatch x.c.gid (x.rds a).toNat = some e → g'.trapVal = BitVec.ofNat 64 e.2.2)) ∧
    (Completes .mwake s fun x t => OnlyBlocksAndCores s t ∧ OneGroup x.c.blk x.c.gid s t (Retired .mwake x id Advanced) ∧
      (t.core x.b.stk x.b.core).idle = x.now ∧
      ∀ k y, Assoc.get? (s.core x.b.stk x.b.core).subs k = some y →
        Assoc.get? (t.core x.b.stk x.b.core).subs k = some (if y.gated then
          { gated := false, wake := some (x.now + (s.core x.b.stk x.b.core).mwakelat.toNat) } else y))) ∧
  (∀ (s : State) (u : Nat) (b : Block), s.block? u = some b →
    (∃ b', (s.closeCopyBatch u).block? u = some b' ∧ b'.cbseq = (b.cbseq + 1) % 2 ^ 32 ∧ b'.cbopen = false ∧ b'.copies = b.copies ∧
      (b.cbseq < 2 ^ 32 → b.cbdone < 2 ^ 32 → b'.cbdone = b'.cbseq ∨ ∃ c ∈ b'.copies, c.batch = b'.cbdone)) ∧
    (∃ b', (s.closeMatrixBatch u).block? u = some b' ∧ b'.mbseq = (b.mbseq + 1) % 2 ^ 32 ∧ b'.mbopen = false ∧ b'.matops = b.matops ∧
      (b.mbseq < 2 ^ 32 → b.mbdone < 2 ^ 32 → b'.mbdone = b'.mbseq ∨ ∃ c ∈ b'.matops, c.batch = b'.mbdone)))

/-- On a word of the block's S that passes the checks: barinit writes it, bararr adds sectors and arrives and returns the phase, barexp adds sectors, remarr sends an arrival, barcont arms a continuation and ends its guarded lanes, barwait and bartry test the phase (d from 1 to 8 is complete, 0 pending, above 8 BAR-STATE). A return is an acquire, at cluster scope where an arrival of another core counted. Sums beyond the field, a second arrival of a member, or another continuation raise BAR-STATE. remarr also reaches a barrier of a saved block of the cluster. bsync arrives at the block barrier and waits until its phase completes; it waits while its stores are queued or another store to a mirrored S is half made (log 128). With its guard in no lane barcont makes the checks of its operands and address only (log 133); BAR-STATE of bsync leaves TRAPVAL open. The end of a barcont that leaves lanes in a group outside membership is stated for a block without a gathering copy or a joint operation that waits. remarr waits for the core's stores in transit (log 110). -/
def Obligations.BarrierInstructionsMakeOneEvent : Prop :=
  (∀ (d a b : BitVec 6) (s : State) (off : Nat),
    let n := fun x : Ctx => (x.rds b).toNat
    let w := fun x : Ctx => x.s.readBar x.b off
    (let first := fun x : Ctx => initBar (n x) x.b.attachedCount
      let badPlace := fun x : Ctx => bitOf (n x) 16 = true ∧ (off % 32 ≠ 0 ∨ 256 ≤ off ∨ x.b.sSize < off + 32);
      (Completes (.barinit a b) s fun x t => x.Barrier a off →
        (2 ^ 17 ≤ n x → t = x.s.takeTrap x.c (x.illegalOperand (.barinit a b))) ∧
        (n x < 2 ^ 17 → badPlace x → t = x.s.takeTrap x.c (barState off))) ∧
      (CompletesIf (.barinit a b) s (fun x => x.Barrier a off ∧ n x < 2 ^ 17 ∧ ¬ badPlace x) fun x t =>
        (first x).exp = (if bitOf (n x) 16 then x.b.attachedCount else n x % 2 ^ 16) ∧ (first x).pa = (first x).exp ∧
        (first x).ph = 0 ∧ (first x).ps = 0 ∧ Ends (.barinit a b) x (s.barEvent x.c.blk off (fun _ => first x) fun _ => false) id t)) ∧
    (let twice := fun x : Ctx => (w x).mb = true ∧ x.g.attached = true ∧ (w x).arr.testBit x.c.gid = true;
      (Completes (.bararr d a b) s fun x t => x.Barrier a off →
        (2 ^ 32 ≤ n x → t = x.s.takeTrap x.c (x.illegalOperand (.bararr d a b))) ∧
        (n x < 2 ^ 32 → 2 ^ 32 ≤ (w x).ps + n x ∨ twice x → t = x.s.takeTrap x.c (barState off))) ∧
      (CompletesIf (.bararr d a b) s (fun x => x.Barrier a off ∧ n x < 2 ^ 32 ∧ (w x).ps + n x < 2 ^ 32 ∧ ¬ twice x) fun x t =>
        Ends (.bararr d a b) x (s.barEvent x.c.blk off (fun t => Bar.arrive { t with ps := t.ps + n x }
            (if (w x).mb && x.g.attached then some x.c.gid else none)) fun t => t.pa == 0)
          (fun g => g.setS d.toNat (BitVec.ofNat 64 (w x).ph)) t)) ∧
    (Completes (.barexp a b) s fun x t => x.Barrier a off →
      (2 ^ 32 ≤ n x → t = x.s.takeTrap x.c (x.illegalOperand (.barexp a b))) ∧
      (n x < 2 ^ 32 → 2 ^ 32 ≤ (w x).ps + n x → t = x.s.takeTrap x.c (barState off))) ∧
    (CompletesIf (.barexp a b) s (fun x => x.Barrier a off ∧ n x < 2 ^ 32 ∧ (w x).ps + n x < 2 ^ 32) fun x t =>
      Ends (.barexp a b) x (s.barEvent x.c.blk off (fun t => { t with ps := t.ps + n x }) fun _ => false) id t) ∧
    (∀ (u o : Nat) (y : Block), s.block? u = some y →
      let place := fun x : Ctx => x.accessTag kindRW 16 (fun sp => decide (sp = .scr) || decide (sp = .clu)) (x.rds a)
      let at_ := fun x : Ctx => (x.savedBar (x.rds a) = none ∧ ∃ k sp l, place x = .ok ((k, .buf u sp o) :: l)) ∨
        ∃ z, x.savedBar (x.rds a) = some (z, o) ∧ z.uid = u ∧ o + 16 ≤ z.sSize;
      (Completes (.remarr a b) s fun x t =>
        (2 ^ 32 ≤ n x → t = x.s.takeTrap x.c (x.illegalOperand (.remarr a b))) ∧
        (n x < 2 ^ 32 → x.savedBar (x.rds a) = none → ∀ f, place x = .trap f → t = x.s.takeTrap x.c f) ∧
        (n x < 2 ^ 32 → ∀ z q, x.savedBar (x.rds a) = some (z, q) → z.sSize < q + 16 →
          t = x.s.takeTrap x.c ⟨0x08, (LaneAddr.ofTag 0 (x.rds a)).tag, none⟩) ∧
        (n x < 2 ^ 32 → at_ x → x.Clear → 2 ^ 32 ≤ (s.readBar y o).ps + n x → t = x.s.takeTrap x.c ⟨0x13, (x.rds a).toNat, none⟩)) ∧
      (CompletesIf (.remarr a b) s (fun x => n x < 2 ^ 32 ∧ at_ x ∧ x.Clear ∧ (s.readBar y o).ps + n x < 2 ^ 32) fun x t =>
        Ends (.remarr a b) x { s with remote := s.remote ++ [{ src := (x.c.blk, x.c.gid), blk := u, off := o, n := n x }] } id t)) ∧
    (let passed := fun x : Ctx => ((w x).ph + 16 - n x) % 16;
      (Completes (.barwait a b) s fun x t => x.Barrier a off →
        (16 ≤ n x → t = x.s.takeTrap x.c (x.illegalOperand (.barwait a b))) ∧
        (n x < 16 → 8 < passed x → t = x.s.takeTrap x.c (barState off))) ∧
      (CompletesIf (.barwait a b) s (fun x => x.Barrier a off ∧ n x < 16 ∧ passed x ≠ 0 ∧ passed x ≤ 8) fun x t =>
        Ends (.barwait a b) x ((s.barEvent x.c.blk off id fun _ => false).acquire x.c.blk x.c.gid (x.b.phaseScope off (n x))) id t) ∧
      (CompletesIf (.barwait a b) s (fun x => x.Barrier a off ∧ n x < 16 ∧ passed x = 0 ∧ (w x).done = false) fun x t =>
        SleepsAfter x (s.barEvent x.c.blk off id fun _ => false) (.barwait off (n x)) t) ∧
      (Completes (.bartry d a b) s fun x t => x.Barrier a off →
        (16 ≤ n x → t = x.s.takeTrap x.c (x.illegalOperand (.bartry d a b))) ∧
        (n x < 16 → 8 < passed x → t = x.s.takeTrap x.c (barState off))) ∧
      (CompletesIf (.bartry d a b) s (fun x => x.Barrier a off ∧ n x < 16 ∧ passed x = 0) fun x t =>
        Ends (.bartry d a b) x (s.barEvent x.c.blk off id fun _ => false) (fun g => g.setS d.toNat 0) t) ∧
      (CompletesIf (.bartry d a b) s (fun x => x.Barrier a off ∧ n x < 16 ∧ passed x ≠ 0 ∧ passed x ≤ 8) fun x t =>
        Ends (.bartry d a b) x ((s.barEvent x.c.blk off id fun _ => false).acquire x.c.blk x.c.gid (x.b.phaseScope off (n x)))
          (fun g => g.setS d.toNat 1) t)) ∧
    (let cpc := fun x : Ctx => n x / 4 % 2 ^ 30
      let cln := fun x : Ctx => n x / 2 ^ 57 % 64
      let legal := fun x : Ctx => n x < 2 ^ 63 ∧ cln x ≠ 0 ∧ cln x ≤ 32
      let taken := fun x : Ctx => (w x).ca = true ∧ ((w x).cpc ≠ cpc x ∨ (w x).cln ≠ cln x)
      let arms := fun x : Ctx => x.Barrier a off ∧ legal x ∧ n x % 4 = 0 ∧ x.l.inText (n x % 2 ^ 57) = true;
      (Completes (.barcont a b) s fun x t =>
        (¬ legal x → t = x.s.takeTrap x.c (x.illegalOperand (.barcont a b))) ∧
        (legal x → n x % 4 ≠ 0 → t = x.s.takeTrap x.c ⟨0x07, n x % 2 ^ 57, none⟩) ∧
        (legal x → n x % 4 = 0 → x.l.inText (n x % 2 ^ 57) = false → t = x.s.takeTrap x.c (x.illegalOperand (.barcont a b))) ∧
        (arms x → x.act ≠ 0 → taken x → t = x.s.takeTrap x.c (barState off)) ∧
        (legal x → n x % 4 = 0 → x.l.inText (n x % 2 ^ 57) = true → (∃ u o, x.barAt false (x.rds a) = .ok u o) → x.act ≠ 0 →
          x.g.quantum = [] → x.g.stq ≠ [] → t = x.s)) ∧
      (CompletesIf (.barcont a b) s (fun x => arms x ∧ x.act = 0) fun x t => Writes (.barcont a b) s x {} t) ∧
      (CompletesIf (.barcont a b) s (fun x => arms x ∧ x.act ≠ 0 ∧ ¬ taken x ∧ x.g.alive &&& ~~~x.act ≠ 0 ∧
          (x.g.attached = true ∨ (x.b.gather = [] ∧ x.b.expect = [] ∧ x.b.arrivals = [])) ∧
          (x.g.handler = none ∨ ∃ q ∈ x.g.splits, q.handler = true ∧ q.mask ≠ 0 ∧ q.age ≠ x.c.age ∧ q.wait ≠ .returned)) fun x t =>
        OnlyGroup x.c.blk x.c.gid (s.barEvent x.c.blk off (Bar.arm (cpc x) (cln x)) fun _ => false) t fun g g' =>
          ∃ splits, g' = { g with splits := splits, chain := none, exited := g.exited ||| x.act }) ∧
      (CompletesIf (.barcont a b) s (fun x => arms x ∧ x.act ≠ 0 ∧ ¬ taken x ∧ x.g.alive &&& ~~~x.act = 0) fun x t =>
        t.group? x.c.blk x.c.gid = none))) ∧
  (∀ s : State,
    let alone := fun x : Ctx => x.g.quantum = [] ∧ x.g.stq = [] ∧ (∀ b ∈ s.blocks, b.subs = []) ∧ x.p.again = none
    let twice := fun x : Ctx => x.g.attached = true ∧ x.b.barView.arr.testBit x.c.gid = true
    let w := fun x : Ctx => if x.g.attached then Bar.arrive x.b.barView (some x.c.gid) else x.b.barView
    (Completes .bsync s fun x t => x.g.quantum = [] →
      (x.g.stq ≠ [] → t = x.s) ∧ (x.g.stq = [] → x.s.midWrite x.c.blk = true → t = x.s)) ∧
    (CompletesIf .bsync s (fun x => alone x ∧ twice x ∧ x.g.stopping x.p = false) fun x t =>
      ∃ g', t.group? x.c.blk x.c.gid = some g' ∧ g'.trapCause = 0x13) ∧
    (CompletesIf .bsync s (fun x => alone x ∧ ¬ twice x ∧ (w x).pa ≠ 0) fun x t =>
      OnlyBlock x.c.blk s t fun b b' => (∃ l, b' = { b with bar := (w x).blockWord, groups := l }) ∧
        OnlyGroupOf x.c.gid { b with bar := b'.bar } b' fun g g' => KeepsAllButSplits g g' ∧
          OnlySplit x.c.age g g' (Waits (.bsync x.b.barView.ph))) ∧
    (CompletesIf .bsync s (fun x => alone x ∧ x.p.stop = false ∧ ¬ twice x ∧ (w x).pa = 0) fun x t =>
      ∃ b', t.block? x.c.blk = some b' ∧
        b'.bar = ({ w x with ph := ((w x).ph + 1) % 16, pa := (w x).exp, arr := 0 } : Bar).blockWord ∧
        (∃ g' p', b'.group? x.c.gid = some g' ∧ g'.split? x.c.age = some p' ∧ p'.pc = x.p.pc + 4 ∧ p'.wait = .none) ∧
        ∀ g ∈ b'.groups, ∀ q ∈ g.splits, q.wait ≠ .bsync x.b.barView.ph))

/-- After the change, PA = 0 and PS = 0 complete the phase: PH steps modulo 16, PA becomes EXP, ARR and CA clear, and CLN with CA, an armed continuation becomes due with the old phase, and the splits that wait for that phase go on. No other byte of S changes, no other split, and nothing outside the block. A sector or arrival on a field at 0 sets OV instead. Stated for an event that does not clamp, whose record is sent elsewhere. -/
def Obligations.BarrierEventsCompletePhasesOnce : Prop :=
  (∀ (s : State) (u off : Nat) (f : Bar → Bar) (clamps : Bar → Bool) (b : Block), s.block? u = some b → b.place = .resident →
    let w := f (s.readBar b off)
    let t := s.barEvent u off f clamps
    w.Fits b off → clamps (s.readBar b off) = false →
    t.mem = s.mem ∧ t.cores = s.cores ∧ t.dies = s.dies ∧ t.ports = s.ports ∧ t.launches = s.launches ∧
    ∃ b', t.block? u = some b' ∧ t.readBar b' off = w.after ∧
      (∀ q, q < off ∨ off + 20 ≤ q ∨ (off + 16 ≤ q ∧ w.mb = false) → Sparse.get (b'.buf .scr) q = Sparse.get (b.buf .scr) q) ∧
      b'.conts = b.conts ++ (if w.done && w.ca then [{ boff := off, cpc := w.cpc, cln := w.cln, phase := w.ph }] else []) ∧
      b'.bar = b.bar ∧ ∀ n m, (b'.group? n).bind (·.split? m) = ((b.group? n).bind (·.split? m)).map fun p =>
        if w.done = true ∧ p.wait = .barwait off w.ph then { p with wait := .none, readyAt := s.cycle b.stk } else p) ∧
  (∀ (s : State) (b : Block) (off : Nat), off + 20 ≤ b.sSize → (s.readBar b off).Fits b off) ∧
  (∀ t : Bar, t.after = if t.pa = 0 ∧ t.ps = 0 then { t with ph := (t.ph + 1) % 16, pa := t.exp, arr := 0, ca := false, cln := if t.ca then 0 else t.cln } else t) ∧
  (∀ t : Bar, t.sector = if t.ps = 0 then { t with ov := true } else { t with ps := t.ps - 1 }) ∧
  (∀ (t : Bar) (m : Option Nat), (t.arrive m).pa = t.pa - 1 ∧ ((t.arrive m).ov = true ↔ t.ov = true ∨ t.pa = 0) ∧
    (t.arrive m).ps = t.ps ∧ (t.arrive m).exp = t.exp ∧ (t.arrive m).ph = t.ph)

/-- A solo product whose tiles pass the checks starts its operation and goes on; otherwise it faults. A gang member whose own A passes waits until every member has arrived; then all agree, one operation of all members starts and each goes on. The operation has a listed pair of formats, A tiles of 16 rows, B of 32 columns, K of three chunks, and the inferred result header. For i8 a result element is the accumulator plus the exact sum of the 96 products modulo 2^32. A floating element is rounded to f32 under RNE after each of the three exact chunk sums, in ascending K; a chunk with a NaN, or with infinities of both signs, gives the canonical NaN, and the example of R142 comes out. -/
def Obligations.MatrixProductsFollowTheirChunks : Prop :=
  (∀ (d : BitVec 5) (a b : TileRef) (s : State),
    ProductCompletes (.mma d a b) false d a b s ∧ ProductCompletes (.mmaz d a b) true d a b s) ∧
  (∀ (s : State) (u word : Nat) (m0 : Arrival) (rest : List Arrival) (b : Block) (g0 : Group),
    s.block? u = some b → b.group? m0.gid = some g0 → (∀ p ∈ rest, m0.agrees p = true) →
    ((m0 :: rest).map (·.gid)).Nodup → g0.dataBad m0.bArg (s.tileHeader b g0 false m0.bArg) = none →
    ∀ op, s.finishProduct b g0 word
        (match g0.split? m0.age with
          | some p => p.mask &&& (if bitOf p.mode.toNat 3 then ~~~(g0.preg (field p.mode 2 0)) else g0.preg (field p.mode 2 0))
          | none => 0) m0.z ((m0 :: rest).map fun p => (s.retake b p.a, p.aval))
        m0.bArg (pairOf m0.cpair) ((m0 :: rest).map (·.gid)) = .ok op →
      ∃ b', (s.joint u word (m0 :: rest)).block? u = some b' ∧ b'.matops = b.matops ++ [{ op with batch := b.mbseq }] ∧
        b'.mbopen = true ∧ (∀ p ∈ b'.arrivals, p ∉ m0 :: rest) ∧
        ∀ p ∈ m0 :: rest, ∀ g q, b.group? p.gid = some g → g.split? p.age = some q →
          ∃ g' q', b'.group? p.gid = some g' ∧ g'.split? p.age = some q' ∧ q'.pc = q.pc + 4 ∧ q'.wait = .none) ∧
  (∀ (s : State) (b : Block) (g0 : Group) (word : Nat) (act : LaneMask) (z : Bool) (as : List (TileSrc × Nat)) (bA : TileArg) (c : Pair)
      (gids : List Nat) (op : MatOp), as ≠ [] → s.finishProduct b g0 word act z as bA c gids = .ok op →
    c.sp = some .acc ∧ op.gids = gids ∧ op.dst = .buf .acc c.addr c.rotc ∧
    ∃ k chunk int, (∀ a ∈ as, pairInfo (hFmt a.1.hdr) (hFmt (s.tileHeader b g0 false bA)) = some (k, chunk, int) ∧
        hN a.1.hdr = 16 ∧ hK a.1.hdr = k) ∧ hN (s.tileHeader b g0 false bA) = 32 ∧ hK (s.tileHeader b g0 false bA) = k ∧ k = 3 * chunk ∧
      op.work.header = resultHeader int as.length c.rpitch ∧
      (z = false → s.tileHeader b g0 false (.buf c) = resultHeader int as.length (hPitch (s.tileHeader b g0 false (.buf c))))) ∧
  (∀ (a b k chunk : Nat) (int : Bool), pairInfo a b = some (k, chunk, int) ↔
    (a, b, k, chunk, int) ∈ [(5, 5, 192, 64, false), (3, 3, 96, 32, false), (3, 4, 96, 32, false), (3, 6, 96, 32, false), (3, 5, 96, 32, false),
      (4, 3, 96, 32, false), (4, 4, 96, 32, false), (4, 6, 96, 32, false), (4, 5, 96, 32, false), (6, 3, 96, 32, false),
      (6, 4, 96, 32, false), (6, 6, 96, 32, false), (6, 5, 96, 32, false), (5, 3, 96, 32, false), (5, 4, 96, 32, false),
      (5, 6, 96, 32, false), (1, 1, 48, 16, false), (2, 2, 48, 16, false), (7, 7, 96, 32, true)]) ∧
  (∀ (ha hb : Nat) (ia ib : List Byte) (i j c : Nat), hFmt ha = 7 → hFmt hb = 7 → hSpr ha = 0 → hSpr hb = 0 → hScl ha = 0 → hScl hb = 0 →
    let code := fun h img n k => signedOf 8 (if hOrient h then storedCode h img k n else storedCode h img n k)
    productElem ha ia hb ib 32 true i j c =
      ((Int.ofNat c + ((List.range 96).map fun k => code ha ia i k * code hb ib j k).sum) % 2 ^ 32).toNat) ∧
  (∀ (ha hb : Nat) (ia ib : List Byte) (chunk i j c : Nat),
    let sum := fun q => chunkSum ((List.range chunk).flatMap fun k => productsAt ha ia hb ib i j (q * chunk + k))
    let next := fun c q => Fmt.f32.enc { rm := 0, sat := false, ftz := false, dnan := true } 0 (Val.add 0 (Fmt.f32.dec c)
      (if hRot ha = true ∧ hRot hb = true then Val.mul (sum q) (.fin false ⟨1, 32⟩) else sum q))
    productElem ha ia hb ib chunk false i j c = next (next (next c 0) 1) 2) ∧
  (∀ l : List Val,
    let infinite := fun s => Val.inf s ∈ l
    ((∃ n, Val.nan n ∈ l) → chunkSum l = .nan 0x7FC00000) ∧
    ((∀ n, Val.nan n ∉ l) → infinite true → infinite false → chunkSum l = .nan 0x7FC00000) ∧
    (∀ s, (∀ n, Val.nan n ∉ l) → infinite s → ¬ infinite (!s) → chunkSum l = .inf s) ∧
    ∀ m : List (Bool × Q), l = m.map (fun y => .fin y.1 y.2) → (∀ y ∈ m, 0 < y.2.den) →
      ∃ q, chunkSum l = .fin (decide (q.num < 0)) q ∧ 0 < q.den ∧ q.value = (m.map fun y => y.2.value).sum) ∧
  (let add := fun c v => Fmt.f32.enc matRounding 0 (Val.add 0 (Fmt.f32.dec c) (.fin false v));
    add (add (add 0x4B800000 ⟨3, 2⟩) ⟨3, 4⟩) ⟨3, 4⟩ = 0x4B800001)

/-- After its checks tld makes the image, its rotation undone, a pending result in registers from vD up; tst puts the rotated image into the store queue; thdr writes the sealed header into lanes 0 to 3 of vD and 0 elsewhere; tchk writes cause and reason of the first failing step to sD, the lane condition before any. The producers check source and template and start one matrix operation for a buffer or registers. Undoing a rotation that permutes the image gives the image. hadq is stated for a seed lookup that changes no cache. The image of a produced tile has the header, each element's code and each scale in its place, and 0 between its parts; codes and scales follow R143 and the tables of R293 to R297, hadq rotating each block of 32 first. By log 45 thdr needs no lanes; by log 38 the producers check pairs, registers, source header, template header, R292, then their own rules. -/
def Obligations.TilesMoveBetweenRegistersAndBuffers : Prop :=
  (∀ (d : BitVec 7) (a : BitVec 5) (s : State),
    let i := Instr.tld d a
    let p := fun x : Ctx => pairOf (x.g.pairVal a.toNat)
    let h := fun x : Ctx => x.s.tileHeader x.b x.g true (.buf (p x))
    let place : Ctx → Loc := fun x => .buf x.c.blk ((p x).sp.getD .scr) (p x).addr
    let regs := fun x : Ctx => tileRegs (h x) (.reg d.toNat)
    let open_ := fun x : Ctx => x.tldEarly i d.toNat (p x) = none ∧ x.s.lockedAt 16 (place x) = false
    (Completes i s fun x t =>
      (∀ f, x.tldEarly i d.toNat (p x) = some f → t = x.s.takeTrap x.c f) ∧
      (open_ x → ∀ f, x.tldFail d.toNat (p x) = some f → t = x.s.takeTrap x.c f)) ∧
    (CompletesIf i s (fun x => x.tldEarly i d.toNat (p x) = none ∧ x.s.lockedAt 16 (place x) = true) fun x t => Sleeps s x .cInterlock t) ∧
    (CompletesIf i s (fun x => open_ x ∧ x.tldFail d.toNat (p x) = none ∧ x.g.pendingOn (regs x) [] false = true) fun x t =>
      Sleeps s x (.operand (regs x) [] false) t) ∧
    (let free := fun x : Ctx => open_ x ∧ x.tldFail d.toNat (p x) = none ∧ x.g.pendingOn (regs x) [] false = false;
      Completes i s fun x t => free x →
        (x.hold (hExtent (h x)) [(0, place x)] = .interlock → Sleeps s x .cInterlock t) ∧
        (x.hold (hExtent (h x)) [(0, place x)] = .stall → t = x.stalled x.s) ∧
        (x.hold (hExtent (h x)) [(0, place x)] = .go → ∀ f, x.s.imagePoison x.b (p x) (h x) = some f → t = x.s.takeTrap x.c f)) ∧
    (CompletesIf i s (fun x => open_ x ∧ x.tldFail d.toNat (p x) = none ∧ x.g.pendingOn (regs x) [] false = false ∧
        x.hold (hExtent (h x)) [(0, place x)] = .go ∧ x.s.imagePoison x.b (p x) (h x) = none ∧ x.g.quantum = [] ∧ x.g.bad = []) fun x t =>
      Does i s x (fun g => { g with pend := g.pend ++ [.arriving (regs x)
        (imageRegs d.toNat (unrotate (h x) (p x).rotc (x.loadBytes x.s (hExtent (h x)) (place x)).1))] }) t)) ∧
  (∀ (a : BitVec 5) (b : BitVec 7) (s : State),
    let i := Instr.tst a b
    let p := fun x : Ctx => pairOf (x.g.pairVal a.toNat)
    let h := fun x : Ctx => x.s.tileHeader x.b x.g true (.reg b.toNat)
    let place : Ctx → Loc := fun x => .buf x.c.blk ((p x).sp.getD .scr) (p x).addr
    let ready := fun x : Ctx => x.TileReady (.reg b.toNat) ∧ x.tstFail i (p x) b.toNat = none
    (Completes i s fun x t => x.tilePending (.reg b.toNat) = false →
      ∀ f, x.tstFail i (p x) b.toNat = some f → t = x.s.takeTrap x.c f) ∧
    (CompletesIf i s (fun x => ready x ∧ x.s.lockedAt (hExtent (h x)) (place x) = true) fun x t => Sleeps s x .cInterlock t) ∧
    (CompletesIf i s (fun x => ready x ∧ x.s.lockedAt (hExtent (h x)) (place x) = false ∧ x.g.quantum = []) fun x t =>
      let img := rotate (h x) (p x).rotc ((List.range (hExtent (h x))).map (x.g.tileByte b.toNat))
      Does i s x (fun g => { g with stq := g.stq ++ storeAll x.s.tick 0 (place x) img }) t)) ∧
  (∀ (d : BitVec 7) (a : BitVec 5) (s : State),
    let i := Instr.thdr d a
    let h := fun x : Ctx => sealHeader (x.g.pairVal a.toNat)
    (Completes i s fun x t =>
      (x.g.bound ≤ d.toNat → t = x.s.takeTrap x.c (x.regRange i)) ∧
      (d.toNat < x.g.bound → ∀ r, definedReason (h x) = some r → t = x.s.takeTrap x.c (tileTrap 0x0E r (0xFF * 2 ^ 56 + d.toNat)))) ∧
    (CompletesIf i s (fun x => d.toNat < x.g.bound ∧ definedReason (h x) = none ∧ x.g.pendingOn [d.toNat] [] false = false ∧ x.g.bad = [])
      fun x t => Does i s x (fun g => { g with v := Sparse.putAll g.v (((List.range 32).filter fun l => g.lanes.getLsbD l).map fun l =>
        (32 * d.toNat + l, if l < 4 then BitVec.ofNat 32 (h x / 2 ^ (32 * l)) else 0)) }) t)) ∧
  (∀ (d : BitVec 6) (a : TileRef) (s : State),
    let i := Instr.tchk d a
    let y := fun x : Ctx => x.g.tileArg a
    let reg := fun x : Ctx => match y x with | .reg n => [n] | .buf _ => []
    let passes := fun x : Ctx => (y x).bad = false ∧ x.b.tileStep1 vectorSource (y x) = none ∧ ∀ r ∈ reg x, r < x.g.bound
    let whole := fun x : Ctx => reg x = [] ∨ x.act = BitVec.allOnes 32
    (Completes i s fun x t =>
      ((y x).bad = true → t = x.s.takeTrap x.c (x.illegalOperand i)) ∧
      ((y x).bad = false → ∀ f, x.b.tileStep1 vectorSource (y x) = some f → t = x.s.takeTrap x.c f) ∧
      ((y x).bad = false → x.b.tileStep1 vectorSource (y x) = none → (∃ r ∈ reg x, x.g.bound ≤ r) →
        t = x.s.takeTrap x.c ⟨0x04, x.wordVal i, none⟩) ∧
      (passes x → whole x → x.g.pendingOn (reg x) [] false = false → ∀ f, x.s.headerBad x.b x.g (y x) = some f → t = x.s.takeTrap x.c f)) ∧
    (CompletesIf i s (fun x => passes x ∧ whole x ∧ x.g.pendingOn (reg x) [] false = true) fun x t => Sleeps s x (.operand (reg x) [] false) t) ∧
    (CompletesIf i s (fun x => passes x ∧ ¬ whole x ∧ ∀ r ∈ reg x, r < 128) fun x t => Writes i s x (.scal d 0x0F15) t) ∧
    (CompletesIf i s (fun x => passes x ∧ whole x ∧ x.g.pendingOn (reg x) [] false = false ∧ x.s.headerBad x.b x.g (y x) = none) fun x t =>
      Writes i s x (.scal d (BitVec.ofNat 64 (x.tchkValue (y x)))) t)) ∧
  (∀ s : State,
    (∀ a b : TileRef, ProduceCompletes (.cvtt a b) s (some a) b (fun _ => True) (fun _ => cvttFail) fun _ => .cvtt) ∧
    (∀ a b : TileRef, ProduceCompletes (.transq a b) s (some a) b (fun _ => True) (fun _ => transqFail) fun _ => .transq) ∧
    (∀ (a : BitVec 6) (b : TileRef),
      ProduceCompletes (.tfill a b) s none b (fun _ => True) (fun _ _ _ => none) fun x _ h => .tfill (x.rds a) h) ∧
    (∀ (d : BitVec 6) (a b : TileRef),
      let slot := fun x : Ctx => (x.rds d).toNat % 64
      let seed := fun x : Ctx => (x.s.seedOf x.b x.l (slot x)).1
      ProduceCompletes (.hadq d a b) s (some a) b (fun x => (x.s.seedOf x.b x.l (slot x)).2 = x.s) (fun x => hadqFail (seed x))
        fun x src h => .hadq src h ((seed x).getD 0) (slot x))) ∧
  (∀ (h rotc : Nat) (img : List Byte), (∀ o q, o < img.length → q < img.length → rotated h rotc o = rotated h rotc q → o = q) →
    (∀ o, o < img.length → rotated h rotc o < img.length) → unrotate h rotc (rotate h rotc img) = img) ∧
  (∀ (w : MatWork) (tick : Nat) (old : List Byte) (code scale : Nat → Nat → Nat),
    let h := w.header
    let img := w.image tick false TileSrc.image old
    let x : Nat → Nat → Val := match w with
      | .cvtt a _ => valAt a.hdr a.image
      | .transq a _ => fun n k => valAt a.hdr a.image k n
      | .hadq a _ seed _ => fun n k => nth (.fin false ⟨0, 1⟩) (hadamard seed (k / 32)
          ((List.range 32).map fun m => valAt a.hdr a.image n (32 * (k / 32) + m))) (k % 32)
      | _ => fun _ _ => .fin false ⟨0, 1⟩
    (match w with
      | .product .. => False
      | .tfill v _ => code = (fun _ _ => v.toNat) ∧ scale = fun _ _ => if hScl h = 1 ∨ hScl h = 3 then 0x7F else if hScl h = 2 then 0x38 else 0x3F800000
      | _ => code = resultCode h x ∧ scale = fun n k => (scaleFor h x n k).1) →
    headerFail h none (fun _ => true) = none → hSpr h = 0 →
    leNat (img.take 16) = h ∧ img.length = hExtent h ∧
    (∀ n < hN h, ∀ k < hK h, storedCode h img (if hOrient h then k else n) (if hOrient h then n else k) = code n k % 2 ^ elemBits (hFmt h)) ∧
    (∀ n < hN h, ∀ k < hK h,
      let entry := fun o size => leNat ((img.drop (16 * hSoff h + o)).take size)
      (hScl h = 1 → entry (n * scalePitch h + k / 32) 1 = scale n (32 * (k / 32)) % 256) ∧
      (hScl h = 2 → entry (n * scalePitch h + k / 16) 1 = scale n (16 * (k / 16)) % 256) ∧
      (hScl h = 3 → entry (n / 32 * scalePitch h + k) 1 = scale (32 * (n / 32)) k % 256) ∧
      (hScl h = 4 → entry 0 4 = scale 0 0 % 2 ^ 32) ∧ (hScl h = 5 → entry (4 * n) 4 = scale n 0 % 2 ^ 32)) ∧
    ∀ o < hExtent h, (∀ p ∈ tileParts h, ¬ (p.1 ≤ o ∧ o < p.1 + p.2)) → nth 0 img o = 0) ∧
  (∀ (h : Nat) (val : Nat → Nat → Val) (n k : Nat),
    (hScl h = 0 → ∀ f, tileFmt (hFmt h) = some f → resultCode h val n k = f.enc { rm := 0, sat := true, ftz := false, dnan := true } 0 (val n k)) ∧
    (hScl h = 0 → tileFmt (hFmt h) = none → resultCode h val n k = match val n k with
      | .nan _ => 0 | .inf s => clampInt true (elemBits (hFmt h)) (if s then -(2 ^ 40) else 2 ^ 40)
      | .fin _ q => clampInt true (elemBits (hFmt h)) (roundInt 0 0 q)) ∧
    ∀ f, hScl h ≠ 0 → tileFmt (hFmt h) = some f →
      let block := (blockMembers h n k).map fun y => val y.1 y.2
      let amax := blockMax block
      let scl := hScl h;
      (amax = none ↔ ∃ v ∈ block, ∀ s q, v ≠ .fin s q) ∧
      (∀ m, amax = some m → (∀ s q, Val.fin s q ∈ block → 0 < q.den) → (∀ s q, Val.fin s q ∈ block → q.abs.value ≤ m.value) ∧
        (m.num ≠ 0 → ∃ s q, Val.fin s q ∈ block ∧ q.abs.value = m.value)) ∧
      (amax = none → resultCode h val n k = 0 ∧
        (scaleFor h val n k).1 = if scl = 1 ∨ scl = 3 then 0xFF else if scl = 2 then 0x7F else 0x7FC00000) ∧
      (∀ m, amax = some m → m.num = 0 → (scaleFor h val n k).1 = if scl = 1 ∨ scl = 2 ∨ scl = 3 then 0 else 0x3F800000) ∧
      (∀ m, amax = some m → m.num ≠ 0 → scl = 1 ∨ scl = 3 →
        let e := max (-127) (min 127 (log2Floor m - fmtEmax f))
        (scaleFor h val n k).1 = (e + 127).toNat ∧
          ∀ s q, val n k = .fin s q → resultCode h val n k = f.roundFin true 0 0 s (Q.div q (Q.dyadic 1 e))) ∧
      (∀ m, amax = some m → m.num ≠ 0 → scl = 2 →
        let c := max 1 (min 0x7E (Fmt.e4m3.roundFin true 3 0 false (Q.div m (fmtMax f))))
        (scaleFor h val n k).1 = c ∧ ∀ s q, val n k = .fin s q → resultCode h val n k = f.roundFin true 0 0 s (Q.div q (Fmt.e4m3.mag c)))) ∧
  (hadSign 1 0 = 0x42021 ∧ hadSign 1 1 = 0x51296730) ∧
  (∀ (seed : Word) (q : Nat) (l : List Val), l.length = 32 →
    let round := fun v => Fmt.f32.dec (Fmt.f32.enc { rm := 0, sat := false, ftz := false, dnan := false } 0 v)
    let z := Val.fin false ⟨0, 1⟩
    (∀ h ∈ [1, 2, 4, 8, 16], ∀ m < 32, m / h % 2 = 0 →
      nth z (butterfly h l) m = round (Val.add 0 (nth z l m) (nth z l (m + h))) ∧
      nth z (butterfly h l) (m + h) = round (Val.add 0 (nth z l m) (nth z l (m + h)).neg)) ∧
    ∃ y : List Val, y.length = 32 ∧ (∀ m < 32, nth z y m = if (hadSign seed q).getLsbD m then (nth z l m).neg else nth z l m) ∧
      hadamard seed q l = butterfly 16 (butterfly 8 (butterfly 4 (butterfly 2 (butterfly 1 y)))))

/-- A handle that is not open traps with 0x14, else one without the right, kind or mode with 0x15, else one to a package that cannot be reached with 0x16. Else qrsv returns or asks for a grant, qput, qputs and emit (as releases) fill the next reserved cells with their element or ask for cells first, and qget, qtry, qgets and qpeek ask for an element or counts. Each request is one message with a number of its own, for whose answer the split waits; memory and registers stay, and the registers that an element of any size may write are pending, with sD for qgets. A put that asks for cells owes its acknowledgement from then on. By log 110 qput, qputs and emit wait for every store of the core in transit, and by log 55 a qputs that asks for cells first has read its bytes by then. -/
def Obligations.PutsAndTakesGoThroughHandles : Prop :=
  (∀ (d a b : BitVec 6) (v : BitVec 7) (s : State) (h : Nat) (hd : Handle),
    let element := fun (x : Ctx) (r : Nat) =>
      (List.range (eszBytes (x.s.eszOf hd) / 4)).flatMap fun j => leBytes 4 (x.g.vreg (r + j / 32) (j % 32)).toNat
    let held := fun (x : Ctx) (r : Nat) => (∀ y ∈ elemRegs r (eszBytes (x.s.eszOf hd)), y < x.g.bound) ∧
      x.g.pendingOn (elemRegs r (eszBytes (x.s.eszOf hd))) [] false = false ∧ x.g.bad = []
    let legal := fun x : Ctx => x.Opens (x.rds a) rightPut [0, 2, 3] false h hd ∧
      1 ≤ (x.rds b).toNat ∧ (x.rds b).toNat ≤ 32 ∧ (x.rds b).toNat % eszCells (x.s.eszOf hd) = 0
    (Completes (.qrsv d a b) s fun x t => x.Rejects (x.rds a) rightPut [0, 2, 3] false t ∧
      (x.Opens (x.rds a) rightPut [0, 2, 3] false h hd → ¬ legal x → t = x.s.takeTrap x.c (x.illegalOperand (.qrsv d a b)))) ∧
    (CompletesIf (.qrsv d a b) s (fun x => legal x ∧ hd.rcnt ≠ 0) fun x t =>
      Writes (.qrsv d a b) s x (.scal d (BitVec.ofNat 64 (hd.rseq % 2 ^ 48 + hd.rcnt * 2 ^ 56))) t) ∧
    (CompletesIf (.qrsv d a b) s (fun x => legal x ∧ hd.rcnt = 0 ∧ hd.asked = none) fun x t =>
      ∃ ret : RetTo, ret.d = d.toNat ∧ Asks s x h hd (.reserve (x.rds b).toNat ret) [] t) ∧
    (Completes (.qput a v) s fun x t => x.Rejects (x.rds a) rightPut [0, 2] false t ∧
      (x.Opens (x.rds a) rightPut [0, 2] false h hd → (∃ r ∈ elemRegs v.toNat (eszBytes (x.s.eszOf hd)), x.g.bound ≤ r) →
        t = x.s.takeTrap x.c (x.regRange (.qput a v))) ∧
      (x.Opens (x.rds a) rightPut [0, 2] false h hd → held x v.toNat → x.g.quantum = [] → x.g.stq ≠ [] ∨ x.s.coreTransit x.b = true → t = x.s)) ∧
    (CompletesIf (.qput a v) s (fun x => x.Opens (x.rds a) rightPut [0, 2] false h hd ∧ held x v.toNat ∧ x.Clear ∧ hd.rcnt ≠ 0) fun x t =>
      Puts (.qput a v) s x h 1 hd (element x v.toNat) t) ∧
    (CompletesIf (.qput a v) s (fun x => x.Opens (x.rds a) rightPut [0, 2] false h hd ∧ held x v.toNat ∧ x.Clear ∧ hd.rcnt = 0 ∧ hd.asked = none)
      fun x t => (∃ ret : RetTo, ret.data = element x v.toNat ∧ ret.op = 1 ∧
        Asks s x h hd (.reserve 0 ret) [] t) ∧ Owes s x t) ∧
    (Completes (.emit a v) s fun x t => x.Rejects (x.rds a) rightEmit [3] false t ∧
      (x.Opens (x.rds a) rightEmit [3] false h hd → (∃ r ∈ elemRegs v.toNat (eszBytes (x.s.eszOf hd)), x.g.bound ≤ r) →
        t = x.s.takeTrap x.c (x.regRange (.emit a v))) ∧
      (x.Opens (x.rds a) rightEmit [3] false h hd → held x v.toNat → x.g.quantum = [] → x.g.stq ≠ [] ∨ x.s.coreTransit x.b = true → t = x.s)) ∧
    (CompletesIf (.emit a v) s (fun x => x.Opens (x.rds a) rightEmit [3] false h hd ∧ held x v.toNat ∧ x.Clear ∧ hd.rcnt ≠ 0) fun x t =>
      Puts (.emit a v) s x h 3 hd (element x v.toNat) t) ∧
    (CompletesIf (.emit a v) s (fun x => x.Opens (x.rds a) rightEmit [3] false h hd ∧ held x v.toNat ∧ x.Clear ∧ hd.rcnt = 0 ∧ hd.asked = none)
      fun x t => (∃ ret : RetTo, ret.data = element x v.toNat ∧ ret.op = 3 ∧
        Asks s x h hd (.reserve 0 ret) [] t) ∧ Owes s x t) ∧
    (let places := fun x : Ctx => x.elemPlaces kindR (eszBytes (x.s.eszOf hd)) (x.rds b)
      let reads := fun (x : Ctx) (ps : List (Nat × Loc)) => x.Opens (x.rds a) rightPut [0, 2] false h hd ∧ places x = .ok ps ∧
        x.hold 16 ps = .go ∧ x.Clear;
      (Completes (.qputs a b) s fun x t => x.Rejects (x.rds a) rightPut [0, 2] false t ∧
        (x.Opens (x.rds a) rightPut [0, 2] false h hd → ∀ f, places x = .trap f → t = x.s.takeTrap x.c f) ∧
        (x.Opens (x.rds a) rightPut [0, 2] false h hd → ∀ ps, places x = .ok ps → x.hold 16 ps ≠ .go → t = x.s)) ∧
      (∀ ps, CompletesIf (.qputs a b) s (fun x => reads x ps ∧ hd.rcnt ≠ 0) fun x t =>
        let r := Block.readPlaces x.b x.p.early ps s
        Puts (.qputs a b) r.2 x h 1 hd r.1 t) ∧
      (∀ ps, CompletesIf (.qputs a b) s (fun x => reads x ps ∧ hd.rcnt = 0 ∧ hd.asked = none) fun x t =>
        let r := Block.readPlaces x.b x.p.early ps s
        (∃ ret : RetTo, ret.data = r.1 ∧ ret.op = 1 ∧ Asks r.2 x h hd (.reserve 0 ret) [] t) ∧ Owes s x t)) ∧
    (Completes (.qget v a) s fun x t => x.Rejects (x.rds a) rightTake [] true t ∧
      (x.Opens (x.rds a) rightTake [] true h hd → (∃ r ∈ elemRegs v.toNat (eszBytes (x.s.eszOf hd)), x.g.bound ≤ r) →
        t = x.s.takeTrap x.c (x.regRange (.qget v a)))) ∧
    (CompletesIf (.qget v a) s (fun x => x.Opens (x.rds a) rightTake [] true h hd ∧
        (∀ r ∈ elemRegs v.toNat (eszBytes (x.s.eszOf hd)), r < x.g.bound) ∧
        x.g.pendingOn (elemRegs v.toNat (eszBytes (x.s.eszOf hd))) [] false = false) fun x t =>
      ∃ ret : RetTo, ret.d = v.toNat ∧
        Asks s x h hd (.take .get ret) [.asked ((elemRegs v.toNat 256).filter fun r => decide (r < x.g.bound)) false s.nextReq] t) ∧
    (Completes (.qtry v a) s fun x t => x.Rejects (x.rds a) rightTake [] true t ∧
      (x.Opens (x.rds a) rightTake [] true h hd → (∃ r ∈ elemRegs v.toNat (eszBytes (x.s.eszOf hd)), x.g.bound ≤ r) →
        t = x.s.takeTrap x.c (x.regRange (.qtry v a)))) ∧
    (CompletesIf (.qtry v a) s (fun x => x.Opens (x.rds a) rightTake [] true h hd ∧
        (∀ r ∈ elemRegs v.toNat (eszBytes (x.s.eszOf hd)), r < x.g.bound) ∧
        x.g.pendingOn (elemRegs v.toNat (eszBytes (x.s.eszOf hd))) [] false = false) fun x t =>
      ∃ ret : RetTo, ret.d = v.toNat ∧
        Asks s x h hd (.take .try_ ret) [.asked ((elemRegs v.toNat 256).filter fun r => decide (r < x.g.bound)) true s.nextReq] t) ∧
    (Completes (.qgets d a b) s fun x t => x.Rejects (x.rds a) rightTake [] true t ∧
      (x.Opens (x.rds a) rightTake [] true h hd → ∀ f, x.elemPlaces kindW (eszBytes (x.s.eszOf hd)) (x.rds b) = .trap f →
        t = x.s.takeTrap x.c f)) ∧
    (∀ ps, CompletesIf (.qgets d a b) s (fun x => x.Opens (x.rds a) rightTake [] true h hd ∧
        x.elemPlaces kindW (eszBytes (x.s.eszOf hd)) (x.rds b) = .ok ps) fun x t =>
      ∃ ret : RetTo, ret.d = d.toNat ∧ Asks s x h hd (.take (.gets (ps.map (·.2))) ret)
        [{ kind := .load, vw := [], vregs := [], sw := [(d.toNat, 0)], p6set := 0, p6clr := 0, id := s.nextReq, todo := 1 }] t) ∧
    (Completes (.qpeek d a) s fun x t => x.Rejects (x.rds a) (rightPut + rightTake) [] false t) ∧
    (CompletesIf (.qpeek d a) s (fun x => x.Opens (x.rds a) (rightPut + rightTake) [] false h hd) fun x t =>
      ∃ ret : RetTo, ret.d = d.toNat ∧ Asks s x h hd (.peek ret) [] t)) ∧
  (∀ (x : Ctx) (kind n : Nat) (v : DWord), let y := LaneAddr.ofTag 0 v
    (y.sp ≠ some .glb → y.sp ≠ some .scr → x.elemPlaces kind n v = .trap ⟨0x09, y.tag, none⟩) ∧
    (y.sp = some .glb ∨ y.sp = some .scr → y.addr % 16 ≠ 0 → x.elemPlaces kind n v = .trap ⟨0x07, y.plain, none⟩)) ∧
  (∀ e, e ≤ 4 → eszBytes e = 16 * 2 ^ e ∧ eszCells e * 64 = max 64 (eszBytes e))

/-- qopen writes the number of the lowest free handle, which takes the entry's queue, or a code for no free handle, no valid entry, a missing right or no binding, the first that applies (log 53); a binding that needs a walk waits while the front link of its stack carries nothing. qclose frees an open handle, qfence starts a new put epoch, qack waits while a put is unacknowledged. qsvc (as a release) sends one 32-byte request for each active guarded lane into its reservation and asks for more cells when they run out, counting the requests already sent in QDONE; by log 110 it waits for every store of the core in transit. -/
def Obligations.HandlesOpenCloseAndServeRequests : Prop :=
  (∀ (d a : BitVec 6) (b : BitVec 5) (s : State) (h : Nat) (e : QueueEntry),
    let i := Instr.qopen d a b
    let vqn := fun x : Ctx => field (x.rds a) 15 0
    let want := fun x : Ctx => field (x.rds a) 19 16
    let r := fun x : Ctx => x.translateQueue (vqn x)
    let fails := fun (x : Ctx) (s1 : State) (n : Nat) (t : State) =>
      Ends i x s1 (fun g => g.setS d.toNat (BitVec.ofNat 64 (0xFFFFFFFFFFFFFF00 + n))) t
    let free := fun x : Ctx => h < 16 ∧ Assoc.get? x.b.handles h = none ∧ ∀ k < h, (Assoc.get? x.b.handles k).isSome = true
    let finds := fun x : Ctx => free x ∧ (r x).1 = some e ∧ want x &&& e.rights = want x
    let hd := fun x : Ctx => e.handle (vqn x) (want x)
    let deposits := fun x : Ctx => finds x ∧ e.dep = true ∧ want x &&& rightTake ≠ 0
    let bound := fun x : Ctx => x.binding (r x).2 h (hd x) (x.rdn (2 * b.toNat)) (x.rdn (2 * b.toNat + 1))
    let spaced := fun x : Ctx => b ≠ 0 ∧ (r x).2.connected e.pkg = true ∧
      ((LaneAddr.ofTag 0 (x.rdn (2 * b.toNat))).sp = some .glb ∨ (LaneAddr.ofTag 0 (x.rdn (2 * b.toNat))).sp = some .scr)
    (Completes i s fun x t =>
      ((∀ k < 16, (Assoc.get? x.b.handles k).isSome = true) → fails x s 1 t) ∧
      (free x → (r x).1 = none → fails x (r x).2 2 t) ∧
      (free x → (r x).1 = some e → want x &&& e.rights ≠ want x → fails x (r x).2 3 t) ∧
      (deposits x → b = 0 → fails x (r x).2 6 t) ∧
      (deposits x → b ≠ 0 → (r x).2.connected e.pkg = false → t = x.s.takeTrap x.c ⟨0x16, e.pkg + e.stk * 2 ^ 16, none⟩) ∧
      (deposits x → b ≠ 0 → (r x).2.connected e.pkg = true → (LaneAddr.ofTag 0 (x.rdn (2 * b.toNat))).sp ≠ some .glb →
        (LaneAddr.ofTag 0 (x.rdn (2 * b.toNat))).sp ≠ some .scr →
        t = x.s.takeTrap x.c ⟨0x09, (LaneAddr.ofTag 0 (x.rdn (2 * b.toNat))).tag, none⟩) ∧
      (deposits x → spaced x → ∀ n, n ≠ 0 → (bound x).1 = .error n → fails x (bound x).2 n t) ∧
      (deposits x → spaced x → (bound x).1 = .error 0 → t = x.s)) ∧
    (CompletesIf i s (fun x => finds x ∧ (e.dep = false ∨ want x &&& rightTake = 0)) fun x t =>
      Ends i x ((r x).2.updBlock x.c.blk fun y => { y with handles := Assoc.put y.handles h (hd x) })
        (fun g => g.setS d.toNat (BitVec.ofNat 64 h)) t) ∧
    (∀ y, CompletesIf i s (fun x => deposits x ∧ spaced x ∧ (bound x).1 = .ok y) fun x t =>
      ∃ ret : RetTo, ret.d = d.toNat ∧ ret.h = h ∧ Asks (bound x).2 x h (hd x) (.bind y ret) [] t)) ∧
  (∀ (x : Ctx) (vqn : Nat), vqn < 0xFF00 ∨ x.l.inst = none → x.translateQueue vqn = x.s.queueEntry x.b.stk x.l.part x.l.asid vqn) ∧
  (∀ (x : Ctx) (vqn u k : Nat) (i : Inst), 0xFF00 ≤ vqn → x.l.inst = some (u, k) → (x.s.insts.find? fun i => i.uid == u) = some i →
    (x.translateQueue vqn).1.map (·.pq) = nth? i.pqs (vqn - 0xFF00) ∧ (x.translateQueue vqn).2 = x.s) ∧
  (∀ (a : BitVec 6) (s : State),
    (Completes (.qclose a) s fun x t => (∀ hd, ¬ ((x.rds a).toNat < 16 ∧ Assoc.get? x.b.handles (x.rds a).toNat = some hd ∧ hd.opening = false)) →
      t = x.s.takeTrap x.c ⟨0x14, (x.rds a).toNat % 2 ^ 16, none⟩) ∧
    (∀ h hd, CompletesIf (.qclose a) s (fun x => (x.rds a).toNat = h ∧ h < 16 ∧ Assoc.get? x.b.handles h = some hd ∧ hd.opening = false)
      fun x t => Ends (.qclose a) x (s.closeHandle x.c.blk x.c.gid h) id t) ∧
    (Completes .qfence s fun x t => Does .qfence s x (fun g => { g with epoch := g.epoch + 1 }) t) ∧
    (CompletesIf .qack s (fun x => x.g.puts = []) fun x t => Writes .qack s x {} t) ∧
    (CompletesIf .qack s (fun x => x.g.puts ≠ []) fun x t => Sleeps s x (.batch 2 s.nextReq) t)) ∧
  (∀ (a b : BitVec 6) (s : State) (hd rh : Handle),
    let v := fun x : Ctx => (x.rds a).toNat
    let h := fun x : Ctx => v x % 16
    let third := fun x : Ctx => elemRegs (2 * b.toNat + 4) 256
    let opens := fun x : Ctx => v x < 2 ^ 24 ∧ x.Opens (BitVec.ofNat 64 (h x)) rightSvc [1] false (h x) hd ∧
      x.Opens (BitVec.ofNat 64 (v x / 16 % 16)) rightTake [] true (v x / 16 % 16) rh ∧
      (v x / 2 ^ 8 % 16 = 9 → (∀ y ∈ third x, y < x.g.bound) ∧ x.g.pendingOn (third x) [] false = false ∧ x.g.bad = [])
    let data := fun x : Ctx => ((lanesOf x.act).drop x.p.qdone).flatMap (x.request (v x) rh (2 * b.toNat))
    let f := fun x : Ctx => State.fillRequests x.c.blk x.c.gid (h x) { req := 0, epoch := x.g.epoch, ord := s.nextReq } hd.rcnt (data x) s
    (Completes (.qsvc a b) s fun x t =>
      (2 ^ 24 ≤ v x → t = x.s.takeTrap x.c ⟨0x14, v x % 2 ^ 16, none⟩) ∧
      (∀ k, k = v x % 16 ∨ k = v x / 16 % 16 → (∀ y, ¬ (Assoc.get? x.b.handles k = some y ∧ y.opening = false)) →
        t = x.s.takeTrap x.c ⟨0x14, v x % 2 ^ 16, none⟩) ∧
      (opens x → x.act ≠ 0 → x.g.quantum = [] → x.g.stq ≠ [] ∨ x.s.coreTransit x.b = true → t = x.s)) ∧
    (CompletesIf (.qsvc a b) s (fun x => opens x ∧ x.act = 0) fun x t => Writes (.qsvc a b) s x {} t) ∧
    (CompletesIf (.qsvc a b) s (fun x => opens x ∧ x.act ≠ 0 ∧ x.Clear ∧ (f x).1 = []) fun x t => Ends (.qsvc a b) x (f x).2 id t) ∧
    (CompletesIf (.qsvc a b) s (fun x => opens x ∧ x.act ≠ 0 ∧ x.Clear ∧ (f x).1 ≠ [] ∧ hd.asked = none) fun x t =>
      t.mem = s.mem ∧ ∃ g' p' n, t.group? x.c.blk x.c.gid = some g' ∧
        g'.split? x.c.age = some p' ∧ p'.pc = x.p.pc ∧ p'.wait = .answer n ∧
        p'.qdone = x.p.qdone + ((data x).length - (f x).1.length) / 32)) ∧
  (∀ (s : State) (u gid h n : Nat) (ref : PutRef) (data : List Byte) (b : Block) (g : Group) (hd : Handle),
    s.block? u = some b → b.group? gid = some g → Assoc.get? b.handles h = some hd →
    let f := State.fillRequests u gid h ref n data s
    f.1 = data.drop (32 * min n ((data.length + 31) / 32)) ∧ f.2.mem = s.mem ∧
      f.2.net.length = s.net.length + min n ((data.length + 31) / 32)) ∧
  (∀ (x : Ctx) (v r l : Nat) (rh : Handle), l < 32 → (x.request v rh r l).length = 32 ∧
    leNat (x.request v rh r l) % 16 = v / 2 ^ 8 % 16 ∧
    leNat (x.request v rh r l) / 2 ^ 8 % 2 ^ 16 = v / 2 ^ 13 % 2 ^ 11 * 32 + l)

/-- tlbinv drops every cached leaf its selection picks and waits until no access in flight reaches one of the frames; a foreign selection of an unprivileged launch raises PRIVILEGE. lrload copies an accepted 64-byte record to a layout slot, lrinv clears VALID there, and both drop the cached copies of the slot. qxset drops queue translations by number and ASID, by ASID, or all, or writes a port's descriptor and waits for its answer; a bit that no row names, or an operation above 3, raises ILLEGAL-OPERAND. All four rows of qxset have one meaning. By log 47 the image leaves when the instruction issues; by log 50 lrinv without a layout page drops nothing. -/
def Obligations.TablesDropTheirCachedCopies : Prop :=
  (∀ (a b : BitVec 6) (s : State),
    let i := Instr.tlbinv a b
    let v := fun x : Ctx => (x.rds b).toNat
    let sel := fun x : Ctx => tlbSelect (x.rds a).toNat (v x)
    let reserved := fun x : Ctx => v x / 2 ^ 30 % 4 ≠ 0 ∨ v x / 2 ^ 35 ≠ 0
    let foreign := fun x : Ctx => x.l.priv = false ∧
      (v x % 2 ^ 16 ≠ x.l.asid.toNat ∨ v x / 2 ^ 16 % 2 ^ 14 ≠ x.l.vmid.toNat ∨ bitOf (v x) 33 = true)
    let starts := fun x : Ctx => x.p.inval = [] ∧ ¬ reserved x ∧ ¬ foreign x
    (Completes i s fun x t =>
      (x.p.inval = [] → reserved x → t = x.s.takeTrap x.c (x.illegalOperand i)) ∧
      (x.p.inval = [] → ¬ reserved x → foreign x → t = x.s.takeTrap x.c ⟨0x21, x.wordVal i, none⟩)) ∧
    (CompletesIf i s (fun x => starts x ∧ (s.dropLeaves (sel x)).framesBusy (s.framesOf (sel x)) = false) fun x t =>
      Ends i x (s.dropLeaves (sel x)) id t) ∧
    (CompletesIf i s (fun x => starts x ∧ (s.dropLeaves (sel x)).framesBusy (s.framesOf (sel x)) = true) fun x t =>
      OnlyGroup x.c.blk x.c.gid (s.dropLeaves (sel x)) t fun g g' =>
        (∃ splits chain, g' = { g with splits := splits, chain := chain }) ∧
          OnlySplit x.c.age g g' fun p p' => p' = { p with inval := s.framesOf (sel x), wait := .frames }) ∧
    (CompletesIf i s (fun x => x.p.inval ≠ [] ∧ s.framesBusy x.p.inval = false) fun x t => Does i s x id t)) ∧
  (∀ (s : State) (sel : TlbSelect), (s.dropLeaves sel).mem = s.mem ∧
    (∀ k ∈ (s.dropLeaves sel).dies, ∀ e ∈ k.tlb, e.picked sel = false) ∧
    (∀ c ∈ (s.dropLeaves sel).cores, ∀ e ∈ c.2.tlb, e.picked sel = false)) ∧
  (∀ (d a b : BitVec 6) (s : State) (page k pa : Nat) (l : List (Nat × Loc)),
    let slot := fun x : Ctx => (x.rds a).toNat
    let r := fun x : Ctx => s.rootEntry x.l.part x.l.asid
    let out := fun (x : Ctx) (s1 : State) (n : Nat) (t : State) =>
      Ends (.lrload d a b) x s1 (fun g => g.setS d.toNat (BitVec.ofNat 64 n)) t
    let alone := fun x : Ctx => slot x < 64 ∧ x.Clear ∧ x.g.puts = [] ∧ x.g.heard.any x.s.outstanding = false
    let bytes := s.readMem pa 64
    let bad := layoutValid (leNat bytes) = true ∧ layoutAccepted (leNat bytes) = false
    let image := fun x : Ctx => x.accessTag kindR 64 (fun sp => decide (sp = .glb)) (x.rds b)
    let reads := fun x : Ctx => alone x ∧ image x = .ok ((k, .glb pa) :: l) ∧ s.engineOwns pa 64 = false
    (Completes (.lrload d a b) s fun x t =>
      (64 ≤ slot x → t = x.s.takeTrap x.c (x.illegalOperand (.lrload d a b))) ∧
      (slot x < 64 → ∀ f, image x = .trap f → t = x.s.takeTrap x.c f)) ∧
    (CompletesIf (.lrload d a b) s (fun x => reads x ∧ layoutPage (r x).1 = none) fun x t => out x (r x).2 1 t) ∧
    (CompletesIf (.lrload d a b) s (fun x => reads x ∧ layoutPage (r x).1 = some page ∧ bad) fun x t => out x (r x).2 2 t) ∧
    (CompletesIf (.lrload d a b) s (fun x => reads x ∧ layoutPage (r x).1 = some page ∧ ¬ bad) fun x t =>
      out x (x.writeSlot (r x).2 page (slot x) bytes) 0 t) ∧
    (Completes (.lrinv a) s fun x t => 64 ≤ slot x → t = x.s.takeTrap x.c (x.illegalOperand (.lrinv a))) ∧
    (CompletesIf (.lrinv a) s (fun x => alone x ∧ layoutPage (r x).1 = none) fun x t => Ends (.lrinv a) x (r x).2 id t) ∧
    (CompletesIf (.lrinv a) s (fun x => alone x ∧ layoutPage (r x).1 = some page) fun x t =>
      ∃ bytes, Ends (.lrinv a) x (x.writeSlot (r x).2 page (slot x) bytes) id t ∧
        bytes.length = 64 ∧ layoutValid (leNat bytes) = false ∧
        ∀ n < 512, n ≠ 256 → bitOf (leNat bytes) n = bitOf (s.readNat (page + 64 * slot x) 64) n)) ∧
  (∀ (x : Ctx) (s : State) (page slot : Nat) (bytes : List Byte),
    let t := x.writeSlot s page slot bytes
    (∀ q, Sparse.get t.mem q = if page + 64 * slot ≤ q ∧ q < page + 64 * slot + bytes.length then nth 0 bytes (q - (page + 64 * slot))
      else Sparse.get s.mem q) ∧
    ∀ c ∈ t.lcache, ¬ (c.slot = slot ∧ c.part = x.l.part ∧ c.asid = x.l.asid)) ∧
  (∀ (d a b : BitVec 6) (s : State),
    QxsetCompletes (.qxsetDropVqn d a b) s d a b ∧
    QxsetCompletes (.qxsetDropAsid d a b) s d a b ∧
    QxsetCompletes (.qxsetDropAll d a b) s d a b ∧
    QxsetCompletes (.qxsetWriteDescriptor d a b) s d a b)

/-- wsub makes a free entry active for a region of another block's S of the same launch, aligned and inside both allocations, or writes the failing check to REASON and raises SUBSCRIPTION. wflush sends the open batches that the block publishes, or those of one of its entries. wunsub frees a dropped entry at once; for an active or parked one it sends the open batch and waits until the last batch lands. A free entry raises SUBSCRIPTION, a reserved operand ILLEGAL-OPERAND. By log 49 a new entry keeps REASON and starts RES and FWD at 0; by log 128 wflush and wunsub wait for a store that has reached the mirrored S with some of its words and not yet all. -/
def Obligations.SubscriptionsOpenFlushAndClose : Prop :=
  (∀ (a : BitVec 5) (b : BitVec 6) (s : State),
    let v := fun x : Ctx => (x.rds b).toNat
    let e := fun x : Ctx => v x / 2 ^ 16 % 16
    let y : Ctx → Sub := fun x =>
      { Sub.free with st := 1, reason := (x.b.sub (e x)).reason, pblk := field (x.rdn (2 * a.toNat)) 31 0,
                      poff := field (x.rdn (2 * a.toNat)) 63 32, plen := field (x.rdn (2 * a.toNat + 1)) 31 0,
                      moff := field (x.rdn (2 * a.toNat + 1)) 63 32, bar := bitOf (v x) 20, boff := v x % 2 ^ 16 }
    (Completes (.wsub a b) s fun x t => 2 ^ 21 ≤ v x → t = x.s.takeTrap x.c (x.illegalOperand (.wsub a b))) ∧
    (∀ r, CompletesIf (.wsub a b) s (fun x => v x < 2 ^ 21 ∧ x.b.place = .resident ∧ x.subscribe (y x) (e x) = .error r ∧
        x.g.quantum = [] ∧ x.s.reductionsWait x.b x.g = false ∧ x.g.stopping x.p = false) fun x t =>
      ∃ b' g', t.block? x.c.blk = some b' ∧ b'.sub (e x) = { x.b.sub (e x) with reason := r } ∧
        b'.group? x.c.gid = some g' ∧ g'.trapCause = 0x1E ∧ g'.trapVal = BitVec.ofNat 64 (e x)) ∧
    (∀ p, CompletesIf (.wsub a b) s (fun x => v x < 2 ^ 21 ∧ x.subscribe (y x) (e x) = .ok p) fun x t =>
      Ends (.wsub a b) x (s.setSub x.c.blk (e x) { y x with pcore := p.core }) id t)) ∧
  (∀ (x : Ctx) (y : Sub) (e : Nat) (p : Block), x.subscribe y e = .ok p →
    (x.b.sub e).st = 0 ∧ p.launch = x.b.launch ∧ p.lin = y.pblk ∧ p.uid ≠ x.b.uid ∧ y.poff + y.plen ≤ p.sSize ∧
      y.moff + y.plen ≤ x.b.sSize ∧ 4 ≤ y.plen ∧ y.poff % 4 = 0 ∧ y.moff % 4 = 0 ∧ y.plen % 4 = 0 ∧
      (y.bar = true → 16 * y.boff + 16 ≤ x.b.sSize)) ∧
  (∀ (a : BitVec 6) (s : State),
    let e := fun x : Ctx => (x.rds a).toNat
    let mid := fun (x : Ctx) (k : Nat) => s.blocks.any fun p => s.feeds p x.b (x.b.sub k) && s.midWrite p.uid
    (Completes (.wunsub a) s fun x t => (16 ≤ e x → t = x.s.takeTrap x.c (x.illegalOperand (.wunsub a))) ∧
      (e x < 16 → (x.b.sub (e x)).st = 0 → t = x.s.takeTrap x.c ⟨0x1E, e x, none⟩) ∧
      (e x < 16 → (x.b.sub (e x)).st ≠ 0 → (x.b.sub (e x)).st ≠ 3 → mid x (e x) = true → t = x.s)) ∧
    (CompletesIf (.wunsub a) s (fun x => e x < 16 ∧ (x.b.sub (e x)).st = 3) fun x t =>
      Ends (.wunsub a) x (s.setSub x.c.blk (e x) { Sub.free with reason := (x.b.sub (e x)).reason }) id t) ∧
    (CompletesIf (.wunsub a) s (fun x => e x < 16 ∧ (x.b.sub (e x)).st ≠ 0 ∧ (x.b.sub (e x)).st ≠ 3 ∧ mid x (e x) = false) fun x t =>
      t.subnet = s.subnet ++ [{ blk := x.c.blk, ent := e x, upd := (x.b.sub (e x)).batch, rem := true, orphan := false }] ∧
      ∃ b' g', t.block? x.c.blk = some b' ∧ b'.sub (e x) = { x.b.sub (e x) with batch := [] } ∧ b'.group? x.c.gid = some g' ∧
        (g'.split? x.c.age).map Split.stands = some { x.p with wait := .batch 3 (e x) }.stands) ∧
    (Completes (.wflush a) s fun x t => (e x ≠ 0 → e x < 16 ∨ 32 ≤ e x → t = x.s.takeTrap x.c (x.illegalOperand (.wflush a))) ∧
      (16 ≤ e x → e x < 32 → (x.b.sub (e x - 16)).st = 0 → t = x.s.takeTrap x.c ⟨0x1E, e x - 16, none⟩) ∧
      (e x = 0 → s.midWrite x.c.blk = true → t = x.s) ∧
      (16 ≤ e x → e x < 32 → (x.b.sub (e x - 16)).st ≠ 0 → mid x (e x - 16) = true → t = x.s)) ∧
    (CompletesIf (.wflush a) s (fun x => e x = 0 ∧ s.midWrite x.c.blk = false) fun x t => Ends (.wflush a) x (s.flushPublisher x.c.blk true false) id t) ∧
    (CompletesIf (.wflush a) s (fun x => 16 ≤ e x ∧ e x < 32 ∧ (x.b.sub (e x - 16)).st ≠ 0 ∧ mid x (e x - 16) = false) fun x t => Ends (.wflush a) x
      (s.flushSubs (fun u k _ => u == x.c.blk && k == e x - 16) true false) id t))

/-- crd writes the cycle, the time, the block's energy, the partition's account or the package's energy; eqry the reservation, GPOOL, the power cap or the account's maximum; another selector raises ILLEGAL-OPERAND. eres moves the smaller of rds(A) and GPOOL to the reservation in units of 1/1024 µJ, erel the smaller of rds(A) and the reservation back; both write it. cwait returns the counter once it has reached rds(B), dropping the L1, and waits otherwise. Energy that a block uses lowers its reservation by as much. -/
def Obligations.CountersAndEnergyMoveAsStated : Prop :=
  (∀ (d a b : BitVec 6) (s : State),
    let k := fun x : Ctx => (x.rds a).toNat
    (CompletesIf (.crd d a) s (fun x => k x ≤ 4) fun x t =>
      let v : DWord := if k x = 0 then BitVec.ofNat 64 x.now else if k x = 1 then BitVec.ofNat 64 s.time
        else if k x = 2 then BitVec.ofNat 64 x.b.eused else if k x = 3 then BitVec.ofInt 64 (s.part x.l.part).eacct else BitVec.ofNat 64 s.epkg
      Writes (.crd d a) s x (.scal d v) t) ∧
    (Completes (.crd d a) s fun x t => 4 < k x → t = x.s.takeTrap x.c (x.illegalOperand (.crd d a))) ∧
    (CompletesIf (.eqry d a) s (fun x => k x ≤ 3) fun x t =>
      let v : DWord := if k x = 0 then BitVec.ofInt 64 x.b.eres else if k x = 1 then BitVec.ofInt 64 x.l.gpool
        else if k x = 2 then BitVec.ofNat 64 (s.part x.l.part).pcap else BitVec.ofInt 64 (s.part x.l.part).emax
      Writes (.eqry d a) s x (.scal d v) t) ∧
    (Completes (.eqry d a) s fun x t => 3 < k x → t = x.s.takeTrap x.c (x.illegalOperand (.eqry d a))) ∧
    (Completes (.eres d a) s fun x t =>
      let m := min (x.rds a).toNat x.l.gpool.toNat
      Ends (.eres d a) x ((s.updLaunch x.l.uid fun l => { l with gpool := l.gpool - Int.ofNat m }).updBlock x.c.blk fun b =>
        { b with eres := b.eres + 1024 * Int.ofNat m }) (fun g => g.setS d.toNat (BitVec.ofNat 64 m)) t) ∧
    (Completes (.erel d a) s fun x t =>
      let m := min (x.rds a).toNat (x.b.eres / 1024).toNat
      Ends (.erel d a) x ((s.updLaunch x.l.uid fun l => { l with gpool := l.gpool + Int.ofNat m }).updBlock x.c.blk fun b =>
        { b with eres := b.eres - 1024 * Int.ofNat m }) (fun g => g.setS d.toNat (BitVec.ofNat 64 m)) t) ∧
    let at_ := fun x : Ctx => x.accessTag kindR 8 (fun sp => decide (sp = .glb) || decide (sp = .scr)) (x.rds a)
    let ready := fun (x : Ctx) (k : Nat) (p : Loc) => (∃ l, at_ x = .ok ((k, p) :: l)) ∧ x.Settled ∧ x.s.ownedAt 8 p = false ∧ x.s.arrivingAt x.b p = false
    (∀ k p, CompletesIf (.cwait d a b) s (fun x => ready x k p ∧ leNat (s.placeBytes p 8) ≥ (x.rds b).toNat) fun x t =>
      OnlyBlocksAndCores s t ∧
        Ends (.cwait d a b) x (s.acquire x.c.blk x.c.gid 3) (fun g => g.setS d.toNat (BitVec.ofNat 64 (leNat (s.placeBytes p 8)))) t ∧
        (t.core x.b.stk x.b.core).l1 = []) ∧
    (∀ k p, CompletesIf (.cwait d a b) s (fun x => ready x k p ∧ leNat (s.placeBytes p 8) < (x.rds b).toNat) fun x t =>
      Sleeps s x (match p with
        | .glb pa => .cwait true 0 pa d.toNat (x.rds b).toNat
        | .buf u _ off => .cwait false u off d.toNat (x.rds b).toNat) t) ∧
    (Completes (.cwait d a b) s fun x t => AccessEnds x (at_ x) t fun ps =>
      ∀ k p l, ps = (k, p) :: l → x.s.ownedAt 8 p = true ∨ x.s.arrivingAt x.b p = true → t = x.s)) ∧
  (∀ (s : State) (glb : Bool) (blk lo hi : Nat) (p : Split) (a d n : Nat),
    (p.wait = .cwait glb blk a d n → a < hi → lo < a + 8 → p.stop = false →
      s.poisonAt (if glb then .glb a else .buf blk .scr a) 8 = none →
      let v := leNat (s.placeBytes (if glb then .glb a else .buf blk .scr a) 8)
      s.cwaitValue glb blk lo hi p = if n ≤ v then some (d, v) else none)) ∧
  (∀ (s : State) (glb : Bool) (blk lo hi : Nat) (u gid : Nat) (p : Split) (d v : Nat),
    (s.group? u gid).bind (·.split? p.age) = some p → s.cwaitValue glb blk lo hi p = some (d, v) →
      (∀ b ∈ s.blocks, (b.groups.map (·.gid)).Nodup) → (∀ b ∈ s.blocks, ∀ g ∈ b.groups, (g.splits.map (·.age)).Nodup) →
      (∀ g, s.group? u gid = some g → ∀ q ∈ g.splits, q.age ≠ p.age → s.cwaitValue glb blk lo hi q = none) →
      ∃ g' p', (s.wakeCwait glb blk lo hi).group? u gid = some g' ∧ g'.split? p.age = some p' ∧ p'.pc = p.pc + 4 ∧ p'.wait = .none ∧
        (0 < d → d < 64 → g'.sreg d = BitVec.ofNat 64 v)) ∧
  (∀ (x : Ctx) (kind size : Nat) (allow : Space → Bool) (v : DWord) (off : Nat), v.toNat = taggedScr off → off < 2 ^ 32 →
    (allow .scr = false → x.accessTag kind size allow v = .trap ⟨0x09, taggedScr off, none⟩) ∧
    (allow .scr = true → off % size ≠ 0 → x.accessTag kind size allow v = .trap ⟨0x07, off, none⟩) ∧
    (allow .scr = true → 0 < size → off % size = 0 → x.b.sSize < off + size → x.accessTag kind size allow v = .trap ⟨0x08, taggedScr off, none⟩) ∧
    (allow .scr = true → 0 < size → off % size = 0 → off + size ≤ x.b.sSize → x.s.poisoned = [] →
      x.accessTag kind size allow v = .ok [(0, .buf x.b.uid .scr off)])) ∧
  (∀ (s : State) (cycles ns : Nat) (u : Nat) (b : Block), s.block? u = some b → b.place = .resident →
    (s.elapse cycles ns).time = s.time + ns ∧ ∃ b' e, (s.elapse cycles ns).block? u = some b' ∧ b'.eused = b.eused + e ∧
      b'.eres = b.eres - Int.ofNat e)

/-- A pending result writes its registers and p6 and wakes its readers (stated where no racq waits); a delayed reduction writes its word after earlier ones on it; a walk leaves with all that share its page; a remote arrival acts once, in order; copies read pieces, land sectors, which count on a barrier with their last part, reach clusters and deliver; a matrix result fills its C region or its registers, each source word as the unit took it at some moment; idle sub-arrays gate and wake; subscription batches leave and land; due continuations start as a group; a rotation restarts its counter; a shootdown drops leaves when no access in flight reaches them. -/
def Obligations.MemoryAndEngineEventsActOnce : Prop :=
  (∀ (s : State) (b : Block) (g : Group) (p : Pend), s.block? s.ev.b = some b → s.ev.g < 32 → b.group? s.ev.g = some g →
    nth? g.pend s.ev.k = some p → p.todo = 0 → (s.core b.stk b.core).racq = [] →
    let Arrived := fun t : State => t.mem = s.mem ∧ ∃ g', t.group? s.ev.b s.ev.g = some g' ∧ g'.pend = dropNth g.pend s.ev.k ∧
      g'.v = Sparse.putAll g.v p.vw ∧ g'.s = Sparse.putAll g.s p.sw ∧ g'.preg 6 = (g.preg 6 ||| p.p6set) &&& ~~~p.p6clr ∧
      g'.stq = g.stq ∧ ∀ q ∈ g'.splits, ∀ vs ss p6, q.wait = .operand vs ss p6 → g'.pendingOn vs ss p6 = true
    ((p.kind = .load → Happens .loadDataReturn s Arrived) ∧ (p.kind ≠ .load → exec .loadDataReturn s = .next s)) ∧
    ((p.kind = .long → Happens .longResultWrite s Arrived) ∧ (p.kind ≠ .long → exec .longResultWrite s = .next s)) ∧
    ((p.kind = .atomic → Happens .atomicReply s Arrived) ∧ (p.kind ≠ .atomic → exec .atomicReply s = .next s))) ∧
  (∀ (s : State) (b : Block) (g : Group) (q : QuantumOp) (pa : Nat), s.block? s.ev.b = some b → b.group? s.ev.g = some g →
    nth? g.quantum s.ev.k = some q → q.tgt = .glb pa →
    let later := s.blocked b q.tgt = true ∨ ∃ e ∈ g.quantum.take s.ev.k, e.tgt = q.tgt
    (later → exec .quantumReductionPerform s = .next s) ∧
    (¬ later → Happens .quantumReductionPerform s fun t =>
      WritesMem s t pa (leBytes 4 (atomNew q.op q.mode (BitVec.ofNat 32 (s.readNat pa 4)) q.b 0).toNat) ∧
        ∃ g', t.group? s.ev.b s.ev.g = some g' ∧ g'.quantum = dropNth g.quantum s.ev.k)) ∧
  (∀ (s : State) (w : Walk) (b : Block) (g : Group) (p : Split), s.shapely → s.ev.b < 4 →
    nth? ((s.stack s.ev.b).walks.take 512) s.ev.k = some w →
    let page := s.walkPage w
    let same := fun y : Walk => y.asid = w.asid ∧ y.vmid = w.vmid ∧ page.1 ≤ y.va ∧ y.va < page.1 + page.2
    (s.frontUp s.ev.b = false → exec .pageWalkComplete s = .next s) ∧
    (s.frontUp s.ev.b = true → Happens .pageWalkComplete s fun t =>
      ∀ y, y ∈ (t.stack s.ev.b).walks ↔ y ∈ (s.stack s.ev.b).walks ∧ ¬ same y) ∧
    (s.frontUp s.ev.b = true → same w → (∀ n < 4, n ≠ s.ev.b → (s.stack n).walks = []) →
      (∀ y ∈ (s.stack s.ev.b).walks, y.blk = w.blk → y.gid = w.gid → y.age = w.age → same y) →
      s.block? w.blk = some b → b.group? w.gid = some g → g.split? w.age = some p → Happens .pageWalkComplete s fun t =>
        ∃ p', (t.group? w.blk w.gid).bind (·.split? w.age) = some p' ∧ p'.pc = p.pc ∧ p'.wait ≠ .walk) ∧
    (s.frontUp s.ev.b = true → same w → (∀ y ∈ (s.stack s.ev.b).walks, same y → y = w) → ((s.stack s.ev.b).walks.filter fun y => decide (y = w)).length = 1 →
      s.block? w.blk = some b → b.group? w.gid = some g → g.split? w.age = some p →
      let l := s.launchOf b
      let r := (s.walk (s.extension l) w.asid w.vmid w.va w.kind l.priv).1
      Happens .pageWalkComplete s fun t =>
        (∀ e, r = .leaf e → e ∈ (t.stack s.ev.b).tlb ∧ e ∈ (t.core b.stk b.core).tlb) ∧
        ((∀ e, r ≠ .leaf e) → ∃ p', (t.group? w.blk w.gid).bind (·.split? w.age) = some p' ∧ (walkKey w.va w.kind, r) ∈ p'.walked))) ∧
  (∀ (s : State) (r : RemoteArrival) (b : Block), nth? s.remote s.ev.k = some r →
    let behind := ∃ e ∈ s.remote.take s.ev.k, e.src = r.src ∧ e.blk = r.blk
    let w := s.readBar b r.off
    let w' := Bar.arrive { w with ps := w.ps + r.n } none
    (behind → exec .remoteArrival s = .next s) ∧
    (¬ behind → Happens .remoteArrival s fun t => t.remote = dropNth s.remote s.ev.k) ∧
    (¬ behind → s.block? r.blk = some b → b.place = .resident → w.ps + r.n < 2 ^ 32 → w.pa ≠ 0 → w'.Fits b r.off →
      Happens .remoteArrival s fun t => ∃ b', t.block? r.blk = some b' ∧ t.readBar b' r.off = w'.after ∧
        ∀ q, s.block? r.src.1 = some q → r.src.1 ≠ r.blk → q.core ≠ b.core → (r.off, w.ph) ∈ b'.far)) ∧
  (∀ (s : State) (b : Block) (c : CopyOp), s.block? s.ev.b = some b → nth? b.copies s.ev.k = some c →
    let waits := fun (c : CopyOp) (p : Loc) (len : Nat) => s.lockedAt len p = true ∨ s.ownedBefore c.seq p len = true
    let copyOf := fun (t : State) (c' : CopyOp) => ∃ b', t.block? s.ev.b = some b' ∧ nth? b'.copies s.ev.k = some c'
    (∀ p len, s.ev.lo = true → nth? c.srcs s.ev.n = some (p, len, []) →
      (waits c p len → exec .copySectorLand s = .next s) ∧
      (¬ waits c p len → Happens .copySectorLand s fun t =>
        t.mem = s.mem ∧ copyOf t { c with srcs := setNth c.srcs s.ev.n (p, len, s.placeBytes p len) })) ∧
    (s.ev.lo = false → c.ready = false → exec .copySectorLand s = .next s) ∧
    (∀ pa off len, s.ev.lo = false → c.ready = true → nth? c.dsts s.ev.n = some (.glb pa, off, len) → ¬ waits c (.glb pa) len → c.bar = none →
      Happens .copySectorLand s fun t => WritesMem s t pa ((c.bytes.drop off).take len) ∧
        (dropNth c.dsts s.ev.n ≠ [] → copyOf t { c with dsts := dropNth c.dsts s.ev.n }) ∧
        (dropNth c.dsts s.ev.n = [] → ∃ b', t.block? s.ev.b = some b' ∧ b'.copies = dropNth b.copies s.ev.k)) ∧
    (∀ pa off len o, s.ev.lo = false → c.ready = true → nth? c.dsts s.ev.n = some (.glb pa, off, len) → ¬ waits c (.glb pa) len →
      c.bar = some o → b.place = .resident →
      let w := s.readBar b o
      let rest := ∃ y ∈ dropNth c.dsts s.ev.n, y.1.sector = pa / 32
      let w' := if w.ps = 0 then { w with ov := true } else { w with ps := w.ps - 1 }
      w'.Fits b o → Happens .copySectorLand s fun t => ∃ b', t.block? s.ev.b = some b' ∧
        (rest → t.readBar b' o = w) ∧ (¬ rest → t.readBar b' o = w'.after)) ∧
    (∀ cl more, s.ev.lo = true → c.clusters = cl :: more →
      (c.ready = false → exec .copymDelivery s = .next s) ∧
      (c.ready = true → s.receiver b cl c.rank = none → more ≠ [] → Happens .copymDelivery s fun t =>
        t.mem = s.mem ∧ copyOf t { c with clusters := more }) ∧
      (∀ y, c.ready = true → s.receiver b cl c.rank = some y → more ≠ [] → c.off + c.bytes.length ≤ y.bufSize c.sp →
        let new := (sectorsIn (y.bufSize c.sp) c.off c.bytes.length).map fun x => (y.uid, x.1, x.2)
        Happens .copymDelivery s fun t => t.mem = s.mem ∧ copyOf t { c with clusters := more, lands := c.lands ++ new })) ∧
    (∀ v a m y, s.ev.lo = false → nth? c.lands s.ev.n = some (v, a, m) → s.block? v = some y → y.place = .resident → y.bars = [] → c.bar = none →
      dropNth c.lands s.ev.n ≠ [] → Happens .copymDelivery s fun t => copyOf t { c with lands := dropNth c.lands s.ev.n } ∧
        ∃ y', t.block? v = some y' ∧ WritesBuf y y' c.sp a ((c.bytes.drop (a - c.off)).take m))) ∧
  (∀ (s : State) (b : Block) (m : MatOp), s.block? s.ev.b = some b → nth? b.matops s.ev.k = some m → b.place = .resident →
    let w := m.work.mapSources (s.tileTake b)
    let h := m.work.header
    let clean := s.poisoned = [] ∧ ∀ y ∈ w.sources, y.poison = none
    (s.matReady b s.ev.k m = false → exec .matrixOpComplete s = .next s) ∧
    (∀ off rotc, m.dst = .buf .acc off rotc → clean → s.matReady b s.ev.k m = true → Happens .matrixOpComplete s fun t =>
      t.mem = s.mem ∧ ∃ b', t.block? s.ev.b = some b' ∧ b'.matops.map (·.id) = (dropNth b.matops s.ev.k).map (·.id) ∧
        WritesBuf b b' .acc off (rotate h rotc (w.image s.tick false TileSrc.image (unrotate h rotc (s.bufRead b .acc off (hExtent h)))))) ∧
    (∀ reg g q, m.dst = .regs reg → clean → s.matReady b s.ev.k m = true → b.group? g.gid = some g → q ∈ g.pend → q.kind = .matrix → q.id = m.id →
      (s.core b.stk b.core).racq = [] → (b.groups.map (·.gid)).Nodup →
      let img := w.image s.tick false TileSrc.image []
      let word := fun o => BitVec.ofNat 32 (leNat ((img.drop o).take 4))
      Happens .matrixOpComplete s fun t => ∃ g', t.group? s.ev.b g.gid = some g' ∧ (∀ p ∈ g'.pend, p.kind = .matrix → p.id ≠ m.id) ∧
        ∀ l < 32, g.lanes.getLsbD l = true → g'.vreg reg l = (if l < 4 then word (4 * l) else 0) ∧
          ∀ j, 16 + 128 * j < img.length → g'.vreg (reg + 1 + j) l = word (16 + 128 * j + 4 * l))) ∧
  (∀ (tick h : Nat) (z : Bool) (as : List TileSrc) (b : TileSrc) (old : List Byte) (i j k chunk : Nat) (int : Bool), i < hRows h → j < 32 →
    hRows h = 16 * as.length → 128 ≤ hPitch h → 16 + hRows h * hPitch h ≤ old.length → h < 2 ^ 128 →
    let a := nth b as (i / 16)
    pairInfo (hFmt a.hdr) (hFmt b.hdr) = some (k, chunk, int) → int = decide (hFmt h = 10) →
    let img := (MatWork.product z as b h).image tick false TileSrc.image old
    leNat (img.take 16) = h ∧ leNat ((img.drop (16 + i * hPitch h + 4 * j)).take 4) =
      productElem a.hdr a.image b.hdr b.image chunk int (i % 16) j (if z then 0 else leNat ((old.drop (16 + i * hPitch h + 4 * j)).take 4)) % 2 ^ 32) ∧
  (∀ (s : State) (b : Block) (h off rotc k : Nat) (sp : Space) (snap : List Byte) (late : List (Nat × Nat)) (bad : List Nat),
    snap.length = hExtent h → k < hExtent h →
    let cur := nth 0 (s.bufRead b sp off (hExtent h)) k
    let t := s.tileTake b { hdr := h, loc := .buf sp off rotc snap late bad }
    ∃ snap' bad', t = { hdr := h, loc := .buf sp off rotc snap' late bad' } ∧ (nth 0 snap' k = nth 0 snap k ∨ nth 0 snap' k = cur) ∧
      ((∃ r ∈ late, r.1 ≤ off + k ∧ off + k < r.2) → nth 0 snap' k = nth 0 snap k)) ∧
  (∀ s : State,
    (let c := s.core s.ev.b s.ev.n
      let idle := c.mgate ≠ 0 ∧ c.idle + c.mgate.toNat ≤ s.cycle s.ev.b ∧ s.matrixBusy s.ev.b s.ev.n = false ∧
        (Assoc.getD { gated := false, wake := none } c.subs s.ev.k).wake = none
      (idle → Happens .matrixGate s fun t => Assoc.get? (t.core s.ev.b s.ev.n).subs s.ev.k = some { gated := true, wake := none }) ∧
      (¬ idle → exec .matrixGate s = .next s)) ∧
    (∀ gated at_, Assoc.get? (s.core s.ev.b s.ev.n).subs s.ev.k = some { gated := gated, wake := some at_ } →
      (at_ ≤ s.cycle s.ev.b → Happens .matrixWakeDone s fun t =>
        Assoc.get? (t.core s.ev.b s.ev.n).subs s.ev.k = some { gated := false, wake := none }) ∧
      (s.cycle s.ev.b < at_ → exec .matrixWakeDone s = .next s)) ∧
    (∀ b, s.block? s.ev.b = some b → b.place = .resident → let e := b.sub s.ev.k
      (e.batch ≠ [] → e.since + 256 ≤ s.cycle b.stk → Happens .subscriptionBatchTimeout s fun t => t.mem = s.mem ∧
        t.subnet = s.subnet ++ [{ blk := s.ev.b, ent := s.ev.k, upd := e.batch, rem := false, orphan := false }] ∧
        ∃ b', t.block? s.ev.b = some b' ∧ b'.sub s.ev.k = { e with batch := [] }) ∧
      (e.batch = [] ∨ s.cycle b.stk < e.since + 256 → exec .subscriptionBatchTimeout s = .next s)) ∧
    (∀ y b off bytes, nth? s.subnet s.ev.k = some y →
      (∀ z ∈ s.subnet.take s.ev.k, ¬ (z.blk = y.blk ∧ z.ent = y.ent)) → s.block? y.blk = some b → b.place = .resident → b.bars = [] →
      (b.sub y.ent).st = 1 → (b.sub y.ent).bar = false → y.orphan = false → y.upd = [(off, bytes)] →
      (∀ g ∈ b.groups, ∀ q ∈ g.splits, q.wait ≠ .batch 3 y.ent) → Happens .subscriptionBatchLand s fun t => t.subnet = dropNth s.subnet s.ev.k ∧
        ∃ b', t.block? y.blk = some b' ∧ WritesBuf b b' .scr off bytes ∧
          (b'.sub y.ent).fwd = ((b.sub y.ent).fwd + bytes.length) % 2 ^ 32) ∧
    (∀ b c gid rest, s.block? s.ev.b = some b → nth? b.conts s.ev.k = some c → b.freeGids = gid :: rest →
      let room := b.place = .resident ∧ b.preempt = none ∧ s.freeSlots b.stk b.core ≠ [] ∧ (s.core b.stk b.core).racq = [] ∧
        ceilDiv b.baseN 8 ≤ s.freeGranules b.stk b.core
      (¬ room → exec .continuationSpawn s = .next s) ∧
      (room → Happens .continuationSpawn s fun t => ∃ b', t.block? s.ev.b = some b' ∧ b'.groups.length = b.groups.length + 1 ∧
        ∃ g ∈ b'.groups, g.gid = gid ∧ g.sreg 1 = BitVec.ofNat 64 c.phase ∧ g.sreg 3 = BitVec.ofNat 64 (taggedScr c.boff))) ∧
    (∀ b g, s.block? s.ev.b = some b → b.group? s.ev.g = some g →
      (b.place = .resident → 4096 ≤ g.rot → g.suspended = false → Happens .splitRotation s fun t =>
        ∃ g', t.group? s.ev.b s.ev.g = some g' ∧ g'.rot = 0 ∧ g'.splits.length = g.splits.length ∧ g'.v = g.v ∧ g'.s = g.s ∧ g'.p = g.p) ∧
      (g.rot < 4096 → Happens .splitRotation s fun t => t.group? s.ev.b s.ev.g = some g)) ∧
    (∀ sel, s.ev.tlb = some sel → exec .tlbShootdown s = .next (if s.framesBusy (s.framesOf sel) = true then s else s.dropLeaves sel)))

/-- A deliverable message is granted, filled and acknowledged, taken, counted, bound, or voids its cells, or its group sleeps, or executes again where the queue has another element size (log entry 117); an unanswered one is sent again after 50 µs, and a second copy of its answer does nothing. An answer completes the waiting instruction with its result or puts it to sleep; an acknowledgement ends a put; a wake-up restarts a sleeper. Cells move into the window; a deposit lands and counts; a driver's replay of a logged fill or close notice acts as the message would, once; outboxes go on; the agent executes the request of each operation and sends the reply, one unacknowledged at a time (the model's choice, log entry 120). -/
def Obligations.PortEventsServeMessages : Prop :=
  (∀ (s : State) (m : Msg), s.ports.length = 5 → s.Delivers s.ev.k m →
    let d := s.desc m.win m.pq
    (∀ n ret, m.body = .reserve n ret → ret.op ≠ 0 ∨ ret.esz = d.esz → Happens .portReserve s fun t => t.net = dropNth s.net s.ev.k ∧
      t.mem = s.mem ∧ t.replies.dropLast = s.replies ∧
      let g := min (if n = 0 then d.cellsPer else n) d.room / d.cellsPer * d.cellsPer
      (g ≠ 0 → Answers s t m (.grant d.rsv g d.esz 0 ret) ∧ (t.desc m.win m.pq).rsv = seqAdd d.rsv g ∧
        (t.desc m.win m.pq).cells.length = d.cells.length + g) ∧
      (g = 0 → ∃ age, Answers s t m (.sleep { ret with wage := age }))) ∧
    (∀ n ret, m.body = .reserve n ret → ret.op = 0 → ret.esz ≠ d.esz → Happens .portReserve s fun t => t.net = dropNth s.net s.ev.k ∧
      t.mem = s.mem ∧ t.desc m.win m.pq = d ∧ Answers s t m (.again ret)) ∧
    (∀ op seq n why data, m.body = .fill op seq n why data → seq ≠ seqFail → (∃ c ∈ d.cells, c.seq = seq ∧ c.st = .reserved) →
      Happens .portFill s fun t => Consumes s t s.ev.k ∧ Answers s t m (.ack m.req m.blk m.gid) ∧
        (t.desc m.win m.pq).puts = (d.puts + 1) % 2 ^ 32 ∧ ∀ c ∈ d.cells, seqDist seq c.seq < d.cellsPer → c.st = .reserved →
          ∃ c' ∈ (t.desc m.win m.pq).cells, c'.seq = c.seq ∧ c'.st = .filled) ∧
    (∀ kind ret, m.body = .take kind ret → ret.esz ≠ d.esz → Happens .portTake s fun t => Consumes s t s.ev.k ∧
      t.mem = s.mem ∧ t.desc m.win m.pq = d ∧ Answers s t m (.again ret)) ∧
    (∀ kind ret, m.body = .take kind ret → ret.esz = d.esz → Happens .portTake s fun t => Consumes s t s.ev.k ∧ t.mem = s.mem ∧
      (∀ seq rest, d.ready = seq :: rest → (t.desc m.win m.pq).takes = (d.takes + 1) % 2 ^ 32 ∧
        Answers s t m (.taken kind seq (s.readCells m.win d seq d.cellsPer) { ret with bad := s.badWords m.win d seq })) ∧
      (d.ready = [] → kind = .try_ → t.replies.dropLast = s.replies ∧ Answers s t m (.nothing ret)) ∧
      (d.ready = [] → kind ≠ .try_ → t.replies.dropLast = s.replies ∧ ∃ age, Answers s t m (.sleep { ret with wage := age }))) ∧
    (∀ ret, m.body = .peek ret → Happens .portPeek s fun t => t.net = dropNth s.net s.ev.k ∧ t.mem = s.mem ∧
      t.replies.dropLast = s.replies ∧ Answers s t m (.counts d.ready.length d.room ret)) ∧
    (∀ b ret, m.body = .bind b ret → Happens .portBinding s fun t => Consumes s t s.ev.k ∧
      Answers s t m (.bound d.bind.isNone ret) ∧ (t.desc m.win m.pq).bind = some (d.bind.getD b)) ∧
    (∀ first n unbind, m.body = .close first n unbind → Happens .portCloseNotice s fun t => Consumes s t s.ev.k ∧
      ∀ c ∈ (t.desc m.win m.pq).cells, seqDist first c.seq < n → c.prod = m.prod → c.st ≠ .reserved)) ∧
  (∀ (s : State) (m : Msg), nth? s.kept s.ev.k = some m →
    (m.sent + 50000 ≤ s.time → s.fenced m = false → exec .messageResend s = .next { s with
      kept := setNth s.kept s.ev.k { m with sent := s.time }, nextLoad := s.nextLoad + 1,
      net := s.net ++ [{ m with sent := s.time, load := s.nextLoad, at_ := m.start s.pkg.toNat }] }) ∧
    (s.time < m.sent + 50000 ∨ s.fenced m = true → exec .messageResend s = .next s)) ∧
  (∀ (s : State) (y : Reply) (req : Nat), nth? s.replies s.ev.k = some y → y.out = none → y.at_ = .here y.dst → y.body.request? = some req →
    (∀ m ∈ s.kept, m.req ≠ req) →
    (y.body.sort = 0 → exec .queueAnswerArrival s = .next { s with replies := dropNth s.replies s.ev.k }) ∧
    (y.body.sort = 1 → exec .putAcknowledge s = .next { s with replies := dropNth s.replies s.ev.k })) ∧
  (∀ (s : State) (r : RetTo) (b : Block) (g : Group) (p : Split), s.block? r.blk = some b → b.group? r.gid = some g → g.split? r.age = some p →
    p.wait = .answer r.req → b.preempt = none →
    let Completed := fun (R : Group → Prop) => Happens .queueAnswerArrival s fun t =>
      ∃ g' p', t.group? r.blk r.gid = some g' ∧ g'.split? r.age = some p' ∧ p'.pc = p.pc + 4 ∧ p'.wait = .none ∧ R g'
    (∀ e c, s.Arrives s.ev.k (.counts e c r) → Completed fun g' => r.d ≠ 0 →
      g'.sreg r.d = BitVec.ofNat 64 (min e (2 ^ 32 - 1) + min c (2 ^ 32 - 1) * 2 ^ 32)) ∧
    (∀ refused, s.Arrives s.ev.k (.desc refused r) → Completed fun g' => r.d ≠ 0 → g'.sreg r.d = if refused then 1 else 0) ∧
    (s.Arrives s.ev.k (.nothing r) → Completed fun g' => ∀ l < 32, p.mask.getLsbD l = true → (g'.preg 6).getLsbD l = false) ∧
    (∀ seq data, s.Arrives s.ev.k (.taken .get seq data r) → Completed fun g' => ∀ j < data.length / 4, g.lanes.getLsbD (j % 32) = true →
      r.d + j / 32 < g.bound → g'.vreg (r.d + j / 32) (j % 32) = BitVec.ofNat 32 (leNat ((data.drop (4 * j)).take 4))) ∧
    (∀ first n esz why hd, s.Arrives s.ev.k (.grant first n esz why r) → r.op = 0 → Assoc.get? b.handles r.h = some hd → hd.asked = some r.req →
      Completed fun g' => r.d ≠ 0 → g'.sreg r.d = grantWord first n) ∧
    (∀ hd, s.Arrives s.ev.k (.bound true r) → Assoc.get? b.handles r.h = some hd →
      Completed fun g' => r.d ≠ 0 → g'.sreg r.d = BitVec.ofNat 64 r.h) ∧
    (∀ hd, s.Arrives s.ev.k (.sleep r) → Assoc.get? b.handles r.h = some hd → hd.opening = false → Happens .queueAnswerArrival s fun t =>
      ∃ g' p', t.group? r.blk r.gid = some g' ∧ g'.split? r.age = some p' ∧ p'.pc = p.pc ∧ p'.wait = .queue r.h ∧ p'.qage = r.wage)) ∧
  (∀ (s : State) (u gid req age : Nat) (b : Block) (g : Group), s.block? u = some b → b.group? gid = some g →
    (s.Arrives s.ev.k (.ack req u gid) → (∃ p ∈ g.puts, p.req = req) → Happens .putAcknowledge s fun t =>
      ∃ g', t.group? u gid = some g' ∧ (∀ p, p ∈ g'.puts ↔ p ∈ g.puts ∧ p.req ≠ req) ∧
        (g'.puts = [] → ∀ q ∈ g'.splits, ∀ n, q.wait ≠ .batch 2 n)) ∧
    (∀ p h, s.Arrives s.ev.k (.wake u gid age) → g.split? age = some p → p.wait = .queue h →
      let c : Cur := { blk := u, gid := gid, age := age }
      (s.sleepOnWay c = true → exec .queueWake s = .next s) ∧
      (s.sleepOnWay c = false → Happens .queueWake s fun t =>
        ∃ p', (t.group? u gid).bind (·.split? age) = some p' ∧ p'.wait = .none ∧ p'.pc = p.pc)) ∧
    (∀ p h, s.ev.b = u → s.ev.g = gid → s.ev.n = age → g.split? age = some p → p.wait = .queue h →
      let c : Cur := { blk := u, gid := gid, age := age }
      (s.recorded c = true → exec .queueWaitRetry s = .next s) ∧
      (s.recorded c = false → Happens .queueWaitRetry s fun t =>
        ∃ p', (t.group? u gid).bind (·.split? age) = some p' ∧ p'.wait = .none ∧ p'.pc = p.pc))) ∧
  (∀ s : State, s.shapely → s.ev.b < 5 →
    let d := s.desc s.ev.b s.ev.g
    Happens .superRefill s (fun t => t.mem = s.mem ∧
      (∀ c ∈ d.cells, d.due c = true → ∃ c' ∈ (t.desc s.ev.b s.ev.g).cells, c'.seq = c.seq ∧ c'.sram = true) ∧
      (∀ c, d.cells.filter d.due = [c] → Sparse.read (t.port s.ev.b).cells (d.sramAt c.seq) 64 = s.readMem (d.superAt c.seq) 64)) ∧
    (∀ b seq rest, d.bind = some b → b.glb = true → d.ready = seq :: rest → d.valid = true → d.dep = true →
      let pa := b.base + seq / d.cellsPer * d.bytes % b.dlen
      let data := s.readCells s.ev.b d seq d.cellsPer
      s.ownedAt d.bytes (.glb pa) = false → s.ownedAt 8 (.glb b.lcat) = false → pa + data.length ≤ b.lcat ∨ b.lcat + 8 ≤ pa → d.esz ≤ 4 →
      Happens .depositLanding s fun t =>
        (∀ k < d.bytes, Sparse.get t.mem (pa + k) = if b.landed.contains (seq, k / 4) then Sparse.get s.mem (pa + k) else nth 0 data k) ∧
        t.readNat b.lcat 8 = (s.readNat b.lcat 8 + d.bytes) % 2 ^ 64 ∧
        ∀ a, (a < pa ∨ pa + data.length ≤ a) → (a < b.lcat ∨ b.lcat + 8 ≤ a) → Sparse.get t.mem a = Sparse.get s.mem a) ∧
    (s.replayBars s.ev.b = true → exec .prgoReplayOne s = .next s ∧ exec .prgoReplayTwo s = .next s) ∧
    (s.replayBars s.ev.b = false → let e := s.staged s.ev.b 0
      Replays .prgoReplayOne s s.ev.b e (elementData e) ∧
      (bitOf e 320 = false → Happens .prgoReplayTwo s fun t => (t.source s.ev.b).refused = true) ∧
      (bitOf e 320 = true → Replays .prgoReplayTwo s s.ev.b e (elementData e ++ elementData (s.staged s.ev.b 1))))) ∧
  (∀ (s : State) (w : BitVec 512) (rest : List (BitVec 512)), s.shapely → s.ev.k < 5 →
    ((s.source s.ev.k).outbox = w :: rest → s.putRecord s.ev.k w = none → exec .outboxDrain s = .next s) ∧
    ((s.source s.ev.k).outbox = w :: rest → (s.putRecord s.ev.k w).isSome = true → Happens .outboxDrain s fun t =>
      ∃ more, (t.source s.ev.k).outbox = rest ++ more) ∧
    (s.ev.v.getLsbD 8 = true → (s.source s.ev.k).outbox.length < 32 → s.frontUp s.ev.k = true →
      Happens .evstatOvfClear s fun t => (t.source s.ev.k).ovf = false) ∧
    (s.ev.v.getLsbD 8 = false ∨ 32 ≤ (s.source s.ev.k).outbox.length ∨ s.frontUp s.ev.k = false → exec .evstatOvfClear s = .next s)) ∧
  (∀ s : State,
    (Serves .svcAdd s fun op _ => op == 0) ∧
    (Serves .svcSignedMin s fun op _ => op == 1) ∧
    (Serves .svcSignedMax s fun op _ => op == 2) ∧
    (Serves .svcUnsignedMin s fun op _ => op == 3) ∧
    (Serves .svcUnsignedMax s fun op _ => op == 4) ∧
    (Serves .svcAnd s fun op _ => op == 5) ∧
    (Serves .svcOr s fun op _ => op == 6) ∧
    (Serves .svcXor s fun op _ => op == 7) ∧
    (Serves .svcExchange s fun op _ => op == 8) ∧
    (Serves .svcCompareAndSwap s fun op _ => op == 9) ∧
    (Serves .svcF32Add s fun op wide => op == 10 && !wide) ∧
    (Serves .svcLoad s fun op _ => op == 11) ∧
    (Serves .svcUndefinedOp s fun op wide => decide (12 ≤ op) || (op == 10 && wide))) ∧
  (∀ (w old b c : Nat),
    svcNew 0 w old b c = (old + b) % 2 ^ w ∧ svcNew 3 w old b c = min old b ∧ svcNew 4 w old b c = max old b ∧
    svcNew 5 w old b c = old &&& b ∧ svcNew 6 w old b c = old ||| b ∧ svcNew 7 w old b c = old ^^^ b ∧ svcNew 8 w old b c = b ∧
    svcNew 9 w old b c = (if old = c then b else old) ∧ svcNew 11 w old b c = old ∧
    (0 < w → old < 2 ^ w → b < 2 ^ w → (BitVec.ofNat w (svcNew 1 w old b c)).toInt = min (BitVec.ofNat w old).toInt (BitVec.ofNat w b).toInt ∧
      (BitVec.ofNat w (svcNew 2 w old b c)).toInt = max (BitVec.ofNat w old).toInt (BitVec.ofNat w b).toInt))

/-- A command processor takes the next record of its queue, if it is of its kind, checks it and runs admission, which pays from the account when it covers the launch. A unit that may start is placed on its core, unstarted blocks move and none is lost, a block that may retire leaves. Resume records retry, enter the handler, or end a block or grid; an end waits for delayed reductions that must wait for their words; pre-emption records, requests, time-outs, saves and restores act as R59 to R65, R210, R211 and R215 to R217 say; the watchdog, the throttle and YIELDREQ write their fields. How admission pays for the nodes of a graph, when a block's watchdog is due, where a save goes and when a request may start, and that a release clears HOLD in every request, are the model's own (log entries 73, 76, 77 and 82). -/
def Obligations.LaunchAndPreemptionEventsActOnce : Prop :=
  (∀ (s : State) (r : Nat) (s1 : State), s.NextLaunch r s1 →
    let l := (s.desc 4 s.ev.g).launchOf r
    let c := s1.checkGrid l
    let d := s1.checkGraph l s1.nextUid
    (r % 256 = 2 → exec .launchGrid s = .next s) ∧
    (∀ e, r % 256 ≠ 2 → c.1 = .error e → exec .launchGrid s = .next (c.2.recordError l e)) ∧
    (∀ l', r % 256 ≠ 2 → c.1 = .ok l' → exec .launchGrid s = .next (c.2.enqueueAdmit l' false).admission) ∧
    (r % 256 ≠ 2 → exec .launchGraph s = .next s) ∧
    (∀ e, r % 256 = 2 → d.1 = .error e → exec .launchGraph s = .next (d.2.recordError l e)) ∧
    (∀ g, r % 256 = 2 → d.1 = .ok g → exec .launchGraph s = .next (d.2.enqueueAdmit l g.isNone).admission)) ∧
  (∀ (s : State) (a : Admit), s.admitHead = some a → a.l.kind ≠ 2 →
    let y := { s with admits := s.admits.filter fun x => x.seq != a.seq }.recordLayout a.l
    (s.covers a.l = false → s.admission = s) ∧
    (bitOf a.l.record 20 = false → y = (some none, { s with admits := s.admits.filter fun x => x.seq != a.seq })) ∧
    (s.covers a.l = true → y.1 = none → s.admitOne = some (y.2.recordError a.l 6)) ∧
    (∀ rec_, s.covers a.l = true → y.1 = some rec_ → ∃ t, s.admitOne = some t ∧ t.mem = y.2.mem ∧
      (t.part a.l.part).eacct = (y.2.part a.l.part).eacct - a.l.etot ∧ t.launches.length = y.2.launches.length + 1 ∧ t.admits = y.2.admits)) ∧
  (∀ (s : State) (a : Admit), nth? s.admits s.ev.k = some a → let c := s.checkGraph a.l a.seq
    (a.aside = false → exec .heldRecordReady s = .next s) ∧
    (a.aside = true → c.1 = .ok none → exec .heldRecordReady s = .next { c.2 with admits := c.2.admits.map fun (x : Admit) =>
      if x.seq = a.seq then { x with odd := c.2.oddSince a.l x.odd } else x }) ∧
    (∀ e, a.aside = true → c.1 = .error e → exec .heldRecordReady s =
      .next (State.recordError { c.2 with admits := c.2.admits.filter fun x => x.seq != a.seq } a.l e)) ∧
    (∀ g, a.aside = true → c.1 = .ok (some g) → exec .heldRecordReady s = .next { c.2 with admits := c.2.admits.map fun (x : Admit) =>
      if x.seq = a.seq then { x with aside := false } else x }.admission)) ∧
  (∀ s : State, (s.time < (s.refills + 1) * 1000 → exec .energyRefill s = .next s) ∧
    ((s.refills + 1) * 1000 ≤ s.time → s.admits = [] → exec .energyRefill s = .next { s with
      refills := s.refills + 1, parts := s.parts.map fun (x : Nat × Partition) =>
        (x.1, { x.2 with eacct := min (x.2.eacct + Int.ofNat x.2.pcap) x.2.emax }) })) ∧
  (∀ (s : State) (l : Launch) (w : Work) (c : Nat), s.launch? s.ev.k = some l → s.ev.cores = [c] → w.size = 1 → s.block? s.nextUid = none →
    ((s.workOn s.ev.b).find? fun w => !w.saved && w.launch == s.ev.k && w.lin == s.ev.n) = some w →
    let may := s.mayPlace s.ev.b w [c] = true ∧ s.fitsNew l s.ev.b c = true
    (¬ may → exec .blockPlacement s = .next s) ∧
    (may → Happens .blockPlacement s fun t => t.blocks.length = s.blocks.length + 1 ∧ ∃ b ∈ t.blocks, b.uid = s.nextUid ∧ b.launch = l.uid ∧
      b.lin = w.lin ∧ b.stk = s.ev.b ∧ b.core = c ∧ b.place = .resident ∧ b.rank = 0 ∧ b.S = [])) ∧
  (∀ s : State,
    let keeps := fun t : State => t.blocks = s.blocks ∧ t.mem = s.mem ∧
      t.launches.map (fun l => l.waiting.map (·.lin)) = s.launches.map (fun l => l.waiting.map (·.lin))
    (s.unstartedOn s.ev.b ≠ 0 → exec .blockSteal s = .next s) ∧
    (∀ k w l, s.ev.b < 4 → s.unstartedOn s.ev.b = 0 → k < 4 → w ∈ s.newWork k → s.launch? w.launch = some l → l.layout = none →
      Happens .blockSteal s fun t => keeps t ∧ t.unstartedOn s.ev.b ≠ 0) ∧
    ((∃ w ∈ s.newWork s.ev.b, w.clus = some s.ev.k) → exec .clusterForage s = .next s) ∧
    (∀ c w, s.ev.k < 24 → (∀ w ∈ s.newWork s.ev.b, w.clus ≠ some s.ev.k) → c < 24 → w ∈ s.newWork s.ev.b → w.clus = some c →
      Happens .clusterForage s fun t => keeps t ∧ ∃ w ∈ t.newWork s.ev.b, w.clus = some s.ev.k) ∧
    (∀ b, s.block? s.ev.b = some b →
      (s.mayRetire b = true → Happens .blockRetire s fun t => t.block? s.ev.b = none) ∧
      (s.mayRetire b = false → exec .blockRetire s = .next s)) ∧
    (∀ i e pq l, (s.insts.find? fun i => i.uid == s.ev.b) = some i → nth? i.nodes s.ev.k = some e → nth? i.pqs s.ev.k = some pq →
      nth? i.tmpl s.ev.k = some l → let d := s.desc 4 pq
      (0 < d.coal → d.coal ≤ d.ready.length → Happens .graphNodeLaunch s fun t => t.launches.length = s.launches.length + 1) ∧
      (d.coal = 0 ∨ d.ready.length < d.coal → exec .graphNodeLaunch s = .next (s.finishInst i.uid))) ∧
    (∀ b g p, s.ev.lo = false → s.block? s.ev.b = some b → b.place = .resident → b.longestWait = some (g, p) →
      let n := (s.launchOf b).interval
      let due := n ≠ 0 ∧ p.waitT + n ≤ s.time ∧ b.wdogAt ≤ p.waitT
      (¬ due → exec .watchdog s = .next s) ∧
      (due → Happens .watchdog s fun t => ∃ b', t.block? s.ev.b = some b' ∧ b'.wdogAt = s.time)) ∧
    (∀ a, s.ev.lo = true → nth? s.admits s.ev.k = some a → let odd := s.oddSince a.l a.odd
      let due := a.aside = true ∧ a.wdog = false ∧ a.l.interval ≠ 0 ∧ ∃ t0, odd = some t0 ∧ t0 + a.l.interval ≤ s.time
      Happens .watchdog s fun t => t.admits.length = s.admits.length ∧
        ∀ x ∈ s.admits, x.seq = a.seq → x.aside = true →
          ∃ y ∈ t.admits, y = { x with odd := odd, wdog := y.wdog } ∧ (y.wdog = true ↔ x.wdog = true ∨ due)) ∧
    (∀ b, s.block? s.ev.b = some b →
      (Happens .throttleChange s fun t => OnlyBlock s.ev.b s t fun b b' => b' = { b with throttled := decide (b.eres ≤ 0) }) ∧
      (Happens .yieldRequest s fun t => OnlyBlock s.ev.b s t fun b b' =>
        b' = if b.preempt.isSome = true ∨ b.place ≠ .resident then b else { b with yieldreq := s.ev.n % 64 }))) ∧
  (∀ (s : State) (part r : Nat) (s1 : State), s.NextResume part r s1 →
    let named := s1.suspendedAt part (recName r)
    (recKind r = 0x20 → recAction r = 0 ∧ named = none ∨ 3 < recAction r → exec .resumeRetry s = .next (s1.staleResume (recName r))) ∧
    (recKind r = 0x20 → recAction r = 1 → named = none → exec .resumeHandler s = .next (s1.staleResume (recName r))) ∧
    (∀ b g, recKind r = 0x20 → named = some (b, g) → s1.block? b.uid = some b → b.group? g.gid = some g → b.place = .resident →
      (recAction r = 0 → Happens .resumeRetry s fun t => ∃ g', t.group? b.uid g.gid = some g' ∧ g'.suspended = false ∧
        (∀ q ∈ g'.splits, q.wait ≠ .fault) ∧ g'.v = g.v ∧ g'.s = g.s ∧ (t.core b.stk b.core).l1 = []) ∧
      (∀ p, recAction r = 1 → g.trapVec ≠ 0 → (g.splits.find? fun p => decide (p.wait = .fault)) = some p → Happens .resumeHandler s fun t =>
        ∃ g' q, t.group? b.uid g.gid = some g' ∧ g'.suspended = false ∧ g'.handler.isSome = true ∧ g'.split? p.age = some q ∧
          q.pc = g.trapVec.setWidth 57 ∧ q.handler = true ∧ q.wait = .none) ∧
      (recAction r = 2 → s.endsNow 2 r = false → exec .resumeEndBlock s = .next s) ∧
      (recAction r = 3 → s.endsNow 3 r = false → exec .resumeEndGrid s = .next s) ∧
      (recAction r = 2 → s.endsNow 2 r = true → Happens .resumeEndBlock s fun t =>
        ∃ b', t.block? b.uid = some b' ∧ b'.ending = true ∧ b'.conts = [] ∧ b'.copies = [] ∧ b'.matops = [] ∧ b'.subs = []) ∧
      (recAction r = 3 → s.endsNow 3 r = true → b.launch < s1.nextUid → Happens .resumeEndGrid s fun t =>
        ∀ l ∈ t.launches, l.uid = b.launch → l.waiting = [] ∧ l.status = 2)) ∧
    (∀ l, s1.named part (recName r) = some l → s1.badPreempt part r = false → recKind r = 0x21 →
      let asks := fun (us : List Nat) (t : State) =>
        t.prereqs = s1.prereqs ++ [{ lid := l.lid, launch := l.uid, hold := bitOf r 16, left := us, saved := 0 }]
      (∀ b, recAction r = 0 → (s1.blocks.find? fun b => b.launch == l.uid && decide (b.place = .resident) &&
          !b.ending && b.bx == slice r 159 128 && b.blky == slice r 191 160 && b.bz == slice r 223 192) = some b →
        Happens .preemptOneBlock s fun t => asks ((s1.mates b).map (·.uid)) t) ∧
      (recAction r = 1 → let us := (s1.blocks.filter fun b => b.launch == l.uid && decide (b.place = .resident) && !b.ending).map (·.uid)
        Happens .preemptLaunch s fun t => (∀ x ∈ t.launches, x.uid = l.uid → bitOf r 16 = true → x.held = true) ∧ (us ≠ [] → asks us t)) ∧
      (recAction r = 2 → Happens .releaseHeldBlocks s fun t => (∀ x ∈ t.launches, x.uid = l.uid → x.held = false) ∧
        (∀ b ∈ t.blocks, b.launch = l.uid → b.held = false) ∧ ∀ q ∈ t.prereqs, q.launch = l.uid → q.hold = false))) ∧
  (∀ (s : State) (hold : Bool) (u : Nat) (b : Block), s.block? u = some b → s.poolFits (s.launchOf b).part b.stk (s.mates b) = true →
    ∀ q ∈ s.mates b, ∀ q', (s.request hold u).block? q.uid = some q' → q'.preempt.isSome = true) ∧
  (∀ s : State,
    (∀ r b, s.ev.lo = true → nth? s.prereqs s.ev.k = some r → s.ev.n ∈ r.left → s.block? s.ev.n = some b → b.preempt = none →
      exec .preemptionRequest s = .next (s.request r.hold s.ev.n)) ∧
    (s.ev.lo = false → s.ev.b < 4 → exec .preemptionRequest s = .next (s.distributorRequest s.ev.b)) ∧
    (∀ b q, s.block? s.ev.b = some b → b.preempt = some q → Happens .preemptTimeout s fun t => OnlyBlock s.ev.b s t fun b b' =>
      b' = { b with preempt := some (if q.t0 + 20000 ≤ s.time then { q with forced := true } else q) }) ∧
    (∀ b, s.block? s.ev.b = some b →
      let may := b.place = .resident ∧ b.preempt.isSome = true ∧ b.ending = false ∧ b.groups.all (s.groupStopped b) = true ∧ s.drained b = true
      (¬ may → exec .preemptSave s = .next s) ∧
      (∀ b0, may → (s.settleBlock b).block? s.ev.b = some b0 → let n := ((s.settleBlock b).areaImage b0).length
        (s.settleBlock b).areaFree ((s.settleBlock b).launchOf b0).part b0.stk s.ev.v.toNat n = true → Happens .preemptSave s fun t =>
        ∃ b', t.block? s.ev.b = some b' ∧ b'.place = .saved s.ev.v.toNat n ∧ b'.preempt = none ∧ b'.S = [])) ∧
    (∀ l w b c pa size, s.launch? s.ev.k = some l → s.ev.cores = [c] →
      ((s.savedWork s.ev.b).find? fun w => w.launch == s.ev.k && w.lin == s.ev.n) = some w →
      sortBy (·.lin) (s.savedOf w.launch (l.clusterOf w.lin)) = [b] → s.block? b.uid = some b → b.place = .saved pa size →
      s.mayPlace s.ev.b w [c] = true → s.fitsSaved b s.ev.b c = true →
      (∀ y ∈ s.blocks, ¬ (y.launch = w.launch ∧ l.clusterOf y.lin = l.clusterOf w.lin ∧ y.place = .resident)) →
      s.readNat pa 4 = 0x0768C7A0 → s.readNat (pa + 4) 1 = 1 → Happens .blockRestore s fun t =>
      ∃ b', t.block? b.uid = some b' ∧ b'.place = .resident ∧ b'.core = c ∧ b'.rank = 0 ∧ b'.yieldreq = s.readNat (pa + 68) 1 % 64))

/-- A good flit in sequence is delivered, a bad one counted, another dropped; a buffer is resent after 2 µs; retraining sets the width or takes the module down. CONNREQ, the drain and the switch change the circuits. The clamp lowers by 100 MHz down to 1800 and raises until 3600. A sample joins the 10 ms average and EPKG. Start-up sets STEP and ERR and holds the dies while identity or an image fails; a report signs the digests of the images; a die enters reset only without blocks; corrected words, checkpoints, accesses from outside, through the IOMMU for PCI Express, and writes to the windows (an accepted write of an SHM register among them) do their one thing, wait for a front link (120), or are refused. The model's own: EVMSI is written at once (123), a descriptor write carries one word and is judged with the others as they stand (89), a die with resident blocks does not enter reset (log entry 85), what a flit delivers is as its sender keeps it (24), the average begins with the samples there are and one sample stands for the time since the last (121), and the IOMMU's layout (114). -/
def Obligations.LinkAndControlEventsActOnce : Prop :=
  (∀ (s : State), let w := s.ev.b; let b := s.ev.g; let m := s.ev.k; let e := s.link w b m
    (e.down = true ∨ e.training.isSome = true ∨ linkModules w b ≤ m → exec .flitReceive s = .next s) ∧
    (∀ x y f rest, e.down = false → e.training = none → m < linkModules w b → w < 5 → linkPeer w b = some (x, y) → (s.link x y m).out = f :: rest →
      let f' := f ^^^ s.ev.w
      let kept := (s.link x y m).buf.find? fun (k : Sent) => k.seq == field f' 11 0
      (flitBad f' = true → Happens .flitReceive s fun t => (t.link w b m).crcerr = (e.crcerr + 1) % 2 ^ 16 ∧ (t.link w b m).got = e.got) ∧
      (flitBad f' = false → field f' 12 12 = 0 → e.e < 4096 → field f' 11 0 = e.e → kept = none → Happens .flitReceive s fun t =>
        (t.link w b m).e = (e.e + 1) % 4096 ∧ (t.link w b m).got = e.got ++ [(field f' 14 13, BitVec.ofNat 1920 (field f' 1983 64))]) ∧
      (∀ k, flitBad f' = false → field f' 12 12 = 0 → e.e < 4096 → field f' 11 0 = e.e → kept = some k → k.dead = [] →
        Happens .flitReceive s fun t => (t.link w b m).e = (e.e + 1) % 4096 ∧ (t.link w b m).got = e.got ++ [(k.cls, k.payload)] ∧
          ∀ z ∈ s.net, z.at_ = .riding x y m → k.ends.contains z.load = true → { z with at_ := .here (endDie w b) } ∈ t.net) ∧
      (flitBad f' = false → field f' 12 12 = 0 → e.e < 4096 → field f' 11 0 < 4096 → field f' 11 0 ≠ e.e → Happens .flitReceive s fun t =>
        (t.link w b m).e = e.e ∧ (t.link w b m).got = e.got)) ∧
    (∀ x rest, e.buf = x :: rest →
      (x.at_ + 2000 ≤ s.time → e.training = none → e.down = false → Happens .replayTimeout s fun t =>
        (t.link w b m).out = e.out ++ e.buf.map (·.flit) ∧ (t.link w b m).replays = (e.replays + 1) % 2 ^ 16) ∧
      (s.time < x.at_ + 2000 ∨ e.training.isSome = true ∨ e.down = true → exec .replayTimeout s = .next s)) ∧
    (e.training = none ∨ e.leads = false → exec .retrainComplete s = .next s) ∧
    (∀ driver at_, e.training = some (driver, at_) → e.leads = true → m < 64 → b < 8 → Happens .retrainComplete s fun t =>
      (t.link w b m).training = none ∧
        (t.link w b m).width = (if driver = true ∧ s.ev.lo = true ∧ s.ev.hi = true then linkFull w b
          else if s.ev.lo = true ∨ s.ev.hi = true then linkFull w b / 2 else 0) ∧
        ((t.link w b m).down = true ↔ s.ev.lo = false ∧ s.ev.hi = false)) ∧
    (s.frontUp w = false → exec .lctlRetrain s = .next s) ∧
    (s.shapely → w < 5 → b < 5 → ¬ (w = 4 ∧ b = 4) → m < linkModules w b → s.ev.v.getLsbD 0 = true → s.frontUp w = true →
      (e.training.isSome = true → Happens .lctlRetrain s fun t => (t.source w).refused = true) ∧
      (e.training = none → Happens .lctlRetrain s fun t => (t.link w b m).training = some (true, s.time) ∧ (t.link w b m).leads = true))) ∧
  (∀ (s : State) (t0 : Nat) (now : BitVec 32), let map : BitVec 32 := s.ev.v.setWidth 32
    (s.shapely → s.connbusy.isSome = true ∨ map.getLsbD (s.pkg.toNat / 32) = false → Happens .connreqWrite s fun t =>
      (t.source 4).refused = true ∧ t.conngrp = s.conngrp) ∧
    (s.connbusy = none → map.getLsbD (s.pkg.toNat / 32) = true → exec .connreqWrite s =
      .next { s with connmap := map, conngrp := s.conngrp &&& map, connbusy := some (map, s.time, false) }) ∧
    (s.connbusy = some (now, t0, false) →
      ((∀ m ∈ s.kept, s.connected m.pkg = true) → exec .reconfigDrainEnd s = .next { s with connbusy := some (now, t0, true) }) ∧
      ((∃ m ∈ s.kept, s.connected m.pkg = false) → s.time < t0 + 10000000 → exec .reconfigDrainEnd s = .next s)) ∧
    (s.connbusy = some (now, t0, true) → Happens .reconfigSwitchDone s fun t => t.conngrp = now ∧ t.connbusy = none)) ∧
  (∀ (s : State), let p := s.power
    let us := (s.time - p.lastSample) / 1000
    let l := (List.replicate (min us 10000) s.ev.k ++ p.samples).take 10000
    let avg := l.sum / max 1 l.length
    let hot := 4000 ≤ avg ∨ 4400 ≤ s.ev.k ∨ s.ev.hot.isSome = true
    (s.time < p.lastSample + 1000 → exec .powerSample s = .next s) ∧
    (p.lastSample + 1000 ≤ s.time → Happens .powerSample s fun t => t.power.avg = avg ∧ t.power.samples = l ∧
      t.epkg = (s.epkg + 1024 * s.ev.k * us) % 2 ^ 64 ∧
      (p.clamp = false → hot → t.power.clamp = true ∧ t.power.mhz = if p.mhz ≤ 1800 then p.mhz else p.mhz - 100) ∧
      (p.clamp = true ∨ ¬ hot → t.power.clamp = p.clamp ∧ t.power.mhz = p.mhz)) ∧
    (p.clamp = false ∨ s.time < p.lastDecision + 10000 → exec .powerClampDecision s = .next s) ∧
    (p.clamp = true → p.lastDecision + 10000 ≤ s.time →
      let lower := 4000 ≤ p.avg ∨ p.peak = true ∨ s.ev.hot.isSome = true
      Happens .powerClampDecision s fun t =>
        (lower → t.power.mhz = (if p.mhz ≤ 1800 then p.mhz else p.mhz - 100) ∧ t.power.clamp = true) ∧
        (¬ lower → 3900 ≤ p.avg → t.power.mhz = p.mhz ∧ t.power.clamp = true) ∧
        (¬ lower → p.avg < 3900 → t.power.mhz = p.mhz + 100 ∧ t.power.clamp = decide (p.mhz + 100 < 3600))) ∧
    (∀ i, s.ev.boot = some i →
      let linksOk := ∀ x ∈ i.badLinks, x.2.1 = 4
      let accepted := i.firmware.edOk = true ∧ i.firmware.mldsaOk = true ∧ i.config.edOk = true ∧ i.config.mldsaOk = true
      let started := fun t : State => t.pkg = i.pkg ∧ t.evmsi = i.evmsi &&& 0x80FFFFFFFFFFF1FF ∧ t.boot.images = some (i.firmware, i.config) ∧
        t.boot.scrubOff = i.scrubOff ∧ ∀ k ∈ t.dies, k.dieReset = false
      (i.identityOk = false → Happens .powerOnBoot s fun t => t.boot.step = 0 ∧ t.boot.err = 1 ∧ ∀ k ∈ t.dies, k.dieReset = true) ∧
      (i.identityOk = true → ¬ accepted → Happens .powerOnBoot s fun t => t.boot.step = 1 ∧ t.boot.err = 2 ∧ t.boot.tries = 1 ∧
        ∀ k ∈ t.dies, k.dieReset = true) ∧
      (i.identityOk = true → accepted → Happens .powerOnBoot s fun t => started t ∧
        (¬ linksOk → t.boot.step = 2 ∧ t.boot.err = 3) ∧
        (linksOk → i.hbmOk = false → t.boot.step = 3 ∧ t.boot.err = 4) ∧
        (linksOk → i.hbmOk = true → t.boot.step = (if s.ev.hi then 6 else 5) ∧
          t.boot.err = if i.fabricOk = true ∧ i.badLinks = [] then 0 else 5)) ∧
      (s.boot.err ≠ 2 → exec .recoveryImage s = .next s) ∧
      (s.boot.err = 2 → ¬ accepted → Happens .recoveryImage s fun t =>
        t.boot.err = 2 ∧ t.boot.tries = min 255 (s.boot.tries + 1)) ∧
      (s.boot.err = 2 → i.identityOk = true → accepted → i.badLinks = [] → i.hbmOk = true → i.fabricOk = true →
        Happens .recoveryImage s fun t => t.boot.err = 0 ∧ started t)) ∧
    (s.boot.images = none → exec .attestationRequest s = .next s) ∧
    (∀ fw cfg, s.boot.images = some (fw, cfg) → Happens .attestationRequest s fun t => t.mem = s.mem ∧ ∃ r : Report,
      t.hostOut = s.hostOut ++ [.report s.ev.k r] ∧ r.nonce = s.ev.w.setWidth 512 ∧ r.keys = Config.deviceKeys ∧ r.rom = Config.romDigest ∧
        r.firmware = Config.sha384 (leBytes 64 fw.header.toNat ++ fw.body) ∧ r.config = Config.sha384 (leBytes 64 cfg.header.toNat ++ cfg.body) ∧
        r.versions = (Config.imageVersion fw.header, Config.imageVersion cfg.header) ∧
        r.ed = Config.sign false r.firmware r.config r.versions.1 r.versions.2 r.nonce ∧
        r.mldsa = Config.sign true r.firmware r.config r.versions.1 r.versions.2 r.nonce) ∧
    (s.shapely → s.ev.b < 4 →
      ((∃ b ∈ s.blocks, b.place = .resident ∧ b.stk = s.ev.b) → exec .computeDieResetEnter s = .next s) ∧
      ((∀ b ∈ s.blocks, ¬ (b.place = .resident ∧ b.stk = s.ev.b)) → Happens .computeDieResetEnter s fun t =>
        (t.stack s.ev.b).dieReset = true ∧ t.mem = s.mem) ∧
      ((s.stack s.ev.b).dieReset = true → s.boot.err ≠ 1 → s.boot.err ≠ 2 → Happens .computeDieResetExit s fun t =>
        (t.stack s.ev.b).dieReset = false ∧ (t.stack s.ev.b).cycle = 0 ∧ t.mem = s.mem) ∧
      ((s.stack s.ev.b).dieReset = false ∨ s.boot.err = 1 ∨ s.boot.err = 2 → exec .computeDieResetExit s = .next s)) ∧
    (∀ x, s.ev.scrub = some x → (if x.reg then 0 else x.cls) ∈ s.boot.scrubOff → exec .scrubPass s = .next s) ∧
    (∀ x, s.shapely → s.ev.scrub = some x → (if x.reg then 0 else x.cls) ∉ s.boot.scrubOff → x.corrected = true → x.win < 4 → x.cls < 7 → Happens .scrubPass s fun t =>
      Assoc.getD 0 (t.stack x.win).corrected x.cls = min (Assoc.getD 0 (s.stack x.win).corrected x.cls + 1) (2 ^ 32 - 1) ∧ t.mem = s.mem) ∧
    (s.ev.v.getLsbD 0 = false → exec .checkpointStart s = .next s) ∧
    (s.ev.v.getLsbD 0 = true → Happens .checkpointStart s fun t => t.ckpt.status = 1 ∧ t.ckpt.list.toNat = s.ev.v.toNat / 256 * 256 ∧
      t.ckpt.path = s.ev.v.getLsbD 1 ∧ t.ckpt.copied = if s.ckpt.status = 1 then s.ckpt.copied else 0) ∧
    (s.ckpt.status ≠ 1 ∨ s.ev.lo = true ∧ s.ckpt.copied < 4 * stackLines → exec .checkpointDone s = .next s) ∧
    (s.ckpt.status = 1 → s.ev.lo = false ∨ 4 * stackLines ≤ s.ckpt.copied → Happens .checkpointDone s fun t =>
      t.ckpt.status = (if s.ev.lo then 2 else 3) ∧ t.mem = s.mem)) ∧
  (∀ (s : State) (a : BusAccess), s.ev.bus = some a → busFits a = true →
    let waits := fun (s : State) (a : BusAccess) => isDeviceMemory a.pa = true ∧ (s.frontUp (homeOf a.pa) = false ∨ s.engineOwns a.pa (busBytes a) = true)
    let Served := fun (s : State) (a : BusAccess) (t : State) =>
      (isDeviceMemory a.pa = false → t = { s with hostOut := s.hostOut ++ [.error a.who] }) ∧
      (isDeviceMemory a.pa = true →
        (∀ l, a.write = some l → a.amo = none → WritesMem s t a.pa l) ∧
        (a.write = none → s.poisoned = [] → t = { s with hostOut := s.hostOut ++ [.data a.who (s.readMem a.pa (busBytes a))] }) ∧
        (∀ l op, a.write = some l → a.amo = some op → s.poisoned = [] →
          t.hostOut = s.hostOut ++ [.data a.who (s.readMem a.pa a.len)] ∧
          WritesMem s t a.pa (leBytes a.len (svcNew op (8 * a.len) (s.readNat a.pa a.len) (leNat (l.take a.len)) (leNat (l.drop a.len))))))
    let aperture := fun pa : Nat => 9 ≤ pa / 2 ^ 44 ∧ pa / 2 ^ 44 ≤ 11
    ((windowOf a.pa).isSome = true ∨ waits s a → exec .hostCoherentAccess s = .next s) ∧
    (windowOf a.pa = none → aperture a.pa → exec .hostCoherentAccess s = .next { s with hostOut := s.hostOut ++ [.peer a.who a.pa a.write a.len] }) ∧
    (windowOf a.pa = none → ¬ aperture a.pa → ¬ waits s a → Happens .hostCoherentAccess s (Served s a)) ∧
    let s1 := { s with dma := s.dma ++ [a] }
    let behind := ∃ e ∈ s.dma, e.dev = a.dev ∧ e.write.isSome = true
    (a.amo = none → behind → exec .pcieDma s = .next s1) ∧
    (∀ f, a.amo = none → ¬ behind → s1.ioTranslate a = .error f → exec .pcieDma s = .next (s.ioFail a f)) ∧
    (∀ dc e t0, a.amo = none → ¬ behind → s1.ioTranslate a = .ok (dc, e, t0) →
      let s2 := { t0 with dma := s.dma }
      let q := { a with pa := e.pbase + (a.pa - e.vbase) }
      (a.at_ = 1 → exec .pcieDma s = .next (s2.ioAnswer a dc e)) ∧
      (a.at_ ≠ 1 → Happens .pcieDma s fun t => ∀ l, Config.imsicAt (q.pa / 4096) ≠ none → a.write = some l → q.pa % 4096 = 0 → l.length = 4 →
        t.hostOut = s2.hostOut ++ [.msi q.pa (leNat l)] ∧ t.mem = s2.mem) ∧
      (a.at_ ≠ 1 → aperture q.pa → Happens .pcieDma s fun t => Config.imsicAt (q.pa / 4096) = none →
        t = { s2 with hostOut := s2.hostOut ++ [.peer a.who q.pa a.write a.len] }) ∧
      (a.at_ ≠ 1 → ¬ aperture q.pa → ¬ waits s2 q → Happens .pcieDma s fun t =>
        Config.imsicAt (q.pa / 4096) = none → Served s2 q t))) ∧
  (∀ (s : State) (a : BusAccess), slice s.iommu.ddtp 3 0 = 1 → a.at_ = 0 →
    ∃ e, s.ioTranslate a = .ok ([], e, s) ∧ e.pbase + (a.pa - e.vbase) = a.pa) ∧
  (∀ (s : State), s.shapely →
    (s.ev.b < 4 → s.ev.k < 6 → s.ev.g < 16 →
      let held := ∃ b ∈ s.blocks, b.stk = s.ev.b ∧ (s.launchOf b).part = s.ev.g
      (s.frontUp s.ev.b = false → exec .shmWrite s = .next s) ∧
      (s.frontUp s.ev.b = true → held ∨ s.ev.lo = true → Happens .shmWrite s fun t =>
        (t.source s.ev.b).refused = true ∧ t.parts = s.parts) ∧
      (s.frontUp s.ev.b = true → ¬ held → s.ev.lo = false → s.ev.k < (nth [] (s.part s.ev.g).shm s.ev.b).length →
        s.ev.b < (s.part s.ev.g).shm.length → Happens .shmWrite s fun t => t.blocks = s.blocks ∧ t.mem = s.mem ∧ t.sources = s.sources ∧
          (∀ k j, nth 0 (nth [] (t.part s.ev.g).shm k) j =
            if k = s.ev.b ∧ j = s.ev.k then s.ev.v &&& 0x00003FFFFFFFFFC0 else nth 0 (nth [] (s.part s.ev.g).shm k) j) ∧
          ∀ p < 16, p ≠ s.ev.g → t.part p = s.part p)) ∧
    (s.ev.b < 5 → s.ev.g < 4096 → s.ev.n < 8 → s.frontUp s.ev.b = true → let d := s.desc s.ev.b s.ev.g
      let new := d.ofImage (BitVec.ofNat 512 (putBits (s.descImage d).toNat (64 * s.ev.n) 64 s.ev.v.toNat))
      (d.valid = true → d.rsv ≠ d.head → s.ev.n ≠ 6 → Happens .descriptorWrite s fun t =>
        (t.source s.ev.b).refused = true ∧ t.ports = s.ports) ∧
      (s.descBad s.ev.b s.ev.g new = true → Happens .descriptorWrite s fun t => (t.source s.ev.b).refused = true ∧ t.ports = s.ports) ∧
      (d.valid = false ∨ d.rsv = d.head ∨ s.ev.n = 6 → s.descBad s.ev.b s.ev.g new = false → Happens .descriptorWrite s fun t =>
        let d' := t.desc s.ev.b s.ev.g
        d'.valid = new.valid ∧ d'.kind = new.kind ∧ d'.esz = new.esz ∧ d'.win = new.win ∧ d'.coal = new.coal ∧ d'.dtag = new.dtag)) ∧
    (s.frontUp s.ev.b = false → exec .registerWrite s = .next s ∧ exec .descriptorWrite s = .next s) ∧
    (s.ev.b = 4 → s.ev.n = 0x600000018 → Happens .registerWrite s fun t => t.evmsi = s.ev.v &&& 0x80FFFFFFFFFFF1FF ∧
      t.blocks = s.blocks ∧ t.mem = s.mem ∧ t.ports = s.ports ∧ t.parts = s.parts) ∧
    (s.ev.b < 5 → s.frontUp s.ev.b = true → s.ev.n = 0 → s.ev.v.getLsbD 0 = true → Happens .registerWrite s fun t => (t.source s.ev.b).refused = false) ∧
    (∀ k, s.ev.b < 4 → s.frontUp s.ev.b = true → k < 64 → s.ev.n = 0xB000 + 4 * k → s.ev.v.setWidth 32 = (0 : BitVec 32) → Happens .registerWrite s fun t =>
      Assoc.getD 0 (t.stack s.ev.b).faults k = 0) ∧
    Happens .rootinvWrite s (fun t => t.mem = s.mem ∧ ∀ r ∈ t.rcache, r ∈ s.rcache ∧
      ¬ (r.1 = s.ev.g ∧ (s.ev.v.getLsbD 16 = true ∨ r.2.1.toNat = field s.ev.v 15 0))) ∧
    Happens .lrinvWrite s (fun t => t.mem = s.mem ∧ ∀ c ∈ t.lcache, c ∈ s.lcache ∧
      ¬ (c.part = s.ev.g ∧ c.asid.toNat = field s.ev.v 15 0 ∧ (s.ev.v.getLsbD 22 = true ∨ c.slot = field s.ev.v 21 16))) ∧
    (windowOf s.ev.v.toNat = none → exec .entryLatchRead s = .next s) ∧
    (∀ w, windowOf s.ev.v.toNat = some w → s.frontUp w = false → exec .entryLatchRead s = .next s) ∧
    (∀ w, windowOf s.ev.v.toNat = some w → s.frontUp w = true → Happens .entryLatchRead s fun t =>
      t.mem = s.mem ∧ ∃ l, t.hostOut = s.hostOut ++ [.data s.ev.k l]) ∧
    ((s.source 4).outbox ≠ [] → (s.source 4).outbox.length < 32 → Happens .ratedConditionExcursion s fun t =>
      (t.source 4).outbox.length = (s.source 4).outbox.length + 1) ∧
    (s.ev.b < 5 → (s.source s.ev.b).outbox ≠ [] → (s.source s.ev.b).outbox.length < 32 → Happens .duplicateAndCompareMismatch s fun t =>
      (t.source s.ev.b).outbox.length = (s.source s.ev.b).outbox.length + 1))

/-- For every well-formed instruction word of the table (a device event has none) the four bytes of its encoding decode to it and leave the bytes behind them; a word that is no instruction decodes to illegalInstruction, exactly for the OP values of R86. The four QXSET rows share one word (R388), which decodes to the row of OP 0. Whatever a word decodes to encodes to that word and is well formed. -/
def Obligations.DecodeAndEncodeAgree : Prop :=
  let gap : Nat → Bool := fun op => [0x00, 0x0E, 0x0F, 0x57, 0x58, 0x59, 0x5A, 0x5B, 0x5C, 0x5D, 0x5E, 0x5F, 0x6E, 0x6F, 0x7A, 0x7B, 0x7C, 0x7D,
    0x7E, 0x7F, 0x9F, 0xAC, 0xAD, 0xAE, 0xAF, 0xBD, 0xBE, 0xBF, 0xCD, 0xCE, 0xCF, 0xD7, 0xD8, 0xD9, 0xDA, 0xDB, 0xDC, 0xDD, 0xDE, 0xDF,
    0xF5, 0xF6, 0xF7, 0xF8, 0xF9, 0xFA, 0xFB, 0xFC, 0xFD, 0xFE, 0xFF].contains op
  (∀ (i : Instr) (rest : List Byte), i.wf = true → isEvent i = false →
    (∀ d a b, i ≠ .qxsetDropAsid d a b ∧ i ≠ .qxsetDropAll d a b ∧ i ≠ .qxsetWriteDescriptor d a b) →
    (∀ w, i = .illegalInstruction w → gap (w.toNat / 2 ^ 24) = true) →
    decode (bytesOfWord (encode i).toNat ++ rest) = .ok (i, rest)) ∧
  (∀ (d a b : BitVec 6), encode (.qxsetDropAsid d a b) = encode (.qxsetDropVqn d a b) ∧ encode (.qxsetDropAll d a b) = encode (.qxsetDropVqn d a b) ∧
    encode (.qxsetWriteDescriptor d a b) = encode (.qxsetDropVqn d a b)) ∧
  (∀ (w : Word) (i : Instr), decodeWord w.toNat = .ok i → encode i = w ∧ i.wf = true ∧ isEvent i = false) ∧
  (∀ w : Word, decodeWord w.toNat = .ok (.illegalInstruction w) ↔ gap (w.toNat / 2 ^ 24) = true)

/-- One word or more of every row of the opcode map, put together by hand from the formats of R70, the sources of R73, the destinations of R74, the spaces of R89 and the OP values of R85, decodes to its instruction; a reserved source and W = 1 on a scalar instruction are rejected; the all-zero word is no nop. -/
def Obligations.KnownWordsDecode : Prop :=
  decodeWord 0x01000000 = .ok .nop ∧
  decodeWord 0x100501C3 = .ok (.add false 5 (.v 1) (.s 3)) ∧
  decodeWord 0x2703FFFE = .ok (.movi false 3 0xFFFE) ∧
  decodeWord 0x30018089 = .ok (.cmpeq false 1 (.latch 0) .glane) ∧
  decodeWord 0x43808188 = .ok (.fma true 0 (.latch 1) .laneid) ∧
  decodeWord 0x52040102 = .ok (.cvtup false 4 (.v 1) 2) ∧
  decodeWord 0x6A0405C6 = .ok (.scan 4 (.v 5) 6) ∧
  decodeWord 0x70FFFFF0 = .ok (.bra 0xFFFFF0) ∧
  decodeWord 0x76000027 = .ok (.setmode 0x0027) ∧
  decodeWord 0x82070223 = .ok (.ld32 7 (.v 2) .scr 3) ∧
  decodeWord 0x890204A1 = .ok (.st128 2 1 .acc 1) ∧
  decodeWord 0x900306C1 = .ok (.aadd 3 (.vpair 3) (.s 1)) ∧
  decodeWord 0xA003C4C6 = .ok (.copy 3 2 3) ∧
  decodeWord 0xB00410C8 = .ok (.mma 2 (.reg 16) (.buf 4)) ∧
  decodeWord 0xC4050201 = .error (.illegalOperand 0xC4050201) ∧
  decodeWord 0xC405C100 = .ok (.qget 5 1) ∧
  decodeWord 0xD603C4C5 = .ok (.qxsetDropVqn 3 4 5) ∧
  decodeWord 0xE981C205 = .error (.illegalOperand 0xE981C205) ∧
  decodeWord 0xE901C205 = .ok (.saddi 1 2 5) ∧
  decodeWord 0xF103C1C2 = .ok (.cwait 3 1 2) ∧
  decodeWord 0 = .ok (.illegalInstruction 0)

/-- When the agenda gives a cycle to an issue slot, the slot takes a turn with a split, the split's PC translates with X to a PA, no word there is uncorrectable and none has been fetched ahead, and the four bytes decode to an instruction, then that is well formed and the step is exec of it with the split as the issuer, followed by what ends an issue: the chain's slot, the date of a wait, a stop. How the agenda comes to name the slot is the model's own (log entry 1). -/
def Obligations.StepRunsDecodedInstruction : Prop :=
  ∀ (s : State) (stk core slot : Nat) (rest : List Act) (c : Cur) (s1 : State) (b : Block) (g : Group) (p : Split) (pa : Nat) (i : Instr),
    s.agenda = .issue stk core slot :: rest → s.boot.held = false → { s with agenda := rest, tick := s.tick + 1 }.slotTurn stk core slot = .go c s1 →
    s1.block? c.blk = some b → b.group? c.gid = some g → g.split? c.age = some p →
    s1.checkVa p.walked b.stk b.core (s1.launchOf b) p.pc.toNat kindX = .ok pa → s1.poisonAt (.glb pa) 4 = none →
    (∀ e ∈ g.fetched, e.1 ≠ pa) → decode (s1.readMem pa 4) = .ok (i, []) →
    let word : Word := BitVec.ofNat 32 (leNat (s1.readMem pa 4))
    let s2 : State := { (s1.updCur c fun g => { g with fetched := (pa, word) :: g.fetched }) with cur := some c }
    i.wf = true ∧
    (∀ t, exec i s2 = .next t → step s = .next (t.endIssue stk core slot c)) ∧
    (∀ r, exec i s2 = .fault r → step s = .fault r) ∧ (∀ r, exec i s2 = .refused r → step s = .refused r)

/-- Whatever a step does (an instruction of any kind, a device event, time, an outside agent), device memory stays a list of addresses that rise strictly and of bytes that are not the one an unlisted address reads as, and the package keeps its four stacks, five queue ports and five sources of records. The canonical form and the byte of an unlisted address are the model's own (log entry 6). -/
def Obligations.StepKeepsMemoryForm : Prop :=
  ∀ (s t : State), s.memWf = true → s.shapely → step s = .next t → t.memWf = true ∧ t.shapely

/-- TIME, CYCLE and EPKG count from 0, the counters of R425 and R373 hold 0, MGATE is 1,024 and MWAKELAT 96, SHM0 to SHM5 hold the values of R234, LSTAT shows a full-width module with all counts 0, BOOTSTAT and CTLSTAT read 0, the arithmetic clock is 3,600 MHz, no partition exists, and no queue is valid. That CKCTL reads 0, and that nothing is resident, is the model's own (log entry 7). -/
def Obligations.ResetLeavesStatedValues : Prop :=
  let s := State.reset
  s.memWf = true ∧ s.shapely ∧ s.blocks = [] ∧ s.launches = [] ∧ s.admits = [] ∧ s.net = [] ∧ s.time = 0 ∧ s.epkg = 0 ∧
    (∀ k < 4, s.cycle k = 0 ∧ (∀ c < 64, Assoc.getD 0 (s.stack k).faults c = 0) ∧ ∀ n < 7, Assoc.getD 0 (s.stack k).corrected n = 0) ∧
    (∀ k n, (s.core k n).mgate = 1024 ∧ (s.core k n).mwakelat = 96) ∧
    (∀ w < 5, s.ctlstat w = 0 ∧ (s.source w).stat = 0 ∧ ∀ q, (s.desc w q).valid = false) ∧
    (∀ w < 5, ∀ b < 5, ∀ m < linkModules w b, (s.link w b m).stat = linkFull w b) ∧
    (∀ p < 16, ∀ k < 4, nth [] (s.part p).shm k = [0x1040, 0x2080, 0x4100, 0x8200, 0x10400, 0x20800]) ∧
    (∀ p < 16, (s.part p).exist = false ∧ (s.part p).ready = false) ∧ s.boot.stat = 0 ∧ s.ckpt.reg = 0 ∧
    s.power.mhz = 3600 ∧ s.power.clamp = false ∧ s.connbusy = none

/-- For every instruction of the table and every state in which a split issues it, exec answers a next state: the decode fault of R78 is taken first, in its order: ILLEGAL-OPERAND, LATCH-RANGE for a latch that the open chain does not have or that follows position 7, CHAIN-HAZARD for a register that the chain so far reads and that is written, REG-RANGE, PRIVILEGE (that a privileged qxset comes before the values of its registers is log entry 132); else a pending register makes the split wait; else an uncorrectable register it reads raises UNCORRECTABLE with the register's code; else its own effect follows. Without an issuing split exec faults, which no step does: an event always answers a next state, and so does every step. -/
def Obligations.EveryInstructionAnswers : Prop :=
  (∀ (i : Instr) (s : State) (x : Ctx), isEvent i = false → Sees i s x →
    (∃ t, exec i s = .next t) ∧
    (∀ f, x.check i = some f → exec i s = .next (x.s.takeTrap x.c f)) ∧
    (x.check i = none → x.pending i = true → exec i s = .next (x.waitAs (x.p.operandWait i))) ∧
    (∀ r, x.check i = none → x.pending i = false → x.badRegister i = some r →
      exec i s = .next (x.s.takeTrap x.c { cause := 0x1C, val := 0xFFFFFFFFFFFFFF00 + r }))) ∧
  (∀ (i : Instr) (s : State) (x : Ctx), isEvent i = false → Sees i s x →
    let u := useOf x.mode x.mmode i
    let word := (encode i).toNat + x.pos % 8 * 2 ^ 32
    let raises := fun cause => exec i s = .next (x.s.takeTrap x.c { cause := cause, val := word })
    let latch := u.lat ≠ [] ∧ (x.pos = 0 ∨ 8 ≤ x.pos ∨ ∃ k ∈ u.lat, x.pos ≤ k)
    let hazard := ∃ ch, x.g.chain = some ch ∧ 0 < x.pos ∧ (ch.viol = true ∨ (∃ r ∈ u.vw, r ∈ u.vr ++ ch.vr) ∨
      (∃ r ∈ u.sw, r ≠ 0 ∧ r ∈ u.sr ++ ch.sr) ∨ ∃ r ∈ u.pw, r ≠ 7 ∧ r ∈ u.preds x.gp ++ ch.pr)
    (badOperand x.mode x.mmode i = true → raises 0x02) ∧
    (badOperand x.mode x.mmode i = false → latch → raises 0x05) ∧
    (badOperand x.mode x.mmode i = false → ¬ latch → hazard → raises 0x06) ∧
    (badOperand x.mode x.mmode i = false → ¬ latch → ¬ hazard → (∃ r ∈ u.vn, x.g.bound ≤ r) → raises 0x04) ∧
    (badOperand x.mode x.mmode i = false → ¬ latch → ¬ hazard → (∀ r ∈ u.vn, r < x.g.bound) → isPrivileged i = true → x.l.priv = false →
      raises 0x21)) ∧
  (∀ (i : Instr) (s : State), isEvent i = false → s.ctx? i = none → exec i s = .fault .noIssuer) ∧
  (∀ (i : Instr) (s : State), isEvent i = true → ∃ t, exec i s = .next t) ∧
  (∀ s : State, ∃ t, step s = .next t)
end

