-- ==== Sys2Proof/Laws/Maps.lean ====
section
/-!
SUPPORT. The laws of sparse maps: a read after a write, and that every operation keeps the canonical form.
-/
namespace Sys2Proof.Machine

/-! ## Reads after writes -/

theorem Sparse.get_filter_ne {w : Nat} (m : Sparse w) (a b : Nat) (h : b ≠ a) :
    Sparse.get (m.filter fun e => !(e.1 == a)) b = Sparse.get m b := by
  induction m with
  | nil => rfl
  | cons e r ih =>
    obtain ⟨k, x⟩ := e
    by_cases hk : k = a
    · subst hk
      simp [Sparse.get, h, ih]
    · simp [hk, Sparse.get, ih]

theorem Sparse.get_filter_self {w : Nat} (m : Sparse w) (a : Nat) :
    Sparse.get (m.filter fun e => !(e.1 == a)) a = 0 := by
  induction m with
  | nil => rfl
  | cons e r ih =>
    obtain ⟨k, x⟩ := e
    by_cases hk : k = a
    · simp [hk, ih]
    · have : a ≠ k := fun h => hk h.symm
      simp [hk, Sparse.get, ih, this]

theorem Sparse.get_insert_ne {w : Nat} (m : Sparse w) (a b : Nat) (v : BitVec w) (h : b ≠ a) :
    Sparse.get (Sparse.insert m a v) b = Sparse.get m b := by
  induction m with
  | nil => simp [Sparse.insert, Sparse.get, h]
  | cons e r ih =>
    obtain ⟨k, x⟩ := e
    by_cases hk : a < k <;> simp [Sparse.insert, hk, Sparse.get, h, ih]

theorem Sparse.get_insert_self {w : Nat} (m : Sparse w) (a : Nat) (v : BitVec w) (h : Sparse.get m a = 0)
    (hm : ∀ e ∈ m, e.1 ≠ a) : Sparse.get (Sparse.insert m a v) a = v := by
  induction m with
  | nil => simp [Sparse.insert, Sparse.get]
  | cons e r ih =>
    obtain ⟨k, x⟩ := e
    have hk : a ≠ k := fun h => hm (k, x) (by simp) h.symm
    by_cases hlt : a < k
    · simp [Sparse.insert, hlt, Sparse.get]
    · simp only [Sparse.insert, hlt, if_false, Sparse.get, hk]
      exact ih (by simpa [Sparse.get, hk] using h) fun e he => hm e (by simp [he])

/-- A read after a write. -/
theorem Sparse.get_put {w : Nat} (m : Sparse w) (a b : Nat) (v : BitVec w) :
    Sparse.get (Sparse.put m a v) b = if b = a then v else Sparse.get m b := by
  unfold Sparse.put
  by_cases h : b = a
  · subst h
    by_cases hv : v = 0
    · simp [hv, Sparse.get_filter_self]
    · simp only [hv, if_false, if_true]
      exact Sparse.get_insert_self _ _ _ (Sparse.get_filter_self m b) (by simp)
  · by_cases hv : v = 0
    · simp [hv, h, Sparse.get_filter_ne]
    · rw [if_neg hv, if_neg h, Sparse.get_insert_ne _ _ _ _ h, Sparse.get_filter_ne _ _ _ h]

/-- A read after a list of writes: the last write to the key, else the old value. -/
theorem Sparse.get_putAll {w : Nat} (l : List (Nat × BitVec w)) : ∀ (m : Sparse w) (b : Nat),
    Sparse.get (Sparse.putAll m l) b = ((l.reverse.find? fun e => e.1 == b).map (·.2)).getD (Sparse.get m b) := by
  induction l with
  | nil => intros; rfl
  | cons e r ih =>
    intro m b
    obtain ⟨a, v⟩ := e
    rw [Sparse.putAll, ih, Sparse.get_put, List.reverse_cons, List.find?_append]
    cases h : r.reverse.find? fun e => e.1 == b with
    | some y => simp
    | none =>
      by_cases hb : b = a
      · simp [hb]
      · have : ¬(a = b) := fun h => hb h.symm
        simp [hb, this]

/-- Writes to other keys leave a key alone. -/
theorem Sparse.get_putAll_of_not_mem {w : Nat} (l : List (Nat × BitVec w)) (m : Sparse w) (b : Nat)
    (h : ∀ e ∈ l, e.1 ≠ b) : Sparse.get (Sparse.putAll m l) b = Sparse.get m b := by
  induction l generalizing m with
  | nil => rfl
  | cons e r ih =>
    rw [Sparse.putAll, ih _ fun e he => h e (by simp [he]), Sparse.get_put, if_neg]
    exact fun hb => h e (by simp) hb.symm

/-- A read after writing values to keys that a function without repeats gives. -/
theorem Sparse.get_putAll_map {w : Nat} (ls : List Nat) (key : Nat → Nat) (f : Nat → BitVec w) (m : Sparse w) (l : Nat)
    (inj : ∀ a ∈ ls, key a = key l → a = l) :
    Sparse.get (Sparse.putAll m (ls.map fun a => (key a, f a))) (key l) = if l ∈ ls then f l else Sparse.get m (key l) := by
  induction ls generalizing m with
  | nil => rfl
  | cons a r ih =>
    rw [List.map_cons, Sparse.putAll, ih _ fun b hb => inj b (by simp [hb])]
    by_cases hl : l ∈ r
    · simp [hl]
    · simp only [hl, if_false, Sparse.get_put, List.mem_cons, or_false]
      by_cases ha : key l = key a
      · have : a = l := inj a (by simp) ha.symm
        simp [this]
      · have : ¬(l = a) := fun h => ha (by rw [h])
        simp [ha, this]

/-- A byte after a write of consecutive values. -/
theorem Sparse.get_write {w : Nat} (l : List (BitVec w)) : ∀ (m : Sparse w) (a b : Nat),
    Sparse.get (Sparse.write m a l) b = if a ≤ b ∧ b < a + l.length then nth 0 l (b - a) else Sparse.get m b := by
  induction l with
  | nil => intro m a b; simp only [Sparse.write, List.length_nil]; rw [if_neg (by omega)]
  | cons v r ih =>
    intro m a b
    rw [Sparse.write, ih, Sparse.get_put, List.length_cons]
    by_cases h : b = a
    · subst h; rw [if_neg (by omega), if_pos rfl, if_pos (by omega), Nat.sub_self]; rfl
    · by_cases h2 : a + 1 ≤ b ∧ b < a + 1 + r.length
      · rw [if_pos h2, if_pos (by omega), show b - a = (b - (a + 1)) + 1 by omega]; rfl
      · rw [if_neg h2, if_neg h, if_neg (by omega)]

/-! ## The canonical form -/

theorem Sparse.wfAbove_mono {w : Nat} {m : Sparse w} {i j : Nat} (h : Sparse.wfAbove j m = true) (hij : i ≤ j) :
    Sparse.wfAbove i m = true := by
  cases m with
  | nil => rfl
  | cons e r =>
    obtain ⟨k, v⟩ := e
    simp only [Sparse.wfAbove, Bool.and_eq_true, decide_eq_true_eq] at h ⊢
    exact ⟨⟨by omega, h.1.2⟩, h.2⟩

/-- Dropping entries keeps the canonical form. -/
theorem Sparse.wfAbove_filter {w : Nat} {m : Sparse w} (p : Nat × BitVec w → Bool) : ∀ {n : Nat},
    Sparse.wfAbove n m = true → Sparse.wfAbove n (m.filter p) = true := by
  induction m with
  | nil => intros; rfl
  | cons e r ih =>
    intro n h
    obtain ⟨k, v⟩ := e
    simp only [Sparse.wfAbove, Bool.and_eq_true, decide_eq_true_eq] at h
    by_cases hp : p (k, v) = true
    · simp only [List.filter_cons, hp, if_true, Sparse.wfAbove, Bool.and_eq_true, decide_eq_true_eq]
      exact ⟨h.1, ih h.2⟩
    · simp only [List.filter_cons, hp]
      exact Sparse.wfAbove_mono (ih h.2) (by omega)

theorem Sparse.wfAbove_insert {w : Nat} {v : BitVec w} (hv : ¬(v = 0)) {m : Sparse w} {a : Nat} : ∀ {n : Nat}, n ≤ a →
    (∀ e ∈ m, e.1 ≠ a) → Sparse.wfAbove n m = true → Sparse.wfAbove n (Sparse.insert m a v) = true := by
  induction m with
  | nil => intro n hn _ _; simpa [Sparse.insert, Sparse.wfAbove, hn] using hv
  | cons e r ih =>
    intro n hn hm h
    obtain ⟨k, x⟩ := e
    have hk : k ≠ a := hm (k, x) (by simp)
    simp only [Sparse.wfAbove, Bool.and_eq_true, decide_eq_true_eq] at h
    by_cases hlt : a < k
    · simp only [Sparse.insert, hlt, if_true, Sparse.wfAbove, Bool.and_eq_true, decide_eq_true_eq]
      exact ⟨⟨hn, by simpa using hv⟩, ⟨by omega, h.1.2⟩, h.2⟩
    · simp only [Sparse.insert, hlt, if_false, Sparse.wfAbove, Bool.and_eq_true, decide_eq_true_eq]
      exact ⟨h.1, ih (by omega) (fun e he => hm e (by simp [he])) h.2⟩

/-- A write keeps the canonical form. -/
theorem Sparse.wf_put {w : Nat} {m : Sparse w} (a : Nat) (v : BitVec w) (h : Sparse.wf m = true) :
    Sparse.wf (Sparse.put m a v) = true := by
  unfold Sparse.put
  by_cases hv : v = 0
  · rw [if_pos hv]; exact Sparse.wfAbove_filter _ h
  · simp only [hv, if_false]
    exact Sparse.wfAbove_insert hv (Nat.zero_le a) (by simp) (Sparse.wfAbove_filter _ h)

/-- Writes of a list keep the canonical form. -/
theorem Sparse.wf_putAll {w : Nat} (l : List (Nat × BitVec w)) {m : Sparse w} (h : Sparse.wf m = true) :
    Sparse.wf (Sparse.putAll m l) = true := by
  induction l generalizing m with
  | nil => exact h
  | cons e r ih => exact ih (Sparse.wf_put _ _ h)

/-- Writes of consecutive values keep the canonical form. -/
theorem Sparse.wf_write {w : Nat} (l : List (BitVec w)) {m : Sparse w} (a : Nat) (h : Sparse.wf m = true) :
    Sparse.wf (Sparse.write m a l) = true := by
  induction l generalizing m a with
  | nil => exact h
  | cons v r ih => exact ih _ (Sparse.wf_put _ _ h)

/-- Dropping keys keeps the canonical form. -/
theorem Sparse.wf_drop {w : Nat} (p : Nat → Bool) {m : Sparse w} (h : Sparse.wf m = true) :
    Sparse.wf (Sparse.drop p m) = true := Sparse.wfAbove_filter _ h

/-! ## Lanes -/

/-- Element k of a list, as the library reads it. -/
theorem nth_eq_getD {α : Type} (d : α) : ∀ (l : List α) (k : Nat), nth d l k = l.getD k d
  | [], _ => rfl
  | _ :: _, 0 => rfl
  | _ :: r, k + 1 => nth_eq_getD d r k

theorem nth_map_range {α : Type} (d : α) (f : Nat → α) (n k : Nat) (h : k < n) : nth d ((List.range n).map f) k = f k := by
  rw [nth_eq_getD]
  simp [h]

theorem mem_lanesOf (m : LaneMask) (l : Nat) : l ∈ lanesOf m ↔ l < 32 ∧ m.getLsbD l = true := by
  simp [lanesOf]

end Sys2Proof.Machine
end

