-- ==== Sys2Proof/Laws/State.lean ====
section
/-!
SUPPORT. What an update of one part of the state leaves alone, field by field; the lookups after an update; and the register
updates of a group.
-/
namespace Sys2Proof.Machine

/-! ## Fields that an update does not touch -/

@[simp] theorem State.updBlock_mem (s : State) (u f) : (s.updBlock u f).mem = s.mem := rfl
@[simp] theorem State.updBlock_poisoned (s : State) (u f) : (s.updBlock u f).poisoned = s.poisoned := rfl
@[simp] theorem State.updBlock_badCells (s : State) (u f) : (s.updBlock u f).badCells = s.badCells := rfl
@[simp] theorem State.updBlock_badLines (s : State) (u f) : (s.updBlock u f).badLines = s.badLines := rfl
@[simp] theorem State.updBlock_launches (s : State) (u f) : (s.updBlock u f).launches = s.launches := rfl
@[simp] theorem State.updBlock_admits (s : State) (u f) : (s.updBlock u f).admits = s.admits := rfl
@[simp] theorem State.updBlock_insts (s : State) (u f) : (s.updBlock u f).insts = s.insts := rfl
@[simp] theorem State.updBlock_parts (s : State) (u f) : (s.updBlock u f).parts = s.parts := rfl
@[simp] theorem State.updBlock_areas (s : State) (u f) : (s.updBlock u f).areas = s.areas := rfl
@[simp] theorem State.updBlock_prereqs (s : State) (u f) : (s.updBlock u f).prereqs = s.prereqs := rfl
@[simp] theorem State.updBlock_dies (s : State) (u f) : (s.updBlock u f).dies = s.dies := rfl
@[simp] theorem State.updBlock_cores (s : State) (u f) : (s.updBlock u f).cores = s.cores := rfl
@[simp] theorem State.updBlock_ports (s : State) (u f) : (s.updBlock u f).ports = s.ports := rfl
@[simp] theorem State.updBlock_links (s : State) (u f) : (s.updBlock u f).links = s.links := rfl
@[simp] theorem State.updBlock_sources (s : State) (u f) : (s.updBlock u f).sources = s.sources := rfl
@[simp] theorem State.updBlock_evPq (s : State) (u f) : (s.updBlock u f).evPq = s.evPq := rfl
@[simp] theorem State.updBlock_msiPending (s : State) (u f) : (s.updBlock u f).msiPending = s.msiPending := rfl
@[simp] theorem State.updBlock_evmsi (s : State) (u f) : (s.updBlock u f).evmsi = s.evmsi := rfl
@[simp] theorem State.updBlock_power (s : State) (u f) : (s.updBlock u f).power = s.power := rfl
@[simp] theorem State.updBlock_boot (s : State) (u f) : (s.updBlock u f).boot = s.boot := rfl
@[simp] theorem State.updBlock_ckpt (s : State) (u f) : (s.updBlock u f).ckpt = s.ckpt := rfl
@[simp] theorem State.updBlock_iommu (s : State) (u f) : (s.updBlock u f).iommu = s.iommu := rfl
@[simp] theorem State.updBlock_imsics (s : State) (u f) : (s.updBlock u f).imsics = s.imsics := rfl
@[simp] theorem State.updBlock_aplic (s : State) (u f) : (s.updBlock u f).aplic = s.aplic := rfl
@[simp] theorem State.updBlock_dma (s : State) (u f) : (s.updBlock u f).dma = s.dma := rfl
@[simp] theorem State.updBlock_pkg (s : State) (u f) : (s.updBlock u f).pkg = s.pkg := rfl
@[simp] theorem State.updBlock_conngrp (s : State) (u f) : (s.updBlock u f).conngrp = s.conngrp := rfl
@[simp] theorem State.updBlock_connmap (s : State) (u f) : (s.updBlock u f).connmap = s.connmap := rfl
@[simp] theorem State.updBlock_connbusy (s : State) (u f) : (s.updBlock u f).connbusy = s.connbusy := rfl
@[simp] theorem State.updBlock_jcfg (s : State) (u f) : (s.updBlock u f).jcfg = s.jcfg := rfl
@[simp] theorem State.updBlock_time (s : State) (u f) : (s.updBlock u f).time = s.time := rfl
@[simp] theorem State.updBlock_refills (s : State) (u f) : (s.updBlock u f).refills = s.refills := rfl
@[simp] theorem State.updBlock_epkg (s : State) (u f) : (s.updBlock u f).epkg = s.epkg := rfl
@[simp] theorem State.updBlock_transit (s : State) (u f) : (s.updBlock u f).transit = s.transit := rfl
@[simp] theorem State.updBlock_remote (s : State) (u f) : (s.updBlock u f).remote = s.remote := rfl
@[simp] theorem State.updBlock_subnet (s : State) (u f) : (s.updBlock u f).subnet = s.subnet := rfl
@[simp] theorem State.updBlock_net (s : State) (u f) : (s.updBlock u f).net = s.net := rfl
@[simp] theorem State.updBlock_kept (s : State) (u f) : (s.updBlock u f).kept = s.kept := rfl
@[simp] theorem State.updBlock_replies (s : State) (u f) : (s.updBlock u f).replies = s.replies := rfl
@[simp] theorem State.updBlock_nextLoad (s : State) (u f) : (s.updBlock u f).nextLoad = s.nextLoad := rfl
@[simp] theorem State.updBlock_qcache (s : State) (u f) : (s.updBlock u f).qcache = s.qcache := rfl
@[simp] theorem State.updBlock_rcache (s : State) (u f) : (s.updBlock u f).rcache = s.rcache := rfl
@[simp] theorem State.updBlock_lcache (s : State) (u f) : (s.updBlock u f).lcache = s.lcache := rfl
@[simp] theorem State.updBlock_roots (s : State) (u f) : (s.updBlock u f).roots = s.roots := rfl
@[simp] theorem State.updBlock_roots2 (s : State) (u f) : (s.updBlock u f).roots2 = s.roots2 := rfl
@[simp] theorem State.updBlock_latched (s : State) (u f) : (s.updBlock u f).latched = s.latched := rfl
@[simp] theorem State.updBlock_hostOut (s : State) (u f) : (s.updBlock u f).hostOut = s.hostOut := rfl
@[simp] theorem State.updBlock_nextUid (s : State) (u f) : (s.updBlock u f).nextUid = s.nextUid := rfl
@[simp] theorem State.updBlock_nextReq (s : State) (u f) : (s.updBlock u f).nextReq = s.nextReq := rfl
@[simp] theorem State.updBlock_waitAge (s : State) (u f) : (s.updBlock u f).waitAge = s.waitAge := rfl
@[simp] theorem State.updBlock_cur (s : State) (u f) : (s.updBlock u f).cur = s.cur := rfl
@[simp] theorem State.updBlock_ev (s : State) (u f) : (s.updBlock u f).ev = s.ev := rfl
@[simp] theorem State.updBlock_agenda (s : State) (u f) : (s.updBlock u f).agenda = s.agenda := rfl
@[simp] theorem State.updBlock_tick (s : State) (u f) : (s.updBlock u f).tick = s.tick := rfl

@[simp] theorem State.updGroup_mem (s : State) (u n f) : (s.updGroup u n f).mem = s.mem := rfl
@[simp] theorem State.updGroup_poisoned (s : State) (u n f) : (s.updGroup u n f).poisoned = s.poisoned := rfl
@[simp] theorem State.updGroup_badCells (s : State) (u n f) : (s.updGroup u n f).badCells = s.badCells := rfl
@[simp] theorem State.updGroup_badLines (s : State) (u n f) : (s.updGroup u n f).badLines = s.badLines := rfl
@[simp] theorem State.updGroup_launches (s : State) (u n f) : (s.updGroup u n f).launches = s.launches := rfl
@[simp] theorem State.updGroup_admits (s : State) (u n f) : (s.updGroup u n f).admits = s.admits := rfl
@[simp] theorem State.updGroup_insts (s : State) (u n f) : (s.updGroup u n f).insts = s.insts := rfl
@[simp] theorem State.updGroup_parts (s : State) (u n f) : (s.updGroup u n f).parts = s.parts := rfl
@[simp] theorem State.updGroup_areas (s : State) (u n f) : (s.updGroup u n f).areas = s.areas := rfl
@[simp] theorem State.updGroup_prereqs (s : State) (u n f) : (s.updGroup u n f).prereqs = s.prereqs := rfl
@[simp] theorem State.updGroup_dies (s : State) (u n f) : (s.updGroup u n f).dies = s.dies := rfl
@[simp] theorem State.updGroup_cores (s : State) (u n f) : (s.updGroup u n f).cores = s.cores := rfl
@[simp] theorem State.updGroup_ports (s : State) (u n f) : (s.updGroup u n f).ports = s.ports := rfl
@[simp] theorem State.updGroup_links (s : State) (u n f) : (s.updGroup u n f).links = s.links := rfl
@[simp] theorem State.updGroup_sources (s : State) (u n f) : (s.updGroup u n f).sources = s.sources := rfl
@[simp] theorem State.updGroup_evPq (s : State) (u n f) : (s.updGroup u n f).evPq = s.evPq := rfl
@[simp] theorem State.updGroup_msiPending (s : State) (u n f) : (s.updGroup u n f).msiPending = s.msiPending := rfl
@[simp] theorem State.updGroup_evmsi (s : State) (u n f) : (s.updGroup u n f).evmsi = s.evmsi := rfl
@[simp] theorem State.updGroup_power (s : State) (u n f) : (s.updGroup u n f).power = s.power := rfl
@[simp] theorem State.updGroup_boot (s : State) (u n f) : (s.updGroup u n f).boot = s.boot := rfl
@[simp] theorem State.updGroup_ckpt (s : State) (u n f) : (s.updGroup u n f).ckpt = s.ckpt := rfl
@[simp] theorem State.updGroup_iommu (s : State) (u n f) : (s.updGroup u n f).iommu = s.iommu := rfl
@[simp] theorem State.updGroup_imsics (s : State) (u n f) : (s.updGroup u n f).imsics = s.imsics := rfl
@[simp] theorem State.updGroup_aplic (s : State) (u n f) : (s.updGroup u n f).aplic = s.aplic := rfl
@[simp] theorem State.updGroup_dma (s : State) (u n f) : (s.updGroup u n f).dma = s.dma := rfl
@[simp] theorem State.updGroup_pkg (s : State) (u n f) : (s.updGroup u n f).pkg = s.pkg := rfl
@[simp] theorem State.updGroup_conngrp (s : State) (u n f) : (s.updGroup u n f).conngrp = s.conngrp := rfl
@[simp] theorem State.updGroup_connmap (s : State) (u n f) : (s.updGroup u n f).connmap = s.connmap := rfl
@[simp] theorem State.updGroup_connbusy (s : State) (u n f) : (s.updGroup u n f).connbusy = s.connbusy := rfl
@[simp] theorem State.updGroup_jcfg (s : State) (u n f) : (s.updGroup u n f).jcfg = s.jcfg := rfl
@[simp] theorem State.updGroup_time (s : State) (u n f) : (s.updGroup u n f).time = s.time := rfl
@[simp] theorem State.updGroup_refills (s : State) (u n f) : (s.updGroup u n f).refills = s.refills := rfl
@[simp] theorem State.updGroup_epkg (s : State) (u n f) : (s.updGroup u n f).epkg = s.epkg := rfl
@[simp] theorem State.updGroup_transit (s : State) (u n f) : (s.updGroup u n f).transit = s.transit := rfl
@[simp] theorem State.updGroup_remote (s : State) (u n f) : (s.updGroup u n f).remote = s.remote := rfl
@[simp] theorem State.updGroup_subnet (s : State) (u n f) : (s.updGroup u n f).subnet = s.subnet := rfl
@[simp] theorem State.updGroup_net (s : State) (u n f) : (s.updGroup u n f).net = s.net := rfl
@[simp] theorem State.updGroup_kept (s : State) (u n f) : (s.updGroup u n f).kept = s.kept := rfl
@[simp] theorem State.updGroup_replies (s : State) (u n f) : (s.updGroup u n f).replies = s.replies := rfl
@[simp] theorem State.updGroup_nextLoad (s : State) (u n f) : (s.updGroup u n f).nextLoad = s.nextLoad := rfl
@[simp] theorem State.updGroup_qcache (s : State) (u n f) : (s.updGroup u n f).qcache = s.qcache := rfl
@[simp] theorem State.updGroup_rcache (s : State) (u n f) : (s.updGroup u n f).rcache = s.rcache := rfl
@[simp] theorem State.updGroup_lcache (s : State) (u n f) : (s.updGroup u n f).lcache = s.lcache := rfl
@[simp] theorem State.updGroup_roots (s : State) (u n f) : (s.updGroup u n f).roots = s.roots := rfl
@[simp] theorem State.updGroup_roots2 (s : State) (u n f) : (s.updGroup u n f).roots2 = s.roots2 := rfl
@[simp] theorem State.updGroup_latched (s : State) (u n f) : (s.updGroup u n f).latched = s.latched := rfl
@[simp] theorem State.updGroup_hostOut (s : State) (u n f) : (s.updGroup u n f).hostOut = s.hostOut := rfl
@[simp] theorem State.updGroup_nextUid (s : State) (u n f) : (s.updGroup u n f).nextUid = s.nextUid := rfl
@[simp] theorem State.updGroup_nextReq (s : State) (u n f) : (s.updGroup u n f).nextReq = s.nextReq := rfl
@[simp] theorem State.updGroup_waitAge (s : State) (u n f) : (s.updGroup u n f).waitAge = s.waitAge := rfl
@[simp] theorem State.updGroup_cur (s : State) (u n f) : (s.updGroup u n f).cur = s.cur := rfl
@[simp] theorem State.updGroup_ev (s : State) (u n f) : (s.updGroup u n f).ev = s.ev := rfl
@[simp] theorem State.updGroup_agenda (s : State) (u n f) : (s.updGroup u n f).agenda = s.agenda := rfl
@[simp] theorem State.updGroup_tick (s : State) (u n f) : (s.updGroup u n f).tick = s.tick := rfl

@[simp] theorem State.updCur_mem (s : State) (c f) : (s.updCur c f).mem = s.mem := rfl
@[simp] theorem State.updCur_poisoned (s : State) (c f) : (s.updCur c f).poisoned = s.poisoned := rfl
@[simp] theorem State.updCur_badCells (s : State) (c f) : (s.updCur c f).badCells = s.badCells := rfl
@[simp] theorem State.updCur_badLines (s : State) (c f) : (s.updCur c f).badLines = s.badLines := rfl
@[simp] theorem State.updCur_launches (s : State) (c f) : (s.updCur c f).launches = s.launches := rfl
@[simp] theorem State.updCur_admits (s : State) (c f) : (s.updCur c f).admits = s.admits := rfl
@[simp] theorem State.updCur_insts (s : State) (c f) : (s.updCur c f).insts = s.insts := rfl
@[simp] theorem State.updCur_parts (s : State) (c f) : (s.updCur c f).parts = s.parts := rfl
@[simp] theorem State.updCur_areas (s : State) (c f) : (s.updCur c f).areas = s.areas := rfl
@[simp] theorem State.updCur_prereqs (s : State) (c f) : (s.updCur c f).prereqs = s.prereqs := rfl
@[simp] theorem State.updCur_dies (s : State) (c f) : (s.updCur c f).dies = s.dies := rfl
@[simp] theorem State.updCur_cores (s : State) (c f) : (s.updCur c f).cores = s.cores := rfl
@[simp] theorem State.updCur_ports (s : State) (c f) : (s.updCur c f).ports = s.ports := rfl
@[simp] theorem State.updCur_links (s : State) (c f) : (s.updCur c f).links = s.links := rfl
@[simp] theorem State.updCur_sources (s : State) (c f) : (s.updCur c f).sources = s.sources := rfl
@[simp] theorem State.updCur_evPq (s : State) (c f) : (s.updCur c f).evPq = s.evPq := rfl
@[simp] theorem State.updCur_msiPending (s : State) (c f) : (s.updCur c f).msiPending = s.msiPending := rfl
@[simp] theorem State.updCur_evmsi (s : State) (c f) : (s.updCur c f).evmsi = s.evmsi := rfl
@[simp] theorem State.updCur_power (s : State) (c f) : (s.updCur c f).power = s.power := rfl
@[simp] theorem State.updCur_boot (s : State) (c f) : (s.updCur c f).boot = s.boot := rfl
@[simp] theorem State.updCur_ckpt (s : State) (c f) : (s.updCur c f).ckpt = s.ckpt := rfl
@[simp] theorem State.updCur_iommu (s : State) (c f) : (s.updCur c f).iommu = s.iommu := rfl
@[simp] theorem State.updCur_imsics (s : State) (c f) : (s.updCur c f).imsics = s.imsics := rfl
@[simp] theorem State.updCur_aplic (s : State) (c f) : (s.updCur c f).aplic = s.aplic := rfl
@[simp] theorem State.updCur_dma (s : State) (c f) : (s.updCur c f).dma = s.dma := rfl
@[simp] theorem State.updCur_pkg (s : State) (c f) : (s.updCur c f).pkg = s.pkg := rfl
@[simp] theorem State.updCur_conngrp (s : State) (c f) : (s.updCur c f).conngrp = s.conngrp := rfl
@[simp] theorem State.updCur_connmap (s : State) (c f) : (s.updCur c f).connmap = s.connmap := rfl
@[simp] theorem State.updCur_connbusy (s : State) (c f) : (s.updCur c f).connbusy = s.connbusy := rfl
@[simp] theorem State.updCur_jcfg (s : State) (c f) : (s.updCur c f).jcfg = s.jcfg := rfl
@[simp] theorem State.updCur_time (s : State) (c f) : (s.updCur c f).time = s.time := rfl
@[simp] theorem State.updCur_refills (s : State) (c f) : (s.updCur c f).refills = s.refills := rfl
@[simp] theorem State.updCur_epkg (s : State) (c f) : (s.updCur c f).epkg = s.epkg := rfl
@[simp] theorem State.updCur_transit (s : State) (c f) : (s.updCur c f).transit = s.transit := rfl
@[simp] theorem State.updCur_remote (s : State) (c f) : (s.updCur c f).remote = s.remote := rfl
@[simp] theorem State.updCur_subnet (s : State) (c f) : (s.updCur c f).subnet = s.subnet := rfl
@[simp] theorem State.updCur_net (s : State) (c f) : (s.updCur c f).net = s.net := rfl
@[simp] theorem State.updCur_kept (s : State) (c f) : (s.updCur c f).kept = s.kept := rfl
@[simp] theorem State.updCur_replies (s : State) (c f) : (s.updCur c f).replies = s.replies := rfl
@[simp] theorem State.updCur_nextLoad (s : State) (c f) : (s.updCur c f).nextLoad = s.nextLoad := rfl
@[simp] theorem State.updCur_qcache (s : State) (c f) : (s.updCur c f).qcache = s.qcache := rfl
@[simp] theorem State.updCur_rcache (s : State) (c f) : (s.updCur c f).rcache = s.rcache := rfl
@[simp] theorem State.updCur_lcache (s : State) (c f) : (s.updCur c f).lcache = s.lcache := rfl
@[simp] theorem State.updCur_roots (s : State) (c f) : (s.updCur c f).roots = s.roots := rfl
@[simp] theorem State.updCur_roots2 (s : State) (c f) : (s.updCur c f).roots2 = s.roots2 := rfl
@[simp] theorem State.updCur_latched (s : State) (c f) : (s.updCur c f).latched = s.latched := rfl
@[simp] theorem State.updCur_hostOut (s : State) (c f) : (s.updCur c f).hostOut = s.hostOut := rfl
@[simp] theorem State.updCur_nextUid (s : State) (c f) : (s.updCur c f).nextUid = s.nextUid := rfl
@[simp] theorem State.updCur_nextReq (s : State) (c f) : (s.updCur c f).nextReq = s.nextReq := rfl
@[simp] theorem State.updCur_waitAge (s : State) (c f) : (s.updCur c f).waitAge = s.waitAge := rfl
@[simp] theorem State.updCur_cur (s : State) (c f) : (s.updCur c f).cur = s.cur := rfl
@[simp] theorem State.updCur_ev (s : State) (c f) : (s.updCur c f).ev = s.ev := rfl
@[simp] theorem State.updCur_agenda (s : State) (c f) : (s.updCur c f).agenda = s.agenda := rfl
@[simp] theorem State.updCur_tick (s : State) (c f) : (s.updCur c f).tick = s.tick := rfl

@[simp] theorem State.updSplit_mem (s : State) (c f) : (s.updSplit c f).mem = s.mem := rfl
@[simp] theorem State.updSplit_poisoned (s : State) (c f) : (s.updSplit c f).poisoned = s.poisoned := rfl
@[simp] theorem State.updSplit_badCells (s : State) (c f) : (s.updSplit c f).badCells = s.badCells := rfl
@[simp] theorem State.updSplit_badLines (s : State) (c f) : (s.updSplit c f).badLines = s.badLines := rfl
@[simp] theorem State.updSplit_launches (s : State) (c f) : (s.updSplit c f).launches = s.launches := rfl
@[simp] theorem State.updSplit_admits (s : State) (c f) : (s.updSplit c f).admits = s.admits := rfl
@[simp] theorem State.updSplit_insts (s : State) (c f) : (s.updSplit c f).insts = s.insts := rfl
@[simp] theorem State.updSplit_parts (s : State) (c f) : (s.updSplit c f).parts = s.parts := rfl
@[simp] theorem State.updSplit_areas (s : State) (c f) : (s.updSplit c f).areas = s.areas := rfl
@[simp] theorem State.updSplit_prereqs (s : State) (c f) : (s.updSplit c f).prereqs = s.prereqs := rfl
@[simp] theorem State.updSplit_dies (s : State) (c f) : (s.updSplit c f).dies = s.dies := rfl
@[simp] theorem State.updSplit_cores (s : State) (c f) : (s.updSplit c f).cores = s.cores := rfl
@[simp] theorem State.updSplit_ports (s : State) (c f) : (s.updSplit c f).ports = s.ports := rfl
@[simp] theorem State.updSplit_links (s : State) (c f) : (s.updSplit c f).links = s.links := rfl
@[simp] theorem State.updSplit_sources (s : State) (c f) : (s.updSplit c f).sources = s.sources := rfl
@[simp] theorem State.updSplit_evPq (s : State) (c f) : (s.updSplit c f).evPq = s.evPq := rfl
@[simp] theorem State.updSplit_msiPending (s : State) (c f) : (s.updSplit c f).msiPending = s.msiPending := rfl
@[simp] theorem State.updSplit_evmsi (s : State) (c f) : (s.updSplit c f).evmsi = s.evmsi := rfl
@[simp] theorem State.updSplit_power (s : State) (c f) : (s.updSplit c f).power = s.power := rfl
@[simp] theorem State.updSplit_boot (s : State) (c f) : (s.updSplit c f).boot = s.boot := rfl
@[simp] theorem State.updSplit_ckpt (s : State) (c f) : (s.updSplit c f).ckpt = s.ckpt := rfl
@[simp] theorem State.updSplit_iommu (s : State) (c f) : (s.updSplit c f).iommu = s.iommu := rfl
@[simp] theorem State.updSplit_imsics (s : State) (c f) : (s.updSplit c f).imsics = s.imsics := rfl
@[simp] theorem State.updSplit_aplic (s : State) (c f) : (s.updSplit c f).aplic = s.aplic := rfl
@[simp] theorem State.updSplit_dma (s : State) (c f) : (s.updSplit c f).dma = s.dma := rfl
@[simp] theorem State.updSplit_pkg (s : State) (c f) : (s.updSplit c f).pkg = s.pkg := rfl
@[simp] theorem State.updSplit_conngrp (s : State) (c f) : (s.updSplit c f).conngrp = s.conngrp := rfl
@[simp] theorem State.updSplit_connmap (s : State) (c f) : (s.updSplit c f).connmap = s.connmap := rfl
@[simp] theorem State.updSplit_connbusy (s : State) (c f) : (s.updSplit c f).connbusy = s.connbusy := rfl
@[simp] theorem State.updSplit_jcfg (s : State) (c f) : (s.updSplit c f).jcfg = s.jcfg := rfl
@[simp] theorem State.updSplit_time (s : State) (c f) : (s.updSplit c f).time = s.time := rfl
@[simp] theorem State.updSplit_refills (s : State) (c f) : (s.updSplit c f).refills = s.refills := rfl
@[simp] theorem State.updSplit_epkg (s : State) (c f) : (s.updSplit c f).epkg = s.epkg := rfl
@[simp] theorem State.updSplit_transit (s : State) (c f) : (s.updSplit c f).transit = s.transit := rfl
@[simp] theorem State.updSplit_remote (s : State) (c f) : (s.updSplit c f).remote = s.remote := rfl
@[simp] theorem State.updSplit_subnet (s : State) (c f) : (s.updSplit c f).subnet = s.subnet := rfl
@[simp] theorem State.updSplit_net (s : State) (c f) : (s.updSplit c f).net = s.net := rfl
@[simp] theorem State.updSplit_kept (s : State) (c f) : (s.updSplit c f).kept = s.kept := rfl
@[simp] theorem State.updSplit_replies (s : State) (c f) : (s.updSplit c f).replies = s.replies := rfl
@[simp] theorem State.updSplit_nextLoad (s : State) (c f) : (s.updSplit c f).nextLoad = s.nextLoad := rfl
@[simp] theorem State.updSplit_qcache (s : State) (c f) : (s.updSplit c f).qcache = s.qcache := rfl
@[simp] theorem State.updSplit_rcache (s : State) (c f) : (s.updSplit c f).rcache = s.rcache := rfl
@[simp] theorem State.updSplit_lcache (s : State) (c f) : (s.updSplit c f).lcache = s.lcache := rfl
@[simp] theorem State.updSplit_roots (s : State) (c f) : (s.updSplit c f).roots = s.roots := rfl
@[simp] theorem State.updSplit_roots2 (s : State) (c f) : (s.updSplit c f).roots2 = s.roots2 := rfl
@[simp] theorem State.updSplit_latched (s : State) (c f) : (s.updSplit c f).latched = s.latched := rfl
@[simp] theorem State.updSplit_hostOut (s : State) (c f) : (s.updSplit c f).hostOut = s.hostOut := rfl
@[simp] theorem State.updSplit_nextUid (s : State) (c f) : (s.updSplit c f).nextUid = s.nextUid := rfl
@[simp] theorem State.updSplit_nextReq (s : State) (c f) : (s.updSplit c f).nextReq = s.nextReq := rfl
@[simp] theorem State.updSplit_waitAge (s : State) (c f) : (s.updSplit c f).waitAge = s.waitAge := rfl
@[simp] theorem State.updSplit_cur (s : State) (c f) : (s.updSplit c f).cur = s.cur := rfl
@[simp] theorem State.updSplit_ev (s : State) (c f) : (s.updSplit c f).ev = s.ev := rfl
@[simp] theorem State.updSplit_agenda (s : State) (c f) : (s.updSplit c f).agenda = s.agenda := rfl
@[simp] theorem State.updSplit_tick (s : State) (c f) : (s.updSplit c f).tick = s.tick := rfl

@[simp] theorem State.updLaunch_mem (s : State) (u f) : (s.updLaunch u f).mem = s.mem := rfl
@[simp] theorem State.updLaunch_poisoned (s : State) (u f) : (s.updLaunch u f).poisoned = s.poisoned := rfl
@[simp] theorem State.updLaunch_badCells (s : State) (u f) : (s.updLaunch u f).badCells = s.badCells := rfl
@[simp] theorem State.updLaunch_badLines (s : State) (u f) : (s.updLaunch u f).badLines = s.badLines := rfl
@[simp] theorem State.updLaunch_blocks (s : State) (u f) : (s.updLaunch u f).blocks = s.blocks := rfl
@[simp] theorem State.updLaunch_admits (s : State) (u f) : (s.updLaunch u f).admits = s.admits := rfl
@[simp] theorem State.updLaunch_insts (s : State) (u f) : (s.updLaunch u f).insts = s.insts := rfl
@[simp] theorem State.updLaunch_parts (s : State) (u f) : (s.updLaunch u f).parts = s.parts := rfl
@[simp] theorem State.updLaunch_areas (s : State) (u f) : (s.updLaunch u f).areas = s.areas := rfl
@[simp] theorem State.updLaunch_prereqs (s : State) (u f) : (s.updLaunch u f).prereqs = s.prereqs := rfl
@[simp] theorem State.updLaunch_dies (s : State) (u f) : (s.updLaunch u f).dies = s.dies := rfl
@[simp] theorem State.updLaunch_cores (s : State) (u f) : (s.updLaunch u f).cores = s.cores := rfl
@[simp] theorem State.updLaunch_ports (s : State) (u f) : (s.updLaunch u f).ports = s.ports := rfl
@[simp] theorem State.updLaunch_links (s : State) (u f) : (s.updLaunch u f).links = s.links := rfl
@[simp] theorem State.updLaunch_sources (s : State) (u f) : (s.updLaunch u f).sources = s.sources := rfl
@[simp] theorem State.updLaunch_evPq (s : State) (u f) : (s.updLaunch u f).evPq = s.evPq := rfl
@[simp] theorem State.updLaunch_msiPending (s : State) (u f) : (s.updLaunch u f).msiPending = s.msiPending := rfl
@[simp] theorem State.updLaunch_evmsi (s : State) (u f) : (s.updLaunch u f).evmsi = s.evmsi := rfl
@[simp] theorem State.updLaunch_power (s : State) (u f) : (s.updLaunch u f).power = s.power := rfl
@[simp] theorem State.updLaunch_boot (s : State) (u f) : (s.updLaunch u f).boot = s.boot := rfl
@[simp] theorem State.updLaunch_ckpt (s : State) (u f) : (s.updLaunch u f).ckpt = s.ckpt := rfl
@[simp] theorem State.updLaunch_iommu (s : State) (u f) : (s.updLaunch u f).iommu = s.iommu := rfl
@[simp] theorem State.updLaunch_imsics (s : State) (u f) : (s.updLaunch u f).imsics = s.imsics := rfl
@[simp] theorem State.updLaunch_aplic (s : State) (u f) : (s.updLaunch u f).aplic = s.aplic := rfl
@[simp] theorem State.updLaunch_dma (s : State) (u f) : (s.updLaunch u f).dma = s.dma := rfl
@[simp] theorem State.updLaunch_pkg (s : State) (u f) : (s.updLaunch u f).pkg = s.pkg := rfl
@[simp] theorem State.updLaunch_conngrp (s : State) (u f) : (s.updLaunch u f).conngrp = s.conngrp := rfl
@[simp] theorem State.updLaunch_connmap (s : State) (u f) : (s.updLaunch u f).connmap = s.connmap := rfl
@[simp] theorem State.updLaunch_connbusy (s : State) (u f) : (s.updLaunch u f).connbusy = s.connbusy := rfl
@[simp] theorem State.updLaunch_jcfg (s : State) (u f) : (s.updLaunch u f).jcfg = s.jcfg := rfl
@[simp] theorem State.updLaunch_time (s : State) (u f) : (s.updLaunch u f).time = s.time := rfl
@[simp] theorem State.updLaunch_refills (s : State) (u f) : (s.updLaunch u f).refills = s.refills := rfl
@[simp] theorem State.updLaunch_epkg (s : State) (u f) : (s.updLaunch u f).epkg = s.epkg := rfl
@[simp] theorem State.updLaunch_transit (s : State) (u f) : (s.updLaunch u f).transit = s.transit := rfl
@[simp] theorem State.updLaunch_remote (s : State) (u f) : (s.updLaunch u f).remote = s.remote := rfl
@[simp] theorem State.updLaunch_subnet (s : State) (u f) : (s.updLaunch u f).subnet = s.subnet := rfl
@[simp] theorem State.updLaunch_net (s : State) (u f) : (s.updLaunch u f).net = s.net := rfl
@[simp] theorem State.updLaunch_kept (s : State) (u f) : (s.updLaunch u f).kept = s.kept := rfl
@[simp] theorem State.updLaunch_replies (s : State) (u f) : (s.updLaunch u f).replies = s.replies := rfl
@[simp] theorem State.updLaunch_nextLoad (s : State) (u f) : (s.updLaunch u f).nextLoad = s.nextLoad := rfl
@[simp] theorem State.updLaunch_qcache (s : State) (u f) : (s.updLaunch u f).qcache = s.qcache := rfl
@[simp] theorem State.updLaunch_rcache (s : State) (u f) : (s.updLaunch u f).rcache = s.rcache := rfl
@[simp] theorem State.updLaunch_lcache (s : State) (u f) : (s.updLaunch u f).lcache = s.lcache := rfl
@[simp] theorem State.updLaunch_roots (s : State) (u f) : (s.updLaunch u f).roots = s.roots := rfl
@[simp] theorem State.updLaunch_roots2 (s : State) (u f) : (s.updLaunch u f).roots2 = s.roots2 := rfl
@[simp] theorem State.updLaunch_latched (s : State) (u f) : (s.updLaunch u f).latched = s.latched := rfl
@[simp] theorem State.updLaunch_hostOut (s : State) (u f) : (s.updLaunch u f).hostOut = s.hostOut := rfl
@[simp] theorem State.updLaunch_nextUid (s : State) (u f) : (s.updLaunch u f).nextUid = s.nextUid := rfl
@[simp] theorem State.updLaunch_nextReq (s : State) (u f) : (s.updLaunch u f).nextReq = s.nextReq := rfl
@[simp] theorem State.updLaunch_waitAge (s : State) (u f) : (s.updLaunch u f).waitAge = s.waitAge := rfl
@[simp] theorem State.updLaunch_cur (s : State) (u f) : (s.updLaunch u f).cur = s.cur := rfl
@[simp] theorem State.updLaunch_ev (s : State) (u f) : (s.updLaunch u f).ev = s.ev := rfl
@[simp] theorem State.updLaunch_agenda (s : State) (u f) : (s.updLaunch u f).agenda = s.agenda := rfl
@[simp] theorem State.updLaunch_tick (s : State) (u f) : (s.updLaunch u f).tick = s.tick := rfl

@[simp] theorem State.updStack_mem (s : State) (k f) : (s.updStack k f).mem = s.mem := rfl
@[simp] theorem State.updStack_poisoned (s : State) (k f) : (s.updStack k f).poisoned = s.poisoned := rfl
@[simp] theorem State.updStack_badCells (s : State) (k f) : (s.updStack k f).badCells = s.badCells := rfl
@[simp] theorem State.updStack_badLines (s : State) (k f) : (s.updStack k f).badLines = s.badLines := rfl
@[simp] theorem State.updStack_blocks (s : State) (k f) : (s.updStack k f).blocks = s.blocks := rfl
@[simp] theorem State.updStack_launches (s : State) (k f) : (s.updStack k f).launches = s.launches := rfl
@[simp] theorem State.updStack_admits (s : State) (k f) : (s.updStack k f).admits = s.admits := rfl
@[simp] theorem State.updStack_insts (s : State) (k f) : (s.updStack k f).insts = s.insts := rfl
@[simp] theorem State.updStack_parts (s : State) (k f) : (s.updStack k f).parts = s.parts := rfl
@[simp] theorem State.updStack_areas (s : State) (k f) : (s.updStack k f).areas = s.areas := rfl
@[simp] theorem State.updStack_prereqs (s : State) (k f) : (s.updStack k f).prereqs = s.prereqs := rfl
@[simp] theorem State.updStack_cores (s : State) (k f) : (s.updStack k f).cores = s.cores := rfl
@[simp] theorem State.updStack_ports (s : State) (k f) : (s.updStack k f).ports = s.ports := rfl
@[simp] theorem State.updStack_links (s : State) (k f) : (s.updStack k f).links = s.links := rfl
@[simp] theorem State.updStack_sources (s : State) (k f) : (s.updStack k f).sources = s.sources := rfl
@[simp] theorem State.updStack_evPq (s : State) (k f) : (s.updStack k f).evPq = s.evPq := rfl
@[simp] theorem State.updStack_msiPending (s : State) (k f) : (s.updStack k f).msiPending = s.msiPending := rfl
@[simp] theorem State.updStack_evmsi (s : State) (k f) : (s.updStack k f).evmsi = s.evmsi := rfl
@[simp] theorem State.updStack_power (s : State) (k f) : (s.updStack k f).power = s.power := rfl
@[simp] theorem State.updStack_boot (s : State) (k f) : (s.updStack k f).boot = s.boot := rfl
@[simp] theorem State.updStack_ckpt (s : State) (k f) : (s.updStack k f).ckpt = s.ckpt := rfl
@[simp] theorem State.updStack_iommu (s : State) (k f) : (s.updStack k f).iommu = s.iommu := rfl
@[simp] theorem State.updStack_imsics (s : State) (k f) : (s.updStack k f).imsics = s.imsics := rfl
@[simp] theorem State.updStack_aplic (s : State) (k f) : (s.updStack k f).aplic = s.aplic := rfl
@[simp] theorem State.updStack_dma (s : State) (k f) : (s.updStack k f).dma = s.dma := rfl
@[simp] theorem State.updStack_pkg (s : State) (k f) : (s.updStack k f).pkg = s.pkg := rfl
@[simp] theorem State.updStack_conngrp (s : State) (k f) : (s.updStack k f).conngrp = s.conngrp := rfl
@[simp] theorem State.updStack_connmap (s : State) (k f) : (s.updStack k f).connmap = s.connmap := rfl
@[simp] theorem State.updStack_connbusy (s : State) (k f) : (s.updStack k f).connbusy = s.connbusy := rfl
@[simp] theorem State.updStack_jcfg (s : State) (k f) : (s.updStack k f).jcfg = s.jcfg := rfl
@[simp] theorem State.updStack_time (s : State) (k f) : (s.updStack k f).time = s.time := rfl
@[simp] theorem State.updStack_refills (s : State) (k f) : (s.updStack k f).refills = s.refills := rfl
@[simp] theorem State.updStack_epkg (s : State) (k f) : (s.updStack k f).epkg = s.epkg := rfl
@[simp] theorem State.updStack_transit (s : State) (k f) : (s.updStack k f).transit = s.transit := rfl
@[simp] theorem State.updStack_remote (s : State) (k f) : (s.updStack k f).remote = s.remote := rfl
@[simp] theorem State.updStack_subnet (s : State) (k f) : (s.updStack k f).subnet = s.subnet := rfl
@[simp] theorem State.updStack_net (s : State) (k f) : (s.updStack k f).net = s.net := rfl
@[simp] theorem State.updStack_kept (s : State) (k f) : (s.updStack k f).kept = s.kept := rfl
@[simp] theorem State.updStack_replies (s : State) (k f) : (s.updStack k f).replies = s.replies := rfl
@[simp] theorem State.updStack_nextLoad (s : State) (k f) : (s.updStack k f).nextLoad = s.nextLoad := rfl
@[simp] theorem State.updStack_qcache (s : State) (k f) : (s.updStack k f).qcache = s.qcache := rfl
@[simp] theorem State.updStack_rcache (s : State) (k f) : (s.updStack k f).rcache = s.rcache := rfl
@[simp] theorem State.updStack_lcache (s : State) (k f) : (s.updStack k f).lcache = s.lcache := rfl
@[simp] theorem State.updStack_roots (s : State) (k f) : (s.updStack k f).roots = s.roots := rfl
@[simp] theorem State.updStack_roots2 (s : State) (k f) : (s.updStack k f).roots2 = s.roots2 := rfl
@[simp] theorem State.updStack_latched (s : State) (k f) : (s.updStack k f).latched = s.latched := rfl
@[simp] theorem State.updStack_hostOut (s : State) (k f) : (s.updStack k f).hostOut = s.hostOut := rfl
@[simp] theorem State.updStack_nextUid (s : State) (k f) : (s.updStack k f).nextUid = s.nextUid := rfl
@[simp] theorem State.updStack_nextReq (s : State) (k f) : (s.updStack k f).nextReq = s.nextReq := rfl
@[simp] theorem State.updStack_waitAge (s : State) (k f) : (s.updStack k f).waitAge = s.waitAge := rfl
@[simp] theorem State.updStack_cur (s : State) (k f) : (s.updStack k f).cur = s.cur := rfl
@[simp] theorem State.updStack_ev (s : State) (k f) : (s.updStack k f).ev = s.ev := rfl
@[simp] theorem State.updStack_agenda (s : State) (k f) : (s.updStack k f).agenda = s.agenda := rfl
@[simp] theorem State.updStack_tick (s : State) (k f) : (s.updStack k f).tick = s.tick := rfl

@[simp] theorem State.updCore_mem (s : State) (k n f) : (s.updCore k n f).mem = s.mem := rfl
@[simp] theorem State.updCore_poisoned (s : State) (k n f) : (s.updCore k n f).poisoned = s.poisoned := rfl
@[simp] theorem State.updCore_badCells (s : State) (k n f) : (s.updCore k n f).badCells = s.badCells := rfl
@[simp] theorem State.updCore_badLines (s : State) (k n f) : (s.updCore k n f).badLines = s.badLines := rfl
@[simp] theorem State.updCore_blocks (s : State) (k n f) : (s.updCore k n f).blocks = s.blocks := rfl
@[simp] theorem State.updCore_launches (s : State) (k n f) : (s.updCore k n f).launches = s.launches := rfl
@[simp] theorem State.updCore_admits (s : State) (k n f) : (s.updCore k n f).admits = s.admits := rfl
@[simp] theorem State.updCore_insts (s : State) (k n f) : (s.updCore k n f).insts = s.insts := rfl
@[simp] theorem State.updCore_parts (s : State) (k n f) : (s.updCore k n f).parts = s.parts := rfl
@[simp] theorem State.updCore_areas (s : State) (k n f) : (s.updCore k n f).areas = s.areas := rfl
@[simp] theorem State.updCore_prereqs (s : State) (k n f) : (s.updCore k n f).prereqs = s.prereqs := rfl
@[simp] theorem State.updCore_dies (s : State) (k n f) : (s.updCore k n f).dies = s.dies := rfl
@[simp] theorem State.updCore_ports (s : State) (k n f) : (s.updCore k n f).ports = s.ports := rfl
@[simp] theorem State.updCore_links (s : State) (k n f) : (s.updCore k n f).links = s.links := rfl
@[simp] theorem State.updCore_sources (s : State) (k n f) : (s.updCore k n f).sources = s.sources := rfl
@[simp] theorem State.updCore_evPq (s : State) (k n f) : (s.updCore k n f).evPq = s.evPq := rfl
@[simp] theorem State.updCore_msiPending (s : State) (k n f) : (s.updCore k n f).msiPending = s.msiPending := rfl
@[simp] theorem State.updCore_evmsi (s : State) (k n f) : (s.updCore k n f).evmsi = s.evmsi := rfl
@[simp] theorem State.updCore_power (s : State) (k n f) : (s.updCore k n f).power = s.power := rfl
@[simp] theorem State.updCore_boot (s : State) (k n f) : (s.updCore k n f).boot = s.boot := rfl
@[simp] theorem State.updCore_ckpt (s : State) (k n f) : (s.updCore k n f).ckpt = s.ckpt := rfl
@[simp] theorem State.updCore_iommu (s : State) (k n f) : (s.updCore k n f).iommu = s.iommu := rfl
@[simp] theorem State.updCore_imsics (s : State) (k n f) : (s.updCore k n f).imsics = s.imsics := rfl
@[simp] theorem State.updCore_aplic (s : State) (k n f) : (s.updCore k n f).aplic = s.aplic := rfl
@[simp] theorem State.updCore_dma (s : State) (k n f) : (s.updCore k n f).dma = s.dma := rfl
@[simp] theorem State.updCore_pkg (s : State) (k n f) : (s.updCore k n f).pkg = s.pkg := rfl
@[simp] theorem State.updCore_conngrp (s : State) (k n f) : (s.updCore k n f).conngrp = s.conngrp := rfl
@[simp] theorem State.updCore_connmap (s : State) (k n f) : (s.updCore k n f).connmap = s.connmap := rfl
@[simp] theorem State.updCore_connbusy (s : State) (k n f) : (s.updCore k n f).connbusy = s.connbusy := rfl
@[simp] theorem State.updCore_jcfg (s : State) (k n f) : (s.updCore k n f).jcfg = s.jcfg := rfl
@[simp] theorem State.updCore_time (s : State) (k n f) : (s.updCore k n f).time = s.time := rfl
@[simp] theorem State.updCore_refills (s : State) (k n f) : (s.updCore k n f).refills = s.refills := rfl
@[simp] theorem State.updCore_epkg (s : State) (k n f) : (s.updCore k n f).epkg = s.epkg := rfl
@[simp] theorem State.updCore_transit (s : State) (k n f) : (s.updCore k n f).transit = s.transit := rfl
@[simp] theorem State.updCore_remote (s : State) (k n f) : (s.updCore k n f).remote = s.remote := rfl
@[simp] theorem State.updCore_subnet (s : State) (k n f) : (s.updCore k n f).subnet = s.subnet := rfl
@[simp] theorem State.updCore_net (s : State) (k n f) : (s.updCore k n f).net = s.net := rfl
@[simp] theorem State.updCore_kept (s : State) (k n f) : (s.updCore k n f).kept = s.kept := rfl
@[simp] theorem State.updCore_replies (s : State) (k n f) : (s.updCore k n f).replies = s.replies := rfl
@[simp] theorem State.updCore_nextLoad (s : State) (k n f) : (s.updCore k n f).nextLoad = s.nextLoad := rfl
@[simp] theorem State.updCore_qcache (s : State) (k n f) : (s.updCore k n f).qcache = s.qcache := rfl
@[simp] theorem State.updCore_rcache (s : State) (k n f) : (s.updCore k n f).rcache = s.rcache := rfl
@[simp] theorem State.updCore_lcache (s : State) (k n f) : (s.updCore k n f).lcache = s.lcache := rfl
@[simp] theorem State.updCore_roots (s : State) (k n f) : (s.updCore k n f).roots = s.roots := rfl
@[simp] theorem State.updCore_roots2 (s : State) (k n f) : (s.updCore k n f).roots2 = s.roots2 := rfl
@[simp] theorem State.updCore_latched (s : State) (k n f) : (s.updCore k n f).latched = s.latched := rfl
@[simp] theorem State.updCore_hostOut (s : State) (k n f) : (s.updCore k n f).hostOut = s.hostOut := rfl
@[simp] theorem State.updCore_nextUid (s : State) (k n f) : (s.updCore k n f).nextUid = s.nextUid := rfl
@[simp] theorem State.updCore_nextReq (s : State) (k n f) : (s.updCore k n f).nextReq = s.nextReq := rfl
@[simp] theorem State.updCore_waitAge (s : State) (k n f) : (s.updCore k n f).waitAge = s.waitAge := rfl
@[simp] theorem State.updCore_cur (s : State) (k n f) : (s.updCore k n f).cur = s.cur := rfl
@[simp] theorem State.updCore_ev (s : State) (k n f) : (s.updCore k n f).ev = s.ev := rfl
@[simp] theorem State.updCore_agenda (s : State) (k n f) : (s.updCore k n f).agenda = s.agenda := rfl
@[simp] theorem State.updCore_tick (s : State) (k n f) : (s.updCore k n f).tick = s.tick := rfl

@[simp] theorem State.updPart_mem (s : State) (p f) : (s.updPart p f).mem = s.mem := rfl
@[simp] theorem State.updPart_poisoned (s : State) (p f) : (s.updPart p f).poisoned = s.poisoned := rfl
@[simp] theorem State.updPart_badCells (s : State) (p f) : (s.updPart p f).badCells = s.badCells := rfl
@[simp] theorem State.updPart_badLines (s : State) (p f) : (s.updPart p f).badLines = s.badLines := rfl
@[simp] theorem State.updPart_blocks (s : State) (p f) : (s.updPart p f).blocks = s.blocks := rfl
@[simp] theorem State.updPart_launches (s : State) (p f) : (s.updPart p f).launches = s.launches := rfl
@[simp] theorem State.updPart_admits (s : State) (p f) : (s.updPart p f).admits = s.admits := rfl
@[simp] theorem State.updPart_insts (s : State) (p f) : (s.updPart p f).insts = s.insts := rfl
@[simp] theorem State.updPart_areas (s : State) (p f) : (s.updPart p f).areas = s.areas := rfl
@[simp] theorem State.updPart_prereqs (s : State) (p f) : (s.updPart p f).prereqs = s.prereqs := rfl
@[simp] theorem State.updPart_dies (s : State) (p f) : (s.updPart p f).dies = s.dies := rfl
@[simp] theorem State.updPart_cores (s : State) (p f) : (s.updPart p f).cores = s.cores := rfl
@[simp] theorem State.updPart_ports (s : State) (p f) : (s.updPart p f).ports = s.ports := rfl
@[simp] theorem State.updPart_links (s : State) (p f) : (s.updPart p f).links = s.links := rfl
@[simp] theorem State.updPart_sources (s : State) (p f) : (s.updPart p f).sources = s.sources := rfl
@[simp] theorem State.updPart_evPq (s : State) (p f) : (s.updPart p f).evPq = s.evPq := rfl
@[simp] theorem State.updPart_msiPending (s : State) (p f) : (s.updPart p f).msiPending = s.msiPending := rfl
@[simp] theorem State.updPart_evmsi (s : State) (p f) : (s.updPart p f).evmsi = s.evmsi := rfl
@[simp] theorem State.updPart_power (s : State) (p f) : (s.updPart p f).power = s.power := rfl
@[simp] theorem State.updPart_boot (s : State) (p f) : (s.updPart p f).boot = s.boot := rfl
@[simp] theorem State.updPart_ckpt (s : State) (p f) : (s.updPart p f).ckpt = s.ckpt := rfl
@[simp] theorem State.updPart_iommu (s : State) (p f) : (s.updPart p f).iommu = s.iommu := rfl
@[simp] theorem State.updPart_imsics (s : State) (p f) : (s.updPart p f).imsics = s.imsics := rfl
@[simp] theorem State.updPart_aplic (s : State) (p f) : (s.updPart p f).aplic = s.aplic := rfl
@[simp] theorem State.updPart_dma (s : State) (p f) : (s.updPart p f).dma = s.dma := rfl
@[simp] theorem State.updPart_pkg (s : State) (p f) : (s.updPart p f).pkg = s.pkg := rfl
@[simp] theorem State.updPart_conngrp (s : State) (p f) : (s.updPart p f).conngrp = s.conngrp := rfl
@[simp] theorem State.updPart_connmap (s : State) (p f) : (s.updPart p f).connmap = s.connmap := rfl
@[simp] theorem State.updPart_connbusy (s : State) (p f) : (s.updPart p f).connbusy = s.connbusy := rfl
@[simp] theorem State.updPart_jcfg (s : State) (p f) : (s.updPart p f).jcfg = s.jcfg := rfl
@[simp] theorem State.updPart_time (s : State) (p f) : (s.updPart p f).time = s.time := rfl
@[simp] theorem State.updPart_refills (s : State) (p f) : (s.updPart p f).refills = s.refills := rfl
@[simp] theorem State.updPart_epkg (s : State) (p f) : (s.updPart p f).epkg = s.epkg := rfl
@[simp] theorem State.updPart_transit (s : State) (p f) : (s.updPart p f).transit = s.transit := rfl
@[simp] theorem State.updPart_remote (s : State) (p f) : (s.updPart p f).remote = s.remote := rfl
@[simp] theorem State.updPart_subnet (s : State) (p f) : (s.updPart p f).subnet = s.subnet := rfl
@[simp] theorem State.updPart_net (s : State) (p f) : (s.updPart p f).net = s.net := rfl
@[simp] theorem State.updPart_kept (s : State) (p f) : (s.updPart p f).kept = s.kept := rfl
@[simp] theorem State.updPart_replies (s : State) (p f) : (s.updPart p f).replies = s.replies := rfl
@[simp] theorem State.updPart_nextLoad (s : State) (p f) : (s.updPart p f).nextLoad = s.nextLoad := rfl
@[simp] theorem State.updPart_qcache (s : State) (p f) : (s.updPart p f).qcache = s.qcache := rfl
@[simp] theorem State.updPart_rcache (s : State) (p f) : (s.updPart p f).rcache = s.rcache := rfl
@[simp] theorem State.updPart_lcache (s : State) (p f) : (s.updPart p f).lcache = s.lcache := rfl
@[simp] theorem State.updPart_roots (s : State) (p f) : (s.updPart p f).roots = s.roots := rfl
@[simp] theorem State.updPart_roots2 (s : State) (p f) : (s.updPart p f).roots2 = s.roots2 := rfl
@[simp] theorem State.updPart_latched (s : State) (p f) : (s.updPart p f).latched = s.latched := rfl
@[simp] theorem State.updPart_hostOut (s : State) (p f) : (s.updPart p f).hostOut = s.hostOut := rfl
@[simp] theorem State.updPart_nextUid (s : State) (p f) : (s.updPart p f).nextUid = s.nextUid := rfl
@[simp] theorem State.updPart_nextReq (s : State) (p f) : (s.updPart p f).nextReq = s.nextReq := rfl
@[simp] theorem State.updPart_waitAge (s : State) (p f) : (s.updPart p f).waitAge = s.waitAge := rfl
@[simp] theorem State.updPart_cur (s : State) (p f) : (s.updPart p f).cur = s.cur := rfl
@[simp] theorem State.updPart_ev (s : State) (p f) : (s.updPart p f).ev = s.ev := rfl
@[simp] theorem State.updPart_agenda (s : State) (p f) : (s.updPart p f).agenda = s.agenda := rfl
@[simp] theorem State.updPart_tick (s : State) (p f) : (s.updPart p f).tick = s.tick := rfl

@[simp] theorem State.updPort_mem (s : State) (w f) : (s.updPort w f).mem = s.mem := rfl
@[simp] theorem State.updPort_poisoned (s : State) (w f) : (s.updPort w f).poisoned = s.poisoned := rfl
@[simp] theorem State.updPort_badCells (s : State) (w f) : (s.updPort w f).badCells = s.badCells := rfl
@[simp] theorem State.updPort_badLines (s : State) (w f) : (s.updPort w f).badLines = s.badLines := rfl
@[simp] theorem State.updPort_blocks (s : State) (w f) : (s.updPort w f).blocks = s.blocks := rfl
@[simp] theorem State.updPort_launches (s : State) (w f) : (s.updPort w f).launches = s.launches := rfl
@[simp] theorem State.updPort_admits (s : State) (w f) : (s.updPort w f).admits = s.admits := rfl
@[simp] theorem State.updPort_insts (s : State) (w f) : (s.updPort w f).insts = s.insts := rfl
@[simp] theorem State.updPort_parts (s : State) (w f) : (s.updPort w f).parts = s.parts := rfl
@[simp] theorem State.updPort_areas (s : State) (w f) : (s.updPort w f).areas = s.areas := rfl
@[simp] theorem State.updPort_prereqs (s : State) (w f) : (s.updPort w f).prereqs = s.prereqs := rfl
@[simp] theorem State.updPort_dies (s : State) (w f) : (s.updPort w f).dies = s.dies := rfl
@[simp] theorem State.updPort_cores (s : State) (w f) : (s.updPort w f).cores = s.cores := rfl
@[simp] theorem State.updPort_links (s : State) (w f) : (s.updPort w f).links = s.links := rfl
@[simp] theorem State.updPort_sources (s : State) (w f) : (s.updPort w f).sources = s.sources := rfl
@[simp] theorem State.updPort_evPq (s : State) (w f) : (s.updPort w f).evPq = s.evPq := rfl
@[simp] theorem State.updPort_msiPending (s : State) (w f) : (s.updPort w f).msiPending = s.msiPending := rfl
@[simp] theorem State.updPort_evmsi (s : State) (w f) : (s.updPort w f).evmsi = s.evmsi := rfl
@[simp] theorem State.updPort_power (s : State) (w f) : (s.updPort w f).power = s.power := rfl
@[simp] theorem State.updPort_boot (s : State) (w f) : (s.updPort w f).boot = s.boot := rfl
@[simp] theorem State.updPort_ckpt (s : State) (w f) : (s.updPort w f).ckpt = s.ckpt := rfl
@[simp] theorem State.updPort_iommu (s : State) (w f) : (s.updPort w f).iommu = s.iommu := rfl
@[simp] theorem State.updPort_imsics (s : State) (w f) : (s.updPort w f).imsics = s.imsics := rfl
@[simp] theorem State.updPort_aplic (s : State) (w f) : (s.updPort w f).aplic = s.aplic := rfl
@[simp] theorem State.updPort_dma (s : State) (w f) : (s.updPort w f).dma = s.dma := rfl
@[simp] theorem State.updPort_pkg (s : State) (w f) : (s.updPort w f).pkg = s.pkg := rfl
@[simp] theorem State.updPort_conngrp (s : State) (w f) : (s.updPort w f).conngrp = s.conngrp := rfl
@[simp] theorem State.updPort_connmap (s : State) (w f) : (s.updPort w f).connmap = s.connmap := rfl
@[simp] theorem State.updPort_connbusy (s : State) (w f) : (s.updPort w f).connbusy = s.connbusy := rfl
@[simp] theorem State.updPort_jcfg (s : State) (w f) : (s.updPort w f).jcfg = s.jcfg := rfl
@[simp] theorem State.updPort_time (s : State) (w f) : (s.updPort w f).time = s.time := rfl
@[simp] theorem State.updPort_refills (s : State) (w f) : (s.updPort w f).refills = s.refills := rfl
@[simp] theorem State.updPort_epkg (s : State) (w f) : (s.updPort w f).epkg = s.epkg := rfl
@[simp] theorem State.updPort_transit (s : State) (w f) : (s.updPort w f).transit = s.transit := rfl
@[simp] theorem State.updPort_remote (s : State) (w f) : (s.updPort w f).remote = s.remote := rfl
@[simp] theorem State.updPort_subnet (s : State) (w f) : (s.updPort w f).subnet = s.subnet := rfl
@[simp] theorem State.updPort_net (s : State) (w f) : (s.updPort w f).net = s.net := rfl
@[simp] theorem State.updPort_kept (s : State) (w f) : (s.updPort w f).kept = s.kept := rfl
@[simp] theorem State.updPort_replies (s : State) (w f) : (s.updPort w f).replies = s.replies := rfl
@[simp] theorem State.updPort_nextLoad (s : State) (w f) : (s.updPort w f).nextLoad = s.nextLoad := rfl
@[simp] theorem State.updPort_qcache (s : State) (w f) : (s.updPort w f).qcache = s.qcache := rfl
@[simp] theorem State.updPort_rcache (s : State) (w f) : (s.updPort w f).rcache = s.rcache := rfl
@[simp] theorem State.updPort_lcache (s : State) (w f) : (s.updPort w f).lcache = s.lcache := rfl
@[simp] theorem State.updPort_roots (s : State) (w f) : (s.updPort w f).roots = s.roots := rfl
@[simp] theorem State.updPort_roots2 (s : State) (w f) : (s.updPort w f).roots2 = s.roots2 := rfl
@[simp] theorem State.updPort_latched (s : State) (w f) : (s.updPort w f).latched = s.latched := rfl
@[simp] theorem State.updPort_hostOut (s : State) (w f) : (s.updPort w f).hostOut = s.hostOut := rfl
@[simp] theorem State.updPort_nextUid (s : State) (w f) : (s.updPort w f).nextUid = s.nextUid := rfl
@[simp] theorem State.updPort_nextReq (s : State) (w f) : (s.updPort w f).nextReq = s.nextReq := rfl
@[simp] theorem State.updPort_waitAge (s : State) (w f) : (s.updPort w f).waitAge = s.waitAge := rfl
@[simp] theorem State.updPort_cur (s : State) (w f) : (s.updPort w f).cur = s.cur := rfl
@[simp] theorem State.updPort_ev (s : State) (w f) : (s.updPort w f).ev = s.ev := rfl
@[simp] theorem State.updPort_agenda (s : State) (w f) : (s.updPort w f).agenda = s.agenda := rfl
@[simp] theorem State.updPort_tick (s : State) (w f) : (s.updPort w f).tick = s.tick := rfl

@[simp] theorem State.updSource_mem (s : State) (k f) : (s.updSource k f).mem = s.mem := rfl
@[simp] theorem State.updSource_poisoned (s : State) (k f) : (s.updSource k f).poisoned = s.poisoned := rfl
@[simp] theorem State.updSource_badCells (s : State) (k f) : (s.updSource k f).badCells = s.badCells := rfl
@[simp] theorem State.updSource_badLines (s : State) (k f) : (s.updSource k f).badLines = s.badLines := rfl
@[simp] theorem State.updSource_blocks (s : State) (k f) : (s.updSource k f).blocks = s.blocks := rfl
@[simp] theorem State.updSource_launches (s : State) (k f) : (s.updSource k f).launches = s.launches := rfl
@[simp] theorem State.updSource_admits (s : State) (k f) : (s.updSource k f).admits = s.admits := rfl
@[simp] theorem State.updSource_insts (s : State) (k f) : (s.updSource k f).insts = s.insts := rfl
@[simp] theorem State.updSource_parts (s : State) (k f) : (s.updSource k f).parts = s.parts := rfl
@[simp] theorem State.updSource_areas (s : State) (k f) : (s.updSource k f).areas = s.areas := rfl
@[simp] theorem State.updSource_prereqs (s : State) (k f) : (s.updSource k f).prereqs = s.prereqs := rfl
@[simp] theorem State.updSource_dies (s : State) (k f) : (s.updSource k f).dies = s.dies := rfl
@[simp] theorem State.updSource_cores (s : State) (k f) : (s.updSource k f).cores = s.cores := rfl
@[simp] theorem State.updSource_ports (s : State) (k f) : (s.updSource k f).ports = s.ports := rfl
@[simp] theorem State.updSource_links (s : State) (k f) : (s.updSource k f).links = s.links := rfl
@[simp] theorem State.updSource_evPq (s : State) (k f) : (s.updSource k f).evPq = s.evPq := rfl
@[simp] theorem State.updSource_msiPending (s : State) (k f) : (s.updSource k f).msiPending = s.msiPending := rfl
@[simp] theorem State.updSource_evmsi (s : State) (k f) : (s.updSource k f).evmsi = s.evmsi := rfl
@[simp] theorem State.updSource_power (s : State) (k f) : (s.updSource k f).power = s.power := rfl
@[simp] theorem State.updSource_boot (s : State) (k f) : (s.updSource k f).boot = s.boot := rfl
@[simp] theorem State.updSource_ckpt (s : State) (k f) : (s.updSource k f).ckpt = s.ckpt := rfl
@[simp] theorem State.updSource_iommu (s : State) (k f) : (s.updSource k f).iommu = s.iommu := rfl
@[simp] theorem State.updSource_imsics (s : State) (k f) : (s.updSource k f).imsics = s.imsics := rfl
@[simp] theorem State.updSource_aplic (s : State) (k f) : (s.updSource k f).aplic = s.aplic := rfl
@[simp] theorem State.updSource_dma (s : State) (k f) : (s.updSource k f).dma = s.dma := rfl
@[simp] theorem State.updSource_pkg (s : State) (k f) : (s.updSource k f).pkg = s.pkg := rfl
@[simp] theorem State.updSource_conngrp (s : State) (k f) : (s.updSource k f).conngrp = s.conngrp := rfl
@[simp] theorem State.updSource_connmap (s : State) (k f) : (s.updSource k f).connmap = s.connmap := rfl
@[simp] theorem State.updSource_connbusy (s : State) (k f) : (s.updSource k f).connbusy = s.connbusy := rfl
@[simp] theorem State.updSource_jcfg (s : State) (k f) : (s.updSource k f).jcfg = s.jcfg := rfl
@[simp] theorem State.updSource_time (s : State) (k f) : (s.updSource k f).time = s.time := rfl
@[simp] theorem State.updSource_refills (s : State) (k f) : (s.updSource k f).refills = s.refills := rfl
@[simp] theorem State.updSource_epkg (s : State) (k f) : (s.updSource k f).epkg = s.epkg := rfl
@[simp] theorem State.updSource_transit (s : State) (k f) : (s.updSource k f).transit = s.transit := rfl
@[simp] theorem State.updSource_remote (s : State) (k f) : (s.updSource k f).remote = s.remote := rfl
@[simp] theorem State.updSource_subnet (s : State) (k f) : (s.updSource k f).subnet = s.subnet := rfl
@[simp] theorem State.updSource_net (s : State) (k f) : (s.updSource k f).net = s.net := rfl
@[simp] theorem State.updSource_kept (s : State) (k f) : (s.updSource k f).kept = s.kept := rfl
@[simp] theorem State.updSource_replies (s : State) (k f) : (s.updSource k f).replies = s.replies := rfl
@[simp] theorem State.updSource_nextLoad (s : State) (k f) : (s.updSource k f).nextLoad = s.nextLoad := rfl
@[simp] theorem State.updSource_qcache (s : State) (k f) : (s.updSource k f).qcache = s.qcache := rfl
@[simp] theorem State.updSource_rcache (s : State) (k f) : (s.updSource k f).rcache = s.rcache := rfl
@[simp] theorem State.updSource_lcache (s : State) (k f) : (s.updSource k f).lcache = s.lcache := rfl
@[simp] theorem State.updSource_roots (s : State) (k f) : (s.updSource k f).roots = s.roots := rfl
@[simp] theorem State.updSource_roots2 (s : State) (k f) : (s.updSource k f).roots2 = s.roots2 := rfl
@[simp] theorem State.updSource_latched (s : State) (k f) : (s.updSource k f).latched = s.latched := rfl
@[simp] theorem State.updSource_hostOut (s : State) (k f) : (s.updSource k f).hostOut = s.hostOut := rfl
@[simp] theorem State.updSource_nextUid (s : State) (k f) : (s.updSource k f).nextUid = s.nextUid := rfl
@[simp] theorem State.updSource_nextReq (s : State) (k f) : (s.updSource k f).nextReq = s.nextReq := rfl
@[simp] theorem State.updSource_waitAge (s : State) (k f) : (s.updSource k f).waitAge = s.waitAge := rfl
@[simp] theorem State.updSource_cur (s : State) (k f) : (s.updSource k f).cur = s.cur := rfl
@[simp] theorem State.updSource_ev (s : State) (k f) : (s.updSource k f).ev = s.ev := rfl
@[simp] theorem State.updSource_agenda (s : State) (k f) : (s.updSource k f).agenda = s.agenda := rfl
@[simp] theorem State.updSource_tick (s : State) (k f) : (s.updSource k f).tick = s.tick := rfl

@[simp] theorem State.updLink_mem (s : State) (w b m f) : (s.updLink w b m f).mem = s.mem := rfl
@[simp] theorem State.updLink_poisoned (s : State) (w b m f) : (s.updLink w b m f).poisoned = s.poisoned := rfl
@[simp] theorem State.updLink_badCells (s : State) (w b m f) : (s.updLink w b m f).badCells = s.badCells := rfl
@[simp] theorem State.updLink_badLines (s : State) (w b m f) : (s.updLink w b m f).badLines = s.badLines := rfl
@[simp] theorem State.updLink_blocks (s : State) (w b m f) : (s.updLink w b m f).blocks = s.blocks := rfl
@[simp] theorem State.updLink_launches (s : State) (w b m f) : (s.updLink w b m f).launches = s.launches := rfl
@[simp] theorem State.updLink_admits (s : State) (w b m f) : (s.updLink w b m f).admits = s.admits := rfl
@[simp] theorem State.updLink_insts (s : State) (w b m f) : (s.updLink w b m f).insts = s.insts := rfl
@[simp] theorem State.updLink_parts (s : State) (w b m f) : (s.updLink w b m f).parts = s.parts := rfl
@[simp] theorem State.updLink_areas (s : State) (w b m f) : (s.updLink w b m f).areas = s.areas := rfl
@[simp] theorem State.updLink_prereqs (s : State) (w b m f) : (s.updLink w b m f).prereqs = s.prereqs := rfl
@[simp] theorem State.updLink_dies (s : State) (w b m f) : (s.updLink w b m f).dies = s.dies := rfl
@[simp] theorem State.updLink_cores (s : State) (w b m f) : (s.updLink w b m f).cores = s.cores := rfl
@[simp] theorem State.updLink_ports (s : State) (w b m f) : (s.updLink w b m f).ports = s.ports := rfl
@[simp] theorem State.updLink_sources (s : State) (w b m f) : (s.updLink w b m f).sources = s.sources := rfl
@[simp] theorem State.updLink_evPq (s : State) (w b m f) : (s.updLink w b m f).evPq = s.evPq := rfl
@[simp] theorem State.updLink_msiPending (s : State) (w b m f) : (s.updLink w b m f).msiPending = s.msiPending := rfl
@[simp] theorem State.updLink_evmsi (s : State) (w b m f) : (s.updLink w b m f).evmsi = s.evmsi := rfl
@[simp] theorem State.updLink_power (s : State) (w b m f) : (s.updLink w b m f).power = s.power := rfl
@[simp] theorem State.updLink_boot (s : State) (w b m f) : (s.updLink w b m f).boot = s.boot := rfl
@[simp] theorem State.updLink_ckpt (s : State) (w b m f) : (s.updLink w b m f).ckpt = s.ckpt := rfl
@[simp] theorem State.updLink_iommu (s : State) (w b m f) : (s.updLink w b m f).iommu = s.iommu := rfl
@[simp] theorem State.updLink_imsics (s : State) (w b m f) : (s.updLink w b m f).imsics = s.imsics := rfl
@[simp] theorem State.updLink_aplic (s : State) (w b m f) : (s.updLink w b m f).aplic = s.aplic := rfl
@[simp] theorem State.updLink_dma (s : State) (w b m f) : (s.updLink w b m f).dma = s.dma := rfl
@[simp] theorem State.updLink_pkg (s : State) (w b m f) : (s.updLink w b m f).pkg = s.pkg := rfl
@[simp] theorem State.updLink_conngrp (s : State) (w b m f) : (s.updLink w b m f).conngrp = s.conngrp := rfl
@[simp] theorem State.updLink_connmap (s : State) (w b m f) : (s.updLink w b m f).connmap = s.connmap := rfl
@[simp] theorem State.updLink_connbusy (s : State) (w b m f) : (s.updLink w b m f).connbusy = s.connbusy := rfl
@[simp] theorem State.updLink_jcfg (s : State) (w b m f) : (s.updLink w b m f).jcfg = s.jcfg := rfl
@[simp] theorem State.updLink_time (s : State) (w b m f) : (s.updLink w b m f).time = s.time := rfl
@[simp] theorem State.updLink_refills (s : State) (w b m f) : (s.updLink w b m f).refills = s.refills := rfl
@[simp] theorem State.updLink_epkg (s : State) (w b m f) : (s.updLink w b m f).epkg = s.epkg := rfl
@[simp] theorem State.updLink_transit (s : State) (w b m f) : (s.updLink w b m f).transit = s.transit := rfl
@[simp] theorem State.updLink_remote (s : State) (w b m f) : (s.updLink w b m f).remote = s.remote := rfl
@[simp] theorem State.updLink_subnet (s : State) (w b m f) : (s.updLink w b m f).subnet = s.subnet := rfl
@[simp] theorem State.updLink_net (s : State) (w b m f) : (s.updLink w b m f).net = s.net := rfl
@[simp] theorem State.updLink_kept (s : State) (w b m f) : (s.updLink w b m f).kept = s.kept := rfl
@[simp] theorem State.updLink_replies (s : State) (w b m f) : (s.updLink w b m f).replies = s.replies := rfl
@[simp] theorem State.updLink_nextLoad (s : State) (w b m f) : (s.updLink w b m f).nextLoad = s.nextLoad := rfl
@[simp] theorem State.updLink_qcache (s : State) (w b m f) : (s.updLink w b m f).qcache = s.qcache := rfl
@[simp] theorem State.updLink_rcache (s : State) (w b m f) : (s.updLink w b m f).rcache = s.rcache := rfl
@[simp] theorem State.updLink_lcache (s : State) (w b m f) : (s.updLink w b m f).lcache = s.lcache := rfl
@[simp] theorem State.updLink_roots (s : State) (w b m f) : (s.updLink w b m f).roots = s.roots := rfl
@[simp] theorem State.updLink_roots2 (s : State) (w b m f) : (s.updLink w b m f).roots2 = s.roots2 := rfl
@[simp] theorem State.updLink_latched (s : State) (w b m f) : (s.updLink w b m f).latched = s.latched := rfl
@[simp] theorem State.updLink_hostOut (s : State) (w b m f) : (s.updLink w b m f).hostOut = s.hostOut := rfl
@[simp] theorem State.updLink_nextUid (s : State) (w b m f) : (s.updLink w b m f).nextUid = s.nextUid := rfl
@[simp] theorem State.updLink_nextReq (s : State) (w b m f) : (s.updLink w b m f).nextReq = s.nextReq := rfl
@[simp] theorem State.updLink_waitAge (s : State) (w b m f) : (s.updLink w b m f).waitAge = s.waitAge := rfl
@[simp] theorem State.updLink_cur (s : State) (w b m f) : (s.updLink w b m f).cur = s.cur := rfl
@[simp] theorem State.updLink_ev (s : State) (w b m f) : (s.updLink w b m f).ev = s.ev := rfl
@[simp] theorem State.updLink_agenda (s : State) (w b m f) : (s.updLink w b m f).agenda = s.agenda := rfl
@[simp] theorem State.updLink_tick (s : State) (w b m f) : (s.updLink w b m f).tick = s.tick := rfl

@[simp] theorem State.writeMem_badCells (s : State) (pa l) : (s.writeMem pa l).badCells = s.badCells := rfl
@[simp] theorem State.writeMem_badLines (s : State) (pa l) : (s.writeMem pa l).badLines = s.badLines := rfl
@[simp] theorem State.writeMem_blocks (s : State) (pa l) : (s.writeMem pa l).blocks = s.blocks := rfl
@[simp] theorem State.writeMem_launches (s : State) (pa l) : (s.writeMem pa l).launches = s.launches := rfl
@[simp] theorem State.writeMem_admits (s : State) (pa l) : (s.writeMem pa l).admits = s.admits := rfl
@[simp] theorem State.writeMem_insts (s : State) (pa l) : (s.writeMem pa l).insts = s.insts := rfl
@[simp] theorem State.writeMem_parts (s : State) (pa l) : (s.writeMem pa l).parts = s.parts := rfl
@[simp] theorem State.writeMem_areas (s : State) (pa l) : (s.writeMem pa l).areas = s.areas := rfl
@[simp] theorem State.writeMem_prereqs (s : State) (pa l) : (s.writeMem pa l).prereqs = s.prereqs := rfl
@[simp] theorem State.writeMem_dies (s : State) (pa l) : (s.writeMem pa l).dies = s.dies := rfl
@[simp] theorem State.writeMem_cores (s : State) (pa l) : (s.writeMem pa l).cores = s.cores := rfl
@[simp] theorem State.writeMem_ports (s : State) (pa l) : (s.writeMem pa l).ports = s.ports := rfl
@[simp] theorem State.writeMem_links (s : State) (pa l) : (s.writeMem pa l).links = s.links := rfl
@[simp] theorem State.writeMem_sources (s : State) (pa l) : (s.writeMem pa l).sources = s.sources := rfl
@[simp] theorem State.writeMem_evPq (s : State) (pa l) : (s.writeMem pa l).evPq = s.evPq := rfl
@[simp] theorem State.writeMem_msiPending (s : State) (pa l) : (s.writeMem pa l).msiPending = s.msiPending := rfl
@[simp] theorem State.writeMem_evmsi (s : State) (pa l) : (s.writeMem pa l).evmsi = s.evmsi := rfl
@[simp] theorem State.writeMem_power (s : State) (pa l) : (s.writeMem pa l).power = s.power := rfl
@[simp] theorem State.writeMem_boot (s : State) (pa l) : (s.writeMem pa l).boot = s.boot := rfl
@[simp] theorem State.writeMem_ckpt (s : State) (pa l) : (s.writeMem pa l).ckpt = s.ckpt := rfl
@[simp] theorem State.writeMem_iommu (s : State) (pa l) : (s.writeMem pa l).iommu = s.iommu := rfl
@[simp] theorem State.writeMem_imsics (s : State) (pa l) : (s.writeMem pa l).imsics = s.imsics := rfl
@[simp] theorem State.writeMem_aplic (s : State) (pa l) : (s.writeMem pa l).aplic = s.aplic := rfl
@[simp] theorem State.writeMem_dma (s : State) (pa l) : (s.writeMem pa l).dma = s.dma := rfl
@[simp] theorem State.writeMem_pkg (s : State) (pa l) : (s.writeMem pa l).pkg = s.pkg := rfl
@[simp] theorem State.writeMem_conngrp (s : State) (pa l) : (s.writeMem pa l).conngrp = s.conngrp := rfl
@[simp] theorem State.writeMem_connmap (s : State) (pa l) : (s.writeMem pa l).connmap = s.connmap := rfl
@[simp] theorem State.writeMem_connbusy (s : State) (pa l) : (s.writeMem pa l).connbusy = s.connbusy := rfl
@[simp] theorem State.writeMem_jcfg (s : State) (pa l) : (s.writeMem pa l).jcfg = s.jcfg := rfl
@[simp] theorem State.writeMem_time (s : State) (pa l) : (s.writeMem pa l).time = s.time := rfl
@[simp] theorem State.writeMem_refills (s : State) (pa l) : (s.writeMem pa l).refills = s.refills := rfl
@[simp] theorem State.writeMem_epkg (s : State) (pa l) : (s.writeMem pa l).epkg = s.epkg := rfl
@[simp] theorem State.writeMem_transit (s : State) (pa l) : (s.writeMem pa l).transit = s.transit := rfl
@[simp] theorem State.writeMem_remote (s : State) (pa l) : (s.writeMem pa l).remote = s.remote := rfl
@[simp] theorem State.writeMem_subnet (s : State) (pa l) : (s.writeMem pa l).subnet = s.subnet := rfl
@[simp] theorem State.writeMem_net (s : State) (pa l) : (s.writeMem pa l).net = s.net := rfl
@[simp] theorem State.writeMem_kept (s : State) (pa l) : (s.writeMem pa l).kept = s.kept := rfl
@[simp] theorem State.writeMem_replies (s : State) (pa l) : (s.writeMem pa l).replies = s.replies := rfl
@[simp] theorem State.writeMem_nextLoad (s : State) (pa l) : (s.writeMem pa l).nextLoad = s.nextLoad := rfl
@[simp] theorem State.writeMem_qcache (s : State) (pa l) : (s.writeMem pa l).qcache = s.qcache := rfl
@[simp] theorem State.writeMem_rcache (s : State) (pa l) : (s.writeMem pa l).rcache = s.rcache := rfl
@[simp] theorem State.writeMem_lcache (s : State) (pa l) : (s.writeMem pa l).lcache = s.lcache := rfl
@[simp] theorem State.writeMem_roots (s : State) (pa l) : (s.writeMem pa l).roots = s.roots := rfl
@[simp] theorem State.writeMem_roots2 (s : State) (pa l) : (s.writeMem pa l).roots2 = s.roots2 := rfl
@[simp] theorem State.writeMem_latched (s : State) (pa l) : (s.writeMem pa l).latched = s.latched := rfl
@[simp] theorem State.writeMem_hostOut (s : State) (pa l) : (s.writeMem pa l).hostOut = s.hostOut := rfl
@[simp] theorem State.writeMem_nextUid (s : State) (pa l) : (s.writeMem pa l).nextUid = s.nextUid := rfl
@[simp] theorem State.writeMem_nextReq (s : State) (pa l) : (s.writeMem pa l).nextReq = s.nextReq := rfl
@[simp] theorem State.writeMem_waitAge (s : State) (pa l) : (s.writeMem pa l).waitAge = s.waitAge := rfl
@[simp] theorem State.writeMem_cur (s : State) (pa l) : (s.writeMem pa l).cur = s.cur := rfl
@[simp] theorem State.writeMem_ev (s : State) (pa l) : (s.writeMem pa l).ev = s.ev := rfl
@[simp] theorem State.writeMem_agenda (s : State) (pa l) : (s.writeMem pa l).agenda = s.agenda := rfl
@[simp] theorem State.writeMem_tick (s : State) (pa l) : (s.writeMem pa l).tick = s.tick := rfl

@[simp] theorem State.updIommu_mem (s : State) (f) : (s.updIommu f).mem = s.mem := rfl
@[simp] theorem State.updIommu_poisoned (s : State) (f) : (s.updIommu f).poisoned = s.poisoned := rfl
@[simp] theorem State.updIommu_badCells (s : State) (f) : (s.updIommu f).badCells = s.badCells := rfl
@[simp] theorem State.updIommu_badLines (s : State) (f) : (s.updIommu f).badLines = s.badLines := rfl
@[simp] theorem State.updIommu_blocks (s : State) (f) : (s.updIommu f).blocks = s.blocks := rfl
@[simp] theorem State.updIommu_launches (s : State) (f) : (s.updIommu f).launches = s.launches := rfl
@[simp] theorem State.updIommu_admits (s : State) (f) : (s.updIommu f).admits = s.admits := rfl
@[simp] theorem State.updIommu_insts (s : State) (f) : (s.updIommu f).insts = s.insts := rfl
@[simp] theorem State.updIommu_parts (s : State) (f) : (s.updIommu f).parts = s.parts := rfl
@[simp] theorem State.updIommu_areas (s : State) (f) : (s.updIommu f).areas = s.areas := rfl
@[simp] theorem State.updIommu_prereqs (s : State) (f) : (s.updIommu f).prereqs = s.prereqs := rfl
@[simp] theorem State.updIommu_dies (s : State) (f) : (s.updIommu f).dies = s.dies := rfl
@[simp] theorem State.updIommu_cores (s : State) (f) : (s.updIommu f).cores = s.cores := rfl
@[simp] theorem State.updIommu_ports (s : State) (f) : (s.updIommu f).ports = s.ports := rfl
@[simp] theorem State.updIommu_links (s : State) (f) : (s.updIommu f).links = s.links := rfl
@[simp] theorem State.updIommu_sources (s : State) (f) : (s.updIommu f).sources = s.sources := rfl
@[simp] theorem State.updIommu_evPq (s : State) (f) : (s.updIommu f).evPq = s.evPq := rfl
@[simp] theorem State.updIommu_msiPending (s : State) (f) : (s.updIommu f).msiPending = s.msiPending := rfl
@[simp] theorem State.updIommu_evmsi (s : State) (f) : (s.updIommu f).evmsi = s.evmsi := rfl
@[simp] theorem State.updIommu_power (s : State) (f) : (s.updIommu f).power = s.power := rfl
@[simp] theorem State.updIommu_boot (s : State) (f) : (s.updIommu f).boot = s.boot := rfl
@[simp] theorem State.updIommu_ckpt (s : State) (f) : (s.updIommu f).ckpt = s.ckpt := rfl
@[simp] theorem State.updIommu_imsics (s : State) (f) : (s.updIommu f).imsics = s.imsics := rfl
@[simp] theorem State.updIommu_aplic (s : State) (f) : (s.updIommu f).aplic = s.aplic := rfl
@[simp] theorem State.updIommu_dma (s : State) (f) : (s.updIommu f).dma = s.dma := rfl
@[simp] theorem State.updIommu_pkg (s : State) (f) : (s.updIommu f).pkg = s.pkg := rfl
@[simp] theorem State.updIommu_conngrp (s : State) (f) : (s.updIommu f).conngrp = s.conngrp := rfl
@[simp] theorem State.updIommu_connmap (s : State) (f) : (s.updIommu f).connmap = s.connmap := rfl
@[simp] theorem State.updIommu_connbusy (s : State) (f) : (s.updIommu f).connbusy = s.connbusy := rfl
@[simp] theorem State.updIommu_jcfg (s : State) (f) : (s.updIommu f).jcfg = s.jcfg := rfl
@[simp] theorem State.updIommu_time (s : State) (f) : (s.updIommu f).time = s.time := rfl
@[simp] theorem State.updIommu_refills (s : State) (f) : (s.updIommu f).refills = s.refills := rfl
@[simp] theorem State.updIommu_epkg (s : State) (f) : (s.updIommu f).epkg = s.epkg := rfl
@[simp] theorem State.updIommu_transit (s : State) (f) : (s.updIommu f).transit = s.transit := rfl
@[simp] theorem State.updIommu_remote (s : State) (f) : (s.updIommu f).remote = s.remote := rfl
@[simp] theorem State.updIommu_subnet (s : State) (f) : (s.updIommu f).subnet = s.subnet := rfl
@[simp] theorem State.updIommu_net (s : State) (f) : (s.updIommu f).net = s.net := rfl
@[simp] theorem State.updIommu_kept (s : State) (f) : (s.updIommu f).kept = s.kept := rfl
@[simp] theorem State.updIommu_replies (s : State) (f) : (s.updIommu f).replies = s.replies := rfl
@[simp] theorem State.updIommu_nextLoad (s : State) (f) : (s.updIommu f).nextLoad = s.nextLoad := rfl
@[simp] theorem State.updIommu_qcache (s : State) (f) : (s.updIommu f).qcache = s.qcache := rfl
@[simp] theorem State.updIommu_rcache (s : State) (f) : (s.updIommu f).rcache = s.rcache := rfl
@[simp] theorem State.updIommu_lcache (s : State) (f) : (s.updIommu f).lcache = s.lcache := rfl
@[simp] theorem State.updIommu_roots (s : State) (f) : (s.updIommu f).roots = s.roots := rfl
@[simp] theorem State.updIommu_roots2 (s : State) (f) : (s.updIommu f).roots2 = s.roots2 := rfl
@[simp] theorem State.updIommu_latched (s : State) (f) : (s.updIommu f).latched = s.latched := rfl
@[simp] theorem State.updIommu_hostOut (s : State) (f) : (s.updIommu f).hostOut = s.hostOut := rfl
@[simp] theorem State.updIommu_nextUid (s : State) (f) : (s.updIommu f).nextUid = s.nextUid := rfl
@[simp] theorem State.updIommu_nextReq (s : State) (f) : (s.updIommu f).nextReq = s.nextReq := rfl
@[simp] theorem State.updIommu_waitAge (s : State) (f) : (s.updIommu f).waitAge = s.waitAge := rfl
@[simp] theorem State.updIommu_cur (s : State) (f) : (s.updIommu f).cur = s.cur := rfl
@[simp] theorem State.updIommu_ev (s : State) (f) : (s.updIommu f).ev = s.ev := rfl
@[simp] theorem State.updIommu_agenda (s : State) (f) : (s.updIommu f).agenda = s.agenda := rfl
@[simp] theorem State.updIommu_tick (s : State) (f) : (s.updIommu f).tick = s.tick := rfl

@[simp] theorem State.updFile_mem (s : State) (c n f) : (s.updFile c n f).mem = s.mem := rfl
@[simp] theorem State.updFile_poisoned (s : State) (c n f) : (s.updFile c n f).poisoned = s.poisoned := rfl
@[simp] theorem State.updFile_badCells (s : State) (c n f) : (s.updFile c n f).badCells = s.badCells := rfl
@[simp] theorem State.updFile_badLines (s : State) (c n f) : (s.updFile c n f).badLines = s.badLines := rfl
@[simp] theorem State.updFile_blocks (s : State) (c n f) : (s.updFile c n f).blocks = s.blocks := rfl
@[simp] theorem State.updFile_launches (s : State) (c n f) : (s.updFile c n f).launches = s.launches := rfl
@[simp] theorem State.updFile_admits (s : State) (c n f) : (s.updFile c n f).admits = s.admits := rfl
@[simp] theorem State.updFile_insts (s : State) (c n f) : (s.updFile c n f).insts = s.insts := rfl
@[simp] theorem State.updFile_parts (s : State) (c n f) : (s.updFile c n f).parts = s.parts := rfl
@[simp] theorem State.updFile_areas (s : State) (c n f) : (s.updFile c n f).areas = s.areas := rfl
@[simp] theorem State.updFile_prereqs (s : State) (c n f) : (s.updFile c n f).prereqs = s.prereqs := rfl
@[simp] theorem State.updFile_dies (s : State) (c n f) : (s.updFile c n f).dies = s.dies := rfl
@[simp] theorem State.updFile_cores (s : State) (c n f) : (s.updFile c n f).cores = s.cores := rfl
@[simp] theorem State.updFile_ports (s : State) (c n f) : (s.updFile c n f).ports = s.ports := rfl
@[simp] theorem State.updFile_links (s : State) (c n f) : (s.updFile c n f).links = s.links := rfl
@[simp] theorem State.updFile_sources (s : State) (c n f) : (s.updFile c n f).sources = s.sources := rfl
@[simp] theorem State.updFile_evPq (s : State) (c n f) : (s.updFile c n f).evPq = s.evPq := rfl
@[simp] theorem State.updFile_msiPending (s : State) (c n f) : (s.updFile c n f).msiPending = s.msiPending := rfl
@[simp] theorem State.updFile_evmsi (s : State) (c n f) : (s.updFile c n f).evmsi = s.evmsi := rfl
@[simp] theorem State.updFile_power (s : State) (c n f) : (s.updFile c n f).power = s.power := rfl
@[simp] theorem State.updFile_boot (s : State) (c n f) : (s.updFile c n f).boot = s.boot := rfl
@[simp] theorem State.updFile_ckpt (s : State) (c n f) : (s.updFile c n f).ckpt = s.ckpt := rfl
@[simp] theorem State.updFile_iommu (s : State) (c n f) : (s.updFile c n f).iommu = s.iommu := rfl
@[simp] theorem State.updFile_aplic (s : State) (c n f) : (s.updFile c n f).aplic = s.aplic := rfl
@[simp] theorem State.updFile_dma (s : State) (c n f) : (s.updFile c n f).dma = s.dma := rfl
@[simp] theorem State.updFile_pkg (s : State) (c n f) : (s.updFile c n f).pkg = s.pkg := rfl
@[simp] theorem State.updFile_conngrp (s : State) (c n f) : (s.updFile c n f).conngrp = s.conngrp := rfl
@[simp] theorem State.updFile_connmap (s : State) (c n f) : (s.updFile c n f).connmap = s.connmap := rfl
@[simp] theorem State.updFile_connbusy (s : State) (c n f) : (s.updFile c n f).connbusy = s.connbusy := rfl
@[simp] theorem State.updFile_jcfg (s : State) (c n f) : (s.updFile c n f).jcfg = s.jcfg := rfl
@[simp] theorem State.updFile_time (s : State) (c n f) : (s.updFile c n f).time = s.time := rfl
@[simp] theorem State.updFile_refills (s : State) (c n f) : (s.updFile c n f).refills = s.refills := rfl
@[simp] theorem State.updFile_epkg (s : State) (c n f) : (s.updFile c n f).epkg = s.epkg := rfl
@[simp] theorem State.updFile_transit (s : State) (c n f) : (s.updFile c n f).transit = s.transit := rfl
@[simp] theorem State.updFile_remote (s : State) (c n f) : (s.updFile c n f).remote = s.remote := rfl
@[simp] theorem State.updFile_subnet (s : State) (c n f) : (s.updFile c n f).subnet = s.subnet := rfl
@[simp] theorem State.updFile_net (s : State) (c n f) : (s.updFile c n f).net = s.net := rfl
@[simp] theorem State.updFile_kept (s : State) (c n f) : (s.updFile c n f).kept = s.kept := rfl
@[simp] theorem State.updFile_replies (s : State) (c n f) : (s.updFile c n f).replies = s.replies := rfl
@[simp] theorem State.updFile_nextLoad (s : State) (c n f) : (s.updFile c n f).nextLoad = s.nextLoad := rfl
@[simp] theorem State.updFile_qcache (s : State) (c n f) : (s.updFile c n f).qcache = s.qcache := rfl
@[simp] theorem State.updFile_rcache (s : State) (c n f) : (s.updFile c n f).rcache = s.rcache := rfl
@[simp] theorem State.updFile_lcache (s : State) (c n f) : (s.updFile c n f).lcache = s.lcache := rfl
@[simp] theorem State.updFile_roots (s : State) (c n f) : (s.updFile c n f).roots = s.roots := rfl
@[simp] theorem State.updFile_roots2 (s : State) (c n f) : (s.updFile c n f).roots2 = s.roots2 := rfl
@[simp] theorem State.updFile_latched (s : State) (c n f) : (s.updFile c n f).latched = s.latched := rfl
@[simp] theorem State.updFile_hostOut (s : State) (c n f) : (s.updFile c n f).hostOut = s.hostOut := rfl
@[simp] theorem State.updFile_nextUid (s : State) (c n f) : (s.updFile c n f).nextUid = s.nextUid := rfl
@[simp] theorem State.updFile_nextReq (s : State) (c n f) : (s.updFile c n f).nextReq = s.nextReq := rfl
@[simp] theorem State.updFile_waitAge (s : State) (c n f) : (s.updFile c n f).waitAge = s.waitAge := rfl
@[simp] theorem State.updFile_cur (s : State) (c n f) : (s.updFile c n f).cur = s.cur := rfl
@[simp] theorem State.updFile_ev (s : State) (c n f) : (s.updFile c n f).ev = s.ev := rfl
@[simp] theorem State.updFile_agenda (s : State) (c n f) : (s.updFile c n f).agenda = s.agenda := rfl
@[simp] theorem State.updFile_tick (s : State) (c n f) : (s.updFile c n f).tick = s.tick := rfl

/-! ## Lookups after an update -/

theorem find?_map_upd {α : Type} (l : List α) (key : α → Nat) (u w : Nat) (f : α → α) (hf : ∀ x, key x = u → key (f x) = u) :
    (l.map fun x => if key x = u then f x else x).find? (fun x => key x == w) =
      (l.find? fun x => key x == w).map fun x => if key x = u then f x else x := by
  induction l with
  | nil => rfl
  | cons x r ih =>
    rw [List.map_cons, List.find?_cons, List.find?_cons]
    have hk : key (if key x = u then f x else x) = key x := by
      split
      · rename_i h; rw [hf x h, h]
      · rfl
    rw [hk]
    cases h : key x == w <;> simp [ih]

/-- A block after the update of one block. -/
theorem State.block?_updBlock (s : State) (u w : Nat) (f : Block → Block) (hf : ∀ b, b.uid = u → (f b).uid = u) :
    (s.updBlock u f).block? w = (s.block? w).map fun b => if b.uid = u then f b else b :=
  find?_map_upd s.blocks Block.uid u w f hf

theorem State.uid_of_block? {s : State} {u : Nat} {b : Block} (h : s.block? u = some b) : b.uid = u := by
  simpa using List.find?_some h

theorem State.block?_updBlock_self {s : State} {u : Nat} {b : Block} (f : Block → Block) (hf : ∀ b, b.uid = u → (f b).uid = u)
    (h : s.block? u = some b) : (s.updBlock u f).block? u = some (f b) := by
  rw [State.block?_updBlock s u u f hf, h, Option.map_some, if_pos (State.uid_of_block? h)]

theorem State.block?_updBlock_ne (s : State) {u w : Nat} (f : Block → Block) (hf : ∀ b, b.uid = u → (f b).uid = u) (hw : w ≠ u) :
    (s.updBlock u f).block? w = s.block? w := by
  rw [State.block?_updBlock s u w f hf]
  cases h : s.block? w with
  | none => rfl
  | some b => rw [Option.map_some, if_neg]; rw [State.uid_of_block? h]; exact hw

theorem Block.gid_of_group? {b : Block} {n : Nat} {g : Group} (h : b.group? n = some g) : g.gid = n := by
  simpa using List.find?_some h

/-- A group after the update of one group of its block. -/
theorem Block.group?_updGroup_self {b : Block} {n : Nat} {g : Group} (f : Group → Group) (hf : ∀ g, g.gid = n → (f g).gid = n)
    (h : b.group? n = some g) : (b.updGroup n f).group? n = some (f g) := by
  show List.find? _ _ = _
  rw [show (b.updGroup n f).groups = b.groups.map fun x => if x.gid = n then f x else x from rfl,
    find?_map_upd b.groups Group.gid n n f hf, show b.groups.find? (fun x => x.gid == n) = some g from h, Option.map_some,
    if_pos (Block.gid_of_group? h)]

theorem Block.group?_updGroup_ne (b : Block) {n m : Nat} (f : Group → Group) (hf : ∀ g, g.gid = n → (f g).gid = n) (hm : m ≠ n) :
    (b.updGroup n f).group? m = b.group? m := by
  show List.find? _ _ = _
  rw [show (b.updGroup n f).groups = b.groups.map fun x => if x.gid = n then f x else x from rfl,
    find?_map_upd b.groups Group.gid n m f hf]
  show Option.map _ (b.group? m) = b.group? m
  cases h : b.group? m with
  | none => rfl
  | some g => rw [Option.map_some, if_neg]; rw [Block.gid_of_group? h]; exact hm

theorem Group.age_of_split? {g : Group} {a : Nat} {p : Split} (h : g.split? a = some p) : p.age = a := by
  simpa using List.find?_some h

/-- A split after the update of one split of its group. -/
theorem Group.split?_updSplit_self {g : Group} {a : Nat} {p : Split} (f : Split → Split) (hf : ∀ p, p.age = a → (f p).age = a)
    (h : g.split? a = some p) : (g.updSplit a f).split? a = some (f p) := by
  show List.find? _ _ = _
  rw [show (g.updSplit a f).splits = g.splits.map fun x => if x.age = a then f x else x from rfl,
    find?_map_upd g.splits Split.age a a f hf, show g.splits.find? (fun x => x.age == a) = some p from h, Option.map_some,
    if_pos (Group.age_of_split? h)]

theorem Group.split?_updSplit_ne (g : Group) {a m : Nat} (f : Split → Split) (hf : ∀ p, p.age = a → (f p).age = a) (hm : m ≠ a) :
    (g.updSplit a f).split? m = g.split? m := by
  show List.find? _ _ = _
  rw [show (g.updSplit a f).splits = g.splits.map fun x => if x.age = a then f x else x from rfl,
    find?_map_upd g.splits Split.age a m f hf]
  show Option.map _ (g.split? m) = g.split? m
  cases h : g.split? m with
  | none => rfl
  | some p => rw [Option.map_some, if_neg]; rw [Group.age_of_split? h]; exact hm

/-! ## Registers after a write -/

@[simp] theorem Group.vreg_setS (g : Group) (i : Nat) (x : DWord) (r l : Nat) : (g.setS i x).vreg r l = g.vreg r l := by
  unfold Group.setS; split <;> rfl

@[simp] theorem Group.vreg_setP (g : Group) (i : Nat) (m x : LaneMask) (r l : Nat) : (g.setP i m x).vreg r l = g.vreg r l := by
  unfold Group.setP; split <;> rfl

@[simp] theorem Group.sreg_setP (g : Group) (i : Nat) (m x : LaneMask) (r : Nat) : (g.setP i m x).sreg r = g.sreg r := by
  unfold Group.setP; split <;> rfl

@[simp] theorem Group.preg_setS (g : Group) (i : Nat) (x : DWord) (r : Nat) : (g.setS i x).preg r = g.preg r := by
  unfold Group.setS; split <;> rfl

/-- A scalar after a scalar write: s0 stays 0 (R74, R108). -/
theorem Group.sreg_setS (g : Group) (i : Nat) (x : DWord) (r : Nat) :
    (g.setS i x).sreg r = if r = i ∧ i ≠ 0 then x else g.sreg r := by
  unfold Group.setS
  by_cases hi : i = 0
  · simp [hi]
  · by_cases hr : r = 0
    · have : ¬(0 = i) := fun h => hi h.symm
      simp [hi, hr, Group.sreg, this]
    · simp [hi, hr, Group.sreg, Sparse.get_put]

/-- A predicate after a predicate write: p7 stays all-true (R74, R109). -/
theorem Group.preg_setP (g : Group) (i : Nat) (m x : LaneMask) (r : Nat) :
    (g.setP i m x).preg r = if r = i ∧ i ≠ 7 then (g.preg i &&& ~~~m) ||| (x &&& m) else g.preg r := by
  unfold Group.setP
  by_cases hi : i = 7
  · simp [hi]
  · by_cases hr : r = 7
    · have : ¬(7 = i) := fun h => hi h.symm
      simp [hi, hr, Group.preg, this]
    · by_cases he : r = i <;> simp [hi, hr, he, Group.preg, Sparse.get_put]

/-- A vector register lane after a write of the lanes of a mask. -/
theorem Group.vreg_setLanes (g : Group) (d : Nat) (m : LaneMask) (f : Nat → Word) (r l : Nat) (hl : l < 32) :
    (g.setLanes d m f).vreg r l = if r = d ∧ m.getLsbD l = true then f l else g.vreg r l := by
  show Sparse.get (Sparse.putAll g.v _) (32 * r + l) = _
  by_cases hr : r = d
  · subst hr
    rw [Sparse.get_putAll_map (lanesOf m) (fun l => 32 * r + l) f g.v l (by intro a _ h; omega)]
    simp only [mem_lanesOf, hl, true_and]
    rfl
  · rw [Sparse.get_putAll_of_not_mem, if_neg (fun h => hr h.1)]
    · rfl
    · intro e he
      simp only [List.mem_map, mem_lanesOf] at he
      obtain ⟨a, ⟨ha, -⟩, rfl⟩ := he
      simp only
      omega

/-! ## Only one group changes -/

/-- An update of the issuing group changes that group only. -/
theorem OnlyGroup.of_updCur {s : State} {c : Cur} {b : Block} {g : Group} (f : Group → Group) (hf : ∀ g, g.gid = c.gid → (f g).gid = c.gid)
    (hb : s.block? c.blk = some b) (hg : b.group? c.gid = some g) (R : Group → Group → Prop) (hR : R g (f g)) :
    OnlyGroup c.blk c.gid s (s.updCur c f) R := by
  refine ⟨⟨_, rfl⟩, fun w hw => State.block?_updBlock_ne s _ (fun _ h => h) hw, b, b.updGroup c.gid f, hb,
    State.block?_updBlock_self _ (fun _ h => h) hb, ⟨_, rfl⟩, fun m hm => Block.group?_updGroup_ne b f hf hm, g, f g, hg,
    Block.group?_updGroup_self f hf hg, hR⟩

/-- Two updates of one group are one update. -/
theorem State.updCur_updCur (s : State) (c : Cur) (f h : Group → Group) (hf : ∀ g, g.gid = c.gid → (f g).gid = c.gid) :
    (s.updCur c f).updCur c h = s.updCur c fun g => h (f g) := by
  simp only [State.updCur, State.updGroup, State.updBlock, Block.updGroup, List.map_map]
  congr 1
  apply List.map_congr_left
  intro b _
  simp only [Function.comp_apply]
  by_cases hb : b.uid = c.blk
  · simp only [hb, if_true, List.map_map]
    congr 1
    apply List.map_congr_left
    intro g _
    simp only [Function.comp_apply]
    by_cases hg : g.gid = c.gid
    · simp [hg, hf g hg]
    · simp [hg]
  · simp [hb]

end Sys2Proof.Machine
end

