-- ==== Sys2Proof/Laws/Issue.lean ====
section
/-!
SUPPORT. What `issue` can do, said once: the three ways in which an instruction does not reach its own effect, and what becomes
of an effect that writes registers of the issuing group.
-/
namespace Sys2Proof.Machine

/-- What the context of an issuing instruction is made of. -/
structure Ctx.Of (i : Instr) (s : State) (x : Ctx) (g : Group) : Prop where
  cur   : s.cur = some x.c
  blk   : s.block? x.c.blk = some x.b
  grp   : x.b.group? x.c.gid = some g
  spl   : g.split? x.c.age = some x.p
  lau   : x.l = s.launchOf x.b
  pos   : x.pos = chainPos g x.p (useOf x.p.mode x.p.mmode i).lat
  closed : x.g = if x.pos = 0 then { g with chain := none } else g
  st    : x.s = s.updCur x.c fun _ => x.g

/-- The parts of the context. -/
theorem Sees.of {i : Instr} {s : State} {x : Ctx} (h : Sees i s x) : ∃ g, Ctx.Of i s x g := by
  unfold Sees State.ctx? at h
  split at h
  · exact absurd h (by simp)
  · rename_i c hc
    split at h
    · exact absurd h (by simp)
    · rename_i b hb
      split at h
      · exact absurd h (by simp)
      · rename_i g hg
        split at h
        · exact absurd h (by simp)
        · rename_i p hp
          obtain rfl := Option.some.inj h
          exact ⟨g, hc, hb, hg, hp, rfl, rfl, rfl, rfl⟩

theorem Ctx.Of.gid {i : Instr} {s : State} {x : Ctx} {g : Group} (h : Ctx.Of i s x g) : x.g.gid = x.c.gid := by
  have := Block.gid_of_group? h.grp
  rw [h.closed]; split <;> exact this

/-- But for its chain the group of the context is the group of the state. -/
theorem Ctx.Of.group {i : Instr} {s : State} {x : Ctx} {g : Group} (h : Ctx.Of i s x g) :
    ∃ ch, x.g = { g with chain := ch } := by
  rw [h.closed]; split
  · exact ⟨none, rfl⟩
  · exact ⟨g.chain, rfl⟩

theorem Ctx.Of.split {i : Instr} {s : State} {x : Ctx} {g : Group} (h : Ctx.Of i s x g) : x.g.split? x.c.age = some x.p := by
  obtain ⟨ch, hg⟩ := h.group
  rw [hg]; exact h.spl

theorem Ctx.Of.age {i : Instr} {s : State} {x : Ctx} {g : Group} (h : Ctx.Of i s x g) : x.p.age = x.c.age :=
  Group.age_of_split? h.spl

/-- The position of an instruction inside an open chain is that chain's, and the chain is its split's. -/
theorem Ctx.Of.chain {i : Instr} {s : State} {x : Ctx} {g : Group} (h : Ctx.Of i s x g) {ch : Chain}
    (hc : x.g.chain = some ch) : ch.pos = x.pos ∧ ch.age = x.p.age := by
  rw [h.closed] at hc
  by_cases h0 : x.pos = 0
  · simp [h0] at hc
  · rw [if_neg h0] at hc
    have hp := h.pos
    unfold chainPos at hp
    rw [hc] at hp
    simp only at hp
    split at hp
    · rename_i hh; exact ⟨hp.symm, hh.2.1⟩
    · exact absurd hp h0

/-- With no open chain the position is 0. -/
theorem Ctx.Of.no_chain {i : Instr} {s : State} {x : Ctx} {g : Group} (h : Ctx.Of i s x g) (hc : x.g.chain = none) :
    x.pos = 0 := by
  by_cases h0 : x.pos = 0
  · exact h0
  · rw [h.closed, if_neg h0] at hc
    have hp := h.pos
    unfold chainPos at hp
    rw [hc] at hp
    exact hp

/-- Updates of the issuing group, from the state before the instruction. -/
theorem Ctx.Of.updCur {i : Instr} {s : State} {x : Ctx} {g : Group} (h : Ctx.Of i s x g) (f : Group → Group) :
    x.s.updCur x.c f = s.updCur x.c fun _ => f x.g := by
  rw [h.st, State.updCur_updCur s x.c (fun _ => x.g) f fun _ _ => h.gid]

/-! ## What `issue` can do -/

/-- An instruction that issues ends as its effect says. -/
theorem issue_of_issues {i : Instr} {s : State} {x : Ctx} (h : Issues i s x) (effect : Ctx → Res) :
    issue i s effect = match effect x with
      | .done s lat => .next (x.retire i s lat)
      | .jump s => .next (x.leave s)
      | .wait s => .next s
      | .trap t => .next (x.s.takeTrap x.c t) := by
  obtain ⟨hs, hc, hp, hb⟩ := h
  unfold Sees at hs
  simp only [issue, hs, hc, hp, hb]
  rfl

/-- A decode fault is taken (R78). -/
theorem issue_of_check {i : Instr} {s : State} {x : Ctx} {t : Trap} (h : Sees i s x) (hc : x.check i = some t)
    (effect : Ctx → Res) : issue i s effect = .next (x.s.takeTrap x.c t) := by
  unfold Sees at h
  simp [issue, h, hc]

/-- A register that is pending makes the split wait (R46, R51). -/
theorem issue_of_pending {i : Instr} {s : State} {x : Ctx} (h : Sees i s x) (hc : x.check i = none) (hp : x.pending i = true)
    (effect : Ctx → Res) : issue i s effect = .next (x.waitAs (x.p.operandWait i)) := by
  unfold Sees at h
  simp [issue, h, hc, hp]

/-- An uncorrectable register that the instruction reads raises UNCORRECTABLE (R26, R204). -/
theorem issue_of_bad {i : Instr} {s : State} {x : Ctx} {r : Nat} (h : Sees i s x) (hc : x.check i = none)
    (hp : x.pending i = false) (hb : x.badRegister i = some r) (effect : Ctx → Res) :
    issue i s effect = .next (x.s.takeTrap x.c { cause := 0x1C, val := 0xFFFFFFFFFFFFFF00 + r }) := by
  unfold Sees at h
  simp [issue, h, hc, hp, hb]

/-! ## An effect that writes registers -/

/-- What retiring does to the issuing group. -/
def Ctx.retired (x : Ctx) (i : Instr) (lat : List Word) (g : Group) : Group :=
  { g.updSplit x.c.age fun p =>
      { p with pc := x.p.pc + 4, readyAt := x.now, walked := x.walkedAfter i, inval := [], early := [], qage := 0, again := none, wait := .none }
    with chain := x.chainAfter (useOf x.mode x.mmode i) lat, bad := (useOf x.mode x.mmode i).mend g.bad }

/-- The chain after a chainable instruction. -/
theorem Ctx.Of.chainMoves {i : Instr} {s : State} {x : Ctx} {g0 : Group} (h : Ctx.Of i s x g0) (lat : List Word) (g : Group) :
    ChainMoves i x (if (useOf x.mode x.mmode i).chainable then some lat else none)
      { g with chain := x.chainAfter (useOf x.mode x.mmode i) lat } := by
  unfold ChainMoves Ctx.chainAfter
  cases hu : (useOf x.mode x.mmode i).chainable with
  | false => simp
  | true =>
    cases hc : x.g.chain with
    | none => simp [h.no_chain hc]
    | some ch =>
      obtain ⟨hp, ha⟩ := h.chain hc
      simp [hp, ha]

/-- An instruction whose effect is a register update of its group, given by what it does to that group's registers. -/
theorem issue_writes {i : Instr} {s : State} {x : Ctx} (h : Issues i s x) {effect : Ctx → Res} {f : Group → Group}
    {lat : List Word} (he : effect x = .done (x.s.updCur x.c f) lat) {ch : Change}
    (hf : ∃ v s p gens, f x.g = { x.g with v := v, s := s, p := p, gens := gens })
    (hr : Registers ch x.g (f x.g))
    (hl : ch.lat = if (useOf x.mode x.mmode i).chainable then some lat else none) :
    ∃ t, issue i s effect = .next t ∧ Writes i s x ch t := by
  obtain ⟨g, ho⟩ := h.1.of
  obtain ⟨c0, hg⟩ := ho.group
  obtain ⟨v, sc, p, gens, hf⟩ := hf
  refine ⟨_, by rw [issue_of_issues h, he], ?_⟩
  have hgid : (f x.g).gid = x.c.gid := by rw [hf]; exact ho.gid
  have ht : x.retire i (x.s.updCur x.c f) lat = s.updCur x.c fun _ => x.retired i lat (f x.g) := by
    unfold Ctx.retire
    rw [ho.updCur, State.updCur_updCur s x.c _ _ fun _ _ => hgid]
    rfl
  rw [ht]
  refine OnlyGroup.of_updCur (fun _ => x.retired i lat (f x.g)) (fun _ _ => hgid) ho.blk ho.grp _ ?_
  have hsplit : (f x.g).split? x.c.age = some x.p := by rw [hf]; exact ho.split
  refine ⟨?_, ?_, ⟨?_, x.p, _, ho.spl, Group.split?_updSplit_self _ (fun _ h => h) hsplit,
    rfl, rfl, rfl, rfl, rfl, rfl, rfl, rfl⟩, ?_, ?_⟩
  · rw [hf, hg]; exact ⟨_, _, _, _, _, _, _, rfl⟩
  · have hr' : Registers ch g (f x.g) := by
      generalize f x.g = y at hr ⊢
      rw [hg] at hr; exact hr
    exact hr'
  · intro m hm
    refine (Group.split?_updSplit_ne (f x.g) (a := x.c.age) (fun p : Split =>
      { p with pc := x.p.pc + 4, readyAt := x.now, walked := x.walkedAfter i, inval := [], early := [], qage := 0, again := none, wait := .none })
      (fun _ h => h) hm).trans ?_
    rw [hf, hg]; rfl
  · rw [hl]; exact ho.chainMoves lat (x.retired i lat (f x.g))
  · show (useOf x.mode x.mmode i).mend (f x.g).bad = _
    rw [hf, hg]

end Sys2Proof.Machine
end

