-- ==== Sys2Proof/Laws/Memory.lean ====
section
/-!
SUPPORT. Device memory: what a write leaves, that every operation over memory keeps its canonical form, and the operations that
leave memory alone.
-/
namespace Sys2Proof.Machine

/-! ## Read after write -/

/-- A write changes its bytes and no other. -/
theorem State.writeMem_writes (s : State) (pa : Nat) (bytes : List Byte) : WritesMem s (s.writeMem pa bytes) pa bytes := by
  intro a
  show Sparse.get (Sparse.write s.mem pa bytes) a = _
  rw [Sparse.get_write, nth_eq_getD]

/-- A write keeps the canonical form. -/
theorem State.memWf_writeMem {s : State} (pa : Nat) (bytes : List Byte) (h : s.memWf = true) : (s.writeMem pa bytes).memWf = true :=
  Sparse.wf_write bytes pa h

/-- The canonical form speaks of device memory alone. -/
theorem State.memWf_of_mem {s t : State} (hm : t.mem = s.mem) (h : s.memWf = true) : t.memWf = true := by
  unfold State.memWf; rw [hm]; exact h

/-! ## Buffers and barriers -/

theorem State.memWf_bufWrite {s : State} (b : Block) (sp : Space) (off : Nat) (bytes : List Byte) (h : s.memWf = true) :
    (s.bufWrite b sp off bytes).memWf = true := by
  unfold State.bufWrite
  split
  · exact h
  · split
    · exact h
    · exact State.memWf_writeMem _ _ h

/-- A fold of steps that leave memory alone leaves it alone. -/
theorem State.foldl_mem {α : Type} {f : State → α → State} (hf : ∀ s x, (f s x).mem = s.mem) : ∀ (l : List α) (s : State),
    (l.foldl f s).mem = s.mem
  | [], _ => rfl
  | x :: r, s => (State.foldl_mem hf r (f s x)).trans (hf s x)

@[simp] theorem State.hear_mem (s : State) (u g scope : Nat) : (s.hear u g scope).mem = s.mem := by
  unfold State.hear; split <;> rfl
@[simp] theorem State.acquire_mem (s : State) (u g scope : Nat) : (s.acquire u g scope).mem = s.mem := by
  unfold State.acquire
  split
  · rfl
  · split
    · exact (State.updCore_mem _ _ _ _).trans (State.hear_mem _ _ _ _)
    · exact State.hear_mem _ _ _ _
@[simp] theorem State.acquireAll_mem (s : State) (u scope : Nat) (gs : List Nat) : (s.acquireAll u scope gs).mem = s.mem :=
  State.foldl_mem (fun s g => State.acquire_mem s u g scope) gs s
@[simp] theorem State.wakeCwait_mem (s : State) (g : Bool) (u lo hi : Nat) : (s.wakeCwait g u lo hi).mem = s.mem := by
  unfold State.wakeCwait
  refine (State.foldl_mem (fun t b => ?_) _ _).trans rfl
  split
  · rfl
  · exact State.acquireAll_mem _ _ _ _
@[simp] theorem State.wakeBar_mem (s : State) (b : Block) (off p : Nat) : (s.wakeBar b off p).mem = s.mem := rfl

theorem State.memWf_writeBar {s : State} (b : Block) (off : Nat) (t : Bar) (h : s.memWf = true) : (s.writeBar b off t).memWf = true := by
  unfold State.writeBar
  have h1 := State.memWf_bufWrite b .scr off (leBytes 16 t.toNat) h
  simp only
  split
  · exact State.memWf_bufWrite _ _ _ _ h1
  · exact h1

theorem State.memWf_areaCont {s : State} (b : Block) (c : Cont) (h : s.memWf = true) : (s.areaCont b c).memWf = true := by
  unfold State.areaCont
  split
  · exact h
  · split
    · exact h
    · simp only
      split
      · exact State.memWf_writeMem _ _ h
      · exact State.memWf_writeMem _ _ (State.memWf_writeMem _ _ h)

theorem State.memWf_barRule {s : State} (b : Block) (off : Nat) (h : s.memWf = true) : (s.barRule b off).memWf = true := by
  unfold State.barRule
  simp only
  split
  · refine State.memWf_of_mem (State.wakeBar_mem _ _ _ _) ?_
    split
    · exact State.memWf_of_mem (State.updBlock_mem _ _ _) (State.memWf_areaCont _ _ (State.memWf_writeBar b off _ h))
    · exact State.memWf_writeBar b off _ h
  · exact h

/-! ## Queue ports and records -/

@[simp] theorem State.setDesc_mem (s : State) (w pq : Nat) (d : Desc) : (s.setDesc w pq d).mem = s.mem := rfl
@[simp] theorem State.settleReply_mem (s : State) (y : Reply) : (s.settleReply y).mem = s.mem := by
  unfold State.settleReply
  split
  · split <;> rfl
  · rfl
@[simp] theorem State.post_mem (s : State) (w dst : Nat) (out : Option Nat) (a : AnswerBody) : (s.post w dst out a).mem = s.mem :=
  State.settleReply_mem _ _
@[simp] theorem State.sendWakes_mem (w : Nat) : ∀ (l : List Waiter) (s : State), (State.sendWakes w l s).mem = s.mem
  | [], _ => rfl
  | _ :: r, s => (State.sendWakes_mem w r _).trans (State.post_mem s _ _ _ _)
@[simp] theorem State.wakeAll_mem (s : State) (w : Nat) (l : List Waiter) : (s.wakeAll w l).mem = s.mem := State.sendWakes_mem w _ _
@[simp] theorem State.settleDesc_mem (s : State) (w pq : Nat) (old new : Desc) : (s.settleDesc w pq old new).mem = s.mem := by
  unfold State.settleDesc; simp only; split
  · rfl
  · exact State.wakeAll_mem _ _ _
@[simp] theorem State.sendMsi_mem (s : State) (addr eiid : Nat) : (s.sendMsi addr eiid).mem = s.mem := rfl
@[simp] theorem State.setOvf_mem (s : State) (k : Nat) (v : Bool) : (s.setOvf k v).mem = s.mem := by
  unfold State.setOvf; split <;> rfl
@[simp] theorem State.msi_mem (s : State) (old : Desc) : (s.msi old).mem = s.mem := by
  unfold State.msi; simp only; split <;> rfl
@[simp] theorem State.changeDesc_mem (s : State) (w pq : Nat) (f : Desc → Desc) : (s.changeDesc w pq f).mem = s.mem := by
  unfold State.changeDesc; simp only; split <;> simp
@[simp] theorem State.takeElement_mem (s : State) (w pq seq : Nat) : (s.takeElement w pq seq).2.mem = s.mem := by
  simp [State.takeElement]
@[simp] theorem State.countFault_mem (s : State) (k c : Nat) : (s.countFault k c).mem = s.mem := rfl

theorem State.memWf_writeCells (w : Nat) (d : Desc) : ∀ (n seq : Nat) (data : List Byte) (s : State), s.memWf = true →
    (s.writeCells w d seq n data).memWf = true
  | 0, _, _, _, h => h
  | n + 1, seq, data, s, h => by
    unfold State.writeCells
    simp only
    refine State.memWf_writeCells w d n _ _ _ ?_
    split
    · exact h
    · exact State.memWf_writeMem _ _ h

@[simp] theorem State.writeSram_mem (s : State) (w off : Nat) (bytes : List Byte) : (s.writeSram w off bytes).mem = s.mem := rfl

theorem State.refillCells_mem (w : Nat) (d : Desc) : ∀ (l : List Cell) (s : State), (State.refillCells w d l s).mem = s.mem
  | [], _ => rfl
  | c :: r, s => by
    unfold State.refillCells
    exact (State.refillCells_mem w d r _).trans rfl

@[simp] theorem State.refill_mem (s : State) (w pq : Nat) : (s.refill w pq).mem = s.mem := by
  unfold State.refill
  simp only
  rw [State.changeDesc_mem, State.refillCells_mem]

theorem State.memWf_fillCells {s : State} (w pq seq : Nat) (data : List Byte) (h : s.memWf = true) :
    (s.fillCells w pq seq data).memWf = true := by
  unfold State.fillCells
  simp only
  refine State.memWf_of_mem (State.changeDesc_mem _ _ _ _) (State.memWf_writeCells _ _ _ _ _ _ ?_)
  split
  · exact State.memWf_of_mem (State.refill_mem _ _ _) h
  · exact h

theorem State.memWf_putElement {s t : State} {w pq : Nat} {prod : Producer} {data : List Byte} (h : s.memWf = true)
    (ht : s.putElement w pq prod data = some t) : t.memWf = true := by
  unfold State.putElement at ht
  simp only at ht
  split at ht
  · obtain rfl := Option.some.inj ht
    exact State.memWf_fillCells _ _ _ _ h
  · exact absurd ht (by simp)

theorem State.memWf_putRecord {s t : State} {k : Nat} {w : BitVec 512} (h : s.memWf = true) (ht : s.putRecord k w = some t) :
    t.memWf = true := by
  unfold State.putRecord at ht
  split at ht
  · exact State.memWf_putElement h ht
  · exact absurd ht (by simp)

theorem State.memWf_sendRecord {s t : State} {k : Nat} {w : BitVec 512} (h : s.memWf = true) (ht : s.sendRecord k w = some t) :
    t.memWf = true := by
  unfold State.sendRecord at ht
  simp only at ht
  split at ht
  · rename_i u hu
    obtain rfl := Option.some.inj ht
    split at hu
    · exact State.memWf_putRecord h hu
    · exact absurd hu (by simp)
  · split at ht
    · obtain rfl := Option.some.inj ht; exact h
    · split at ht
      · exact absurd ht (by simp)
      · obtain rfl := Option.some.inj ht; exact State.memWf_of_mem (State.setOvf_mem _ _ _) h

theorem State.memWf_record {s : State} (k : Nat) (r : Record) (h : s.memWf = true) : (s.record k r).memWf = true := by
  unfold State.record
  cases ht : s.sendRecord k (r.word (s.recordTime r)) with
  | none => exact h
  | some t => exact State.memWf_sendRecord h ht

theorem State.memWf_notice {s : State} (b : Block) (gid cause val : Nat) (h : s.memWf = true) :
    (s.notice b gid cause val).memWf = true := by
  unfold State.notice State.noticeOf
  exact State.memWf_record _ _ (State.memWf_of_mem (State.countFault_mem _ _ _) h)

theorem State.memWf_barEvent {s : State} (u off : Nat) (f : Bar → Bar) (clamps : Bar → Bool) (h : s.memWf = true) :
    (s.barEvent u off f clamps).memWf = true := by
  unfold State.barEvent
  split
  · exact h
  · rename_i b hb
    simp only
    have h1 : ∀ x, ((s.writeBar b off x).updBlock u fun b => if b.bars.contains off then b else { b with bars := off :: b.bars }).memWf = true :=
      fun x => State.memWf_of_mem (State.updBlock_mem _ _ _) (State.memWf_writeBar b off x h)
    split
    · split
      · exact State.memWf_notice _ _ _ _ (h1 _)
      · exact h1 _
    · refine State.memWf_barRule _ _ ?_
      split
      · exact State.memWf_notice _ _ _ _ (h1 _)
      · exact h1 _

theorem State.memWf_sectors (u off : Nat) : ∀ (n : Nat) (s : State), s.memWf = true → (State.sectors u off n s).memWf = true
  | 0, _, h => h
  | n + 1, _, h => State.memWf_sectors u off n _ (State.memWf_barEvent _ _ _ _ h)

/-! ## Writes at the S banks, in `glb`, and atomics -/

/-- A fold of steps that keep the form keeps it. -/
theorem State.memWf_foldl {α : Type} {f : State → α → State} (hf : ∀ s x, s.memWf = true → (f s x).memWf = true) :
    ∀ (l : List α) (s : State), s.memWf = true → (l.foldl f s).memWf = true
  | [], _, h => h
  | x :: r, s, h => State.memWf_foldl hf r (f s x) (hf s x h)

theorem State.memWf_forward {s : State} (pub : Block) (off : Nat) (bytes : List Byte) (h : s.memWf = true) :
    (s.forward pub off bytes).memWf = true := by
  unfold State.forward
  refine State.memWf_foldl (fun s x h => ?_) _ _ h
  refine State.memWf_of_mem ?_ h
  unfold State.forwardTo
  split
  · rfl
  · split
    · rfl
    · split
      · split <;> rfl
      · rfl

theorem State.memWf_afterS {s : State} (u off n : Nat) (h : s.memWf = true) : (s.afterS u off n).memWf = true := by
  unfold State.afterS
  simp only
  have hw := State.memWf_of_mem (State.wakeCwait_mem s false u off (off + n)) h
  split
  · exact hw
  · refine State.memWf_foldl (fun s x h => ?_) _ _ hw
    split
    · exact h
    · exact State.memWf_barRule _ _ h

theorem State.memWf_bufStore {s : State} (u : Nat) (sp : Space) (off : Nat) (bytes : List Byte) (fwd : Bool) (h : s.memWf = true) :
    (s.bufStore u sp off bytes fwd).memWf = true := by
  unfold State.bufStore
  split
  · exact h
  · rename_i b hb
    have h1 := State.memWf_bufWrite b sp off bytes h
    have h2 : ((if fwd = true then (s.bufWrite b sp off bytes).forward b off bytes else s.bufWrite b sp off bytes).afterS u off
        bytes.length).memWf = true := by
      refine State.memWf_afterS _ _ _ ?_
      split
      · exact State.memWf_forward _ _ _ h1
      · exact h1
    cases sp <;> first | exact h2 | exact h1

theorem State.memWf_glbStore {s : State} (stk core pa : Nat) (bytes : List Byte) (h : s.memWf = true) :
    (s.glbStore stk core pa bytes).memWf = true := by
  unfold State.glbStore
  exact State.memWf_of_mem (State.wakeCwait_mem _ _ _ _ _) (State.memWf_of_mem (State.updCore_mem _ _ _ _) (State.memWf_writeMem pa bytes h))

theorem State.memWf_atomic {s : State} (stk core : Nat) (t : AtomTarget) (op : Nat) (mode : BitVec 16) (b d : Word) (h : s.memWf = true) :
    (s.atomic stk core t op mode b d).2.memWf = true := by
  cases t with
  | glb pa => exact State.memWf_glbStore _ _ _ _ h
  | scr u off => exact State.memWf_bufStore _ _ _ _ _ h

theorem State.memWf_performQuanta (stk core : Nat) : ∀ (l : List QuantumOp) (s : State), s.memWf = true →
    (State.performQuanta stk core l s).memWf = true
  | [], _, h => h
  | _ :: r, _, h => State.memWf_performQuanta stk core r _ (State.memWf_atomic _ _ _ _ _ _ _ h)

theorem State.memWf_releaseQuanta {s : State} (u g : Nat) (due : QuantumOp → Bool) (h : s.memWf = true) :
    (s.releaseQuanta u g due).memWf = true := by
  unfold State.releaseQuanta
  split
  · exact h
  · split
    · exact h
    · split
      · exact State.memWf_performQuanta _ _ _ _ (State.memWf_of_mem (State.updGroup_mem _ _ _ _) h)
      · exact h

theorem State.memWf_drainQuanta {s : State} (u g : Nat) (h : s.memWf = true) : (s.drainQuanta u g).memWf = true :=
  State.memWf_releaseQuanta _ _ _ h

theorem State.memWf_quantaFirst {s : State} (u g n : Nat) (l : List (Nat × Loc)) (h : s.memWf = true) :
    (s.quantaFirst u g n l).memWf = true := State.memWf_releaseQuanta _ _ _ h

theorem State.memWf_performAtom {s : State} (u n stk core : Nat) (o : StoreOp) (h : s.memWf = true) :
    (s.performAtom u n stk core o).memWf = true := by
  cases o with
  | atom ins t op mode b d rel use id key lane =>
    unfold State.performAtom
    have ht : ∀ (ok : Bool) (f : Block → Block),
        ((if ok then s.atomic stk core t op mode b d else (0, s)).2.updBlock u f).memWf = true := fun ok f => by
      refine State.memWf_of_mem (State.updBlock_mem _ _ _) ?_
      split
      · exact State.memWf_atomic _ _ _ _ _ _ _ h
      · exact h
    replace ht := ht (!(use == 4) || s.available t) fun x => x.updAt n fun g => g.atomDone id key lane (use == 4)
      (!(use == 4) || s.available t) (if (!(use == 4) || s.available t) then s.atomic stk core t op mode b d else (0, s)).1
    simp only
    split
    · exact State.memWf_of_mem (State.hear_mem _ _ _ _) ht
    · split
      · exact State.memWf_of_mem (State.acquire_mem _ _ _ _) ht
      · exact ht
  | _ => exact h

theorem State.memWf_engineWrite {s : State} (p : Loc) (bytes : List Byte) (h : s.memWf = true) : (s.engineWrite p bytes).memWf = true := by
  cases p with
  | glb pa => exact State.memWf_of_mem (State.wakeCwait_mem _ _ _ _ _) (State.memWf_writeMem pa bytes h)
  | buf u sp off => exact State.memWf_bufStore _ _ _ _ _ h

/-! ## Page tables -/

theorem State.memWf_setAD {s : State} (f : Leaf) (write : Bool) (h : s.memWf = true) : (s.setAD f write).2.memWf = true := by
  unfold State.setAD
  generalize (f.pte ||| 0x40 ||| if write then 0x80 else 0) = v
  simp only
  split
  · exact h
  · exact State.memWf_writeMem _ _ h

/-- A walk of a table whose own translation keeps the form keeps it. -/
theorem memWf_walkTable {ext : Bool} {bad : WalkResult} {xlat : State → Nat → Except WalkResult (Nat × State)} {va : Nat}
    (hx : ∀ s a pa t, s.memWf = true → xlat s a = .ok (pa, t) → t.memWf = true) :
    ∀ (level : Nat) {top table : Nat} {s : State} {f : Leaf} {t : State}, s.memWf = true →
      walkTable ext bad xlat top va level table s = .ok (f, t) → t.memWf = true := by
  intro level
  induction level with
  | zero =>
    intro top table s f t h ht
    unfold walkTable at ht
    simp only at ht
    split at ht
    · exact absurd ht (by simp)
    · rename_i pa u hu
      split at ht
      · have := (Prod.mk.inj (Except.ok.inj ht)).2
        exact this ▸ hx _ _ _ _ h hu
      · rename_i heq; exact absurd heq (by omega)
      · exact absurd ht (by simp)
  | succ n ih =>
    intro top table s f t h ht
    unfold walkTable at ht
    simp only at ht
    split at ht
    · exact absurd ht (by simp)
    · rename_i pa u hu
      split at ht
      · have := (Prod.mk.inj (Except.ok.inj ht)).2
        exact this ▸ hx _ _ _ _ h hu
      · rename_i heq
        obtain rfl := Nat.succ.inj heq
        exact ih (hx _ _ _ _ h hu) ht
      · exact absurd ht (by simp)

theorem State.memWf_stage2 {s t : State} {ext : Bool} {root gpa kind pa : Nat} {f : Leaf} (h : s.memWf = true)
    (ht : s.stage2 ext root gpa kind = .ok (pa, f, t)) : t.memWf = true := by
  unfold State.stage2 at ht
  split at ht
  · exact absurd ht (by simp)
  · split at ht
    · exact absurd ht (by simp)
    · rename_i g u hu
      have hw : u.memWf = true := memWf_walkTable (va := gpa)
        (fun s a pa t h e => by have := (Prod.mk.inj (Except.ok.inj e)).2; exact this ▸ h) 4 h hu
      simp only at ht
      split at ht
      · have := (Prod.mk.inj (Prod.mk.inj (Except.ok.inj ht)).2).2
        exact this ▸ State.memWf_setAD _ _ hw
      · exact absurd ht (by simp)

/-! ## The store queue -/

@[simp] theorem State.sendBatches_mem (s : State) (u e : Nat) (l) (r o : Bool) : (s.sendBatches u e l r o).mem = s.mem := rfl

theorem State.flushSubs_mem (s : State) (pick : Nat → Nat → Sub → Bool) (rem orphan : Bool) : (s.flushSubs pick rem orphan).mem = s.mem := by
  unfold State.flushSubs
  generalize s.allSubs = l
  induction l generalizing s with
  | nil => rfl
  | cons x r ih =>
    rw [List.foldl_cons, ih]
    split
    · rfl
    · split <;> rfl

theorem State.flushPublisher_mem (s : State) (u : Nat) (rem orphan : Bool) : (s.flushPublisher u rem orphan).mem = s.mem := by
  unfold State.flushPublisher
  split
  · rfl
  · exact State.flushSubs_mem _ _ _ _

theorem State.memWf_performStore {s : State} (b : Block) (n : Nat) (ctx : DWord) (o : StoreOp) (h : s.memWf = true) :
    (s.performStore b n ctx o).memWf = true := by
  cases o with
  | glb ins pa bytes rel => exact h
  | buf ins u sp off bytes rel => exact State.memWf_bufStore _ _ _ _ _ h
  | atom ins t op mode b' d rel use id key lane => exact State.memWf_performAtom _ _ _ _ _ h
  | fence rel => exact State.memWf_of_mem (State.flushPublisher_mem _ _ _ _) h

theorem State.memWf_tryHeld {s : State} (u g : Nat) (h : s.memWf = true) : (s.tryHeld u g).memWf = true := by
  unfold State.tryHeld
  split
  · exact h
  · split
    · exact h
    · split
      · exact h
      · split
        · split
          · rename_i t ht
            exact State.memWf_of_mem (State.updBlock_mem _ _ _) (State.memWf_sendRecord h ht)
          · exact h
        · exact h

theorem State.memWf_tryEnded {s : State} (u : Nat) (h : s.memWf = true) : (s.tryEnded u).memWf = true := by
  unfold State.tryEnded
  split
  · exact h
  · exact State.memWf_foldl (fun s k h => State.memWf_tryHeld _ _ h) _ _ h

@[simp] theorem State.prune_mem (s : State) (u : Nat) : (s.prune u).mem = s.mem := rfl

theorem State.memWf_drainStore {s : State} (u n k : Nat) (h : s.memWf = true) : (s.drainStore u n k).memWf = true := by
  unfold State.drainStore
  split
  · exact h
  · split
    · exact h
    · split
      · exact h
      · split
        · exact State.memWf_of_mem (State.prune_mem _ _) (State.memWf_tryHeld _ _
            (State.memWf_performStore _ _ _ _ (State.memWf_of_mem (State.updBlock_mem _ _ _) h)))
        · exact h

theorem State.memWf_landStore {s : State} (k : Nat) (h : s.memWf = true) : (s.landStore k).memWf = true := by
  unfold State.landStore
  split
  · exact h
  · split
    · refine State.memWf_foldl (fun s b h => State.memWf_of_mem (State.prune_mem _ _) (State.memWf_tryEnded _
        (State.memWf_foldl (fun s g h => ?_) _ _ h))) _ _
        (State.memWf_of_mem (State.wakeCwait_mem _ _ _ _ _) (State.memWf_writeMem _ _ h))
      split
      · exact State.memWf_tryHeld _ _ h
      · exact h
    · exact h

/-! ## Reset -/

theorem State.reset_memWf : State.reset.memWf = true := by decide

end Sys2Proof.Machine
end

