-- ==== Sys2Proof/Laws/PerInstr.lean ====
section
/-!
SUPPORT. Facts that hold of every constructor of `Instr` as syntax, one lemma per constructor.

`Encoding`: the five fields that `encodeFields` gives fit the widths of R70, so that no field runs into its neighbour in
the word.
-/
-- One theorem after another: as many at once would need more memory than the check allows.
set_option Elab.async false

namespace Sys2Proof.Laws.Encoding

/-- The fields of the instruction's word fit OP<31:24>, W<23>, D<22:16>, A<15:8>, B<7:0> (R70). -/
def Statement (i : Instr) : Prop :=
  (encodeFields i).op < 256 ∧ (encodeFields i).w < 2 ∧ (encodeFields i).d < 128 ∧ (encodeFields i).a < 256 ∧
    (encodeFields i).b < 256

/-- A Boolean is one bit. -/
theorem b2n_lt (w : Bool) : b2n w < 2 := by cases w <;> decide

/-- A source code is a byte (R73). -/
theorem src_lt (a : Src) : a.enc < 256 := by cases a <;> simp only [Src.enc] <;> omega

/-- A tile operand is a byte (R278). -/
theorem tile_lt (a : TileRef) : a.enc < 256 := by cases a <;> simp only [TileRef.enc] <;> omega

/-- An atomic's address operand is a byte (R264). -/
theorem addr_lt (a : AddrRef) : a.enc < 256 := by cases a <;> simp only [AddrRef.enc] <;> omega

/-- A space code is at most 6 (R89). -/
theorem space_lt (sp : Space) : sp.code < 7 := by cases sp <;> decide

theorem nop : Statement .nop := by unfold Statement; decide
theorem exit : Statement .exit := by unfold Statement; decide
theorem trap (k) : Statement (.trap k) := by
  simp only [Statement, encodeFields]; omega
theorem brk (k) : Statement (.brk k) := by
  simp only [Statement, encodeFields]; omega
theorem yield : Statement .yield := by unfold Statement; decide
theorem srd (d k) : Statement (.srd d k) := by
  simp only [Statement, encodeFields]; omega
theorem swr (d k) : Statement (.swr d k) := by
  simp only [Statement, encodeFields]; omega
theorem grow (d a k) : Statement (.grow d a k) := by
  simp only [Statement, encodeFields]; omega
theorem detach : Statement .detach := by unfold Statement; decide
theorem attach : Statement .attach := by unfold Statement; decide
theorem racq (d k) : Statement (.racq d k) := by
  simp only [Statement, encodeFields]; omega
theorem rrel (d k) : Statement (.rrel d k) := by
  simp only [Statement, encodeFields]; omega
theorem tret : Statement .tret := by unfold Statement; decide
theorem add (w d a b) : Statement (.add w d a b) := by
  have := b2n_lt w; have := src_lt a; have := src_lt b; simp only [Statement, encodeFields]; omega
theorem sub (w d a b) : Statement (.sub w d a b) := by
  have := b2n_lt w; have := src_lt a; have := src_lt b; simp only [Statement, encodeFields]; omega
theorem mul (w d a b) : Statement (.mul w d a b) := by
  have := b2n_lt w; have := src_lt a; have := src_lt b; simp only [Statement, encodeFields]; omega
theorem mulhi (w d a b) : Statement (.mulhi w d a b) := by
  have := b2n_lt w; have := src_lt a; have := src_lt b; simp only [Statement, encodeFields]; omega
theorem mad (w d a b) : Statement (.mad w d a b) := by
  have := b2n_lt w; have := src_lt a; have := src_lt b; simp only [Statement, encodeFields]; omega
theorem min (w d a b) : Statement (.min w d a b) := by
  have := b2n_lt w; have := src_lt a; have := src_lt b; simp only [Statement, encodeFields]; omega
theorem max (w d a b) : Statement (.max w d a b) := by
  have := b2n_lt w; have := src_lt a; have := src_lt b; simp only [Statement, encodeFields]; omega
theorem and (w d a b) : Statement (.and w d a b) := by
  have := b2n_lt w; have := src_lt a; have := src_lt b; simp only [Statement, encodeFields]; omega
theorem or (w d a b) : Statement (.or w d a b) := by
  have := b2n_lt w; have := src_lt a; have := src_lt b; simp only [Statement, encodeFields]; omega
theorem xor (w d a b) : Statement (.xor w d a b) := by
  have := b2n_lt w; have := src_lt a; have := src_lt b; simp only [Statement, encodeFields]; omega
theorem andn (w d a b) : Statement (.andn w d a b) := by
  have := b2n_lt w; have := src_lt a; have := src_lt b; simp only [Statement, encodeFields]; omega
theorem shl (w d a b) : Statement (.shl w d a b) := by
  have := b2n_lt w; have := src_lt a; have := src_lt b; simp only [Statement, encodeFields]; omega
theorem shr (w d a b) : Statement (.shr w d a b) := by
  have := b2n_lt w; have := src_lt a; have := src_lt b; simp only [Statement, encodeFields]; omega
theorem sar (w d a b) : Statement (.sar w d a b) := by
  have := b2n_lt w; have := src_lt a; have := src_lt b; simp only [Statement, encodeFields]; omega
theorem rotl (w d a b) : Statement (.rotl w d a b) := by
  have := b2n_lt w; have := src_lt a; have := src_lt b; simp only [Statement, encodeFields]; omega
theorem sad (w d a b) : Statement (.sad w d a b) := by
  have := b2n_lt w; have := src_lt a; have := src_lt b; simp only [Statement, encodeFields]; omega
theorem addi (w d a k) : Statement (.addi w d a k) := by
  have := b2n_lt w; have := src_lt a; simp only [Statement, encodeFields]; omega
theorem andi (w d a k) : Statement (.andi w d a k) := by
  have := b2n_lt w; have := src_lt a; simp only [Statement, encodeFields]; omega
theorem ori (w d a k) : Statement (.ori w d a k) := by
  have := b2n_lt w; have := src_lt a; simp only [Statement, encodeFields]; omega
theorem xori (w d a k) : Statement (.xori w d a k) := by
  have := b2n_lt w; have := src_lt a; simp only [Statement, encodeFields]; omega
theorem shli (w d a k) : Statement (.shli w d a k) := by
  have := b2n_lt w; have := src_lt a; simp only [Statement, encodeFields]; omega
theorem shri (w d a k) : Statement (.shri w d a k) := by
  have := b2n_lt w; have := src_lt a; simp only [Statement, encodeFields]; omega
theorem sari (w d a k) : Statement (.sari w d a k) := by
  have := b2n_lt w; have := src_lt a; simp only [Statement, encodeFields]; omega
theorem movi (w d k) : Statement (.movi w d k) := by
  have := b2n_lt w; simp only [Statement, encodeFields]; omega
theorem movhi (w d k) : Statement (.movhi w d k) := by
  have := b2n_lt w; simp only [Statement, encodeFields]; omega
theorem popc (w d a) : Statement (.popc w d a) := by
  have := b2n_lt w; have := src_lt a; simp only [Statement, encodeFields]; omega
theorem clz (w d a) : Statement (.clz w d a) := by
  have := b2n_lt w; have := src_lt a; simp only [Statement, encodeFields]; omega
theorem brev (w d a) : Statement (.brev w d a) := by
  have := b2n_lt w; have := src_lt a; simp only [Statement, encodeFields]; omega
theorem bfx (w d a b) : Statement (.bfx w d a b) := by
  have := b2n_lt w; have := src_lt a; have := src_lt b; simp only [Statement, encodeFields]; omega
theorem bfi (w d a b) : Statement (.bfi w d a b) := by
  have := b2n_lt w; have := src_lt a; have := src_lt b; simp only [Statement, encodeFields]; omega
theorem prmt (w d a b) : Statement (.prmt w d a b) := by
  have := b2n_lt w; have := src_lt a; have := src_lt b; simp only [Statement, encodeFields]; omega
theorem abs (w d a) : Statement (.abs w d a) := by
  have := b2n_lt w; have := src_lt a; simp only [Statement, encodeFields]; omega
theorem cmpeq (w d a b) : Statement (.cmpeq w d a b) := by
  have := b2n_lt w; have := src_lt a; have := src_lt b; simp only [Statement, encodeFields]; omega
theorem cmpne (w d a b) : Statement (.cmpne w d a b) := by
  have := b2n_lt w; have := src_lt a; have := src_lt b; simp only [Statement, encodeFields]; omega
theorem cmplt (w d a b) : Statement (.cmplt w d a b) := by
  have := b2n_lt w; have := src_lt a; have := src_lt b; simp only [Statement, encodeFields]; omega
theorem cmple (w d a b) : Statement (.cmple w d a b) := by
  have := b2n_lt w; have := src_lt a; have := src_lt b; simp only [Statement, encodeFields]; omega
theorem cmpgt (w d a b) : Statement (.cmpgt w d a b) := by
  have := b2n_lt w; have := src_lt a; have := src_lt b; simp only [Statement, encodeFields]; omega
theorem cmpge (w d a b) : Statement (.cmpge w d a b) := by
  have := b2n_lt w; have := src_lt a; have := src_lt b; simp only [Statement, encodeFields]; omega
theorem cmpun (w d a b) : Statement (.cmpun w d a b) := by
  have := b2n_lt w; have := src_lt a; have := src_lt b; simp only [Statement, encodeFields]; omega
theorem sel (w d a b) : Statement (.sel w d a b) := by
  have := b2n_lt w; have := src_lt a; have := src_lt b; simp only [Statement, encodeFields]; omega
theorem mov (w d a) : Statement (.mov w d a) := by
  have := b2n_lt w; have := src_lt a; simp only [Statement, encodeFields]; omega
theorem movix (d a b) : Statement (.movix d a b) := by
  have := src_lt b; simp only [Statement, encodeFields]; omega
theorem stix (d a b) : Statement (.stix d a b) := by
  have := src_lt b; simp only [Statement, encodeFields]; omega
theorem pand (w d a b) : Statement (.pand w d a b) := by
  have := b2n_lt w; simp only [Statement, encodeFields]; omega
theorem por (w d a b) : Statement (.por w d a b) := by
  have := b2n_lt w; simp only [Statement, encodeFields]; omega
theorem pxor (w d a b) : Statement (.pxor w d a b) := by
  have := b2n_lt w; simp only [Statement, encodeFields]; omega
theorem pnot (w d a) : Statement (.pnot w d a) := by
  have := b2n_lt w; simp only [Statement, encodeFields]; omega
theorem pset (w d a) : Statement (.pset w d a) := by
  have := b2n_lt w; have := src_lt a; simp only [Statement, encodeFields]; omega
theorem fadd (w d a b) : Statement (.fadd w d a b) := by
  have := b2n_lt w; have := src_lt a; have := src_lt b; simp only [Statement, encodeFields]; omega
theorem fsub (w d a b) : Statement (.fsub w d a b) := by
  have := b2n_lt w; have := src_lt a; have := src_lt b; simp only [Statement, encodeFields]; omega
theorem fmul (w d a b) : Statement (.fmul w d a b) := by
  have := b2n_lt w; have := src_lt a; have := src_lt b; simp only [Statement, encodeFields]; omega
theorem fma (w d a b) : Statement (.fma w d a b) := by
  have := b2n_lt w; have := src_lt a; have := src_lt b; simp only [Statement, encodeFields]; omega
theorem fms (w d a b) : Statement (.fms w d a b) := by
  have := b2n_lt w; have := src_lt a; have := src_lt b; simp only [Statement, encodeFields]; omega
theorem fnma (w d a b) : Statement (.fnma w d a b) := by
  have := b2n_lt w; have := src_lt a; have := src_lt b; simp only [Statement, encodeFields]; omega
theorem fmin (w d a b) : Statement (.fmin w d a b) := by
  have := b2n_lt w; have := src_lt a; have := src_lt b; simp only [Statement, encodeFields]; omega
theorem fmax (w d a b) : Statement (.fmax w d a b) := by
  have := b2n_lt w; have := src_lt a; have := src_lt b; simp only [Statement, encodeFields]; omega
theorem fabs (w d a) : Statement (.fabs w d a) := by
  have := b2n_lt w; have := src_lt a; simp only [Statement, encodeFields]; omega
theorem fneg (w d a) : Statement (.fneg w d a) := by
  have := b2n_lt w; have := src_lt a; simp only [Statement, encodeFields]; omega
theorem fdiv (d a b) : Statement (.fdiv d a b) := by
  have := src_lt a; have := src_lt b; simp only [Statement, encodeFields]; omega
theorem fsqrt (d a) : Statement (.fsqrt d a) := by
  have := src_lt a; simp only [Statement, encodeFields]; omega
theorem frcp (d a) : Statement (.frcp d a) := by
  have := src_lt a; simp only [Statement, encodeFields]; omega
theorem frsq (d a) : Statement (.frsq d a) := by
  have := src_lt a; simp only [Statement, encodeFields]; omega
theorem fexp2 (d a) : Statement (.fexp2 d a) := by
  have := src_lt a; simp only [Statement, encodeFields]; omega
theorem flog2 (d a) : Statement (.flog2 d a) := by
  have := src_lt a; simp only [Statement, encodeFields]; omega
theorem cvt (w d a k) : Statement (.cvt w d a k) := by
  have := b2n_lt w; have := src_lt a; simp only [Statement, encodeFields]; omega
theorem cvtpk (w d a b) : Statement (.cvtpk w d a b) := by
  have := b2n_lt w; have := src_lt a; have := src_lt b; simp only [Statement, encodeFields]; omega
theorem cvtup (w d a k) : Statement (.cvtup w d a k) := by
  have := b2n_lt w; have := src_lt a; simp only [Statement, encodeFields]; omega
theorem frnd (w d a) : Statement (.frnd w d a) := by
  have := b2n_lt w; have := src_lt a; simp only [Statement, encodeFields]; omega
theorem fclass (w d a) : Statement (.fclass w d a) := by
  have := b2n_lt w; have := src_lt a; simp only [Statement, encodeFields]; omega
theorem fldexp (w d a b) : Statement (.fldexp w d a b) := by
  have := b2n_lt w; have := src_lt a; have := src_lt b; simp only [Statement, encodeFields]; omega
theorem frexp (w d a) : Statement (.frexp w d a) := by
  have := b2n_lt w; have := src_lt a; simp only [Statement, encodeFields]; omega
theorem shfl (w d a b) : Statement (.shfl w d a b) := by
  have := b2n_lt w; have := src_lt a; have := src_lt b; simp only [Statement, encodeFields]; omega
theorem shflup (w d a b) : Statement (.shflup w d a b) := by
  have := b2n_lt w; have := src_lt a; have := src_lt b; simp only [Statement, encodeFields]; omega
theorem shfldn (w d a b) : Statement (.shfldn w d a b) := by
  have := b2n_lt w; have := src_lt a; have := src_lt b; simp only [Statement, encodeFields]; omega
theorem shflx (w d a b) : Statement (.shflx w d a b) := by
  have := b2n_lt w; have := src_lt a; have := src_lt b; simp only [Statement, encodeFields]; omega
theorem vall (d a) : Statement (.vall d a) := by
  have := src_lt a; simp only [Statement, encodeFields]; omega
theorem vany (d a) : Statement (.vany d a) := by
  have := src_lt a; simp only [Statement, encodeFields]; omega
theorem ballot (d a) : Statement (.ballot d a) := by
  have := src_lt a; simp only [Statement, encodeFields]; omega
theorem redadd (d a) : Statement (.redadd d a) := by
  have := src_lt a; simp only [Statement, encodeFields]; omega
theorem redmin (d a) : Statement (.redmin d a) := by
  have := src_lt a; simp only [Statement, encodeFields]; omega
theorem redmax (d a) : Statement (.redmax d a) := by
  have := src_lt a; simp only [Statement, encodeFields]; omega
theorem scan (d a b) : Statement (.scan d a b) := by
  have := src_lt a; simp only [Statement, encodeFields]; omega
theorem lanes (d a) : Statement (.lanes d a) := by
  have := src_lt a; simp only [Statement, encodeFields]; omega
theorem bcast (d a b) : Statement (.bcast d a b) := by
  have := src_lt a; simp only [Statement, encodeFields]; omega
theorem vtos (d a b) : Statement (.vtos d a b) := by
  have := src_lt a; simp only [Statement, encodeFields]; omega
theorem bra (o) : Statement (.bra o) := by
  simp only [Statement, encodeFields]; omega
theorem call (d k) : Statement (.call d k) := by
  simp only [Statement, encodeFields]; omega
theorem ret (a) : Statement (.ret a) := by
  have := src_lt a; simp only [Statement, encodeFields]; omega
theorem jmpi (a) : Statement (.jmpi a) := by
  have := src_lt a; simp only [Statement, encodeFields]; omega
theorem brau (o) : Statement (.brau o) := by
  simp only [Statement, encodeFields]; omega
theorem brany (o) : Statement (.brany o) := by
  simp only [Statement, encodeFields]; omega
theorem setmode (k) : Statement (.setmode k) := by
  simp only [Statement, encodeFields]; omega
theorem setmmode (k) : Statement (.setmmode k) := by
  simp only [Statement, encodeFields]; omega
theorem setgang (a) : Statement (.setgang a) := by
  simp only [Statement, encodeFields]; omega
theorem splitsync : Statement .splitsync := by unfold Statement; decide
theorem ld8 (d a sp k) : Statement (.ld8 d a sp k) := by
  have := src_lt a; have := space_lt sp; simp only [Statement, encodeFields]; omega
theorem ld16 (d a sp k) : Statement (.ld16 d a sp k) := by
  have := src_lt a; have := space_lt sp; simp only [Statement, encodeFields]; omega
theorem ld32 (d a sp k) : Statement (.ld32 d a sp k) := by
  have := src_lt a; have := space_lt sp; simp only [Statement, encodeFields]; omega
theorem ld64 (d a sp k) : Statement (.ld64 d a sp k) := by
  have := src_lt a; have := space_lt sp; simp only [Statement, encodeFields]; omega
theorem ld128 (d a sp k) : Statement (.ld128 d a sp k) := by
  have := src_lt a; have := space_lt sp; simp only [Statement, encodeFields]; omega
theorem st8 (d a sp k) : Statement (.st8 d a sp k) := by
  have := src_lt a; have := space_lt sp; simp only [Statement, encodeFields]; omega
theorem st16 (d a sp k) : Statement (.st16 d a sp k) := by
  have := src_lt a; have := space_lt sp; simp only [Statement, encodeFields]; omega
theorem st32 (d a sp k) : Statement (.st32 d a sp k) := by
  have := src_lt a; have := space_lt sp; simp only [Statement, encodeFields]; omega
theorem st64 (d a sp k) : Statement (.st64 d a sp k) := by
  have := src_lt a; have := space_lt sp; simp only [Statement, encodeFields]; omega
theorem st128 (d a sp k) : Statement (.st128 d a sp k) := by
  have := space_lt sp; simp only [Statement, encodeFields]; omega
theorem pref (a sp k) : Statement (.pref a sp k) := by
  have := src_lt a; have := space_lt sp; simp only [Statement, encodeFields]; omega
theorem ldu (d a sp k) : Statement (.ldu d a sp k) := by
  have := src_lt a; have := space_lt sp; simp only [Statement, encodeFields]; omega
theorem fence : Statement .fence := by unfold Statement; decide
theorem fencei : Statement .fencei := by unfold Statement; decide
theorem ld8s (d a sp k) : Statement (.ld8s d a sp k) := by
  have := src_lt a; have := space_lt sp; simp only [Statement, encodeFields]; omega
theorem ld16s (d a sp k) : Statement (.ld16s d a sp k) := by
  have := src_lt a; have := space_lt sp; simp only [Statement, encodeFields]; omega
theorem aadd (d a b) : Statement (.aadd d a b) := by
  have := addr_lt a; have := src_lt b; simp only [Statement, encodeFields]; omega
theorem amin (d a b) : Statement (.amin d a b) := by
  have := addr_lt a; have := src_lt b; simp only [Statement, encodeFields]; omega
theorem amax (d a b) : Statement (.amax d a b) := by
  have := addr_lt a; have := src_lt b; simp only [Statement, encodeFields]; omega
theorem aand (d a b) : Statement (.aand d a b) := by
  have := addr_lt a; have := src_lt b; simp only [Statement, encodeFields]; omega
theorem aor (d a b) : Statement (.aor d a b) := by
  have := addr_lt a; have := src_lt b; simp only [Statement, encodeFields]; omega
theorem axor (d a b) : Statement (.axor d a b) := by
  have := addr_lt a; have := src_lt b; simp only [Statement, encodeFields]; omega
theorem axchg (d a b) : Statement (.axchg d a b) := by
  have := addr_lt a; have := src_lt b; simp only [Statement, encodeFields]; omega
theorem acas (d a b) : Statement (.acas d a b) := by
  have := addr_lt a; have := src_lt b; simp only [Statement, encodeFields]; omega
theorem afadd (d a b) : Statement (.afadd d a b) := by
  have := addr_lt a; have := src_lt b; simp only [Statement, encodeFields]; omega
theorem radd (a b) : Statement (.radd a b) := by
  have := addr_lt a; have := src_lt b; simp only [Statement, encodeFields]; omega
theorem rmin (a b) : Statement (.rmin a b) := by
  have := addr_lt a; have := src_lt b; simp only [Statement, encodeFields]; omega
theorem rmax (a b) : Statement (.rmax a b) := by
  have := addr_lt a; have := src_lt b; simp only [Statement, encodeFields]; omega
theorem rfadd (a b) : Statement (.rfadd a b) := by
  have := addr_lt a; have := src_lt b; simp only [Statement, encodeFields]; omega
theorem lock (a) : Statement (.lock a) := by
  simp only [Statement, encodeFields]; omega
theorem unlock (a) : Statement (.unlock a) := by
  simp only [Statement, encodeFields]; omega
theorem copy (d a b) : Statement (.copy d a b) := by
  simp only [Statement, encodeFields]; omega
theorem copym (d a b) : Statement (.copym d a b) := by
  simp only [Statement, encodeFields]; omega
theorem bclose (d) : Statement (.bclose d) := by
  simp only [Statement, encodeFields]; omega
theorem bwait (a) : Statement (.bwait a) := by
  simp only [Statement, encodeFields]; omega
theorem barinit (a b) : Statement (.barinit a b) := by
  simp only [Statement, encodeFields]; omega
theorem bararr (d a b) : Statement (.bararr d a b) := by
  simp only [Statement, encodeFields]; omega
theorem barwait (a b) : Statement (.barwait a b) := by
  simp only [Statement, encodeFields]; omega
theorem barexp (a b) : Statement (.barexp a b) := by
  simp only [Statement, encodeFields]; omega
theorem barcont (a b) : Statement (.barcont a b) := by
  simp only [Statement, encodeFields]; omega
theorem bartry (d a b) : Statement (.bartry d a b) := by
  simp only [Statement, encodeFields]; omega
theorem remarr (a b) : Statement (.remarr a b) := by
  simp only [Statement, encodeFields]; omega
theorem bsync : Statement .bsync := by unfold Statement; decide
theorem mma (d a b) : Statement (.mma d a b) := by
  have := tile_lt a; have := tile_lt b; simp only [Statement, encodeFields]; omega
theorem mmaz (d a b) : Statement (.mmaz d a b) := by
  have := tile_lt a; have := tile_lt b; simp only [Statement, encodeFields]; omega
theorem mfence (d) : Statement (.mfence d) := by
  simp only [Statement, encodeFields]; omega
theorem mwait (a) : Statement (.mwait a) := by
  simp only [Statement, encodeFields]; omega
theorem tld (d a) : Statement (.tld d a) := by
  simp only [Statement, encodeFields]; omega
theorem tst (a b) : Statement (.tst a b) := by
  simp only [Statement, encodeFields]; omega
theorem thdr (d a) : Statement (.thdr d a) := by
  simp only [Statement, encodeFields]; omega
theorem tchk (d a) : Statement (.tchk d a) := by
  have := tile_lt a; simp only [Statement, encodeFields]; omega
theorem hadq (d a b) : Statement (.hadq d a b) := by
  have := tile_lt a; have := tile_lt b; simp only [Statement, encodeFields]; omega
theorem transq (a b) : Statement (.transq a b) := by
  have := tile_lt a; have := tile_lt b; simp only [Statement, encodeFields]; omega
theorem cvtt (a b) : Statement (.cvtt a b) := by
  have := tile_lt a; have := tile_lt b; simp only [Statement, encodeFields]; omega
theorem tfill (a b) : Statement (.tfill a b) := by
  have := tile_lt b; simp only [Statement, encodeFields]; omega
theorem mwake : Statement .mwake := by unfold Statement; decide
theorem qopen (d a b) : Statement (.qopen d a b) := by
  simp only [Statement, encodeFields]; omega
theorem qrsv (d a b) : Statement (.qrsv d a b) := by
  simp only [Statement, encodeFields]; omega
theorem qput (a b) : Statement (.qput a b) := by
  simp only [Statement, encodeFields]; omega
theorem qputs (a b) : Statement (.qputs a b) := by
  simp only [Statement, encodeFields]; omega
theorem qget (d a) : Statement (.qget d a) := by
  simp only [Statement, encodeFields]; omega
theorem qgets (d a b) : Statement (.qgets d a b) := by
  simp only [Statement, encodeFields]; omega
theorem qtry (d a) : Statement (.qtry d a) := by
  simp only [Statement, encodeFields]; omega
theorem qpeek (d a) : Statement (.qpeek d a) := by
  simp only [Statement, encodeFields]; omega
theorem qclose (a) : Statement (.qclose a) := by
  simp only [Statement, encodeFields]; omega
theorem qfence : Statement .qfence := by unfold Statement; decide
theorem qack : Statement .qack := by unfold Statement; decide
theorem qsvc (a b) : Statement (.qsvc a b) := by
  simp only [Statement, encodeFields]; omega
theorem emit (a b) : Statement (.emit a b) := by
  simp only [Statement, encodeFields]; omega
theorem tlbinv (a b) : Statement (.tlbinv a b) := by
  simp only [Statement, encodeFields]; omega
theorem lrload (d a b) : Statement (.lrload d a b) := by
  simp only [Statement, encodeFields]; omega
theorem lrinv (a) : Statement (.lrinv a) := by
  simp only [Statement, encodeFields]; omega
theorem wsub (a b) : Statement (.wsub a b) := by
  simp only [Statement, encodeFields]; omega
theorem wunsub (a) : Statement (.wunsub a) := by
  simp only [Statement, encodeFields]; omega
theorem wflush (a) : Statement (.wflush a) := by
  simp only [Statement, encodeFields]; omega
theorem qxsetDropVqn (d a b) : Statement (.qxsetDropVqn d a b) := by
  simp only [Statement, encodeFields]; omega
theorem qxsetDropAsid (d a b) : Statement (.qxsetDropAsid d a b) := by
  simp only [Statement, encodeFields]; omega
theorem qxsetDropAll (d a b) : Statement (.qxsetDropAll d a b) := by
  simp only [Statement, encodeFields]; omega
theorem qxsetWriteDescriptor (d a b) : Statement (.qxsetWriteDescriptor d a b) := by
  simp only [Statement, encodeFields]; omega
theorem sadd (d a b) : Statement (.sadd d a b) := by
  simp only [Statement, encodeFields]; omega
theorem ssub (d a b) : Statement (.ssub d a b) := by
  simp only [Statement, encodeFields]; omega
theorem smul (d a b) : Statement (.smul d a b) := by
  simp only [Statement, encodeFields]; omega
theorem sand (d a b) : Statement (.sand d a b) := by
  simp only [Statement, encodeFields]; omega
theorem sor (d a b) : Statement (.sor d a b) := by
  simp only [Statement, encodeFields]; omega
theorem sxor (d a b) : Statement (.sxor d a b) := by
  simp only [Statement, encodeFields]; omega
theorem sshl (d a b) : Statement (.sshl d a b) := by
  simp only [Statement, encodeFields]; omega
theorem sshr (d a b) : Statement (.sshr d a b) := by
  simp only [Statement, encodeFields]; omega
theorem ssar (d a b) : Statement (.ssar d a b) := by
  simp only [Statement, encodeFields]; omega
theorem saddi (d a k) : Statement (.saddi d a k) := by
  simp only [Statement, encodeFields]; omega
theorem smovi (d k) : Statement (.smovi d k) := by
  simp only [Statement, encodeFields]; omega
theorem smovhi (d k) : Statement (.smovhi d k) := by
  simp only [Statement, encodeFields]; omega
theorem scmplt (d a b) : Statement (.scmplt d a b) := by
  simp only [Statement, encodeFields]; omega
theorem scmpeq (d a b) : Statement (.scmpeq d a b) := by
  simp only [Statement, encodeFields]; omega
theorem smin (d a b) : Statement (.smin d a b) := by
  simp only [Statement, encodeFields]; omega
theorem smax (d a b) : Statement (.smax d a b) := by
  simp only [Statement, encodeFields]; omega
theorem crd (d a) : Statement (.crd d a) := by
  simp only [Statement, encodeFields]; omega
theorem cwait (d a b) : Statement (.cwait d a b) := by
  simp only [Statement, encodeFields]; omega
theorem eres (d a) : Statement (.eres d a) := by
  simp only [Statement, encodeFields]; omega
theorem erel (d a) : Statement (.erel d a) := by
  simp only [Statement, encodeFields]; omega
theorem eqry (d a) : Statement (.eqry d a) := by
  simp only [Statement, encodeFields]; omega
theorem illegalInstruction (w) : Statement (.illegalInstruction w) := by
  simp only [Statement, encodeFields, Fields.ofNat]; omega
theorem splitRotation : Statement .splitRotation := by unfold Statement; decide
theorem loadDataReturn : Statement .loadDataReturn := by unfold Statement; decide
theorem longResultWrite : Statement .longResultWrite := by unfold Statement; decide
theorem atomicReply : Statement .atomicReply := by unfold Statement; decide
theorem storeQueueDrain : Statement .storeQueueDrain := by unfold Statement; decide
theorem quantumReductionPerform : Statement .quantumReductionPerform := by unfold Statement; decide
theorem pageWalkComplete : Statement .pageWalkComplete := by unfold Statement; decide
theorem resumeRetry : Statement .resumeRetry := by unfold Statement; decide
theorem resumeHandler : Statement .resumeHandler := by unfold Statement; decide
theorem resumeEndBlock : Statement .resumeEndBlock := by unfold Statement; decide
theorem resumeEndGrid : Statement .resumeEndGrid := by unfold Statement; decide
theorem preemptOneBlock : Statement .preemptOneBlock := by unfold Statement; decide
theorem preemptLaunch : Statement .preemptLaunch := by unfold Statement; decide
theorem releaseHeldBlocks : Statement .releaseHeldBlocks := by unfold Statement; decide
theorem preemptionRequest : Statement .preemptionRequest := by unfold Statement; decide
theorem preemptTimeout : Statement .preemptTimeout := by unfold Statement; decide
theorem preemptSave : Statement .preemptSave := by unfold Statement; decide
theorem blockRestore : Statement .blockRestore := by unfold Statement; decide
theorem yieldRequest : Statement .yieldRequest := by unfold Statement; decide
theorem launchGrid : Statement .launchGrid := by unfold Statement; decide
theorem launchGraph : Statement .launchGraph := by unfold Statement; decide
theorem heldRecordReady : Statement .heldRecordReady := by unfold Statement; decide
theorem energyRefill : Statement .energyRefill := by unfold Statement; decide
theorem blockPlacement : Statement .blockPlacement := by unfold Statement; decide
theorem blockSteal : Statement .blockSteal := by unfold Statement; decide
theorem clusterForage : Statement .clusterForage := by unfold Statement; decide
theorem blockRetire : Statement .blockRetire := by unfold Statement; decide
theorem graphNodeLaunch : Statement .graphNodeLaunch := by unfold Statement; decide
theorem continuationSpawn : Statement .continuationSpawn := by unfold Statement; decide
theorem watchdog : Statement .watchdog := by unfold Statement; decide
theorem throttleChange : Statement .throttleChange := by unfold Statement; decide
theorem remoteArrival : Statement .remoteArrival := by unfold Statement; decide
theorem copySectorLand : Statement .copySectorLand := by unfold Statement; decide
theorem copymDelivery : Statement .copymDelivery := by unfold Statement; decide
theorem matrixOpComplete : Statement .matrixOpComplete := by unfold Statement; decide
theorem matrixGate : Statement .matrixGate := by unfold Statement; decide
theorem matrixWakeDone : Statement .matrixWakeDone := by unfold Statement; decide
theorem portReserve : Statement .portReserve := by unfold Statement; decide
theorem portFill : Statement .portFill := by unfold Statement; decide
theorem portTake : Statement .portTake := by unfold Statement; decide
theorem portPeek : Statement .portPeek := by unfold Statement; decide
theorem portBinding : Statement .portBinding := by unfold Statement; decide
theorem portCloseNotice : Statement .portCloseNotice := by unfold Statement; decide
theorem putAcknowledge : Statement .putAcknowledge := by unfold Statement; decide
theorem queueWake : Statement .queueWake := by unfold Statement; decide
theorem queueWaitRetry : Statement .queueWaitRetry := by unfold Statement; decide
theorem superRefill : Statement .superRefill := by unfold Statement; decide
theorem depositLanding : Statement .depositLanding := by unfold Statement; decide
theorem svcAdd : Statement .svcAdd := by unfold Statement; decide
theorem svcSignedMin : Statement .svcSignedMin := by unfold Statement; decide
theorem svcSignedMax : Statement .svcSignedMax := by unfold Statement; decide
theorem svcUnsignedMin : Statement .svcUnsignedMin := by unfold Statement; decide
theorem svcUnsignedMax : Statement .svcUnsignedMax := by unfold Statement; decide
theorem svcAnd : Statement .svcAnd := by unfold Statement; decide
theorem svcOr : Statement .svcOr := by unfold Statement; decide
theorem svcXor : Statement .svcXor := by unfold Statement; decide
theorem svcExchange : Statement .svcExchange := by unfold Statement; decide
theorem svcCompareAndSwap : Statement .svcCompareAndSwap := by unfold Statement; decide
theorem svcF32Add : Statement .svcF32Add := by unfold Statement; decide
theorem svcLoad : Statement .svcLoad := by unfold Statement; decide
theorem svcUndefinedOp : Statement .svcUndefinedOp := by unfold Statement; decide
theorem messageResend : Statement .messageResend := by unfold Statement; decide
theorem flitReceive : Statement .flitReceive := by unfold Statement; decide
theorem replayTimeout : Statement .replayTimeout := by unfold Statement; decide
theorem retrainComplete : Statement .retrainComplete := by unfold Statement; decide
theorem lctlRetrain : Statement .lctlRetrain := by unfold Statement; decide
theorem connreqWrite : Statement .connreqWrite := by unfold Statement; decide
theorem reconfigDrainEnd : Statement .reconfigDrainEnd := by unfold Statement; decide
theorem reconfigSwitchDone : Statement .reconfigSwitchDone := by unfold Statement; decide
theorem outboxDrain : Statement .outboxDrain := by unfold Statement; decide
theorem evstatOvfClear : Statement .evstatOvfClear := by unfold Statement; decide
theorem powerSample : Statement .powerSample := by unfold Statement; decide
theorem powerClampDecision : Statement .powerClampDecision := by unfold Statement; decide
theorem powerOnBoot : Statement .powerOnBoot := by unfold Statement; decide
theorem recoveryImage : Statement .recoveryImage := by unfold Statement; decide
theorem attestationRequest : Statement .attestationRequest := by unfold Statement; decide
theorem computeDieResetEnter : Statement .computeDieResetEnter := by unfold Statement; decide
theorem computeDieResetExit : Statement .computeDieResetExit := by unfold Statement; decide
theorem scrubPass : Statement .scrubPass := by unfold Statement; decide
theorem checkpointStart : Statement .checkpointStart := by unfold Statement; decide
theorem checkpointDone : Statement .checkpointDone := by unfold Statement; decide
theorem tlbShootdown : Statement .tlbShootdown := by unfold Statement; decide
theorem hostCoherentAccess : Statement .hostCoherentAccess := by unfold Statement; decide
theorem pcieDma : Statement .pcieDma := by unfold Statement; decide
theorem subscriptionBatchTimeout : Statement .subscriptionBatchTimeout := by unfold Statement; decide
theorem subscriptionBatchLand : Statement .subscriptionBatchLand := by unfold Statement; decide
theorem shmWrite : Statement .shmWrite := by unfold Statement; decide
theorem descriptorWrite : Statement .descriptorWrite := by unfold Statement; decide
theorem prgoReplayOne : Statement .prgoReplayOne := by unfold Statement; decide
theorem prgoReplayTwo : Statement .prgoReplayTwo := by unfold Statement; decide
theorem rootinvWrite : Statement .rootinvWrite := by unfold Statement; decide
theorem lrinvWrite : Statement .lrinvWrite := by unfold Statement; decide
theorem entryLatchRead : Statement .entryLatchRead := by unfold Statement; decide
theorem registerWrite : Statement .registerWrite := by unfold Statement; decide
theorem queueAnswerArrival : Statement .queueAnswerArrival := by unfold Statement; decide
theorem ratedConditionExcursion : Statement .ratedConditionExcursion := by unfold Statement; decide
theorem duplicateAndCompareMismatch : Statement .duplicateAndCompareMismatch := by unfold Statement; decide

end Sys2Proof.Laws.Encoding
end

