-- ==== Sys2Proof/Laws/Uses.lean ====
section
/-!
SUPPORT. The registers that each instruction names: `useOf` at each constructor, so that no proof unfolds it.
-/
-- One theorem after another: as many at once would need more memory than the check allows.
set_option Elab.async false

namespace Sys2Proof.Machine

@[simp] theorem useOf_add (mode mmode) (w d a b) : useOf mode mmode (.add w d a b) =
    (Use.two w d a b) := rfl
@[simp] theorem useOf_sub (mode mmode) (w d a b) : useOf mode mmode (.sub w d a b) =
    (Use.two w d a b) := rfl
@[simp] theorem useOf_mul (mode mmode) (w d a b) : useOf mode mmode (.mul w d a b) =
    (Use.two w d a b) := rfl
@[simp] theorem useOf_mulhi (mode mmode) (w d a b) : useOf mode mmode (.mulhi w d a b) =
    (Use.two w d a b) := rfl
@[simp] theorem useOf_min (mode mmode) (w d a b) : useOf mode mmode (.min w d a b) =
    (Use.two w d a b) := rfl
@[simp] theorem useOf_max (mode mmode) (w d a b) : useOf mode mmode (.max w d a b) =
    (Use.two w d a b) := rfl
@[simp] theorem useOf_and (mode mmode) (w d a b) : useOf mode mmode (.and w d a b) =
    (Use.two w d a b) := rfl
@[simp] theorem useOf_or (mode mmode) (w d a b) : useOf mode mmode (.or w d a b) =
    (Use.two w d a b) := rfl
@[simp] theorem useOf_xor (mode mmode) (w d a b) : useOf mode mmode (.xor w d a b) =
    (Use.two w d a b) := rfl
@[simp] theorem useOf_andn (mode mmode) (w d a b) : useOf mode mmode (.andn w d a b) =
    (Use.two w d a b) := rfl
@[simp] theorem useOf_shl (mode mmode) (w d a b) : useOf mode mmode (.shl w d a b) =
    (Use.two w d a b) := rfl
@[simp] theorem useOf_shr (mode mmode) (w d a b) : useOf mode mmode (.shr w d a b) =
    (Use.two w d a b) := rfl
@[simp] theorem useOf_sar (mode mmode) (w d a b) : useOf mode mmode (.sar w d a b) =
    (Use.two w d a b) := rfl
@[simp] theorem useOf_rotl (mode mmode) (w d a b) : useOf mode mmode (.rotl w d a b) =
    (Use.two w d a b) := rfl
@[simp] theorem useOf_sad (mode mmode) (w d a b) : useOf mode mmode (.sad w d a b) =
    (Use.two w d a b) := rfl
@[simp] theorem useOf_bfx (mode mmode) (w d a b) : useOf mode mmode (.bfx w d a b) =
    (Use.two w d a b) := rfl
@[simp] theorem useOf_prmt (mode mmode) (w d a b) : useOf mode mmode (.prmt w d a b) =
    (Use.two w d a b) := rfl
@[simp] theorem useOf_sel (mode mmode) (w d a b) : useOf mode mmode (.sel w d a b) =
    (Use.two w d a b) := rfl
@[simp] theorem useOf_fadd (mode mmode) (w d a b) : useOf mode mmode (.fadd w d a b) =
    (Use.two w d a b) := rfl
@[simp] theorem useOf_fsub (mode mmode) (w d a b) : useOf mode mmode (.fsub w d a b) =
    (Use.two w d a b) := rfl
@[simp] theorem useOf_fmul (mode mmode) (w d a b) : useOf mode mmode (.fmul w d a b) =
    (Use.two w d a b) := rfl
@[simp] theorem useOf_fmin (mode mmode) (w d a b) : useOf mode mmode (.fmin w d a b) =
    (Use.two w d a b) := rfl
@[simp] theorem useOf_fmax (mode mmode) (w d a b) : useOf mode mmode (.fmax w d a b) =
    (Use.two w d a b) := rfl
@[simp] theorem useOf_fldexp (mode mmode) (w d a b) : useOf mode mmode (.fldexp w d a b) =
    (Use.two w d a b) := rfl
@[simp] theorem useOf_cvtpk (mode mmode) (w d a b) : useOf mode mmode (.cvtpk w d a b) = if etWidth (etOf mode) = 8 ∧ w = false then (Use.two w d a b).vsrc d.toNat 1 else Use.two w d a b := rfl
@[simp] theorem useOf_mad (mode mmode) (w d a b) : useOf mode mmode (.mad w d a b) = (Use.two w d a b).vsrc d.toNat 1 := rfl
@[simp] theorem useOf_bfi (mode mmode) (w d a b) : useOf mode mmode (.bfi w d a b) = (Use.two w d a b).vsrc d.toNat 1 := rfl
@[simp] theorem useOf_fma (mode mmode) (w d a b) : useOf mode mmode (.fma w d a b) = (Use.two w d a b).vsrc d.toNat 1 := rfl
@[simp] theorem useOf_fms (mode mmode) (w d a b) : useOf mode mmode (.fms w d a b) = (Use.two w d a b).vsrc d.toNat 1 := rfl
@[simp] theorem useOf_fnma (mode mmode) (w d a b) : useOf mode mmode (.fnma w d a b) = (Use.two w d a b).vsrc d.toNat 1 := rfl
@[simp] theorem useOf_addi (mode mmode) (w d a y3) : useOf mode mmode (.addi w d a y3) = Use.one w d a := rfl
@[simp] theorem useOf_andi (mode mmode) (w d a y3) : useOf mode mmode (.andi w d a y3) = Use.one w d a := rfl
@[simp] theorem useOf_ori (mode mmode) (w d a y3) : useOf mode mmode (.ori w d a y3) = Use.one w d a := rfl
@[simp] theorem useOf_xori (mode mmode) (w d a y3) : useOf mode mmode (.xori w d a y3) = Use.one w d a := rfl
@[simp] theorem useOf_shli (mode mmode) (w d a y3) : useOf mode mmode (.shli w d a y3) = Use.one w d a := rfl
@[simp] theorem useOf_shri (mode mmode) (w d a y3) : useOf mode mmode (.shri w d a y3) = Use.one w d a := rfl
@[simp] theorem useOf_sari (mode mmode) (w d a y3) : useOf mode mmode (.sari w d a y3) = Use.one w d a := rfl
@[simp] theorem useOf_movi (mode mmode) (w d y2) : useOf mode mmode (.movi w d y2) = Use.chain.wdst w d := rfl
@[simp] theorem useOf_movhi (mode mmode) (w d y2) : useOf mode mmode (.movhi w d y2) = (Use.chain.vsrc d.toNat 1).wdst w d := rfl
@[simp] theorem useOf_popc (mode mmode) (w d a) : useOf mode mmode (.popc w d a) = Use.one w d a := rfl
@[simp] theorem useOf_clz (mode mmode) (w d a) : useOf mode mmode (.clz w d a) = Use.one w d a := rfl
@[simp] theorem useOf_brev (mode mmode) (w d a) : useOf mode mmode (.brev w d a) = Use.one w d a := rfl
@[simp] theorem useOf_abs (mode mmode) (w d a) : useOf mode mmode (.abs w d a) = Use.one w d a := rfl
@[simp] theorem useOf_mov (mode mmode) (w d a) : useOf mode mmode (.mov w d a) = Use.one w d a := rfl
@[simp] theorem useOf_fabs (mode mmode) (w d a) : useOf mode mmode (.fabs w d a) = Use.one w d a := rfl
@[simp] theorem useOf_fneg (mode mmode) (w d a) : useOf mode mmode (.fneg w d a) = Use.one w d a := rfl
@[simp] theorem useOf_frnd (mode mmode) (w d a) : useOf mode mmode (.frnd w d a) = Use.one w d a := rfl
@[simp] theorem useOf_fclass (mode mmode) (w d a) : useOf mode mmode (.fclass w d a) = Use.one w d a := rfl
@[simp] theorem useOf_frexp (mode mmode) (w d a) : useOf mode mmode (.frexp w d a) = Use.one w d a := rfl
@[simp] theorem useOf_cvt (mode mmode) (w d a y3) : useOf mode mmode (.cvt w d a y3) = Use.one w d a := rfl
@[simp] theorem useOf_cvtup (mode mmode) (w d a y3) : useOf mode mmode (.cvtup w d a y3) = Use.one w d a := rfl
@[simp] theorem useOf_cmpeq (mode mmode) (w d a b) : useOf mode mmode (.cmpeq w d a b) = ((Use.chain.src a).src b).pdst w d := rfl
@[simp] theorem useOf_cmpne (mode mmode) (w d a b) : useOf mode mmode (.cmpne w d a b) = ((Use.chain.src a).src b).pdst w d := rfl
@[simp] theorem useOf_cmplt (mode mmode) (w d a b) : useOf mode mmode (.cmplt w d a b) = ((Use.chain.src a).src b).pdst w d := rfl
@[simp] theorem useOf_cmple (mode mmode) (w d a b) : useOf mode mmode (.cmple w d a b) = ((Use.chain.src a).src b).pdst w d := rfl
@[simp] theorem useOf_cmpgt (mode mmode) (w d a b) : useOf mode mmode (.cmpgt w d a b) = ((Use.chain.src a).src b).pdst w d := rfl
@[simp] theorem useOf_cmpge (mode mmode) (w d a b) : useOf mode mmode (.cmpge w d a b) = ((Use.chain.src a).src b).pdst w d := rfl
@[simp] theorem useOf_cmpun (mode mmode) (w d a b) : useOf mode mmode (.cmpun w d a b) = ((Use.chain.src a).src b).pdst w d := rfl
@[simp] theorem useOf_pand (mode mmode) (w d a b) : useOf mode mmode (.pand w d a b) = { Use.chain with pr := [a.toNat, b.toNat] }.pdst w d := rfl
@[simp] theorem useOf_por (mode mmode) (w d a b) : useOf mode mmode (.por w d a b) = { Use.chain with pr := [a.toNat, b.toNat] }.pdst w d := rfl
@[simp] theorem useOf_pxor (mode mmode) (w d a b) : useOf mode mmode (.pxor w d a b) = { Use.chain with pr := [a.toNat, b.toNat] }.pdst w d := rfl
@[simp] theorem useOf_pnot (mode mmode) (w d a) : useOf mode mmode (.pnot w d a) = { Use.chain with pr := [a.toNat] }.pdst w d := rfl
@[simp] theorem useOf_pset (mode mmode) (w d a) : useOf mode mmode (.pset w d a) = (Use.chain.src a).pdst w d := rfl
@[simp] theorem useOf_movix (mode mmode) (d a b) : useOf mode mmode (.movix d a b) = ((({} : Use).vsrc a.toNat 1).src b).vdst d.toNat 1 := rfl
@[simp] theorem useOf_stix (mode mmode) (d a b) : useOf mode mmode (.stix d a b) = ((({} : Use).vsrc a.toNat 1).src b).vsrc d.toNat 1 := rfl
@[simp] theorem useOf_fdiv (mode mmode) (d a b) : useOf mode mmode (.fdiv d a b) = ((({} : Use).src a).src b).vdst d.toNat 1 := rfl
@[simp] theorem useOf_fsqrt (mode mmode) (d a) : useOf mode mmode (.fsqrt d a) = (({} : Use).src a).vdst d.toNat 1 := rfl
@[simp] theorem useOf_frcp (mode mmode) (d a) : useOf mode mmode (.frcp d a) = (({} : Use).src a).vdst d.toNat 1 := rfl
@[simp] theorem useOf_frsq (mode mmode) (d a) : useOf mode mmode (.frsq d a) = (({} : Use).src a).vdst d.toNat 1 := rfl
@[simp] theorem useOf_fexp2 (mode mmode) (d a) : useOf mode mmode (.fexp2 d a) = (({} : Use).src a).vdst d.toNat 1 := rfl
@[simp] theorem useOf_flog2 (mode mmode) (d a) : useOf mode mmode (.flog2 d a) = (({} : Use).src a).vdst d.toNat 1 := rfl
@[simp] theorem useOf_lanes (mode mmode) (d a) : useOf mode mmode (.lanes d a) = (({} : Use).src a).vdst d.toNat 1 := rfl
@[simp] theorem useOf_shfl (mode mmode) (w d a b) : useOf mode mmode (.shfl w d a b) = { Use.two w d a b with pw := [6] } := rfl
@[simp] theorem useOf_shflup (mode mmode) (w d a b) : useOf mode mmode (.shflup w d a b) = { Use.two w d a b with pw := [6] } := rfl
@[simp] theorem useOf_shfldn (mode mmode) (w d a b) : useOf mode mmode (.shfldn w d a b) = { Use.two w d a b with pw := [6] } := rfl
@[simp] theorem useOf_shflx (mode mmode) (w d a b) : useOf mode mmode (.shflx w d a b) = { Use.two w d a b with pw := [6] } := rfl
@[simp] theorem useOf_vall (mode mmode) (d a) : useOf mode mmode (.vall d a) = (({} : Use).src a).sdst d := rfl
@[simp] theorem useOf_vany (mode mmode) (d a) : useOf mode mmode (.vany d a) = (({} : Use).src a).sdst d := rfl
@[simp] theorem useOf_ballot (mode mmode) (d a) : useOf mode mmode (.ballot d a) = (({} : Use).src a).sdst d := rfl
@[simp] theorem useOf_redadd (mode mmode) (d a) : useOf mode mmode (.redadd d a) = (({} : Use).src a).sdst d := rfl
@[simp] theorem useOf_redmin (mode mmode) (d a) : useOf mode mmode (.redmin d a) = (({} : Use).src a).sdst d := rfl
@[simp] theorem useOf_redmax (mode mmode) (d a) : useOf mode mmode (.redmax d a) = (({} : Use).src a).sdst d := rfl
@[simp] theorem useOf_scan (mode mmode) (d a b) : useOf mode mmode (.scan d a b) = ((({} : Use).src a).ssrc [b.toNat]).vdst d.toNat 1 := rfl
@[simp] theorem useOf_bcast (mode mmode) (d a b) : useOf mode mmode (.bcast d a b) = { ((({} : Use).src a).ssrc [b.toNat]).vdst d.toNat 1 with pw := [6] } := rfl
@[simp] theorem useOf_vtos (mode mmode) (d a b) : useOf mode mmode (.vtos d a b) = { ((({} : Use).src a).ssrc [b.toNat]).sdst d with pw := [6] } := rfl
@[simp] theorem useOf_nop (mode mmode) : useOf mode mmode .nop = Use.plain := rfl
@[simp] theorem useOf_yield (mode mmode) : useOf mode mmode .yield = Use.plain := rfl
@[simp] theorem useOf_detach (mode mmode) : useOf mode mmode .detach = Use.plain := rfl
@[simp] theorem useOf_attach (mode mmode) : useOf mode mmode .attach = Use.plain := rfl
@[simp] theorem useOf_tret (mode mmode) : useOf mode mmode .tret = Use.plain := rfl
@[simp] theorem useOf_splitsync (mode mmode) : useOf mode mmode .splitsync = Use.plain := rfl
@[simp] theorem useOf_fence (mode mmode) : useOf mode mmode .fence = Use.plain := rfl
@[simp] theorem useOf_fencei (mode mmode) : useOf mode mmode .fencei = Use.plain := rfl
@[simp] theorem useOf_bsync (mode mmode) : useOf mode mmode .bsync = Use.plain := rfl
@[simp] theorem useOf_mwake (mode mmode) : useOf mode mmode .mwake = Use.plain := rfl
@[simp] theorem useOf_qfence (mode mmode) : useOf mode mmode .qfence = Use.plain := rfl
@[simp] theorem useOf_qack (mode mmode) : useOf mode mmode .qack = Use.plain := rfl
@[simp] theorem useOf_brk (mode mmode) (y0) : useOf mode mmode (.brk y0) = Use.plain := rfl
@[simp] theorem useOf_setmode (mode mmode) (y0) : useOf mode mmode (.setmode y0) = Use.plain := rfl
@[simp] theorem useOf_setmmode (mode mmode) (y0) : useOf mode mmode (.setmmode y0) = Use.plain := rfl
@[simp] theorem useOf_exit (mode mmode) : useOf mode mmode .exit = {} := rfl
@[simp] theorem useOf_trap (mode mmode) (y0) : useOf mode mmode (.trap y0) = {} := rfl
@[simp] theorem useOf_bra (mode mmode) (y0) : useOf mode mmode (.bra y0) = {} := rfl
@[simp] theorem useOf_brau (mode mmode) (y0) : useOf mode mmode (.brau y0) = {} := rfl
@[simp] theorem useOf_brany (mode mmode) (y0) : useOf mode mmode (.brany y0) = {} := rfl
@[simp] theorem useOf_call (mode mmode) (d y1) : useOf mode mmode (.call d y1) = Use.plain.vdst d.toNat 1 := rfl
@[simp] theorem useOf_ret (mode mmode) (a) : useOf mode mmode (.ret a) = ({} : Use).src a := rfl
@[simp] theorem useOf_jmpi (mode mmode) (a) : useOf mode mmode (.jmpi a) = ({} : Use).src a := rfl
@[simp] theorem useOf_setgang (mode mmode) (a) : useOf mode mmode (.setgang a) = Use.plain.ssrc [a.toNat] := rfl
@[simp] theorem useOf_srd (mode mmode) (d y1) : useOf mode mmode (.srd d y1) = Use.plain.sdst d := rfl
@[simp] theorem useOf_swr (mode mmode) (d y1) : useOf mode mmode (.swr d y1) = Use.plain.ssrc [d.toNat] := rfl
@[simp] theorem useOf_grow (mode mmode) (d a y2) : useOf mode mmode (.grow d a y2) = (Use.plain.ssrc [a.toNat]).sdst d := rfl
@[simp] theorem useOf_racq (mode mmode) (d y1) : useOf mode mmode (.racq d y1) = Use.plain.sdst d := rfl
@[simp] theorem useOf_rrel (mode mmode) (d y1) : useOf mode mmode (.rrel d y1) = Use.plain.sdst d := rfl
@[simp] theorem useOf_ld8 (mode mmode) (d a sp y3) : useOf mode mmode (.ld8 d a sp y3) = Use.load d.toNat 1 a sp := rfl
@[simp] theorem useOf_ld16 (mode mmode) (d a sp y3) : useOf mode mmode (.ld16 d a sp y3) = Use.load d.toNat 1 a sp := rfl
@[simp] theorem useOf_ld32 (mode mmode) (d a sp y3) : useOf mode mmode (.ld32 d a sp y3) = Use.load d.toNat 1 a sp := rfl
@[simp] theorem useOf_ld8s (mode mmode) (d a sp y3) : useOf mode mmode (.ld8s d a sp y3) = Use.load d.toNat 1 a sp := rfl
@[simp] theorem useOf_ld16s (mode mmode) (d a sp y3) : useOf mode mmode (.ld16s d a sp y3) = Use.load d.toNat 1 a sp := rfl
@[simp] theorem useOf_ld64 (mode mmode) (d a sp y3) : useOf mode mmode (.ld64 d a sp y3) = Use.load (2 * d.toNat) 2 a sp := rfl
@[simp] theorem useOf_ld128 (mode mmode) (d a sp y3) : useOf mode mmode (.ld128 d a sp y3) = Use.load (4 * d.toNat) 4 a sp := rfl
@[simp] theorem useOf_st8 (mode mmode) (d a sp y3) : useOf mode mmode (.st8 d a sp y3) = (Use.store d sp).src a := rfl
@[simp] theorem useOf_st16 (mode mmode) (d a sp y3) : useOf mode mmode (.st16 d a sp y3) = (Use.store d sp).src a := rfl
@[simp] theorem useOf_st32 (mode mmode) (d a sp y3) : useOf mode mmode (.st32 d a sp y3) = (Use.store d sp).src a := rfl
@[simp] theorem useOf_st64 (mode mmode) (d a sp y3) : useOf mode mmode (.st64 d a sp y3) =
    (match a with
        | .v n => (Use.store d sp).vsrc n.toNat 2
        | a => (Use.store d sp).src a) := rfl
@[simp] theorem useOf_st128 (mode mmode) (d a sp y3) : useOf mode mmode (.st128 d a sp y3) = (Use.store d sp).vsrc (4 * a.toNat) 4 := rfl
@[simp] theorem useOf_pref (mode mmode) (a sp y2) : useOf mode mmode (.pref a sp y2) = ({} : Use).base sp a := rfl
@[simp] theorem useOf_ldu (mode mmode) (d a sp y3) : useOf mode mmode (.ldu d a sp y3) = (({ ender := true } : Use).base sp a).sdst d := rfl
@[simp] theorem useOf_aadd (mode mmode) (d a b) : useOf mode mmode (.aadd d a b) =
    (let u := Use.atom d a b
        if isSpeculative mmode then { u with pw := [6] } else u) := rfl
@[simp] theorem useOf_amin (mode mmode) (d a b) : useOf mode mmode (.amin d a b) =
    (let u := Use.atom d a b
        if isSpeculative mmode then { u with pw := [6] } else u) := rfl
@[simp] theorem useOf_amax (mode mmode) (d a b) : useOf mode mmode (.amax d a b) =
    (let u := Use.atom d a b
        if isSpeculative mmode then { u with pw := [6] } else u) := rfl
@[simp] theorem useOf_aand (mode mmode) (d a b) : useOf mode mmode (.aand d a b) =
    (let u := Use.atom d a b
        if isSpeculative mmode then { u with pw := [6] } else u) := rfl
@[simp] theorem useOf_aor (mode mmode) (d a b) : useOf mode mmode (.aor d a b) =
    (let u := Use.atom d a b
        if isSpeculative mmode then { u with pw := [6] } else u) := rfl
@[simp] theorem useOf_axor (mode mmode) (d a b) : useOf mode mmode (.axor d a b) =
    (let u := Use.atom d a b
        if isSpeculative mmode then { u with pw := [6] } else u) := rfl
@[simp] theorem useOf_axchg (mode mmode) (d a b) : useOf mode mmode (.axchg d a b) =
    (let u := Use.atom d a b
        if isSpeculative mmode then { u with pw := [6] } else u) := rfl
@[simp] theorem useOf_afadd (mode mmode) (d a b) : useOf mode mmode (.afadd d a b) =
    (let u := Use.atom d a b
        if isSpeculative mmode then { u with pw := [6] } else u) := rfl
@[simp] theorem useOf_acas (mode mmode) (d a b) : useOf mode mmode (.acas d a b) =
    (let u := (Use.atom d a b).vsrc d.toNat 1
        if isSpeculative mmode then { u with pw := [6] } else u) := rfl
@[simp] theorem useOf_radd (mode mmode) (a b) : useOf mode mmode (.radd a b) =
    (let u := (({ ender := true } : Use).addr a).src b
        if isSpeculative mmode then { u with pw := [6] } else u) := rfl
@[simp] theorem useOf_rmin (mode mmode) (a b) : useOf mode mmode (.rmin a b) =
    (let u := (({ ender := true } : Use).addr a).src b
        if isSpeculative mmode then { u with pw := [6] } else u) := rfl
@[simp] theorem useOf_rmax (mode mmode) (a b) : useOf mode mmode (.rmax a b) =
    (let u := (({ ender := true } : Use).addr a).src b
        if isSpeculative mmode then { u with pw := [6] } else u) := rfl
@[simp] theorem useOf_rfadd (mode mmode) (a b) : useOf mode mmode (.rfadd a b) =
    (let u := (({ ender := true } : Use).addr a).src b
        if isSpeculative mmode then { u with pw := [6] } else u) := rfl
@[simp] theorem useOf_lock (mode mmode) (a) : useOf mode mmode (.lock a) =
    (Use.plain.ssrc [a.toNat]) := rfl
@[simp] theorem useOf_unlock (mode mmode) (a) : useOf mode mmode (.unlock a) =
    (Use.plain.ssrc [a.toNat]) := rfl
@[simp] theorem useOf_bwait (mode mmode) (a) : useOf mode mmode (.bwait a) =
    (Use.plain.ssrc [a.toNat]) := rfl
@[simp] theorem useOf_mwait (mode mmode) (a) : useOf mode mmode (.mwait a) =
    (Use.plain.ssrc [a.toNat]) := rfl
@[simp] theorem useOf_qclose (mode mmode) (a) : useOf mode mmode (.qclose a) =
    (Use.plain.ssrc [a.toNat]) := rfl
@[simp] theorem useOf_lrinv (mode mmode) (a) : useOf mode mmode (.lrinv a) =
    (Use.plain.ssrc [a.toNat]) := rfl
@[simp] theorem useOf_wunsub (mode mmode) (a) : useOf mode mmode (.wunsub a) =
    (Use.plain.ssrc [a.toNat]) := rfl
@[simp] theorem useOf_wflush (mode mmode) (a) : useOf mode mmode (.wflush a) =
    (Use.plain.ssrc [a.toNat]) := rfl
@[simp] theorem useOf_copy (mode mmode) (d a b) : useOf mode mmode (.copy d a b) =
    ((Use.plain.ssrc [2 * a.toNat, 2 * a.toNat + 1, 2 * b.toNat, 2 * b.toNat + 1]).sdst d) := rfl
@[simp] theorem useOf_copym (mode mmode) (d a b) : useOf mode mmode (.copym d a b) =
    ((Use.plain.ssrc [2 * a.toNat, 2 * a.toNat + 1, 2 * b.toNat, 2 * b.toNat + 1]).sdst d) := rfl
@[simp] theorem useOf_bclose (mode mmode) (d) : useOf mode mmode (.bclose d) = Use.plain.sdst d := rfl
@[simp] theorem useOf_mfence (mode mmode) (d) : useOf mode mmode (.mfence d) = Use.plain.sdst d := rfl
@[simp] theorem useOf_barinit (mode mmode) (a b) : useOf mode mmode (.barinit a b) =
    (Use.plain.ssrc [a.toNat, b.toNat]) := rfl
@[simp] theorem useOf_barwait (mode mmode) (a b) : useOf mode mmode (.barwait a b) =
    (Use.plain.ssrc [a.toNat, b.toNat]) := rfl
@[simp] theorem useOf_barexp (mode mmode) (a b) : useOf mode mmode (.barexp a b) =
    (Use.plain.ssrc [a.toNat, b.toNat]) := rfl
@[simp] theorem useOf_remarr (mode mmode) (a b) : useOf mode mmode (.remarr a b) =
    (Use.plain.ssrc [a.toNat, b.toNat]) := rfl
@[simp] theorem useOf_tlbinv (mode mmode) (a b) : useOf mode mmode (.tlbinv a b) =
    (Use.plain.ssrc [a.toNat, b.toNat]) := rfl
@[simp] theorem useOf_qputs (mode mmode) (a b) : useOf mode mmode (.qputs a b) =
    (Use.plain.ssrc [a.toNat, b.toNat]) := rfl
@[simp] theorem useOf_barcont (mode mmode) (a b) : useOf mode mmode (.barcont a b) = ({} : Use).ssrc [a.toNat, b.toNat] := rfl
@[simp] theorem useOf_bararr (mode mmode) (d a b) : useOf mode mmode (.bararr d a b) = Use.sss d a b := rfl
@[simp] theorem useOf_bartry (mode mmode) (d a b) : useOf mode mmode (.bartry d a b) = Use.sss d a b := rfl
@[simp] theorem useOf_qrsv (mode mmode) (d a b) : useOf mode mmode (.qrsv d a b) = Use.sss d a b := rfl
@[simp] theorem useOf_qgets (mode mmode) (d a b) : useOf mode mmode (.qgets d a b) = Use.sss d a b := rfl
@[simp] theorem useOf_lrload (mode mmode) (d a b) : useOf mode mmode (.lrload d a b) = Use.sss d a b := rfl
@[simp] theorem useOf_qxsetDropVqn (mode mmode) (d a b) : useOf mode mmode (.qxsetDropVqn d a b) = Use.sss d a b := rfl
@[simp] theorem useOf_qxsetDropAsid (mode mmode) (d a b) : useOf mode mmode (.qxsetDropAsid d a b) = Use.sss d a b := rfl
@[simp] theorem useOf_qxsetDropAll (mode mmode) (d a b) : useOf mode mmode (.qxsetDropAll d a b) = Use.sss d a b := rfl
@[simp] theorem useOf_qxsetWriteDescriptor (mode mmode) (d a b) : useOf mode mmode (.qxsetWriteDescriptor d a b) = Use.sss d a b := rfl
@[simp] theorem useOf_cwait (mode mmode) (d a b) : useOf mode mmode (.cwait d a b) = Use.sss d a b := rfl
@[simp] theorem useOf_mma (mode mmode) (y0 a b) : useOf mode mmode (.mma y0 a b) = (Use.plain.tile a).tile b := rfl
@[simp] theorem useOf_mmaz (mode mmode) (y0 a b) : useOf mode mmode (.mmaz y0 a b) = (Use.plain.tile a).tile b := rfl
@[simp] theorem useOf_thdr (mode mmode) (y0 a) : useOf mode mmode (.thdr y0 a) = Use.plain.ssrc [2 * a.toNat, 2 * a.toNat + 1] := rfl
@[simp] theorem useOf_tld (mode mmode) (y0 a) : useOf mode mmode (.tld y0 a) = ({} : Use).ssrc [2 * a.toNat, 2 * a.toNat + 1] := rfl
@[simp] theorem useOf_tst (mode mmode) (a y1) : useOf mode mmode (.tst a y1) = ({} : Use).ssrc [2 * a.toNat, 2 * a.toNat + 1] := rfl
@[simp] theorem useOf_tchk (mode mmode) (d a) : useOf mode mmode (.tchk d a) = (Use.plain.tile a).sdst d := rfl
@[simp] theorem useOf_hadq (mode mmode) (d a b) : useOf mode mmode (.hadq d a b) = ((Use.plain.tile a).tile b).ssrc [d.toNat] := rfl
@[simp] theorem useOf_transq (mode mmode) (a b) : useOf mode mmode (.transq a b) = (Use.plain.tile a).tile b := rfl
@[simp] theorem useOf_cvtt (mode mmode) (a b) : useOf mode mmode (.cvtt a b) = (Use.plain.tile a).tile b := rfl
@[simp] theorem useOf_tfill (mode mmode) (a b) : useOf mode mmode (.tfill a b) = (Use.plain.tile b).ssrc [a.toNat] := rfl
@[simp] theorem useOf_qopen (mode mmode) (d a b) : useOf mode mmode (.qopen d a b) =
    ((Use.plain.ssrc (if b = 0 then [a.toNat] else [a.toNat, 2 * b.toNat, 2 * b.toNat + 1])).sdst d) := rfl
@[simp] theorem useOf_qput (mode mmode) (a b) : useOf mode mmode (.qput a b) = (Use.plain.ssrc [a.toNat]).vsrc b.toNat 1 := rfl
@[simp] theorem useOf_emit (mode mmode) (a b) : useOf mode mmode (.emit a b) = (Use.plain.ssrc [a.toNat]).vsrc b.toNat 1 := rfl
@[simp] theorem useOf_qget (mode mmode) (d a) : useOf mode mmode (.qget d a) = (Use.plain.ssrc [a.toNat]).vdst d.toNat 1 := rfl
@[simp] theorem useOf_qtry (mode mmode) (d a) : useOf mode mmode (.qtry d a) = { (Use.plain.ssrc [a.toNat]).vdst d.toNat 1 with pw := [6] } := rfl
@[simp] theorem useOf_qpeek (mode mmode) (d a) : useOf mode mmode (.qpeek d a) = (Use.plain.ssrc [a.toNat]).sdst d := rfl
@[simp] theorem useOf_crd (mode mmode) (d a) : useOf mode mmode (.crd d a) = (Use.plain.ssrc [a.toNat]).sdst d := rfl
@[simp] theorem useOf_eres (mode mmode) (d a) : useOf mode mmode (.eres d a) = (Use.plain.ssrc [a.toNat]).sdst d := rfl
@[simp] theorem useOf_erel (mode mmode) (d a) : useOf mode mmode (.erel d a) = (Use.plain.ssrc [a.toNat]).sdst d := rfl
@[simp] theorem useOf_eqry (mode mmode) (d a) : useOf mode mmode (.eqry d a) = (Use.plain.ssrc [a.toNat]).sdst d := rfl
@[simp] theorem useOf_saddi (mode mmode) (d a y2) : useOf mode mmode (.saddi d a y2) = (Use.plain.ssrc [a.toNat]).sdst d := rfl
@[simp] theorem useOf_qsvc (mode mmode) (a b) : useOf mode mmode (.qsvc a b) = (({} : Use).ssrc [a.toNat]).vsrc (2 * b.toNat) 4 := rfl
@[simp] theorem useOf_wsub (mode mmode) (a b) : useOf mode mmode (.wsub a b) = Use.plain.ssrc [2 * a.toNat, 2 * a.toNat + 1, b.toNat] := rfl
@[simp] theorem useOf_sadd (mode mmode) (d a b) : useOf mode mmode (.sadd d a b) = Use.sss d a b := rfl
@[simp] theorem useOf_ssub (mode mmode) (d a b) : useOf mode mmode (.ssub d a b) = Use.sss d a b := rfl
@[simp] theorem useOf_smul (mode mmode) (d a b) : useOf mode mmode (.smul d a b) = Use.sss d a b := rfl
@[simp] theorem useOf_sand (mode mmode) (d a b) : useOf mode mmode (.sand d a b) = Use.sss d a b := rfl
@[simp] theorem useOf_sor (mode mmode) (d a b) : useOf mode mmode (.sor d a b) = Use.sss d a b := rfl
@[simp] theorem useOf_sxor (mode mmode) (d a b) : useOf mode mmode (.sxor d a b) = Use.sss d a b := rfl
@[simp] theorem useOf_sshl (mode mmode) (d a b) : useOf mode mmode (.sshl d a b) = Use.sss d a b := rfl
@[simp] theorem useOf_sshr (mode mmode) (d a b) : useOf mode mmode (.sshr d a b) = Use.sss d a b := rfl
@[simp] theorem useOf_ssar (mode mmode) (d a b) : useOf mode mmode (.ssar d a b) = Use.sss d a b := rfl
@[simp] theorem useOf_scmplt (mode mmode) (d a b) : useOf mode mmode (.scmplt d a b) = Use.sss d a b := rfl
@[simp] theorem useOf_scmpeq (mode mmode) (d a b) : useOf mode mmode (.scmpeq d a b) = Use.sss d a b := rfl
@[simp] theorem useOf_smin (mode mmode) (d a b) : useOf mode mmode (.smin d a b) = Use.sss d a b := rfl
@[simp] theorem useOf_smax (mode mmode) (d a b) : useOf mode mmode (.smax d a b) = Use.sss d a b := rfl
@[simp] theorem useOf_smovi (mode mmode) (d y1) : useOf mode mmode (.smovi d y1) = Use.plain.sdst d := rfl
@[simp] theorem useOf_smovhi (mode mmode) (d y1) : useOf mode mmode (.smovhi d y1) = (Use.plain.ssrc [d.toNat]).sdst d := rfl
@[simp] theorem useOf_illegalInstruction (mode mmode) (w) : useOf mode mmode (.illegalInstruction w) = Use.plain := rfl

end Sys2Proof.Machine
end

