-- ==== Sys2Proof/Laws/Results.lean ====
section
/-!
SUPPORT. What an instruction does whose effect is one of the result builders: a vector, a scalar, a predicate, a status, or
nothing.
-/
namespace Sys2Proof.Machine

theorem State.updCur_id (s : State) (c : Cur) : s.updCur c (fun g => g) = s := by
  have h : ∀ b : Block, b.updGroup c.gid (fun g => g) = b := fun b => by
    have : b.groups.map (fun x => if x.gid = c.gid then x else x) = b.groups := by simp
    unfold Block.updGroup; rw [this]
  have : s.blocks.map (fun b => if b.uid = c.blk then b.updGroup c.gid (fun g => g) else b) = s.blocks := by simp [h]
  unfold State.updCur State.updGroup State.updBlock
  rw [this]

/-- The registers of a group after a vector result. -/
theorem registers_vec {x : Ctx} {w : Bool} {d : BitVec 7} {m : LaneMask} {chain : Bool} {f : Nat → Word} (g : Group) :
    Registers (Change.vec x w d m chain f) g (if w then g else g.setLanes d.toNat m f) := by
  cases w with
  | true => exact ⟨fun r l _ => by simp [Change.vec], fun _ => rfl, fun _ _ _ => rfl, rfl⟩
  | false =>
    refine ⟨fun r l hl => ?_, fun _ => rfl, fun _ _ _ => rfl, rfl⟩
    simp only [Bool.false_eq_true, if_false]
    rw [Group.vreg_setLanes g d.toNat m f r l hl]
    by_cases hr : r = d.toNat ∧ m.getLsbD l = true
    · simp [Change.vec, hr]
    · simp only [Change.vec, and_true, if_neg hr, Option.getD_none]

/-- The effect of `Ctx.vector` as one update of the group. -/
theorem Ctx.vector_eq (x : Ctx) (w : Bool) (d : BitVec 7) (m : LaneMask) (f : Nat → Word) :
    x.vector w d m f = .done (x.s.updCur x.c fun g => if w then g else g.setLanes d.toNat m f) (latchLanes x.g w d.toNat m f) := by
  cases w with
  | true => simp only [Ctx.vector, if_true, State.updCur_id]
  | false => rfl

/-- A vector result. -/
theorem issue_vector {i : Instr} {s : State} {x : Ctx} (h : Issues i s x) {effect : Ctx → Res} {w : Bool} {d : BitVec 7}
    {m : LaneMask} {f : Nat → Word} (he : effect x = x.vector w d m f) :
    ∃ t, issue i s effect = .next t ∧
      Writes i s x (Change.vec x w d m (useOf x.mode x.mmode i).chainable f) t := by
  rw [Ctx.vector_eq] at he
  refine issue_writes h he ?_ (registers_vec x.g) rfl
  cases w with
  | true => exact ⟨_, _, _, _, rfl⟩
  | false => exact ⟨_, _, _, _, rfl⟩

theorem Group.setS_keeps (g : Group) (i : Nat) (y : DWord) :
    ∃ v s p gens, g.setS i y = { g with v := v, s := s, p := p, gens := gens } := by
  unfold Group.setS
  split
  · exact ⟨_, _, _, _, rfl⟩
  · exact ⟨_, _, _, _, rfl⟩

theorem Group.setP_keeps (g : Group) (i : Nat) (m y : LaneMask) :
    ∃ v s p gens, g.setP i m y = { g with v := v, s := s, p := p, gens := gens } := by
  unfold Group.setP
  split
  · exact ⟨_, _, _, _, rfl⟩
  · exact ⟨_, _, _, _, rfl⟩

theorem Group.gens_setS (g : Group) (i : Nat) (y : DWord) : (g.setS i y).gens = g.gens := by
  unfold Group.setS; split <;> rfl

theorem Group.gens_setP (g : Group) (i : Nat) (m y : LaneMask) : (g.setP i m y).gens = g.gens := by
  unfold Group.setP; split <;> rfl

/-- The registers of a group after a scalar result. -/
theorem registers_scal {d : BitVec 6} {y : DWord} (g : Group) : Registers (Change.scal d y) g (g.setS d.toNat y) := by
  refine ⟨fun r l _ => Group.vreg_setS g _ _ r l, fun r => ?_, fun r l _ => by rw [Group.preg_setS]; rfl, Group.gens_setS _ _ _⟩
  rw [Group.sreg_setS]
  simp only [Change.scal]
  by_cases hr : r = d.toNat ∧ d.toNat ≠ 0
  · rw [if_pos hr, if_pos hr]; rfl
  · rw [if_neg hr, if_neg hr]; rfl

/-- A scalar result. -/
theorem issue_scalar {i : Instr} {s : State} {x : Ctx} (h : Issues i s x) {effect : Ctx → Res} {d : BitVec 6}
    {y : DWord} (he : effect x = x.scalar d y) (hc : (useOf x.mode x.mmode i).chainable = false) :
    ∃ t, issue i s effect = .next t ∧ Writes i s x (Change.scal d y) t :=
  issue_writes h he (Group.setS_keeps _ _ _) (registers_scal x.g) (by rw [hc]; rfl)

/-- A mask where a test holds, lane by lane. -/
theorem foldl_bits (p : Nat → Bool) (n : Nat) : ((List.range n).foldl (fun a l => a + if p l then 2 ^ l else 0) 0) < 2 ^ n ∧
    ∀ l, l < n → ((List.range n).foldl (fun a l => a + if p l then 2 ^ l else 0) 0).testBit l = p l := by
  induction n with
  | zero => simp
  | succ n ih =>
    obtain ⟨hlt, hb⟩ := ih
    rw [List.range_succ, List.foldl_append, List.foldl_cons, List.foldl_nil]
    generalize (List.range n).foldl (fun a l => a + if p l then 2 ^ l else 0) 0 = a at hlt hb ⊢
    have h2 : 2 ^ (n + 1) = 2 ^ n + 2 ^ n := by rw [Nat.pow_succ]; omega
    cases hp : p n with
    | false =>
      refine ⟨by simp only [Bool.false_eq_true, if_false]; omega, fun l hl => ?_⟩
      simp only [Bool.false_eq_true, if_false, Nat.add_zero]
      rcases Nat.lt_succ_iff_lt_or_eq.mp hl with h | h
      · exact hb l h
      · subst h; rw [hp]; exact Nat.testBit_lt_two_pow hlt
    | true =>
      refine ⟨by simp only [if_true]; omega, fun l hl => ?_⟩
      simp only [if_true]
      rw [Nat.add_comm]
      rcases Nat.lt_succ_iff_lt_or_eq.mp hl with h | h
      · rw [Nat.testBit_two_pow_add_gt h, hb l h]
      · subst h; rw [Nat.testBit_two_pow_add_eq, Nat.testBit_lt_two_pow hlt, hp]; rfl

theorem getLsbD_maskOf (p : Nat → Bool) (l : Nat) (hl : l < 32) : (maskOf p).getLsbD l = p l := by
  unfold maskOf
  rw [BitVec.getLsbD_ofNat, (foldl_bits p 32).2 l hl]
  simp [hl]

/-- The bit of a predicate after a write in the lanes of a mask. -/
theorem Group.preg_setP_bit (g : Group) (i : Nat) (m y : LaneMask) (r l : Nat) (hl : l < 32) :
    ((g.setP i m y).preg r).getLsbD l =
      if r = i ∧ i ≠ 7 ∧ m.getLsbD l = true then y.getLsbD l else (g.preg r).getLsbD l := by
  rw [Group.preg_setP]
  by_cases h : r = i ∧ i ≠ 7
  · rw [if_pos h]
    obtain ⟨rfl, h7⟩ := h
    rw [BitVec.getLsbD_or, BitVec.getLsbD_and, BitVec.getLsbD_and, BitVec.getLsbD_not]
    cases hm : m.getLsbD l <;> simp [hl, h7, -BitVec.getLsbD_eq_getElem]
  · rw [if_neg h, if_neg (fun hh => h ⟨hh.1, hh.2.1⟩)]

/-- A predicate result. -/
theorem issue_predicate {i : Instr} {s : State} {x : Ctx} (h : Issues i s x) {effect : Ctx → Res} {w : Bool} {d : BitVec 3}
    {f : Nat → Bool} (he : effect x = x.predicate w d f) (hc : (useOf x.mode x.mmode i).chainable = true) :
    ∃ t, issue i s effect = .next t ∧ Writes i s x (Change.pred x w d f) t := by
  have he' : effect x = .done (x.s.updCur x.c fun g => if w then g else g.setP d.toNat x.act (maskOf f))
      ((List.range 32).map fun l =>
        if x.act.getLsbD l then BitVec.ofNat 32 (b2n (f l))
        else if w then 0 else BitVec.ofNat 32 (b2n ((x.g.preg d.toNat).getLsbD l))) := by
    rw [he]
    cases w with
    | true => simp only [Ctx.predicate, if_true, State.updCur_id]
    | false => rfl
  have hb : ∀ b : Bool, (if b then (1 : Word) else 0) = BitVec.ofNat 32 (b2n b) := by decide
  refine issue_writes h he' ?_ ⟨?_, ?_, ?_, ?_⟩ ?_
  · cases w with
    | true => exact ⟨_, _, _, _, rfl⟩
    | false => exact Group.setP_keeps _ _ _ _
  · intro r l _
    cases w with
    | true => rfl
    | false => exact Group.vreg_setP _ _ _ _ r l
  · intro r
    cases w with
    | true => rfl
    | false => exact Group.sreg_setP _ _ _ _ r
  · intro r l hl
    cases w with
    | true => simp [Change.pred]
    | false =>
      simp only [Bool.false_eq_true, if_false]
      rw [Group.preg_setP_bit _ _ _ _ _ _ hl, getLsbD_maskOf _ _ hl]
      simp only [Change.pred, and_true]
      by_cases hh : r = d.toNat ∧ d.toNat ≠ 7 ∧ x.act.getLsbD l = true
      · rw [if_pos hh, if_pos hh]; rfl
      · rw [if_neg hh, if_neg hh]; rfl
  · cases w with
    | true => rfl
    | false => exact Group.gens_setP _ _ _ _
  · rw [hc]
    simp only [Change.pred, if_true, hb]

/-- An instruction that changes nothing but the PC. -/
theorem issue_nothing {i : Instr} {s : State} {x : Ctx} (h : Issues i s x) {effect : Ctx → Res} (he : effect x = x.nothing)
    (hc : (useOf x.mode x.mmode i).chainable = false) :
    ∃ t, issue i s effect = .next t ∧ Writes i s x {} t := by
  have he' : effect x = .done (x.s.updCur x.c fun g => g) [] := by rw [he, State.updCur_id]; rfl
  exact issue_writes h he' ⟨_, _, _, _, rfl⟩ ⟨fun _ _ _ => rfl, fun _ => rfl, fun _ _ _ => rfl, rfl⟩ (by rw [hc]; rfl)

/-- A vector result that takes generator values. -/
theorem issue_lanewiseGen {i : Instr} {s : State} {x : Ctx} (h : Issues i s x) {effect : Ctx → Res} {w : Bool} {d : BitVec 7}
    {f : Nat → Word → Word × Word} (he : effect x = x.lanewiseGen w d f) (hc : (useOf x.mode x.mmode i).chainable = true) :
    ∃ t, issue i s effect = .next t ∧ Writes i s x (Change.vecGen x w d f) t := by
  have hn : ∀ l, l < 32 → nth (0, 0) ((List.range 32).map fun l => f l (nth 0 x.g.gens l)) l = f l (nth 0 x.g.gens l) :=
    fun l hl => nth_map_range _ _ 32 l hl
  have hgen : ((List.range 32).map fun l => if x.act.getLsbD l
      then (nth (0, 0) ((List.range 32).map fun l => f l (nth 0 x.g.gens l)) l).2 else nth 0 x.g.gens l) =
      (List.range 32).map fun l => if x.act.getLsbD l then (f l (nth 0 x.g.gens l)).2 else nth 0 x.g.gens l := by
    apply List.map_congr_left
    intro l hl
    simp only [hn l (List.mem_range.mp hl)]
  have hlat : latchLanes x.g w d.toNat x.act
      (fun l => (nth (0, 0) ((List.range 32).map fun l => f l (nth 0 x.g.gens l)) l).1) =
      latchLanes x.g w d.toNat x.act fun l => (f l (nth 0 x.g.gens l)).1 := by
    unfold latchLanes
    apply List.map_congr_left
    intro l hl
    simp only [hn l (List.mem_range.mp hl)]
  have hset : ∀ g : Group, g.setLanes d.toNat x.act
      (fun l => (nth (0, 0) ((List.range 32).map fun l => f l (nth 0 x.g.gens l)) l).1) =
      g.setLanes d.toNat x.act fun l => (f l (nth 0 x.g.gens l)).1 := by
    intro g
    unfold Group.setLanes
    congr 2
    apply List.map_congr_left
    intro l hl
    simp only [hn l ((mem_lanesOf _ _).mp hl).1]
  have he' : effect x = .done (x.s.updCur x.c fun g =>
      let g := { g with gens := (List.range 32).map fun l =>
        if x.act.getLsbD l then (f l (nth 0 x.g.gens l)).2 else nth 0 x.g.gens l }
      if w then g else g.setLanes d.toNat x.act fun l => (f l (nth 0 x.g.gens l)).1)
      (latchLanes x.g w d.toNat x.act fun l => (f l (nth 0 x.g.gens l)).1) := by
    rw [he]
    simp only [Ctx.lanewiseGen, hgen, hlat, hset]
  refine issue_writes h he' ?_ ?_ ?_
  · cases w with
    | true => exact ⟨_, _, _, _, rfl⟩
    | false => exact ⟨_, _, _, _, rfl⟩
  · obtain ⟨hv, hs, hp, -⟩ := registers_vec (x := x) (w := w) (d := d) (m := x.act) (chain := true)
      (f := fun l => (f l (nth 0 x.g.gens l)).1)
      { x.g with gens := (List.range 32).map fun l => if x.act.getLsbD l then (f l (nth 0 x.g.gens l)).2 else nth 0 x.g.gens l }
    refine ⟨hv, hs, hp, ?_⟩
    cases w <;> rfl
  · rw [hc]; rfl

/-- A vector or scalar result with p6 beside it. -/
theorem issue_status {i : Instr} {s : State} {x : Ctx} (h : Issues i s x) {effect : Ctx → Res} {f : Group → Group}
    {lat : List Word} {has : Nat → Bool} (he : effect x = (Res.done (x.s.updCur x.c f) lat).withStatus x has) {ch : Change}
    (hf : ∃ v s p gens, f x.g = { x.g with v := v, s := s, p := p, gens := gens })
    (hr : Registers ch x.g (f x.g)) (hp : ∀ r l, ch.p r l = none)
    (hl : ch.lat = if (useOf x.mode x.mmode i).chainable then some lat else none)
    (hid : ∀ g, (f g).gid = g.gid) :
    ∃ t, issue i s effect = .next t ∧ Writes i s x (ch.status x has) t := by
  have he' : effect x = .done (x.s.updCur x.c fun g => (f g).setP 6 x.act (maskOf has)) lat := by
    rw [he]
    show Res.done (x.setStatus (x.s.updCur x.c f) x.act (maskOf has)) lat = _
    unfold Ctx.setStatus
    rw [State.updCur_updCur x.s x.c f _ fun g hg => (hid g).trans hg]
  refine issue_writes h he' ?_ ?_ hl
  · obtain ⟨v, sc, p, gens, hf⟩ := hf
    obtain ⟨v', s', p', gens', hk⟩ := Group.setP_keeps (f x.g) 6 x.act (maskOf has)
    exact ⟨v', s', p', gens', by rw [hk, hf]⟩
  · obtain ⟨h1, h2, h3, h4⟩ := hr
    refine ⟨fun r l hl => ?_, fun r => ?_, fun r l hl => ?_, ?_⟩
    · rw [Group.vreg_setP]; exact h1 r l hl
    · rw [Group.sreg_setP]; exact h2 r
    · rw [Group.preg_setP_bit _ _ _ _ _ _ hl, getLsbD_maskOf _ _ hl]
      have := h3 r l hl
      rw [hp r l] at this
      simp only [Change.status]
      by_cases hh : r = 6 ∧ x.act.getLsbD l = true
      · rw [if_pos ⟨hh.1, by decide, hh.2⟩, if_pos hh]; rfl
      · rw [if_neg (fun hk => hh ⟨hk.1, hk.2.2⟩), if_neg hh]; exact this
    · rw [Group.gens_setP]; exact h4

/-- An instruction that changes its group and goes on. -/
theorem issue_does {i : Instr} {s : State} {x : Ctx} (h : Issues i s x) {effect : Ctx → Res} {f : Group → Group}
    (he : effect x = .done (x.s.updCur x.c f) []) (hc : (useOf x.mode x.mmode i).chainable = false)
    (hchain : ∀ g ch, f { g with chain := ch } = { f g with chain := ch })
    (hkeep : ∀ g, (f g).gid = g.gid ∧ (f g).splits = g.splits ∧ (f g).bad = g.bad) :
    ∃ t, issue i s effect = .next t ∧ Does i s x f t := by
  obtain ⟨g, ho⟩ := h.1.of
  obtain ⟨c0, hg⟩ := ho.group
  refine ⟨_, by rw [issue_of_issues h, he], ?_⟩
  have hgid : (f x.g).gid = x.c.gid := (hkeep _).1.trans ho.gid
  have ht : x.retire i (x.s.updCur x.c f) [] = s.updCur x.c fun _ => x.retired i [] (f x.g) := by
    unfold Ctx.retire
    rw [ho.updCur, State.updCur_updCur s x.c _ _ fun _ _ => hgid]
    rfl
  rw [ht]
  refine OnlyGroup.of_updCur (fun _ => x.retired i [] (f x.g)) (fun _ _ => hgid) ho.blk ho.grp _ ?_
  have hsplits : (f x.g).splits = g.splits := by rw [(hkeep _).2.1, hg]
  have hsplit : (f x.g).split? x.c.age = some x.p := by
    show (f x.g).splits.find? _ = _
    rw [hsplits]; exact ho.spl
  refine ⟨⟨(x.retired i [] (f x.g)).splits, (x.retired i [] (f x.g)).bad, ?_⟩, ⟨fun m hm => ?_, x.p, _, ho.spl,
    Group.split?_updSplit_self _ (fun _ h => h) hsplit, rfl, rfl, rfl, rfl, rfl, rfl, rfl, rfl⟩, ?_⟩
  · have : x.chainAfter (useOf x.mode x.mmode i) [] = none := by unfold Ctx.chainAfter; rw [hc]; rfl
    rw [hg, hchain]
    simp only [Ctx.retired, this]
    rfl
  · refine (Group.split?_updSplit_ne (f x.g) (a := x.c.age) (fun p : Split =>
      { p with pc := x.p.pc + 4, readyAt := x.now, walked := x.walkedAfter i, inval := [], early := [], qage := 0, again := none, wait := .none })
      (fun _ h => h) hm).trans ?_
    show (f x.g).splits.find? _ = g.splits.find? _
    rw [hsplits]
  · show (useOf x.mode x.mmode i).mend (f x.g).bad = _
    rw [(hkeep _).2.2, hg]

/-! ## Which instructions open a chain -/

@[simp] theorem Use.chainable_src (u : Use) (a : Src) : (u.src a).chainable = u.chainable := by cases a <;> rfl
@[simp] theorem Use.chainable_vsrc (u : Use) (r n : Nat) : (u.vsrc r n).chainable = u.chainable := rfl
@[simp] theorem Use.chainable_vdst (u : Use) (r n : Nat) : (u.vdst r n).chainable = u.chainable := rfl
@[simp] theorem Use.chainable_ssrc (u : Use) (l : List Nat) : (u.ssrc l).chainable = u.chainable := rfl
@[simp] theorem Use.chainable_sdst (u : Use) (d : BitVec 6) : (u.sdst d).chainable = u.chainable := rfl
@[simp] theorem Use.chainable_addr (u : Use) (a : AddrRef) : (u.addr a).chainable = u.chainable := by cases a <;> rfl
@[simp] theorem Use.chainable_tile (u : Use) (a : TileRef) : (u.tile a).chainable = u.chainable := by cases a <;> rfl
@[simp] theorem Use.chainable_wdst (u : Use) (w : Bool) (d : BitVec 7) : (u.wdst w d).chainable = u.chainable := by
  cases w <;> rfl
@[simp] theorem Use.chainable_pdst (u : Use) (w : Bool) (d : BitVec 3) : (u.pdst w d).chainable = u.chainable := by
  cases w <;> rfl
@[simp] theorem Use.chainable_base (u : Use) (sp : Space) (a : Src) : (u.base sp a).chainable = u.chainable := by
  cases sp <;> cases a <;> rfl
@[simp] theorem Use.chainable_chain : Use.chain.chainable = true := rfl
@[simp] theorem Use.chainable_plain : Use.plain.chainable = false := rfl
@[simp] theorem Use.chainable_two (w : Bool) (d : BitVec 7) (a b : Src) : (Use.two w d a b).chainable = true := by
  simp [Use.two]
@[simp] theorem Use.chainable_one (w : Bool) (d : BitVec 7) (a : Src) : (Use.one w d a).chainable = true := by simp [Use.one]
@[simp] theorem Use.chainable_sss (d a b : BitVec 6) : (Use.sss d a b).chainable = false := rfl

/-! ## The builders as results of `exec` -/

/-- A vector result. -/
theorem Gives.vector {i : Instr} {s : State} {effect : Ctx → Res} {w : Bool} {d : BitVec 7} {chain : Bool}
    {m : Ctx → LaneMask} {f : Ctx → Nat → Word} (hx : exec i s = issue i s effect)
    (he : ∀ x, effect x = x.vector w d (m x) (f x)) (hc : ∀ mode mmode, (useOf mode mmode i).chainable = chain) :
    Gives i s fun x => .vec x w d (m x) chain (f x) := by
  intro x h
  rw [hx, ← hc x.mode x.mmode]
  exact issue_vector h (he x)

/-- A scalar result. -/
theorem Gives.scalar {i : Instr} {s : State} {effect : Ctx → Res} {d : BitVec 6} {y : Ctx → DWord}
    (hx : exec i s = issue i s effect) (he : ∀ x, effect x = x.scalar d (y x))
    (hc : ∀ mode mmode, (useOf mode mmode i).chainable = false) : Gives i s fun x => .scal d (y x) := by
  intro x h
  rw [hx]
  exact issue_scalar h (he x) (hc _ _)

/-- A predicate result. -/
theorem Gives.predicate {i : Instr} {s : State} {effect : Ctx → Res} {w : Bool} {d : BitVec 3} {f : Ctx → Nat → Bool}
    (hx : exec i s = issue i s effect) (he : ∀ x, effect x = x.predicate w d (f x))
    (hc : ∀ mode mmode, (useOf mode mmode i).chainable = true) : Gives i s fun x => .pred x w d (f x) := by
  intro x h
  rw [hx]
  exact issue_predicate h (he x) (hc _ _)

/-- Only the PC. -/
theorem Gives.nothing {i : Instr} {s : State} {effect : Ctx → Res} (hx : exec i s = issue i s effect)
    (he : ∀ x, effect x = x.nothing) (hc : ∀ mode mmode, (useOf mode mmode i).chainable = false) :
    Gives i s fun _ => {} := by
  intro x h
  rw [hx]
  exact issue_nothing h (he x) (hc _ _)

end Sys2Proof.Machine
end

