-- ==== Sys2Proof/Tests/Slice0.lean ====
section
/-!
SUPPORT. Tests and witnesses: words written out from the encodings of spec/opcode_table.json and R85, terms that `Instr.wf`
refuses, values from the worked examples of the spec, and for every statement with hypotheses a small state that meets them.
-/
set_option Elab.async false
namespace Sys2Proof.Tests
open Sys2Proof.Machine

/-! ## Words -/

/-- The words decode to the instructions beside them. -/
def decodesAll (l : List (Nat × Instr)) : Bool := l.all fun p => decodeTableWord 32 p.1 == some p.2

/-- Words of row 0x0 of R85, each field at a value of its own, and what they stand for. -/
def wordsRow0 : List (Nat × Instr) :=
  [(0x01000000, .nop),
   (0x02000000, .exit),
   (0x03000078, .trap 120),
   (0x0400009D, .brk 157),
   (0x05000000, .yield),
   (0x062300E7, .srd 35 231),
   (0x0708010C, .swr 8 268),
   (0x082DF331, .grow 45 51 49),
   (0x09000000, .detach),
   (0x0A000000, .attach)] ++
  [(0x0B1C00A0, .racq 28 160),
   (0x0C0100C5, .rrel 1 197),
   (0x0D000000, .tret)]

theorem test_words_row0 : decodesAll wordsRow0 = true := by decide +kernel

/-- Words of row 0x1 of R85, each field at a value of its own, and what they stand for. -/
def wordsRow1 : List (Nat × Instr) :=
  [(0x100BCF86, .add false 11 (.s 15) (.latch 6)),
   (0x11801E88, .sub true 0 (.v 30) .laneid),
   (0x12558089, .mul false 85 (.latch 0) .glane),
   (0x138088D2, .mulhi true 0 .laneid (.s 18)),
   (0x141F8926, .mad false 31 .glane (.v 38)),
   (0x1580D483, .min true 0 (.s 20) (.latch 3)),
   (0x16692888, .max false 105 (.v 40) .laneid),
   (0x17808589, .and true 0 (.latch 5) .glane),
   (0x183388D7, .or false 51 .laneid (.s 23)),
   (0x19808930, .xor true 0 .glane (.v 48))] ++
  [(0x1A7DD980, .andn false 125 (.s 25) (.latch 0)),
   (0x1B803288, .shl true 0 (.v 50) .laneid),
   (0x1C478289, .shr false 71 (.latch 2) .glane),
   (0x1D8088DC, .sar true 0 .laneid (.s 28)),
   (0x1E11893A, .rotl false 17 .glane (.v 58)),
   (0x1F80DE85, .sad true 0 (.s 30) (.latch 5))]

theorem test_words_row1 : decodesAll wordsRow1 = true := by decide +kernel

/-- Words of row 0x2 of R85, each field at a value of its own, and what they stand for. -/
def wordsRow2 : List (Nat × Instr) :=
  [(0x205B3C5F, .addi false 91 (.v 60) 95),
   (0x21808784, .andi true 0 (.latch 7) 132),
   (0x222588A9, .ori false 37 .laneid 169),
   (0x238089CE, .xori true 0 .glane 206),
   (0x246FE313, .shli false 111 (.s 35) 19),
   (0x25804618, .shri true 0 (.v 70) 24),
   (0x2639841D, .sari false 57 (.latch 4) 29),
   (0x27800562, .movi true 0 1378),
   (0x28030587, .movhi false 3 1415),
   (0x2980E800, .popc true 0 (.s 40))] ++
  [(0x2A4D5000, .clz false 77 (.v 80)),
   (0x2B808100, .brev true 0 (.latch 1)),
   (0x2C1788EB, .bfx false 23 .laneid (.s 43)),
   (0x2D808958, .bfi true 0 .glane (.v 88)),
   (0x2E61ED84, .prmt false 97 (.s 45) (.latch 4)),
   (0x2F805A00, .abs true 0 (.v 90))]

theorem test_words_row2 : decodesAll wordsRow2 = true := by decide +kernel

/-- Words of row 0x3 of R85, each field at a value of its own, and what they stand for. -/
def wordsRow3 : List (Nat × Instr) :=
  [(0x30038689, .cmpeq false 3 (.latch 6) .glane),
   (0x318088F0, .cmpne true 0 .laneid (.s 48)),
   (0x32058962, .cmplt false 5 .glane (.v 98)),
   (0x3380F281, .cmple true 0 (.s 50) (.latch 1)),
   (0x34076488, .cmpgt false 7 (.v 100) .laneid),
   (0x35808389, .cmpge true 0 (.latch 3) .glane),
   (0x360188F5, .cmpun false 1 .laneid (.s 53)),
   (0x3780896C, .sel true 0 .glane (.v 108)),
   (0x3853F700, .mov false 83 (.s 55)),
   (0x39787E88, .movix 120 126 .laneid)] ++
  [(0x3A1D2389, .stix 29 35 .glane),
   (0x3B800003, .pand true 0 0 3),
   (0x3C070500, .por false 7 5 0),
   (0x3D800205, .pxor true 0 2 5),
   (0x3E010700, .pnot false 1 7),
   (0x3F808500, .pset true 0 (.latch 5))]

theorem test_words_row3 : decodesAll wordsRow3 = true := by decide +kernel

/-- Words of row 0x4 of R85, each field at a value of its own, and what they stand for. -/
def wordsRow4 : List (Nat × Instr) :=
  [(0x407B88FF, .fadd false 123 .laneid (.s 63)),
   (0x41808908, .fsub true 0 .glane (.v 8)),
   (0x4245C280, .fmul false 69 (.s 2) (.latch 0)),
   (0x43800A88, .fma true 0 (.v 10) .laneid),
   (0x440F8289, .fms false 15 (.latch 2) .glane),
   (0x458088C5, .fnma true 0 .laneid (.s 5)),
   (0x46598912, .fmin false 89 .glane (.v 18)),
   (0x4780C785, .fmax true 0 (.s 7) (.latch 5)),
   (0x48231400, .fabs false 35 (.v 20)),
   (0x49808700, .fneg true 0 (.latch 7))] ++
  [(0x4A6D88CA, .fdiv 109 .laneid (.s 10)),
   (0x4B128900, .fsqrt 18 .glane),
   (0x4C37CC00, .frcp 55 (.s 12)),
   (0x4D5C1E00, .frsq 92 (.v 30)),
   (0x4E012000, .fexp2 1 (.v 32)),
   (0x4F268800, .flog2 38 .laneid)]

theorem test_words_row4 : decodesAll wordsRow4 = true := by decide +kernel

/-- Words of row 0x5 of R85, each field at a value of its own, and what they stand for. -/
def wordsRow5 : List (Nat × Instr) :=
  [(0x504B8909, .cvt false 75 .glane 9),
   (0x5180D187, .cvtpk true 0 (.s 17) (.latch 7)),
   (0x52152801, .cvtup false 21 (.v 40) 1),
   (0x53808100, .frnd true 0 (.latch 1)),
   (0x545F8800, .fclass false 95 .laneid),
   (0x55808930, .fldexp true 0 .glane (.v 48)),
   (0x5629D600, .frexp false 41 (.s 22))]

theorem test_words_row5 : decodesAll wordsRow5 = true := by decide +kernel

/-- Words of row 0x6 of R85, each field at a value of its own, and what they stand for. -/
def wordsRow6 : List (Nat × Instr) :=
  [(0x60803288, .shfl true 0 (.v 50) .laneid),
   (0x61738689, .shflup false 115 (.latch 6) .glane),
   (0x628088D9, .shfldn true 0 .laneid (.s 25)),
   (0x633D893A, .shflx false 61 .glane (.v 58)),
   (0x6422DB00, .vall 34 (.s 27)),
   (0x65073C00, .vany 7 (.v 60)),
   (0x662C3E00, .ballot 44 (.v 62)),
   (0x67118800, .redadd 17 .laneid),
   (0x68368900, .redmin 54 .glane),
   (0x691BE000, .redmax 27 (.s 32))] ++
  [(0x6A4046D1, .scan 64 (.v 70) 17),
   (0x6B654800, .lanes 101 (.v 72)),
   (0x6C0A88DB, .bcast 10 .laneid 27),
   (0x6D2F89C0, .vtos 47 .glane 0)]

theorem test_words_row6 : decodesAll wordsRow6 = true := by decide +kernel

/-- Words of row 0x7 of R85, each field at a value of its own, and what they stand for. -/
def wordsRow7 : List (Nat × Instr) :=
  [(0x70FFFF8D, .bra 0xffff8d),
   (0x71790E7D, .call 121 3709),
   (0x72005200, .ret (.v 82)),
   (0x73008800, .jmpi .laneid),
   (0x74FFFF89, .brau 0xffff89),
   (0x75FFFF88, .brany 0xffff88),
   (0x76000F36, .setmode 3894),
   (0x77000F5B, .setmmode 3931),
   (0x7800C200, .setgang 2),
   (0x79000000, .splitsync)]

theorem test_words_row7 : decodesAll wordsRow7 = true := by decide +kernel

/-- Words of row 0x8 of R85, each field at a value of its own, and what they stand for. -/
def wordsRow8 : List (Nat × Instr) :=
  [(0x8046EF8A, .ld8 70 (.s 47) .act 10),
   (0x816B64AF, .ld16 107 (.v 100) .acc 15),
   (0x821066D4, .ld32 16 (.v 102) .par 20),
   (0x836A6819, .ld64 53 (.v 104) .glb 25),
   (0x84686A3E, .ld128 26 (.v 106) .scr 30),
   (0x856CF443, .st8 108 (.s 52) .clu 3),
   (0x866E6E68, .st16 110 (.v 110) .wgt 8),
   (0x8770708D, .st32 112 (.v 112) .act 13),
   (0x887272B2, .st64 114 (.v 114) .acc 18),
   (0x897464D7, .st128 116 25 .par 23)] ++
  [(0x8A00F91C, .pref (.s 57) .glb 28),
   (0x8B1D0021, .ldu 29 (.v 0) .scr 1),
   (0x8C000000, .fence),
   (0x8D000000, .fencei),
   (0x8E4C0690, .ld8s 76 (.v 6) .act 16),
   (0x8F71FEB5, .ld16s 113 (.s 62) .acc 21)]

theorem test_words_row8 : decodesAll wordsRow8 = true := by decide +kernel

/-- Words of row 0x9 of R85, each field at a value of its own, and what they stand for. -/
def wordsRow9 : List (Nat × Instr) :=
  [(0x90167A88, .aadd 22 (.vpair 61) .laneid),
   (0x913BFE89, .amin 59 (.s 62) .glane),
   (0x92607EC2, .amax 96 (.vpair 63) (.s 2)),
   (0x9305C012, .aand 5 (.s 0) (.v 18)),
   (0x942A0214, .aor 42 (.vpair 1) (.v 20)),
   (0x954FC288, .axor 79 (.s 2) .laneid),
   (0x96740689, .axchg 116 (.vpair 3) .glane),
   (0x9719C4C7, .acas 25 (.s 4) (.s 7)),
   (0x983E0A1C, .afadd 62 (.vpair 5) (.v 28)),
   (0x9900C61E, .radd (.s 6) (.v 30))] ++
  [(0x9A000E88, .rmin (.vpair 7) .laneid),
   (0x9B00C889, .rmax (.s 8) .glane),
   (0x9C0012CC, .rfadd (.vpair 9) (.s 12)),
   (0x9D00FD00, .lock 61),
   (0x9E00E200, .unlock 34)]

theorem test_words_row9 : decodesAll wordsRow9 = true := by decide +kernel

/-- Words of row 0xA of R85, each field at a value of its own, and what they stand for. -/
def wordsRowA : List (Nat × Instr) :=
  [(0xA001CEE4, .copy 1 7 18),
   (0xA126D8EE, .copym 38 12 23),
   (0xA20B0000, .bclose 11),
   (0xA300F600, .bwait 54),
   (0xA400DBE6, .barinit 27 38),
   (0xA53AC0CB, .bararr 58 0 11),
   (0xA600E5F0, .barwait 37 48),
   (0xA700CAD5, .barexp 10 21),
   (0xA800EFFA, .barcont 47 58),
   (0xA90ED4DF, .bartry 14 20 31)] ++
  [(0xAA00F9C4, .remarr 57 4),
   (0xAB000000, .bsync)]

theorem test_words_rowA : decodesAll wordsRowA = true := by decide +kernel

/-- Words of row 0xB of R85, each field at a value of its own, and what they stand for. -/
def wordsRowB : List (Nat × Instr) :=
  [(0xB03AFA20, .mma 29 (.buf 29) (.reg 32)),
   (0xB10421FC, .mmaz 2 (.reg 33) (.buf 30)),
   (0xB2070000, .mfence 7),
   (0xB300F200, .mwait 50),
   (0xB411EE00, .tld 17 23),
   (0xB500F847, .tst 28 71),
   (0xB65BC200, .thdr 91 1),
   (0xB7002700, .tchk 0 (.reg 39)),
   (0xB825CC28, .hadq 37 (.buf 6) (.reg 40)),
   (0xB90029CE, .transq (.reg 41) (.buf 7))] ++
  [(0xBA00D02A, .cvtt (.buf 8) (.reg 42)),
   (0xBB00DAD2, .tfill 26 (.buf 9)),
   (0xBC000000, .mwake)]

theorem test_words_rowB : decodesAll wordsRowB = true := by decide +kernel

/-- Words of row 0xC of R85, each field at a value of its own, and what they stand for. -/
def wordsRowC : List (Nat × Instr) :=
  [(0xC01EE4DE, .qopen 30 36 15),
   (0xC103C9D4, .qrsv 3 9 20),
   (0xC200EE39, .qput 46 57),
   (0xC300D3DE, .qputs 19 30),
   (0xC472F800, .qget 114 56),
   (0xC517DDE8, .qgets 23 29 40),
   (0xC63CC200, .qtry 60 2),
   (0xC721E700, .qpeek 33 39),
   (0xC800CC00, .qclose 12),
   (0xC9000000, .qfence)] ++
  [(0xCA000000, .qack),
   (0xCB00FB0C, .qsvc 59 6),
   (0xCC00E02B, .emit 32 43)]

theorem test_words_rowC : decodesAll wordsRowC = true := by decide +kernel

/-- Words of row 0xD of R85, each field at a value of its own, and what they stand for. -/
def wordsRowD : List (Nat × Instr) :=
  [(0xD000C5D0, .tlbinv 5 16),
   (0xD124EAF5, .lrload 36 42 53),
   (0xD200CF00, .lrinv 15),
   (0xD300E8FF, .wsub 20 63),
   (0xD400D900, .wunsub 25),
   (0xD500FE00, .wflush 62),
   (0xD61DE3EE, .qxsetDropVqn 29 35 46)]

theorem test_words_rowD : decodesAll wordsRowD = true := by decide +kernel

/-- Words of row 0xE of R85, each field at a value of its own, and what they stand for. -/
def wordsRowE : List (Nat × Instr) :=
  [(0xE002C8D3, .sadd 2 8 19),
   (0xE127EDF8, .ssub 39 45 56),
   (0xE20CD2DD, .smul 12 18 29),
   (0xE331F7C2, .sand 49 55 2),
   (0xE416DCE7, .sor 22 28 39),
   (0xE53BC1CC, .sxor 59 1 12),
   (0xE620E6F1, .sshl 32 38 49),
   (0xE705CBD6, .sshr 5 11 22),
   (0xE82AF0FB, .ssar 42 48 59),
   (0xE90FD513, .saddi 15 21 19)] ++
  [(0xEA341C38, .smovi 52 7224),
   (0xEB191C5D, .smovhi 25 7261),
   (0xEC3EC4CF, .scmplt 62 4 15),
   (0xED23E9F4, .scmpeq 35 41 52),
   (0xEE08CED9, .smin 8 14 25),
   (0xEF2DF3FE, .smax 45 51 62)]

theorem test_words_rowE : decodesAll wordsRowE = true := by decide +kernel

/-- Words of row 0xF of R85, each field at a value of its own, and what they stand for. -/
def wordsRowF : List (Nat × Instr) :=
  [(0xF012D800, .crd 18 24),
   (0xF137FDC8, .cwait 55 61 8),
   (0xF21CE200, .eres 28 34),
   (0xF301C700, .erel 1 7),
   (0xF426EC00, .eqry 38 44)]

theorem test_words_rowF : decodesAll wordsRowF = true := by decide +kernel

/-- R86: the OP values that are no instruction, whatever the other bits hold. -/
theorem test_reserved_ops : ([0x00, 0x0E, 0x57, 0x5F, 0x6E, 0x7A, 0x9F, 0xAC, 0xBD, 0xCD, 0xD7, 0xDF, 0xF5, 0xFF].all fun op =>
    decodeTableWord 32 (op * 2 ^ 24 + 0x123456) == some (.illegalInstruction (BitVec.ofNat 32 (op * 2 ^ 24 + 0x123456)))) = true := by
  decide +kernel

/-- Words that raise ILLEGAL-OPERAND: an unused field (R71), W without a chainable instruction or with D (R72), a reserved source,
a vector in a scalar field (R73), D<6> of a scalar and D<6:3> of a predicate (R74), A<7:3> of `pand` (R75), B of `popc` (R76), a
latch in `movix` (R80), space 7 (R89), an odd base in `glb` (R222), K of `cvt` (R171). -/
theorem test_rejected_words : ([0x01000001, 0x39810203, 0x10810203, 0x10018A02, 0xE0010202, 0xE041C1C2, 0x3008C1C2, 0x3B010801,
    0x29010201, 0x39010280, 0x820702E3, 0x82070300, 0x50010220, 0x5001020C].all fun w => decodeTableWord 32 w == none) = true := by
  decide +kernel

/-- The words that the spec itself writes out (R84, R89, R92). -/
theorem test_spec_words : decodesAll [(0x420A0102, .fmul false 10 (.v 1) (.v 2)), (0x40808003, .fadd true 0 (.latch 0) (.v 3)),
    (0x410C8081, .fsub false 12 (.latch 0) (.latch 1)), (0x87148000, .st32 20 (.latch 0) .glb 0), (0x82070223, .ld32 7 (.v 2) .scr 3),
    (0x70000020, .bra 32), (0x70FFFFF0, .bra (BitVec.ofInt 24 (-16))), (0x2703FFFE, .movi false 3 (BitVec.ofInt 16 (-2))),
    (0x76000027, .setmode 0x27), (0x100501C3, .add false 5 (.v 1) (.s 3))] = true := by decide +kernel

/-- Well-formedness refuses: W = 1 with D ≠ 0 (R72), a latch where none may stand (R80), an odd register pair or a lane constant
as a base in `glb` (R222), an odd base of a store in `glb`, an odd register or a lane constant as the data of `st64` (R256), a type
of `cvt` above 11 (R171). -/
theorem test_ill_formed : ([Instr.add true 1 (.v 2) (.v 3), .movi true 1 0, .cmpeq true 1 (.v 2) (.v 3), .fabs true 1 (.v 2),
    .movix 1 2 (.latch 0), .stix 1 2 (.latch 0), .fdiv 1 (.latch 0) (.v 2), .fdiv 1 (.v 2) (.latch 0), .fsqrt 1 (.latch 0), .vall 1 (.latch 0),
    .scan 1 (.latch 0) 2, .bcast 1 (.latch 0) 2, .lanes 1 (.latch 0), .vtos 1 (.latch 0) 2, .ret (.latch 0), .jmpi (.latch 0),
    .ld32 1 (.v 3) .glb 0, .ld64 1 .laneid .glb 0, .ldu 1 (.latch 0) .glb 0, .pref (.latch 0) .scr 0, .pref (.v 3) .glb 0,
    .st32 3 (.v 1) .glb 0, .st128 3 1 .glb 0, .st64 2 (.v 3) .scr 0, .st64 2 .glane .scr 0, .cvt false 1 (.v 2) 12].all fun i =>
    i.wf == false) = true := by decide +kernel


/-! ## Witnesses: states in which the hypotheses of the statements hold

Each theorem names a state and operands; together they meet every hypothesis of the statement that its comment names. -/

/-- The group of `State.withFetchWord`: 32 lanes, 128 registers, MODE 7, s2 all ones. -/
def g0 : Group := newGroup 0 0 0 32 128 4096 7 0 [(2, BitVec.allOnes 64)] 0

/-- Its only split. -/
def p0 : Split :=
  { age := 0, pc := 4096, mask := BitVec.allOnes 32, mode := 7, mmode := 0, gang := 0, live := true, since := 0, readyAt := 0,
    wait := .none, waitT := 0, qdone := 0, qage := 0, again := none, handler := false, stop := false, owed := [], owedTurns := 0,
    walked := [], inval := [], early := [] }

/-- The state of `State.withFetchWord` with another launch and block, in which split 0 of group 0 of block 0 issues. -/
def machine (l : Launch) (b : Block) : State :=
  { State.reset.withFetchWord 32 0 with launches := [l], blocks := [b], cur := some ⟨0, 0, 0⟩ }

/-- One block with one group. -/
def onGroup (g : Group) : State := machine probeLaunch { probeBlock with groups := [g] }

/-- One group whose only split stands under a MODE and an MMODE. -/
def inMode (mode : BitVec 16) (mmode : BitVec 10) : State := onGroup { g0 with splits := [{ p0 with mode := mode, mmode := mmode }] }

/-- The group with scalars. -/
def withS (l : List (Nat × DWord)) : Group := { g0 with s := Sparse.putAll g0.s l }

/-- The instruction issues at the state, in a context of which `p` holds. -/
def meets (i : Instr) (s : State) (p : Ctx → Bool) : Bool :=
  match s.ctx? i with
  | none => false
  | some x => (x.check i).isNone && !x.pending i && (x.badRegister i).isNone && p x

/-- What `meets` computes is the hypothesis of the statements. -/
theorem issues_of_meets {i : Instr} {s : State} {p : Ctx → Bool} (h : meets i s p = true) : ∃ x, Issues i s x ∧ p x = true := by
  unfold meets at h
  split at h
  · cases h
  · rename_i x hx
    simp only [Bool.and_eq_true, Bool.not_eq_true', Option.isNone_iff_eq_none] at h
    exact ⟨x, ⟨hx, h.1.1.1, h.1.1.2, h.1.2⟩, h.2⟩

/-- The instructions issue at the state. -/
def allIssue (s : State) (l : List Instr) : Bool := l.all fun i => meets i s fun _ => true

theorem witness_integer_logic_immediate : allIssue (onGroup g0) [.add false 1 (.v 2) (.s 3), .sub true 0 .laneid .glane, .mul false 1 (.v 2) (.v 3),
    .mulhi false 1 (.v 2) (.v 3), .mad false 1 (.v 2) (.v 3), .min false 1 (.v 2) (.v 3), .max false 1 (.v 2) (.v 3), .sad false 127 (.v 2) (.v 3),
    .and false 1 (.v 2) (.v 3), .or false 1 (.v 2) (.v 3), .xor false 1 (.v 2) (.v 3), .andn false 1 (.v 2) (.v 3), .shl false 1 (.v 2) (.v 3),
    .shr false 1 (.v 2) (.v 3), .sar false 1 (.v 2) (.v 3), .rotl false 1 (.v 2) (.v 3), .addi false 1 (.v 2) 0x80, .andi false 1 (.v 2) 0xFF,
    .ori false 1 (.v 2) 1, .xori false 1 (.v 2) 1, .shli false 1 (.v 2) 31, .shri false 1 (.v 2) 31, .sari false 1 (.v 2) 31,
    .movi false 1 0x8000, .movhi false 1 1] = true := by decide +kernel

theorem witness_bits_predicates_select : allIssue (onGroup g0) [.popc false 1 (.v 2), .clz false 1 (.v 2), .brev false 1 (.v 2),
    .abs false 1 (.v 2), .bfx false 1 (.v 2) (.v 3), .bfi false 1 (.v 2) (.v 3), .prmt false 1 (.v 2) (.v 3), .cmpeq false 7 (.v 2) (.v 3),
    .cmpne true 0 (.v 2) (.v 3), .cmplt false 1 (.v 2) (.v 3), .cmple false 1 (.v 2) (.v 3), .cmpgt false 1 (.v 2) (.v 3), .cmpge false 1 (.v 2) (.v 3),
    .cmpun false 1 (.v 2) (.v 3), .pand false 1 2 3, .por false 1 2 7, .pxor false 1 2 3, .pnot false 1 7, .pset false 1 (.v 2),
    .sel false 1 (.v 2) (.v 3), .mov false 1 (.v 2), .call 127 0xFFFF, .nop, .yield] = true ∧
    (bitReverse 8 1 = 128 ∧ leadingZeros 32 0 = 32 ∧ leadingZeros 16 1 = 15) ∧ etFmt (etOf 0x07) = none ∧ etFmt (etOf 0x27) = some .f32 := by
  decide +kernel

/-- The index of `movix` and `stix` at the last register, and past it; the same of an uncorrectable hypothesis-free lane order. -/
theorem witness_indexed_access :
    (∀ i ∈ [Instr.movix 1 2 (.s 3), .stix 1 2 (.s 3)],
      meets i (onGroup (withS [(3, 127)])) (fun x => (lanesOf x.act).all (fun l => x.index 2 (.s 3) l < x.g.bound) &&
        !x.g.pendingOn ((lanesOf x.act).map (x.index 2 (.s 3))) [] false) = true ∧
      meets i (onGroup (withS [(3, 128)])) (fun x => x.act.getLsbD 0 && decide (x.g.bound ≤ x.index 2 (.s 3) 0)) = true ∧
      meets i (onGroup { g0 with v := Sparse.putAll [] [(32 * 2 + 1, 128)] })
        (fun x => x.act.getLsbD 1 && decide (x.g.bound ≤ x.index 2 (.s 3) 1) && decide (x.index 2 (.s 3) 0 < x.g.bound)) = true) := by
  decide +kernel

theorem witness_scalars : allIssue (onGroup g0) [.sadd 1 2 3, .ssub 1 2 3, .smul 1 2 3, .sand 1 2 3, .sor 1 2 3, .sxor 1 2 3, .sshl 1 2 3,
    .sshr 1 2 3, .ssar 1 2 3, .scmplt 1 2 3, .scmpeq 1 2 3, .smin 1 2 3, .smax 0 2 3, .saddi 1 2 0x80, .smovi 1 0x8000, .smovhi 63 1] = true := by
  decide +kernel

/-- Floating instructions in f32, and conversions in 16-bit and 8-bit types. -/
theorem witness_floats : allIssue (inMode 0x27 0) [.fadd false 1 (.v 2) (.v 3), .fsub false 1 (.v 2) (.v 3), .fmul false 1 (.v 2) (.v 3),
    .fma false 1 (.v 2) (.v 3), .fms false 1 (.v 2) (.v 3), .fnma false 1 (.v 2) (.v 3), .fldexp false 1 (.v 2) (.v 3), .frnd false 1 (.v 2),
    .fmin false 1 (.v 2) (.v 3), .fmax false 1 (.v 2) (.v 3), .fabs false 1 (.v 2), .fneg false 1 (.v 2), .fclass false 1 (.v 2),
    .frexp false 1 (.v 2)] = true ∧
    allIssue (inMode 0x47 0) [.fadd false 1 (.v 2) (.v 3), .cvtup false 1 (.v 2) 1, .cvtpk false 1 (.v 2) (.v 3), .cvt false 1 (.v 2) 3] = true ∧
    allIssue (inMode 0x97 0) [.cvtup false 1 (.v 2) 3, .cvtpk true 0 (.v 2) (.v 3), .cvt false 1 (.v 2) 7] = true := by decide +kernel

/-- A code that is no NaN. -/
theorem witness_no_nan : (match Fmt.f32.dec 0x3F800000 with | .nan _ => true | _ => false) = false := by decide +kernel

/-- The long functions with every lane, and under MODE.GP = 0, where p0 is false, with none. -/
theorem witness_long_functions : ∀ i ∈ [Instr.fdiv 1 (.v 2) (.v 3), .fsqrt 1 (.v 2), .frcp 1 (.v 2), .frsq 1 (.v 2), .fexp2 1 (.v 2), .flog2 1 (.v 2)],
    meets i (inMode 0x27 0) (fun x => x.act != 0) = true ∧ meets i (inMode 0x20 0) (fun x => x.act == 0) = true := by decide +kernel

/-- Elements, conversions and rounding at boundary values. -/
theorem witness_element_clauses : (etFmt 7 = none ∧ etFmt 8 = none ∧ etWidth 7 = etWidth 8 ∧ 255 < 2 ^ etWidth 7) ∧ (11 < 12 ∧ 3 < etCount 11) ∧
    (etWidth 6 = 16 ∧ etWidth 7 = 8) ∧ etSigned 0 = true ∧ etSigned 8 = false ∧
    Fmt.f32.lo (Q.abs ⟨1, 1⟩) < Fmt.f32.maxCode ∧ 0 ≤ Fmt.f32.maxCode := by decide +kernel

theorem witness_lane_exchange : allIssue (onGroup g0) [.shfl false 1 (.v 2) (.v 3), .shflup false 1 (.v 2) (.v 3), .shfldn false 1 (.v 2) (.v 3),
    .shflx false 1 (.v 2) (.v 3), .bcast 1 (.v 2) 3, .vtos 1 (.v 2) 3, .vall 1 (.v 2), .vany 1 (.v 2), .ballot 1 (.v 2), .lanes 1 (.v 2)] = true ∧
    ∀ i ∈ [Instr.redadd 1 (.v 2), .redmin 1 (.v 2), .redmax 1 (.v 2), .scan 1 (.v 2) 3],
      meets i (inMode 0x07 0) (fun x => !etFloat x.et && x.act != 0) = true ∧ meets i (inMode 0x00 0) (fun x => !etFloat x.et && x.act == 0) = true ∧
      meets i (inMode 0x27 0) (fun x => etFloat x.et) = true := by decide +kernel

/-- Branches; an indirect jump to aligned targets, and with lane 0 or lane 1 the first misaligned one. -/
theorem witness_control : allIssue (onGroup g0) [.bra 1, .brau 0xFFFFFF, .brany 1] = true ∧
    (∀ i ∈ [Instr.ret (.v 1), .jmpi (.v 1)],
      meets i (onGroup g0) (fun x => (lanesOf x.act).all fun l => (x.rdv (.v 1) l).toNat % 4 == 0) = true ∧
      meets i (onGroup { g0 with v := Sparse.putAll [] [(32, 2)] }) (fun x => x.act.getLsbD 0 && (x.rdv (.v 1) 0).toNat % 4 != 0) = true ∧
      meets i (onGroup { g0 with v := Sparse.putAll [] [(33, 1)] }) (fun x => x.act.getLsbD 1 && (x.rdv (.v 1) 1).toNat % 4 != 0 &&
        (x.rdv (.v 1) 0).toNat % 4 == 0) = true) ∧
    (∃ x, (onGroup { g0 with baseN := 8 }).ctx? (.call 8 0) = some x ∧ x.g.bound ≤ 8) := by
  refine ⟨by decide +kernel, by decide +kernel, ?_⟩
  have h : (((onGroup { g0 with baseN := 8 }).ctx? (.call 8 0)).any fun x => decide (x.g.bound ≤ 8)) = true := by decide +kernel
  match e : (onGroup { g0 with baseN := 8 }).ctx? (.call 8 0), h with
  | some x, h => exact ⟨x, rfl, of_decide_eq_true h⟩

/-- MODE and MMODE values at the last legal code of each field and at the next one; legal and illegal member lists. -/
theorem witness_modes : allIssue (onGroup g0) [.setmode (0x05BF), .setmmode 0x4F, .setmode 0x00C0, .setmode 0x0600, .setmmode 0x50] = true ∧
    (0x05BF / 16 % 16 ≤ 11 ∧ 0x05BF / 256 % 8 ≤ 5 ∧ 11 < 0xC0 / 16 % 16 ∧ 5 < 0x600 / 256 % 8 ∧ 0x4F / 16 % 8 ≤ 4 ∧ 4 < 0x50 / 16 % 8) ∧
    meets (.setgang 3) (onGroup g0) (fun x => gangOk (x.rds 3).toNat x.c.gid) = true ∧
    meets (.setgang 3) (onGroup (withS [(3, 2 + 4096)])) (fun x => gangOk (x.rds 3).toNat x.c.gid) = true ∧
    meets (.setgang 3) (onGroup (withS [(3, 2)])) (fun x => !gangOk (x.rds 3).toNat x.c.gid) = true ∧
    meets (.setgang 3) (onGroup (withS [(3, 1)])) (fun x => !gangOk (x.rds 3).toNat x.c.gid) = true := by decide +kernel

/-- A group with a second split of age 1. -/
def twoSplits (f : Split → Split) : Group :=
  { g0 with splits := [{ p0 with mask := 0xFFFF }, f { p0 with age := 1, mask := 0xFFFF0000 }], nextAge := 2 }

theorem witness_splits :
    meets .splitsync (onGroup (twoSplits id)) (fun x => x.g.splits.any fun q => q.age != x.c.age && q.wait != .rendezvous) = true ∧
    meets .splitsync (onGroup (twoSplits fun q => { q with wait := .rendezvous })) (fun x =>
      x.g.splits.all fun q => !q.stop && (q.age == x.c.age || q.wait == .rendezvous)) = true ∧
    meets .exit (inMode 0 0) (fun x => x.act == 0) = true ∧
    meets .exit (onGroup (twoSplits id)) (fun x => x.act != 0 && x.g.alive &&& ~~~x.act != 0 && x.g.attached && x.g.handler.isNone &&
      x.act == x.active) = true ∧
    meets .exit (onGroup { g0 with splits := [{ p0 with mode := 0 }], p := Sparse.putAll [] [(0, 1)] })
      (fun x => x.act != 0 && x.g.alive &&& ~~~x.act != 0 && x.g.attached && x.g.handler.isNone && x.act != x.active) = true ∧
    meets .exit (onGroup g0) (fun x => x.act != 0 && x.g.alive &&& ~~~x.act == 0) = true := by decide +kernel

/-- The handler save of a fault of split 0 at 4096. -/
def save0 : Handler := { age := 0, mode := 7, mmode := 0, gang := 0, mask := BitVec.allOnes 32, cause := 0x1A, pc := 4096, qdone := 0 }

/-- Traps with and without lanes; `tret` outside a handler, in one split of two, and in the last one. -/
theorem witness_traps :
    meets (.trap 1) (inMode 0 0) (fun x => x.act == 0) = true ∧ meets (.trap 1) (onGroup g0) (fun x => x.act != 0) = true ∧
    allIssue (onGroup g0) [.brk 1, .illegalInstruction 0] = true ∧ meets .tret (onGroup g0) (fun x => !x.p.handler) = true ∧
    meets .tret (onGroup { g0 with
        handler := some save0, nextAge := 2
        splits := [{ p0 with mask := 0xFFFF, handler := true }, { p0 with age := 1, mask := 0xFFFF0000, handler := true }] })
      (fun x => x.p.handler && x.g.handler == some save0 &&
      x.g.splits.any fun q => q.handler && q.age != x.c.age && q.wait != .returned) = true ∧
    meets .tret (onGroup { g0 with handler := some save0, splits := [{ p0 with handler := true }] }) (fun x => x.p.handler &&
      x.g.handler == some save0 && x.g.splits.all fun q => !q.handler || (!q.stop && (q.age == x.c.age || q.wait == .returned))) = true := by
  decide +kernel

/-- A precise fault in a group without delayed reductions: of a suspended group, of one in a handler that the split is not part of, in a split
of the handler; without a handler, and with one that TRAPVEC and the launch give. -/
theorem witness_precise_faults :
    (∀ g ∈ [{ g0 with suspended := true }, { g0 with handler := some save0 }], ((onGroup g).block? 0).any (fun b => (b.group? 0).any fun g =>
      (g.split? 0).any fun p => (g.suspended || (g.handler.isSome && !p.handler)) && g.quantum.isEmpty) = true) ∧
    ((onGroup { g0 with handler := some save0, splits := [{ p0 with handler := true }] }).block? 0).any (fun b => (b.group? 0).any fun g =>
      (g.split? 0).any fun p => !g.suspended && p.handler && g.quantum.isEmpty) = true ∧
    (∃ b g p, (onGroup g0).block? 0 = some b ∧ b.group? 0 = some g ∧ g.split? 0 = some p ∧ g.quantum = [] ∧ g.trapVec = 0) ∧
    (∃ b g p, (machine { probeLaunch with record := probeRecord + 2 ^ 19 } { probeBlock with groups := [{ g0 with trapVec := 8192 }] }).block? 0 = some b ∧
      b.group? 0 = some g ∧ g.split? 0 = some p ∧ g.quantum = [] ∧ g.handler = none ∧ g.trapVec ≠ 0 ∧
      ({ probeLaunch with record := probeRecord + 2 ^ 19 } : Launch).handle = true) :=
  ⟨by decide +kernel, by decide +kernel, ⟨_, g0, p0, rfl, rfl, rfl, rfl, rfl⟩, ⟨_, { g0 with trapVec := 8192 }, p0, rfl, rfl, rfl, rfl, rfl, by decide, by decide +kernel⟩⟩

/-- TRAPVEC aligned and not, SRSEED, AQUANT of 0 and more, and MGATE in a privileged launch. -/
theorem witness_system_registers : allIssue (onGroup g0) [.srd 1 0x01, .srd 0 0x83, .swr 3 0x50] = true ∧
    meets (.swr 3 0x44) (onGroup (withS [(3, 4096)])) (fun x => (x.rds 3).toNat % 4 == 0) = true ∧
    meets (.swr 3 0x44) (onGroup (withS [(3, 2)])) (fun x => (x.rds 3).toNat % 4 != 0) = true ∧
    meets (.swr 3 0x51) (onGroup (withS [(3, 65536)])) (fun x => (x.rds 3).toNat % 2 ^ 16 == 0) = true ∧
    meets (.swr 3 0x51) (onGroup (withS [(3, 1)])) (fun x => (x.rds 3).toNat % 2 ^ 16 != 0) = true ∧
    meets (.swr 3 0x60) (machine { probeLaunch with priv := true } probeBlock) (fun _ => true) = true := by decide +kernel

/-- `grow` with K outside 1 to 32, misaligned, outside the text, and at both ends of the legal range. -/
theorem witness_grow : ((onGroup g0).ctx? (.grow 1 3 0)).isSome = true ∧ ((onGroup g0).ctx? (.grow 1 3 33)).isSome = true ∧
    meets (.grow 1 3 32) (onGroup (withS [(3, 4098)])) (fun x => (x.rds 3).toNat % 4 != 0) = true ∧
    meets (.grow 1 3 1) (onGroup (withS [(3, 2 ^ 32)])) (fun x => (x.rds 3).toNat % 4 == 0 && !x.l.inText ((x.rds 3).toNat % 2 ^ 57)) = true ∧
    ∀ k ∈ [(1 : BitVec 8), 32], meets (.grow 1 3 k) (onGroup (withS [(3, 4096)])) (fun x => (x.rds 3).toNat % 4 == 0 &&
      x.l.inText ((x.rds 3).toNat % 2 ^ 57) && (x.s.mbOffsets x.b).isEmpty) = true := by decide +kernel

theorem witness_membership : meets .attach (onGroup g0) (fun x => x.g.attached) = true ∧
    meets .attach (onGroup { g0 with attached := false }) (fun x => !x.g.attached && (x.s.mbOffsets x.b).isEmpty &&
      (x.b.barView.pa + 1) % 2 ^ 16 != 0) = true ∧
    meets .detach (onGroup { g0 with attached := false }) (fun x => !x.g.attached) = true ∧
    meets .detach (machine probeLaunch { probeBlock with bar := (Bar.join 2 (Bar.ofNat 0 0)).blockWord }) (fun x => x.g.attached &&
      (x.s.mbOffsets x.b).isEmpty && x.b.gather.isEmpty && x.b.arrivals.isEmpty && (Bar.leave x.c.gid x.b.barView).pa != 0) = true := by
  decide +kernel

/-- A load of registers r that has not arrived. -/
def held (r : List Nat) : Pend := { kind := .load, vw := [], vregs := r, sw := [], p6set := 0, p6clr := 0 }

/-- `racq` past the limit, at it with enough free granules, and behind another request; `rrel` of more than is extended, with a
pending register among those released, and without. -/
theorem witness_granules : meets (.racq 1 1) (onGroup g0) (fun x => (128 - x.g.baseN) / 8 < x.g.ext + 1) = true ∧
    meets (.racq 1 15) (onGroup { g0 with baseN := 8 }) (fun x => decide (x.g.ext + 15 ≤ (128 - x.g.baseN) / 8) &&
      (x.s.core x.b.stk x.b.core).racq.isEmpty && decide (15 ≤ x.s.freeGranules x.b.stk x.b.core)) = true ∧
    meets (.racq 1 15) ((onGroup { g0 with baseN := 8 }).updCore 0 0 fun c => { c with racq := [(0, 1, 0, 15, 1)] })
      (fun x => decide (x.g.ext + 15 ≤ (128 - x.g.baseN) / 8) && !(x.s.core x.b.stk x.b.core).racq.isEmpty) = true ∧
    meets (.rrel 1 1) (onGroup g0) (fun x => x.g.ext < 1) = true ∧
    meets (.rrel 1 1) (onGroup { g0 with baseN := 8, ext := 1, pend := [held [8]] })
      (fun x => decide (1 ≤ x.g.ext) && decide (x.g.bound - 8 ≤ 8) && x.g.pendingOn [8] [] false) = true ∧
    (∀ l ∈ [[], [{ held [8] with kind := .long }], [held [7]]], meets (.rrel 1 1) (onGroup { g0 with baseN := 8, ext := 1, pend := l }) (fun x =>
      decide (1 ≤ x.g.ext) && (x.s.core x.b.stk x.b.core).racq.isEmpty &&
      x.g.pend.all fun p => p.kind == .long || p.vregs.all fun r => decide (r < x.g.bound - 8)) = true) := by decide +kernel

/-- How the checks of an access of n bytes end: 0 a fault, 1 a wait for a walk, 2 no lane, 3 a C interlock, 4 a stall, 5 the access. -/
def ends (kind n : Nat) (l : Ctx → List LaneAddr) (x : Ctx) : Nat :=
  match x.access kind n (l x) with
  | .trap _ => 0
  | .wait _ => 1
  | .ok ps => if ps.isEmpty then 2 else if kind = kindW then (if ps.any fun y => x.s.lockedAt n y.2 then 3 else 5)
    else match x.hold n ps with
      | .interlock => 3
      | .stall => 4
      | .go => 5

/-- The block with 256 bytes of S and of C. -/
def withBuffers : Block := { probeBlock with sSize := 256, cSize := 256 }

/-- A group of the block with buffers. -/
def inBuffers (g : Group) : State := machine probeLaunch { withBuffers with groups := [g] }

/-- A matrix operation that locks the first 64 bytes of C. -/
def locks : MatOp := { id := 0, batch := 0, gids := [0], ctxids := [0], work := .tfill 0 0, dst := .buf .acc 0 0, lo := 0, hi := 64 }

/-- An atomic of the group on the first word of S, not yet performed. -/
def ownAtom : StoreOp := .atom 0 (.scr 0 0) 0 7 1 0 0 0 none none 0

/-- The checks of R224 fail at the space, at the alignment and at the range, or pass. -/
theorem witness_address_checks :
    meets (.st32 1 (.v 2) .par 0) (inBuffers g0) (fun x => (access1 kindW (x.lanes.map (x.ea .par (.v 1) 4 0))).isSome) = true ∧
    meets (.ld32 1 (.v 2) .scr 0) (inBuffers { g0 with v := Sparse.putAll [] [(64, 2)] }) (fun x => let l := x.lanes.map (x.ea .scr (.v 2) 4 0)
      (access1 kindR l).isNone && (access2 4 l).isSome) = true ∧
    meets (.ld32 1 (.v 2) .scr 0) (inBuffers { g0 with v := Sparse.putAll [] [(64, 256)] }) (fun x => let l := x.lanes.map (x.ea .scr (.v 2) 4 0)
      (access1 kindR l).isNone && (access2 4 l).isNone && (x.access3 4 l).isSome) = true ∧
    meets (.ld32 1 (.v 2) .scr 0) (inBuffers { g0 with v := Sparse.putAll [] [(64, 252)] }) (fun x => let l := x.lanes.map (x.ea .scr (.v 2) 4 0)
      (access1 kindR l).isNone && (access2 4 l).isNone && (x.access3 4 l).isNone && l.all (fun a => a.sp != some .glb) && x.s.poisoned.isEmpty) = true := by
  decide +kernel

/-- Every way in which a load ends, and the last for each load. -/
theorem witness_loads :
    meets (.ld32 1 (.v 2) .scr 0) (onGroup g0) (fun x => ends kindR 4 (fun x => x.lanes.map (x.ea .scr (.v 2) 4 0)) x == 0) = true ∧
    meets (.ld32 1 (.v 2) .glb 0) (onGroup g0) (fun x => ends kindR 4 (fun x => x.lanes.map (x.ea .glb (.v 2) 4 0)) x == 1) = true ∧
    meets (.ld32 1 (.v 2) .scr 0) (inMode 0 0) (fun x => ends kindR 4 (fun x => x.lanes.map (x.ea .scr (.v 2) 4 0)) x == 2) = true ∧
    meets (.ld32 1 (.v 2) .acc 0) (machine probeLaunch { withBuffers with matops := [locks] }) (fun x =>
      ends kindR 4 (fun x => x.lanes.map (x.ea .acc (.v 2) 4 0)) x == 3) = true ∧
    meets (.ld32 1 (.v 2) .scr 0) (inBuffers { g0 with stq := [ownAtom] }) (fun x =>
      ends kindR 4 (fun x => x.lanes.map (x.ea .scr (.v 2) 4 0)) x == 4) = true ∧
    meets (.ld8 1 (.v 2) .scr 0) (inBuffers g0) (fun x => ends kindR 1 (fun x => x.lanes.map (x.ea .scr (.v 2) 1 0)) x == 5 && x.g.quantum.isEmpty) = true ∧
    meets (.ld8s 1 (.v 2) .scr 0) (inBuffers g0) (fun x => ends kindR 1 (fun x => x.lanes.map (x.ea .scr (.v 2) 1 0)) x == 5) = true ∧
    meets (.ld16 1 (.v 2) .scr 0) (inBuffers g0) (fun x => ends kindR 2 (fun x => x.lanes.map (x.ea .scr (.v 2) 2 0)) x == 5) = true ∧
    meets (.ld16s 1 (.v 2) .scr 0) (inBuffers g0) (fun x => ends kindR 2 (fun x => x.lanes.map (x.ea .scr (.v 2) 2 0)) x == 5) = true ∧
    meets (.ld32 1 (.s 3) .glb 0) (onGroup (withS [(3, 4096)])) (fun x => ends kindR 4 (fun x => x.lanes.map (x.ea .glb (.s 3) 4 0)) x == 5) = true ∧
    meets (.ld64 1 (.v 2) .scr 0) (inBuffers g0) (fun x => ends kindR 8 (fun x => x.lanes.map (x.ea .scr (.v 2) 8 0)) x == 5) = true ∧
    meets (.ld128 31 (.v 2) .scr 15) (inBuffers g0) (fun x => ends kindR 16 (fun x => x.lanes.map (x.ea .scr (.v 2) 16 15)) x == 5) = true ∧
    meets (.ldu 1 (.v 2) .scr 0) (inBuffers g0) (fun x => ends kindR 8 (fun x => (x.lanes.take 1).map (x.ea .scr (.v 2) 8 0)) x == 5) = true := by
  decide +kernel

/-- The clauses on what a load sees: a fresh load, a line not held, a line held, and places that meet nothing queued. -/
theorem witness_load_values : meets (.ld32 1 (.s 3) .glb 0) (inMode 7 0x200) (fun x => x.fresh) = true ∧
    meets (.ld32 1 (.s 3) .glb 0) (onGroup g0) (fun x => !x.fresh && ((x.s.core x.b.stk x.b.core).l1.find? (fun e => e.1 == 0)).isNone && x.s.transit.isEmpty) = true ∧
    meets (.ld32 1 (.s 3) .glb 0) ((onGroup g0).updCore 0 0 fun c => { c with l1 := [(0, List.replicate 64 1)] }) (fun x =>
      ((x.s.core x.b.stk x.b.core).l1.find? (fun e => e.1 == 0)).isSome) = true ∧
    ([StoreOp.glb 0 0 [1, 2] 0].all fun o => match o.loc with | some (r, m) => !(Loc.glb 2).meets 2 r m | none => true) = true := by decide +kernel

/-- Every way in which a store ends, and the last for each store. -/
theorem witness_stores :
    meets (.st32 1 (.v 2) .par 0) (inBuffers g0) (fun x => ends kindW 4 (fun x => x.lanes.map (x.ea .par (.v 1) 4 0)) x == 0) = true ∧
    meets (.st32 2 (.v 4) .glb 0) (inBuffers g0) (fun x => ends kindW 4 (fun x => x.lanes.map (x.ea .glb (.v 2) 4 0)) x == 1) = true ∧
    meets (.st32 1 (.v 2) .acc 0) (machine probeLaunch { withBuffers with matops := [locks] }) (fun x =>
      ends kindW 4 (fun x => x.lanes.map (x.ea .acc (.v 1) 4 0)) x == 3) = true ∧
    (∀ i ∈ [(Instr.st8 1 (.v 2) .scr 0, 1), (.st16 1 (.v 2) .scr 0, 2), (.st32 1 (.v 2) .scr 0, 4), (.st64 1 (.s 2) .scr 0, 8),
        (.st64 1 (.v 2) .scr 0, 8), (.st128 1 1 .scr 0, 16)],
      meets i.1 (inBuffers g0) (fun x => ends kindW i.2 (fun x => x.lanes.map (x.ea .scr (.v 1) i.2 0)) x == 5 && x.g.quantum.isEmpty) = true) := by
  decide +kernel

/-- A queued store of two bytes at PA 0 and one of two bytes at the start of W, which may leave; a release that waits for a put, and a store behind
another instruction's; a store in transit that lands, and one that waits for an earlier one. -/
theorem witness_drain : let s := fun o => { inBuffers { g0 with stq := [o] } with ev := { b := 0, g := 0 } }
    (∀ o ∈ [StoreOp.glb 0 0 [1, 2] 0, .buf 0 0 .wgt 0 [1, 2] 0], ((s o).block? 0).any (fun b => (b.group? 0).any fun g =>
      g.stq == [o] && g.heldRec.isEmpty && (s o).mayLeave b g o && decide (b.place = .resident)) = true) ∧
    (let q := [StoreOp.glb 0 0 [1] 0, .glb 1 64 [2] 0]
      let s := { inBuffers { g0 with stq := q } with ev := { k := 1 } }
      (nth? q s.ev.k = some (.glb 1 64 [2] 0) ∧ ¬ ∀ e ∈ q.take s.ev.k, (StoreOp.glb 1 64 [2] 0).passes e = true)) ∧
    (∀ k ∈ [0, 1], let e : Transit := { core := 0, ctx := 0, slice := 0, pa := 64 * k, bytes := [1] }
      let s := { onGroup g0 with transit := [{ e with pa := 0 }, { e with pa := 64 }] }
      nth? s.transit k = some e ∧ (s.blocks.all fun b => b.groups.all fun g => g.heldRec.isEmpty) = true ∧
        ((s.transit.take k).any (fun y => y.core == e.core && y.slice == e.slice) || s.engineOwns e.pa e.bytes.length) = (k == 1)) ∧
    (onGroup { g0 with puts := [⟨1, 0, 1⟩] }).mayLeave probeBlock { g0 with puts := [⟨1, 0, 1⟩] } (.glb 0 0 [1] 2) = false := by decide +kernel

/-- The instruction issues, and the addresses of an atomic end as `kind` says. -/
def atomicEnds (i : Instr) (s : State) (a : AddrRef) (kind : Nat) (p : Ctx → Bool) : Bool :=
  meets i s fun x => ends kindRW 4 (fun x => x.lanes.map (x.atomAddr a)) x == kind && p x

/-- A state under MMODE with 256 bytes of S whose offset 0 s3 names, and a store queue. -/
def atomicIn (mmode : BitVec 10) (q : List StoreOp) : State :=
  inBuffers { withS [(3, BitVec.ofNat 64 (taggedScr 0))] with splits := [{ p0 with mmode := mmode }], stq := q }

/-- Every way in which an atomic ends, and each atomic and reduction. -/
theorem witness_atomics :
    atomicEnds (.aadd 1 (.s 3) (.v 2)) (onGroup (withS [(3, BitVec.ofNat 64 (taggedScr 0))])) (.s 3) 0 (fun _ => true) = true ∧
    atomicEnds (.aadd 1 (.s 3) (.v 2)) (onGroup (withS [(3, 8192)])) (.s 3) 1 (fun _ => true) = true ∧
    atomicEnds (.aadd 1 (.s 3) (.v 2)) (onGroup { withS [(3, 4096)] with splits := [{ p0 with mode := 0 }] }) (.s 3) 2 (fun _ => true) = true ∧
    (∀ i ∈ [Instr.aadd 1 (.s 3) (.v 2), .amin 1 (.s 3) (.v 2), .amax 1 (.s 3) (.v 2), .aand 1 (.s 3) (.v 2), .aor 1 (.s 3) (.v 2),
        .axor 1 (.s 3) (.v 2), .axchg 1 (.s 3) (.v 2), .acas 1 (.s 3) (.v 2), .radd (.s 3) (.v 2), .rmin (.s 3) (.v 2), .rmax (.s 3) (.v 2)],
      atomicEnds i (atomicIn 0 []) (.s 3) 5 (fun x => x.g.quantum.isEmpty && x.ord == 0 && x.useMode == 0) = true) ∧
    (∀ i ∈ [Instr.afadd 1 (.s 3) (.v 2), .rfadd (.s 3) (.v 2)], atomicEnds i (inBuffers { withS [(3, BitVec.ofNat 64 (taggedScr 0))] with
      splits := [{ p0 with mode := 0x27 }] }) (.s 3) 5 (fun x => x.g.quantum.isEmpty && x.ord == 0 && x.useMode == 0) = true) ∧
    (∀ i ∈ [Instr.aadd 1 (.s 3) (.v 2), .radd (.s 3) (.v 2)],
      atomicEnds i (atomicIn 0x08 []) (.s 3) 5 (fun x => x.g.quantum.isEmpty && x.ord == 2) = true ∧
      atomicEnds i (atomicIn 0x20 []) (.s 3) 5 (fun x => x.g.quantum.isEmpty && x.ord == 0 && x.useMode == 2) = true ∧
      atomicEnds i (atomicIn 0x04 [.glb 0 0 [1] 0]) (.s 3) 5 (fun x => bitOf x.ord 0 && !x.g.stq.isEmpty) = true ∧
      atomicEnds i (atomicIn 0x0F []) (.s 3) 5 (fun x => bitOf x.ord 0 && x.g.stq.isEmpty && x.g.quantum.isEmpty &&
        x.s.released x.b x.g x.relLevel && !x.s.blocked x.b (.scr 0 0)) = true) ∧
    atomicEnds (.radd (.s 3) (.v 2)) (atomicIn 0x30 []) (.s 3) 5 (fun x => x.g.stq.isEmpty && x.ord == 0 && x.useMode == 3) = true := by
  decide +kernel

/-- A put that no port has acknowledged. -/
def owed : PutRef := ⟨1, 0, 1⟩

/-- `pref` with a fault and without; `fence` of each order, with what it waits for and without; `fencei`. -/
theorem witness_fences :
    meets (.pref (.v 2) .wgt 0) (onGroup g0) (fun x => (x.access3 1 (x.lanes.map (x.ea .wgt (.v 2) 64 0))).isSome) = true ∧
    meets (.pref (.v 2) .scr 0) (inBuffers g0) (fun x => let l := x.lanes.map (x.ea .scr (.v 2) 64 0)
      ((access1 kindR l).orElse fun _ => x.access3 1 l).isNone && l.all fun y => y.sp != some .glb) = true ∧
    meets (.pref (.s 3) .glb 0) (onGroup (withS [(3, 4096)])) (fun x => let l := x.lanes.map (x.ea .glb (.s 3) 64 0)
      ((access1 kindR l).orElse fun _ => x.access3 1 l).isNone && l.all fun y => x.checkGlb kindR y != .miss) = true ∧
    (∀ m ∈ [(0x0 : BitVec 10), 0x4, 0x5, 0x8, 0xC, 0xF], meets .fence (inMode 7 m) (fun x => x.g.quantum.isEmpty && x.g.stq.isEmpty && x.g.puts.isEmpty &&
      !x.s.coreTransit x.b) = true) ∧
    meets .fence (atomicIn 0x04 [ownAtom]) (fun x => x.ord == 1 && x.g.stq.any StoreOp.isAtom) = true ∧
    meets .fence (atomicIn 0x0C [ownAtom]) (fun x => x.ord == 3 && !x.g.stq.isEmpty) = true ∧
    meets .fence (onGroup { g0 with splits := [{ p0 with mmode := 0x0F }], puts := [owed] }) (fun x => x.ord == 3 && x.scope == 3 && !x.g.puts.isEmpty) = true ∧
    meets .fencei (onGroup g0) (fun x => x.g.stq.isEmpty && !x.s.inTransit x.g.ctxid) = true ∧ meets .fencei (atomicIn 0 [ownAtom]) (fun x => !x.g.stq.isEmpty) = true := by
  decide +kernel

/-- A state whose s3 names the lock word at PA 0, with lock entries at stack 0. -/
def lockIn (l : List LockEntry) (q : List StoreOp) : State :=
  (onGroup { withS [(3, 4096)] with stq := q }).updStack 0 fun k => { k with locks := l }

/-- What `lock` and `unlock` find at their word. -/
def atLock (i : Instr) (s : State) (p : Ctx → Stack → Bool) : Bool :=
  meets i s fun x => decide (x.b.stk < 4) && (match x.accessTagWith false kindRW 4 (fun sp => decide (sp = .glb)) (x.rds 3) with
    | .ok ((_, .glb 0) :: _) => true
    | _ => false) && p x (x.s.stack x.b.stk)

/-- `lock` on a word the group holds, on one of another group, on a free one, and with a full table; `unlock` on a free word, on an own
one with a waiter, and with a store still queued. -/
theorem witness_locks : (onGroup g0).dies.length = 4 ∧ (onGroup g0).ports.length = 5 ∧ (onGroup g0).sources.length = 5 ∧
    atLock (.lock 3) (lockIn [⟨0, 0, 0, 0, []⟩] []) (fun x k => (k.lockOn 0).any fun e => e.owner == x.g.ctxid) = true ∧
    atLock (.lock 3) (lockIn [⟨0, 0, 4, 0, []⟩] []) (fun x k => (k.lockOn 0).any fun e => e.owner != x.g.ctxid && decide (k.lockWaiters e.slice < 4096)) = true ∧
    atLock (.lock 3) (lockIn [] []) (fun x k => (k.lockOn 0).isNone && decide (k.lockEntries (x.s.sliceOf x.l.part x.b.stk 0) < 256)) = true ∧
    atLock (.lock 3) (lockIn ((List.range 256).map fun n => ⟨(onGroup g0).sliceOf 0 0 0, 4 * n + 4, 4, n, []⟩) [])
      (fun x k => (k.lockOn 0).isNone && decide (256 ≤ k.lockEntries (x.s.sliceOf x.l.part x.b.stk 0))) = true ∧
    atLock (.unlock 3) (lockIn [] []) (fun _ k => (k.lockOn 0).isNone) = true ∧
    atLock (.unlock 3) (lockIn [⟨0, 0, 0, 0, [(0, 1, 0)]⟩] []) (fun x k => ((k.lockOn 0).any fun e => e.owner == x.g.ctxid && !e.waiters.isEmpty) &&
      x.g.quantum.isEmpty && x.g.stq.isEmpty) = true ∧
    atLock (.unlock 3) (lockIn [⟨0, 0, 0, 0, []⟩] [.glb 0 0 [1] 0]) (fun x k => ((k.lockOn 0).any fun e => e.owner == x.g.ctxid) &&
      x.g.quantum.isEmpty && !x.g.stq.isEmpty) = true := by decide +kernel

/-- A group whose pairs s4:s5 and s6:s7 describe a copy within S. -/
def copies (dst src b0 b1 : Nat) : Group :=
  withS [(4, BitVec.ofNat 64 dst), (5, BitVec.ofNat 64 src), (6, BitVec.ofNat 64 b0), (7, BitVec.ofNat 64 b1)]

/-- A slice of 32 bytes that group 0 has supplied. -/
def slice0 : Slice :=
  { gid := 0, age := 0, d := 1, dst := BitVec.ofNat 64 (taggedScr 0), src := BitVec.ofNat 64 (taggedScr 128), len := 32, boff := 0,
    bar := false, soff := 0, slen := 32 }

/-- `Ctx.Supplies` can be decided. -/
def supplies (x : Ctx) (d : BitVec 6) (a b : BitVec 5) : Bool :=
  @decide (x.Supplies d a b) (by delta Ctx.Supplies Ctx.Clear Ctx.WaitsOut; infer_instance)

/-- `copy` with a reserved field, a misaligned operand, in a detached group, with a queued store, while the group has its slice in, with
another group still to come, and complete. -/
theorem witness_copies : let i := Instr.copy 1 2 3
    let good := copies (taggedScr 0) (taggedScr 128) 32 (32 * 2 ^ 32)
    meets i (inBuffers (copies 0 0 0xFFFFFFF1 0)) (fun x => decide (0xFFFFFFF0 < field (x.rdn 6) 31 0)) = true ∧
    meets i (inBuffers (copies 0 0 (2 ^ 49) 0)) (fun x => field (x.rdn 6) 63 49 != 0) = true ∧
    meets i (inBuffers (copies (taggedScr 2) 0 32 0)) (fun x => (x.rdn 4).toNat % 4 != 0 && field (x.rdn 6) 63 49 == 0) = true ∧
    meets i (inBuffers { good with attached := false }) (fun x => !x.g.attached) = true ∧
    meets i (inBuffers { good with stq := [.glb 0 0 [1] 0] }) (fun x => x.g.attached && x.g.quantum.isEmpty && !x.g.stq.isEmpty) = true ∧
    meets i (machine probeLaunch { withBuffers with groups := [good], gather := [slice0], expect := [0] })
      (fun x => x.g.quantum.isEmpty && x.g.stq.isEmpty && !x.s.coreTransit x.b && x.b.gather.any (fun z => z.gid == x.c.gid)) = true ∧
    meets i (machine probeLaunch { withBuffers with groups := [good, { g0 with gid := 1 }] }) (fun x => supplies x 1 2 3 &&
      x.expects.any fun g => (x.b.gather ++ [x.copySlice 1 2 3]).all fun z => z.gid != g) = true ∧
    (∀ y ∈ [(32, true), (28, false)], meets i (inBuffers (copies (taggedScr 0) (taggedScr 128) 32 (y.1 * 2 ^ 32))) (fun x => supplies x 1 2 3 &&
      (x.expects.all fun g => [x.copySlice 1 2 3].any fun z => z.gid == g) &&
      (match (((x.waitAs .copy).updBlock x.c.blk fun b => { b with gather := [], expect := [] }).startCopy x.c.blk [x.copySlice 1 2 3]).1 with
        | .ok _ => true | .error _ => false) == y.2) = true) ∧
    sliceHole 32 [(0, 32)] = none ∧ sliceHole 32 [(0, 28)] = some 28 ∧ sectorsOf 30 4 = [(30, 2), (32, 2)] := by decide +kernel

/-- `copym` with a reserved field, a misaligned operand, no cluster, a queued store, a failing range, length 0, and a copy. A mask that the
partition does not allow rests on the free value `Config.inPartition`: the clause is met wherever that says no. -/
theorem witness_multicast : let i := Instr.copym 1 2 3
    let good := copies (taggedScr 0) (taggedScr 128) 32 1
    meets i (inBuffers (copies 0 0 0xFFFFFFF1 0)) (fun x => decide (0xFFFFFFF0 < field (x.rdn 6) 31 0)) = true ∧
    meets i (inBuffers (copies 0 0 0 (2 ^ 27))) (fun x => field (x.rdn 7) 31 27 != 0) = true ∧
    meets i (inBuffers (copies (taggedScr 1) 0 32 1)) (fun x => (x.rdn 4).toNat % 4 != 0 && field (x.rdn 7) 31 27 == 0) = true ∧
    meets i (inBuffers (copies (taggedScr 0) (taggedScr 128) 32 2)) (fun x => x.l.part == 0 && x.b.stk == 0 && x.b.core == 0 &&
      field (x.rdn 7) 23 0 == 2) = true ∧
    (Config.inPartition 0 0 1 = false → ∀ x : Ctx, x.l.part = 0 → x.b.stk = 0 → x.b.core = 0 → x.maskAllowed 2 = false) ∧
    meets i (inBuffers (copies (taggedScr 0) (taggedScr 128) 32 0)) (fun x => field (x.rdn 7) 23 0 == 0) = true ∧
    meets i (inBuffers { good with stq := [.glb 0 0 [1] 0] }) (fun x => x.maskAllowed (field (x.rdn 7) 23 0) && !x.g.stq.isEmpty) = true ∧
    meets i (inBuffers (copies (taggedScr 0) (taggedScr 240) 32 1)) (fun x => x.maskAllowed (field (x.rdn 7) 23 0) && x.g.stq.isEmpty && x.g.quantum.isEmpty && !x.s.coreTransit x.b &&
      (firstFail ((x.s.engineRange x.b (x.rdn 5) 32 false).2.1 ++ x.s.multicastRange x.b (x.rdn 4) 32)).isSome) = true ∧
    (∀ n ∈ [0, 32], meets i (inBuffers (copies (taggedScr 0) (taggedScr 128) n 1)) (fun x => x.maskAllowed (field (x.rdn 7) 23 0) &&
      x.g.stq.isEmpty && x.g.quantum.isEmpty && !x.s.coreTransit x.b &&
      (firstFail ((x.s.engineRange x.b (x.rdn 5) n false).2.1 ++ x.s.multicastRange x.b (x.rdn 4) n)).isNone) = true) := by
  refine ⟨by decide +kernel, by decide +kernel, by decide +kernel, by decide +kernel, fun h x hp hs hc => ?_, by decide +kernel,
    by decide +kernel, by decide +kernel, by decide +kernel⟩
  exact List.all_eq_false.2 ⟨1, by decide, by rw [hp, hs, hc, h]; decide⟩

/-- A copy and a matrix operation that run in batch 0. -/
def running : CopyOp := { seq := 0, batch := 0, srcs := [], dsts := [], bar := none, clusters := [], rank := 0, sp := .scr, off := 0, lands := [] }

theorem witness_batches : allIssue (onGroup g0) [.bclose 1, .mfence 1, .mwake] = true ∧
    (∀ i ∈ [Instr.bwait 3, .mwait 3], meets i (machine probeLaunch { probeBlock with cbopen := true, mbopen := true }) (fun x =>
      x.b.cbopen && x.b.mbopen && x.b.poisonBatches.isEmpty) = true) ∧
    meets (.bwait 3) (onGroup g0) (fun x => !x.b.cbopen && decide (outstanding x.b.cbseq x.b.cbdone ≤ (x.rds 3).toNat)) = true ∧
    meets (.bwait 3) (machine probeLaunch { probeBlock with cbseq := 1, copies := [running] }) (fun x => !x.b.cbopen &&
      decide ((x.rds 3).toNat < outstanding x.b.cbseq x.b.cbdone)) = true ∧
    meets (.mwait 3) (onGroup g0) (fun x => !x.b.mbopen && x.b.poisonBatches.isEmpty && decide (outstanding x.b.mbseq x.b.mbdone ≤ (x.rds 3).toNat)) = true ∧
    meets (.mwait 3) (machine probeLaunch { probeBlock with mbseq := 1, matops := [locks] }) (fun x => !x.b.mbopen && x.b.poisonBatches.isEmpty &&
      decide ((x.rds 3).toNat < outstanding x.b.mbseq x.b.mbdone)) = true ∧
    meets (.mwait 3) (machine probeLaunch { probeBlock with mbseq := 1, mbdone := 1, poisonBatches := [(0, 0, 64)] }) (fun x =>
      !x.g.stopping x.p && (x.b.poisonedBatch x.c.gid (x.rds 3).toNat).isSome) = true := by decide +kernel

/-- A state whose s3 names a barrier word at offset 0 of 256 bytes of S, and whose s4 holds a number. -/
def barIn (t : Bar) (n : Nat) (g : Group := g0) : State :=
  let g := { g with s := Sparse.putAll g.s [(3, BitVec.ofNat 64 (taggedScr 0)), (4, BitVec.ofNat 64 n)] }
  { (inBuffers g).writeBar { withBuffers with groups := [g] } 0 t with cur := some ⟨0, 0, 0⟩ }

/-- The instruction issues on that word, of which `p` holds. -/
def atBar (i : Instr) (t : Bar) (n : Nat) (p : Ctx → Bar → Nat → Bool) (g : Group := g0) : Bool :=
  meets i (barIn t n g) fun x => decide ((x.rds 3).toNat = taggedScr 0 ∧ 16 ≤ x.b.sSize ∧ x.s.poisoned = [] ∧ x.g.stq = [] ∧ x.g.quantum = []) &&
    p x (x.s.readBar x.b 0) (x.rds 4).toNat

/-- An empty barrier word. -/
def bar0 : Bar := Bar.ofNat 0 0

/-- `barinit`, `bararr`, `barexp` and `remarr`: an operand out of range, a place or a count that faults, and the event. -/
theorem witness_barrier_counts :
    atBar (.barinit 3 4) bar0 (2 ^ 17) (fun _ _ n => decide (2 ^ 17 ≤ n)) = true ∧
    meets (.barinit 3 4) (inBuffers (withS [(3, BitVec.ofNat 64 (taggedScr 16)), (4, 2 ^ 16)])) (fun x => (x.rds 3).toNat == taggedScr 16 &&
      bitOf (x.rds 4).toNat 16 && decide (16 + 16 ≤ x.b.sSize)) = true ∧
    atBar (.barinit 3 4) bar0 (2 ^ 16) (fun x _ n => decide (n < 2 ^ 17) && decide (0 + 32 ≤ x.b.sSize)) = true ∧
    atBar (.barinit 3 4) bar0 65535 (fun _ _ n => !bitOf n 16) = true ∧
    (∀ i ∈ [Instr.bararr 1 3 4, .barexp 3 4, .remarr 3 4],
      atBar i bar0 (2 ^ 32) (fun _ _ n => decide (2 ^ 32 ≤ n)) = true ∧
      atBar i { bar0 with ps := 2 ^ 32 - 1 } 1 (fun _ w n => decide (n < 2 ^ 32) && decide (2 ^ 32 ≤ w.ps + n)) = true ∧
      atBar i { bar0 with ps := 2 ^ 32 - 2 } 1 (fun _ w n => decide (n < 2 ^ 32) && decide (w.ps + n < 2 ^ 32) && !w.mb) = true) ∧
    atBar (.bararr 1 3 4) { bar0 with mb := true, arr := 1 } 0 (fun x w _ => w.mb && x.g.attached && w.arr.testBit x.c.gid) = true ∧
    atBar (.bararr 1 3 4) { bar0 with mb := true, arr := 2 } 0 (fun x w _ => w.mb && x.g.attached && !w.arr.testBit x.c.gid) = true ∧
    meets (.remarr 3 4) (barIn bar0 1) (fun x => match x.accessTag kindRW 16 (fun sp => decide (sp = .scr) || decide (sp = .clu)) (x.rds 3) with
      | .ok [(_, .buf 0 .scr 0)] => (x.s.block? 0).isSome
      | _ => false) = true := by decide +kernel

/-- `barwait` and `bartry`: a phase number out of range, too far behind, passed, and the current one with an arrival due. -/
theorem witness_barrier_waits : ∀ i ∈ [Instr.barwait 3 4, .bartry 1 3 4],
    atBar i bar0 16 (fun _ _ n => decide (16 ≤ n)) = true ∧
    atBar i { bar0 with ph := 9 } 0 (fun _ w n => decide (8 < (w.ph + 16 - n) % 16)) = true ∧
    atBar i { bar0 with ph := 8 } 0 (fun _ w n => (w.ph + 16 - n) % 16 == 8) = true ∧
    atBar i { bar0 with ph := 0 } 15 (fun _ w n => (w.ph + 16 - n) % 16 == 1) = true ∧
    atBar i { bar0 with pa := 1 } 0 (fun _ w n => (w.ph + 16 - n) % 16 == 0 && !w.done) = true := by decide +kernel

/-- `barcont`: CLN of 0 and above 32 and a reserved bit, a misaligned entry, one outside the text, no lane, an armed word with another
entry, some of the group's lanes, and all of them. -/
theorem witness_continuations : let i := Instr.barcont 3 4
    (∀ v ∈ [4096, 33 * 2 ^ 57 + 4096, 2 ^ 63 + 2 ^ 57 + 4096], atBar i bar0 v (fun _ _ n => !decide (n < 2 ^ 63 ∧ n / 2 ^ 57 % 64 ≠ 0 ∧ n / 2 ^ 57 % 64 ≤ 32)) = true) ∧
    atBar i bar0 (2 ^ 57 + 4098) (fun _ _ n => n % 4 != 0) = true ∧
    atBar i bar0 (32 * 2 ^ 57 + 2 ^ 32) (fun x _ n => n % 4 == 0 && !x.l.inText (n % 2 ^ 57)) = true ∧
    atBar i bar0 (32 * 2 ^ 57 + 4096) (fun x _ n => x.l.inText (n % 2 ^ 57) && x.act == 0) { g0 with splits := [{ p0 with mode := 0 }] } = true ∧
    atBar i { bar0 with ca := true, cpc := 1024, cln := 31 } (32 * 2 ^ 57 + 4096) (fun x w n => w.ca && w.cln != n / 2 ^ 57 % 64 && x.act != 0) = true ∧
    atBar i bar0 (32 * 2 ^ 57 + 4096) (fun x w _ => !w.ca && x.act != 0 && x.g.alive &&& ~~~x.act != 0 && x.g.attached && x.g.handler.isNone)
      (twoSplits id) = true ∧
    atBar i bar0 (32 * 2 ^ 57 + 4096) (fun x w _ => !w.ca && x.act != 0 && x.g.alive &&& ~~~x.act == 0) = true := by decide +kernel

/-- `bsync` of a group that has arrived, of one that another must follow, and of the last one. -/
theorem witness_bsync :
    let at_ := fun (t : Bar) (p : Ctx → Bool) => meets .bsync (machine probeLaunch { probeBlock with bar := t.blockWord }) fun x =>
      x.g.quantum.isEmpty && x.g.stq.isEmpty && x.s.blocks.all (fun b => b.subs.isEmpty) && x.p.again.isNone && x.g.attached && p x
    at_ { bar0 with exp := 2, pa := 1, arr := 1 } (fun x => x.b.barView.arr.testBit x.c.gid && !x.g.stopping x.p) = true ∧
    at_ { bar0 with exp := 2, pa := 2 } (fun x => !x.b.barView.arr.testBit x.c.gid && (x.b.barView.arrive (some x.c.gid)).pa != 0) = true ∧
    at_ { bar0 with exp := 1, pa := 1 } (fun x => !x.b.barView.arr.testBit x.c.gid && (x.b.barView.arrive (some x.c.gid)).pa == 0) = true := by
  decide +kernel

/-- A barrier event at the last offset where a word of each kind fits its allocation. -/
theorem witness_barrier_events : (inBuffers g0).block? 0 = some { withBuffers with groups := [g0] } ∧ withBuffers.place = .resident ∧
    ({ bar0 with pa := 1 } : Bar).Fits withBuffers 240 ∧ ({ bar0 with pa := 1, mb := true, arr := 1 } : Bar).Fits withBuffers 224 ∧
    236 + 20 ≤ withBuffers.sSize := by
  refine ⟨rfl, rfl, ?_, ?_, ?_⟩ <;> simp [Bar.Fits, bar0, Bar.ofNat, slice, bitOf, withBuffers]

/-- Tile headers: i8 of 16 × 96 and 32 × 96, f32 of 1 × 4, bf16 of 1 × 32, e4m3 with block scales of 1 × 32 and 32 × 32. -/
def tileA : Nat := mkHeader 7 0 0 false false 0 16 96 96 0 0
def tileB : Nat := mkHeader 7 0 0 false false 0 32 96 96 0 0
def tileF : Nat := mkHeader 0 0 0 false false 0 1 4 16 0 0
def tileH : Nat := mkHeader 2 0 0 false false 0 1 32 64 0 0
def tileQ : Nat := mkHeader 3 1 0 false false 0 1 32 32 3 0
def tileT : Nat := mkHeader 3 1 0 false false 0 32 32 32 65 0

/-- A header at the start of a buffer, and in a header register. -/
def headerBytes (h : Nat) : Sparse 8 := Sparse.putAll [] ((leBytes 16 h).zipIdx.map fun (b, k) => (k, b))
def headerWords (n h : Nat) : List (Nat × Word) := (List.range 4).map fun l => (32 * n + l, BitVec.ofNat 32 (h / 2 ^ (32 * l)))

/-- A of 16 × 96 in W, B of 32 × 96 in X, and the result of n groups in C; s4:s5, s6:s7 and s8:s9 name them. -/
def tilesIn (n : Nat) (gs : List Group) (arrivals : List Arrival := []) : State :=
  machine probeLaunch { probeBlock with W := headerBytes tileA, wSize := 4096, X := headerBytes tileB, xSize := 4096,
                                        C := headerBytes (resultHeader true n 128), cSize := 8192, groups := gs, arrivals := arrivals }

/-- A group whose pairs name those tiles, with a GANG. -/
def tileGroup (gid : Nat) (gang : BitVec 42) : Group :=
  { g0 with gid := gid, splits := [{ p0 with gang := gang }],
            s := Sparse.putAll [] [(4, 3 <<< 48), (5, 96), (6, 4 <<< 48), (7, 96), (8, 5 <<< 48), (9, 128)] }

/-- GANG of groups 0 and 1. -/
def pairGang : BitVec 42 := gangStored (2 + 2 ^ 12)

/-- `Ctx.Joins` can be decided. -/
def joins (x : Ctx) (i : Instr) (a b : TileRef) : Bool :=
  @decide (x.Joins i 4 a b) (by delta Ctx.Joins Ctx.TileReady Ctx.TileArrived Ctx.PairReady; infer_instance)

/-- A tile operand may be read at once. -/
def tileReady (x : Ctx) (a : TileArg) : Bool := @decide (x.TileReady a) (by delta Ctx.TileReady Ctx.TileArrived; infer_instance)

/-- Nothing of a tile operand is still to be written. -/
def tileArrived (x : Ctx) (a : TileArg) : Bool := !x.tilePending a && !x.tileQueued a

/-- The C pair s8:s9 may be read at once. -/
def pairReady (x : Ctx) : Bool := @decide (x.PairReady 4) (by delta Ctx.PairReady; infer_instance)

/-- What a product without a gang gives. -/
def solo (z : Bool) (x : Ctx) (i : Instr) : Except Trap MatOp :=
  x.s.finishProduct x.b x.g (x.wordVal i) x.act z
    [(x.s.tileSrc x.b x.g (x.g.tileArg (.buf 2)) (x.s.tileHeader x.b x.g false (x.g.tileArg (.buf 2))), (x.g.tileArg (.buf 2)).name)]
    (x.g.tileArg (.buf 3)) (pairOf (x.g.pairVal 4)) [x.c.gid]

/-- Products without a gang that start, and that fail for want of a result header in C or by A; with a gang, a failing A, the first arrival,
and the last one. -/
theorem witness_products : ∀ z ∈ [false, true], let i := if z then Instr.mmaz 4 (.buf 2) (.buf 3) else .mma 4 (.buf 2) (.buf 3)
    meets i (tilesIn 1 [tileGroup 0 0]) (fun x => (gangList x.p.gang).isEmpty && tileReady x (x.g.tileArg (.buf 2)) && tileReady x (x.g.tileArg (.buf 3)) && pairReady x &&
      (x.checkA i (x.g.tileArg (.buf 2))).isNone && (match solo z x i with | .ok op => op.gids == [0] | .error _ => false)) = true ∧
    meets i (tilesIn 2 [{ tileGroup 0 0 with s := Sparse.putAll [] [(4, 3 <<< 48), (5, 96), (6, 4 <<< 48), (7, 96), (8, 1 <<< 48), (9, 128)] }]) (fun x =>
      (gangList x.p.gang).isEmpty && tileArrived x (x.g.tileArg (.buf 2)) && tileArrived x (x.g.tileArg (.buf 3)) && pairReady x &&
      (x.checkA i (x.g.tileArg (.buf 2))).isNone && (match solo z x i with | .ok _ => false | .error _ => true)) = true ∧
    meets i (tilesIn 2 [{ tileGroup 0 pairGang with s := [] }, tileGroup 1 0]) (fun x => !(gangList x.p.gang).isEmpty &&
      tileArrived x (x.g.tileArg (.buf 2)) && tileArrived x (x.g.tileArg (.buf 3)) && pairReady x && (x.checkA i (x.g.tileArg (.buf 2))).isSome) = true ∧
    meets i (tilesIn 2 [tileGroup 0 pairGang, tileGroup 1 0]) (fun x => joins x i (.buf 2) (.buf 3) &&
      (rendezvousOf (x.b.arrivals ++ [x.arrival z 4 (.buf 2) (.buf 3)]) (gangList x.p.gang)).isNone) = true := by decide +kernel

/-- An arrival of a group at `mmaz` of those tiles. -/
def arrived (gid : Nat) : Arrival :=
  { gid := gid, age := 0, z := true, gang := pairGang, a := { hdr := tileA, loc := .buf .wgt 0 0 [] [] [] }, aval := 0, d := 4,
    cpair := (tileGroup 0 0).pairVal 4, b := .buf 3, bpair := (tileGroup 0 0).pairVal 3, bregs := [] }

/-- The last arrival of a gang of two, and a joint operation that passes every check. -/
theorem witness_rendezvous : let s := tilesIn 2 [tileGroup 0 pairGang, tileGroup 1 pairGang] [arrived 1]
    (∀ z ∈ [false, true], let i := if z then Instr.mmaz 4 (.buf 2) (.buf 3) else .mma 4 (.buf 2) (.buf 3)
      meets i s (fun x => joins x i (.buf 2) (.buf 3) &&
        (rendezvousOf (x.b.arrivals ++ [x.arrival z 4 (.buf 2) (.buf 3)]) (gangList x.p.gang)).isSome) = true) ∧
    (arrived 0).agrees (arrived 1) = true ∧ ([arrived 0, arrived 1].map (·.gid)).Nodup ∧
    ((s.block? 0).any fun b => (b.group? 0).any fun g0 => (g0.dataBad (arrived 0).bArg (s.tileHeader b g0 false (arrived 0).bArg)).isNone &&
      (match s.finishProduct b g0 0 (BitVec.allOnes 32) true
        ([arrived 0, arrived 1].map fun p => (s.retake b p.a, p.aval)) (arrived 0).bArg (pairOf (arrived 0).cpair) [0, 1] with
      | .ok _ => true | .error _ => false)) = true := by decide +kernel

/-- An i8 tile without options (R250). -/
theorem witness_integer_tile : hFmt tileA = 7 ∧ hSpr tileA = 0 ∧ hScl tileA = 0 ∧ hFmt tileB = 7 ∧ hSpr tileB = 0 ∧ hScl tileB = 0 := by
  decide +kernel

/-- A group with headers in registers and the f32 tile of 32 bytes at the start of S, which s4:s5 names. -/
def movers (regs : List (Nat × Word)) (pend : List Pend) (q : List StoreOp) : State :=
  machine probeLaunch { probeBlock with S := headerBytes tileF, sSize := 256, cSize := 256, groups := [{ g0 with
    v := Sparse.putAll [] regs, pend := pend, stq := q, s := Sparse.putAll [] [(4, 1 <<< 48), (5, 16), (6, 5 <<< 48), (7, 16)] }] }

/-- `tld` with a failing check of each kind, on a locked region, with a pending destination, and the load; `tst` with a failing check, on a locked region, and the store;
`thdr` past the bound, of a reserved format, and of a legal header; `tchk` of a tile in a register, and outside its buffer. -/
theorem witness_tile_moves :
    meets (.tld 8 5) (movers [] [] []) (fun x => (x.tldEarly (.tld 8 5) 8 (pairOf (x.g.pairVal 5))).isSome) = true ∧
    meets (.tld 8 3) (movers [] [] []) (fun x => (x.tldEarly (.tld 8 3) 8 (pairOf (x.g.pairVal 3))).isNone && !x.s.lockedAt 16 (.buf 0 .acc 0) &&
      (x.tldFail 8 (pairOf (x.g.pairVal 3))).isSome) = true ∧
    meets (.tld 8 3) { movers [] [] [] with blocks := (movers [] [] []).blocks.map fun b => { b with matops := [locks] } } (fun x =>
      (x.tldEarly (.tld 8 3) 8 (pairOf (x.g.pairVal 3))).isNone && x.s.lockedAt 16 (.buf 0 .acc 0)) = true ∧
    meets (.tld 8 2) (movers [] [held [9]] []) (fun x => (x.tldEarly (.tld 8 2) 8 (pairOf (x.g.pairVal 2))).isNone &&
      (x.tldFail 8 (pairOf (x.g.pairVal 2))).isNone && !x.s.lockedAt 16 (.buf 0 .scr 0) &&
      x.g.pendingOn (tileRegs tileF (.reg 8)) [] false) = true ∧
    meets (.tld 8 2) (movers [] [] []) (fun x => (x.tldEarly (.tld 8 2) 8 (pairOf (x.g.pairVal 2))).isNone &&
      (x.tldFail 8 (pairOf (x.g.pairVal 2))).isNone && !x.s.lockedAt 16 (.buf 0 .scr 0) && x.hold 32 [(0, .buf 0 .scr 0)] == .go &&
      x.g.quantum.isEmpty && x.g.bad.isEmpty) = true ∧
    meets (.tst 2 8) (movers [] [] []) (fun x => tileReady x (.reg 8) &&
      (x.tstFail (.tst 2 8) (pairOf (x.g.pairVal 2)) 8).isSome) = true ∧
    meets (.tst 3 8) ({ movers (headerWords 8 tileF) [] [] with blocks := (movers (headerWords 8 tileF) [] []).blocks.map fun b =>
      { b with matops := [locks] } }) (fun x => tileReady x (.reg 8) && (x.tstFail (.tst 3 8) (pairOf (x.g.pairVal 3)) 8).isNone && x.s.lockedAt 32 (.buf 0 .acc 0)) = true ∧
    meets (.tst 2 8) (movers (headerWords 8 tileF) [] []) (fun x => tileReady x (.reg 8) && (x.tstFail (.tst 2 8) (pairOf (x.g.pairVal 2)) 8).isNone &&
      !x.s.lockedAt 32 (.buf 0 .scr 0) && x.g.quantum.isEmpty) = true ∧
    meets (.thdr 8 2) (onGroup { g0 with baseN := 8 }) (fun x => decide (x.g.bound ≤ 8)) = true ∧
    meets (.thdr 7 2) (onGroup { withS [(4, 0x800)] with baseN := 8 }) (fun x => decide (7 < x.g.bound) && (definedReason (sealHeader (x.g.pairVal 2))).isSome) = true ∧
    meets (.thdr 7 2) (onGroup { g0 with baseN := 8 }) (fun x => decide (7 < x.g.bound) && (definedReason (sealHeader (x.g.pairVal 2))).isNone &&
      !x.g.pendingOn [7] [] false && x.g.bad.isEmpty) = true ∧
    meets (.tchk 1 (.reg 8)) (onGroup g0) (fun x => !x.g.pendingOn [8] [] false &&
      (tileStep2 (x.wordVal (.tchk 1 (.reg 8))) x.g.bound x.act false (.reg 8)).isNone && (x.b.tileStep1 vectorSource (.reg 8)).isNone &&
      (x.s.headerBad x.b x.g (.reg 8)).isNone) = true ∧
    meets (.tchk 1 (.buf 2)) (onGroup (withS [(4, 1 <<< 48)])) (fun x => !(x.g.tileArg (.buf 2)).bad &&
      (x.b.tileStep1 vectorSource (x.g.tileArg (.buf 2))).isSome) = true := by decide +kernel

/-- The hypotheses on a producing instruction, and its end: 0 a fault of the shared checks, 1 one of its own, 2 the operation. -/
def produceMeets (i : Instr) (s : State) (src : Option TileRef) (dst : TileRef) (own : Nat → Nat → Option (Nat × Nat × Bool)) (kind : Nat) : Bool :=
  meets i s fun x =>
    let a := src.map x.g.tileArg
    let d := x.g.tileArg dst
    let hd := x.s.tileHeader x.b x.g false d
    let ha := match a with | some y => x.s.tileHeader x.b x.g false y | none => 0
    (a.toList ++ [d]).all (fun y => !x.tilePending y) && (a.bind x.tileBad).isNone && x.g.bad.isEmpty &&
      (if (x.produceFail i a d).isSome then 0 else if (own ha hd).isSome then 1 else 2) == kind

/-- Each producing instruction to registers, and `tfill` to C too; `cvtt` with a fault of the shared checks and with one of its own. -/
theorem witness_producers :
    produceMeets (.cvtt (.reg 8) (.reg 20)) (onGroup g0) (some (.reg 8)) (.reg 20) cvttFail 0 = true ∧
    produceMeets (.cvtt (.reg 8) (.reg 20)) (movers (headerWords 8 tileF ++ headerWords 20 tileH) [] []) (some (.reg 8)) (.reg 20) cvttFail 1 = true ∧
    produceMeets (.cvtt (.reg 8) (.reg 20)) (movers (headerWords 8 tileF ++ headerWords 20 tileF) [] []) (some (.reg 8)) (.reg 20) cvttFail 2 = true ∧
    produceMeets (.transq (.reg 8) (.reg 40)) (movers (headerWords 8 tileT ++ headerWords 40 tileT) [] []) (some (.reg 8)) (.reg 40) transqFail 2 = true ∧
    produceMeets (.tfill 4 (.reg 20)) (movers (headerWords 20 tileF) [] []) none (.reg 20) (fun _ _ => none) 2 = true ∧
    produceMeets (.tfill 4 (.buf 3)) (machine probeLaunch { probeBlock with C := headerBytes tileF, cSize := 256, groups := [withS [(6, 5 <<< 48), (7, 16)]] })
      none (.buf 3) (fun _ _ => none) 2 = true ∧
    meets (.tfill 4 (.reg 20)) (movers (headerWords 20 tileF) [held [20]] []) (fun x => x.tilePending (.reg 20)) = true := by
  decide +kernel

theorem rootEntry_held {s : State} {part e : Nat} {asid : BitVec 16} (h : s.rcache = [(part, asid, e)])
    (m : s.readNat (s.procroot part + 16 * asid.toNat) 16 = e) : s.rootEntry part asid = (e, s) := by
  cases s
  subst h
  simp [State.rootEntry, State.cached, m]

theorem layoutRecord_held {s : State} {core part slot root page r : Nat} {asid : BitVec 16} (h : s.rootEntry part asid = (root, s))
    (p : layoutPage root = some page) (l : s.lcache = [⟨core, part, asid, slot, r⟩]) (m : s.readNat (page + 64 * slot) 64 = r) :
    s.layoutRecord core part asid slot = (some r, s) := by
  simp only [State.layoutRecord, h, p]
  cases s
  subst l
  simp [State.cached, m]

/-- A root entry with a layout page at PA 4096 (LV, LROOT), held by the device and in memory. -/
def rootWord : Nat := 2 ^ 64 + 2 ^ 76

/-- A valid layout record with the seed 1, in slot 0 of that page. -/
def seedRecord : Nat := 2 ^ 224 + 2 ^ 256 + 2 ^ 257

/-- Both in memory and in the caches. -/
def seedState : State :=
  { ((movers (headerWords 8 tileH ++ headerWords 20 tileQ) [] []).writeMem 0 (leBytes 16 rootWord)).writeMem 4096 (leBytes 64 seedRecord) with
    rcache := [(0, 0, rootWord)], lcache := [⟨0, 0, 0, 0, seedRecord⟩] }

/-- `hadq` of tiles that pass finds its seed, and nothing changes when it reads it. -/
theorem witness_seed : seedState.layoutRecord 0 0 0 0 = (some seedRecord, seedState) ∧
    produceMeets (.hadq 3 (.reg 8) (.reg 20)) seedState (some (.reg 8)) (.reg 20) (hadqFail (some 1)) 2 = true ∧
    (((some seedRecord).filter fun x => layoutValid x && bitOf x 257).map fun x => BitVec.ofNat 32 (slice x 255 224)) = some 1 :=
  ⟨layoutRecord_held (page := 4096) (root := rootWord) (rootEntry_held rfl (by decide +kernel)) (by decide +kernel) rfl (by decide +kernel),
    by decide +kernel, by decide +kernel⟩

/-- An open handle on the window queue 0 of stack 0 with every right, of a kind, with reserved cells. -/
def handle (kind rcnt : Nat) : Handle :=
  { vqn := 0, rights := 15, bound := false, rseq := 0, rcnt := rcnt, pkg := 0, front := false, stk := 0, pq := 0, kind := kind, dep := false,
    dtag := 0, opening := false, asked := none, esz := 0, why := 0 }

/-- A block with handles and 256 bytes of S; s3 is 0, s4 a number. -/
def queueIn (hs : Assoc Handle) (n : Nat) (q : List StoreOp) : State :=
  machine probeLaunch { withBuffers with handles := hs, groups := [{ withS [(4, BitVec.ofNat 64 n)] with stq := q }] }

/-- The handle that s3 names passes the checks of R338. -/
def opens (x : Ctx) (need : Nat) (kinds : List Nat) : Bool :=
  match Assoc.get? x.b.handles (x.rds 3).toNat with
  | some hd => decide ((x.rds 3).toNat < 16) && !hd.opening && hd.rights &&& need != 0 && (kinds.isEmpty || kinds.contains hd.kind) && !hd.dep &&
      x.s.connected hd.pkg && hd.asked.isNone
  | none => false

/-- A handle operand that names nothing, and for each queue instruction one that is open, with and without reserved cells. -/
theorem witness_handles :
    allIssue (onGroup g0) [.qrsv 1 3 4, .qput 3 8, .emit 3 8, .qputs 3 4, .qget 8 3, .qtry 8 3, .qgets 1 3 4, .qpeek 1 3] = true ∧
    (onGroup g0).blocks.all (fun b => b.handles.isEmpty) = true ∧
    (∀ n ∈ [0, 33], meets (.qrsv 1 3 4) (queueIn [(0, handle 0 0)] n []) (fun x => opens x rightPut [0, 2, 3] && !decide (1 ≤ (x.rds 4).toNat ∧ (x.rds 4).toNat ≤ 32)) = true) ∧
    (∀ n ∈ [1, 32], ∀ r ∈ [0, 1], meets (.qrsv 1 3 4) (queueIn [(0, handle 0 r)] n []) (fun x => opens x rightPut [0, 2, 3] &&
      (x.rds 4).toNat % eszCells (x.s.eszOf (handle 0 r)) == 0) = true) ∧
    (∀ i ∈ [(Instr.qput 3 127, rightPut, 0), (.emit 3 127, rightEmit, 3)], ∀ r ∈ [0, 1], ∀ q ∈ [[], [StoreOp.glb 0 0 [1] 0]],
      meets i.1 (queueIn [(0, handle i.2.2 r)] 0 q) (fun x => opens x i.2.1 [i.2.2] &&
        (elemRegs 127 (eszBytes (x.s.eszOf (handle i.2.2 r)))).all (fun k => decide (k < x.g.bound) && !x.g.pendingOn [k] [] false) &&
        x.g.bad.isEmpty && x.g.quantum.isEmpty) = true) ∧
    (∀ i ∈ [(Instr.qputs 3 4, rightPut, [0, 2], kindR), (.qgets 1 3 4, rightTake, [], kindW)],
      meets i.1 (queueIn [(0, handle 0 1)] 256 []) (fun x => opens x i.2.1 i.2.2.1 && (match x.elemPlaces i.2.2.2 16 (x.rds 4) with | .wait _ => true | _ => false)) = true ∧
      meets i.1 (queueIn [(0, handle 0 1)] (taggedScr 8) []) (fun x => opens x i.2.1 i.2.2.1 && (match x.elemPlaces i.2.2.2 16 (x.rds 4) with | .trap _ => true | _ => false)) = true ∧
      (∀ r ∈ [0, 1], meets i.1 (queueIn [(0, handle 0 r)] (taggedScr 240) []) (fun x => opens x i.2.1 i.2.2.1 && eszBytes (x.s.eszOf (handle 0 r)) == 16 &&
        (match x.elemPlaces i.2.2.2 16 (x.rds 4) with | .ok ps => x.hold 16 ps == .go | _ => false)) = true)) ∧
    (∀ i ∈ [Instr.qget 127 3, .qtry 127 3, .qpeek 1 3], meets i (queueIn [(0, handle 0 0)] 0 []) (fun x => opens x rightTake [] &&
      (elemRegs 127 (eszBytes (x.s.eszOf (handle 0 0)))).all (fun k => decide (k < x.g.bound)) && x.g.pend.isEmpty) = true) := by decide +kernel

/-- Memory with a root entry whose queue translation table stands at PA 4096 and holds an entry for number 0, with s3 the operand of `qopen`. -/
def openIn (entry v : Nat) (hs : Assoc Handle) : State :=
  ((machine probeLaunch { probeBlock with handles := hs, groups := [withS [(3, BitVec.ofNat 64 v)]] }).writeMem 0 (leBytes 16 (1 + 4096))).writeMem 4096
    (leBytes 16 entry)

/-- `qopen` issues there, and finds an entry of which `p` holds. -/
def opening (e v : Nat) (p : QueueEntry → Bool) : Bool :=
  meets (.qopen 1 3 0) (openIn e v []) fun x =>
    match ((openIn e v []).queueEntry x.b.stk x.l.part x.l.asid (field (x.rds 3) 15 0)).1 with
    | some q => p q
    | none => false

/-- `qopen` with 16 open handles, of a number without an entry, with a right the entry lacks, of a queue of elements, and of a deposit queue. -/
theorem witness_qopen :
    meets (.qopen 1 3 0) (openIn 0 0 ((List.range 16).map fun h => (h, handle 0 0))) (fun x => (List.range 16).all fun h => (Assoc.get? x.b.handles h).isSome) = true ∧
    meets (.qopen 1 3 0) (openIn 0 0xFEFF [(0, handle 0 0)]) (fun x => (Assoc.get? x.b.handles 1).isNone && (Assoc.get? x.b.handles 0).isSome &&
      decide (field (x.rds 3) 15 0 < 0xFF00)) = true ∧
    opening 3 0x20000 (fun q => 2 &&& q.rights != 2) = true ∧ opening 3 0x10000 (fun q => 1 &&& q.rights == 1 && !q.dep) = true ∧
    opening (5 + 2 ^ 8) 0x20000 (fun q => 2 &&& q.rights == 2 && q.dep) = true ∧
    (∀ v ∈ [(16 + 8 * 2 ^ 32, true), (0, false)], let s := { openIn (5 + 2 ^ 8) 0x20000 [] with blocks := (openIn (5 + 2 ^ 8) 0x20000 []).blocks.map fun b =>
        { b with sSize := 256, groups := [withS [(3, 0x20000), (8, BitVec.ofNat 64 (taggedScr 0)), (9, BitVec.ofNat 64 v.1)]] } }
      meets (.qopen 1 3 4) s (fun x => (Assoc.get? x.b.handles 0).isNone && (match x.translateQueue 0 with
        | (some q, s1) => q.dep && 2 &&& q.rights == 2 && s1.connected q.pkg && (LaneAddr.ofTag 0 (x.rdn 8)).sp == some .scr &&
          (match (x.binding s1 0 (q.handle 0 2) (x.rdn 8) (x.rdn 9)).1 with | .ok _ => true | .error _ => false) == v.2
        | _ => false)) = true) ∧
    meets (.qopen 1 3 0) (openIn 0 0 []) (fun x => ((openIn 0 0 []).queueEntry x.b.stk x.l.part x.l.asid 0).1.isNone) = true := by decide +kernel

/-- `qclose` of an open handle, of one that is not open, and of 16; `qack` with and without a put; `qsvc` with a reserved bit, with no lane,
with a queued store, and with requests for 0, 1 and 32 reserved cells. -/
theorem witness_service :
    meets (.qclose 3) (queueIn [(0, handle 0 0)] 0 []) (fun x => (Assoc.get? x.b.handles (x.rds 3).toNat).any fun hd => !hd.opening) = true ∧
    meets (.qclose 3) (queueIn [] 0 []) (fun x => (Assoc.get? x.b.handles (x.rds 3).toNat).isNone) = true ∧
    meets (.qclose 4) (queueIn [] 16 []) (fun x => decide (16 ≤ (x.rds 4).toNat)) = true ∧ allIssue (onGroup g0) [.qfence, .qack] = true ∧
    meets .qack (onGroup { g0 with puts := [owed] }) (fun x => !x.g.puts.isEmpty) = true ∧
    meets (.qsvc 4 2) (queueIn [] (2 ^ 24) []) (fun x => decide (2 ^ 24 ≤ (x.rds 4).toNat)) = true ∧
    (∀ n ∈ [0, 1, 32], meets (.qsvc 4 2) (queueIn [(0, handle 1 n), (1, handle 0 0)] 16 []) (fun x => opens x rightSvc [1] && (x.rds 4).toNat / 2 ^ 8 % 16 != 9 &&
      (Assoc.get? x.b.handles 1).any (fun h => !h.opening && h.rights &&& rightTake != 0 && !h.dep) && x.act != 0 && x.g.stq.isEmpty && x.g.quantum.isEmpty && !x.s.coreTransit x.b &&
      (State.fillRequests x.c.blk x.c.gid 0 ⟨0, x.g.epoch, x.s.nextReq⟩ n (((lanesOf x.act).drop x.p.qdone).flatMap (x.request (x.rds 4).toNat (handle 0 0) 4))
        x.s).1.isEmpty == (n == 32)) = true) ∧
    meets (.qsvc 4 2) (queueIn [(0, handle 1 0), (1, handle 0 0)] 16 [.glb 0 0 [1] 0]) (fun x => opens x rightSvc [1] && x.act != 0 && !x.g.stq.isEmpty) = true ∧
    meets (.qsvc 4 2) (machine probeLaunch { probeBlock with handles := [(0, handle 1 0), (1, handle 0 0)], groups := [{ withS [(4, 16)] with
      splits := [{ p0 with mode := 0 }] }] }) (fun x => opens x rightSvc [1] && x.act == 0) = true := by decide +kernel

/-- A state with s3 and s4, privileged or not. -/
def tableIn (priv : Bool) (a b : Nat) (f : Group → Group := id) : State :=
  machine { probeLaunch with priv := priv } { probeBlock with groups := [f (withS [(3, BitVec.ofNat 64 a), (4, BitVec.ofNat 64 b)])] }

/-- The group with a store to PA 0 in its queue. -/
def storing (g : Group) : Group := { g with stq := [.glb 0 0 [1] 0] }

/-- `tlbinv` with a reserved bit, of another address space, of the page at 4096 with nothing and with a store in flight to its frame, and after
the wait for it; `qxset` of each legal operation and of an operand that is none. -/
theorem witness_translations :
    (∀ v ∈ [2 ^ 30, 2 ^ 35], meets (.tlbinv 3 4) (tableIn false 4096 v) (fun x => x.p.inval.isEmpty && decide ((x.rds 4).toNat / 2 ^ 30 % 4 ≠ 0 ∨ (x.rds 4).toNat / 2 ^ 35 ≠ 0)) = true) ∧
    (∀ v ∈ [1, 2 ^ 16, 2 ^ 33], meets (.tlbinv 3 4) (tableIn false 4096 v) (fun x => !x.l.priv && decide ((x.rds 4).toNat % 2 ^ 16 ≠ x.l.asid.toNat ∨
      (x.rds 4).toNat / 2 ^ 16 % 2 ^ 14 ≠ x.l.vmid.toNat ∨ bitOf (x.rds 4).toNat 33 = true)) = true) ∧
    meets (.tlbinv 3 4) (tableIn false 4096 0) (fun x => let s := tableIn false 4096 0
      let sel := tlbSelect (x.rds 3).toNat (x.rds 4).toNat
      x.p.inval.isEmpty && (s.framesOf sel).length == 1 && !(s.dropLeaves sel).framesBusy (s.framesOf sel)) = true ∧
    meets (.tlbinv 3 4) (tableIn false 4096 0 storing) (fun x => let s := tableIn false 4096 0 storing
      let sel := tlbSelect (x.rds 3).toNat (x.rds 4).toNat
      x.p.inval.isEmpty && (s.dropLeaves sel).framesBusy (s.framesOf sel)) = true ∧
    meets (.tlbinv 3 4) (tableIn false 4096 0 fun g => { g with splits := [{ p0 with inval := [(0, 4096)] }] }) (fun x => !x.p.inval.isEmpty &&
      !x.s.framesBusy x.p.inval) = true ∧
    (∀ v ∈ [0, 1, 2, 3, 4, 8, 10, 2 ^ 31 + 3, 2 ^ 32], ∀ i ∈ [Instr.qxsetDropVqn 1 3 4, .qxsetDropAsid 1 3 4, .qxsetDropAll 1 3 4, .qxsetWriteDescriptor 1 3 4],
      meets i (tableIn true v 4096) (fun x => (x.rds 3).toNat == v && x.g.quantum.isEmpty) = true) ∧
    meets (.qxsetWriteDescriptor 1 3 4) (tableIn true 3 4096) (fun x => match x.accessTag kindR 64 (fun sp => decide (sp = .glb)) (x.rds 4) with
      | .ok ((_, p) :: _) => x.hold 64 [(0, p)] == .go
      | _ => false) = true := by decide +kernel

/-- Memory with a root entry at PA 0 and a layout record at PA 64, whose VA s4 holds. -/
def layoutIn (root record slot : Nat) : State := ((tableIn false slot (4096 + 64)).writeMem 0 (leBytes 16 root)).writeMem 64 (leBytes 64 record)

/-- `lrload` and `lrinv` past the last slot, in a process without a layout page, and with one; a record that is refused, and one that is not
valid and so is written. -/
theorem witness_layouts :
    (∀ i ∈ [Instr.lrload 1 3 4, .lrinv 3], meets i (layoutIn 0 0 64) (fun x => decide (64 ≤ (x.rds 3).toNat)) = true ∧
      (∀ e ∈ [0, rootWord], meets i (layoutIn e 0 63) (fun x => decide ((x.rds 3).toNat < 64) && x.g.stq.isEmpty && x.g.puts.isEmpty && x.g.quantum.isEmpty &&
        ((layoutPage ((layoutIn e 0 63).rootEntry x.l.part x.l.asid).1).isSome == (e == rootWord))) = true)) ∧
    (∀ e ∈ [0, rootWord], ∀ r ∈ [0, 2 ^ 256], meets (.lrload 1 3 4) (layoutIn e r 63) (fun x => let s := layoutIn e r 63
      decide ((x.rds 3).toNat < 64) && x.g.stq.isEmpty && x.g.puts.isEmpty && x.g.quantum.isEmpty && !s.coreTransit x.b &&
      ((layoutPage (s.rootEntry x.l.part x.l.asid).1).isSome == (e == rootWord)) &&
      (match x.accessTag kindR 64 (fun sp => decide (sp = .glb)) (x.rds 4) with
      | .ok ((_, .glb pa) :: _) => !s.engineOwns pa 64 && leNat (s.readMem pa 64) == r
      | _ => false)) = true) ∧
    (layoutValid (2 ^ 256) = true ∧ layoutAccepted (2 ^ 256) = false ∧ layoutValid 0 = false) := by decide +kernel

/-- The block of the issuing group with 256 bytes of S and an entry, and a publisher of the same grid. -/
def subsIn (y : Sub) (a0 a1 v : Nat) : State :=
  { machine probeLaunch probeBlock with blocks :=
      [{ withBuffers with subs := [(0, y)], groups := [withS [(4, BitVec.ofNat 64 a0), (5, BitVec.ofNat 64 a1), (3, BitVec.ofNat 64 v)]] },
       { withBuffers with uid := 1, lin := 1, core := 1, groups := [] }] }

/-- The entry that `wsub` asks for. -/
def asked (y : Sub) (a0 a1 : DWord) (v : Nat) : Sub :=
  { Sub.free with
    st := 1, reason := y.reason, pblk := field a0 31 0, poff := field a0 63 32, plen := field a1 31 0, moff := field a1 63 32,
    bar := bitOf v 20, boff := v % 2 ^ 16 }

/-- `wsub` issues, and its checks pass or not. -/
def subscribes (y : Sub) (a0 a1 v : Nat) (ok : Bool) : Bool :=
  meets (.wsub 2 3) (subsIn y a0 a1 v) fun x => x.g.quantum.isEmpty && decide (v < 2 ^ 21) && decide (x.b.place = .resident) && !x.g.stopping x.p &&
    (match x.subscribe (asked y (x.rdn 4) (x.rdn 5) v) (v / 2 ^ 16 % 16) with | .ok _ => true | .error _ => false) == ok

/-- `wsub` with a reserved bit, of an entry in use, past the publisher's S, and a subscription to all of it; `wunsub` of 16, of a free, an orphaned
and an active entry; `wflush` of 0, of 1 and 15, of 32, of a free entry and of an active one. -/
theorem witness_subscriptions :
    meets (.wsub 2 3) (subsIn Sub.free 1 256 (2 ^ 21)) (fun x => decide (2 ^ 21 ≤ (x.rds 3).toNat)) = true ∧
    subscribes { Sub.free with st := 1 } 1 256 0 false = true ∧ subscribes Sub.free 1 260 0 false = true ∧ subscribes Sub.free 1 256 0 true = true ∧
    subscribes Sub.free (1 + 252 * 2 ^ 32) (4 + 252 * 2 ^ 32) (2 ^ 20 + 15) true = true ∧ subscribes Sub.free 1 4 (2 ^ 20 + 16) false = true ∧
    meets (.wunsub 3) (subsIn Sub.free 0 0 16) (fun x => decide (16 ≤ (x.rds 3).toNat)) = true ∧
    (∀ k ∈ [0, 1, 2, 3], meets (.wunsub 3) (subsIn { Sub.free with st := k } 0 0 0) (fun x => (x.b.sub (x.rds 3).toNat).st == k) = true) ∧
    (∀ v ∈ [0, 1, 15, 32], meets (.wflush 3) (subsIn Sub.free 0 0 v) (fun x => (x.rds 3).toNat == v) = true) ∧
    (∀ k ∈ [0, 1], meets (.wflush 3) (subsIn { Sub.free with st := k } 0 0 16) (fun x => (x.b.sub ((x.rds 3).toNat - 16)).st == k) = true) := by decide +kernel

/-- `cwait` on PA 0 for a value, beside copies that run. -/
def cwaits (c : List CopyOp) (a : Nat) : (Ctx → Bool) → Bool :=
  meets (.cwait 1 3 4) { tableIn false 4096 a with blocks := (tableIn false 4096 a).blocks.map fun b => { b with copies := c } }

/-- `crd` and `eqry` at each selector and past the last; `eres` and `erel`; `cwait` on a word an engine owns, on one that has reached the value, and
on one that has not. -/
theorem witness_counters :
    (∀ v ∈ [0, 1, 2, 3, 4, 5], ∀ i ∈ [Instr.crd 1 3, .eqry 1 3], meets i (tableIn false v 0) (fun x => (x.rds 3).toNat == v) = true) ∧
    allIssue (onGroup g0) [.eres 1 2, .erel 1 2] = true ∧
    (cwaits [{ running with dsts := [(.glb 0, 0, 64)] }] 0 (fun x => x.s.ownedAt 8 (.glb 0) && x.g.stq.isEmpty && x.g.quantum.isEmpty) = true ∧
      cwaits [] 0 (fun x => !x.s.ownedAt 8 (.glb 0) && x.g.stq.isEmpty && x.g.quantum.isEmpty && !x.s.coreTransit x.b && decide ((x.rds 4).toNat ≤ leNat (x.s.placeBytes (.glb 0) 8))) = true ∧
      cwaits [] 1 (fun x => !x.s.ownedAt 8 (.glb 0) && x.g.stq.isEmpty && x.g.quantum.isEmpty && !x.s.coreTransit x.b && decide (leNat (x.s.placeBytes (.glb 0) 8) < (x.rds 4).toNat)) = true) ∧
    meets (.cwait 1 3 4) (tableIn false 4096 0) (fun x => match x.accessTag kindR 8 (fun sp => decide (sp = .glb) || decide (sp = .scr)) (x.rds 3) with
      | .ok [(_, .glb 0)] => true
      | _ => false) = true ∧
    (taggedScr 248 % 8 = 0 ∧ 248 + 8 ≤ withBuffers.sSize ∧ withBuffers.sSize < 256 + 8) := by decide +kernel

/-! ### Events -/

/-- A state with the argument of an event. -/
def at_ (s : State) (e : EvArg) : State := { s with ev := e }

/-- The group, pending result, delayed reduction, walk, remote arrival, copy and matrix operation that an event acts on. -/
theorem witness_arrivals :
    (∀ k ∈ [PendKind.load, .long, .atomic], let s := onGroup { g0 with pend := [{ held [1] with kind := k }] }
      ((s.block? 0).any fun b => (b.group? 0).any fun g => (nth? g.pend 0).any fun p => p.kind == k && p.todo == 0 && (s.core b.stk b.core).racq.isEmpty) = true) ∧
    (∀ c ∈ [[], [{ running with dsts := [(.glb 0, 0, 64)] }]], let s := machine probeLaunch { probeBlock with copies := c, groups := [{ g0 with
        quantum := [⟨9, 7, .glb 0, 1, 0, 0⟩] }] }
      ((s.block? 0).any fun b => (b.group? 0).any fun g => (nth? g.quantum 0).any fun q => q.tgt == .glb 0 && s.blocked b (.glb 0) == !c.isEmpty) = true) ∧
    (let l := [⟨9, 7, .glb 0, 1, 0, 0⟩, ⟨9, 7, .glb 0, 2, 0, 0⟩]; (nth? l 1).any (fun (q : QuantumOp) => (l.take 1).any fun e => e.tgt == q.tgt) = true) ∧
    (let s := (onGroup { g0 with splits := [{ p0 with wait := .walk }] }).updStack 0 fun k => { k with walks := [⟨0, 0, 0, 0, 0, 8192, 0⟩] };
      s.dies.length = 4 ∧ s.ports.length = 5 ∧ s.sources.length = 5 ∧ s.frontUp 0 = true ∧
      ({ s with links := (List.range 4).map fun m => (linkKey 0 3 m, { LinkEnd.reset with down := true }) } : State).frontUp 0 = false ∧
      (nth? ((s.stack 0).walks.take 512) 0).any (fun w => decide ((s.walkPage w).1 ≤ w.va ∧ w.va < (s.walkPage w).1 + (s.walkPage w).2)) = true ∧ ((nth? ((s.stack 0).walks.take 512) 0).any fun w => (s.block? w.blk).any fun b => (b.group? w.gid).any fun g => (g.split? w.age).isSome) = true ∧
      (∀ n < 4, n ≠ 0 → (s.stack n).walks = [])) ∧
    (let r : RemoteArrival := { src := (0, 0), blk := 0, off := 240, n := 1 };
      let s := { machine probeLaunch withBuffers with remote := [r, r] };
      let b := ((s.writeBar withBuffers 240 { bar0 with pa := 1 }).block? 0).getD withBuffers;
      nth? s.remote 0 = some r ∧ (s.remote.take 0).isEmpty = true ∧ (s.remote.take 1).any (fun e => e.src == r.src && e.blk == r.blk) = true ∧
      b.place = .resident ∧ (s.readBar b 240).ps + r.n < 2 ^ 32 ∧ (s.readBar b 240).pa ≠ 0) := by decide +kernel

/-- A barrier word with one arrival due may take a remote arrival. -/
theorem witness_remote_fits : ({ bar0 with ps := 1 } : Bar).Fits withBuffers 240 := by simp [Bar.Fits, bar0, Bar.ofNat, slice, bitOf, withBuffers]

/-- Copies whose source piece is still to be read, from S and from the locked C; whose sectors may land; a multicast with sectors to land. -/
def reading (sp : Space) : CopyOp := { running with srcs := [(.buf 0 sp 0, 32, [])], dsts := [(.glb 0, 0, 32), (.glb 32, 32, 32)] }
def landing : CopyOp := { reading .scr with srcs := [(.buf 0 .scr 0, 64, List.replicate 64 1)], lands := [(0, 0, 32), (0, 32, 32)] }

/-- The block with a copy, whose piece or sector 0 an event names. -/
def copying (c : CopyOp) (lo : Bool) : State :=
  { machine probeLaunch { withBuffers with matops := [locks], copies := [c] } with ev := { lo := lo } }

/-- A piece that waits and one that does not; a copy that is not ready; a sector that lands with and without another left; a multicast that is not
ready, that finds no receiver, and that finds one; its sector that lands. -/
theorem witness_copies_running :
    (∀ y ∈ [(Space.scr, false), (.acc, true)], let s := copying (reading y.1) true
      nth? (reading y.1).srcs s.ev.n = some (.buf 0 y.1 0, 32, []) ∧ s.ev.lo = true ∧
        (s.lockedAt 32 (.buf 0 y.1 0) || s.ownedBefore (reading y.1).seq (.buf 0 y.1 0) 32) = y.2) ∧
    (reading .scr).ready = false ∧
    (∀ l ∈ [[(Loc.glb 0, 0, 32)], [(.glb 0, 0, 32), (.glb 32, 32, 32)]], let c := { landing with dsts := l }
      let s := copying c false
      (s.block? s.ev.b).isSome = true ∧ s.ev.lo = false ∧ c.ready = true ∧ nth? c.dsts s.ev.n = some (.glb 0, 0, 32) ∧ c.bar = none ∧
        (s.lockedAt 32 (.glb 0) || s.ownedBefore c.seq (.glb 0) 32) = false ∧ (dropNth c.dsts s.ev.n).isEmpty = (l.length == 1)) ∧
    (∀ y ∈ [((0 : Nat), true), (1, false)], let c := { landing with clusters := [y.1, 2] }
      let s := copying c true
      c.clusters = [y.1, 2] ∧ c.ready = true ∧ ((s.block? 0).any fun b => ((s.receiver b y.1 c.rank).isSome == y.2) &&
        (s.receiver b y.1 c.rank).all fun v => decide (c.off + c.bytes.length ≤ v.bufSize c.sp)) = true) ∧
    (let s := copying landing false;
      s.ev.lo = false ∧ nth? landing.lands s.ev.n = some (0, 0, 32) ∧ landing.bar = none ∧ dropNth landing.lands s.ev.n ≠ [] ∧
        (s.block? 0).any (fun v => decide (v.place = .resident) && v.bars.isEmpty) = true) := by decide +kernel

/-- A matrix operation that may complete, and one that waits for a gated sub-array; a sub-array that may be gated, one whose wake has ended, and
one whose wake has not. -/
theorem witness_matrix_events : let s := machine probeLaunch { withBuffers with matops := [locks] }
    (s.matReady withBuffers 0 locks = true ∧ (s.updCore 0 0 fun c => { c with subs := [(0, { gated := true, wake := none })] }).matReady withBuffers 0 locks = false) ∧
    locks.dst = .buf .acc 0 0 ∧ s.poisoned = [] ∧
    (let t := (onGroup g0).updStack 0 fun k => { k with cycle := 1024 };
      (t.core 0 0).mgate ≠ 0 ∧ (t.core 0 0).idle + (t.core 0 0).mgate.toNat ≤ t.cycle 0 ∧ t.matrixBusy 0 0 = false) ∧
    (∀ w ∈ [0, 1], Assoc.get? (((onGroup g0).updCore 0 0 fun c => { c with subs := [(0, { gated := false, wake := some w })] }).core 0 0).subs 0 =
      some { gated := false, wake := some w }) ∧ (onGroup g0).cycle 0 = 0 := by decide +kernel

/-- Subscription batches that are due, that are not, and that land; a continuation with room and without; a rotation that is due. -/
theorem witness_block_events :
    (∀ c ∈ [255, 256], let s := (subsIn { Sub.free with st := 1, batch := [(0, [1])] } 0 0 0).updStack 0 (fun k => { k with cycle := c });
      (s.block? s.ev.b).any (fun b => decide (b.place = .resident) && !(b.sub s.ev.k).batch.isEmpty &&
        (decide ((b.sub s.ev.k).since + 256 ≤ s.cycle b.stk) == (c == 256))) = true) ∧
    (let y : SubBatch := { blk := 0, ent := 0, upd := [(252, [1, 2, 3, 4])], rem := false, orphan := false };
      let s := { subsIn { Sub.free with st := 1 } 0 0 0 with subnet := [y] };
      nth? s.subnet 0 = some y ∧ (s.subnet.take 0).isEmpty = true ∧ ((s.block? 0).any fun b => decide (b.place = .resident) && b.bars.isEmpty &&
        (b.sub 0).st == 1 && !(b.sub 0).bar && b.groups.all fun g => g.splits.all fun q => q.wait != .batch 3 0) = true) ∧
    (let c : Cont := { boff := 0, cpc := 1024, cln := 31, phase := 0 };
      let b := { probeBlock with conts := [c], baseN := 8 };
      let s := machine probeLaunch b;
      nth? b.conts 0 = some c ∧ b.freeGids.head? = some 1 ∧ b.place = .resident ∧ b.preempt = none ∧ s.freeSlots 0 0 ≠ [] ∧
        (s.core 0 0).racq = [] ∧ ceilDiv 8 8 ≤ s.freeGranules 0 0) ∧
    (∀ r ∈ [4095, 4096], ((onGroup { g0 with rot := r }).group? 0 0).any (fun g => g.rot == r && !g.suspended) = true) ∧
    (∀ q ∈ [[], [StoreOp.glb 0 0 [1] 0]], let s := onGroup { g0 with stq := q }
      s.framesBusy (s.framesOf (tlbSelect 4096 0)) = !q.isEmpty) := by decide +kernel

/-- A queue of 8 cells of 64 bytes at a port, with cells. -/
def queueDesc (kind : Nat) (cells : List Cell) : Desc :=
  { Desc.reset with
    valid := true, kind := kind, esz := 2, win := 8, cells := cells, rsv := cells.length }

/-- A reserved cell and a filled one, of the handle 0 of block 0. -/
def cell (st : CellState) (sram : Bool) : Cell := { seq := 0, prod := .handle 0 0, st := st, sram := sram, gid := 0 }

/-- The place of an answer: split 0 of group 0 of block 0, request 1, register 1, handle 0. -/
def back : RetTo := { blk := 0, gid := 0, age := 0, req := 1, d := 1, wage := 0, h := 0, hd := handle 0 0, op := 0, data := [] }

/-- A message of that handle to queue 0 of stack 0. -/
def message (body : MsgBody) : Msg :=
  { req := 1, pkg := 0, win := 0, pq := 0, dtag := 0, kind := 0, vqn := 0, prod := .handle 0 0, blk := 0, gid := 0, sent := 0, epoch := 0, body := body }

/-- The message on its way, and its home queue with cells. -/
def carrying (body : MsgBody) (cells : List Cell) : State :=
  { (machine probeLaunch { probeBlock with handles := [(0, { handle 0 0 with asked := some 1 })],
                                           groups := [{ g0 with splits := [{ p0 with wait := .answer 1 }] }] }).setDesc 0 0 (queueDesc 0 cells) with
    net := [message body] }

/-- Its home may take the message (`State.Delivers`). -/
def delivered (s : State) (m : Msg) : Bool :=
  nth? s.net s.ev.k == some m && m.pkg == s.pkg.toNat && m.at_ == .here m.win && !m.asleep && !s.fenced m && s.fails m == 0 && decide (m.win < 5) &&
    ((s.port m.win).answers.all fun a => a.1 != m.prod || a.2.1 != m.req) && (s.net.all fun x => !(x.asleep && m.repeats x)) &&
    (match m.prod with | .handle _ _ => true | _ => false) && s.ports.length == 5

theorem witness_messages :
    delivered (carrying (.reserve 1 back) []) (message (.reserve 1 back)) = true ∧ min 1 (queueDesc 0 []).room / (queueDesc 0 []).cellsPer * (queueDesc 0 []).cellsPer = 1 ∧
    min 1 { queueDesc 0 [] with win := 0 }.room = 0 ∧
    (let cs := [cell .reserved false]; delivered (carrying (.fill 1 0 1 0 [1]) cs) (message (.fill 1 0 1 0 [1])) = true ∧ (cs.any fun c => c.seq == 0 && c.st == .reserved) = true) ∧
    (delivered (carrying (.take .get back) [cell .filled true]) (message (.take .get back)) = true ∧ (queueDesc 0 [cell .filled true]).ready = [0]) ∧
    (∀ k ∈ [TakeKind.get, .try_], delivered (carrying (.take k back) []) (message (.take k back)) = true) ∧ (queueDesc 0 []).ready = [] ∧
    delivered (carrying (.peek back) []) (message (.peek back)) = true ∧
    delivered (carrying (.bind ⟨0, 0, true, 0, 64, 0, 64, []⟩ back) []) (message (.bind ⟨0, 0, true, 0, 64, 0, 64, []⟩ back)) = true ∧
    delivered (carrying (.close 0 1 false) [cell .reserved false]) (message (.close 0 1 false)) = true := by decide +kernel

/-- An answer that has reached the stack, to a message that is still kept, or that is not. -/
def answered (a : AnswerBody) (kept : Bool) (u : State) : State :=
  { u with replies := [⟨0, .here 0, 0, a, none⟩], kept := if kept then [message (.peek back)] else [] }

/-- It is there for the event (`State.Arrives`). -/
def arrives (s : State) (a : AnswerBody) : Bool :=
  (nth? s.replies s.ev.k).any fun y => y.body == a && y.out.isNone && y.at_ == .here y.dst &&
    (match a.request? with | some req => s.kept.any fun m => m.req == req | none => true)

/-- A group with a put and a split asleep at handle 0. -/
def sleeping : State :=
  machine probeLaunch { probeBlock with handles := [(0, handle 0 0)], groups := [{ g0 with puts := [⟨1, 0, 1⟩], splits := [{ p0 with wait := .queue 0 }] }] }

/-- Answers of each kind to a split that waits for them, and the second copy of one; an acknowledged put; a wake-up and a retry of a split asleep at a
handle, each while its record is on its way and not; a message that is due to be sent again, and one that is not. -/
theorem witness_answers : let s := carrying (.peek back) []
    ((s.block? 0).any fun b => b.preempt.isNone && ((b.group? 0).any fun g => (g.split? 0).any fun p => p.wait == .answer back.req) &&
      (Assoc.get? b.handles back.h).any fun hd => hd.asked == some back.req && !hd.opening) = true ∧ back.op = 0 ∧
    (∀ a ∈ [AnswerBody.counts 1 2 back, .desc true back, .desc false back, .nothing back, .taken .get 0 (List.replicate 64 1) back, .grant 0 1 2 0 back,
      .bound true back, .sleep back], arrives (answered a true s) a = true) ∧
    (∀ a ∈ [AnswerBody.counts 1 2 back, .ack 1 0 0], (answered a false s).kept = [] ∧ a.request? = some 1) ∧
    (arrives (answered (.ack 1 0 0) true sleeping) (.ack 1 0 0) = true ∧ (sleeping.group? 0 0).any (fun g => g.puts.any fun p => p.req == 1) = true) ∧
    ((sleeping.group? 0 0).any (fun g => (g.split? 0).any fun p => p.wait == .queue 0) = true ∧ arrives (answered (.wake 0 0 0) true sleeping) (.wake 0 0 0) = true ∧
      (answered (.wake 0 0 0) true sleeping).sleepOnWay ⟨0, 0, 0⟩ = false ∧
      (let u := { answered (.wake 0 0 0) true sleeping with replies := [⟨0, .here 0, 0, .wake 0 0 0, none⟩, ⟨1, .away, 0, .sleep back, none⟩] };
        arrives u (.wake 0 0 0) = true ∧ u.sleepOnWay ⟨0, 0, 0⟩ = true) ∧
      (sleeping.recorded ⟨0, 0, 0⟩ = false ∧ (answered (.wake 0 0 0) true sleeping).recorded ⟨0, 0, 0⟩ = true ∧
        (sleeping.block? 0).any (fun b => (Assoc.get? b.handles 0).any fun hd => hd.pkg == sleeping.pkg.toNat) = true)) ∧
    (∀ t ∈ [49999, 50000], let u := { answered (.nothing back) true s with time := t };
      (nth? u.kept u.ev.k).any (fun (m : Msg) => (decide (m.sent + 50000 ≤ u.time) == (t == 50000)) && !u.fenced m) = true) := by decide +kernel

/-- A service queue of stack 0 with a request, beside copies. -/
def asking (req : Nat) (c : List CopyOp) : State :=
  let s := (machine probeLaunch { probeBlock with copies := c }).setDesc 0 0 { queueDesc 1 [cell .filled true] with esz := 1 }
  (s.updPort 0 fun p => { p with cells := Sparse.write [] ((s.desc 0 0).sramAt 0) (leBytes 32 req) }).updStack (tlbStack 4096) fun k => { k with tlb := [probeEntry] }

/-- A super cell that has entered the window; a deposit queue with its binding; the two kinds of replay; a record in an outbox with room at
its queue and without; a request to the agent of each operation. -/
theorem witness_port_events :
    (queueDesc 0 [cell .filled false]).cells.filter (queueDesc 0 [cell .filled false]).due = [cell .filled false] ∧
    (let d := { queueDesc 0 [cell .filled true] with dep := true, bind := some ⟨0, 0, true, 0, 64, 0, 64, []⟩ };
      d.ready = [0] ∧ d.valid = true ∧ d.dep = true ∧ (onGroup g0).ownedAt d.bytes (.glb 0) = false ∧ (onGroup g0).ownedAt 8 (.glb 64) = false ∧ 0 + 64 ≤ 64) ∧
    (let s := fun r : BitVec 4096 => { onGroup g0 with ports := setNth (onGroup g0).ports 0 { (onGroup g0).port 0 with replay := r } };
      slice ((s 4).staged 0 0) 7 0 = 4 ∧ bitOf ((s 4).staged 0 0) 320 = false ∧ bitOf ((s (4 + BitVec.twoPow 4096 320)).staged 0 0) 320 = true ∧
      slice ((s (4 + BitVec.twoPow 4096 320)).staged 0 0) 7 0 = 4) ∧
    (∀ v ∈ [true, false], let s := (onGroup g0).setDesc 4 (onGroup g0).evPq { queueDesc 4 [] with valid := v };
      let u := s.updSource 2 fun e => { e with outbox := [7] };
      u.dies.length = 4 ∧ u.ports.length = 5 ∧ u.sources.length = 5 ∧ (u.source 2).outbox = [7] ∧ (u.putRecord 2 7).isSome = v) ∧
    (∀ op < 16, ∀ wide ∈ [0, 1], let s := asking (op + 16 * wide) [];
      (s.desc 0 0).ready = [0] ∧ (s.desc 0 0).valid = true ∧ (s.desc 0 0).kind = 1 ∧ (s.kept.any fun m => decide (m.prod = .agent 0 0 0)) = false ∧
      (let req := leNat (s.readCells 0 (s.desc 0 0) 0 (s.desc 0 0).cellsPer);
        slice req 3 0 = op ∧ bitOf req 4 = (wide == 1) ∧ (s.svcExec 0 (s.desc 0 0).dtag req).isSome = true)) ∧
    (let s := asking (2 ^ 64 * 4096) [{ running with dsts := [(.glb 0, 0, 64)] }];
      (s.svcExec 0 (s.desc 0 0).dtag (leNat (s.readCells 0 (s.desc 0 0) 0 (s.desc 0 0).cellsPer))).isNone = true) ∧
    (0 < 32 ∧ 5 < 2 ^ 32) := by decide +kernel

/-! ### Launches and pre-emption -/

/-- A partition that admits launches, with resume queue 3 and a context pool of 1 MiB on stack 0 at PA 65536. -/
def part0 : Partition :=
  { Partition.reset with
    exist := true
    written := partitionRegs
    resq := 2 ^ 63 + 3
    cpbase := [65536, 0, 0, 0]
    cpsize := [2 ^ 20, 0, 0, 0] }

/-- The launch and block with that partition and a record in queue 3 of the front port; the TLB holds the page at 4096. -/
def queued (kind esz n r : Nat) (l : Launch) (b : Block) : State :=
  let s := { (machine l b).setDesc 4 3 { queueDesc kind (if esz = 3 then [cell .filled true, { cell .filled true with seq := 1 }] else [cell .filled true]) with esz := esz } with
    parts := [(0, part0)], ev := { g := 3 } }
  (s.updPort 4 fun p => { p with cells := Sparse.write [] 0 (leBytes n r) }).updStack (tlbStack 4096) fun k => { k with tlb := [probeEntry] }

/-- A record of the launch queue. -/
def launching (r : Nat) : State := queued 2 3 128 r probeLaunch probeBlock

/-- The record that the launch queue of the state gives, and what the checks say of it. -/
def launchRecord (s : State) (r : Nat) : Bool :=
  (s.desc 4 s.ev.g).valid && (s.desc 4 s.ev.g).kind == 2 && (s.part (s.desc 4 s.ev.g).owner.1).ready && (s.desc 4 s.ev.g).ready == [0] &&
    leNat ((s.readCells 4 (s.desc 4 s.ev.g) 0 (s.desc 4 s.ev.g).cellsPer).take 128) == r

theorem nextLaunch_of {s : State} {r : Nat} (h : launchRecord s r = true) : s.NextLaunch r (s.takeElement 4 s.ev.g 0).2 := by
  simp only [launchRecord, Bool.and_eq_true, beq_iff_eq] at h
  exact ⟨h.1.1.1.1, h.1.1.1.2, h.1.1.2, 0, [], h.1.2, h.2.symm, rfl⟩

/-- A KIND 2 record whose graph table lies at VA 4096. -/
def graphRecord : Nat := 2 + 2 ^ 8 + 4096 * 2 ^ 640

/-- A ROOT node of COAL 1 and 32-byte records, with the template of `withFetchWord`. -/
def graphNode : Nat := probeRecord + 2 ^ 1024 + 2 ^ 1040 + 2 ^ 1055

/-- Its table of one node with descriptor 10, and with an odd VER. -/
def graphIn (odd : Nat) (s : State) : State :=
  ((s.writeMem 0 (leBytes 64 (odd + 2 ^ 32 + 10 * 2 ^ 52 + 2 ^ 64))).writeMem 64 (leBytes 256 graphNode)).setDesc 4 10 { queueDesc 3 [] with valid := false, wbase := 64 }

/-- A record that fails, one of a grid that passes, and graphs that are ready and not ready. -/
theorem witness_launch_records :
    (∀ r ∈ [0, probeRecord, 2, graphRecord], launchRecord (launching r) r = true ∧ launchRecord (graphIn 0 (launching r)) r = true ∧
      launchRecord (graphIn 1 (launching r)) r = true) ∧
    (let next := fun s : State => (s.takeElement 4 s.ev.g 0).2;
      let l := fun r => ((launching r).desc 4 3).launchOf r;
      (match ((next (launching 0)).checkGrid (l 0)).1 with | .error e => e == 1 | _ => false) = true ∧
      (match ((next (launching probeRecord)).checkGrid (l probeRecord)).1 with | .ok _ => true | _ => false) = true ∧
      (match ((next (launching 2)).checkGraph (l 2) (next (launching 2)).nextUid).1 with | .error e => e == 1 | _ => false) = true ∧
      (match ((next (graphIn 0 (launching graphRecord))).checkGraph (l graphRecord) (next (graphIn 0 (launching graphRecord))).nextUid).1 with | .ok (some _) => true | _ => false) = true ∧
      (match ((next (graphIn 1 (launching graphRecord))).checkGraph (l graphRecord) (next (graphIn 1 (launching graphRecord))).nextUid).1 with | .ok none => true | _ => false) = true) := by
  decide +kernel

/-- A record at the head of admission that the account covers, and one that it does not. -/
def admitting (more : Nat) (aside : Bool) : State :=
  { queued 2 3 128 0 probeLaunch probeBlock with
    admits := [{ seq := 0, l := { probeLaunch with record := probeRecord + more }, aside := aside, odd := none, wdog := false }] }

theorem witness_admission :
    (∀ e ∈ [0, 1], (admitting (e * 2 ^ 32) false).admitHead.any (fun a => a.l.kind == 1 && (((admitting e false).updPart 0 fun p => { p with emax := 5 }).covers a.l == (e == 0))) = true) ∧
    (∀ x ∈ [false, true], (nth? (admitting 0 x).admits 0).any (fun a => a.aside == x) = true) ∧
    (∀ y ∈ [(0, 0), (2 ^ 20, 1)], let s := admitting y.1 false
      s.admitHead.any (fun a => let t := { s with admits := s.admits.filter fun x => x.seq != a.seq };
        a.l.kind != 2 && s.covers a.l && (bitOf a.l.record 20 == (y.2 == 1)) && ((t.recordLayout a.l).1.isNone == (y.2 == 1))) = true) ∧
    (∀ y ∈ [(graphRecord, 1, 0), (2, 1, 1), (graphRecord, 0, 2)], let l := { probeLaunch with record := y.1 };
      let s := { graphIn y.2.1 (launching 0) with admits := [{ seq := 0, l := l, aside := true, odd := none, wdog := false }] };
      (nth? s.admits s.ev.k).any (fun a => a.aside && (match (s.checkGraph a.l a.seq).1 with
        | .ok none => 0 | .error _ => 1 | .ok (some _) => 2) == y.2.2) = true) ∧
    (0 < (0 + 1) * 1000 ∧ (0 + 1) * 1000 ≤ 1000) ∧ State.reset.admits = [] := by decide +kernel

/-- A launch with one unstarted block on stack 0, and a core that takes it or not. -/
def unstarted : Launch := { probeLaunch with waiting := [⟨0, 0, none⟩] }
def placing (core : Nat) : State := { machine unstarted probeBlock with blocks := [], ev := { cores := [core] } }

theorem witness_placement :
    (∀ c ∈ [0, 191, 192], let s := placing c;
      s.launch? s.ev.k = some unstarted ∧ s.ev.cores = [c] ∧ s.block? s.nextUid = none ∧
      ((s.workOn s.ev.b).find? fun w => !w.saved && w.launch == s.ev.k && w.lin == s.ev.n).any (fun w => w.size == 1 && s.mayPlace s.ev.b w [c]) = true ∧
      s.fitsNew unstarted s.ev.b c = decide (c < 192)) ∧
    ((placing 0).unstartedOn 0 = 1 ∧ (placing 0).unstartedOn 1 = 0) ∧
    ((machine { unstarted with waiting := [⟨0, 0, some 0⟩] } probeBlock).newWork 0).any (fun w => w.clus == some 0) = true ∧
    ((placing 0).newWork 0).all (fun w => w.clus != some 0) = true ∧
    ((onGroup g0).mayRetire { probeBlock with groups := [] } = true ∧ (onGroup g0).mayRetire probeBlock = false) := by decide +kernel

/-- An instance of the graph of one node whose descriptor 3 holds a record. -/
def inst0 : Inst := { uid := 0, l := probeLaunch, hdr := 0, nodes := [graphNode], tmpl := [probeLaunch], pqs := [3], pool := 0, used := 0 }

/-- Nodes with records enough and too few; a watchdog that is due and one that is not; blocks for the other events. -/
theorem witness_grid_events :
    (let s := { queued 3 1 32 0 probeLaunch probeBlock with insts := [inst0] };
      (s.insts.find? fun i => i.uid == s.ev.b) = some inst0 ∧ nth? inst0.nodes s.ev.k = some graphNode ∧ nth? inst0.pqs 0 = some 3 ∧ (nth? inst0.tmpl 0).isSome = true ∧
      (∀ c ∈ [0, 1, 2], let u := s.setDesc 4 3 { s.desc 4 3 with coal := c }; (u.desc 4 3).coal = c ∧ (u.desc 4 3).ready.length = 1)) ∧
    (∀ t ∈ [1999, 2000], let s := { machine { probeLaunch with record := probeRecord + 2 ^ 27 } { probeBlock with groups := [{ g0 with splits := [{ p0 with wait := .rendezvous }] }] } with time := t };
      s.ev.lo = false ∧ (s.block? s.ev.b).any (fun b => decide (b.place = .resident) && b.longestWait.isSome && (s.launchOf b).interval == 2000 && b.wdogAt == 0) = true) ∧
    ((onGroup g0).block? 0).any (fun b => b.preempt.isNone && decide (b.eres ≤ 0)) = true := by decide +kernel

/-- A suspended group with context 64, and the resume records that name it or nothing. -/
def suspendedGroup : Group :=
  { g0 with
    ctxid := 64
    suspended := true
    trapVec := 8192
    splits := [{ p0 with wait := .fault }] }
def resuming (r : Nat) : State := { queued 6 1 32 r { probeLaunch with uid := 0 } { probeBlock with groups := [suspendedGroup] } with nextUid := 1 }

def resumeRecord (s : State) (r : Nat) : Bool :=
  s.resumePart s.ev.g == some 0 && (s.desc 4 s.ev.g).valid && (s.desc 4 s.ev.g).kind == 6 && (s.desc 4 s.ev.g).ready == [0] &&
    leNat ((s.readCells 4 (s.desc 4 s.ev.g) 0 (s.desc 4 s.ev.g).cellsPer).take 32) == r

theorem nextResume_of {s : State} {r : Nat} (h : resumeRecord s r = true) : s.NextResume 0 r (s.takeElement 4 s.ev.g 0).2 := by
  simp only [resumeRecord, Bool.and_eq_true, beq_iff_eq] at h
  exact ⟨h.1.1.1.1, h.1.1.1.2, h.1.1.2, 0, [], h.1.2, h.2.symm, rfl⟩

theorem witness_resume_records :
    (∀ action ∈ [0, 1, 2, 3], ∀ name ∈ [64, 68], let r := 0x20 + action * 2 ^ 8 + name * 2 ^ 64;
      let t := ((resuming r).takeElement 4 3 0).2;
      resumeRecord (resuming r) r = true ∧ recKind r = 0x20 ∧ recAction r = action ∧ recName r = name ∧
      (t.suspendedAt 0 name).isSome = decide (name = 64) ∧ (name = 64 → (t.suspendedAt 0 name).any (fun x => x.1.uid == 0 && x.2.gid == 0 && x.1.launch < t.nextUid &&
        decide (x.1.place = .resident) && x.2.trapVec != 0 && (x.2.splits.find? fun p => decide (p.wait = .fault)).isSome) = true ∧ (t.group? 0 0).isSome = true)) ∧
    (∀ action ∈ [0, 1, 2], ∀ hold ∈ [0, 1], let r := 0x21 + action * 2 ^ 8 + hold * 2 ^ 16;
      let t := ((resuming r).takeElement 4 3 0).2;
      resumeRecord (resuming r) r = true ∧ recKind r = 0x21 ∧ recAction r = action ∧ (t.named 0 (recName r)).isSome = true ∧ t.badPreempt 0 r = false ∧
      (t.blocks.find? fun b => b.launch == 0 && decide (b.place = .resident) && !b.ending && b.bx == slice r 159 128 && b.blky == slice r 191 160 &&
        b.bz == slice r 223 192).isSome = true) := by decide +kernel

/-- A pool that holds the block's area; a request that waits for the pool, and a block that the request reaches. -/
theorem witness_requests : let s := { queued 6 1 32 0 probeLaunch probeBlock with prereqs := [⟨0, 0, false, [0], 0⟩], ev := { lo := true } }
    (s.block? 0).any (fun b => s.poolFits (s.launchOf b).part b.stk (s.mates b) && b.preempt.isNone && (s.mates b).any fun q => q.uid == 0) = true ∧
    (nth? s.prereqs s.ev.k).any (fun r => r.left.contains s.ev.n) = true ∧ ((s.request false 0).block? 0).any (fun b => b.preempt.isSome) = true := by decide +kernel

/-- A stopped block whose groups have ended, one that still runs, and a place in the pool; a saved block and a core that takes it. -/
theorem witness_saves :
    (let b := { probeBlock with groups := [], preempt := some ⟨0, false, false⟩ };
      let s := { queued 6 1 32 0 probeLaunch b with ev := { v := 65536 } };
      (s.block? s.ev.b).any (fun b => decide (b.place = .resident) && b.preempt.isSome && !b.ending && b.groups.all (s.groupStopped b) && s.drained b) = true ∧
      ((s.settleBlock b).block? s.ev.b).any (fun b0 => (s.settleBlock b).areaFree ((s.settleBlock b).launchOf b0).part b0.stk s.ev.v.toNat ((s.settleBlock b).areaImage b0).length) = true) ∧
    (let s := queued 6 1 32 0 probeLaunch { probeBlock with preempt := some ⟨0, false, false⟩ };
      (s.block? s.ev.b).any (fun b => decide (b.place = .resident) && b.preempt.isSome && !b.ending && !(b.groups.all (s.groupStopped b))) = true) ∧
    (let b := { probeBlock with place := .saved 65536 4096 };
      let s := { (queued 6 1 32 0 probeLaunch b).writeMem 65536 (leBytes 8 (0x0768C7A0 + 2 ^ 32)) with ev := { cores := [5] } };
      (s.launch? s.ev.k).isSome = true ∧ ((s.savedWork s.ev.b).find? fun w => w.launch == s.ev.k && w.lin == s.ev.n).any (fun w => s.mayPlace s.ev.b w [5] &&
        decide (sortBy (·.lin) (s.savedOf w.launch ((s.launchOf b).clusterOf w.lin)) = [b])) = true ∧ s.block? b.uid = some b ∧ s.fitsSaved b s.ev.b 5 = true ∧
      (s.blocks.all fun y => !(decide (y.place = .resident))) = true ∧ s.readNat 65536 4 = 0x0768C7A0 ∧ s.readNat (65536 + 4) 1 = 1) := by decide +kernel

/-! ### Links, control plane and the step -/

/-- Module 0 of lateral link 0 of stack 0, as a link end and the flits its sibling has sent. -/
def linked (e : LinkEnd) (out : List (BitVec 2048)) : State :=
  (State.reset.updLink 0 0 0 fun _ => e).updLink 1 1 0 fun e => { e with out := out }

/-- The flit with a header and its CRC (R355, R356). -/
def flitOf (low : Nat) : BitVec 2048 := BitVec.ofNat 2048 (low + crc32c (leBytes 252 low) * 2 ^ 2016)

set_option maxRecDepth 20000 in
/-- A good flit, one out of order, and one that fails, at a link end that receives; an end that does not. -/
theorem witness_flits :
    (∀ low ∈ [0, 4095, 2 ^ 13], flitBad (flitOf low) = false ∧ (linked LinkEnd.reset [flitOf low]).link 1 1 0 = { LinkEnd.reset with out := [flitOf low] }) ∧
    flitBad 1 = true ∧ (LinkEnd.reset.down = false ∧ LinkEnd.reset.training = none ∧ 0 < linkModules 0 0 ∧ linkPeer 0 0 = some (1, 1)) ∧
    ((linked { LinkEnd.reset with down := true } []).link 0 0 0).down = true ∧ linkModules 0 0 ≤ 16 ∧
    (∀ low ∈ [0, 4095], field (flitOf low) 12 12 = 0 ∧ field (flitOf low) 14 13 = 0 ∧ field (flitOf low) 11 0 = low ∧
      ((linked LinkEnd.reset []).link 0 0 0).e = 0) ∧
    (∀ dead ∈ [none, some []], let x := (linked LinkEnd.reset [flitOf 0]).updLink 1 1 0 fun e => { e with buf := dead.toList.map fun l => ⟨0, flitOf 0, 0, 0, 0, [], l⟩ }
      ((x.link 1 1 0).buf.find? fun (k : Sent) => k.seq == field (flitOf 0) 11 0).map (·.dead) = dead) := by decide +kernel

/-- A flit that was sent at TIME 0. -/
def sent0 : Sent := ⟨0, 0, 0, 0, 0, [], []⟩

/-- A replay that is due, an end in training, and one that may begin. -/
theorem witness_training :
    (∀ t ∈ [1999, 2000], let e := (linked { LinkEnd.reset with buf := [sent0] } []).link 0 0 0;
      e.buf = [sent0] ∧ (0 + 2000 ≤ t ↔ t = 2000) ∧ e.training = none ∧ e.down = false) ∧
    (∀ lead ∈ [true, false], (linked { LinkEnd.reset with training := some (true, 0), leads := lead } []).link 0 0 0 =
      { LinkEnd.reset with training := some (true, 0), leads := lead }) ∧
    ((linked LinkEnd.reset []).shapely ∧ ((linked LinkEnd.reset []).link 0 0 0).training = none ∧ (1 : BitVec 64).getLsbD 0 = true) :=
  ⟨by decide +kernel, by decide +kernel, ⟨rfl, rfl, rfl⟩, by decide +kernel, rfl⟩

/-- The front registers: a map with and without the own hive, a switch under way with and without messages, samples in and out of their times, each
case of the power clamp. -/
theorem witness_power : let at_ := fun (p : Power) (t : Nat) => ({ State.reset with power := p, time := t } : State)
    (State.reset.shapely ∧ State.reset.connbusy = none ∧ (1 : BitVec 32).getLsbD 0 = true ∧ (2 : BitVec 32).getLsbD 0 = false) ∧
    (({ State.reset with connbusy := some (1, 0, false) } : State).kept = [] ∧
      (({ State.reset with connbusy := some (1, 0, false), kept := [{ message (.put []) with pkg := 32 }] } : State).connected 32 = false)) ∧
    (∀ c ∈ [false, true], ∀ t ∈ [999, 1000, 9999, 10000], (at_ { State.reset.power with clamp := c } t).power.clamp = c ∧ (at_ { State.reset.power with clamp := c } t).time = t) ∧
    (State.reset.power.lastSample + 1000 = 1000 ∧ State.reset.power.lastDecision + 10000 = 10000 ∧ State.reset.power.peak = false) :=
  ⟨⟨⟨rfl, rfl, rfl⟩, rfl, rfl, rfl⟩, ⟨rfl, by decide +kernel⟩, by decide +kernel, by decide +kernel⟩

/-- An image with two signatures, which verify or not. -/
def bootImage (ed mldsa : Bool) : BootImage := { header := 0, body := [], ed := 0, mldsa := 0, edOk := ed, mldsaOk := mldsa }

/-- Inputs of start-up that fail step 1, fail step 2, and pass; a package in recovery; requests and findings. -/
def bootInput (ok images : Bool) : BootInput :=
  { identityOk := ok, firmware := bootImage true true, config := bootImage true images, badLinks := [], halfLinks := [], hbmOk := true, fabricOk := true, pkg := 5, bifurc := 0, bootSrc := 0, evmsi := 0, conngrp := none, scrubOff := [] }

theorem witness_boot :
    (∀ a ∈ [true, false], ∀ b ∈ [true, false], ∃ e : EvArg, e.boot = some (bootInput a b)) ∧ State.reset.boot.err ≠ 2 ∧
    ({ State.reset with boot := { State.reset.boot with err := 2, step := 1 } } : State).boot.err = 2 ∧ State.reset.boot.step = 0 ∧
    (∃ b ∈ (onGroup g0).blocks, b.place = .resident ∧ b.stk = 0) ∧ State.reset.blocks = [] ∧ (onGroup g0).shapely ∧
    (∀ d ∈ [true, false], ((State.reset.updStack 0 fun k => { k with dieReset := d }).stack 0).dieReset = d) ∧
    (∃ x : ScrubFinding, x.corrected = true ∧ x.win < 4 ∧ x.cls < 7) ∧ State.reset.ckpt.status ≠ 1 ∧
    (∀ n : Nat, ({ State.reset with ckpt := { list := 0, path := false, status := 1, copied := n } } : State).ckpt = ⟨0, false, 1, n⟩) ∧
    ((0 : BitVec 64).getLsbD 0 = false ∧ (1 : BitVec 64).getLsbD 0 = true) :=
  ⟨fun a _ b _ => ⟨{ boot := some (bootInput a b) }, rfl⟩, by decide +kernel, rfl, by decide +kernel, by decide +kernel, rfl, ⟨rfl, rfl, rfl⟩, by decide +kernel,
    ⟨⟨0, 0, true, false⟩, rfl, by decide, by decide⟩, by decide +kernel, fun _ => rfl, by decide +kernel⟩

/-- A state whose memory holds, at PA 0, the context of device 0 for a directory of one level: valid, with ATS. -/
def ioState (ddtp : Nat) : State := { (onGroup g0).writeMem 0 (leBytes 8 3) with iommu := { ddtp := ddtp } }

/-- A read of 8 bytes by device 0. -/
def dmaAt (pa at_ : Nat) : BusAccess := { who := 0, pa := pa, write := none, len := 8, at_ := at_ }

/-- Accesses from outside: in device memory, in none, in a window, and where the front link is down; behind an earlier write; that the IOMMU refuses, takes
as they stand, and answers; descriptors with and without cells, written and refused; outboxes. -/
theorem witness_outside :
    (∀ y ∈ [(0x5FFFFFFFC0, false, true), (0x6000000000, false, false), (2 ^ 46, true, false)], busFits (dmaAt y.1 0) = true ∧ (windowOf y.1).isSome = y.2.1 ∧
      isDeviceMemory y.1 = y.2.2) ∧
    ((onGroup g0).frontUp (homeOf 0) = true ∧ (onGroup g0).engineOwns 0 8 = false ∧ (onGroup g0).poisoned = [] ∧
      ({ onGroup g0 with links := (List.range 4).map fun m => (linkKey 0 3 m, { LinkEnd.reset with down := true }) } : State).frontUp (homeOf 0) = false) ∧
    (busFits { dmaAt 64 0 with write := some (leBytes 8 1), len := 4, amo := some 0 } = true ∧ busFits { dmaAt 64 0 with write := some [1] } = true) ∧
    (∀ y ∈ [(0, 0, 0), (1, 0, 1), (2, 1, 1)], (match (ioState y.1).ioTranslate (dmaAt 64 y.2.1) with | .ok (_, e, _) => if e.pbase == 0 then 1 else 2 | .error _ => 0) = y.2.2) ∧
    (∀ y ∈ [9 * 2 ^ 44, 11 * 2 ^ 44 + 64], (match (ioState 1).ioTranslate (dmaAt y 0) with
      | .ok (_, e, _) => decide (9 ≤ (e.pbase + (y - e.vbase)) / 2 ^ 44 ∧ (e.pbase + (y - e.vbase)) / 2 ^ 44 ≤ 11) | .error _ => false) = true) ∧
    (let s := { ioState 1 with dma := [{ dmaAt 64 0 with write := some [1] }] }; (s.dma.any fun e => e.dev == (dmaAt 64 0).dev && e.write.isSome) = true) ∧
    slice (ioState 1).iommu.ddtp 3 0 = 1 ∧
    ((State.reset.part 0).shm.length = 4 ∧ (nth [] (State.reset.part 0).shm 3).length = 6) ∧
    (let s := State.reset.setDesc 4 4095 (queueDesc 0 [cell .filled true]); (s.desc 4 4095).valid = true ∧ (s.desc 4 4095).rsv ≠ (s.desc 4 4095).head) ∧
    (∀ y ∈ [(2 ^ 9 + 2 ^ 23, false), (2 ^ 9, true)], let d := State.reset.desc 0 0
      let new := d.ofImage (BitVec.ofNat 512 (putBits (State.reset.descImage d).toNat 0 64 y.1))
      d.valid = false ∧ new.valid = true ∧ State.reset.descBad 0 0 new = y.2) ∧
    (∀ w ∈ [0, 4], let s := State.reset.updSource w fun e => { e with outbox := [0] }; (s.source w).outbox ≠ [] ∧ (s.source w).outbox.length < 32) ∧
    (0xB000 + 4 * 63 = 0xB0FC ∧ (2 ^ 32 : BitVec 64).setWidth 32 = (0 : BitVec 32)) := by decide +kernel

/-- An MSI from a function: a write of 4 bytes at the start of a page, where the IOMMU takes addresses as they stand. Whether the page is an interrupt file's rests on
the free value `Config.imsicAt`. -/
theorem witness_msi : let a := { dmaAt 4096 0 with write := some (leBytes 4 7) }
    a.amo = none ∧ (ioState 1).dma = [] ∧ (match (ioState 1).ioTranslate a with | .ok (_, e, _) => (e.pbase + (a.pa - e.vbase)) % 4096 == 0 | .error _ => false) = true := by
  decide +kernel

/-- A split that takes its turn: the hypotheses of the step's statement hold of a state in which `nop` stands at the PC. -/
theorem witness_step : let s := State.reset.withFetchWord 32 0x01000000
    s.agenda = [.issue 0 0 0] ∧ s.memWf = true ∧
    (match ({ s with agenda := [], tick := s.tick + 1 } : State).slotTurn 0 0 0 with
      | .idle _ => false
      | .go c s1 => (s1.block? c.blk).any fun b => (b.group? c.gid).any fun g => (g.split? c.age).any fun p =>
        (match s1.checkVa p.walked b.stk b.core (s1.launchOf b) p.pc.toNat kindX with
          | .ok pa => (s1.poisonAt (.glb pa) 4).isNone && (g.fetched.all fun e => e.1 != pa) &&
            (match decode (s1.readMem pa 4) with | .ok (i, rest) => i == .nop && rest.isEmpty | .error _ => false)
          | _ => false)) = true := by decide +kernel

/-- Of every instruction: one that traps, one that waits, one that reads an uncorrectable register, and one without a split. -/
theorem witness_answers_of_every_instruction :
    ((onGroup { g0 with baseN := 8 }).ctx? (.add false 8 (.v 2) (.v 3))).any (fun x => (x.check (.add false 8 (.v 2) (.v 3))).isSome) = true ∧
    ((onGroup { g0 with pend := [held [2]] }).ctx? (.add false 1 (.v 2) (.v 3))).any (fun x => x.pending (.add false 1 (.v 2) (.v 3)) &&
      (x.check (.add false 1 (.v 2) (.v 3))).isNone) = true ∧
    ((onGroup { g0 with bad := [2] }).ctx? (.add false 1 (.v 2) (.v 3))).any (fun x => (x.badRegister (.add false 1 (.v 2) (.v 3))).isSome &&
      !x.pending (.add false 1 (.v 2) (.v 3)) && (x.check (.add false 1 (.v 2) (.v 3))).isNone) = true ∧
    (State.reset.ctx? .nop).isNone = true ∧ isEvent .nop = false ∧ isEvent .launchGrid = true := by decide +kernel

/-! ## Witnesses of the clauses on functions -/

/-- Floating values in their order, signed zeros, NaNs beside numbers, and codes of every class. -/
theorem witness_float_order :
    (match Fmt.f32.operand false 0x3F800000, Fmt.f32.operand false 0xC0000000 with
      | .fin _ p, .fin _ q => decide (0 < p.den ∧ 0 < q.den) | _, _ => false) = true ∧
    orderVal (Fmt.f32.operand false 0xFF800000) (Fmt.f32.operand false 0x3F800000) = .less ∧
    orderVal (Fmt.f32.operand false 0x40000000) (Fmt.f32.operand false 0x3F800000) = .greater ∧
    (match Fmt.f32.operand false 0x80000000, Fmt.f32.operand false 0 with
      | .fin true p, .fin false q => decide (p.num = 0 ∧ q.num = 0) | _, _ => false) = true ∧
    (match Fmt.f32.operand false 0x7FC00000, Fmt.f32.operand false 0 with | .nan _, .nan _ => 2 | .nan _, _ => 1 | _, _ => 0) = 1 ∧
    ([0xFF800000, 0xBF800000, 0x80000001, 0x80000000, 0, 1, 0x3F800000, 0x7F800000, 0x7F800001, 0x7FC00000].zipIdx.all fun y =>
      decide (y.1 < 2 ^ Fmt.f32.width) && classCode .f32 y.1 == y.2) = true := by decide +kernel

/-- Magnitudes at a code, between codes on both sides of a tie, and past the largest; a NaN's pattern. -/
theorem witness_rounding :
    (Fmt.f32.lo (Q.abs ⟨1, 1⟩) < Fmt.f32.maxCode ∧ Fmt.f32.lo (Q.abs ⟨2 ^ 130, 1⟩) = Fmt.f32.maxCode) ∧
    (Fmt.e2m1.lo (Q.abs ⟨5, 4⟩) = 2 ∧ Fmt.e2m1.magHi 2 = Fmt.e2m1.mag 3) ∧
    (0x7FC00001 < 2 ^ 32 ∧ 0x7FC00001 / 2 ^ 23 % 2 ^ 8 = 255) := by decide +kernel

/-- Leaves of a reduction in two lanes, and in three. -/
theorem witness_trees : ∀ l ∈ [[(0, 1), (1, 2)], [(0, 1), (5, 2), (31, 3)]], (l.map (·.1)).Nodup ∧ (List.replicate 32 (1 : Word)).length = 32 ∧
    (∀ y ∈ l, y.1 < 32) ∧ ((2 * 0 + 1 < l.length) ∧ (2 * 1 + 1 = l.length ↔ l.length = 3)) := by decide +kernel

/-- A group of five splits, the last one dormant, the first two at one PC. -/
def fiveSplits : Group :=
  { g0 with nextAge := 5
            splits := (List.range 5).map fun k => { p0 with age := k, pc := BitVec.ofNat 57 (if k < 2 then 4096 else 4096 + 4 * k)
                                                            mask := BitVec.twoPow 32 k, live := k != 4 } }

/-- Splits that merge, a dormant split beside live ones outside a chain, and a division of a split in two where three others are live. -/
theorem witness_split_slots :
    ((fiveSplits.splits.map (·.age)).Nodup ∧ (∀ p ∈ fiveSplits.splits, p.age < 2 ^ 64) ∧ fiveSplits.splits.length ≤ 32 ∧ 4 ≤ fiveSplits.liveCount) ∧
    (fiveSplits.mergePair fiveSplits.splits).map (fun y => (y.1.age, y.2.age)) = some (0, 1) ∧
    fiveSplits.dormant.map (·.age) = [4] ∧ (fiveSplits.splits.any fun p => p.live && !fiveSplits.inChain p) = true ∧
    ((fiveSplits.placeDivision 1 [3, 4]).splits.any fun q => [3, 4].contains q.age && !q.live) = true := by decide +kernel

/-- `exit` of the last split of a handler, and of the last lanes of a group with a reduction in its store queue and without. -/
theorem witness_exits :
    meets .exit (onGroup { g0 with handler := some save0, splits := [{ p0 with mask := 1, handler := true }, { p0 with age := 1, mask := 2 }], nextAge := 2 })
      (fun x => x.act != 0 && x.g.alive &&& ~~~x.act != 0 && x.g.attached && x.g.handler.isSome && x.p.handler && x.act == x.active &&
      x.g.splits.all fun q => (q.age != x.c.age || q == x.p) && (!q.handler || q.age == x.c.age)) = true ∧
    (∀ y ∈ [([], false), ([StoreOp.atom 0 (.glb 0) 9 7 1 0 0 3 none none 0], true)], meets .exit (onGroup { g0 with stq := y.1 })
      (fun x => x.act != 0 && x.g.alive &&& ~~~x.act == 0 && (x.s.reductionsWait x.b x.g == y.2)) = true) ∧
    (onGroup { g0 with stq := [StoreOp.atom 0 (.glb 0) 9 7 1 0 0 3 none none 0] }).blocks.any (fun b => b.groups.any fun g => g.stq.any StoreOp.isQuantum) = true := by
  decide +kernel

/-- `rrel` of a register that a joint product has still to read. -/
theorem witness_released_b :
    meets (.rrel 1 1) (machine probeLaunch { probeBlock with groups := [{ g0 with baseN := 8, ext := 1 }], arrivals := [{ arrived 0 with bregs := [8] }] })
      (fun x => decide (1 ≤ x.g.ext) && x.g.pend.isEmpty && x.b.arrivals.any fun p => p.gid == x.c.gid && p.bregs.any fun r => decide (x.g.bound - 8 ≤ r)) = true := by
  decide +kernel

/-- An access to PA 0 through a cached translation with other permissions or another frame; where it has none. -/
def mapped (f : TlbEntry → TlbEntry) : State :=
  let s := (onGroup (withS [(3, 4096)])).updCore 0 0 fun c => { c with tlb := [] }
  s.updStack (tlbStack 4096) fun k => { k with tlb := [f probeEntry] }

/-- Lanes in glb that a walk has found no page for, that the leaf refuses, that its second stage refuses, that another stack is home of, and that pass;
each found after the checks before it. -/
theorem witness_glb_checks :
    (∀ y ∈ [(mapped id, 0), (mapped fun e => { e with w := false }, 5), (mapped fun e => { e with w2 := false }, 5),
        (mapped fun e => { e with pbase := 0x6000000000 }, 5), (mapped fun e => { e with pbase := 2 ^ 44 }, 6)],
      meets (.st32 1 (.v 2) .glb 0) y.1 (fun x => let l := x.lanes.map (x.ea .glb (.s 3) 4 0)
        l.all (fun a => (a.sp == some .glb && decide (a.addr % 4 = 0)) && match x.checkGlb kindW a with
          | .ok pa => y.2 == 0 && pa == 0 | .fail n _ _ => n == y.2 | .miss => false) && x.s.poisoned.isEmpty && x.s.badLines.isEmpty) = true) ∧
    (∀ y ∈ [(WalkResult.pageFault false, 4), (.protection true, 5)],
      (match (mapped id).checkVa [(walkKey 4096 kindW, y.1)] 0 0 probeLaunch 4096 kindW with | .fail n _ _ => n == y.2 | _ => false) = true) ∧
    (match (mapped id).lookup [] 0 0 0 0 4096 kindR, (mapped id).lookup [] 0 0 0 0 8192 kindR with | .hit e, .miss => e == probeEntry | _, _ => false) = true := by
  decide +kernel

/-- A root table at PA 0 whose first entry is a table at 4096, or a leaf at level 4, or not valid; and the same under it. -/
def tables (top next : Nat) : State :=
  { ((onGroup g0).writeMem 0 (leBytes 8 top)).writeMem 4096 (leBytes 8 next) with roots := [(0, 0, 0)], roots2 := [(1, 0)] }

/-- Walks that end at level 4 and at level 3: at a bad entry, at a leaf that refuses, and at one that permits; of the second stage too. -/
theorem witness_walks :
    (tables 0 0).root1 0 0 = some 0 ∧ (tables 0 0).root1 1 0 = none ∧ (tables 0 0).root2 2 = none ∧ (tables 0 0).root2 1 = some 0 ∧
    (tables 0 0).readNat 0 8 = 0 ∧ pteKind false 4 0 = .bad ∧ pteKind false 4 (1 + 4 * 2 ^ 8) = .table ∧ ptePpn (1 + 4 * 2 ^ 8) * 4096 = 4096 ∧
    (tables (1 + 4 * 2 ^ 8) 0x13).readNat 0 8 = 1 + 4 * 2 ^ 8 ∧ (tables (1 + 4 * 2 ^ 8) 0x13).readNat 4096 8 = 0x13 ∧ pteKind false 3 0x13 = .leaf ∧
    (bitOf 0x13 1 = true ∧ bitOf 0x13 2 = false ∧ bitOf 0x13 4 = true ∧ 0x13 / 2 ^ 61 % 4 < 2) ∧
    (match (tables (1 + 4 * 2 ^ 8) 0x13).stage2 false 0 64 kindR with | .ok (pa, _, _) => pa == 64 | .error _ => false) = true := by decide +kernel

/-! ## Witnesses of the clauses on waits -/

/-- A store of the issuing core on its way to the slice of PA 0. -/
def onWay (s : State) : Transit := { core := coreKey 0 0, ctx := 0, slice := s.sliceFor probeBlock 0, pa := 0, bytes := [1, 2, 3, 4] }

/-- The state with such a store. -/
def sending (s : State) : State := { s with transit := [onWay s] }

/-- The core has a store in transit, the group has nothing queued. -/
def coreSends (x : Ctx) : Bool := x.s.coreTransit x.b && x.g.stq.isEmpty && x.g.quantum.isEmpty

/-- Reads that see words taken ahead, from a cached line and from home; a non-ordering atomic before other words; an atomic's pending result. -/
theorem witness_ahead :
    ([1, 2, 3, 4] : List Byte).length = 4 ∧
    (∀ y ∈ [(true, false), (true, true), (false, false)], (y.1 = true ∧ y.2 = false) = (y = (true, false))) ∧
    (∀ e ∈ [StoreOp.glb 0 64 [1] 0], e.isFence = false ∧ e.acquires = false ∧ (StoreOp.atom 1 (.glb 0) 0 7 1 0 0 2 none none 0).meets e = false) ∧
    ((onGroup { g0 with pend := [{ held [1] with kind := .atomic }] }).group? 0 0).any (fun g => g.pend.any fun p => p.kind == .atomic) = true ∧
    ((onGroup g0).available (.scr 0 0) = true ∧ (machine probeLaunch { probeBlock with copies := [{ running with dsts := [(.glb 0, 0, 64)] }] }).available (.glb 0) = false) := by
  refine ⟨rfl, by decide +kernel, by decide +kernel, by decide +kernel, rfl, ?_⟩
  have h : (machine probeLaunch { probeBlock with copies := [{ running with dsts := [(.glb 0, 0, 64)] }] }).engineOwns 0 4 = true := by decide +kernel
  simp [State.available, h]

/-- A subscriber of the probe block's S: every one of its stores to S is mirrored. -/
def mirroring (g : Group) : State :=
  { machine probeLaunch probeBlock with blocks :=
      [{ withBuffers with groups := [g] },
       { withBuffers with uid := 1, lin := 1, core := 1, groups := [], subs := [(0, { Sub.free with st := 1, plen := 256 })] }] }

/-- Half of a store of two words to S has been performed. -/
def halfStored : Group := { g0 with stq := [.buf 1 0 .scr 4 [1, 2, 3, 4] 0], begun := [1] }

/-- Releases and acquires behind a store of the core in transit, an unacknowledged put that the group has heard of, and a store that a subscription mirrors half
performed; `pref` behind a store to its slice. -/
theorem witness_release_waits :
    (∀ i ∈ [(Instr.fence, (0x0C : BitVec 10)), (.fence, 0x0D)], meets i.1 (sending (inMode 7 i.2)) (fun x => coreSends x && (x.ord == 3) && ((x.scope == 1) == (i.2 == 0x0D))) = true) ∧
    meets .fence (onGroup { g0 with splits := [{ p0 with mmode := 0x0F }], heard := [(0, 1)], puts := [owed] })
      (fun x => x.ord == 3 && x.scope == 3 && x.g.heard.any x.s.outstanding) = true ∧
    meets .fence (mirroring { g0 with gid := 0, splits := [{ p0 with mmode := 0x0C }] }) (fun x => x.ord == 3 && x.g.stq.isEmpty && !x.s.midWrite x.c.blk) = true ∧
    (mirroring halfStored).midWrite 0 = true ∧
    meets .fencei (sending (onGroup g0)) (fun x => x.g.stq.isEmpty && x.s.inTransit x.g.ctxid) = true ∧
    meets (.pref (.s 3) .glb 0) (sending (onGroup (withS [(3, 4096)]))) (fun x => !x.behindStore (.buf 0 .scr 0) && x.behindStore (.glb 0)) = true ∧
    meets (.copy 1 2 3) (sending (inBuffers (copies (taggedScr 0) (taggedScr 128) 32 (32 * 2 ^ 32)))) coreSends = true ∧
    meets (.copym 1 2 3) (sending (inBuffers (copies (taggedScr 0) (taggedScr 128) 32 1))) (fun x => coreSends x && x.maskAllowed 1) = true ∧
    (∀ i ∈ [Instr.qput 3 127, .qputs 3 4], meets i (sending (queueIn [(0, handle 0 1)] (taggedScr 240) [])) (fun x => coreSends x && opens x rightPut [0, 2]) = true) ∧
    meets (.emit 3 127) (sending (queueIn [(0, handle 3 1)] 0 [])) (fun x => coreSends x && opens x rightEmit [3]) = true ∧
    meets (.qsvc 4 2) (sending (queueIn [(0, handle 1 0), (1, handle 0 0)] 16 [])) (fun x => coreSends x && opens x rightSvc [1] && x.act != 0) = true := by
  decide +kernel

/-- Another group of the block, whose split may issue. -/
def waiter : Group := { g0 with gid := 1, ctxid := 4 }

/-- The slice of the lock word at PA 0. -/
def lockSlice : Nat := (onGroup g0).sliceOf 0 0 0

/-- A full table with the issuing split on its space list, behind another that may issue or not. -/
def spaceIn (ready : Bool) : State :=
  (machine probeLaunch { probeBlock with groups := [withS [(3, 4096)], { waiter with splits := [{ p0 with wait := if ready then .none else .lock 0 }] }] }).updStack 0 fun k =>
    { k with locks := (List.range 256).map (fun n => ⟨lockSlice, 4 * n + 4, 8, n, []⟩), lockSpace := [(lockSlice, (0, 1, 0)), (lockSlice, (0, 0, 0))] }

/-- A lock that the group holds, with the first waiter's split asleep at it. -/
def passing : State :=
  (machine probeLaunch { probeBlock with groups := [withS [(3, 4096)], { waiter with splits := [{ p0 with wait := .lock 0 }] }] }).updStack 0 fun k =>
    { k with locks := [⟨0, 0, 0, 0, [(0, 1, 0)]⟩] }

/-- `lock` behind another split on the table-space list, and not; `unlock` with a waiter, and behind a store of the core in transit. -/
theorem witness_lock_waits :
    (∀ r ∈ [true, false], atLock (.lock 3) (spaceIn r) (fun x k => (k.lockOn 0).isNone && decide (256 ≤ k.lockEntries (x.s.sliceOf x.l.part x.b.stk 0)) &&
      (x.s.lockAhead x.b.stk (x.s.sliceOf x.l.part x.b.stk 0) (x.c.blk, x.c.gid, x.c.age) == r)) = true) ∧
    (∀ l ∈ [[], [⟨0, 0, 4, 0, []⟩]], atLock (.lock 3) (lockIn l []) (fun x _ => !x.s.lockAhead x.b.stk (x.s.sliceOf x.l.part x.b.stk 0) (x.c.blk, x.c.gid, x.c.age)) = true) ∧
    atLock (.unlock 3) passing (fun x k => ((k.lockOn 0).any fun e => e.owner == x.g.ctxid && e.waiters == [(0, 1, 0)]) && x.g.quantum.isEmpty && x.g.stq.isEmpty &&
      !x.s.coreTransit x.b && ((x.s.group? 0 1).any fun g => (g.split? 0).isSome)) = true ∧
    atLock (.unlock 3) (sending (lockIn [⟨0, 0, 0, 0, []⟩] [])) (fun x k => ((k.lockOn 0).any fun e => e.owner == x.g.ctxid) && coreSends x) = true := by
  decide +kernel

/-- `copy` and `copym` whose source in glb has no cached translation, where the front link of its stack carries nothing and where it does; `copy` behind a copy
that has the group's slice, and with a slice set that fails. -/
theorem witness_copy_walks :
    (∀ y ∈ [true, false], let s := { inBuffers (copies (taggedScr 0) 8192 32 1) with links := if y then (List.range 4).map fun m => (linkKey (tlbStack 8192) 3 m, { LinkEnd.reset with down := true }) else [] }
      meets (.copym 1 2 3) s (fun x => walkWaits (x.s.engineRange x.b (x.rdn 5) 32 false).2.1 == y) = true) ∧
    (∀ y ∈ [true, false], let s := { inBuffers (copies (taggedScr 0) 8192 32 (32 * 2 ^ 32)) with links := if y then (List.range 4).map fun m => (linkKey (tlbStack 8192) 3 m, { LinkEnd.reset with down := true }) else [] }
      meets (.copy 1 2 3) s (fun x => supplies x 1 2 3 && (let l := x.b.gather ++ [x.copySlice 1 2 3]
        let t := (x.waitAs .copy).updBlock x.c.blk fun b => { b with gather := l, expect := x.expects }
        ((t.block? x.c.blk).any fun b => t.copyWaits b l) == y)) = true) ∧
    meets (.copy 1 2 3) (machine probeLaunch { withBuffers with groups := [copies (taggedScr 0) (taggedScr 128) 32 (32 * 2 ^ 32)], gather := [slice0], expect := [0] })
      (fun x => @decide x.WaitsOut (by delta Ctx.WaitsOut; infer_instance)) = true := by decide +kernel

/-! ## Witnesses of the clauses on queues, launches and the control plane -/

/-- A continuation and a fence at block barriers behind a store of another group that a subscription mirrors, half performed. -/
def halfBehind (i : BitVec 10) : State :=
  { machine probeLaunch probeBlock with blocks :=
      [{ withBuffers with groups := [{ g0 with splits := [{ p0 with mmode := i }] }, { halfStored with gid := 1, ctxid := 4 }] },
       { withBuffers with uid := 1, lin := 1, core := 1, groups := [], subs := [(0, { Sub.free with st := 1, plen := 256 })] }] }

/-- The barrier word of a saved mate of rank 1, whose image s3 names, and the number in s4. -/
def savedMates (off n : Nat) : State :=
  { machine { probeLaunch with record := probeRecord + 2 ^ 436 } probeBlock with blocks :=
      [{ withBuffers with groups := [withS [(3, BitVec.ofNat 64 (2 * 2 ^ 61 + 2 ^ 18 + off)), (4, BitVec.ofNat 64 n)]] },
       { withBuffers with uid := 1, lin := 1, rank := 1, place := .saved 65536 4096, groups := [] }] }

theorem witness_barrier_clauses :
    meets .fence (halfBehind 0x0C) (fun x => x.ord == 3 && x.g.stq.isEmpty && x.g.quantum.isEmpty && x.s.midWrite x.c.blk) = true ∧
    meets .bsync (halfBehind 0) (fun x => x.g.stq.isEmpty && x.g.quantum.isEmpty && x.s.midWrite x.c.blk) = true ∧
    (∀ v ∈ [0, 16], meets (.wflush 3) { halfBehind 0 with blocks := (halfBehind 0).blocks.map fun b => { b with groups := b.groups.map fun g =>
      { g with s := Sparse.putAll g.s [(3, BitVec.ofNat 64 v)] } } } (fun x => (x.rds 3).toNat == v && x.s.midWrite x.c.blk) = true) ∧
    meets (.barcont 3 4) (barIn bar0 (32 * 2 ^ 57 + 4096) (storing g0)) (fun x => x.act != 0 && x.g.quantum.isEmpty && !x.g.stq.isEmpty &&
      (match x.barAt false (x.rds 3) with | .ok _ _ => true | _ => false)) = true ∧
    (∀ y ∈ [(240, true), (256, false)], meets (.remarr 3 4) (savedMates y.1 1) (fun x => x.g.stq.isEmpty && x.g.quantum.isEmpty && !x.s.coreTransit x.b &&
      decide ((x.rds 4).toNat < 2 ^ 32) && ((x.savedBar (x.rds 3)).any fun z => z.1.uid == 1 && z.2 == y.1 && (decide (z.2 + 16 ≤ z.1.sSize) == y.2))) = true) := by
  decide +kernel

/-- A message whose element size is that of the queue, and one whose is not; a deposit with words that have landed. -/
theorem witness_sizes : let r := { back with esz := 2 }
    delivered (carrying (.reserve 1 r) []) (message (.reserve 1 r)) = true ∧ (queueDesc 0 []).esz = 2 ∧ back.op = 0 ∧ back.esz = 0 ∧
    (∀ k ∈ [TakeKind.get, .try_], ∀ cs ∈ [[], [cell .filled true]], delivered (carrying (.take k r) cs) (message (.take k r)) = true ∧
      delivered (carrying (.take k back) cs) (message (.take k back)) = true) ∧
    (∀ l ∈ [[], [((0 : Nat), (3 : Nat))]], let d := { queueDesc 0 [cell .filled true] with dep := true, bind := some ⟨0, 0, true, 0, 64, 0, 64, l⟩ };
      d.ready = [0] ∧ d.esz ≤ 4 ∧ (onGroup g0).ownedAt d.bytes (.glb 0) = false ∧ (onGroup g0).ownedAt 8 (.glb 64) = false ∧ 0 + 64 ≤ 64) := by
  decide +kernel

/-- A logged element of an operation, for queue 0 with tag 0, in the staging registers of port 0, and the cells of that queue. -/
def replayed (op seq n : Nat) (d : Desc) : State :=
  let s := (onGroup g0).setDesc 0 0 d
  { s with ports := setNth s.ports 0 { s.port 0 with replay := BitVec.ofNat 4096 (op + seq * 2 ^ 416 + n * 2 ^ 512) } }

/-- A close notice whose cells are reserved and not; a fill of a reserved cell, of one that is not, and of no sequence with and without room; an element whose
check fails. None of them waits; with the front link down each does. -/
theorem witness_replays :
    (∀ cs ∈ [[], [cell .reserved false]], let s := replayed 4 0 1 (queueDesc 0 cs)
      slice (s.staged 0 0) 7 0 = 4 ∧ slice (s.staged 0 0) 463 416 = 0 ∧ slice (s.staged 0 0) 519 512 = 1 ∧ s.replayBars 0 = false) ∧
    (∀ y ∈ [([], false), ([cell .reserved false], true)], let s := replayed 1 0 0 (queueDesc 0 y.1)
      let e := s.staged 0 0
      s.fails (s.loggedMsg 0 e (elementData e)) = 0 ∧ slice e 7 0 = 1 ∧ slice e 463 416 ≠ seqFail ∧
        ((s.desc 0 0).cells.any fun c => c.seq == 0 && c.st == .reserved) = y.2) ∧
    (∀ w ∈ [8, 0], let s := replayed 1 seqFail 0 { queueDesc 0 [] with win := w }
      let e := s.staged 0 0
      s.fails (s.loggedMsg 0 e (elementData e)) = 0 ∧ slice e 463 416 = seqFail ∧ decide ((s.desc 0 0).cellsPer ≤ (s.desc 0 0).room) = (w == 8)) ∧
    (let s := replayed 1 0 0 { queueDesc 0 [] with dtag := 7 }; let e := s.staged 0 0
      s.fails (s.loggedMsg 0 e (elementData e)) ≠ 0 ∧ (s.log 0 (s.loggedMsg 0 e (elementData e)) 1 2 0 ((elementData e).take 64)).isNone = true) ∧
    ({ replayed 4 0 1 (queueDesc 0 []) with links := (List.range 4).map fun m => (linkKey 0 3 m, { LinkEnd.reset with down := true }) } : State).replayBars 0 = true := by
  decide +kernel

/-- A record that waits, of a table whose VER is odd and is not; a resume record whose end has to wait for a reduction, and one whose end need not. -/
theorem witness_held_and_ends :
    (∀ odd ∈ [0, 1], let l := { probeLaunch with record := graphRecord };
      let s := { graphIn odd (launching 0) with admits := [{ seq := 0, l := l, aside := true, odd := none, wdog := false }], ev := { lo := true } };
      (nth? s.admits s.ev.k).isSome = true ∧ (s.oddSince l none).isSome = (odd == 1)) ∧
    (∀ action ∈ [2, 3], ∀ q ∈ [[], [StoreOp.atom 0 (.glb 0) 9 7 1 0 0 3 none none 0]], let r := 0x20 + action * 2 ^ 8 + 64 * 2 ^ 64
      let s := { queued 6 1 32 r { probeLaunch with uid := 0 } { probeBlock with groups := [{ suspendedGroup with stq := q }] } with nextUid := 1 }
      resumeRecord s r = true ∧ s.endsNow action r = q.isEmpty) := by decide +kernel

/-- A package whose stack 0 carries nothing on its front link. -/
def frontDown : State := { State.reset with links := (List.range 4).map fun m => (linkKey 0 3 m, { LinkEnd.reset with down := true }) }

/-- A start whose images are accepted and whose trainings pass, and in which links, memory or the front fail; a start in recovery, and after it a report;
a scrub class that is off; writes of SHM that are taken and refused; a queue with a handler's operand. -/
theorem witness_control_plane :
    (frontDown.frontUp 0 = false ∧ frontDown.shapely ∧ State.reset.frontUp 0 = true ∧ State.reset.frontUp 4 = true) ∧
    ((bootInput true true).firmware.edOk = true ∧ (bootInput true true).config.mldsaOk = true ∧ (bootInput true false).config.mldsaOk = false ∧
      (bootInput true true).badLinks = [] ∧ (∀ x ∈ [((0 : Nat), (4 : Nat), (0 : Nat))], x.2.1 = 4)) ∧
    (∃ y, ({ State.reset with boot := { State.reset.boot with images := some (bootImage true true, bootImage true true) } } : State).boot.images = some y) ∧
    State.reset.boot.images = none ∧ State.reset.boot.err ≠ 1 ∧
    (∀ x : ScrubFinding, x = ⟨0, 0, true, false⟩ → (if x.reg then 0 else x.cls) ∉ State.reset.boot.scrubOff ∧
      (if x.reg then 0 else x.cls) ∈ ({ State.reset with boot := { State.reset.boot with scrubOff := [0] } } : State).boot.scrubOff) ∧
    ((State.reset.blocks = [] ∧ ¬ State.reset.ev.lo ∧ 5 < (nth [] (State.reset.part 15).shm 3).length ∧ 3 < (State.reset.part 15).shm.length) ∧
      (onGroup g0).blocks.any (fun b => b.stk == 0 && ((onGroup g0).launchOf b).part == 0) = true) ∧
    (9 ≤ 9 * 2 ^ 44 / 2 ^ 44 ∧ windowOf (9 * 2 ^ 44) = none ∧ windowOf (2 ^ 46) = some 0 ∧ windowOf 0 = none) := by
  refine ⟨⟨by decide +kernel, ⟨rfl, rfl, rfl⟩, by decide +kernel, by decide +kernel⟩, by decide +kernel, ⟨_, rfl⟩, rfl, by decide +kernel, ?_, by decide +kernel, by decide +kernel⟩
  rintro x rfl
  exact ⟨by decide, by decide⟩

/-- Decode faults in the order of R78: a latch outside a chain, a chain that reads what it then writes, a register at the bound, a privileged instruction of a user
launch, and an operand that no instruction has. -/
theorem witness_decode_faults :
    ((onGroup g0).ctx? (.add false 1 (.latch 0) (.v 3))).any (fun x => !badOperand x.mode x.mmode (.add false 1 (.latch 0) (.v 3)) && x.pos == 0) = true ∧
    ((onGroup { g0 with chain := some { age := 0, head := 4092, pos := 1, next := 4096, lat := [List.replicate 32 0], vr := [1], sr := [], pr := [], viol := false, gens := g0.gens } }).ctx?
      (.add false 1 (.latch 0) (.v 3))).any (fun x => x.pos == 1 && (x.g.chain.any fun ch => ch.vr.contains 1)) = true ∧
    ((onGroup { g0 with baseN := 8 }).ctx? (.add false 1 (.v 8) (.v 3))).any (fun x => decide (x.g.bound ≤ 8)) = true ∧
    ((onGroup g0).ctx? (.qxsetDropAll 1 3 4)).any (fun x => isPrivileged (.qxsetDropAll 1 3 4) && !x.l.priv && !badOperand x.mode x.mmode (.qxsetDropAll 1 3 4)) = true ∧
    ((onGroup g0).ctx? (.grow 1 3 0)).any (fun x => badOperand x.mode x.mmode (.grow 1 3 0)) = true := by decide +kernel

/-! ## Witnesses of the clauses on tiles and counters -/

/-- `tld` from a region that an engine owns, behind an own atomic on it, and with an uncorrectable word of the image. -/
theorem witness_tile_loads :
    meets (.tld 8 2) (movers [] [] [ownAtom]) (fun x => (x.tldEarly (.tld 8 2) 8 (pairOf (x.g.pairVal 2))).isNone && (x.tldFail 8 (pairOf (x.g.pairVal 2))).isNone &&
      x.hold 32 [(0, .buf 0 .scr 0)] == .stall) = true := by decide +kernel

theorem witness_tile_poison :
    meets (.tld 8 2) { movers [] [] [] with poisoned := [.buf 0 .scr 16] } (fun x => (x.tldEarly (.tld 8 2) 8 (pairOf (x.g.pairVal 2))).isNone &&
      (x.tldFail 8 (pairOf (x.g.pairVal 2))).isNone && x.hold 32 [(0, .buf 0 .scr 0)] == .go && (x.s.imagePoison x.b (pairOf (x.g.pairVal 2)) tileF).isSome) = true := by decide +kernel

/-- `tchk` with inactive lanes, and of a register that has not arrived. -/
theorem witness_tile_checks :
    (∀ l ∈ [(0 : Nat), 1], meets (.tchk 1 (.reg 8)) (onGroup { g0 with splits := [{ p0 with mode := 0 }], p := Sparse.putAll [] [(0, BitVec.ofNat 32 l)] }) (fun x => x.act != BitVec.allOnes 32) = true) ∧
    meets (.tchk 1 (.reg 8)) (onGroup { g0 with pend := [held [8]] }) (fun x => x.act == BitVec.allOnes 32 && x.g.pendingOn [8] [] false) = true := by decide +kernel

/-- Chunks with a NaN, with infinities, and of numbers; formats with a block scale of each kind; maxima of blocks. -/
theorem witness_tile_values :
    (chunkSum [.nan 0] = .nan 0x7FC00000 ∧ chunkSum [.inf true, .inf false] = .nan 0x7FC00000 ∧ chunkSum [.inf true, .fin false ⟨1, 1⟩] = .inf true) ∧
    (headerFail tileQ none (fun _ => true) = none ∧ hSpr tileQ = 0 ∧ hScl tileQ = 1 ∧ headerFail tileF none (fun _ => true) = none ∧ hScl tileF = 0) ∧
    (tileFmt (hFmt tileQ)).isSome = true ∧ (tileFmt (hFmt tileA)).isNone = true ∧
    (blockMax [.fin true ⟨-3, 2⟩, .fin false ⟨1, 1⟩] = some ⟨3, 2⟩ ∧ blockMax [.fin false ⟨0, 1⟩] = some ⟨0, 1⟩ ∧ blockMax [.nan 0] = none) ∧
    (∀ o < 32, ∀ q < 32, rotated tileF 0 o = rotated tileF 0 q → o = q) ∧ (∀ o < 32, rotated tileF 0 o < 32) := by decide +kernel

/-- The header and the sources of an i8 product of 16 rows, and a source whose words are taken, some of them fixed by a locked region. -/
theorem witness_products_in_place : let h := resultHeader true 1 128
    (hRows h = 16 * 1 ∧ 128 ≤ hPitch h ∧ 16 + hRows h * hPitch h ≤ (List.replicate 4112 (0 : Byte)).length ∧ h < 2 ^ 128 ∧ hFmt h = 10) ∧
    pairInfo (hFmt tileA) (hFmt tileB) = some (96, 32, true) ∧
    ((List.replicate 32 (0 : Byte)).length = hExtent tileF ∧ 17 < hExtent tileF ∧ ∃ r ∈ [((16 : Nat), (20 : Nat))], r.1 ≤ 0 + 17 ∧ 0 + 17 < r.2) := by decide +kernel

/-- A split of a group that waits at `cwait` for a counter that has reached its threshold, and for one that has not. -/
theorem witness_counter_waits : ∀ n ∈ [0, 1], let s := onGroup { g0 with splits := [{ p0 with wait := .cwait true 0 64 1 n }] }
    ((s.group? 0 0).bind (·.split? 0)).any (fun p => p.wait == .cwait true 0 64 1 n && !p.stop && (s.poisonAt (.glb 64) 8).isNone &&
      ((s.cwaitValue true 0 64 72 p).isSome == (n == 0))) = true ∧
    (∀ b ∈ s.blocks, (b.groups.map (·.gid)).Nodup ∧ ∀ g ∈ b.groups, (g.splits.map (·.age)).Nodup) := by decide +kernel


end Sys2Proof.Tests
end

section
/-!
SUPPORT. Every operation of the model keeps the invariant `State.Formed`: device memory in its canonical form and the package in its
shape (O58). A lemma for each operation that gives a state, in the order of the model; then the instructions, the events, the acts of
the agenda and the step. An operation that leaves device memory alone neither makes nor breaks the invariant: its lemma is an
equivalence, `State.formed_<operation>`, and rewrites. The lemma of one that may write device memory takes the invariant of the state
before, `State.Formed.<operation>`.
-/
namespace Sys2Proof.Machine

/-! ## The invariant -/

/-- Device memory is in its canonical form and the package in its shape. -/
def State.Formed (s : State) : Prop := s.memWf = true ∧ s.shapely

/-- What the effect of an instruction ends in leaves the state formed. -/
def Res.Formed : Res → Prop
  | .done s _ => s.Formed
  | .jump s => s.Formed
  | .wait s => s.Formed
  | .trap _ => True

/-- The checks of an access leave the state formed where they make the split wait. -/
def Access.Formed : Access → Prop
  | .trap _ => True
  | .wait s => s.Formed
  | .ok _ => True

/-- The checks of a barrier address leave the state formed where they make the split wait. -/
def BarAt.Formed : BarAt → Prop
  | .trap _ => True
  | .wait s => s.Formed
  | .ok _ _ => True

/-- The state that a fetch leaves is formed. -/
def Fetched.Formed : Fetched → Prop
  | .word _ s => s.Formed
  | .wait s => s.Formed
  | .trap _ => True

/-- The state that an issue slot leaves is formed. -/
def Turn.Formed : Turn → Prop
  | .idle s => s.Formed
  | .go _ s => s.Formed

/-- The next state of a step, if there is one, is formed. -/
def FormedNext : Host.Outcome State Fault Refusal → Prop
  | .next s => s.Formed
  | .fault _ => True
  | .refused _ => True

/-- The state of an operation that may not take place, if it does, is formed. -/
def FormedSome (o : Option State) : Prop := ∀ t, o = some t → t.Formed

/-- The state that comes with the result of an operation that may fail, if it does not, is formed. -/
def FormedOk {ε α : Type} (state : α → State) (r : Except ε α) : Prop := ∀ y, r = .ok y → (state y).Formed

section
variable {s t : State}

/-- The invariant of a state given by its fields. -/
@[simp] theorem State.formed_mk
    {mem' poisoned' badCells' badLines' blocks' launches' admits' insts' parts' areas' prereqs' dies' cores' ports' links'
     sources' evPq' msiPending' evmsi' power' boot' ckpt' iommu' imsics' aplic' dma' pkg' conngrp' connmap' connbusy' jcfg'
     time' refills' epkg' transit' remote' subnet' net' kept' replies' nextLoad' qcache' rcache' lcache' roots' roots2' latched'
     hostOut' nextUid' nextReq' waitAge' cur' ev' agenda' tick'} :
    State.Formed
      ⟨mem', poisoned', badCells', badLines', blocks', launches', admits', insts', parts', areas', prereqs', dies', cores',
       ports', links', sources', evPq', msiPending', evmsi', power', boot', ckpt', iommu', imsics', aplic', dma', pkg',
       conngrp', connmap', connbusy', jcfg', time', refills', epkg', transit', remote', subnet', net', kept', replies',
       nextLoad', qcache', rcache', lcache', roots', roots2', latched', hostOut', nextUid', nextReq', waitAge', cur', ev',
       agenda', tick'⟩ ↔
    Sparse.wf mem' = true ∧ dies'.length = 4 ∧ ports'.length = 5 ∧ sources'.length = 5 :=
  Iff.rfl

/-- The parts of the invariant are the invariant. -/
@[simp] theorem State.formed_fold :
    (Sparse.wf s.mem = true ∧ s.dies.length = 4 ∧ s.ports.length = 5 ∧ s.sources.length = 5) ↔ s.Formed :=
  Iff.rfl

@[simp] theorem State.Formed.wf (h : s.Formed) : Sparse.wf s.mem = true := h.1
@[simp] theorem State.Formed.dies (h : s.Formed) : s.dies.length = 4 := h.2.1
@[simp] theorem State.Formed.ports (h : s.Formed) : s.ports.length = 5 := h.2.2.1
@[simp] theorem State.Formed.sources (h : s.Formed) : s.sources.length = 5 := h.2.2.2

@[simp] theorem State.formed_ite {c : Prop} [Decidable c] : (if c then s else t).Formed ↔ (c → s.Formed) ∧ (¬c → t.Formed) := by
  split <;> simp [*]

@[simp] theorem Res.formed_done {lat : List Word} : (Res.done s lat).Formed ↔ s.Formed := Iff.rfl
@[simp] theorem Res.formed_jump : (Res.jump s).Formed ↔ s.Formed := Iff.rfl
@[simp] theorem Res.formed_wait : (Res.wait s).Formed ↔ s.Formed := Iff.rfl
@[simp] theorem Res.formed_trap {f : Trap} : (Res.trap f).Formed := trivial
@[simp] theorem Access.formed_trap {f : Trap} : (Access.trap f).Formed := trivial
@[simp] theorem Access.formed_wait : (Access.wait s).Formed ↔ s.Formed := Iff.rfl
@[simp] theorem Access.formed_ok {l : List (Nat × Loc)} : (Access.ok l).Formed := trivial
@[simp] theorem BarAt.formed_trap {f : Trap} : (BarAt.trap f).Formed := trivial
@[simp] theorem BarAt.formed_wait : (BarAt.wait s).Formed ↔ s.Formed := Iff.rfl
@[simp] theorem BarAt.formed_ok {u off : Nat} : (BarAt.ok u off).Formed := trivial
@[simp] theorem Fetched.formed_word {w : Nat} : (Fetched.word w s).Formed ↔ s.Formed := Iff.rfl
@[simp] theorem Fetched.formed_wait : (Fetched.wait s).Formed ↔ s.Formed := Iff.rfl
@[simp] theorem Fetched.formed_trap {f : Trap} : (Fetched.trap f).Formed := trivial
@[simp] theorem Turn.formed_idle : (Turn.idle s).Formed ↔ s.Formed := Iff.rfl
@[simp] theorem Turn.formed_go {c : Cur} : (Turn.go c s).Formed ↔ s.Formed := Iff.rfl
@[simp] theorem formedNext_next : FormedNext (.next s) ↔ s.Formed := Iff.rfl
@[simp] theorem formedNext_fault {r : Fault} : FormedNext (.fault r) := trivial
@[simp] theorem formedNext_refused {r : Refusal} : FormedNext (.refused r) := trivial
@[simp] theorem formedSome_none : FormedSome none := by simp [FormedSome]
@[simp] theorem formedSome_some : FormedSome (some s) ↔ s.Formed := by simp [FormedSome]
@[simp] theorem formedOk_error {ε α : Type} {f : α → State} {e : ε} : FormedOk f (.error e) := by simp [FormedOk]
@[simp] theorem formedOk_ok {ε α : Type} {f : α → State} {y : α} :
    FormedOk f (.ok y : Except ε α) ↔ (f y).Formed := by simp [FormedOk]

@[simp] theorem Res.formed_ite {c : Prop} [Decidable c] {q r : Res} :
    (if c then q else r).Formed ↔ (c → q.Formed) ∧ (¬c → r.Formed) := by
  split <;> simp [*]

@[simp] theorem formedSome_ite {c : Prop} [Decidable c] {o p : Option State} :
    FormedSome (if c then o else p) ↔ (c → FormedSome o) ∧ (¬c → FormedSome p) := by
  split <;> simp [*]

@[simp] theorem formedOk_ite {ε α : Type} {f : α → State} {c : Prop} [Decidable c] {q r : Except ε α} :
    FormedOk f (if c then q else r) ↔ (c → FormedOk f q) ∧ (¬c → FormedOk f r) := by
  split <;> simp [*]

theorem Access.Formed.of_wait {a : Access} (ha : a.Formed) (h : a = .wait t) : t.Formed := by subst h; exact ha

theorem BarAt.Formed.of_wait {a : BarAt} (ha : a.Formed) (h : a = .wait t) : t.Formed := by subst h; exact ha

theorem Fetched.Formed.of_wait {r : Fetched} (hr : r.Formed) (h : r = .wait t) : t.Formed := by subst h; exact hr

theorem Fetched.Formed.of_word {r : Fetched} {w : Nat} (hr : r.Formed) (h : r = .word w t) : t.Formed := by subst h; exact hr

theorem Turn.Formed.of_idle {r : Turn} (hr : r.Formed) (h : r = .idle t) : t.Formed := by subst h; exact hr

theorem Turn.Formed.of_go {r : Turn} {c : Cur} (hr : r.Formed) (h : r = .go c t) : t.Formed := by subst h; exact hr

theorem FormedNext.of_next {r : Host.Outcome State Fault Refusal} (hr : FormedNext r) (h : r = .next t) : t.Formed := by subst h; exact hr

theorem FormedSome.getD {o : Option State} (ho : FormedSome o) (h : s.Formed) : (o.getD s).Formed := by
  cases o with
  | none => exact h
  | some t => exact ho t rfl

theorem FormedSome.map {o : Option State} {f : State → State} (ho : FormedSome o) (hf : ∀ t, t.Formed → (f t).Formed) :
    FormedSome (o.map f) := by
  cases o with
  | none => simp
  | some t => simpa using hf t (ho t rfl)

theorem FormedSome.bind {o : Option State} {f : State → Option State} (ho : FormedSome o) (hf : ∀ t, t.Formed → FormedSome (f t)) :
    FormedSome (o.bind f) := by
  cases o with
  | none => simp
  | some t => exact hf t (ho t rfl)

theorem FormedOk.map {ε α β : Type} {r : Except ε α} {f : α → State} {g : α → β} {k : β → State} (hr : FormedOk f r)
    (hg : ∀ y, (f y).Formed → (k (g y)).Formed) : FormedOk k (r.map g) := by
  cases r with
  | error e => simp [Except.map]
  | ok y => simpa [Except.map] using hg y (hr y rfl)

/-- A fold of steps that keep the invariant. -/
theorem State.Formed.foldl {α : Type} {f : State → α → State} (h : s.Formed) (hf : ∀ t a, t.Formed → (f t a).Formed)
    (l : List α) : (l.foldl f s).Formed := by
  induction l generalizing s with
  | nil => exact h
  | cons a r ih => exact ih (hf s a h)

/-- A fold of steps that neither make nor break the invariant. -/
@[simp] theorem State.formed_foldl {α : Type} {f : State → α → State} (hf : ∀ t a, (f t a).Formed ↔ t.Formed) (l : List α) :
    (l.foldl f s).Formed ↔ s.Formed := by
  induction l generalizing s with
  | nil => rfl
  | cons a r ih => exact ih.trans (hf s a)

@[simp] theorem length_setNth {α : Type} (l : List α) (k : Nat) (v : α) : (setNth l k v).length = l.length := by
  induction l generalizing k with
  | nil => rfl
  | cons a r ih => cases k <;> simp [setNth, ih]

@[simp] theorem State.length_updStack_dies {k f} : (s.updStack k f).dies.length = s.dies.length := by simp [State.updStack]
@[simp] theorem State.length_updPort_ports {w f} : (s.updPort w f).ports.length = s.ports.length := by simp [State.updPort]
@[simp] theorem State.length_updSource_sources {k f} : (s.updSource k f).sources.length = s.sources.length := by simp [State.updSource]

/-! ## Memory, ports and records -/

@[simp] theorem State.Formed.writeMem (h : s.Formed) {pa bytes} : (s.writeMem pa bytes).Formed :=
  ⟨State.memWf_writeMem pa bytes h.1, h.2⟩

@[simp] theorem State.formed_updPort {w f} : (s.updPort w f).Formed ↔ s.Formed := by simp [State.updPort]

@[simp] theorem State.formed_setDesc {w pq d} : (s.setDesc w pq d).Formed ↔ s.Formed := by simp [State.setDesc]

@[simp] theorem State.formed_writeSram {w at_ bytes} : (s.writeSram w at_ bytes).Formed ↔ s.Formed := by
  simp [State.writeSram, State.updPort]

@[simp] theorem State.Formed.writeCells {w d seq n data} (h : s.Formed) : (s.writeCells w d seq n data).Formed := by
  induction n generalizing s seq data with
  | zero => exact h
  | succ n ih => exact ih (by simp [h])

@[simp] theorem State.formed_settleReply {y} : (s.settleReply y).Formed ↔ s.Formed := by
  unfold State.settleReply
  split
  · split <;> simp
  · simp

@[simp] theorem State.formed_post {w dst out a} : (s.post w dst out a).Formed ↔ s.Formed := by simp [State.post]

@[simp] theorem State.formed_sendWakes {w l} : (State.sendWakes w l s).Formed ↔ s.Formed := by
  induction l generalizing s with
  | nil => rfl
  | cons x r ih => exact ih.trans State.formed_post

@[simp] theorem State.formed_wakeAll {w l} : (s.wakeAll w l).Formed ↔ s.Formed := by simp [State.wakeAll]

@[simp] theorem State.formed_settleDesc {w pq old new} : (s.settleDesc w pq old new).Formed ↔ s.Formed := by
  unfold State.settleDesc
  split <;> simp

@[simp] theorem State.formed_sendMsi {addr eiid} : (s.sendMsi addr eiid).Formed ↔ s.Formed := by simp [State.sendMsi]

@[simp] theorem State.formed_msi {old} : (s.msi old).Formed ↔ s.Formed := by
  unfold State.msi
  simp only
  split <;> simp

@[simp] theorem State.formed_changeDesc {w pq f} : (s.changeDesc w pq f).Formed ↔ s.Formed := by
  unfold State.changeDesc
  simp only
  split <;> simp

@[simp] theorem State.formed_refillCells {w d l} : (State.refillCells w d l s).Formed ↔ s.Formed := by
  induction l generalizing s with
  | nil => rfl
  | cons c r ih => simp [State.refillCells, ih, -State.writeSram_mem]

@[simp] theorem State.formed_refill {w pq} : (s.refill w pq).Formed ↔ s.Formed := by simp [State.refill]

@[simp] theorem State.Formed.fillCells {w pq seq data} (h : s.Formed) : (s.fillCells w pq seq data).Formed := by simp [State.fillCells, h]

@[simp] theorem State.Formed.putElement {w pq prod data} (h : s.Formed) : FormedSome (s.putElement w pq prod data) := by
  simp [State.putElement, h]

@[simp] theorem State.formed_takeElement {w pq seq} : (s.takeElement w pq seq).2.Formed ↔ s.Formed := by simp [State.takeElement]

@[simp] theorem State.formed_updSource {k f} : (s.updSource k f).Formed ↔ s.Formed := by simp [State.updSource]

@[simp] theorem State.formed_updLink {w b m f} : (s.updLink w b m f).Formed ↔ s.Formed := by simp [State.updLink]

@[simp] theorem State.formed_setOvf {k v} : (s.setOvf k v).Formed ↔ s.Formed := by
  unfold State.setOvf
  split
  · rfl
  · simp

@[simp] theorem State.Formed.putRecord (h : s.Formed) {k w} : FormedSome (s.putRecord k w) := by simp [State.putRecord, h]

@[simp] theorem State.Formed.sendRecord (h : s.Formed) {k w} : FormedSome (s.sendRecord k w) := by
  unfold State.sendRecord
  simp only
  split
  · next u hu =>
    split at hu
    · simp [h.putRecord u hu]
    · simp at hu
  · split
    · simp [h]
    · split <;> simp [h]

@[simp] theorem State.Formed.record (h : s.Formed) {k r} : (s.record k r).Formed := by
  unfold State.record
  exact h.sendRecord.getD h

@[simp] theorem State.formed_countFault {stk cause} : (s.countFault stk cause).Formed ↔ s.Formed := by simp [State.countFault]

/-! ## Blocks, groups and splits -/

@[simp] theorem State.formed_updBlock {u f} : (s.updBlock u f).Formed ↔ s.Formed := by simp [State.updBlock]

@[simp] theorem State.formed_updGroup {u g f} : (s.updGroup u g f).Formed ↔ s.Formed := by simp [State.updGroup]

@[simp] theorem State.formed_updCur {c f} : (s.updCur c f).Formed ↔ s.Formed := by simp [State.updCur]

@[simp] theorem State.formed_updSplit {c f} : (s.updSplit c f).Formed ↔ s.Formed := by simp [State.updSplit]

@[simp] theorem State.formed_updLaunch {l f} : (s.updLaunch l f).Formed ↔ s.Formed := by simp [State.updLaunch]

@[simp] theorem State.formed_updStack {k f} : (s.updStack k f).Formed ↔ s.Formed := by simp [State.updStack]

@[simp] theorem State.formed_updCore {stk core f} : (s.updCore stk core f).Formed ↔ s.Formed := by simp [State.updCore]

@[simp] theorem State.formed_updPart {p f} : (s.updPart p f).Formed ↔ s.Formed := by simp [State.updPart]

@[simp] theorem State.formed_serveRacq {stk core fuel} : (State.serveRacq stk core fuel s).Formed ↔ s.Formed := by
  induction fuel generalizing s with
  | zero => rfl
  | succ fuel ih =>
    unfold State.serveRacq
    split
    · rfl
    · split <;> simp [ih]

@[simp] theorem State.formed_granulesFreed {stk core} : (s.granulesFreed stk core).Formed ↔ s.Formed := by simp [State.granulesFreed]

@[simp] theorem State.Formed.bufWrite {b sp off bytes} (h : s.Formed) : (s.bufWrite b sp off bytes).Formed := by
  unfold State.bufWrite
  split <;> simp [h]

@[simp] theorem State.formed_dropL1 {stk core} : (s.dropL1 stk core).Formed ↔ s.Formed := by simp [State.dropL1]

@[simp] theorem State.formed_hear {u g scope} : (s.hear u g scope).Formed ↔ s.Formed := by
  unfold State.hear
  split <;> simp

@[simp] theorem State.formed_acquire {u g scope} : (s.acquire u g scope).Formed ↔ s.Formed := by
  unfold State.acquire
  split
  · rfl
  · split <;> simp

@[simp] theorem State.formed_acquireAll {u scope gs} : (s.acquireAll u scope gs).Formed ↔ s.Formed := by simp [State.acquireAll]

@[simp] theorem State.formed_wakeCwait {glb blk lo hi} : (s.wakeCwait glb blk lo hi).Formed ↔ s.Formed := by
  refine (State.formed_foldl (fun t b => ?_) _).trans (by simp)
  split <;> simp

@[simp] theorem State.Formed.writeBar {b off t'} (h : s.Formed) : (s.writeBar b off t').Formed := by simp [State.writeBar, h]

@[simp] theorem State.formed_wakeBar {b off p} : (s.wakeBar b off p).Formed ↔ s.Formed := by simp [State.wakeBar]

@[simp] theorem State.Formed.noticeOf {b gid g cause val} (h : s.Formed) : (s.noticeOf b gid g cause val).Formed := by
  simp [State.noticeOf, h]

@[simp] theorem State.Formed.notice {b gid cause val} (h : s.Formed) : (s.notice b gid cause val).Formed := by simp [State.notice, h]

@[simp] theorem State.Formed.areaCont {b c} (h : s.Formed) : (s.areaCont b c).Formed := by
  unfold State.areaCont
  split <;> simp [h]

@[simp] theorem State.Formed.barRule {b off} (h : s.Formed) : (s.barRule b off).Formed := by simp [State.barRule, h]

@[simp] theorem State.Formed.barEvent (h : s.Formed) {u off f clamps} : (s.barEvent u off f clamps).Formed := by
  unfold State.barEvent
  split
  · exact h
  · have hr : ∀ t : State, t.Formed → (match t.block? u with | none => t | some b => t.barRule b off).Formed := fun t ht => by
      split <;> simp [ht]
    exact hr _ (by simp [h])

@[simp] theorem State.Formed.sectors (h : s.Formed) {u off n} : (State.sectors u off n s).Formed := by
  induction n generalizing s with
  | zero => exact h
  | succ n ih => exact ih h.barEvent

@[simp] theorem State.formed_sendBatches {blk ent l rem orphan} : (s.sendBatches blk ent l rem orphan).Formed ↔ s.Formed := by
  simp [State.sendBatches]

@[simp] theorem State.formed_forwardTo {pub off bytes blk ent} : (s.forwardTo pub off bytes blk ent).Formed ↔ s.Formed := by
  unfold State.forwardTo
  split
  · rfl
  · split
    · rfl
    · split
      · split <;> simp
      · rfl

@[simp] theorem State.formed_forward {pub off bytes} : (s.forward pub off bytes).Formed ↔ s.Formed := by simp [State.forward]

@[simp] theorem State.Formed.afterS (h : s.Formed) {u off n} : (s.afterS u off n).Formed := by
  unfold State.afterS
  simp only
  split
  · simp [h]
  · refine State.Formed.foldl (by simp [h]) (fun t o ht => ?_) _
    split <;> simp [ht]

@[simp] theorem State.Formed.bufStore {u sp off bytes fwd} (h : s.Formed) : (s.bufStore u sp off bytes fwd).Formed := by
  unfold State.bufStore
  split
  · exact h
  · split <;> simp [h]

@[simp] theorem State.formed_flushSubs {pick rem orphan} : (s.flushSubs pick rem orphan).Formed ↔ s.Formed := by
  refine State.formed_foldl (fun t x => ?_) _
  split
  · rfl
  · split <;> simp

@[simp] theorem State.formed_flushPublisher {u rem orphan} : (s.flushPublisher u rem orphan).Formed ↔ s.Formed := by
  unfold State.flushPublisher
  split <;> simp

@[simp] theorem State.Formed.glbStore {stk core pa bytes} (h : s.Formed) : (s.glbStore stk core pa bytes).Formed := by
  simp [State.glbStore, h]

@[simp] theorem State.formed_fillLine {stk core a line} : (s.fillLine stk core a line).Formed ↔ s.Formed := by simp [State.fillLine]

@[simp] theorem State.formed_sendStore {b ctx pa bytes} : (s.sendStore b ctx pa bytes).Formed ↔ s.Formed := by simp [State.sendStore]

@[simp] theorem State.formed_prune {u} : (s.prune u).Formed ↔ s.Formed := by simp [State.prune]

@[simp] theorem State.Formed.atomic {stk core t' op mode b d} (h : s.Formed) : (s.atomic stk core t' op mode b d).2.Formed := by
  unfold State.atomic
  split <;> simp [h]

@[simp] theorem State.Formed.performQuanta (h : s.Formed) {stk core l} : (State.performQuanta stk core l s).Formed := by
  induction l generalizing s with
  | nil => exact h
  | cons q r ih => exact ih h.atomic

@[simp] theorem State.Formed.releaseQuanta {u g due} (h : s.Formed) : (s.releaseQuanta u g due).Formed := by
  unfold State.releaseQuanta
  split
  · exact h
  · split <;> simp [h]

@[simp] theorem State.Formed.drainQuanta {u g} (h : s.Formed) : (s.drainQuanta u g).Formed := by simp [State.drainQuanta, h]

@[simp] theorem State.formed_blockBarEvent {u f} : (s.blockBarEvent u f).Formed ↔ s.Formed := by
  unfold State.blockBarEvent
  split <;> simp

@[simp] theorem State.Formed.memberStep (h : s.Formed) {u f} : (s.memberStep u f).Formed := by
  unfold State.memberStep
  split
  · exact h
  · exact State.Formed.foldl (by simp [h]) (fun _ _ ht => ht.barEvent) _

@[simp] theorem State.Formed.detachGroup {u g} (h : s.Formed) : (s.detachGroup u g).Formed := by
  unfold State.detachGroup
  split <;> simp [h]

@[simp] theorem State.Formed.attachGroup {u g} (h : s.Formed) : (s.attachGroup u g).Formed := by
  unfold State.attachGroup
  split <;> simp [h]

@[simp] theorem State.Formed.addGroup {b gid nln entry scal} (h : s.Formed) : (s.addGroup b gid nln entry scal).Formed := by
  simp [State.addGroup, h]

@[simp] theorem State.formed_retryLock {stk slice} : (s.retryLock stk slice).Formed ↔ s.Formed := by simp [State.retryLock]

@[simp] theorem State.formed_dropLockWaits {stk p} : (s.dropLockWaits stk p).Formed ↔ s.Formed := by simp [State.dropLockWaits]

@[simp] theorem State.formed_passLock {stk e} : (s.passLock stk e).Formed ↔ s.Formed := by
  unfold State.passLock
  split <;> simp

@[simp] theorem State.formed_releaseLocks {stk owner} : (s.releaseLocks stk owner).Formed ↔ s.Formed := by
  refine State.formed_foldl (fun t e => ?_) _
  split <;> simp

@[simp] theorem State.Formed.endGroup (h : s.Formed) {u g} : (s.endGroup u g).Formed := by
  unfold State.endGroup
  simp only
  split
  · simp [h]
  · next b _ =>
    split
    · simp [h]
    · have hn : ∀ l : List (Nat × Nat × Nat),
          (l.foldl (fun t e => t.notice b g 0x1C e.2.2) ((s.drainQuanta u g).detachGroup u g)).Formed :=
        State.Formed.foldl (by simp [h]) fun _ _ ht => ht.notice
      simp [hn]

@[simp] theorem State.Formed.exitLanes {c m} (h : s.Formed) : (s.exitLanes c m).Formed := by
  unfold State.exitLanes
  split
  · exact h
  · split
    · exact h
    · simp only
      split <;> simp [h]

@[simp] theorem State.Formed.tryHeld (h : s.Formed) {u n} : (s.tryHeld u n).Formed := by
  unfold State.tryHeld
  split
  · exact h
  · split
    · exact h
    · split
      · exact h
      · split
        · split
          next t ht => simp [h.sendRecord t ht]
          next => exact h
        · exact h

@[simp] theorem State.Formed.tryEnded (h : s.Formed) {u} : (s.tryEnded u).Formed := by
  unfold State.tryEnded
  split
  · exact h
  · exact h.foldl (fun _ _ ht => ht.tryHeld) _

@[simp] theorem State.Formed.takeTrap {c t'} (h : s.Formed) : (s.takeTrap c t').Formed := by
  unfold State.takeTrap
  simp only
  split
  · simp [h]
  · split
    · simp [h]
    · split <;> simp [h]

@[simp] theorem State.formed_returnHandler {c} : (s.returnHandler c).Formed ↔ s.Formed := by
  unfold State.returnHandler
  split <;> simp

theorem State.Formed.sees {i s x} (h : s.Formed) (hx : Sees i s x) : x.s.Formed := by
  obtain ⟨g, ho⟩ := Sees.of hx
  simp [ho.st, h]

/-! ## Operands and what stands around an instruction -/

@[simp] theorem Ctx.formed_waitAs {x : Ctx} {w} : (x.waitAs w).Formed ↔ x.s.Formed := by simp [Ctx.waitAs]

@[simp] theorem Ctx.formed_waitRegs {x : Ctx} {vs} : (x.waitRegs vs).Formed ↔ x.s.Formed := by simp [Ctx.waitRegs]

@[simp] theorem Ctx.formed_retire {x : Ctx} {i lat} : (x.retire i s lat).Formed ↔ s.Formed := by simp [Ctx.retire]

@[simp] theorem Ctx.formed_leave {x : Ctx} : (x.leave s).Formed ↔ s.Formed := by simp [Ctx.leave]

/-- An instruction keeps the invariant if its effect does. -/
theorem State.Formed.issue {i} {effect : Ctx → Res} (h : s.Formed) (he : ∀ x, x.s.Formed → (effect x).Formed) :
    FormedNext (issue i s effect) := by
  unfold Sys2Proof.Machine.issue
  split
  · trivial
  · next x hx =>
    have hxs : x.s.Formed := h.sees hx
    split
    · simp [hxs]
    · split
      · simp [hxs]
      · split
        · simp [hxs]
        · have hr : (effect x).Formed := he x hxs
          split <;> simp_all

@[simp] theorem Ctx.formed_vector {x : Ctx} {w d m f} (h : x.s.Formed) : (x.vector w d m f).Formed := by simp [Ctx.vector, h]

@[simp] theorem Ctx.formed_lanewise {x : Ctx} {w d f} (h : x.s.Formed) : (x.lanewise w d f).Formed :=
  Ctx.formed_vector h

@[simp] theorem Ctx.formed_scalar {x : Ctx} {d r} (h : x.s.Formed) : (x.scalar d r).Formed := by simp [Ctx.scalar, h]

@[simp] theorem Ctx.formed_nothing {x : Ctx} (h : x.s.Formed) : x.nothing.Formed := by simp [Ctx.nothing, h]

@[simp] theorem Ctx.formed_lanewiseGen {x : Ctx} {w d f} (h : x.s.Formed) : (x.lanewiseGen w d f).Formed := by simp [Ctx.lanewiseGen, h]

/-! ## Predicates -/

@[simp] theorem Ctx.formed_predicate {x : Ctx} {w d f} (h : x.s.Formed) : (x.predicate w d f).Formed := by simp [Ctx.predicate, h]

@[simp] theorem Ctx.formed_setStatus {x : Ctx} {m r} : (x.setStatus s m r).Formed ↔ s.Formed := by simp [Ctx.setStatus]

/-! ## Translation -/

/-- A walk of a table whose own translation keeps the invariant keeps it. -/
theorem formedOk_walkTable {ext bad xlat va level top table} (hx : ∀ s a, s.Formed → FormedOk (·.2) (xlat s a)) (h : s.Formed) :
    FormedOk (·.2) (walkTable ext bad xlat top va level table s) := by
  induction level generalizing s top table with
  | zero =>
    unfold walkTable
    simp only
    split
    · simp
    · next pa t ht =>
      have := hx _ _ h _ ht
      split <;> simp_all
  | succ n ih =>
    unfold walkTable
    simp only
    split
    · simp
    · next pa t ht =>
      have := hx _ _ h _ ht
      split <;> simp_all

@[simp] theorem State.Formed.setAD {f write} (h : s.Formed) : (s.setAD f write).2.Formed := by
  unfold State.setAD
  split
  · simp only
    split <;> simp [h]
  · simp only
    split <;> simp [h]

@[simp] theorem State.Formed.stage2 (h : s.Formed) {ext root gpa kind} : FormedOk (·.2.2) (s.stage2 ext root gpa kind) := by
  unfold State.stage2
  split
  · simp
  · split
    · simp
    · next f t ht =>
      have := formedOk_walkTable (fun s a hs => by simpa using hs) h _ ht
      simp_all

@[simp] theorem State.Formed.walk (h : s.Formed) {ext asid vmid va kind priv} : (s.walk ext asid vmid va kind priv).2.Formed := by
  unfold State.walk
  split
  · exact h
  · simp only
    split
    · exact h
    · split
      · exact h
      · next r2 _ _ _ f t ht =>
        have h1 : t.Formed := by
          refine formedOk_walkTable (fun s a hs => ?_) h _ ht
          split
          · split
            next hst => simpa using hs.stage2 _ hst
            next => simp
          · simpa using hs
        split
        · exact h1
        · split
          · split
            next => simp [h1]
            next hst => exact (h1.setAD).stage2 _ hst
          · simp [h1]

@[simp] theorem State.Formed.translateNow {stk core l va kind} (h : s.Formed) : (s.translateNow stk core l va kind).2.Formed := by
  unfold State.translateNow
  split
  · split
    · exact h
    · simp only
      split <;> simp [h]
  · exact h

@[simp] theorem State.Formed.portTranslate {l va kind} (h : s.Formed) : (s.portTranslate l va kind).2.Formed := by
  unfold State.portTranslate
  split
  · exact h
  · split
    · exact h
    · simp only
      split <;> simp [h]

@[simp] theorem Ctx.formed_startWalks {x : Ctx} {kind vas} : (x.startWalks kind vas).Formed ↔ x.s.Formed := by simp [Ctx.startWalks]

/-! ## The issue unit -/

@[simp] theorem State.Formed.fetch (h : s.Formed) {c b g p} : (s.fetch c b g p).Formed := by
  unfold State.fetch
  simp only
  split
  · simp [h]
  · simp
  · split <;> simp [h]

@[simp] theorem State.formed_settleOwed {stk core} : (s.settleOwed stk core).Formed ↔ s.Formed := by simp [State.settleOwed]

@[simp] theorem State.formed_dropWaiters {p} : (s.dropWaiters p).Formed ↔ s.Formed := by simp [State.dropWaiters]

@[simp] theorem State.formed_stopInPlace {u} : (s.stopInPlace u).Formed ↔ s.Formed := by
  unfold State.stopInPlace
  split
  · rfl
  · split <;> simp

@[simp] theorem State.formed_atDecision {stk core} : (s.atDecision stk core).Formed ↔ s.Formed := by simp [State.atDecision]

@[simp] theorem State.formed_startTurn {stk core b g p} : (s.startTurn stk core b g p).Formed ↔ s.Formed := by simp [State.startTurn]

@[simp] theorem State.formed_dropChain {stk core slot} : (s.dropChain stk core slot).Formed ↔ s.Formed := by
  unfold State.dropChain
  split <;> simp

@[simp] theorem State.Formed.slotTurn {stk core slot} (h : s.Formed) : (s.slotTurn stk core slot).Formed := by
  unfold State.slotTurn
  split
  · exact h
  · split
    · split
      · exact h
      · split <;> exact h
    · simp only
      split <;> simp [h]

@[simp] theorem State.formed_closeIfDone {c} : (s.closeIfDone c).Formed ↔ s.Formed := by
  unfold State.closeIfDone
  split
  · rfl
  · split
    · rfl
    · split
      · split <;> simp
      · rfl

@[simp] theorem State.formed_endIssue {stk core slot c} : (s.endIssue stk core slot c).Formed ↔ s.Formed := by
  unfold State.endIssue
  split <;> simp

@[simp] theorem State.Formed.fetchTrap {c t'} (h : s.Formed) : (s.fetchTrap c t').Formed := by simp [State.fetchTrap, h]

@[simp] theorem State.Formed.badWord {c w} (h : s.Formed) : (s.badWord c w).Formed := by simp [State.badWord, h]

@[simp] theorem State.formed_elapse {cycles ns} : (s.elapse cycles ns).Formed ↔ s.Formed := by simp [State.elapse]

@[simp] theorem State.formed_poison {l} : (s.poison l).Formed ↔ s.Formed := by
  unfold State.poison
  split
  · split <;> simp
  · simp

@[simp] theorem State.formed_poisonCell {w word} : (s.poisonCell w word).Formed ↔ s.Formed := by
  unfold State.poisonCell
  split <;> simp

@[simp] theorem State.formed_poisonLine {core pa} : (s.poisonLine core pa).Formed ↔ s.Formed := by
  unfold State.poisonLine
  split <;> simp

@[simp] theorem State.formed_poisonReg {u g code} : (s.poisonReg u g code).Formed ↔ s.Formed := by simp [State.poisonReg]

@[simp] theorem State.formed_depart {k w a} : (s.depart k w a).Formed ↔ s.Formed := by
  unfold State.depart
  split
  · rfl
  · split <;> simp

@[simp] theorem State.formed_arrive {m} : (s.arrive m).Formed ↔ s.Formed := by
  unfold State.arrive
  split
  · split
    · simp
    · split <;> simp
  · rfl

/-! ## Loads, stores and atomics -/

@[simp] theorem Ctx.formed_accessWith {x : Ctx} {data kind size l} (h : x.s.Formed) : (x.accessWith data kind size l).Formed := by
  unfold Ctx.accessWith
  split
  · simp
  · split
    · simp
    · split
      · simp
      · simp only
        split
        · simp [h]
        · split <;> simp

@[simp] theorem Ctx.formed_access {x : Ctx} {kind size l} (h : x.s.Formed) : (x.access kind size l).Formed := by simp [Ctx.access, h]

@[simp] theorem State.Formed.quantaFirst {u g n l} (h : s.Formed) : (s.quantaFirst u g n l).Formed := by simp [State.quantaFirst, h]

@[simp] theorem State.formed_readGlb {stk core fresh alloc pa n} : (s.readGlb stk core fresh alloc pa n).2.Formed ↔ s.Formed := by
  unfold State.readGlb
  simp only
  split
  · split <;> simp
  · split <;> simp

@[simp] theorem State.formed_look {b fresh alloc n a'} : (s.look b fresh alloc n a').2.Formed ↔ s.Formed := by
  unfold State.look
  split <;> simp

@[simp] theorem Ctx.formed_loadBytes {x : Ctx} {n p} : (x.loadBytes s n p).2.Formed ↔ s.Formed := by simp [Ctx.loadBytes]

@[simp] theorem Ctx.formed_loadAll {x : Ctx} {n l} : (x.loadAll n l s).2.Formed ↔ s.Formed := by
  induction l generalizing s with
  | nil => rfl
  | cons y r ih => exact ih.trans Ctx.formed_loadBytes

@[simp] theorem Ctx.formed_acquired {x : Ctx} : (x.acquired s).Formed ↔ s.Formed := by
  unfold Ctx.acquired
  split <;> simp

@[simp] theorem Ctx.formed_stalled {x : Ctx} : (x.stalled s).Formed ↔ s.Formed := by simp [Ctx.stalled]

@[simp] theorem Ctx.formed_loadAt {x : Ctx} {size l vregs put} (h : x.s.Formed) : (x.loadAt size l vregs put).Formed := by
  unfold Ctx.loadAt
  split
  next => simp
  next t ht => exact (Ctx.formed_access h).of_wait ht
  next =>
    split
    · simp [h]
    · split <;> simp [h]

@[simp] theorem Ctx.formed_load {x : Ctx} {d n sp a size k conv} (h : x.s.Formed) : (x.load d n sp a size k conv).Formed := by
  simp [Ctx.load, h]

@[simp] theorem Ctx.formed_store {x : Ctx} {sp d size k data} (h : x.s.Formed) : (x.store sp d size k data).Formed := by
  unfold Ctx.store
  split
  next => simp
  next t ht => exact (Ctx.formed_access h).of_wait ht
  next => simp [h]

@[simp] theorem State.Formed.performAtom {u n stk core a'} (h : s.Formed) : (s.performAtom u n stk core a').Formed := by
  unfold State.performAtom
  split
  · split
    · simp only
      split <;> simp [h]
    · split
      · simp only
        split <;> simp [h]
      · simp only
        split <;> simp [h]
  · exact h

@[simp] theorem Ctx.formed_atomicOp {x : Ctx} {op dest a b} (h : x.s.Formed) : (x.atomicOp op dest a b).Formed := by
  unfold Ctx.atomicOp
  split
  next => simp
  next t ht => exact (Ctx.formed_access h).of_wait ht
  next => simp [h]

@[simp] theorem State.Formed.performStore {b n ctx o} (h : s.Formed) : (s.performStore b n ctx o).Formed := by
  unfold State.performStore
  split <;> simp [h]

@[simp] theorem State.Formed.drainStore {u n k} (h : s.Formed) : (s.drainStore u n k).Formed := by
  unfold State.drainStore
  split
  · exact h
  · split
    · exact h
    · split <;> simp [h]

@[simp] theorem State.Formed.landStore (h : s.Formed) {k} : (s.landStore k).Formed := by
  unfold State.landStore
  split
  · exact h
  · split
    · refine State.Formed.foldl (by simp [h]) (fun t b ht => ?_) _
      rw [State.formed_prune]
      exact (State.Formed.foldl ht (fun _ _ hs => by simp [hs]) _).tryEnded
    · exact h

@[simp] theorem State.formed_glimpse {c p fresh} : (s.glimpse c p fresh).Formed ↔ s.Formed := by
  unfold State.glimpse
  split
  · rfl
  · split
    · rfl
    · split
      · simp only
        split <;> simp
      · simp only
        split <;> simp

@[simp] theorem State.formed_arrivePend {u n k kind} : (s.arrivePend u n k kind).Formed ↔ s.Formed := by
  unfold State.arrivePend
  split
  · rfl
  · split
    · rfl
    · split
      · rfl
      · split <;> simp

@[simp] theorem Ctx.formed_fenceOp {x : Ctx} (h : x.s.Formed) : x.fenceOp.Formed := by
  unfold Ctx.fenceOp
  split
  · exact h
  · split <;> simp [h]

@[simp] theorem State.formed_bringLines {stk core l} : (State.bringLines stk core l s).Formed ↔ s.Formed := by
  induction l generalizing s with
  | nil => rfl
  | cons pa r ih =>
    unfold State.bringLines
    simp only [ih]
    split <;> simp

@[simp] theorem State.Formed.performQuantum {u g k} (h : s.Formed) : (s.performQuantum u g k).Formed := by
  unfold State.performQuantum
  split
  · exact h
  · split
    · exact h
    · split <;> simp [h]

@[simp] theorem State.Formed.performOverdue (h : s.Formed) : s.performOverdue.Formed :=
  h.foldl (fun _ _ ht => ht.foldl (fun _ _ hs => hs.releaseQuanta) _) _

@[simp] theorem State.Formed.finishWalk {k w} (h : s.Formed) : (s.finishWalk k w).Formed := by
  unfold State.finishWalk
  split
  · exact h
  · simp only
    split <;> simp [h]

@[simp] theorem State.Formed.completeWalk (h : s.Formed) {stk k} : (s.completeWalk stk k).Formed := by
  unfold State.completeWalk
  split
  · exact h
  · exact State.Formed.foldl (by simp [h]) (fun _ _ ht => ht.finishWalk) _

/-! ## Batches and the copy engine -/

@[simp] theorem formed_wholeSplit {a} : (wholeSplit a).Formed ↔ a.Formed := by
  cases a <;> simp [wholeSplit]

@[simp] theorem Ctx.formed_accessTagWith {x : Ctx} {data kind size allow v} (h : x.s.Formed) :
    (x.accessTagWith data kind size allow v).Formed := by
  unfold Ctx.accessTagWith
  simp only
  split
  · split <;> simp [h]
  · simp

@[simp] theorem Ctx.formed_accessTag {x : Ctx} {kind size allow v} (h : x.s.Formed) : (x.accessTag kind size allow v).Formed := by
  simp [Ctx.accessTag, h]

@[simp] theorem State.formed_settleBatches {u} : (s.settleBatches u).Formed ↔ s.Formed := by
  unfold State.settleBatches
  split <;> simp

@[simp] theorem State.formed_closeCopyBatch {u} : (s.closeCopyBatch u).Formed ↔ s.Formed := by simp [State.closeCopyBatch]

@[simp] theorem State.formed_closeMatrixBatch {u} : (s.closeMatrixBatch u).Formed ↔ s.Formed := by simp [State.closeMatrixBatch]

@[simp] theorem State.Formed.enginePiece {b sp kind a n} (h : s.Formed) : (s.enginePiece b sp kind a n).2.Formed := by
  unfold State.enginePiece
  split
  · simp only
    split <;> simp [h]
  · split
    · exact h
    · split <;> exact h

@[simp] theorem State.Formed.enginePieces {b sp kind l} (h : s.Formed) : (State.enginePieces b sp kind l s).2.2.Formed := by
  induction l generalizing s with
  | nil => exact h
  | cons y r ih =>
    unfold State.enginePieces
    simp only
    split <;> simp [ih, h]

@[simp] theorem State.Formed.engineRange {b v n write} (h : s.Formed) : (s.engineRange b v n write).2.2.Formed := by
  unfold State.engineRange
  simp only
  split
  · exact h
  · split <;> simp [h]

@[simp] theorem State.formed_ownLines {l} : (s.ownLines l).Formed ↔ s.Formed := by simp [State.ownLines]

@[simp] theorem State.Formed.startCopy {u l} (h : s.Formed) : (s.startCopy u l).2.Formed := by
  unfold State.startCopy
  split
  · split
    · exact h
    · simp only
      split
      · simp [h]
      · split
        · simp [h]
        · split <;> simp [h]
  · exact h

@[simp] theorem State.formed_retryCopies {u l} : (s.retryCopies u l).Formed ↔ s.Formed := by simp [State.retryCopies]

@[simp] theorem State.formed_finishSlice {u batch x} : (s.finishSlice u batch x).Formed ↔ s.Formed := by
  unfold State.finishSlice
  split <;> simp

@[simp] theorem State.Formed.gatherEnd (h : s.Formed) {u} : (s.gatherEnd u).Formed := by
  unfold State.gatherEnd
  split
  · exact h
  · next b _ =>
    split
    · simp only [State.formed_retryCopies]
      split
      · simp [h]
      · exact State.Formed.foldl (by simp [h]) (fun _ _ ht => ht.takeTrap) _
    · exact h

@[simp] theorem State.Formed.copyForget {u g} (h : s.Formed) : (s.copyForget u g).Formed := by simp [State.copyForget, h]

@[simp] theorem Ctx.formed_supply {x : Ctx} {y} (h : x.s.Formed) : (x.supply y).Formed := by simp [Ctx.supply, h]

@[simp] theorem State.Formed.engineWrite {p bytes} (h : s.Formed) : (s.engineWrite p bytes).Formed := by
  unfold State.engineWrite
  split <;> simp [h]

@[simp] theorem State.formed_updCopy {u k f} : (s.updCopy u k f).Formed ↔ s.Formed := by simp [State.updCopy]

@[simp] theorem State.formed_copyRead {u k n} : (s.copyRead u k n).Formed ↔ s.Formed := by
  unfold State.copyRead
  split
  · rfl
  · split
    · rfl
    · split <;> simp

@[simp] theorem State.formed_dropCopy {u k} : (s.dropCopy u k).Formed ↔ s.Formed := by simp [State.dropCopy]

@[simp] theorem State.Formed.landSector {p bytes} (h : s.Formed) : (s.landSector p bytes).Formed := by
  unfold State.landSector
  split <;> simp [h]

@[simp] theorem State.formed_forwardRange {u sp off bytes} : (s.forwardRange u sp off bytes).Formed ↔ s.Formed := by
  unfold State.forwardRange
  split
  · rfl
  · split <;> simp

@[simp] theorem State.Formed.copyLand {u k n} (h : s.Formed) : (s.copyLand u k n).Formed := by
  unfold State.copyLand
  split
  · exact h
  · split
    · exact h
    · split
      · exact h
      · split
        · split <;> simp [h]
        · split <;> simp [h]

@[simp] theorem State.formed_endMulticast {u k} : (s.endMulticast u k).Formed ↔ s.Formed := by
  unfold State.endMulticast
  split
  · rfl
  · split <;> simp

@[simp] theorem State.Formed.reachCluster {u k} (h : s.Formed) : (s.reachCluster u k).Formed := by
  unfold State.reachCluster
  split
  · exact h
  · split
    · exact h
    · split
      · exact h
      · split
        · exact h
        · split <;> simp [h]

@[simp] theorem State.Formed.landMulticast {u k n} (h : s.Formed) : (s.landMulticast u k n).Formed := by
  unfold State.landMulticast
  split
  · exact h
  · split
    · exact h
    · simp only
      split
      · split
        · split
          · simp [h]
          · split <;> simp [h]
        · split
          · simp [h]
          · split <;> simp [h]
      · split
        · simp [h]
        · split <;> simp [h]

/-! ## The matrix unit -/

@[simp] theorem State.formed_startMat {u op} : (s.startMat u op).Formed ↔ s.Formed := by
  unfold State.startMat
  split <;> simp

@[simp] theorem Ctx.formed_waitTile {x : Ctx} {a} : (x.waitTile a).Formed ↔ x.s.Formed := by simp [Ctx.waitTile]

@[simp] theorem State.Formed.faultArrivals (h : s.Formed) {u l} : (s.faultArrivals u l).Formed :=
  h.foldl (fun _ _ ht => ht.takeTrap) _

@[simp] theorem State.Formed.joint {u word ps} (h : s.Formed) : (s.joint u word ps).Formed := by
  unfold State.joint
  split
  · split
    · simp [h]
    · split
      · exact h
      · simp only
        split
        · simp [h]
        · split <;> simp [h]
  · exact h

theorem State.Formed.arriveGang (h : s.Formed) {u word p t} (ht : s.arriveGang u word p = .inl t) : t.Formed := by
  unfold State.arriveGang at ht
  split at ht
  · simp_all
  · simp only at ht
    split at ht
    · simp at ht
    · split at ht
      · rw [← Sum.inl.inj ht]; simp [h]
      · split at ht <;> (rw [← Sum.inl.inj ht]; simp [h])

@[simp] theorem State.Formed.gangGone {u g} (h : s.Formed) : (s.gangGone u g).Formed := by
  unfold State.gangGone
  split <;> simp [h]

@[simp] theorem State.Formed.memberLeft {u g} (h : s.Formed) : (s.memberLeft u g).Formed := by
  unfold State.memberLeft
  split <;> simp [h]

@[simp] theorem Ctx.formed_product {x : Ctx} {i z d a b} (h : x.s.Formed) : (x.product i z d a b).Formed := by
  unfold Ctx.product
  simp only [Res.formed_ite, Res.formed_wait, Ctx.formed_waitAs, Ctx.formed_waitTile, h, Res.formed_trap, implies_true, true_and]
  intros
  constructor
  · intros
    split
    · simp
    · split
      · simp
      · split <;> simp [h]
  · intros
    split
    · simp
    · split
      next t ht => exact State.Formed.arriveGang (by simp [h]) ht
      next => simp

@[simp] theorem State.formed_sampleMat {u k} : (s.sampleMat u k).Formed ↔ s.Formed := by
  unfold State.sampleMat
  split
  · rfl
  · split <;> simp

@[simp] theorem State.Formed.writeResult {b m img} (h : s.Formed) : (s.writeResult b m img).Formed := by
  unfold State.writeResult
  split <;> simp [h]

@[simp] theorem State.Formed.poisonFound {u b batch g tag} (h : s.Formed) : (s.poisonFound u b batch g tag).Formed := by
  unfold State.poisonFound
  split <;> simp [h]

@[simp] theorem State.Formed.completeMat (h : s.Formed) {u k} : (s.completeMat u k).Formed := by
  unfold State.completeMat
  split
  · exact h
  · split
    · exact h
    · split
      · exact h
      · simp only [State.formed_granulesFreed, State.formed_settleBatches]
        split
        · simp [h]
        · exact State.Formed.foldl (by simp [h]) (fun _ _ ht => ht.poisonFound) _

@[simp] theorem Ctx.formed_produce {x : Ctx} {i src dst own work} (h : x.s.Formed) : (x.produce i src dst own work).Formed := by
  unfold Ctx.produce
  simp only
  split
  · exact h
  · split
    · exact h
    · split
      · simp
      · split
        · simp
        · split
          · simp
          · split <;> simp [h]

/-! ## The tables of a process -/

@[simp] theorem State.formed_rootEntry {part asid} : (s.rootEntry part asid).2.Formed ↔ s.Formed := by simp [State.rootEntry]

@[simp] theorem State.formed_layoutRecord {core part asid slot} : (s.layoutRecord core part asid slot).2.Formed ↔ s.Formed := by
  unfold State.layoutRecord
  simp only
  split <;> simp

@[simp] theorem State.formed_dropLayouts {slot own} : (s.dropLayouts slot own).Formed ↔ s.Formed := by simp [State.dropLayouts]

@[simp] theorem State.formed_seedOf {b l slot} : (s.seedOf b l slot).2.Formed ↔ s.Formed := by simp [State.seedOf]

@[simp] theorem State.formed_queueEntry {port part asid vqn} : (s.queueEntry port part asid vqn).2.Formed ↔ s.Formed := by
  unfold State.queueEntry
  simp only
  split <;> simp

@[simp] theorem State.formed_dropQueueXlates {p} : (s.dropQueueXlates p).Formed ↔ s.Formed := by simp [State.dropQueueXlates]

/-! ## Matrix instructions -/

@[simp] theorem Ctx.formed_batchWait {x : Ctx} {n} (h : s.Formed) : (x.batchWait s n).Formed := by
  unfold Ctx.batchWait
  split
  · exact h
  · split <;> simp [h]

@[simp] theorem State.formed_gateSub {stk core sub} : (s.gateSub stk core sub).Formed ↔ s.Formed := by
  unfold State.gateSub
  simp only
  split <;> simp

@[simp] theorem State.formed_wakeDone {stk core sub} : (s.wakeDone stk core sub).Formed ↔ s.Formed := by
  unfold State.wakeDone
  split
  · split <;> simp
  · rfl

/-! ## Copies and barriers -/

@[simp] theorem Ctx.formed_releaseFirst {x : Ctx} {rel k} (h : x.s.Formed) (hk : ∀ t, t.Formed → (k t).Formed) :
    (x.releaseFirst rel k).Formed := by
  simp [Ctx.releaseFirst, h, hk]

@[simp] theorem Ctx.formed_startMulticast {x : Ctx} {dst src len mask rank bar} (hx : x.s.Formed) (h : s.Formed) :
    (x.startMulticast s dst src len mask rank bar).Formed := by
  unfold Ctx.startMulticast
  simp only
  split
  · exact hx
  · split <;> simp [h]

@[simp] theorem Res.formed_withScalar {c d v r} : (Res.withScalar c d v r).Formed ↔ r.Formed := by
  cases r <;> simp [Res.withScalar]

@[simp] theorem Ctx.formed_barAt {x : Ctx} {clu v} (h : x.s.Formed) : (x.barAt clu v).Formed := by
  unfold Ctx.barAt
  split
  · split <;> simp
  · split
    next => simp
    next t ht => exact (Ctx.formed_accessTag h).of_wait ht
    next => simp
    next => exact h

@[simp] theorem Ctx.formed_onBarrier {x : Ctx} {i legal v k} (h : x.s.Formed) (hk : ∀ n t, t.Formed → (k n t).Formed) :
    (x.onBarrier i legal v k).Formed := by
  unfold Ctx.onBarrier
  split
  · simp
  · split
    next => simp
    next t ht => exact (Ctx.formed_barAt h).of_wait ht
    next => simp [h, hk]

@[simp] theorem Ctx.formed_atBlockBarrier {x : Ctx} {f} (h : s.Formed) : (x.atBlockBarrier s f).Formed := by simp [Ctx.atBlockBarrier, h]

@[simp] theorem State.Formed.performRemote {k} (h : s.Formed) : (s.performRemote k).Formed := by
  unfold State.performRemote
  split
  · exact h
  · split
    · exact h
    · simp only
      split <;> simp [h]

@[simp] theorem State.Formed.spawn {u k} (h : s.Formed) : (s.spawn u k).Formed := by
  unfold State.spawn
  split
  · exact h
  · split <;> simp [h]

/-! ## Branches, traps and group controls -/

@[simp] theorem Ctx.formed_goto {x : Ctx} {pc} (h : x.s.Formed) : (x.goto pc).Formed := by simp [Ctx.goto, h]

@[simp] theorem Ctx.formed_divideTo {x : Ctx} {parts} (h : x.s.Formed) : (x.divideTo parts).Formed := by
  unfold Ctx.divideTo
  split <;> simp [h]

@[simp] theorem Ctx.formed_indirect {x : Ctx} {a} (h : x.s.Formed) : (x.indirect a).Formed := by
  unfold Ctx.indirect
  simp only
  split <;> simp [h]

@[simp] theorem State.Formed.growGroups {u grower nln entry now n rank} (h : s.Formed) :
    (State.growGroups u grower nln entry now n rank s).Formed := by
  induction n generalizing s rank with
  | zero => exact h
  | succ n ih =>
    unfold State.growGroups
    split
    · exact h
    · split
      · exact h
      · exact ih (by simp [h])

@[simp] theorem Ctx.formed_writeSysReg {x : Ctx} {k v} (h : x.s.Formed) : (x.writeSysReg k v).Formed := by
  unfold Ctx.writeSysReg
  split <;> simp [h]

/-! ## Locks, counters and energy -/

@[simp] theorem Ctx.formed_lockAt {x : Ctx} {v k} (h : x.s.Formed) (hk : ∀ n, (k n).Formed) : (x.lockAt v k).Formed := by
  unfold Ctx.lockAt
  split
  next => simp
  next t ht => exact (Ctx.formed_accessTagWith h).of_wait ht
  next => exact hk _
  next => exact h

/-! ## The home of queues -/

@[simp] theorem State.formed_writeDesc {w pq soft x} : (s.writeDesc w pq soft x).2.Formed ↔ s.Formed := by
  unfold State.writeDesc
  simp only
  split <;> simp

@[simp] theorem State.formed_sendMsg {m} : (s.sendMsg m).Formed ↔ s.Formed := by simp [State.sendMsg]

@[simp] theorem State.formed_answer {m a} : (s.answer m a).Formed ↔ s.Formed := by simp [State.answer]

@[simp] theorem State.Formed.atHome (h : s.Formed) {k f} (hf : ∀ m t, t.Formed → FormedSome (f m t)) : (s.atHome k f).Formed := by
  unfold State.atHome
  split
  · exact h
  · next m _ =>
    split
    · exact h
    · have hd : { s with net := dropNth s.net k }.Formed := by simp [h]
      simp only
      split
      · simp [h]
      · split
        · exact hd
        · exact (hf m _ hd).getD h

@[simp] theorem State.Formed.putLog {w element} (h : s.Formed) : FormedSome (s.putLog w element) := by simp [State.putLog, h]

@[simp] theorem State.Formed.log (h : s.Formed) {w m op reason seq data} : FormedSome (s.log w m op reason seq data) := by
  unfold State.log
  simp only
  split
  · exact h.putLog
  · exact h.putLog.bind fun _ ht => ht.putLog

@[simp] theorem State.Formed.targetNotice {m data} (h : s.Formed) : (s.targetNotice m data).Formed := by
  unfold State.targetNotice
  split
  · split <;> simp [h]
  · split <;> simp [h]
  · simp [h]
  · exact h

@[simp] theorem State.formed_addWaiter {w pq x} : (s.addWaiter w pq x).Formed ↔ s.Formed := by
  unfold State.addWaiter
  split <;> simp

@[simp] theorem State.formed_sleepAt {m ret take} : (s.sleepAt m ret take).Formed ↔ s.Formed := by simp [State.sleepAt]

@[simp] theorem State.formed_sleepPut {m} : (s.sleepPut m).Formed ↔ s.Formed := by simp [State.sleepPut]

@[simp] theorem State.Formed.serveReserve {m} (h : s.Formed) : FormedSome (State.serveReserve m s) := by
  unfold State.serveReserve
  split <;> simp [h]

@[simp] theorem State.Formed.serveFill {m} (h : s.Formed) : FormedSome (State.serveFill m s) := by
  unfold State.serveFill
  simp only
  split
  · split
    · exact h.log.map fun _ ht => by simp [ht]
    · split
      · exact h.log.map fun _ ht => by simp [ht]
      · simp [h]
  · split
    · exact h.log.map fun _ ht => by simp [ht]
    · split
      next t ht => simp [h.putElement t ht]
      next => simp [h]
  · simp

@[simp] theorem State.Formed.serveTake {m} (h : s.Formed) : FormedSome (State.serveTake m s) := by
  unfold State.serveTake
  split
  · split
    · simp [h]
    · split
      · simp [h]
      · split <;> simp [h]
  · simp

@[simp] theorem State.Formed.servePeek {m} (h : s.Formed) : FormedSome (State.servePeek m s) := by
  unfold State.servePeek
  split <;> simp [h]

@[simp] theorem State.Formed.serveBind {m} (h : s.Formed) : FormedSome (State.serveBind m s) := by
  unfold State.serveBind
  split <;> simp [h]

@[simp] theorem State.formed_voidCells {w pq first n prod unbind} : (s.voidCells w pq first n prod unbind).Formed ↔ s.Formed := by
  simp [State.voidCells]

@[simp] theorem State.Formed.serveClose {m} (h : s.Formed) : FormedSome (State.serveClose m s) := by
  unfold State.serveClose
  split <;> simp [h]

@[simp] theorem State.Formed.serveDesc {m} (h : s.Formed) : FormedSome (State.serveDesc m s) := by
  unfold State.serveDesc
  split <;> simp [h]

@[simp] theorem State.Formed.closeNotice (h : s.Formed) {who blk gid n hd first k unbind} :
    (s.closeNotice who blk gid n hd first k unbind).Formed := by
  unfold State.closeNotice
  simp only
  split
  · simp [h]
  · exact h.log.getD (by simp [h])

@[simp] theorem State.Formed.closeHandle {u gid h'} (h : s.Formed) : (s.closeHandle u gid h').Formed := by
  unfold State.closeHandle
  split
  · exact h
  · split <;> simp [h]

/-! ## Subscriptions, layouts and `qxset` -/

@[simp] theorem State.formed_dropLeaves {sel} : (s.dropLeaves sel).Formed ↔ s.Formed := by simp [State.dropLeaves]

@[simp] theorem Ctx.formed_afterFrames {x : Ctx} {fs} (h : s.Formed) : (x.afterFrames s fs).Formed := by simp [Ctx.afterFrames, h]

@[simp] theorem Ctx.formed_releaseSystem {x : Ctx} {k} (h : x.s.Formed) (hk : ∀ t, t.Formed → (k t).Formed) :
    (x.releaseSystem k).Formed :=
  Ctx.formed_releaseFirst h hk

@[simp] theorem Ctx.formed_writeSlot {x : Ctx} {page slot bytes} (h : s.Formed) : (x.writeSlot s page slot bytes).Formed := by
  simp [Ctx.writeSlot, h]

@[simp] theorem State.Formed.setSub {u e y} (h : s.Formed) : (s.setSub u e y).Formed := by
  unfold State.setSub
  simp only
  split
  · split <;> simp [h]
  · exact h

@[simp] theorem State.Formed.unsubscribed {u e} (h : s.Formed) : (s.unsubscribed u e).Formed := by
  unfold State.unsubscribed
  split <;> simp [h]

@[simp] theorem State.formed_cutBatch {k m} : (s.cutBatch k m).Formed ↔ s.Formed := by
  unfold State.cutBatch
  split <;> simp

@[simp] theorem State.Formed.landUpdates {u l} (h : s.Formed) : (State.landUpdates u l s).Formed := by
  induction l generalizing s with
  | nil => exact h
  | cons y r ih => exact ih h.bufStore

@[simp] theorem State.Formed.landBatch (h : s.Formed) {k} : (s.landBatch k).Formed := by
  unfold State.landBatch
  split
  · exact h
  · next y _ =>
    split
    · exact h
    · simp only
      split
      · simp [h]
      · next b _ =>
        have hl : (State.landUpdates y.blk y.upd { s with subnet := dropNth s.subnet k }).Formed := by simp [h]
        split
        · simp [h]
        · refine State.Formed.unsubscribed ?_
          split
          · refine State.Formed.notice ?_
            split
            · exact State.Formed.setSub (by simp [hl])
            · simp [hl]
          · simp [hl]

@[simp] theorem Ctx.formed_writeDescriptor {x : Ctx} {d v addr} (h : x.s.Formed) : (x.writeDescriptor d v addr).Formed := by
  unfold Ctx.writeDescriptor
  split
  next => simp
  next t ht => exact (Ctx.formed_accessTag h).of_wait ht
  next => exact h
  next => split <;> simp [h]

@[simp] theorem Ctx.formed_qxset {x : Ctx} {i d a b} (h : x.s.Formed) : (x.qxset i d a b).Formed := by
  unfold Ctx.qxset
  simp only
  split
  · simp
  · split <;> simp [h]

/-! ## Queue instructions -/

@[simp] theorem Ctx.formed_handleFor {x : Ctx} {v need kinds elem k} (hk : ∀ n t, (k n t).Formed) :
    (x.handleFor v need kinds elem k).Formed := by
  unfold Ctx.handleFor
  split
  · simp
  · split <;> simp [hk]

@[simp] theorem State.formed_updHandle {u h' f} : (s.updHandle u h' f).Formed ↔ s.Formed := by simp [State.updHandle]

@[simp] theorem Ctx.formed_ask {x : Ctx} {h' hd body} (h : s.Formed) : (x.ask s h' hd body).Formed := by simp [Ctx.ask, h]

@[simp] theorem Ctx.formed_reserve {x : Ctx} {d h' hd n op data} (h : s.Formed) : (x.reserve s d h' hd n op data).Formed := by
  simp [Ctx.reserve, h]

@[simp] theorem State.formed_sendFill {u gid h' op ref data} : (s.sendFill u gid h' op ref data).Formed ↔ s.Formed := by
  unfold State.sendFill
  split <;> simp

@[simp] theorem Ctx.formed_putElement {x : Ctx} {n hd op data} (h : x.s.Formed) (hk : ∀ t, t.Formed → (data t).2.Formed) :
    (x.putElement n hd op data).Formed :=
  Ctx.formed_releaseFirst h fun t ht => by simp [hk t ht]

@[simp] theorem Ctx.formed_onRegs {x : Ctx} {i read r n k} (h : x.s.Formed) (hk : k.Formed) : (x.onRegs i read r n k).Formed := by
  unfold Ctx.onRegs
  simp only
  split
  · simp
  · split
    · exact h
    · split <;> simp [hk]

@[simp] theorem Ctx.formed_elemPlaces {x : Ctx} {kind n v} (h : x.s.Formed) : (x.elemPlaces kind n v).Formed := by
  unfold Ctx.elemPlaces
  simp only
  split
  · split
    · simp
    · split
      · simp
      · split <;> simp [h]
  · simp

@[simp] theorem Ctx.formed_translateQueue {x : Ctx} {vqn} : (x.translateQueue vqn).2.Formed ↔ x.s.Formed := by
  unfold Ctx.translateQueue
  split
  · split <;> rfl
  · simp

@[simp] theorem Ctx.formed_binding {x : Ctx} {h' hd v0 v1} (h : s.Formed) : (x.binding s h' hd v0 v1).2.Formed := by
  unfold Ctx.binding
  simp only
  split
  · exact h
  · split
    · split
      · exact h
      · split <;> exact h
    · split
      · exact h
      · exact h
      · split <;> simp [h]
      · simp [h]

@[simp] theorem Ctx.formed_openQueue {x : Ctx} {d b n hd e} (hx : x.s.Formed) (h : s.Formed) : (x.openQueue s d b n hd e).Formed := by
  unfold Ctx.openQueue
  simp only [Res.formed_ite]
  refine ⟨by simp [h], fun _ => ⟨by simp [h], fun _ => ⟨by simp [h], fun _ => ?_⟩⟩⟩
  split
  · simp
  · split
    · simp
    · split <;> simp [hx, h]

@[simp] theorem Block.formed_readPlaces {b early l} : (Block.readPlaces b early l s).2.Formed ↔ s.Formed := by
  induction l generalizing s with
  | nil => rfl
  | cons y r ih => exact ih.trans State.formed_look

@[simp] theorem Ctx.formed_take {x : Ctx} {h' hd d kind regs sw p6} (h : x.s.Formed) : (x.take h' hd d kind regs sw p6).Formed := by
  simp [Ctx.take, h]

@[simp] theorem State.formed_fillRequests {u gid k ref n data} : (State.fillRequests u gid k ref n data s).2.Formed ↔ s.Formed := by
  induction n generalizing s data with
  | zero => rfl
  | succ n ih =>
    unfold State.fillRequests
    split <;> simp [ih]

/-! ## Queue events -/

@[simp] theorem State.formed_complete {r f} : (s.complete r f).Formed ↔ s.Formed := by
  unfold State.complete
  split <;> simp

@[simp] theorem State.formed_takenAnswer {kind seq data r} : (s.takenAnswer kind seq data r).Formed ↔ s.Formed := by
  unfold State.takenAnswer
  split <;> simp

@[simp] theorem State.formed_reserveMore {r ref data put} : (s.reserveMore r ref data put).Formed ↔ s.Formed := by
  simp [State.reserveMore]

@[simp] theorem State.formed_again {r} : (s.again r).Formed ↔ s.Formed := by
  unfold State.again
  split <;> simp

@[simp] theorem State.formed_grantPut {g esz r} : (s.grantPut g esz r).Formed ↔ s.Formed := by
  unfold State.grantPut
  split <;> simp

@[simp] theorem State.Formed.grantAnswer {first g esz why r} (h : s.Formed) : (s.grantAnswer first g esz why r).Formed := by
  simp [State.grantAnswer, h]

@[simp] theorem State.formed_sleepAnswer {r} : (s.sleepAnswer r).Formed ↔ s.Formed := by
  unfold State.sleepAnswer
  split <;> simp

@[simp] theorem State.formed_boundAnswer {ok r} : (s.boundAnswer ok r).Formed ↔ s.Formed := by
  unfold State.boundAnswer
  split <;> simp

@[simp] theorem State.formed_lostAnswer {r} : (s.lostAnswer r).Formed ↔ s.Formed := by
  unfold State.lostAnswer
  split <;> simp

@[simp] theorem State.formed_againAnswer {r} : (s.againAnswer r).Formed ↔ s.Formed := by simp [State.againAnswer]

@[simp] theorem State.Formed.arriveAnswer {a'} (h : s.Formed) : (s.arriveAnswer a').Formed := by
  unfold State.arriveAnswer
  split <;> simp [h]

@[simp] theorem State.Formed.remoteFails {m a} (h : s.Formed) : (s.remoteFails m a).Formed := by
  unfold State.remoteFails
  split
  · exact h
  · split <;> simp [h]

theorem State.Formed.received (h : s.Formed) {k sort f} (hf : ∀ a t, t.Formed → (f a t).Formed) : (s.received k sort f).Formed := by
  unfold State.received
  split
  · exact h
  · split
    · exact h
    · simp only
      split
      · exact hf _ _ (by simp [h])
      · split
        · exact hf _ _ (by simp [h])
        · simp [h]

@[simp] theorem State.formed_woken {a'} : (s.woken a').Formed ↔ s.Formed := by
  unfold State.woken
  split
  · split <;> simp
  · rfl

@[simp] theorem State.Formed.acknowledged {req u gid} (h : s.Formed) : (s.acknowledged req u gid).Formed := by
  unfold State.acknowledged
  split <;> simp [h]

@[simp] theorem State.formed_remoteWake {w c} : (s.remoteWake w c).Formed ↔ s.Formed := by
  unfold State.remoteWake
  split
  · split <;> simp
  · rfl

@[simp] theorem State.Formed.depositWord {w pq j} (h : s.Formed) : (s.depositWord w pq j).Formed := by
  unfold State.depositWord
  simp only
  split <;> simp [h]

theorem State.Formed.svcExec (h : s.Formed) {stk dtag req} : ∀ y, s.svcExec stk dtag req = some y → y.2.Formed := by
  unfold State.svcExec
  simp only
  split
  · split
    · simp
    · simp [h]
    · simp [h]
    · split
      · simp [h]
      · split
        · simp [h]
        · split <;> simp [h]
  · simp [h]

@[simp] theorem State.Formed.serveRequest (h : s.Formed) {ops} : (s.serveRequest ops).Formed := by
  unfold State.serveRequest
  simp only
  split
  · split
    · exact h
    · split
      next => exact h
      next t ht => simpa using h.svcExec _ ht
  · exact h

/-! ## Links -/

@[simp] theorem State.formed_updModule {w b m f} : (s.updModule w b m f).Formed ↔ s.Formed := by
  unfold State.updModule
  split <;> simp

@[simp] theorem State.formed_board {w b m load data} : (s.board w b m load data).Formed ↔ s.Formed := by simp [State.board]

@[simp] theorem State.formed_ride {answer k b m} : (s.ride answer k b m).Formed ↔ s.Formed := by
  unfold State.ride
  split
  · split
    · rfl
    · split
      · split <;> simp
      · rfl
  · split
    · rfl
    · split
      · split <;> simp
      · rfl

@[simp] theorem State.formed_alight {picked w b m dest} : (s.alight picked w b m dest).Formed ↔ s.Formed := by simp [State.alight]

@[simp] theorem State.formed_landLoads {ends w b m} : (s.landLoads ends w b m).Formed ↔ s.Formed := by simp [State.landLoads]

/-! ## Link events -/

@[simp] theorem State.formed_startTraining {w b m driver} : (s.startTraining w b m driver).Formed ↔ s.Formed := by
  simp [State.startTraining]

@[simp] theorem State.formed_crcFailure {w b m} : (s.crcFailure w b m).Formed ↔ s.Formed := by
  unfold State.crcFailure
  simp only
  split <;> simp

@[simp] theorem State.formed_rescued {w b l} : (State.rescued w b l s).2.Formed ↔ s.Formed := by
  induction l generalizing s with
  | nil => rfl
  | cons y r ih =>
    unfold State.rescued
    simp only
    split <;> simp [ih]

@[simp] theorem State.formed_deliverFlit {w b m f} : (s.deliverFlit w b m f).Formed ↔ s.Formed := by
  unfold State.deliverFlit
  simp only
  split
  · simp
  · split <;> simp

@[simp] theorem State.formed_takeFlit {w b m f} : (s.takeFlit w b m f).Formed ↔ s.Formed := by
  unfold State.takeFlit
  split
  · simp
  · simp only
    split <;> simp

@[simp] theorem State.Formed.linkRecord {w b m reason} (h : s.Formed) : (s.linkRecord w b m reason).Formed := by simp [State.linkRecord, h]

@[simp] theorem State.formed_reboard {w b m k} : (s.reboard w b m k).Formed ↔ s.Formed := by simp [State.reboard]

@[simp] theorem State.formed_rescueEnd {w b m} : (s.rescueEnd w b m).Formed ↔ s.Formed := by
  unfold State.rescueEnd
  split <;> simp

@[simp] theorem State.Formed.moduleGone {w b m} (h : s.Formed) : (s.moduleGone w b m).Formed := by
  unfold State.moduleGone
  split <;> simp [h]

@[simp] theorem State.formed_refuse {w} : (s.refuse w).Formed ↔ s.Formed := by simp [State.refuse]

@[simp] theorem State.formed_offer {w b m cls slots} : (s.offer w b m cls slots).Formed ↔ s.Formed := by
  unfold State.offer
  split <;> simp

@[simp] theorem State.formed_transmit {w b m cls} : (s.transmit w b m cls).Formed ↔ s.Formed := by
  unfold State.transmit
  split <;> simp

@[simp] theorem State.Formed.cutOff (h : s.Formed) {m} : FormedSome (s.cutOff m) :=
  h.log.map fun t ht => by
    split
    · simp [ht]
    · split <;> simp [ht]

@[simp] theorem State.Formed.cutAll {l} (h : s.Formed) : (State.cutAll l s).Formed := by
  induction l generalizing s with
  | nil => exact h
  | cons m r ih =>
    refine ih ?_
    split
    · exact h
    · exact h.cutOff.getD h

@[simp] theorem State.Formed.retryHeld (h : s.Formed) {stk} : (s.retryHeld stk).Formed :=
  h.foldl (fun t b ht => by
    rw [State.formed_prune]
    exact (ht.foldl (fun _ _ hs => hs.tryHeld) _).tryEnded) _

/-! ## Launches -/

@[simp] theorem State.Formed.readVa {l kind fuel va n} (h : s.Formed) : (State.readVa l kind fuel va n s).2.Formed := by
  induction fuel generalizing s va n with
  | zero => exact h
  | succ fuel ih =>
    unfold State.readVa
    simp only
    split
    · exact h
    · split
      · simp [h]
      · split <;> simp [h, ih]

@[simp] theorem State.Formed.readSpan {l kind va n} (h : s.Formed) : (s.readSpan l kind va n).2.Formed := by simp [State.readSpan, h]

@[simp] theorem State.formed_recordLayout {l} : (s.recordLayout l).2.Formed ↔ s.Formed := by
  unfold State.recordLayout
  split
  · simp only
    split <;> simp
  · rfl

@[simp] theorem State.formed_recordQueue {l} : (s.recordQueue l).2.Formed ↔ s.Formed := by
  unfold State.recordQueue
  simp only
  split <;> simp

@[simp] theorem State.Formed.checkGrid (h : s.Formed) {l} : (s.checkGrid l).2.Formed := by
  unfold State.checkGrid
  have hs : (((s.readSpan l kindR (l.fld 248 192) l.parBytes).2.readSpan l kindR (l.fld 312 256) (32 * l.fld 511 496)).2.readSpan
      l kindX l.entry 4).2.Formed := ((h.readSpan).readSpan).readSpan
  split
  · exact h
  · split
    · exact h
    · split
      · exact h
      · simp only
        split
        · split
          · exact hs
          · split
            · exact hs
            · split
              · simp [hs]
              · split
                · simp [hs]
                · split
                  · split <;> simp [hs]
                  · simp [hs]
        · exact hs

@[simp] theorem State.formed_cpPut {pkg win pq dtag kind vqn data} : (s.cpPut pkg win pq dtag kind vqn data).Formed ↔ s.Formed := by
  simp [State.cpPut]

@[simp] theorem State.formed_putCompletion {l status reason} : (s.putCompletion l status reason).Formed ↔ s.Formed := by
  unfold State.putCompletion
  split <;> simp

@[simp] theorem State.Formed.recordError {l reason} (h : s.Formed) : (s.recordError l reason).Formed := by
  unfold State.recordError
  split
  · simp only
    split <;> simp [h]
  · simp [h]

@[simp] theorem State.formed_distribute {u n lin} : (State.distribute u n lin s).Formed ↔ s.Formed := by
  induction n generalizing s lin with
  | zero => rfl
  | succ n ih =>
    unfold State.distribute
    split
    · rfl
    · simp [ih]

@[simp] theorem State.formed_startGrid {l pool} : (s.startGrid l pool).Formed ↔ s.Formed := by simp [State.startGrid]

/-- The check stands under a name of its own, so that no step of the proof evaluates a check on a record. -/
@[simp] theorem State.Formed.checkTemplates {l nodes} (h : s.Formed) : (State.checkTemplates l nodes s).2.Formed := by
  obtain ⟨check, hc⟩ : ∃ f, f = State.checkGrid := ⟨_, rfl⟩
  have hg : ∀ t x, t.Formed → (check t x).2.Formed := by simp +contextual [hc]
  delta State.checkTemplates State.checkTemplates._f
  rw [← hc]
  induction nodes generalizing s with
  | nil => exact h
  | cons e r ih =>
    dsimp only
    split
    · exact hg _ _ h
    · exact ih (hg _ _ h)

@[simp] theorem State.Formed.copyGraph (h : s.Formed) {l seq} : (s.copyGraph l seq).2.Formed := by
  unfold State.copyGraph
  simp only
  split
  · exact h.readSpan
  · split
    · exact h.readSpan
    · split
      · exact h.readSpan
      · split
        · exact h.readSpan.readSpan
        · split
          · exact h.readSpan.readSpan
          · split
            · exact h.readSpan.readSpan.checkTemplates
            · split <;> exact h.readSpan.readSpan.checkTemplates

@[simp] theorem State.Formed.checkGraph {l seq} (h : s.Formed) : (s.checkGraph l seq).2.Formed := by
  unfold State.checkGraph
  split
  · exact h
  · split
    · exact h
    · simp only
      split
      · simp [h]
      · split
        · split
          · simp [h]
          · split <;> simp [h]
        · split
          · simp [h]
          · split <;> simp [h]

@[simp] theorem State.formed_openNodes {l pqs} : (State.openNodes l pqs s).Formed ↔ s.Formed := by
  induction pqs generalizing s with
  | nil => rfl
  | cons y r ih => exact ih.trans State.formed_changeDesc

@[simp] theorem State.formed_startNode {iu node records} : (s.startNode iu node records).Formed ↔ s.Formed := by
  unfold State.startNode
  split
  · rfl
  · split <;> simp

@[simp] theorem State.formed_startInst {l a'} : (s.startInst l a').Formed ↔ s.Formed := by
  unfold State.startInst
  split <;> simp

@[simp] theorem State.Formed.admitOne (h : s.Formed) : FormedSome s.admitOne := by
  unfold State.admitOne
  split
  · simp
  · split
    · split
      · simp only
        split <;> simp [h]
      · simp only
        split <;> simp [h]
    · simp

@[simp] theorem State.Formed.admitAll {n} (h : s.Formed) : (State.admitAll n s).Formed := by
  induction n generalizing s with
  | zero => exact h
  | succ n ih =>
    unfold State.admitAll
    split
    next => exact h
    next t ht => exact ih (h.admitOne t ht)

@[simp] theorem State.Formed.admission (h : s.Formed) : s.admission.Formed := by simp [State.admission, h]

@[simp] theorem State.Formed.settle {l used} (h : s.Formed) : (s.settle l used).Formed := by simp [State.settle, h]

@[simp] theorem State.Formed.finishInst {iu} (h : s.Formed) : (s.finishInst iu).Formed := by
  unfold State.finishInst
  split <;> simp [h]

@[simp] theorem State.formed_emitSuccessors {l i node} : (s.emitSuccessors l i node).Formed ↔ s.Formed := by simp [State.emitSuccessors]

@[simp] theorem State.Formed.finishGrid {u} (h : s.Formed) : (s.finishGrid u).Formed := by
  unfold State.finishGrid
  split
  · exact h
  · split
    · exact h
    · split
      · simp [h]
      · simp only
        split <;> simp [h]

@[simp] theorem State.Formed.preemptDone (h : s.Formed) {u saved} : (s.preemptDone u saved).Formed :=
  State.Formed.foldl (by simp [h]) (fun _ _ ht => ht.record) _

@[simp] theorem State.Formed.freeBlock (h : s.Formed) {u} : (s.freeBlock u).Formed := by
  unfold State.freeBlock
  split
  · exact h
  · have hc : ∀ (t : State) (l : List Nat), t.Formed → (l.foldl (fun s k => s.closeHandle u 0 k) t).Formed :=
      fun _ _ ht => ht.foldl (fun _ _ hs => hs.closeHandle) _
    exact (State.Formed.preemptDone (by simp [hc, h])).finishGrid

/-! ## Launch events -/

theorem State.Formed.takeRecord (h : s.Formed) {graph f} (hf : ∀ l t, t.Formed → (f l t).Formed) : (s.takeRecord graph f).Formed := by
  unfold State.takeRecord
  simp only
  split
  · exact h
  · split
    · exact h
    · exact hf _ _ (by simp [h])

@[simp] theorem State.Formed.enqueueAdmit {l aside} (h : s.Formed) : (s.enqueueAdmit l aside).Formed := by simp [State.enqueueAdmit, h]

@[simp] theorem State.Formed.startBlock (h : s.Formed) {l lin stk core rank} : (s.startBlock l lin stk core rank).Formed :=
  State.Formed.foldl (by simp [h]) (fun _ _ ht => ht.addGroup) _

@[simp] theorem State.formed_moveWork {ws stk clus} : (s.moveWork ws stk clus).Formed ↔ s.Formed := by simp [State.moveWork]

@[simp] theorem State.formed_takeMany {w pq n} : (State.takeMany w pq n s).2.Formed ↔ s.Formed := by
  induction n generalizing s with
  | zero => rfl
  | succ n ih =>
    unfold State.takeMany
    split
    · rfl
    · exact ih.trans State.formed_takeElement

@[simp] theorem State.Formed.watchRecord {b g code} (h : s.Formed) : (s.watchRecord b g code).Formed := by simp [State.watchRecord, h]

@[simp] theorem State.Formed.watchBlock {b} (h : s.Formed) : (s.watchBlock b).Formed := by
  unfold State.watchBlock
  split
  · exact h
  · split <;> simp [h]

@[simp] theorem State.Formed.watchHeld {a} (h : s.Formed) : (s.watchHeld a).Formed := by simp [State.watchHeld, h]

/-! ## Pre-emption and suspension -/

@[simp] theorem State.formed_freeArea {pa} : (s.freeArea pa).Formed ↔ s.Formed := by simp [State.freeArea]

theorem State.Formed.takeResume (h : s.Formed) {pick f} (hf : ∀ p r t, t.Formed → (f p r t).Formed) : (s.takeResume pick f).Formed := by
  unfold State.takeResume
  simp only
  split
  · split
    · exact hf _ _ _ (by simp [h])
    · exact h
  · exact h

@[simp] theorem State.Formed.staleResume {ctx} (h : s.Formed) : (s.staleResume ctx).Formed := by simp [State.staleResume, h]

@[simp] theorem State.Formed.changeSuspended {b g f} (h : s.Formed) : (s.changeSuspended b g f).Formed := by
  unfold State.changeSuspended
  split
  · simp [h]
  · split <;> simp [h]

theorem State.Formed.resume (h : s.Formed) {action f} (hf : ∀ b g t, t.Formed → (f b g t).Formed) : (s.resume action f).Formed :=
  h.takeResume fun _ _ t ht => by
    split
    · exact hf _ _ _ ht
    · exact ht.staleResume

@[simp] theorem State.formed_forgetWaits {u} : (s.forgetWaits u).Formed ↔ s.Formed := by simp [State.forgetWaits]

@[simp] theorem State.Formed.endBlock (h : s.Formed) {u} : (s.endBlock u).Formed := by
  unfold State.endBlock
  split
  · exact h
  · next b _ =>
    split
    · refine State.Formed.freeBlock ?_
      split <;> simp [h]
    · have he : (b.groups.foldl (fun s g => s.endGroup u g.gid) (s.forgetWaits u)).Formed :=
        State.Formed.foldl (by simp [h]) (fun _ _ ht => ht.endGroup) _
      simp [he]

@[simp] theorem State.Formed.endGrid (h : s.Formed) {u} : (s.endGrid u).Formed :=
  (State.Formed.foldl (State.formed_updLaunch.mpr h) (fun _ _ ht => ht.endBlock) _).finishGrid

@[simp] theorem State.formed_ask {hold u} : (s.ask hold u).Formed ↔ s.Formed := by simp [State.ask]

@[simp] theorem State.formed_request {hold u} : (s.request hold u).Formed ↔ s.Formed := by
  unfold State.request
  split
  · rfl
  · simp only
    split <;> simp

theorem State.Formed.takePreempt (h : s.Formed) {acts f} (hf : ∀ l r t, t.Formed → (f l r t).Formed) : (s.takePreempt acts f).Formed :=
  h.takeResume fun _ _ t ht => by
    split
    · split
      · exact ht.record
      · exact hf _ _ _ ht
    · exact ht.record

@[simp] theorem State.Formed.beginPreempt {l hold us} (h : s.Formed) : (s.beginPreempt l hold us).Formed := by simp [State.beginPreempt, h]

@[simp] theorem State.formed_distributorRequest {stk} : (s.distributorRequest stk).Formed ↔ s.Formed := by
  unfold State.distributorRequest
  simp only
  split
  · rfl
  · split
    · rfl
    · split <;> simp

@[simp] theorem State.Formed.settleBlock (h : s.Formed) {b} : (s.settleBlock b).Formed := by
  have hd : (b.groups.foldl (fun s g => s.drainQuanta b.uid g.gid) (s.flushPublisher b.uid false false)).Formed :=
    State.Formed.foldl (by simp [h]) (fun _ _ ht => ht.drainQuanta) _
  simp [State.settleBlock, hd]

@[simp] theorem State.Formed.saveBlock (h : s.Formed) {u pa} : (s.saveBlock u pa).Formed := by
  unfold State.saveBlock
  split
  · exact h
  · next b _ =>
    simp only
    split
    · have hw : ∀ image, ((s.settleBlock b).writeMem pa image).Formed := fun _ => h.settleBlock.writeMem
      exact State.Formed.preemptDone (by simp [hw, h])
    · exact h

@[simp] theorem State.Formed.rewriteCore (h : s.Formed) {b core} : (s.rewriteCore b core).Formed := by
  refine h.foldl (fun t x ht => ?_) _
  split
  · simp [ht]
  · exact ht

@[simp] theorem State.Formed.restoreBlock {b core rank} (h : s.Formed) : (s.restoreBlock b core rank).Formed := by
  unfold State.restoreBlock
  split <;> simp [h]

/-! ## Windows -/

@[simp] theorem State.formed_windowRead {who pa} : (s.windowRead who pa).Formed ↔ s.Formed := by
  unfold State.windowRead
  split
  · rfl
  · split
    · rfl
    · simp only
      split <;> simp

/-! ## Interrupt controllers -/

@[simp] theorem State.formed_updFile {core file f} : (s.updFile core file f).Formed ↔ s.Formed := by simp [State.updFile]

@[simp] theorem State.formed_claim {core file} : (s.claim core file).Formed ↔ s.Formed := by
  unfold State.claim
  split <;> simp

@[simp] theorem State.Formed.aplicWrite (h : s.Formed) {off v} : (s.aplicWrite off v).Formed := by simp [State.aplicWrite, h]

@[simp] theorem State.formed_aplicSend {k} : (s.aplicSend k).Formed ↔ s.Formed := by
  unfold State.aplicSend
  simp only
  split
  · split <;> simp
  · rfl

/-! ## The IOMMU -/

@[simp] theorem State.formed_updIommu {f} : (s.updIommu f).Formed ↔ s.Formed := by simp [State.updIommu]

@[simp] theorem State.formed_ioInterrupt {k} : (s.ioInterrupt k).Formed ↔ s.Formed := by
  unfold State.ioInterrupt
  split
  · rfl
  · simp only
    split <;> simp

@[simp] theorem State.Formed.ioReport {rec_} (h : s.Formed) : (s.ioReport rec_).Formed := by simp [State.ioReport, h]

theorem State.Formed.ioLeaf (h : s.Formed) {f ade write} : ∀ y, s.ioLeaf f ade write = some y → y.2.Formed := by
  unfold State.ioLeaf
  split
  · simp
  · split
    · simp [h]
    · split <;> simp [h]

@[simp] theorem State.Formed.ioStage2 (h : s.Formed) {dc gpa kind} : FormedOk (·.2.2.2) (s.ioStage2 dc gpa kind) := by
  unfold State.ioStage2
  simp only
  split
  · simpa using h
  · split
    · simp
    · split
      · simp
      next hw =>
        have ht := formedOk_walkTable (fun s a hs => by simp [hs]) h _ hw
        split
        · simp
        · split
          · simp
          next r hr => simpa using State.Formed.ioLeaf ht r hr

theorem formedOk_ioDirectory {look bad n l table} (hl : ∀ s a, s.Formed → FormedOk (·.2) (look s a)) (h : s.Formed) :
    FormedOk (·.2) (ioDirectory look bad n l table s) := by
  induction l generalizing s table with
  | nil => exact hl _ _ h
  | cons i r ih =>
    cases r with
    | nil => exact hl _ _ h
    | cons j r =>
      unfold ioDirectory
      split
      · simp
      next hi =>
        have ht := hl _ _ h _ hi
        simp only
        split
        · simp
        · split
          · simp
          · exact ih ht

@[simp] theorem State.Formed.deviceContext (h : s.Formed) {dev} : FormedOk (·.2) (s.deviceContext dev) := by
  unfold State.deviceContext
  split
  · simpa using h
  · simp only
    split
    · simp
    · split
      · simp
      next hd =>
        have ht := formedOk_ioDirectory (fun s a hs => by simp [hs]) h _ hd
        simp [ht]

@[simp] theorem State.Formed.processContext (h : s.Formed) {dc dev pid kind} : FormedOk (·.2) (s.processContext dc dev pid kind) := by
  unfold State.processContext
  split
  · simpa using h
  · simp only
    split
    · simp
    · split
      · simp
      next hd =>
        have ht := formedOk_ioDirectory (fun s a hs => by
          split
          next hg => simpa using fun _ => hs.ioStage2 _ hg
          next => simp
          next => simp) h _ hd
        simp [ht]

@[simp] theorem State.Formed.ioSpace (h : s.Formed) {dc a} : FormedOk (·.2) (s.ioSpace dc a) := by
  unfold State.ioSpace
  simp only
  split
  · simp [h]
  · split
    · simpa using h
    · split
      · simpa using h
      · split
        · simp
        next hp => simpa using fun _ => h.processContext _ hp

@[simp] theorem State.Formed.ioGuest (h : s.Formed) {dc gpa kind} : FormedOk (·.2.2.2) (s.ioGuest dc gpa kind) := by
  unfold State.ioGuest
  split
  · split
    · simp
    · simpa using h
  · split
    · simp
    · simp
    next hg => simpa using h.ioStage2 _ hg

@[simp] theorem State.Formed.ioWalk (h : s.Formed) {dc y va kind} : FormedOk (·.2) (s.ioWalk dc y va kind) := by
  unfold State.ioWalk
  simp only
  split
  · exact h.ioGuest.map fun _ hr => hr
  · split
    · simp
    · split
      · simp
      next hw =>
        have ht := formedOk_walkTable (fun s a hs => by
          split
          next hg => simpa using fun _ => hs.ioStage2 _ hg
          next => simp) h _ hw
        split
        · simp
        · split
          · simp
          next r hr => exact (State.Formed.ioLeaf ht r hr).ioGuest.map fun _ hr => hr

@[simp] theorem State.Formed.ioPage (h : s.Formed) {dc y va kind} : FormedOk (·.2) (s.ioPage dc y va kind) := by
  unfold State.ioPage
  simp only
  split
  · simpa using h
  · split
    · simp
    next hw =>
      have ht := h.ioWalk _ hw
      simp_all

@[simp] theorem State.Formed.ioTranslate (h : s.Formed) {a} : FormedOk (·.2.2) (s.ioTranslate a) := by
  unfold State.ioTranslate
  simp only
  split
  · simp
  · simp [h]
  · split
    · simp
    next hd =>
      have ht := h.deviceContext _ hd
      split
      · simp
      · split
        · split
          · exact State.Formed.ioGuest ht |>.map fun _ hr => hr
          · simpa using ht
        · split
          · simp
          next hs =>
            have hu := State.Formed.ioSpace ht _ hs
            exact State.Formed.ioPage hu |>.map fun _ hr => hr

@[simp] theorem State.Formed.ioFail {a e} (h : s.Formed) : (s.ioFail a e).Formed := by simp [State.ioFail, h]

@[simp] theorem State.formed_ioAnswer {a dc e} : (s.ioAnswer a dc e).Formed ↔ s.Formed := by simp [State.ioAnswer]

@[simp] theorem State.formed_pageResponse {lo hi code} : (s.pageResponse lo hi code).Formed ↔ s.Formed := by simp [State.pageResponse]

@[simp] theorem State.Formed.pageRequest (h : s.Formed) {lo hi} : (s.pageRequest lo hi).Formed := by
  unfold State.pageRequest
  simp only
  split
  · simp [h]
  · split
    · simp [h]
    next hd =>
      have ht := h.deviceContext _ hd
      simp_all

@[simp] theorem State.Formed.ioCommand {lo hi} (h : s.Formed) : FormedSome (s.ioCommand lo hi) := by
  unfold State.ioCommand
  split <;> simp [h]

@[simp] theorem State.Formed.nextCommand (h : s.Formed) : s.nextCommand.Formed := by
  unfold State.nextCommand
  simp only
  split
  · exact h
  · split
    · simp [h]
    · split
      · exact h
      · split
        next t ht => simp [h.ioCommand t ht]
        next => simp [h]

@[simp] theorem State.formed_iommuRead {who off} : (s.iommuRead who off).Formed ↔ s.Formed := by simp [State.iommuRead]

/-! ## The control plane -/

@[simp] theorem State.Formed.powerRecord {avg die trigger ends mhz} (h : s.Formed) : (s.powerRecord avg die trigger ends mhz).Formed := by
  simp [State.powerRecord, h]

@[simp] theorem State.Formed.powerDecision {lower} (h : s.Formed) : (s.powerDecision lower).Formed := by simp [State.powerDecision, h]

@[simp] theorem State.Formed.openRecord {src kind k} (h : s.Formed) : (s.openRecord src kind k).Formed := by simp [State.openRecord, h]

@[simp] theorem State.formed_configure {i} : (s.configure i).Formed ↔ s.Formed := by simp [State.configure]

@[simp] theorem State.Formed.deadModule {x} (h : s.Formed) : (s.deadModule x).Formed := by simp [State.deadModule, h]

@[simp] theorem State.formed_halfModule {x} : (s.halfModule x).Formed ↔ s.Formed := by simp [State.halfModule]

@[simp] theorem State.formed_holdDies {hold} : (s.holdDies hold).Formed ↔ s.Formed := by simp [State.holdDies]

@[simp] theorem State.Formed.start (h : s.Formed) {i six} : (s.start i six).Formed := by
  have hd : ∀ (t : State) (l : List (Nat × Nat × Nat)), t.Formed → (l.foldl State.deadModule t).Formed :=
    fun _ _ ht => ht.foldl (fun _ _ hs => hs.deadModule) _
  unfold State.start
  lift_lets
  intro stop s0 boot fabric halves s1 s2 up
  have h1 : s1.Formed := hd _ _ (by simp [halves, h])
  have h2 : s2.Formed := by simp [s2, h1]
  simp [stop, s0, halves, hd, h, h2]

@[simp] theorem State.Formed.scrubRecord {win core slot gid val} (h : s.Formed) : (s.scrubRecord win core slot gid val).Formed := by
  simp [State.scrubRecord, h]

@[simp] theorem State.Formed.scrubLoc {a'} (h : s.Formed) : (s.scrubLoc a').Formed := by
  unfold State.scrubLoc
  split
  · simp [h]
  · split <;> simp [h]

@[simp] theorem State.Formed.scrubWord {k} (h : s.Formed) : (s.scrubWord k).Formed := by
  unfold State.scrubWord
  split
  · simp [h]
  · split
    · simp [h]
    · split <;> simp [h]

@[simp] theorem State.Formed.copyLine (h : s.Formed) : s.copyLine.Formed := by
  unfold State.copyLine
  simp only
  split
  · exact h
  · split
    · simp [h]
    · exact State.Formed.foldl (by simp [h]) (fun _ _ ht => ht.scrubLoc) _

@[simp] theorem State.Formed.copyLines {n} (h : s.Formed) : (State.copyLines n s).Formed := by
  induction n generalizing s with
  | zero => exact h
  | succ n ih => exact ih h.copyLine

@[simp] theorem State.Formed.busAccess? {a} (h : s.Formed) : FormedSome (s.busAccess? a) := by
  unfold State.busAccess?
  split
  · simp [h]
  · split <;> simp [h]

@[simp] theorem State.Formed.dmaAt {a} (h : s.Formed) : FormedSome (s.dmaAt a) := by
  unfold State.dmaAt
  split <;> simp [h]

@[simp] theorem State.Formed.performDma (h : s.Formed) {k} : (s.performDma k).Formed := by
  unfold State.performDma
  split
  · exact h
  · split
    · exact h
    · simp only
      split
      · simp [h]
      next ht =>
        have ht := h.ioTranslate _ ht
        split
        · simp_all
        · refine FormedSome.getD (State.Formed.dmaAt ?_) h
          simp_all

@[simp] theorem State.Formed.atFront {a'} (h : s.Formed) : (s.atFront a').Formed := by
  unfold State.atFront
  split <;> simp [h]

@[simp] theorem State.formed_partitionsMade : s.partitionsMade.Formed ↔ s.Formed := by
  unfold State.partitionsMade
  split <;> simp

@[simp] theorem State.formed_writeStackPart {stk p r v} : (s.writeStackPart stk p r v).Formed ↔ s.Formed := by
  unfold State.writeStackPart
  split
  · split <;> simp
  · simp
  · split <;> simp
  · rfl

@[simp] theorem State.Formed.writeFrontPart {p r v} (h : s.Formed) : (s.writeFrontPart p r v).Formed := by
  unfold State.writeFrontPart
  split <;> simp [h]

@[simp] theorem State.formed_writeControl {w off v} : (s.writeControl w off v).Formed ↔ s.Formed := by
  unfold State.writeControl
  split
  · split <;> simp
  · split
    · simp
    · split
      · split <;> simp
      · split
        · simp
        · split
          · rfl
          · split
            · simp
            · split
              · simp
              · split <;> simp

@[simp] theorem State.Formed.writePackage {off v} (h : s.Formed) : (s.writePackage off v).Formed := by simp [State.writePackage, h]

@[simp] theorem State.formed_replayClose {w e} : (s.replayClose w e).Formed ↔ s.Formed := by simp [State.replayClose]

@[simp] theorem State.Formed.replayElement (h : s.Formed) {w e data} : (s.replayElement w e data).Formed := by
  unfold State.replayElement
  simp only
  split
  · simp [h]
  · split
    · simp [h]
    next t ht =>
      have hf : t.Formed := formedSome_ite.mpr ⟨fun _ => formedSome_none, fun _ => State.Formed.serveFill (by simp [h])⟩ t ht
      simp [hf]

/-! ## Results in registers -/

@[simp] theorem Ctx.formed_rounded {x : Ctx} {w d f} (h : x.s.Formed) : (x.rounded w d f).Formed := by simp [Ctx.rounded, h]

@[simp] theorem Ctx.formed_arith2 {x : Ctx} {w d a b f} (h : x.s.Formed) : (x.arith2 w d a b f).Formed := by simp [Ctx.arith2, h]

@[simp] theorem Ctx.formed_arith3 {x : Ctx} {w d a b f} (h : x.s.Formed) : (x.arith3 w d a b f).Formed := by simp [Ctx.arith3, h]

@[simp] theorem Ctx.formed_long {x : Ctx} {d f} (h : x.s.Formed) : (x.long d f).Formed := by simp [Ctx.long, h]

@[simp] theorem Ctx.formed_binary {x : Ctx} {w d a b f} (h : x.s.Formed) : (x.binary w d a b f).Formed := by simp [Ctx.binary, h]

@[simp] theorem Ctx.formed_unary {x : Ctx} {w d a f} (h : x.s.Formed) : (x.unary w d a f).Formed := by simp [Ctx.unary, h]

@[simp] theorem Ctx.formed_compare {x : Ctx} {r w d a b} (h : x.s.Formed) : (x.compare r w d a b).Formed := by simp [Ctx.compare, h]

@[simp] theorem Ctx.formed_scalar2 {x : Ctx} {d a b f} (h : x.s.Formed) : (x.scalar2 d a b f).Formed := by simp [Ctx.scalar2, h]

@[simp] theorem Ctx.formed_indexed {x : Ctx} {a b f} (h : x.s.Formed) (hk : f.Formed) : (x.indexed a b f).Formed := by
  unfold Ctx.indexed
  simp only
  split <;> simp [h, hk]

@[simp] theorem Res.formed_withStatus {x has r} : (Res.withStatus x has r).Formed ↔ r.Formed := by
  cases r <;> simp [Res.withStatus]

@[simp] theorem Ctx.formed_shuffle {x : Ctx} {w d a b lane} (h : x.s.Formed) : (x.shuffle w d a b lane).Formed := by simp [Ctx.shuffle, h]

@[simp] theorem Ctx.formed_reduceFloat {x : Ctx} {d a op} (h : x.s.Formed) : (x.reduceFloat d a op).Formed := by simp [Ctx.reduceFloat, h]

@[simp] theorem Ctx.formed_reduceInt {x : Ctx} {d a f} (h : x.s.Formed) : (x.reduceInt d a f).Formed := by simp [Ctx.reduceInt, h]

/-! ## Instructions whose effect branches -/

theorem formed_execPref {a sp k} (h : s.Formed) : FormedNext (execPref a sp k s) := by
  refine h.issue fun x hx => ?_
  simp only
  split
  · simp
  · simp [hx]

theorem formed_execTld {d a} (h : s.Formed) : FormedNext (execTld d a s) := by
  refine h.issue fun x hx => ?_
  simp only
  split
  · simp
  · split
    · simp [hx]
    · split
      · simp
      · split
        · simp [hx]
        · split
          · simp [hx]
          · simp [hx]
          · split <;> simp [hx]

theorem formed_execTst {a b} (h : s.Formed) : FormedNext (execTst a b s) := by
  refine h.issue fun x hx => ?_
  simp only
  split
  · simp [hx]
  · split <;> simp [hx]

theorem formed_execThdr {d a} (h : s.Formed) : FormedNext (execThdr d a s) := by
  refine h.issue fun x hx => ?_
  simp only
  split <;> simp [hx]

theorem formed_execTchk {d a} (h : s.Formed) : FormedNext (execTchk d a s) := by
  refine h.issue fun x hx => ?_
  simp only
  split
  · simp
  · simp only [Res.formed_ite, Ctx.formed_scalar, Res.formed_wait, Ctx.formed_waitRegs, hx, implies_true, true_and]
    intros
    split <;> simp [hx]

theorem formed_execCopy {d a b} (h : s.Formed) : FormedNext (execCopy d a b s) := by
  refine h.issue fun x hx => ?_
  simp only
  split
  · simp
  · split
    · simp
    · exact Res.formed_ite.mpr ⟨fun _ => Res.formed_trap, fun _ => Ctx.formed_releaseFirst hx fun t ht => Ctx.formed_supply ht⟩

theorem formed_execCopym {d a b} (h : s.Formed) : FormedNext (execCopym d a b s) := by
  refine h.issue fun x hx => ?_
  simp only
  split
  · simp
  · split
    · simp
    · simp +contextual [hx]

theorem formed_execRemarr {a b} (h : s.Formed) : FormedNext (execRemarr a b s) := by
  refine h.issue fun x hx => ?_
  simp only
  split
  · simp
  · split
    next => simp
    next t ht => exact (Ctx.formed_barAt hx).of_wait ht
    next => exact Ctx.formed_releaseFirst hx fun t ht => by simp [ht]

theorem formed_execBarcont {a b} (h : s.Formed) : FormedNext (execBarcont a b s) := by
  refine h.issue fun x hx => ?_
  simp only
  split
  · simp
  · refine Ctx.formed_onBarrier hx fun _ _ _ => ?_
    simp only [Res.formed_ite, Ctx.formed_nothing, Res.formed_wait, hx, implies_true, true_and]
    refine fun _ _ => Ctx.formed_releaseFirst hx fun t ht => ?_
    have hb : ∀ off f c, (t.barEvent x.c.blk off f c).Formed := fun _ _ _ => ht.barEvent
    simp [hb]

theorem formed_execBsync (h : s.Formed) : FormedNext (execBsync s) :=
  h.issue fun x hx => Ctx.formed_releaseFirst hx fun t ht => by
    dsimp only
    split
    · exact ht
    · split
      · split <;> simp [ht]
      · simp [ht]

theorem formed_execLock {a} (h : s.Formed) : FormedNext (execLock a s) :=
  h.issue fun x hx => Ctx.formed_lockAt hx fun pa => by
    dsimp only
    split <;> simp [hx]

theorem formed_execUnlock {a} (h : s.Formed) : FormedNext (execUnlock a s) :=
  h.issue fun x hx => Ctx.formed_lockAt hx fun pa => by
    split
    · have hr : ∀ e, (x.releaseFirst 1 fun s => .done (s.passLock x.b.stk e) []).Formed :=
        fun e => Ctx.formed_releaseFirst hx fun t ht => by simp [ht]
      simp [hr]
    · simp

theorem formed_execCwait {d a b} (h : s.Formed) : FormedNext (execCwait d a b s) := by
  refine h.issue fun x hx => ?_
  split
  next => simp
  next t ht => exact (Ctx.formed_accessTag hx).of_wait ht
  next => exact hx
  next => simp [hx]

theorem formed_execLrload {d a b} (h : s.Formed) : FormedNext (execLrload d a b s) := by
  refine h.issue fun x hx => ?_
  simp only
  split
  · simp
  · split
    next => simp
    next t ht => exact (Ctx.formed_accessTag hx).of_wait ht
    next =>
      refine Ctx.formed_releaseSystem hx fun t ht => ?_
      split
      · exact ht
      · split <;> simp [ht]
    next => exact hx

theorem formed_execLrinv {a} (h : s.Formed) : FormedNext (execLrinv a s) := by
  refine h.issue fun x hx => ?_
  simp only
  split
  · simp
  · refine Ctx.formed_releaseSystem hx fun t ht => ?_
    split <;> simp [ht]

theorem formed_execWsub {a b} (h : s.Formed) : FormedNext (execWsub a b s) := by
  refine h.issue fun x hx => ?_
  simp only
  split
  · simp
  · split <;> simp [hx]

theorem formed_execWunsub {a} (h : s.Formed) : FormedNext (execWunsub a s) := by
  refine h.issue fun x hx => ?_
  simp only
  split
  · simp
  · split <;> simp [hx]

theorem formed_execQopen {d a b} (h : s.Formed) : FormedNext (execQopen d a b s) := by
  refine h.issue fun x hx => ?_
  simp only
  split
  · simp [hx]
  · split <;> simp [hx]

theorem formed_execQputs {a b} (h : s.Formed) : FormedNext (execQputs a b s) :=
  h.issue fun _ hx => Ctx.formed_handleFor fun _ _ => by
    split
    next => simp
    next t ht => exact (Ctx.formed_elemPlaces hx).of_wait ht
    next => split <;> simp [hx]

theorem formed_execQgets {d a b} (h : s.Formed) : FormedNext (execQgets d a b s) :=
  h.issue fun _ hx => Ctx.formed_handleFor fun _ _ => by
    split
    next => simp
    next t ht => exact (Ctx.formed_elemPlaces hx).of_wait ht
    next => simp [hx]

theorem formed_execQsvc {a b} (h : s.Formed) : FormedNext (execQsvc a b s) := by
  refine h.issue fun x hx => ?_
  simp only
  split
  · simp
  next hd rh _ =>
    have hgo : ∀ f : State → Res, (∀ t, t.Formed → (f t).Formed) → (if x.act = 0 then x.nothing else x.releaseFirst 1 f).Formed :=
      fun _ hf => Res.formed_ite.mpr ⟨fun _ => by simp [hx], fun _ => Ctx.formed_releaseFirst hx hf⟩
    split
    · exact Ctx.formed_onRegs hx (hgo _ fun t ht => by simp [ht])
    · exact hgo _ fun t ht => by simp [ht]

/-! ## Events that branch -/

/-- The state at reset is formed. -/
theorem State.formed_reset : State.reset.Formed := ⟨rfl, rfl, rfl, rfl⟩

theorem formed_execSubscriptionBatchTimeout (h : s.Formed) : FormedNext (execSubscriptionBatchTimeout s) := by
  unfold execSubscriptionBatchTimeout
  split <;> simp [h]

theorem formed_execMessageResend (h : s.Formed) : FormedNext (execMessageResend s) := by
  unfold execMessageResend
  split <;> simp [h]

theorem formed_execPutAcknowledge (h : s.Formed) : FormedNext (execPutAcknowledge s) :=
  h.received fun _ _ ht => by
    split
    · simp [ht]
    · exact ht

theorem formed_execQueueWake (h : s.Formed) : FormedNext (execQueueWake s) := by
  have hr : (s.received s.ev.k 2 fun a s => s.woken a).Formed := h.received fun _ _ ht => by simp [ht]
  unfold execQueueWake
  split
  · simp [h, hr]
  · exact h

theorem formed_execQueueWaitRetry (h : s.Formed) : FormedNext (execQueueWaitRetry s) := by
  unfold execQueueWaitRetry
  simp only
  split <;> simp [h]

theorem formed_execDepositLanding (h : s.Formed) : FormedNext (execDepositLanding s) := by
  unfold execDepositLanding
  simp only
  split
  · simp only [formedNext_next, State.formed_ite, h, implies_true, true_and, and_true]
    intros
    split <;> simp [h]
  · exact h

theorem formed_execFlitReceive (h : s.Formed) : FormedNext (execFlitReceive s) := by
  unfold execFlitReceive
  simp only
  split
  · exact h
  · split
    · simp [h]
    · split <;> simp [h]

theorem formed_execReplayTimeout (h : s.Formed) : FormedNext (execReplayTimeout s) := by
  unfold execReplayTimeout
  simp only
  split <;> simp [h]

theorem formed_execRetrainComplete (h : s.Formed) : FormedNext (execRetrainComplete s) := by
  have hg : ∀ (l : List Block) (t : State), t.Formed → (l.foldl (fun s x => s.gatherEnd x.uid) t).Formed :=
    fun _ _ ht => ht.foldl (fun _ _ hs => hs.gatherEnd) _
  unfold execRetrainComplete
  dsimp only
  split
  · simp [h, hg]
  · exact h

theorem formed_execReconfigDrainEnd (h : s.Formed) : FormedNext (execReconfigDrainEnd s) := by
  unfold execReconfigDrainEnd
  split <;> simp [h]

theorem formed_execReconfigSwitchDone (h : s.Formed) : FormedNext (execReconfigSwitchDone s) := by
  unfold execReconfigSwitchDone
  split <;> simp [h]

theorem formed_execOutboxDrain (h : s.Formed) : FormedNext (execOutboxDrain s) := by
  unfold execOutboxDrain
  split
  · exact h
  · split
    next => exact h
    next t ht => simp [h.putRecord t ht]

theorem formed_execLaunchGrid (h : s.Formed) : FormedNext (execLaunchGrid s) :=
  h.takeRecord fun l t ht => by
    extract_lets c
    have hc : c.2.Formed := ht.checkGrid
    split <;> simp [hc]

theorem formed_execLaunchGraph (h : s.Formed) : FormedNext (execLaunchGraph s) :=
  h.takeRecord fun l t ht => by
    extract_lets c
    have hc : c.2.Formed := ht.checkGraph
    split <;> simp [hc]

theorem formed_execHeldRecordReady (h : s.Formed) : FormedNext (execHeldRecordReady s) := by
  unfold execHeldRecordReady
  split
  · exact h
  · simp only
    split
    · exact h
    · split <;> simp [h]

theorem formed_execBlockPlacement (h : s.Formed) : FormedNext (execBlockPlacement s) := by
  unfold execBlockPlacement
  dsimp only
  split
  · split
    · exact State.Formed.foldl (by simp [h]) (fun _ _ ht => ht.startBlock) _
    · exact h
  · exact h

theorem formed_execBlockSteal (h : s.Formed) : FormedNext (execBlockSteal s) := by
  unfold execBlockSteal
  simp only
  split
  · exact h
  · split <;> simp [h]

theorem formed_execClusterForage (h : s.Formed) : FormedNext (execClusterForage s) := by
  unfold execClusterForage
  simp only
  split
  · exact h
  · split <;> simp [h]

theorem formed_execBlockRetire (h : s.Formed) : FormedNext (execBlockRetire s) := by
  unfold execBlockRetire
  split <;> simp [h]

theorem formed_execGraphNodeLaunch (h : s.Formed) : FormedNext (execGraphNodeLaunch s) := by
  unfold execGraphNodeLaunch
  split
  · exact h
  · split <;> simp [h]

theorem formed_execWatchdog (h : s.Formed) : FormedNext (execWatchdog s) := by
  unfold execWatchdog
  split <;> split <;> simp [h]

theorem formed_execSplitRotation (h : s.Formed) : FormedNext (execSplitRotation s) := by
  unfold execSplitRotation
  split <;> simp [h]

theorem formed_execPreemptOneBlock (h : s.Formed) : FormedNext (execPreemptOneBlock s) :=
  h.takePreempt fun _ _ _ ht => by
    dsimp only
    split <;> exact ht.beginPreempt

theorem formed_execPreemptionRequest (h : s.Formed) : FormedNext (execPreemptionRequest s) := by
  unfold execPreemptionRequest
  split
  · split <;> simp [h]
  · simp [h]

theorem formed_execPreemptSave (h : s.Formed) : FormedNext (execPreemptSave s) := by
  unfold execPreemptSave
  split <;> simp [h]

theorem formed_execBlockRestore (h : s.Formed) : FormedNext (execBlockRestore s) := by
  unfold execBlockRestore
  dsimp only
  split
  · split
    · exact h.foldl (fun _ _ ht => ht.restoreBlock) _
    · exact h
  · exact h

theorem formed_execPowerOnBoot (h : s.Formed) : FormedNext (execPowerOnBoot s) := by
  unfold execPowerOnBoot
  split
  · have hr := State.formed_reset
    exact State.Formed.start (by simpa using hr)
  · exact h

theorem formed_execRecoveryImage (h : s.Formed) : FormedNext (execRecoveryImage s) := by
  unfold execRecoveryImage
  split <;> simp [h]

theorem formed_execAttestationRequest (h : s.Formed) : FormedNext (execAttestationRequest s) := by
  unfold execAttestationRequest
  split <;> simp [h]

theorem formed_execScrubPass (h : s.Formed) : FormedNext (execScrubPass s) := by
  unfold execScrubPass
  split
  · exact h
  · simp only [formedNext_next, State.formed_ite, State.formed_updStack, h, State.Formed.scrubWord, implies_true, true_and, and_true]
    intros
    split
    · exact h
    · split
      · exact h
      · split <;> simp [h]

theorem formed_execTlbShootdown (h : s.Formed) : FormedNext (execTlbShootdown s) := by
  unfold execTlbShootdown
  split <;> simp [h]

theorem formed_execHostCoherentAccess (h : s.Formed) : FormedNext (execHostCoherentAccess s) := by
  unfold execHostCoherentAccess
  split
  · next a _ => simp [h, h.busAccess?.getD h]
  · exact h

theorem formed_execPcieDma (h : s.Formed) : FormedNext (execPcieDma s) := by
  unfold execPcieDma
  split <;> simp [h]

/-! ## The step -/

/-- Every instruction and every event keeps the invariant: by its effect under `issue`, or by the operation it is. -/
theorem State.Formed.exec {i} (h : s.Formed) : FormedNext (exec i s) := by
  unfold Machine.exec
  cases i with
  | nop | exit | trap | brk | yield | srd | swr | grow | detach | attach | racq | rrel | tret | add | sub | mul | mulhi | mad | min | max
  | and | or | xor | andn | shl | shr | sar | rotl | sad | addi | andi | ori | xori | shli | shri | sari | movi | movhi | popc | clz |
  brev | bfx | bfi | prmt | abs | cmpeq | cmpne | cmplt | cmple | cmpgt | cmpge | cmpun | sel | mov | movix | stix | pand | por | pxor |
  pnot | pset | fadd | fsub | fmul | fma | fms | fnma | fmin | fmax | fabs | fneg | fdiv | fsqrt | frcp | frsq | fexp2 | flog2 | cvt |
  cvtpk | cvtup | frnd | fclass | fldexp | frexp | shfl | shflup | shfldn | shflx | vall | vany | ballot | redadd | redmin | redmax | scan
  | lanes | bcast | vtos | bra | call | ret | jmpi | brau | brany | setmode | setmmode | setgang | splitsync | ld8 | ld16 | ld32 | ld64 |
  ld128 | st8 | st16 | st32 | st64 | st128 | ldu | fence | fencei | ld8s | ld16s | aadd | amin | amax | aand | aor | axor | axchg | acas |
  afadd | radd | rmin | rmax | rfadd | bclose | bwait | mma | mmaz | mfence | mwait | hadq | transq | cvtt | tfill | mwake | qrsv | qpeek
  | qfence | qack | tlbinv | wflush | qxsetDropVqn | qxsetDropAsid | qxsetDropAll | qxsetWriteDescriptor | sadd | ssub | smul | sand | sor
  | sxor | sshl | sshr | ssar | saddi | smovi | smovhi | scmplt | scmpeq | smin | smax | eres | erel | illegalInstruction =>
    exact h.issue fun x hx => by simp [hx]
  | qclose | crd | eqry =>
    exact h.issue fun x hx => by split <;> simp [hx]
  | loadDataReturn | longResultWrite | atomicReply | storeQueueDrain | quantumReductionPerform | pageWalkComplete | preemptTimeout |
  yieldRequest | energyRefill | continuationSpawn | throttleChange | remoteArrival | copySectorLand | copymDelivery | matrixOpComplete |
  matrixGate | matrixWakeDone | superRefill | svcAdd | svcSignedMin | svcSignedMax | svcUnsignedMin | svcUnsignedMax | svcAnd | svcOr |
  svcXor | svcExchange | svcCompareAndSwap | svcF32Add | svcLoad | svcUndefinedOp | lctlRetrain | connreqWrite | evstatOvfClear |
  powerSample | powerClampDecision | computeDieResetEnter | computeDieResetExit | checkpointStart | checkpointDone | subscriptionBatchLand
  | shmWrite | descriptorWrite | prgoReplayOne | prgoReplayTwo | rootinvWrite | lrinvWrite | entryLatchRead | registerWrite |
  ratedConditionExcursion | duplicateAndCompareMismatch =>
    exact formedNext_next.mpr (by simp [h])
  | pref => exact formed_execPref h
  | lock => exact formed_execLock h
  | unlock => exact formed_execUnlock h
  | copy => exact formed_execCopy h
  | copym => exact formed_execCopym h
  | barinit => exact h.issue fun _ hx => Ctx.formed_onBarrier hx fun _ t ht => by simp [ht]
  | bararr => exact h.issue fun _ hx => Ctx.formed_onBarrier hx fun _ _ _ => Ctx.formed_releaseFirst hx fun t ht => by simp [ht]
  | barwait => exact h.issue fun _ hx => Ctx.formed_onBarrier hx fun _ t ht => by split <;> simp [ht]
  | barexp => exact h.issue fun _ hx => Ctx.formed_onBarrier hx fun _ t ht => by simp [ht]
  | barcont => exact formed_execBarcont h
  | bartry => exact h.issue fun _ hx => Ctx.formed_onBarrier hx fun _ t ht => by dsimp only; split <;> simp [ht]
  | remarr => exact formed_execRemarr h
  | bsync => exact formed_execBsync h
  | tld => exact formed_execTld h
  | tst => exact formed_execTst h
  | thdr => exact formed_execThdr h
  | tchk => exact formed_execTchk h
  | qopen => exact formed_execQopen h
  | qput => exact h.issue fun _ hx => Ctx.formed_handleFor fun _ _ => Ctx.formed_onRegs hx (Ctx.formed_putElement hx fun _ ht => ht)
  | qputs => exact formed_execQputs h
  | qget => exact h.issue fun _ hx => Ctx.formed_handleFor fun _ _ => Ctx.formed_onRegs hx (Ctx.formed_take hx)
  | qgets => exact formed_execQgets h
  | qtry => exact h.issue fun _ hx => Ctx.formed_handleFor fun _ _ => Ctx.formed_onRegs hx (Ctx.formed_take hx)
  | qsvc => exact formed_execQsvc h
  | emit => exact h.issue fun _ hx => Ctx.formed_handleFor fun _ _ => Ctx.formed_onRegs hx (Ctx.formed_putElement hx fun _ ht => ht)
  | lrload => exact formed_execLrload h
  | lrinv => exact formed_execLrinv h
  | wsub => exact formed_execWsub h
  | wunsub => exact formed_execWunsub h
  | cwait => exact formed_execCwait h
  | splitRotation => exact formed_execSplitRotation h
  | resumeRetry => exact h.takeResume fun _ _ _ ht => by split <;> simp [ht]
  | resumeHandler => exact h.resume fun _ _ _ ht => ht.changeSuspended
  | resumeEndBlock => exact h.resume fun _ _ _ ht => ht.endBlock
  | resumeEndGrid => exact h.resume fun _ _ _ ht => ht.endGrid
  | preemptOneBlock => exact formed_execPreemptOneBlock h
  | preemptLaunch => exact h.takePreempt fun _ _ _ ht => by simp [ht]
  | releaseHeldBlocks => exact h.takePreempt fun _ _ _ ht => by simp [ht]
  | preemptionRequest => exact formed_execPreemptionRequest h
  | preemptSave => exact formed_execPreemptSave h
  | blockRestore => exact formed_execBlockRestore h
  | launchGrid => exact formed_execLaunchGrid h
  | launchGraph => exact formed_execLaunchGraph h
  | heldRecordReady => exact formed_execHeldRecordReady h
  | blockPlacement => exact formed_execBlockPlacement h
  | blockSteal => exact formed_execBlockSteal h
  | clusterForage => exact formed_execClusterForage h
  | blockRetire => exact formed_execBlockRetire h
  | graphNodeLaunch => exact formed_execGraphNodeLaunch h
  | watchdog => exact formed_execWatchdog h
  | portReserve => exact h.atHome fun _ _ ht => ht.serveReserve
  | portFill => exact h.atHome fun _ _ ht => ht.serveFill
  | portTake => exact h.atHome fun _ _ ht => ht.serveTake
  | portPeek => exact h.atHome fun _ _ ht => ht.servePeek
  | portBinding => exact h.atHome fun _ _ ht => ht.serveBind
  | portCloseNotice => exact h.atHome fun _ _ ht => ht.serveClose
  | putAcknowledge => exact formed_execPutAcknowledge h
  | queueWake => exact formed_execQueueWake h
  | queueWaitRetry => exact formed_execQueueWaitRetry h
  | depositLanding => exact formed_execDepositLanding h
  | messageResend => exact formed_execMessageResend h
  | flitReceive => exact formed_execFlitReceive h
  | replayTimeout => exact formed_execReplayTimeout h
  | retrainComplete => exact formed_execRetrainComplete h
  | reconfigDrainEnd => exact formed_execReconfigDrainEnd h
  | reconfigSwitchDone => exact formed_execReconfigSwitchDone h
  | outboxDrain => exact formed_execOutboxDrain h
  | powerOnBoot => exact formed_execPowerOnBoot h
  | recoveryImage => exact formed_execRecoveryImage h
  | attestationRequest => exact formed_execAttestationRequest h
  | scrubPass => exact formed_execScrubPass h
  | tlbShootdown => exact formed_execTlbShootdown h
  | hostCoherentAccess => exact formed_execHostCoherentAccess h
  | pcieDma => exact formed_execPcieDma h
  | subscriptionBatchTimeout => exact formed_execSubscriptionBatchTimeout h
  | queueAnswerArrival => exact h.received fun _ _ ht => ht.arriveAnswer

theorem State.Formed.issueAt {stk core slot c} (h : s.Formed) : FormedNext (issueAt stk core slot c s) := by
  unfold Machine.issueAt
  split
  · exact h
  · split
    · exact h
    · split
      · exact h
      · split
        next t ht => simp [h.fetch.of_wait ht]
        next => simp [h]
        next w t ht =>
          have hw : t.Formed := h.fetch.of_word ht
          split
          · simp [hw]
          · split
            next u hu => simp [(State.Formed.exec (by simp [hw])).of_next hu]
            · trivial
            · trivial

theorem State.Formed.runAct {a} (h : s.Formed) : FormedNext (runAct a s) := by
  unfold Machine.runAct
  split
  · exact h
  · cases a with
    | issue stk core slot =>
      have ht : (s.slotTurn stk core slot).Formed := by simp [h]
      dsimp only
      split
      next t he => exact ht.of_idle he
      next c t he => exact State.Formed.issueAt (ht.of_go he)
    | event i x =>
      dsimp only
      split
      · exact State.Formed.exec (by simp [h])
      · exact h
    | portDesc k => exact h.atHome fun _ _ ht => ht.serveDesc
    | _ => simp [h]

theorem State.Formed.step (h : s.Formed) : FormedNext (step s) := by
  unfold Machine.step
  split
  · simp [h]
  · exact State.Formed.runAct (by simp [h])

end
end Sys2Proof.Machine
end

section
open Sys2Proof Sys2Proof.Machine
/-- Settles O58, by the invariant `State.Formed` that every operation of the model keeps. -/
theorem stepKeepsMemoryForm : Obligations.StepKeepsMemoryForm := by
  unfold Obligations.StepKeepsMemoryForm
  intro s t hm hs ht
  exact (State.Formed.step ⟨hm, hs⟩).of_next ht
end

section
/-!
SUPPORT. What the accessors of the model read after reset (O59).
-/
namespace Sys2Proof.Machine

/-- A list of defaults reads as the default everywhere. -/
theorem nth_of_forall_eq {α : Type} {d : α} {l : List α} (h : ∀ y ∈ l, y = d) (k : Nat) : nth d l k = d := by
  induction l generalizing k with
  | nil => rfl
  | cons y r ih =>
    cases k with
    | zero => exact h y (by simp)
    | succ n => exact ih (fun z hz => h z (by simp [hz])) n

@[simp] theorem State.stack_reset (k : Nat) : State.reset.stack k = Stack.reset := nth_of_forall_eq (by simp [State.reset]) k
@[simp] theorem State.port_reset (w : Nat) : State.reset.port w = Port.reset := nth_of_forall_eq (by simp [State.reset]) w
@[simp] theorem State.source_reset (w : Nat) : State.reset.source w = EvSource.reset := nth_of_forall_eq (by simp [State.reset]) w
@[simp] theorem State.core_reset (k n : Nat) : State.reset.core k n = Core.reset := rfl
@[simp] theorem State.part_reset (p : Nat) : State.reset.part p = Partition.reset := rfl
@[simp] theorem State.link_reset (w b m : Nat) : State.reset.link w b m = { LinkEnd.reset with width := linkFull w b } := rfl
@[simp] theorem State.desc_reset (w q : Nat) : State.reset.desc w q = Desc.reset := by simp [State.desc, Port.reset, Assoc.getD]
@[simp] theorem State.cycle_reset (k : Nat) : State.reset.cycle k = 0 := by simp [State.cycle, Stack.reset]
@[simp] theorem State.ctlstat_reset (w : Nat) : State.reset.ctlstat w = 0 := by
  simp [State.ctlstat, packFields, b2n, EvSource.reset, Stack.reset, Port.reset]

/-- A width fits its field of LSTAT (R360). -/
theorem linkFull_lt (w b : Nat) : linkFull w b < 2 ^ 7 := by
  unfold linkFull; split <;> decide

/-- LSTAT of an end that has only its width: the counts are 0 (R360). -/
theorem LinkEnd.stat_reset {n : Nat} (h : n < 2 ^ 7) : ({ LinkEnd.reset with width := n } : LinkEnd).stat = n := by
  simpa [LinkEnd.stat, packFields, b2n, LinkEnd.reset] using Nat.mod_eq_of_lt h

/-- Every stack of a partition that does not exist has the reset values of SHM0 to SHM5 (R234). -/
theorem Partition.shm_reset {k : Nat} (h : k < 4) : nth [] Partition.reset.shm k = shmReset := by
  decide +revert

end Sys2Proof.Machine
end

section
open Sys2Proof Sys2Proof.Machine
/-- Settles O59: each field of the reset state read through the model's accessors. -/
theorem resetLeavesStatedValues : Obligations.ResetLeavesStatedValues := by
  unfold Obligations.ResetLeavesStatedValues
  obtain ⟨hmem, hshape⟩ := State.formed_reset
  refine ⟨hmem, hshape, rfl, rfl, rfl, rfl, rfl, rfl, fun k _ => ?counters, fun _ _ => ⟨rfl, rfl⟩, fun w _ => ?windows,
    fun w _ b _ m _ => ?links, fun p _ k hk => ?shm, fun _ _ => ⟨rfl, rfl⟩, rfl, rfl, rfl, rfl, rfl⟩
  case counters => simp [Stack.reset, Assoc.getD]
  case windows => simp [EvSource.stat, EvSource.reset, packFields, b2n, Desc.reset]
  case links => simpa using LinkEnd.stat_reset (linkFull_lt w b)
  case shm => exact Partition.shm_reset hk
end

section
/-!
SUPPORT. Every row of the table answers (O60): the shape of a meaning, the decode faults in their order, and that a step executes an
instruction only for a live split.
-/
namespace Sys2Proof.Machine

/-! ## The shape of a meaning -/

/-- A row of the table is an event, whose meaning is a next state, or an instruction, whose meaning is its effect under `issue`. -/
theorem exec_event_or_issue (i : Instr) (s : State) :
    (isEvent i = true ∧ ∃ t, exec i s = .next t) ∨ (isEvent i = false ∧ ∃ effect, exec i s = issue i s effect) := by
  unfold exec
  cases i with
  | splitRotation | loadDataReturn | longResultWrite | atomicReply | storeQueueDrain | quantumReductionPerform | pageWalkComplete |
  resumeRetry | resumeHandler | resumeEndBlock | resumeEndGrid | preemptOneBlock | preemptLaunch | releaseHeldBlocks |
  preemptionRequest | preemptTimeout | preemptSave | blockRestore | yieldRequest | launchGrid | launchGraph | heldRecordReady |
  energyRefill | blockPlacement | blockSteal | clusterForage | blockRetire | graphNodeLaunch | continuationSpawn | watchdog |
  throttleChange | remoteArrival | copySectorLand | copymDelivery | matrixOpComplete | matrixGate | matrixWakeDone | portReserve |
  portFill | portTake | portPeek | portBinding | portCloseNotice | putAcknowledge | queueWake | queueWaitRetry | superRefill |
  depositLanding | svcAdd | svcSignedMin | svcSignedMax | svcUnsignedMin | svcUnsignedMax | svcAnd | svcOr | svcXor | svcExchange |
  svcCompareAndSwap | svcF32Add | svcLoad | svcUndefinedOp | messageResend | flitReceive | replayTimeout | retrainComplete |
  lctlRetrain | connreqWrite | reconfigDrainEnd | reconfigSwitchDone | outboxDrain | evstatOvfClear | powerSample |
  powerClampDecision | powerOnBoot | recoveryImage | attestationRequest | computeDieResetEnter | computeDieResetExit | scrubPass |
  checkpointStart | checkpointDone | tlbShootdown | hostCoherentAccess | pcieDma | subscriptionBatchTimeout | subscriptionBatchLand |
  shmWrite | descriptorWrite | prgoReplayOne | prgoReplayTwo | rootinvWrite | lrinvWrite | entryLatchRead | registerWrite |
  queueAnswerArrival | ratedConditionExcursion | duplicateAndCompareMismatch =>
    exact .inl ⟨rfl, _, rfl⟩
  | _ => exact .inr ⟨rfl, _, rfl⟩

/-- An event always answers a next state. -/
theorem exec_of_event {i : Instr} (h : isEvent i = true) (s : State) : ∃ t, exec i s = .next t := by
  obtain ⟨-, ht⟩ | ⟨hi, -⟩ := exec_event_or_issue i s
  · exact ht
  · simp [h] at hi

/-- An instruction is its effect under `issue`. -/
theorem exec_eq_issue {i : Instr} (h : isEvent i = false) (s : State) : ∃ effect, exec i s = issue i s effect := by
  obtain ⟨hi, -⟩ | ⟨-, he⟩ := exec_event_or_issue i s
  · simp [h] at hi
  · exact he

/-- Without an issuing split `issue` faults. -/
theorem issue_of_no_ctx {i : Instr} {s : State} (h : s.ctx? i = none) (effect : Ctx → Res) :
    issue i s effect = .fault .noIssuer := by
  simp [issue, h]

/-- With an issuing split `issue` answers a next state, whatever the effect. -/
theorem issue_of_sees {i : Instr} {s : State} {x : Ctx} (h : Sees i s x) (effect : Ctx → Res) :
    ∃ t, issue i s effect = .next t := by
  cases hc : x.check i with
  | some f => exact ⟨_, issue_of_check h hc effect⟩
  | none =>
    cases hp : x.pending i with
    | true => exact ⟨_, issue_of_pending h hc hp effect⟩
    | false =>
      cases hb : x.badRegister i with
      | some r => exact ⟨_, issue_of_bad h hc hp hb effect⟩
      | none =>
        rw [issue_of_issues ⟨h, hc, hp, hb⟩]
        cases effect x <;> exact ⟨_, rfl⟩

/-! ## The decode faults in their order (R78) -/

/-- A list of registers written overlaps one of registers read. -/
theorem overlaps_iff {a b : List Nat} : overlaps a b = true ↔ ∃ r ∈ a, r ∈ b := by
  simp [overlaps]

/-- LATCH-RANGE: a latch that the chain does not have, or a latch named after position 7 (R80). -/
theorem latchRange_iff {u : Use} {pos : Nat} :
    latchRange u pos = true ↔ u.lat ≠ [] ∧ (pos = 0 ∨ 8 ≤ pos ∨ ∃ k ∈ u.lat, pos ≤ k) := by
  simp [latchRange, or_assoc]

/-- CHAIN-HAZARD: inside a chain, a register written that the chain so far reads, s0 and p7 apart (R82). -/
theorem chainHazard_iff {c : Option Chain} {u : Use} {gp pos : Nat} :
    chainHazard c u gp pos = true ↔ ∃ ch, c = some ch ∧ 0 < pos ∧ (ch.viol = true ∨ (∃ r ∈ u.vw, r ∈ u.vr ++ ch.vr) ∨
      (∃ r ∈ u.sw, r ≠ 0 ∧ r ∈ u.sr ++ ch.sr) ∨ ∃ r ∈ u.pw, r ≠ 7 ∧ r ∈ u.preds gp ++ ch.pr) := by
  cases c with
  | none => simp [chainHazard]
  | some ch =>
    simp only [chainHazard, Bool.and_eq_true, Bool.or_eq_true, decide_eq_true_eq, overlaps_iff, List.mem_filter,
      Option.some.injEq, exists_eq_left', and_assoc, or_assoc]

section
variable {x : Ctx} {i : Instr}

/-- ILLEGAL-OPERAND comes first. -/
theorem Ctx.check_of_badOperand (h : badOperand x.mode x.mmode i = true) :
    x.check i = some { cause := 0x02, val := x.wordVal i } := by
  simp [Ctx.check, Ctx.illegalOperand, h]

variable (hb : badOperand x.mode x.mmode i = false)
include hb

/-- LATCH-RANGE comes next. -/
theorem Ctx.check_of_latchRange (h : latchRange (useOf x.mode x.mmode i) x.pos = true) :
    x.check i = some { cause := 0x05, val := x.wordVal i } := by
  simp [Ctx.check, hb, h]

variable (hl : latchRange (useOf x.mode x.mmode i) x.pos = false)
include hl

/-- CHAIN-HAZARD comes next. -/
theorem Ctx.check_of_chainHazard (h : chainHazard x.g.chain (useOf x.mode x.mmode i) x.gp x.pos = true) :
    x.check i = some { cause := 0x06, val := x.wordVal i } := by
  simp [Ctx.check, hb, hl, h]

variable (hc : chainHazard x.g.chain (useOf x.mode x.mmode i) x.gp x.pos = false)
include hc

/-- REG-RANGE, for a vector register at or above the group's bound, comes next (R77). -/
theorem Ctx.check_of_regRange (h : ∃ r ∈ (useOf x.mode x.mmode i).vn, x.g.bound ≤ r) :
    x.check i = some { cause := 0x04, val := x.wordVal i } := by
  have ha : ((useOf x.mode x.mmode i).vn.any fun r => decide (x.g.bound ≤ r)) = true := by simpa using h
  simp [Ctx.check, Ctx.regRange, hb, hl, hc, ha]

/-- PRIVILEGE comes last. -/
theorem Ctx.check_of_privilege (hr : ∀ r ∈ (useOf x.mode x.mmode i).vn, r < x.g.bound) (hp : isPrivileged i = true)
    (hu : x.l.priv = false) : x.check i = some { cause := 0x21, val := x.wordVal i } := by
  have ha : ((useOf x.mode x.mmode i).vn.any fun r => decide (x.g.bound ≤ r)) = false := by simpa using hr
  simp [Ctx.check, hb, hl, hc, ha, hp, hu]

end

/-! ## The step always answers -/

/-- A state whose `cur` names a live split has an issuing context for every instruction. -/
theorem State.exists_sees {s : State} {c : Cur} {b : Block} {g : Group} {p : Split} (hc : s.cur = some c)
    (hb : s.block? c.blk = some b) (hg : b.group? c.gid = some g) (hp : g.split? c.age = some p) (i : Instr) :
    ∃ x, Sees i s x := by
  simp [Sees, State.ctx?, hc, hb, hg, hp]

/-- What a fetch that gives a word leaves: the issuing group has kept the word, and nothing else has changed (R228). -/
theorem State.fetch_word {s t : State} {c : Cur} {b : Block} {g : Group} {p : Split} {w : Nat}
    (h : s.fetch c b g p = .word w t) : ∃ fetched : Group → List (Nat × Word), t = s.updCur c fun g => { g with fetched := fetched g } := by
  unfold State.fetch at h
  simp only at h
  split at h
  · exact absurd h (by simp)
  · exact absurd h (by simp)
  · split at h
    · exact absurd h (by simp)
    · obtain ⟨-, rfl⟩ := Fetched.word.inj h
      exact ⟨_, rfl⟩

/-- Every row answers a next state where `cur` names a live split. -/
theorem exec_of_live {s : State} {c : Cur} {b : Block} {g : Group} {p : Split} (hc : s.cur = some c)
    (hb : s.block? c.blk = some b) (hg : b.group? c.gid = some g) (hp : g.split? c.age = some p) (i : Instr) :
    ∃ t, exec i s = .next t := by
  cases he : isEvent i with
  | true => exact exec_of_event he s
  | false =>
    obtain ⟨effect, hx⟩ := exec_eq_issue he s
    obtain ⟨x, hs⟩ := State.exists_sees hc hb hg hp i
    rw [hx]
    exact issue_of_sees hs effect

/-- An issue slot's turn answers a next state: the split whose word was fetched is live when the word is executed. -/
theorem issueAt_next (stk core slot : Nat) (c : Cur) (s : State) : ∃ t, issueAt stk core slot c s = .next t := by
  unfold issueAt
  split
  · exact ⟨_, rfl⟩
  next b hb =>
  split
  · exact ⟨_, rfl⟩
  next g hg =>
  split
  · exact ⟨_, rfl⟩
  next p hp =>
  split
  · exact ⟨_, rfl⟩
  · exact ⟨_, rfl⟩
  next w t hw =>
  split
  · exact ⟨_, rfl⟩
  next i hi =>
  obtain ⟨fetched, rfl⟩ := State.fetch_word hw
  obtain ⟨t, ht⟩ := exec_of_live (s := { s.updCur c fun g => { g with fetched := fetched g } with cur := some c }) rfl
    (State.block?_updBlock_self _ (fun _ h => h) hb) (Block.group?_updGroup_self _ (fun _ h => h) hg) hp i
  rw [ht]
  exact ⟨_, rfl⟩

/-- An act answers a next state. -/
theorem runAct_next (a : Act) (s : State) : ∃ t, runAct a s = .next t := by
  unfold runAct
  split
  · exact ⟨_, rfl⟩
  · cases a with
    | issue stk core slot =>
      dsimp only
      split
      · exact ⟨_, rfl⟩
      · exact issueAt_next ..
    | event i e =>
      dsimp only
      split
      next hi => exact exec_of_event hi _
      · exact ⟨_, rfl⟩
    | _ => exact ⟨_, rfl⟩

/-- A step answers a next state. -/
theorem step_next (s : State) : ∃ t, step s = .next t := by
  unfold step
  split
  · exact ⟨_, rfl⟩
  · exact runAct_next ..

end Sys2Proof.Machine
end

section
open Sys2Proof Sys2Proof.Machine
/-- Settles O60: every instruction is its effect under `issue`, whose checks come in the order of R78, and an event is a next state; a step
executes only for a live split. -/
theorem everyInstructionAnswers : Obligations.EveryInstructionAnswers := by
  unfold Obligations.EveryInstructionAnswers
  refine ⟨fun i s x he hs => ?answers, fun i s x he hs => ?faults, fun i s he hn => ?noIssuer, fun i s he => exec_of_event he s, step_next⟩
  all_goals obtain ⟨effect, hx⟩ := exec_eq_issue he s
  case answers =>
    rw [hx]
    exact ⟨issue_of_sees hs effect, fun f hc => issue_of_check hs hc effect, fun hc hp => issue_of_pending hs hc hp effect,
      fun r hc hp hb => issue_of_bad hs hc hp hb effect⟩
  case faults =>
    simp only [hx, ← latchRange_iff, ← chainHazard_iff, Bool.not_eq_true]
    exact ⟨fun hb => issue_of_check hs (Ctx.check_of_badOperand hb) effect,
      fun hb hl => issue_of_check hs (Ctx.check_of_latchRange hb hl) effect,
      fun hb hl hc => issue_of_check hs (Ctx.check_of_chainHazard hb hl hc) effect,
      fun hb hl hc hr => issue_of_check hs (Ctx.check_of_regRange hb hl hc hr) effect,
      fun hb hl hc hr hp hu => issue_of_check hs (Ctx.check_of_privilege hb hl hc hr hp hu) effect⟩
  case noIssuer => rw [hx]; exact issue_of_no_ctx hn effect
end

section
/-!
SUPPORT. A turn of an issue slot runs the instruction that the bytes at the PC decode to (O57): the decoder gives no event, a fetch gives
the word in memory, and no instruction reads the words that groups have fetched ahead.
-/
namespace Sys2Proof.Machine

/-! ## The decoder -/

/-- Whatever a step of the decoder gives is an instruction and no event of the table. -/
def GivesInstruction (o : Option Instr) : Prop := ∀ i, o = some i → isEvent i = false

theorem GivesInstruction.bind {α : Type} {o : Option α} {f : α → Option Instr} (h : ∀ a, GivesInstruction (f a)) :
    GivesInstruction (o >>= f) := by
  cases o with
  | none => rintro _ ⟨⟩
  | some a => exact h a

/-- The decoder gives no event: every row of the opcode map ends in an instruction. -/
theorem decodeFields_givesInstruction (f : Fields) : GivesInstruction (decodeFields f) := by
  unfold decodeFields decodeRow0 decodeRow1 decodeRow2 decodeRow3 decodeRow4 decodeRow5 decodeRow6 decodeRow7 decodeRow8 decodeRow9
    decodeRowA decodeRowB decodeRowC decodeRowD decodeRowE decodeRowF
  split
  case h_17 => rintro _ ⟨⟩
  all_goals split <;> (repeat refine GivesInstruction.bind fun _ => ?_) <;> rintro _ ⟨⟩ <;> rfl

/-- A decoded word is well formed and no event. -/
theorem wf_and_instruction_of_decodeWord {w : Nat} {i : Instr} (h : decodeWord w = .ok i) : i.wf = true ∧ isEvent i = false := by
  unfold decodeWord at h
  split at h
  next j hj =>
    split at h
    next hw =>
      obtain rfl := Except.ok.inj h
      exact ⟨hw, decodeFields_givesInstruction _ _ hj⟩
    next => simp at h
  next => simp at h

/-- The word of four bytes is their little-endian number. -/
theorem wordOfBytes_eq_leNat (b0 b1 b2 b3 : Byte) : wordOfBytes b0 b1 b2 b3 = leNat [b0, b1, b2, b3] := by
  simp only [wordOfBytes, leNat]
  omega

/-- Four bytes of device memory that decode to an instruction: their number, as a word, decodes to it. -/
theorem decodeWord_of_decode_readMem {s : State} {pa : Nat} {i : Instr} (h : decode (s.readMem pa 4) = .ok (i, [])) :
    decodeWord (BitVec.ofNat 32 (s.readNat pa 4) : Word).toNat = .ok i := by
  obtain ⟨b0, b1, b2, b3, hb⟩ : ∃ b0 b1 b2 b3, s.readMem pa 4 = [b0, b1, b2, b3] := ⟨_, _, _, _, rfl⟩
  have hlt : leNat [b0, b1, b2, b3] < 2 ^ 32 := by
    simp only [leNat]
    omega
  rw [hb, decode, wordOfBytes_eq_leNat] at h
  rw [State.readNat, hb, BitVec.toNat_ofNat, Nat.mod_eq_of_lt hlt]
  split at h
  next j hj => simpa [hj] using h
  next => simp at h

/-! ## The words fetched ahead -/

/-- The block without the words that its groups have fetched ahead. -/
def Block.unfetched (b : Block) : Block := { b with groups := b.groups.map fun g => { g with fetched := [] } }

/-- What an instruction sees, its block without the words fetched ahead. -/
def Ctx.unfetched (x : Ctx) : Ctx := { x with b := x.b.unfetched }

section
variable {s s' : State} {b : Block} {x x' : Ctx} {i : Instr}

/-! ## What an instruction reads of its block -/

theorem length_groups_unfetched : b.unfetched.groups.length = b.groups.length := by simp [Block.unfetched]

theorem Block.attachedCount_unfetched : b.unfetched.attachedCount = b.attachedCount := by
  simp [Block.attachedCount, Block.unfetched, List.filter_map, Function.comp_def]

theorem State.local?_unfetched (sp : Space) (a : Int) (n : Nat) : s.local? b.unfetched sp a n = s.local? b sp a n := by
  cases sp with
  | clu =>
    unfold State.local? State.peer
    by_cases hr : a.toNat / 2 ^ 18 = b.rank
    · have hr' : a.toNat / 2 ^ 18 = b.unfetched.rank := hr
      simp only [if_pos hr, if_pos hr']
      rfl
    · have hr' : ¬a.toNat / 2 ^ 18 = b.unfetched.rank := hr
      simp only [if_neg hr, if_neg hr']
      rfl
  | _ => rfl

theorem State.savedMate_unfetched (rank : Nat) : s.savedMate b.unfetched rank = s.savedMate b rank := by
  have hp : (s.peer b.unfetched rank).isSome = (s.peer b rank).isSome := by
    unfold State.peer
    by_cases hr : rank = b.rank
    · have hr' : rank = b.unfetched.rank := hr
      rw [if_pos hr, if_pos hr']
      rfl
    · have hr' : ¬rank = b.unfetched.rank := hr
      rw [if_neg hr, if_neg hr']
      rfl
  unfold State.savedMate
  rw [hp]
  rfl

theorem Ctx.sysReg_unfetched (k : Nat) : x.unfetched.sysReg k = x.sysReg k := by
  have hl : x.unfetched.b.groups.length = x.b.groups.length := length_groups_unfetched
  have ha : x.unfetched.b.attachedCount = x.b.attachedCount := Block.attachedCount_unfetched
  unfold Ctx.sysReg
  rw [hl, ha]
  rfl

theorem Ctx.granted_unfetched (n : Nat) : x.unfetched.granted n = x.granted n := by
  have hl : x.unfetched.b.groups.length = x.b.groups.length := length_groups_unfetched
  unfold Ctx.granted
  rw [hl]
  rfl

/-- A reading of a block that does not see the words fetched ahead, where the block stands in for one that is gone. -/
theorem read_getD_unfetched {α : Type} (f : Block → α) (hf : ∀ b : Block, f b.unfetched = f b) (o : Option Block) :
    f (o.getD b.unfetched) = f (o.getD b) := by
  cases o with
  | none => exact hf b
  | some _ => rfl

/-! ## The checks of an access -/

theorem Ctx.access3_unfetched (size : Nat) (l : List LaneAddr) : x.unfetched.access3 size l = x.access3 size l := by
  unfold Ctx.access3
  simp only [show ∀ sp a n, x.unfetched.s.local? x.unfetched.b sp a n = x.s.local? x.b sp a n from fun _ _ _ => State.local?_unfetched ..]

theorem Ctx.places_unfetched (size : Nat) (l : List LaneAddr) (g : List (LaneAddr × Checked)) :
    x.unfetched.places size l g = x.places size l g := by
  unfold Ctx.places
  simp only [show ∀ sp a n, x.unfetched.s.local? x.unfetched.b sp a n = x.s.local? x.b sp a n from fun _ _ _ => State.local?_unfetched ..]

theorem Ctx.accessWith_unfetched (data : Bool) (kind size : Nat) (l : List LaneAddr) :
    x.unfetched.accessWith data kind size l = x.accessWith data kind size l := by
  unfold Ctx.accessWith
  simp only [Ctx.access3_unfetched, Ctx.places_unfetched]
  rfl

theorem Ctx.accessTagWith_unfetched (data : Bool) (kind size : Nat) (allow : Space → Bool) (v : DWord) :
    x.unfetched.accessTagWith data kind size allow v = x.accessTagWith data kind size allow v := by
  unfold Ctx.accessTagWith
  simp only [Ctx.accessWith_unfetched]

theorem Ctx.elemPlaces_unfetched (kind n : Nat) (v : DWord) : x.unfetched.elemPlaces kind n v = x.elemPlaces kind n v := by
  unfold Ctx.elemPlaces
  simp only [Ctx.accessWith_unfetched,
    show ∀ sp a n, x.unfetched.s.local? x.unfetched.b sp a n = x.s.local? x.b sp a n from fun _ _ _ => State.local?_unfetched ..]

theorem Ctx.loadAll_unfetched (n : Nat) (l : List (Nat × Loc)) (t : State) : x.unfetched.loadAll n l t = x.loadAll n l t := by
  induction l generalizing t with
  | nil => rfl
  | cons y r ih =>
    unfold Ctx.loadAll
    simp only [ih]
    rfl

theorem Ctx.loadAt_unfetched (size : Nat) (l : List LaneAddr) (vregs : List Nat) (put : List (Nat × List Byte) → Pend) :
    x.unfetched.loadAt size l vregs put = x.loadAt size l vregs put := by
  unfold Ctx.loadAt Ctx.access
  simp only [Ctx.accessWith_unfetched, Ctx.loadAll_unfetched]
  rfl

theorem Ctx.store_unfetched (sp : Space) (d : BitVec 7) (size : Nat) (k : BitVec 5) (data : Nat → List Byte) :
    x.unfetched.store sp d size k data = x.store sp d size k data := by
  unfold Ctx.store Ctx.access
  simp only [Ctx.accessWith_unfetched]
  rfl

theorem Ctx.atomicOp_unfetched (op : Nat) (dest : Option Nat) (a : AddrRef) (c : Src) :
    x.unfetched.atomicOp op dest a c = x.atomicOp op dest a c := by
  unfold Ctx.atomicOp Ctx.access
  simp only [Ctx.accessWith_unfetched]
  rfl

theorem Block.readPlaces_unfetched (early : List (Loc × Bool × List Byte)) (l : List (Nat × Loc)) (t : State) :
    b.unfetched.readPlaces early l t = b.readPlaces early l t := by
  induction l generalizing t with
  | nil => rfl
  | cons y r ih =>
    unfold Block.readPlaces
    simp only [ih]
    rfl

theorem Ctx.scanFloat_unfetched (a : Src) (l : List Nat) (prev : Word) (g : List Word) :
    x.unfetched.scanFloat a l prev g = x.scanFloat a l prev g := by
  induction l generalizing prev g with
  | nil => rfl
  | cons k r ih =>
    unfold Ctx.scanFloat
    simp only [ih]
    rfl

/-! ## The ranges of an engine -/

theorem State.enginePiece_unfetched (sp : Space) (kind a n : Nat) : s.enginePiece b.unfetched sp kind a n = s.enginePiece b sp kind a n := by
  unfold State.enginePiece
  simp only [State.local?_unfetched]
  rfl

theorem State.enginePieces_unfetched (sp : Space) (kind : Nat) (l : List (Nat × Nat)) (t : State) :
    State.enginePieces b.unfetched sp kind l t = State.enginePieces b sp kind l t := by
  induction l generalizing t with
  | nil => rfl
  | cons y r ih =>
    unfold State.enginePieces
    simp only [ih, State.enginePiece_unfetched]

theorem State.engineRange_unfetched (v : DWord) (n : Nat) (write : Bool) : s.engineRange b.unfetched v n write = s.engineRange b v n write := by
  unfold State.engineRange
  simp only [State.enginePieces_unfetched]

theorem Ctx.startMulticast_unfetched (t : State) (dst src : DWord) (len mask rank : Nat) (bar : Option Nat) :
    x.unfetched.startMulticast t dst src len mask rank bar = x.startMulticast t dst src len mask rank bar := by
  have hr : ∀ v write, t.engineRange x.unfetched.b v len write = t.engineRange x.b v len write := fun _ _ => State.engineRange_unfetched ..
  unfold Ctx.startMulticast State.multicastRange
  simp only [hr]
  rfl

/-! ## Barriers and locks -/

theorem Ctx.barAt_unfetched (clu : Bool) (v : DWord) : x.unfetched.barAt clu v = x.barAt clu v := by
  have hs : x.unfetched.savedBar v = x.savedBar v := by
    unfold Ctx.savedBar
    simp only [show ∀ r, x.unfetched.s.savedMate x.unfetched.b r = x.s.savedMate x.b r from fun _ => State.savedMate_unfetched ..]
  unfold Ctx.barAt Ctx.accessTag
  rw [hs]
  simp only [Ctx.accessTagWith_unfetched]
  rfl

theorem Ctx.onBarrier_unfetched (legal : Bool) (v : DWord) {k k' : Nat → State → Res} (hk : ∀ off t, k' off t = k off t) :
    x.unfetched.onBarrier i legal v k' = x.onBarrier i legal v k := by
  obtain rfl : k' = k := funext₂ hk
  unfold Ctx.onBarrier
  simp only [Ctx.barAt_unfetched]
  rfl

theorem Ctx.releaseFirst_unfetched (rel : Nat) {k k' : State → Res} (hk : ∀ t, k' t = k t) :
    x.unfetched.releaseFirst rel k' = x.releaseFirst rel k := by
  obtain rfl : k' = k := funext hk
  rfl

theorem Ctx.readBar_blockIn_unfetched (t : State) (off : Nat) : t.readBar (x.unfetched.blockIn t) off = t.readBar (x.blockIn t) off :=
  read_getD_unfetched (fun b => t.readBar b off) (fun _ => rfl) _

theorem Ctx.barView_blockIn_unfetched (t : State) : (x.unfetched.blockIn t).barView = (x.blockIn t).barView :=
  read_getD_unfetched Block.barView (fun _ => rfl) _

theorem Ctx.atBlockBarrier_unfetched (t : State) (f : Bar → Bar) : x.unfetched.atBlockBarrier t f = x.atBlockBarrier t f := by
  unfold Ctx.atBlockBarrier
  rw [Ctx.barView_blockIn_unfetched]
  rfl

theorem Ctx.lockAt_unfetched (v : DWord) {k k' : Nat → Res} (hk : ∀ pa, k' pa = k pa) : x.unfetched.lockAt v k' = x.lockAt v k := by
  obtain rfl : k' = k := funext hk
  unfold Ctx.lockAt
  simp only [Ctx.accessTagWith_unfetched]
  rfl

theorem Ctx.qxset_unfetched (d a c : BitVec 6) : x.unfetched.qxset i d a c = x.qxset i d a c := by
  have hw : ∀ v addr, x.unfetched.writeDescriptor d v addr = x.writeDescriptor d v addr := fun v addr => by
    unfold Ctx.writeDescriptor Ctx.accessTag
    simp only [Ctx.accessTagWith_unfetched]
    rfl
  unfold Ctx.qxset
  simp only [hw]
  rfl

/-- Two contexts that differ in the words fetched ahead alone: the instruction ends in the same, if its effect does not read them. -/
theorem issue_congr_of_unfetched {effect : Ctx → Res} (he : ∀ x : Ctx, effect x.unfetched = effect x) (h : s.ctx? i = some x)
    (h' : s'.ctx? i = some x') (hx : x.unfetched = x'.unfetched) : issue i s effect = issue i s' effect := by
  have heffect : effect x = effect x' := by rw [← he x, hx, he x']
  have hread : ∀ {α : Type} (f : Ctx → α), f x.unfetched = f x'.unfetched := fun f => congrArg f hx
  have hcheck : x.check i = x'.check i := hread (Ctx.check · i)
  have hpending : x.pending i = x'.pending i := hread (Ctx.pending · i)
  have hbad : x.badRegister i = x'.badRegister i := hread (Ctx.badRegister · i)
  have hwait : x.waitAs (x.p.operandWait i) = x'.waitAs (x'.p.operandWait i) := hread (fun x : Ctx => x.waitAs (x.p.operandWait i))
  have htrap : x.s.takeTrap x.c = x'.s.takeTrap x'.c := hread (fun x : Ctx => x.s.takeTrap x.c)
  have hretire : x.retire = x'.retire := hread Ctx.retire
  have hleave : x.leave = x'.leave := hread Ctx.leave
  simp only [issue, h, h', heffect, hcheck, hpending, hbad, hwait, htrap, hretire, hleave]

/-- No instruction reads what the groups of its block have fetched ahead: most effects name neither the groups nor an operation that takes
the block apart, and the others read them through the shared operations above. -/
theorem exec_congr_of_unfetched (hi : isEvent i = false) (h : s.ctx? i = some x) (h' : s'.ctx? i = some x')
    (hx : x.unfetched = x'.unfetched) : exec i s = exec i s' := by
  unfold exec
  cases i with
  | splitRotation | loadDataReturn | longResultWrite | atomicReply | storeQueueDrain | quantumReductionPerform | pageWalkComplete |
  resumeRetry | resumeHandler | resumeEndBlock | resumeEndGrid | preemptOneBlock | preemptLaunch | releaseHeldBlocks |
  preemptionRequest | preemptTimeout | preemptSave | blockRestore | yieldRequest | launchGrid | launchGraph | heldRecordReady |
  energyRefill | blockPlacement | blockSteal | clusterForage | blockRetire | graphNodeLaunch | continuationSpawn | watchdog |
  throttleChange | remoteArrival | copySectorLand | copymDelivery | matrixOpComplete | matrixGate | matrixWakeDone | portReserve |
  portFill | portTake | portPeek | portBinding | portCloseNotice | putAcknowledge | queueWake | queueWaitRetry | superRefill |
  depositLanding | svcAdd | svcSignedMin | svcSignedMax | svcUnsignedMin | svcUnsignedMax | svcAnd | svcOr | svcXor | svcExchange |
  svcCompareAndSwap | svcF32Add | svcLoad | svcUndefinedOp | messageResend | flitReceive | replayTimeout | retrainComplete |
  lctlRetrain | connreqWrite | reconfigDrainEnd | reconfigSwitchDone | outboxDrain | evstatOvfClear | powerSample |
  powerClampDecision | powerOnBoot | recoveryImage | attestationRequest | computeDieResetEnter | computeDieResetExit | scrubPass |
  checkpointStart | checkpointDone | tlbShootdown | hostCoherentAccess | pcieDma | subscriptionBatchTimeout | subscriptionBatchLand |
  shmWrite | descriptorWrite | prgoReplayOne | prgoReplayTwo | rootinvWrite | lrinvWrite | entryLatchRead | registerWrite |
  queueAnswerArrival | ratedConditionExcursion | duplicateAndCompareMismatch =>
    exact absurd hi (by decide)
  | srd | grow | scan | pref | copym | qgets | lrload | cwait =>
    refine issue_congr_of_unfetched (fun x => ?_) h h' hx
    simp only [Ctx.sysReg_unfetched, Ctx.granted_unfetched, Ctx.scanFloat_unfetched, Ctx.access3_unfetched, Ctx.startMulticast_unfetched,
      Ctx.elemPlaces_unfetched, Ctx.accessTag, Ctx.accessTagWith_unfetched]
    rfl
  | ld8 | ld16 | ld32 | ld64 | ld128 | ld8s | ld16s | ldu => exact issue_congr_of_unfetched (fun x => Ctx.loadAt_unfetched ..) h h' hx
  | st8 | st16 | st32 | st64 | st128 => exact issue_congr_of_unfetched (fun x => Ctx.store_unfetched ..) h h' hx
  | aadd | amin | amax | aand | aor | axor | axchg | acas | afadd | radd | rmin | rmax | rfadd =>
    exact issue_congr_of_unfetched (fun x => Ctx.atomicOp_unfetched ..) h h' hx
  | lock | unlock => exact issue_congr_of_unfetched (fun x => Ctx.lockAt_unfetched _ fun _ => rfl) h h' hx
  | qxsetDropVqn | qxsetDropAsid | qxsetDropAll | qxsetWriteDescriptor =>
    exact issue_congr_of_unfetched (fun x => Ctx.qxset_unfetched ..) h h' hx
  | barinit =>
    refine issue_congr_of_unfetched (fun x => Ctx.onBarrier_unfetched _ _ fun off t => ?_) h h' hx
    rw [show x.unfetched.b.attachedCount = x.b.attachedCount from Block.attachedCount_unfetched]
    rfl
  | bararr | barexp | barwait | bartry =>
    refine issue_congr_of_unfetched (fun x => Ctx.onBarrier_unfetched _ _ fun off t => ?_) h h' hx
    simp only [Ctx.readBar_blockIn_unfetched]
    rfl
  | barcont a b =>
    refine issue_congr_of_unfetched (fun x => ?_) h h' hx
    cases hc : x.contFail (.barcont a b) (x.rds b).toNat with
    | some t => simp only [hc, show x.unfetched.contFail (.barcont a b) (x.unfetched.rds b).toNat = some t from hc]
    | none =>
      simp only [hc, show x.unfetched.contFail (.barcont a b) (x.unfetched.rds b).toNat = none from hc, Ctx.readBar_blockIn_unfetched]
      exact Ctx.onBarrier_unfetched _ _ fun _ _ => rfl
  | remarr =>
    refine issue_congr_of_unfetched (fun x => ?_) h h' hx
    have hb : ∀ (t : State) (o : Option Block) (off : Nat), t.readBar (o.getD x.unfetched.b) off = t.readBar (o.getD x.b) off :=
      fun t o off => read_getD_unfetched (fun b => t.readBar b off) (fun _ => rfl) o
    simp only [Ctx.barAt_unfetched, hb]
    rfl
  | bsync =>
    refine issue_congr_of_unfetched (fun x => Ctx.releaseFirst_unfetched _ fun t => ?_) h h' hx
    simp only [Ctx.barView_blockIn_unfetched, Ctx.atBlockBarrier_unfetched]
    rfl
  | bwait =>
    refine issue_congr_of_unfetched (fun x => ?_) h h' hx
    have hs : ∀ t, (x.unfetched.blockIn t).cbseq = (x.blockIn t).cbseq := fun _ => read_getD_unfetched Block.cbseq (fun _ => rfl) _
    have hd : ∀ t, (x.unfetched.blockIn t).cbdone = (x.blockIn t).cbdone := fun _ => read_getD_unfetched Block.cbdone (fun _ => rfl) _
    simp only [hs, hd]
    rfl
  | qputs =>
    refine issue_congr_of_unfetched (fun x => ?_) h h' hx
    have hr : x.unfetched.b.readPlaces = x.b.readPlaces := by
      funext early l t
      exact Block.readPlaces_unfetched ..
    simp only [Ctx.elemPlaces_unfetched, hr]
    rfl
  | _ => exact issue_congr_of_unfetched (fun _ => rfl) h h' hx
end
/-! ## The turn -/

section
variable {s : State} {c : Cur} {b : Block} {g : Group} {p : Split} {i : Instr}

/-- A fetch with X of a word that is correctable and has not been fetched ahead gives the word in memory (R228). -/
theorem State.fetch_of_translated {pa : Nat} (hva : s.checkVa p.walked b.stk b.core (s.launchOf b) p.pc.toNat kindX = .ok pa)
    (hp : s.poisonAt (.glb pa) 4 = none) (hf : ∀ e ∈ g.fetched, e.1 ≠ pa) :
    let w : Word := BitVec.ofNat 32 (s.readNat pa 4)
    s.fetch c b g p = .word w.toNat (s.updCur c fun g => { g with fetched := (pa, w) :: g.fetched.filter fun e => !(e.1 == pa) }) := by
  have hn : (g.fetched.find? fun e => e.1 == pa) = none := by simpa using hf
  simp [State.fetch, hva, hp, State.codeWord, hn]

/-- The group that an instruction sees: a new turn closes its open chain (R48). -/
def Group.asSeen (g : Group) (p : Split) (i : Instr) : Group :=
  if chainPos g p (useOf p.mode p.mmode i).lat = 0 then { g with chain := none } else g

/-- What the issuing split sees after its group has kept fetched words. -/
theorem State.ctx?_of_fetched (fetched : Group → List (Nat × Word)) (hb : s.block? c.blk = some b) (hg : b.group? c.gid = some g)
    (hp : g.split? c.age = some p) :
    let keep := fun g : Group => { g with fetched := fetched g }
    State.ctx? { s.updCur c keep with cur := some c } i = some
      { s := ({ s with cur := some c } : State).updCur c fun _ => (keep g).asSeen p i, c := c, b := b.updGroup c.gid keep,
        g := (keep g).asSeen p i, p := p, l := s.launchOf b, pos := chainPos g p (useOf p.mode p.mmode i).lat } := by
  intro keep
  have hb' : State.block? { s.updCur c keep with cur := some c } c.blk = some (b.updGroup c.gid keep) :=
    State.block?_updBlock_self _ (fun _ h => h) hb
  have hg' : (b.updGroup c.gid keep).group? c.gid = some (keep g) := Block.group?_updGroup_self _ (fun _ h => h) hg
  have hp' : (keep g).split? c.age = some p := hp
  have hu : State.updCur { s.updCur c keep with cur := some c } c (fun _ => (keep g).asSeen p i) =
      ({ s with cur := some c } : State).updCur c fun _ => (keep g).asSeen p i :=
    State.updCur_updCur { s with cur := some c } c keep _ fun _ h => h
  simp only [State.ctx?, hb', hg', hp']
  exact congrArg some (congrArg (Ctx.mk · c _ _ p _ _) hu)

/-- Words fetched ahead by other groups of the issuing split's identifier make no difference to its instruction. -/
theorem exec_congr_of_fetched {fetched fetched' : Group → List (Nat × Word)} (hi : isEvent i = false) (hb : s.block? c.blk = some b)
    (hg : b.group? c.gid = some g) (hp : g.split? c.age = some p) (hf : fetched g = fetched' g) :
    exec i { s.updCur c fun g => { g with fetched := fetched g } with cur := some c } =
      exec i { s.updCur c fun g => { g with fetched := fetched' g } with cur := some c } := by
  refine exec_congr_of_unfetched hi (State.ctx?_of_fetched fetched hb hg hp) (State.ctx?_of_fetched fetched' hb hg hp) ?_
  have hu : ∀ fetched : Group → List (Nat × Word), (b.updGroup c.gid fun g => { g with fetched := fetched g }).unfetched = b.unfetched :=
    fun fetched => by
      simp only [Block.unfetched, Block.updGroup, List.map_map, Block.mk.injEq, true_and, and_true]
      refine List.map_congr_left fun g _ => ?_
      simp only [Function.comp_apply]
      split <;> rfl
  simp only [Ctx.unfetched, hu, hf]
end

end Sys2Proof.Machine
end

section
open Sys2Proof Sys2Proof.Machine
/-- Settles O57: the turn fetches the word at the PC, which decodes to the instruction; what differs between the fetch and the statement is
only what groups of the same identifier, which no instruction reads, have fetched ahead. -/
theorem stepRunsDecodedInstruction : Obligations.StepRunsDecodedInstruction := by
  unfold Obligations.StepRunsDecodedInstruction
  intro s stk core slot rest c s1 b g p pa i hagenda hheld hturn hb hg hp hva hpoison hfetched hdecode word s2
  have hword := decodeWord_of_decode_readMem hdecode
  obtain ⟨hwf, hi⟩ := wf_and_instruction_of_decodeWord hword
  have hkept : (g.fetched.filter fun e => !(e.1 == pa)) = g.fetched := List.filter_eq_self.mpr (by simpa using hfetched)
  have hexec : exec i { s1.updCur c fun g => { g with fetched := (pa, word) :: g.fetched.filter fun e => !(e.1 == pa) } with cur := some c } =
      exec i s2 :=
    exec_congr_of_fetched (fetched := fun g => (pa, word) :: g.fetched.filter fun e => !(e.1 == pa))
      (fetched' := fun g => (pa, word) :: g.fetched) hi hb hg hp (by simp only [hkept])
  have hstep : step s = match exec i s2 with
      | .next t => .next (t.endIssue stk core slot c)
      | .fault r => .fault r
      | .refused r => .refused r := by
    rw [← hexec]
    simp only [step, hagenda, runAct, hheld, Bool.false_and, Bool.false_eq_true, if_false, hturn, issueAt, hb, hg, hp,
      State.fetch_of_translated hva hpoison hfetched, hword]
    rfl
  exact ⟨hwf, fun t ht => by rw [hstep, ht], fun r hr => by rw [hstep, hr], fun r hr => by rw [hstep, hr]⟩
end

section
/-!
SUPPORT. What stays when the operations of the model run (O53). `State.outline` keeps of each block what a function picks, and the
launches, admissions, running graphs, pre-emption records and the next identifier. Ports, records, translation and the checks of launch
records keep the whole block; an acquire, the register pool and the locks keep all of it but the groups and the block barrier; stores,
barriers and the end of a group keep its identifier and its request.
-/
namespace Sys2Proof.Machine

/-! ## The outline -/

/-- What the events of launches and of pre-emption speak of: a function of each block, the launches and the lists around them. -/
def State.outline {α : Type} (tag : Block → α) (s : State) : List α × List Launch × List Admit × List Inst × List PreReq × Nat :=
  (s.blocks.map tag, s.launches, s.admits, s.insts, s.prereqs, s.nextUid)

/-- A function of a block that does not look at its groups and its block barrier. -/
def Blind {α : Type} (tag : Block → α) : Prop := ∀ b gs w, tag { b with groups := gs, bar := w } = tag b

/-- A block without its groups and its block barrier. -/
def Block.shell (b : Block) : Block := { b with groups := [], bar := 0 }

/-- The identifier of a block and the request for its pre-emption. -/
def Block.badge (b : Block) : Nat × Option Preempt := (b.uid, b.preempt)

@[simp] theorem blind_shell : Blind Block.shell := fun _ _ _ => rfl
@[simp] theorem blind_badge : Blind Block.badge := fun _ _ _ => rfl

section
variable {α : Type} {tag : Block → α} {s t : State}

@[simp] theorem State.outline_mk
    {mem' poisoned' badCells' badLines' blocks' launches' admits' insts' parts' areas' prereqs' dies' cores' ports' links'
     sources' evPq' msiPending' evmsi' power' boot' ckpt' iommu' imsics' aplic' dma' pkg' conngrp' connmap' connbusy' jcfg'
     time' refills' epkg' transit' remote' subnet' net' kept' replies' nextLoad' qcache' rcache' lcache' roots' roots2' latched'
     hostOut' nextUid' nextReq' waitAge' cur' ev' agenda' tick'} :
    State.outline tag
      ⟨mem', poisoned', badCells', badLines', blocks', launches', admits', insts', parts', areas', prereqs', dies', cores',
       ports', links', sources', evPq', msiPending', evmsi', power', boot', ckpt', iommu', imsics', aplic', dma', pkg',
       conngrp', connmap', connbusy', jcfg', time', refills', epkg', transit', remote', subnet', net', kept', replies',
       nextLoad', qcache', rcache', lcache', roots', roots2', latched', hostOut', nextUid', nextReq', waitAge', cur', ev',
       agenda', tick'⟩ =
    (blocks'.map tag, launches', admits', insts', prereqs', nextUid') :=
  rfl

/-- The parts of the outline are the outline. -/
@[simp] theorem State.outline_fold : (s.blocks.map tag, s.launches, s.admits, s.insts, s.prereqs, s.nextUid) = s.outline tag := rfl

theorem State.outline_ext (h : t.outline tag = s.outline tag) :
    t.blocks.map tag = s.blocks.map tag ∧ t.launches = s.launches ∧ t.admits = s.admits ∧ t.insts = s.insts ∧ t.prereqs = s.prereqs ∧
      t.nextUid = s.nextUid := by
  simpa only [State.outline, Prod.mk.injEq] using h

@[simp] theorem State.outline_ite {c : Prop} [Decidable c] :
    (if c then s else t).outline tag = if c then s.outline tag else t.outline tag := apply_ite ..

/-- A fold of steps that keep the outline. -/
@[simp] theorem State.outline_foldl {β : Type} {f : State → β → State} (hf : ∀ t a, (f t a).outline tag = t.outline tag) (l : List β) :
    (l.foldl f s).outline tag = s.outline tag := by
  induction l generalizing s with
  | nil => rfl
  | cons a r ih => exact ih.trans (hf s a)

/-- A change of blocks that a function does not see. -/
theorem State.outline_updBlock {u f} (hf : ∀ b, tag (f b) = tag b) : (s.updBlock u f).outline tag = s.outline tag := by
  have hb : (s.updBlock u f).blocks.map tag = s.blocks.map tag := by
    simp only [State.updBlock, List.map_map]
    refine List.map_congr_left fun b _ => ?_
    simp only [Function.comp]
    split
    · exact hf b
    · rfl
  exact congrArg (·, s.launches, s.admits, s.insts, s.prereqs, s.nextUid) hb

@[simp] theorem State.outline_updStack {k f} : (s.updStack k f).outline tag = s.outline tag := rfl
@[simp] theorem State.outline_updCore {stk core f} : (s.updCore stk core f).outline tag = s.outline tag := rfl
@[simp] theorem State.outline_updPart {p f} : (s.updPart p f).outline tag = s.outline tag := rfl
@[simp] theorem State.outline_updPort {w f} : (s.updPort w f).outline tag = s.outline tag := rfl
@[simp] theorem State.outline_updSource {k f} : (s.updSource k f).outline tag = s.outline tag := rfl
@[simp] theorem State.outline_writeMem {pa bytes} : (s.writeMem pa bytes).outline tag = s.outline tag := rfl

/-! ## Ports and records -/

@[simp] theorem State.outline_setDesc {w pq d} : (s.setDesc w pq d).outline tag = s.outline tag := rfl

@[simp] theorem State.outline_writeSram {w at_ bytes} : (s.writeSram w at_ bytes).outline tag = s.outline tag := rfl

@[simp] theorem State.outline_writeCells {w d seq n data} : (s.writeCells w d seq n data).outline tag = s.outline tag := by
  induction n generalizing s seq data with
  | zero => rfl
  | succ n ih =>
    unfold State.writeCells
    rw [ih]
    split <;> rfl

@[simp] theorem State.outline_settleReply {y} : (s.settleReply y).outline tag = s.outline tag := by
  unfold State.settleReply
  split
  · split <;> rfl
  · rfl

@[simp] theorem State.outline_post {w dst out a} : (s.post w dst out a).outline tag = s.outline tag :=
  State.outline_settleReply

@[simp] theorem State.outline_sendWakes {w l} : (State.sendWakes w l s).outline tag = s.outline tag := by
  induction l generalizing s with
  | nil => rfl
  | cons x r ih => exact ih.trans State.outline_post

@[simp] theorem State.outline_wakeAll {w l} : (s.wakeAll w l).outline tag = s.outline tag := State.outline_sendWakes

@[simp] theorem State.outline_settleDesc {w pq old new} : (s.settleDesc w pq old new).outline tag = s.outline tag := by
  unfold State.settleDesc
  simp

@[simp] theorem State.outline_msi {old} : (s.msi old).outline tag = s.outline tag := by
  unfold State.msi
  simp only
  split <;> rfl

@[simp] theorem State.outline_changeDesc {w pq f} : (s.changeDesc w pq f).outline tag = s.outline tag := by
  unfold State.changeDesc
  simp

@[simp] theorem State.outline_refillCells {w d l} : (State.refillCells w d l s).outline tag = s.outline tag := by
  induction l generalizing s with
  | nil => rfl
  | cons c r ih => exact ih

@[simp] theorem State.outline_refill {w pq} : (s.refill w pq).outline tag = s.outline tag := by simp [State.refill]

@[simp] theorem State.outline_fillCells {w pq seq data} : (s.fillCells w pq seq data).outline tag = s.outline tag := by
  simp [State.fillCells]

theorem State.outline_putElement {w pq prod data} (h : s.putElement w pq prod data = some t) : t.outline tag = s.outline tag := by
  unfold State.putElement at h
  simp only [Option.ite_none_right_eq_some, Option.some.injEq] at h
  simp [← h.2]

@[simp] theorem State.outline_takeElement {w pq seq} : (s.takeElement w pq seq).2.outline tag = s.outline tag := by
  simp only [State.takeElement, State.outline_changeDesc]

@[simp] theorem State.outline_setOvf {k v} : (s.setOvf k v).outline tag = s.outline tag := by
  unfold State.setOvf
  split <;> rfl

theorem State.outline_putRecord {k w} (h : s.putRecord k w = some t) : t.outline tag = s.outline tag := by
  unfold State.putRecord at h
  split at h
  · exact State.outline_putElement h
  · simp at h

theorem State.outline_sendRecord {k w} (h : s.sendRecord k w = some t) : t.outline tag = s.outline tag := by
  unfold State.sendRecord at h
  simp only at h
  split at h
  · next u hu =>
    split at hu
    · cases h
      exact State.outline_putRecord hu
    · simp at hu
  · split at h
    · cases h
      rfl
    · split at h
      · simp at h
      · cases h
        simp

@[simp] theorem State.outline_record {k r} : (s.record k r).outline tag = s.outline tag := by
  unfold State.record
  cases h : s.sendRecord k (r.word (s.recordTime r)) with
  | none => rfl
  | some t => exact State.outline_sendRecord h

@[simp] theorem State.outline_countFault {stk cause} : (s.countFault stk cause).outline tag = s.outline tag := rfl

theorem State.outline_putLog {w element} (h : s.putLog w element = some t) : t.outline tag = s.outline tag := by
  unfold State.putLog at h
  split at h
  · exact State.outline_putElement h
  · simp at h

theorem State.outline_log {w m op reason seq data} (h : s.log w m op reason seq data = some t) : t.outline tag = s.outline tag := by
  unfold State.log at h
  simp only at h
  split at h
  · exact State.outline_putLog h
  · obtain ⟨u, hu, hv⟩ := Option.bind_eq_some_iff.mp h
    exact (State.outline_putLog hv).trans (State.outline_putLog hu)

@[simp] theorem State.outline_noticeOf {b gid g cause val} : (s.noticeOf b gid g cause val).outline tag = s.outline tag := by
  simp [State.noticeOf]

@[simp] theorem State.outline_notice {b gid cause val} : (s.notice b gid cause val).outline tag = s.outline tag :=
  State.outline_noticeOf

@[simp] theorem State.outline_dropWaiters {p} : (s.dropWaiters p).outline tag = s.outline tag := rfl

@[simp] theorem State.outline_sendMsg {m} : (s.sendMsg m).outline tag = s.outline tag := rfl

@[simp] theorem State.outline_closeNotice {who blk gid n hd first k unbind} :
    (s.closeNotice who blk gid n hd first k unbind).outline tag = s.outline tag := by
  unfold State.closeNotice
  simp only
  split
  · rfl
  · generalize ho : State.log _ _ _ _ _ _ _ = o
    cases o with
    | none => rfl
    | some u => exact State.outline_log ho

/-! ## Translation and the checks of launch records -/

theorem outline_walkTable {ext bad xlat va level top table y}
    (hx : ∀ s a y, xlat s a = .ok y → y.2.outline tag = s.outline tag)
    (h : walkTable ext bad xlat top va level table s = .ok y) : y.2.outline tag = s.outline tag := by
  induction level generalizing s top table with
  | zero =>
    unfold walkTable at h
    simp only at h
    split at h
    · simp at h
    · next pa u hu =>
      have := hx _ _ _ hu
      split at h <;> simp_all
      subst h
      exact this
  | succ n ih =>
    unfold walkTable at h
    simp only at h
    split at h
    · simp at h
    · next pa u hu =>
      have := hx _ _ _ hu
      split at h
      · cases h
        exact this
      · next hn =>
        cases hn
        exact (ih h).trans this
      · simp at h

@[simp] theorem State.outline_setAD {f write} : (s.setAD f write).2.outline tag = s.outline tag := by
  unfold State.setAD
  simp only
  split <;> split <;> rfl

theorem State.outline_stage2 {ext root gpa kind y} (h : s.stage2 ext root gpa kind = .ok y) : y.2.2.outline tag = s.outline tag := by
  unfold State.stage2 at h
  split at h
  · simp at h
  · split at h
    · simp at h
    · next f u hu =>
      have hu' : u.outline tag = s.outline tag := outline_walkTable (fun _ _ _ hx => by cases hx; rfl) hu
      simp only at h
      split at h
      · cases h
        exact State.outline_setAD.trans hu'
      · simp at h

@[simp] theorem State.outline_walk {ext asid vmid va kind priv} :
    (s.walk ext asid vmid va kind priv).2.outline tag = s.outline tag := by
  unfold State.walk
  split
  · rfl
  · simp only
    split
    · rfl
    · split
      · rfl
      · next r2 _ _ _ f t ht =>
        have h1 : t.outline tag = s.outline tag := by
          refine outline_walkTable (fun s a y hx => ?_) ht
          split at hx
          · split at hx
            next hst =>
              cases hx
              exact State.outline_stage2 hst
            next => simp at hx
          · cases hx
            rfl
        split
        · exact h1
        · split
          · split
            next => exact State.outline_setAD.trans h1
            next hst => exact (State.outline_stage2 hst).trans (State.outline_setAD.trans h1)
          · exact State.outline_setAD.trans h1

@[simp] theorem State.outline_portTranslate {l va kind} : (s.portTranslate l va kind).2.outline tag = s.outline tag := by
  unfold State.portTranslate
  simp only
  split
  · rfl
  · split
    · rfl
    · split <;> simp

@[simp] theorem State.outline_rootEntry {part asid} : (s.rootEntry part asid).2.outline tag = s.outline tag := rfl

@[simp] theorem State.outline_layoutRecord {core part asid slot} : (s.layoutRecord core part asid slot).2.outline tag = s.outline tag := by
  unfold State.layoutRecord
  simp only
  split <;> rfl

@[simp] theorem State.outline_queueEntry {port part asid vqn} : (s.queueEntry port part asid vqn).2.outline tag = s.outline tag := by
  unfold State.queueEntry
  simp only
  split <;> rfl

@[simp] theorem State.outline_readVa {l kind fuel va n} : (State.readVa l kind fuel va n s).2.outline tag = s.outline tag := by
  induction fuel generalizing s va n with
  | zero => rfl
  | succ fuel ih =>
    unfold State.readVa
    simp only
    split
    · rfl
    · split
      · simp
      · split <;> simp [ih]

@[simp] theorem State.outline_readSpan {l kind va n} : (s.readSpan l kind va n).2.outline tag = s.outline tag := State.outline_readVa

@[simp] theorem State.outline_recordLayout {l} : (s.recordLayout l).2.outline tag = s.outline tag := by
  unfold State.recordLayout
  split
  · simp only
    split <;> simp
  · rfl

@[simp] theorem State.outline_recordQueue {l} : (s.recordQueue l).2.outline tag = s.outline tag := by
  unfold State.recordQueue
  simp only
  split <;> simp

@[simp] theorem State.outline_checkGrid {l} : (s.checkGrid l).2.outline tag = s.outline tag := by
  have hs : (((s.readSpan l kindR (l.fld 248 192) l.parBytes).2.readSpan l kindR (l.fld 312 256) (32 * l.fld 511 496)).2.readSpan
      l kindX l.entry 4).2.outline tag = s.outline tag := by simp
  unfold State.checkGrid
  split
  · rfl
  · split
    · rfl
    · split
      · rfl
      · simp only
        split
        · split
          · exact hs
          · split
            · exact hs
            · split
              · simp
              · split
                · simp
                · split
                  · split <;> simp
                  · simp
        · exact hs

/-- The check stands under a name of its own, so that no step of the proof evaluates a check on a record. -/
@[simp] theorem State.outline_checkTemplates {l nodes} : (State.checkTemplates l nodes s).2.outline tag = s.outline tag := by
  obtain ⟨check, hc⟩ : ∃ f, f = State.checkGrid := ⟨_, rfl⟩
  have hg : ∀ t x, (check t x).2.outline tag = t.outline tag := by simp [hc]
  delta State.checkTemplates State.checkTemplates._f
  rw [← hc]
  induction nodes generalizing s with
  | nil => rfl
  | cons e r ih =>
    dsimp only
    split
    · exact hg _ _
    · exact (ih).trans (hg _ _)

@[simp] theorem State.outline_copyGraph {l seq} : (s.copyGraph l seq).2.outline tag = s.outline tag := by
  have h1 : ∀ {kind va n}, (s.readSpan l kind va n).2.outline tag = s.outline tag := State.outline_readSpan
  have h2 : ∀ {kind va n kind' va' n'}, ((s.readSpan l kind va n).2.readSpan l kind' va' n').2.outline tag = s.outline tag :=
    State.outline_readSpan.trans h1
  have h3 : ∀ {kind va n kind' va' n' nodes},
      (State.checkTemplates l nodes ((s.readSpan l kind va n).2.readSpan l kind' va' n').2).2.outline tag = s.outline tag :=
    State.outline_checkTemplates.trans h2
  unfold State.copyGraph
  simp only
  split
  · exact h1
  · split
    · exact h1
    · split
      · exact h1
      · split
        · exact h2
        · split
          · exact h2
          · split
            · exact h3
            · split <;> exact h3

@[simp] theorem State.outline_checkGraph {l seq} : (s.checkGraph l seq).2.outline tag = s.outline tag := by
  unfold State.checkGraph
  split
  · rfl
  · split
    · rfl
    · simp only
      split
      · simp
      · split
        · split
          · simp
          · split <;> simp
        · split
          · simp
          · split <;> simp

/-! ## Completion and errors -/

@[simp] theorem State.outline_cpPut {pkg win pq dtag kind vqn data} :
    (s.cpPut pkg win pq dtag kind vqn data).outline tag = s.outline tag := rfl

@[simp] theorem State.outline_putCompletion {l status reason} : (s.putCompletion l status reason).outline tag = s.outline tag := by
  unfold State.putCompletion
  split <;> simp

@[simp] theorem State.outline_recordError {l reason} : (s.recordError l reason).outline tag = s.outline tag := by
  unfold State.recordError
  split
  · simp only
    split <;> simp
  · simp

@[simp] theorem State.outline_openNodes {l pqs} : (State.openNodes l pqs s).outline tag = s.outline tag := by
  induction pqs generalizing s with
  | nil => rfl
  | cons y r ih => exact ih.trans State.outline_changeDesc

@[simp] theorem State.outline_takeMany {w pq n} : (State.takeMany w pq n s).2.outline tag = s.outline tag := by
  induction n generalizing s with
  | zero => rfl
  | succ n ih =>
    unfold State.takeMany
    split
    · rfl
    · exact ih.trans State.outline_takeElement

/-! ## Acquires, the register pool and the locks -/

section
variable (ht : Blind tag)
include ht

theorem State.outline_updGroup {u g f} : (s.updGroup u g f).outline tag = s.outline tag :=
  State.outline_updBlock fun b => ht b _ b.bar

theorem State.outline_hear {u g scope} : (s.hear u g scope).outline tag = s.outline tag := by
  unfold State.hear
  split
  · rfl
  · exact State.outline_updGroup ht

theorem State.outline_acquire {u g scope} : (s.acquire u g scope).outline tag = s.outline tag := by
  unfold State.acquire
  split
  · rfl
  · split
    · exact State.outline_hear ht
    · exact State.outline_hear ht

theorem State.outline_acquireAll {u scope gs} : (s.acquireAll u scope gs).outline tag = s.outline tag :=
  State.outline_foldl (fun _ _ => State.outline_acquire ht) _

theorem State.outline_serveRacq {stk core fuel} : (State.serveRacq stk core fuel s).outline tag = s.outline tag := by
  induction fuel generalizing s with
  | zero => rfl
  | succ fuel ih =>
    unfold State.serveRacq
    split
    · rfl
    · split
      · rfl
      · exact ih.trans (State.outline_updGroup ht)

theorem State.outline_granulesFreed {stk core} : (s.granulesFreed stk core).outline tag = s.outline tag :=
  State.outline_serveRacq ht

theorem State.outline_wakeCwait {glb blk lo hi} : (s.wakeCwait glb blk lo hi).outline tag = s.outline tag := by
  unfold State.wakeCwait
  simp only
  refine (State.outline_foldl (fun t b => ?_) _).trans ?_
  · split
    · rfl
    · exact State.outline_acquireAll ht
  · refine congrArg (·, s.launches, s.admits, s.insts, s.prereqs, s.nextUid) ?_
    rw [List.map_map]
    exact List.map_congr_left fun b _ => ht b _ b.bar

theorem State.outline_wakeBar {b off p} : (s.wakeBar b off p).outline tag = s.outline tag :=
  State.outline_updBlock fun b => ht b _ b.bar

theorem State.outline_blockBarEvent {u f} : (s.blockBarEvent u f).outline tag = s.outline tag := by
  unfold State.blockBarEvent
  split
  · rfl
  · simp only
    split
    · exact (State.outline_acquireAll ht).trans (State.outline_updBlock fun b => ht b _ _)
    · exact State.outline_updBlock fun b => ht b b.groups _

theorem State.outline_retryLock {stk slice} : (s.retryLock stk slice).outline tag = s.outline tag :=
  State.outline_foldl (fun _ _ => State.outline_updGroup ht) _

theorem State.outline_dropLockWaits {stk p} : (s.dropLockWaits stk p).outline tag = s.outline tag :=
  State.outline_foldl (fun _ _ => State.outline_retryLock ht) _

theorem State.outline_passLock {stk e} : (s.passLock stk e).outline tag = s.outline tag := by
  unfold State.passLock
  simp only
  split
  · rw [State.outline_retryLock ht, State.outline_updStack]
  · rw [State.outline_retryLock ht, State.outline_updGroup ht, State.outline_acquire ht, State.outline_updStack]

theorem State.outline_releaseLocks {stk owner} : (s.releaseLocks stk owner).outline tag = s.outline tag :=
  State.outline_foldl (fun t e => by
    split
    · exact State.outline_passLock ht
    · rfl) _

theorem State.outline_forgetWaits {u} : (s.forgetWaits u).outline tag = s.outline tag := by
  simp only [State.forgetWaits, State.outline_mk, State.outline_fold]
  exact (State.outline_foldl (fun _ _ => State.outline_dropLockWaits ht) _).trans State.outline_dropWaiters

end

/-! ## Stores, barriers and the end of a group -/

@[simp] theorem State.badges_updGroup {u g f} : (s.updGroup u g f).outline Block.badge = s.outline Block.badge :=
  State.outline_updGroup blind_badge

@[simp] theorem State.badges_bufWrite {b sp off bytes} : (s.bufWrite b sp off bytes).outline Block.badge = s.outline Block.badge := by
  unfold State.bufWrite
  split
  · exact State.outline_updBlock (s := s) (u := b.uid) fun b => by cases sp <;> rfl
  · split <;> rfl

@[simp] theorem State.badges_writeBar {b off x} : (s.writeBar b off x).outline Block.badge = s.outline Block.badge := by
  simp [State.writeBar]

@[simp] theorem State.badges_areaCont {b c} : (s.areaCont b c).outline Block.badge = s.outline Block.badge := by
  unfold State.areaCont
  split
  · rfl
  · simp

@[simp] theorem State.badges_barRule {b off} : (s.barRule b off).outline Block.badge = s.outline Block.badge := by
  unfold State.barRule
  simp only
  split
  · rw [State.outline_wakeBar blind_badge]
    split
    · rw [State.outline_updBlock, State.badges_areaCont, State.badges_writeBar]
      exact fun _ => rfl
    · exact State.badges_writeBar
  · rfl

@[simp] theorem State.badges_barEvent {u off f clamps} : (s.barEvent u off f clamps).outline Block.badge = s.outline Block.badge := by
  unfold State.barEvent
  split
  · rfl
  · next b _ =>
    have hr : ∀ t : State, (match t.block? u with | none => t | some b => t.barRule b off).outline Block.badge = t.outline Block.badge :=
      fun t => by split <;> simp
    refine (hr _).trans ?_
    simp only [State.outline_ite, State.outline_notice, ite_self]
    rw [State.outline_updBlock, State.badges_writeBar]
    intro x
    split <;> rfl

theorem State.outline_sendBatches {blk ent l rem orphan} : (s.sendBatches blk ent l rem orphan).outline tag = s.outline tag := rfl

@[simp] theorem State.badges_forwardTo {pub off bytes blk ent} :
    (s.forwardTo pub off bytes blk ent).outline Block.badge = s.outline Block.badge := by
  unfold State.forwardTo
  split
  · rfl
  · split
    · rfl
    · split
      · split
        · rfl
        · exact State.outline_sendBatches.trans (State.outline_updBlock fun _ => rfl)
      · rfl

@[simp] theorem State.badges_forward {pub off bytes} : (s.forward pub off bytes).outline Block.badge = s.outline Block.badge :=
  State.outline_foldl (fun _ _ => State.badges_forwardTo) _

@[simp] theorem State.badges_afterS {u off n} : (s.afterS u off n).outline Block.badge = s.outline Block.badge := by
  unfold State.afterS
  simp only
  split
  · exact State.outline_wakeCwait blind_badge
  · refine (State.outline_foldl (fun t o => ?_) _).trans (State.outline_wakeCwait blind_badge)
    split <;> simp

@[simp] theorem State.badges_bufStore {u sp off bytes fwd} : (s.bufStore u sp off bytes fwd).outline Block.badge = s.outline Block.badge := by
  unfold State.bufStore
  split
  · rfl
  · simp only
    split <;> simp

@[simp] theorem State.badges_flushSubs {pick rem orphan} : (s.flushSubs pick rem orphan).outline Block.badge = s.outline Block.badge :=
  State.outline_foldl (fun t x => by
    split
    · rfl
    · split
      · exact State.outline_sendBatches.trans (State.outline_updBlock fun _ => rfl)
      · rfl) _

@[simp] theorem State.badges_glbStore {stk core pa bytes} : (s.glbStore stk core pa bytes).outline Block.badge = s.outline Block.badge :=
  State.outline_wakeCwait blind_badge

@[simp] theorem State.badges_atomic {stk core x op mode b d} :
    (s.atomic stk core x op mode b d).2.outline Block.badge = s.outline Block.badge := by
  unfold State.atomic
  split <;> simp

@[simp] theorem State.badges_performQuanta {stk core l} :
    (State.performQuanta stk core l s).outline Block.badge = s.outline Block.badge := by
  induction l generalizing s with
  | nil => rfl
  | cons q r ih => exact ih.trans State.badges_atomic

@[simp] theorem State.badges_releaseQuanta {u g due} : (s.releaseQuanta u g due).outline Block.badge = s.outline Block.badge := by
  unfold State.releaseQuanta
  split
  · rfl
  · split <;> simp

@[simp] theorem State.badges_drainQuanta {u g} : (s.drainQuanta u g).outline Block.badge = s.outline Block.badge :=
  State.badges_releaseQuanta

@[simp] theorem State.badges_memberStep {u f} : (s.memberStep u f).outline Block.badge = s.outline Block.badge := by
  unfold State.memberStep
  split
  · rfl
  · exact (State.outline_foldl (fun _ _ => State.badges_barEvent) _).trans (State.outline_blockBarEvent blind_badge)

@[simp] theorem State.badges_detachGroup {u g} : (s.detachGroup u g).outline Block.badge = s.outline Block.badge := by
  unfold State.detachGroup
  split
  · rfl
  · simp

@[simp] theorem State.badges_endGroup {u g} : (s.endGroup u g).outline Block.badge = s.outline Block.badge := by
  have h0 : ((s.drainQuanta u g).detachGroup u g).outline Block.badge = s.outline Block.badge := by simp
  unfold State.endGroup
  simp only
  split
  · exact h0
  · split
    · exact h0
    · rw [State.outline_granulesFreed blind_badge, State.outline_updCore, State.outline_updBlock,
        State.outline_releaseLocks blind_badge, State.outline_foldl, h0]
      · exact fun _ _ => State.outline_notice
      · exact fun _ => rfl

@[simp] theorem State.badges_stopInPlace {u} : (s.stopInPlace u).outline Block.badge = s.outline Block.badge := by
  unfold State.stopInPlace
  split
  · rfl
  · split
    · rfl
    · simp only
      rw [State.outline_granulesFreed blind_badge, State.outline_updBlock, State.outline_updCore,
        State.outline_dropLockWaits blind_badge, State.outline_dropWaiters]
      exact fun _ => rfl

@[simp] theorem State.badges_closeHandle {u gid h} : (s.closeHandle u gid h).outline Block.badge = s.outline Block.badge := by
  unfold State.closeHandle
  split
  · rfl
  · split
    · rfl
    · simp only
      rw [State.outline_closeNotice, State.outline_dropWaiters, State.outline_updBlock]
      exact fun _ => rfl

end
end Sys2Proof.Machine
end

section
/-!
SUPPORT. What the end of blocks, grids and running graphs leaves (O53): no block comes, and the launches that were there wait and stand as
they did, whatever admission starts in the same step.
-/
namespace Sys2Proof.Machine

/-- A state comes after another: no block is new, and a launch that was there waits and stands as it did. Launches whose identifier was
still to be given may have been added. -/
structure State.Follows (r s : State) : Prop where
  blocks : ∀ b ∈ s.blocks, ∃ b' ∈ r.blocks, b'.uid = b.uid
  next : r.nextUid ≤ s.nextUid
  launches : ∀ l ∈ s.launches, l.uid < r.nextUid → ∃ l' ∈ r.launches, l'.uid = l.uid ∧ l'.waiting = l.waiting ∧ l'.status = l.status

section
variable {r s t : State}

theorem State.Follows.refl : s.Follows s := ⟨fun b hb => ⟨b, hb, rfl⟩, le_rfl, fun l hl _ => ⟨l, hl, rfl, rfl, rfl⟩⟩

/-- A step that keeps the outline of the blocks' badges. -/
theorem State.Follows.keep (h : r.Follows s) (ho : t.outline Block.badge = s.outline Block.badge) : r.Follows t := by
  obtain ⟨hb, hl, -, -, -, hn⟩ := State.outline_ext ho
  refine ⟨fun b hbt => ?_, hn ▸ h.next, hl ▸ h.launches⟩
  obtain ⟨c, hc, hcb⟩ := List.mem_map.mp (hb ▸ List.mem_map_of_mem (f := Block.badge) hbt)
  obtain ⟨d, hd, hdc⟩ := h.blocks c hc
  exact ⟨d, hd, hdc.trans (congrArg Prod.fst hcb)⟩

theorem State.Follows.foldl {β : Type} {f : State → β → State} (h : r.Follows s) (hf : ∀ t a, r.Follows t → r.Follows (f t a))
    (l : List β) : r.Follows (l.foldl f s) := by
  induction l generalizing s with
  | nil => exact h
  | cons a l ih => exact ih (hf s a h)

/-- A launch changes, but for what it waits for and its status, or it is new. -/
theorem State.Follows.updLaunch {u f} (h : r.Follows s) (hu : ∀ l, (f l).uid = l.uid)
    (hf : r.nextUid ≤ u ∨ ∀ l, (f l).waiting = l.waiting ∧ (f l).status = l.status) : r.Follows (s.updLaunch u f) where
  blocks := h.blocks
  next := h.next
  launches l hl hlu := by
    obtain ⟨k, hk, rfl⟩ := List.mem_map.mp hl
    split at hlu
    · next hku =>
      simp only [hku, if_true]
      rw [hu] at hlu
      obtain hn | hw := hf
      · omega
      · rw [hu, (hw k).1, (hw k).2]
        exact h.launches k hk hlu
    · next hku =>
      simp only [hku, if_false]
      exact h.launches k hk hlu

theorem State.Follows.distribute {u n lin} (h : r.Follows s) (hu : r.nextUid ≤ u) : r.Follows (State.distribute u n lin s) := by
  induction n generalizing s lin with
  | zero => exact h
  | succ n ih =>
    unfold State.distribute
    split
    · exact h
    · exact ih (h.updLaunch (fun _ => rfl) (.inl hu))

theorem State.Follows.startGrid {l pool} (h : r.Follows s) : r.Follows (s.startGrid l pool) := by
  refine State.Follows.distribute ⟨h.blocks, h.next.trans (Nat.le_succ _), fun k hk hu => ?_⟩ h.next
  obtain hk | hk := List.mem_append.mp hk
  · exact h.launches k hk hu
  · cases List.mem_singleton.mp hk
    exact absurd hu (Nat.not_lt.mpr h.next)

theorem State.Follows.startNode {iu node records} (h : r.Follows s) : r.Follows (s.startNode iu node records) := by
  unfold State.startNode
  split
  · exact h
  · split
    · exact h
    · exact State.Follows.startGrid ⟨h.blocks, h.next, h.launches⟩

theorem State.Follows.startInst {l g} (h : r.Follows s) : r.Follows (s.startInst l g) := by
  unfold State.startInst
  split
  · next nodes tmpl pqs =>
    have h1 : r.Follows (State.openNodes l (pqs.zip nodes) { s with nextUid := s.nextUid + 1 }) :=
      State.Follows.keep (s := { s with nextUid := s.nextUid + 1 }) ⟨h.blocks, h.next.trans (Nat.le_succ _), h.launches⟩
        State.outline_openNodes
    refine State.Follows.foldl ?_ (fun _ _ ht => ht.startNode) _
    exact ⟨h1.blocks, h1.next, h1.launches⟩
  · exact h

theorem State.Follows.admitOne (h : r.Follows s) (ht : s.admitOne = some t) : r.Follows t := by
  unfold State.admitOne at ht
  split at ht
  · simp at ht
  · next a _ =>
    have h0 : r.Follows { s with admits := s.admits.filter fun x => x.seq != a.seq } := ⟨h.blocks, h.next, h.launches⟩
    split at ht
    · simp only at ht
      split at ht
      · split at ht
        · cases ht
          exact (h0.keep State.outline_checkGraph).keep State.outline_recordError
        · cases ht
          have h1 := h0.keep (State.outline_checkGraph (l := a.l) (seq := a.seq))
          exact ⟨h1.blocks, h1.next, h1.launches⟩
        · cases ht
          exact ((h0.keep State.outline_checkGraph).keep State.outline_updPart).startInst
      · split at ht
        · cases ht
          exact (h0.keep State.outline_recordLayout).keep State.outline_recordError
        · cases ht
          exact ((h0.keep State.outline_recordLayout).keep State.outline_updPart).startGrid
    · simp at ht

theorem State.Follows.admitAll {n} (h : r.Follows s) : r.Follows (State.admitAll n s) := by
  induction n generalizing s with
  | zero => exact h
  | succ n ih =>
    unfold State.admitAll
    split
    · exact h
    · next ht => exact ih (h.admitOne ht)

theorem State.Follows.settle {l used} (h : r.Follows s) : r.Follows (s.settle l used) := (h.keep State.outline_updPart).admitAll

theorem State.Follows.finishInst {iu} (h : r.Follows s) : r.Follows (s.finishInst iu) := by
  unfold State.finishInst
  split
  · exact h
  · split
    · exact h
    · next i _ _ =>
      have h1 : r.Follows (i.pqs.foldl (fun s q => s.changeDesc 4 q fun d => { d with valid := false }) s) :=
        h.foldl (fun _ _ ht => ht.keep State.outline_changeDesc) _
      refine State.Follows.settle (State.Follows.keep ?_ State.outline_putCompletion)
      exact ⟨h1.blocks, h1.next, h1.launches⟩

theorem State.outline_emitSuccessors {α : Type} {tag : Block → α} {l i node} :
    (s.emitSuccessors l i node).outline tag = s.outline tag :=
  State.outline_foldl (fun _ _ => State.outline_cpPut) _

theorem State.Follows.finishGrid {u} (h : r.Follows s) : r.Follows (s.finishGrid u) := by
  unfold State.finishGrid
  split
  · exact h
  · next l _ =>
    split
    · exact h
    · have h1 : r.Follows { s with launches := s.launches.filter fun x => x.uid != u } :=
        ⟨h.blocks, h.next, fun k hk => h.launches k (List.mem_of_mem_filter hk)⟩
      have h2 : r.Follows (State.putCompletion { s with launches := s.launches.filter fun x => x.uid != u } l l.status 0) :=
        h1.keep State.outline_putCompletion
      split
      · exact h2.settle
      · refine State.Follows.finishInst ?_
        split
        · refine State.Follows.keep ?_ State.outline_emitSuccessors
          exact ⟨h2.blocks, h2.next, h2.launches⟩
        · exact ⟨h2.blocks, h2.next, h2.launches⟩

theorem State.Follows.preemptDone {u saved} (h : r.Follows s) : r.Follows (s.preemptDone u saved) := by
  refine State.Follows.foldl ?_ (fun _ _ ht => ht.keep State.outline_record) _
  exact ⟨h.blocks, h.next, h.launches⟩

/-- What the end of a block takes from the package, before its granules are served and its grid may complete. -/
theorem State.Follows.flushSubs {pick rem orphan} (h : r.Follows s) : r.Follows (s.flushSubs pick rem orphan) :=
  h.keep State.badges_flushSubs

theorem State.Follows.granulesFreed {stk core} (h : r.Follows s) : r.Follows (s.granulesFreed stk core) :=
  h.keep (State.outline_granulesFreed blind_badge)

/-- A block that leaves for good is gone. -/
theorem State.Follows.freeBlock {u} (h : r.Follows s) : r.Follows (s.freeBlock u) := by
  unfold State.freeBlock
  split
  · exact h
  · next b _ =>
    refine State.Follows.finishGrid (State.Follows.preemptDone (State.Follows.granulesFreed ?_))
    have hc : ∀ (t : State) (l : List Nat), r.Follows t → r.Follows (l.foldl (fun s k => s.closeHandle u 0 k) t) :=
      fun t l ht => ht.foldl (fun _ _ hs => hs.keep State.badges_closeHandle) l
    have h1 : ∀ t : State, r.Follows t → r.Follows (t.updLaunch b.launch fun l =>
        { l with used := l.used + b.eused, retired := l.retired + 1, gpool := l.gpool + max 0 (b.eres / 1024) }) :=
      fun t ht => ht.updLaunch (fun _ => rfl) (.inr fun _ => ⟨rfl, rfl⟩)
    have h2 := h1 _ (hc _ (b.handles.map fun x => x.1) (h.flushSubs (pick := fun v _ e => v != u && e.pblk == b.lin && (e.st == 1 || e.st == 2) &&
      match s.block? v with | some q => q.launch == b.launch | none => false) (rem := true) (orphan := true)))
    exact ⟨fun c hcm => h2.blocks c (List.mem_of_mem_filter hcm), h2.next, h2.launches⟩

theorem State.Follows.endBlock {u} (h : r.Follows s) : r.Follows (s.endBlock u) := by
  unfold State.endBlock
  split
  · exact h
  · next b _ =>
    split
    · refine State.Follows.freeBlock ?_
      have h1 : r.Follows (b.groups.foldl (fun s g => s.releaseLocks b.stk g.ctxid) s) :=
        h.foldl (fun _ _ ht => ht.keep (State.outline_releaseLocks blind_badge)) _
      split
      · exact h1
      · exact ⟨h1.blocks, h1.next, h1.launches⟩
    · have h1 : r.Follows (b.groups.foldl (fun s g => s.endGroup u g.gid) (s.forgetWaits u)) :=
        (h.keep (State.outline_forgetWaits blind_badge)).foldl (fun _ _ ht => ht.keep State.badges_endGroup) _
      refine State.Follows.granulesFreed ?_
      refine ⟨fun c hc => ?_, h1.next, h1.launches⟩
      obtain ⟨x, hx, rfl⟩ := List.mem_map.mp hc
      obtain ⟨d, hd, hdx⟩ := h1.blocks x hx
      refine ⟨d, hd, ?_⟩
      split <;> exact hdx

end
end Sys2Proof.Machine
end

section
/-!
SUPPORT. The events of launches, each by what it does (O53): records and admission (R349, R420, R421), placement (R31, R36), work that moves
(R34, R35), retirement (R66), graph nodes (R351), the watchdog, the throttle and YIELDREQ (R59, R399, R422).
-/
namespace Sys2Proof.Machine

section
variable {s s1 t : State}

/-! ## Launch records -/

/-- The next record of a launch queue is taken where it is of the kind asked for. -/
theorem State.NextLaunch.takeRecord {r : Nat} (h : s.NextLaunch r s1) (graph : Bool) (f : Launch → State → State) :
    s.takeRecord graph f = if (r % 256 == 2) = graph then f ((s.desc 4 s.ev.g).launchOf r) s1 else s := by
  obtain ⟨hv, hk, hp, seq, rest, hr, rfl, rfl⟩ := h
  simp [State.takeRecord, hr, hv, hk, hp, ite_not]

/-- LAUNCH_GRID and LAUNCH_GRAPH on the next record of the queue. -/
theorem launchEvents {r : Nat} (h : s.NextLaunch r s1) :
    let l := (s.desc 4 s.ev.g).launchOf r
    let c := s1.checkGrid l
    let d := s1.checkGraph l s1.nextUid
    (r % 256 = 2 → exec .launchGrid s = .next s) ∧
    (∀ e, r % 256 ≠ 2 → c.1 = .error e → exec .launchGrid s = .next (c.2.recordError l e)) ∧
    (∀ l', r % 256 ≠ 2 → c.1 = .ok l' → exec .launchGrid s = .next (c.2.enqueueAdmit l' false).admission) ∧
    (r % 256 ≠ 2 → exec .launchGraph s = .next s) ∧
    (∀ e, r % 256 = 2 → d.1 = .error e → exec .launchGraph s = .next (d.2.recordError l e)) ∧
    (∀ g, r % 256 = 2 → d.1 = .ok g → exec .launchGraph s = .next (d.2.enqueueAdmit l g.isNone).admission) := by
  have hgrid : exec .launchGrid s = execLaunchGrid s := rfl
  have hgraph : exec .launchGraph s = execLaunchGraph s := rfl
  simp only [hgrid, hgraph, execLaunchGrid, execLaunchGraph, h.takeRecord]
  refine ⟨fun hr => ?_, fun e hr he => ?_, fun l' hr he => ?_, fun hr => ?_, fun e hr he => ?_, fun g hr he => ?_⟩
  · simp [hr]
  · simp [hr, he]
  · simp [hr, he]
  · simp [hr]
  · simp [hr, he]
  · simp [hr, he]

/-! ## Admission -/

/-- What a distribution changes are the launches that it is for. -/
theorem State.distribute_eq {u n lin} : ∃ ls, State.distribute u n lin s = { s with launches := ls } ∧ ls.length = s.launches.length := by
  induction n generalizing s lin with
  | zero => exact ⟨s.launches, rfl, rfl⟩
  | succ n ih =>
    unfold State.distribute
    split
    · exact ⟨s.launches, rfl, rfl⟩
    · obtain ⟨ls, hs, hl⟩ := ih (s := s.updLaunch u _)
      exact ⟨ls, hs, hl.trans (by simp [State.updLaunch])⟩

/-- A grid that is admitted adds one launch, and takes an identifier. -/
theorem State.startGrid_eq {l pool} :
    ∃ ls, s.startGrid l pool = { s with launches := ls, nextUid := s.nextUid + 1 } ∧ ls.length = s.launches.length + 1 := by
  obtain ⟨ls, hs, hl⟩ := State.distribute_eq (s := { s with launches := s.launches ++ [_], nextUid := s.nextUid + 1 })
  exact ⟨ls, hs, hl.trans (by simp)⟩

/-- The record of a key after it is written. -/
theorem Assoc.getD_put_self {α : Type} (d : α) (m : Assoc α) (a : Nat) (v : α) : Assoc.getD d (Assoc.put m a v) a = v := by
  induction m with
  | nil => simp [Assoc.put, Assoc.getD]
  | cons e r ih =>
    obtain ⟨k, x⟩ := e
    unfold Assoc.put
    split
    · simp [Assoc.getD]
    · split
      · next hk => simp [Assoc.getD, hk]
      · next hk => simp [Assoc.getD, hk, ih]

theorem State.part_updPart_self {p f} : (s.updPart p f).part p = f (s.part p) := Assoc.getD_put_self ..

theorem State.core_updCore_self {stk core f} : (s.updCore stk core f).core stk core = f (s.core stk core) := Assoc.getD_put_self ..

/-- The account of a partition that has paid for a launch. -/
def Partition.payFor (l : Launch) (p : Partition) : Partition := { p with eacct := p.eacct - Int.ofNat l.etot }

/-- The head of admission is admitted where the account covers it, and only there (R421). -/
theorem admissionOfHead {a : Admit} (ha : s.admitHead = some a) (hk : a.l.kind ≠ 2) :
    let y := { s with admits := s.admits.filter fun x => x.seq != a.seq }.recordLayout a.l
    (s.covers a.l = false → s.admission = s) ∧
    (bitOf a.l.record 20 = false → y = (some none, { s with admits := s.admits.filter fun x => x.seq != a.seq })) ∧
    (s.covers a.l = true → y.1 = none → s.admitOne = some (y.2.recordError a.l 6)) ∧
    (∀ rec_, s.covers a.l = true → y.1 = some rec_ → ∃ t, s.admitOne = some t ∧ t.mem = y.2.mem ∧
      (t.part a.l.part).eacct = (y.2.part a.l.part).eacct - a.l.etot ∧ t.launches.length = y.2.launches.length + 1 ∧ t.admits = y.2.admits) := by
  intro y
  refine ⟨fun hc => ?_, fun hb => ?_, fun hc hy => ?_, fun rec_ hc hy => ?_⟩
  · simp [State.admission, State.admitAll, State.admitOne, ha, hc]
  · simp [y, State.recordLayout, hb]
  · simp only [State.admitOne, ha, hc, if_true, hk, if_false]
    simp only [y] at hy
    rw [hy]
  · have hpay := State.part_updPart_self (s := y.2) (p := a.l.part) (f := Partition.payFor a.l)
    obtain ⟨ls, hs, hl⟩ := State.startGrid_eq (s := y.2.updPart a.l.part (Partition.payFor a.l)) (l := { a.l with layout := rec_ })
      (pool := a.l.etot)
    refine ⟨(y.2.updPart a.l.part (Partition.payFor a.l)).startGrid { a.l with layout := rec_ } a.l.etot, ?_, ?_⟩
    · simp only [State.admitOne, ha, hc, if_true, hk, if_false]
      simp only [y] at hy
      rw [hy]
      rfl
    · rw [hs]
      exact ⟨rfl, congrArg Partition.eacct hpay, hl, rfl⟩

/-- A record that is set aside comes to admission when it has become ready. -/
theorem heldRecordReadyEvent {a : Admit} (ha : nth? s.admits s.ev.k = some a) : let c := s.checkGraph a.l a.seq
    (a.aside = false → exec .heldRecordReady s = .next s) ∧
    (a.aside = true → c.1 = .ok none → exec .heldRecordReady s = .next { c.2 with admits := c.2.admits.map fun (x : Admit) =>
      if x.seq = a.seq then { x with odd := c.2.oddSince a.l x.odd } else x }) ∧
    (∀ e, a.aside = true → c.1 = .error e → exec .heldRecordReady s =
      .next (State.recordError { c.2 with admits := c.2.admits.filter fun x => x.seq != a.seq } a.l e)) ∧
    (∀ g, a.aside = true → c.1 = .ok (some g) → exec .heldRecordReady s = .next { c.2 with admits := c.2.admits.map fun (x : Admit) =>
      if x.seq = a.seq then { x with aside := false } else x }.admission) := by
  have hx : exec .heldRecordReady s = execHeldRecordReady s := rfl
  simp only [hx, execHeldRecordReady, ha]
  refine ⟨fun h => ?_, fun h hc => ?_, fun e h hc => ?_, fun g h hc => ?_⟩
  · simp [h]
  · simp [h, hc]
  · simp [h, hc]
  · simp [h, hc]

theorem State.admission_of_nil (h : s.admits = []) : s.admission = s := by
  simp [State.admission, State.admitAll, State.admitOne, State.admitHead, minBy?, h]

/-- A microsecond of TIME refills the accounts, once. -/
theorem energyRefillEvent (s : State) : (s.time < (s.refills + 1) * 1000 → exec .energyRefill s = .next s) ∧
    ((s.refills + 1) * 1000 ≤ s.time → s.admits = [] → exec .energyRefill s = .next { s with
      refills := s.refills + 1, parts := s.parts.map fun (x : Nat × Partition) =>
        (x.1, { x.2 with eacct := min (x.2.eacct + Int.ofNat x.2.pcap) x.2.emax }) }) := by
  have hx : exec .energyRefill s = execEnergyRefill s := rfl
  simp only [hx, execEnergyRefill]
  refine ⟨fun h => ?_, fun h hn => ?_⟩
  · rw [if_neg (by omega)]
  · rw [if_pos h]
    exact congrArg _ (State.admission_of_nil hn)

/-! ## Placement -/

/-- The blocks of an identifier are resident, and their S has not been written. -/
def State.Bare (s : State) (u : Nat) : Prop := ∀ b ∈ s.blocks, b.uid = u → b.S = [] ∧ b.place = .resident

theorem State.Bare.congr {u} (h : s.Bare u) (ho : t.outline Block.shell = s.outline Block.shell) : t.Bare u := by
  intro b hb hu
  obtain ⟨c, hc, hcb⟩ := List.mem_map.mp ((State.outline_ext ho).1 ▸ List.mem_map_of_mem (f := Block.shell) hb)
  have huc : c.uid = u := (congrArg Block.uid hcb).trans hu
  exact ⟨(congrArg Block.S hcb).symm.trans (h c hc huc).1, (congrArg Block.place hcb).symm.trans (h c hc huc).2⟩

/-- A block that has not been written has no membership-tracked barrier: a step of membership acts on its block barrier alone. -/
theorem State.Bare.outline_memberStep {u f} (h : s.Bare u) : (s.memberStep u f).outline Block.shell = s.outline Block.shell := by
  unfold State.memberStep
  split
  · rfl
  · next b hb =>
    obtain ⟨hS, hp⟩ := h b (List.mem_of_find?_eq_some hb) (State.uid_of_block? hb)
    have hm : s.mbOffsets b = [] := by
      simp [State.mbOffsets, State.bufRead, hp, Block.buf, hS, Sparse.read, Sparse.get, leNat, bitOf]
    rw [hm]
    exact State.outline_blockBarEvent blind_shell

theorem State.Bare.outline_addGroup {b : Block} {gid nln entry scal} (h : s.Bare b.uid) :
    (s.addGroup b gid nln entry scal).outline Block.shell = s.outline Block.shell := by
  have hu : ∀ {g}, ((s.updStack b.stk fun k => { k with nextCtx := k.nextCtx + 1 }).updBlock b.uid fun b =>
      { b with groups := insertBy (·.gid) g b.groups }).outline Block.shell = s.outline Block.shell :=
    State.outline_updBlock fun _ => rfl
  exact (h.congr hu).outline_memberStep.trans hu

theorem State.Bare.outline_addGroups {b : Block} {nln entry} {scal : Nat → List (Nat × DWord)} (h : s.Bare b.uid) (l : List Nat) :
    (l.foldl (fun s k => s.addGroup b k nln entry (scal k)) s).outline Block.shell = s.outline Block.shell := by
  induction l generalizing s with
  | nil => rfl
  | cons k r ih => exact (ih (h.congr h.outline_addGroup)).trans h.outline_addGroup

/-- The groups of a new block start, and nothing else of it or of another block changes. -/
theorem State.addGroups_blocks {b : Block} {nln entry} {scal : Nat → List (Nat × DWord)} {l : List Nat} (hn : s.block? b.uid = none)
    (ht : t.blocks = s.blocks ++ [b]) (hS : b.S = []) (hp : b.place = .resident) :
    (l.foldl (fun s k => s.addGroup b k nln entry (scal k)) t).blocks.map Block.shell = s.blocks.map Block.shell ++ [b.shell] := by
  have hb : t.Bare b.uid := by
    intro c hc hu
    rw [ht] at hc
    obtain hc | hc := List.mem_append.mp hc
    · exact absurd (List.find?_eq_none.mp hn c hc) (by simp [hu])
    · cases List.mem_singleton.mp hc
      exact ⟨hS, hp⟩
  rw [(State.outline_ext (hb.outline_addGroups l)).1, ht, List.map_append, List.map_singleton]

/-- A block that starts joins the others. -/
theorem State.startBlock_blocks {l lin stk core rank} (hn : s.block? s.nextUid = none) :
    ∃ b0 : Block, (s.startBlock l lin stk core rank).blocks.map Block.shell = s.blocks.map Block.shell ++ [b0.shell] ∧
      b0.uid = s.nextUid ∧ b0.launch = l.uid ∧ b0.lin = lin ∧ b0.stk = stk ∧ b0.core = core ∧ b0.place = .resident ∧
      b0.rank = rank ∧ b0.S = [] := by
  unfold State.startBlock
  exact ⟨_, State.addGroups_blocks hn rfl rfl rfl, rfl, rfl, rfl, rfl, rfl, rfl, rfl, rfl⟩

/-- A block starts on a core where it may be placed and fits. -/
theorem blockPlacementEvent {l : Launch} {w : Work} {c : Nat} (hl : s.launch? s.ev.k = some l) (hc : s.ev.cores = [c]) (hw : w.size = 1)
    (hn : s.block? s.nextUid = none)
    (hf : ((s.workOn s.ev.b).find? fun w => !w.saved && w.launch == s.ev.k && w.lin == s.ev.n) = some w) :
    let may := s.mayPlace s.ev.b w [c] = true ∧ s.fitsNew l s.ev.b c = true
    (¬ may → exec .blockPlacement s = .next s) ∧
    (may → Happens .blockPlacement s fun t => t.blocks.length = s.blocks.length + 1 ∧ ∃ b ∈ t.blocks, b.uid = s.nextUid ∧ b.launch = l.uid ∧
      b.lin = w.lin ∧ b.stk = s.ev.b ∧ b.core = c ∧ b.place = .resident ∧ b.rank = 0 ∧ b.S = []) := by
  have hx : exec .blockPlacement s = execBlockPlacement s := rfl
  have hr : rankOf [c] c = 0 := by simp [rankOf]
  refine ⟨fun h => ?_, fun h => ?_⟩
  · rw [hx]
    simp only [execBlockPlacement, hl, hf, hc]
    rw [if_neg (by simpa using h)]
  · have he : exec .blockPlacement s = .next ((s.updLaunch l.uid fun y =>
        { y with waiting := y.waiting.filter fun u => !([w.lin].contains u.lin) }).startBlock l w.lin s.ev.b c 0) := by
      rw [hx]
      simp only [execBlockPlacement, hl, hf, hc]
      rw [if_pos (by simpa using h)]
      simp [hw, hr]
    refine ⟨_, he, ?_⟩
    obtain ⟨b0, hb, hu, h1, h2, h3, h4, h5, h6, h7⟩ := State.startBlock_blocks (s := s.updLaunch l.uid fun y =>
        { y with waiting := y.waiting.filter fun u => !([w.lin].contains u.lin) }) (l := l) (lin := w.lin) (stk := s.ev.b) (core := c)
        (rank := 0) hn
    refine ⟨by simpa using congrArg List.length hb, ?_⟩
    obtain ⟨b, hbm, hbs⟩ := List.mem_map.mp (hb ▸ List.mem_append_right _ (List.mem_singleton_self _))
    exact ⟨b, hbm, (congrArg Block.uid hbs).trans hu, (congrArg Block.launch hbs).trans h1, (congrArg Block.lin hbs).trans h2,
      (congrArg Block.stk hbs).trans h3, (congrArg Block.core hbs).trans h4, (congrArg Block.place hbs).trans h5,
      (congrArg Block.rank hbs).trans h6, (congrArg Block.S hbs).trans h7⟩

/-! ## Least elements and sorted lists -/

theorem mem_insertBy {α : Type} {key : α → Nat} {x y : α} {l : List α} : y ∈ insertBy key x l ↔ y = x ∨ y ∈ l := by
  induction l with
  | nil => simp [insertBy]
  | cons z r ih =>
    unfold insertBy
    split
    · simp
    · simp only [List.mem_cons, ih]
      tauto

theorem mem_sortBy {α : Type} {key : α → Nat} {y : α} {l : List α} : y ∈ sortBy key l ↔ y ∈ l := by
  induction l with
  | nil => simp [sortBy]
  | cons x r ih => exact mem_insertBy.trans (by rw [List.mem_cons]; exact or_congr_right ih)

/-- The element of least key of a list that is not empty. -/
theorem minBy?_spec {α : Type} (key : α → Nat) {l : List α} {x : α} (hx : x ∈ l) :
    ∃ y, minBy? key l = some y ∧ y ∈ l ∧ ∀ z ∈ l, key y ≤ key z := by
  induction l generalizing x with
  | nil => simp at hx
  | cons a r ih =>
    cases hr : minBy? key r with
    | none =>
      have hn : r = [] := by
        by_contra hne
        obtain ⟨b, hb⟩ := List.exists_mem_of_ne_nil r hne
        obtain ⟨y, hy, -⟩ := ih hb
        simp [hr] at hy
      exact ⟨a, by simp [minBy?, hr], by simp, by simp [hn]⟩
    | some y =>
      have hmem : y ∈ r ∧ ∀ z ∈ r, key y ≤ key z := by
        cases r with
        | nil => simp [minBy?] at hr
        | cons b r' =>
          obtain ⟨y', hy', hm⟩ := ih (List.mem_cons_self (a := b) (l := r'))
          rw [hr] at hy'
          cases hy'
          exact hm
      by_cases hlt : key y < key a
      · refine ⟨y, by simp [minBy?, hr, hlt], by simp [hmem.1], fun z hz => ?_⟩
        obtain rfl | hz := List.mem_cons.mp hz
        · omega
        · exact hmem.2 z hz
      · refine ⟨a, by simp [minBy?, hr, hlt], by simp, fun z hz => ?_⟩
        obtain rfl | hz := List.mem_cons.mp hz
        · omega
        · have := hmem.2 z hz
          omega

/-! ## Moving unstarted work (R34, R35) -/

theorem State.mem_newWork {stk : Nat} {w : Work} : w ∈ s.newWork stk ↔ ∃ l ∈ s.launches, ∃ u ∈ l.waiting,
    u.lin % max 1 l.clus = 0 ∧ u.stk = stk ∧
    { launch := l.uid, prio := l.prio, saved := false, order := l.start, lin := u.lin,
      size := ((l.waiting.filter fun u => u.stk == stk).filter fun v => l.clusterOf v.lin == l.clusterOf u.lin).length, clus := u.clus } = w := by
  simp [State.newWork, List.mem_flatMap, and_assoc]

theorem State.size_pos_of_mem_newWork {stk : Nat} {w : Work} (h : w ∈ s.newWork stk) : 0 < w.size := by
  obtain ⟨l, -, u, hu, -, hs, rfl⟩ := State.mem_newWork.mp h
  exact List.length_pos_of_mem (a := u) (by simp [hu, hs])

/-- A stack has unstarted blocks where a launch waits with one there. -/
theorem State.unstartedOn_ne_zero {stk : Nat} {l : Launch} {u : Unstarted} (hl : l ∈ s.launches) (hu : u ∈ l.waiting) (hs : u.stk = stk) :
    s.unstartedOn stk ≠ 0 := by
  intro h
  have h0 := List.sum_eq_zero_iff.mp h _ (List.mem_map_of_mem hl)
  have := List.length_eq_zero_iff.mp h0
  simp only [List.filter_eq_nil_iff] at this
  exact this u hu (by simp [hs])

theorem State.newWork_eq_nil {stk : Nat} (h : s.unstartedOn stk = 0) : s.newWork stk = [] := by
  refine List.eq_nil_iff_forall_not_mem.mpr fun w hw => ?_
  obtain ⟨l, hl, u, hu, -, hs, -⟩ := State.mem_newWork.mp hw
  exact State.unstartedOn_ne_zero hl hu hs h

theorem lastHalf_subset {ws : List Work} {w : Work} (h : w ∈ lastHalf ws) : w ∈ ws := by
  have ht : ∀ (want got : Nat) (l : List Work), w ∈ takeLast want got l → w ∈ l := by
    intro want got l
    induction l generalizing got with
    | nil => simp [takeLast]
    | cons a r ih =>
      unfold takeLast
      split
      · rw [List.mem_cons, List.mem_cons]
        exact Or.imp_right (ih _)
      · simp
  simpa [mem_sortBy] using ht _ _ _ h

/-- Half of some work is at least one unit of it. -/
theorem lastHalf_ne_nil {ws : List Work} {w : Work} (h : w ∈ ws) : ∃ w', w' ∈ lastHalf ws := by
  unfold lastHalf
  cases hr : (sortBy Work.key ws).reverse with
  | nil =>
    have : w ∈ (sortBy Work.key ws).reverse := by simpa [mem_sortBy] using h
    simp [hr] at this
  | cons a r => exact ⟨a, by simp [takeLast]⟩

/-- Unstarted blocks that move: none is lost. -/
theorem State.moveWork_keeps {ws stk clus} : (s.moveWork ws stk clus).blocks = s.blocks ∧ (s.moveWork ws stk clus).mem = s.mem ∧
    (s.moveWork ws stk clus).launches.map (fun l => l.waiting.map (·.lin)) = s.launches.map (fun l => l.waiting.map (·.lin)) := by
  refine ⟨rfl, rfl, ?_⟩
  simp only [State.moveWork, List.map_map]
  refine List.map_congr_left fun l _ => ?_
  simp only [Function.comp, List.map_map]
  refine List.map_congr_left fun u _ => ?_
  simp only [Function.comp]
  split <;> rfl

/-- The unit of some work that moves stands on its new stack, with its new holder. -/
theorem State.moveWork_unit {ws : List Work} {old stk : Nat} {clus : Option Nat} {w : Work} (hw : w ∈ ws) (hn : w ∈ s.newWork old) :
    ∃ l ∈ (s.moveWork ws stk clus).launches, ∃ u ∈ l.waiting, u.stk = stk ∧ u.clus = clus ∧ u.lin % max 1 l.clus = 0 := by
  obtain ⟨l, hl, u, hu, hm, -, rfl⟩ := State.mem_newWork.mp hn
  refine ⟨_, List.mem_map_of_mem hl, { u with stk := stk, clus := clus }, List.mem_map.mpr ⟨u, hu, ?_⟩, rfl, rfl, hm⟩
  rw [if_pos]
  exact List.any_eq_true.mpr ⟨_, hw, by simp⟩

theorem State.moveWork_newWork {ws : List Work} {old stk : Nat} {clus : Option Nat} {w : Work} (hw : w ∈ ws) (hn : w ∈ s.newWork old) :
    ∃ w ∈ (s.moveWork ws stk clus).newWork stk, w.clus = clus := by
  obtain ⟨l, hl, u, hu, hs, hc, hm⟩ := State.moveWork_unit (stk := stk) (clus := clus) hw hn
  exact ⟨_, State.mem_newWork.mpr ⟨l, hl, u, hu, hm, hs, rfl⟩, hc⟩

/-- The unstarted work of a stack that no layout record places. -/
def State.homeless (s : State) (k : Nat) : List Work :=
  (s.newWork k).filter fun w => match s.launch? w.launch with | some l => l.layout.isNone | none => false

theorem execBlockSteal_eq (s : State) : execBlockSteal s = .next (if 4 ≤ s.ev.b ∨ s.unstartedOn s.ev.b ≠ 0 then s
    else match minBy? (fun k => 2 ^ 100 - ((s.homeless k).map (·.size)).sum) ((List.range 4).filter fun k => k != s.ev.b) with
      | some k => s.moveWork (lastHalf (s.homeless k)) s.ev.b none
      | none => s) := rfl

/-- A stack without unstarted blocks steals half of those of the stack that has the most (R34). -/
theorem blockStealEvent (s : State) :
    let keeps := fun t : State => t.blocks = s.blocks ∧ t.mem = s.mem ∧
      t.launches.map (fun l => l.waiting.map (·.lin)) = s.launches.map (fun l => l.waiting.map (·.lin))
    (s.unstartedOn s.ev.b ≠ 0 → exec .blockSteal s = .next s) ∧
    (∀ k w l, s.ev.b < 4 → s.unstartedOn s.ev.b = 0 → k < 4 → w ∈ s.newWork k → s.launch? w.launch = some l → l.layout = none →
      Happens .blockSteal s fun t => keeps t ∧ t.unstartedOn s.ev.b ≠ 0) := by
  have hx : exec .blockSteal s = execBlockSteal s := rfl
  refine ⟨fun h => ?_, fun k w l hb h0 hk hw hl hlay => ?_⟩
  · rw [hx]
    exact congrArg _ (if_pos (.inr h))
  · have hwk : w ∈ s.homeless k := List.mem_filter.mpr ⟨hw, by simp [hl, hlay]⟩
    have hkb : k ≠ s.ev.b := by
      rintro rfl
      simp [State.newWork_eq_nil h0] at hw
    obtain ⟨k0, hmin, -, hle⟩ := minBy?_spec (fun k => 2 ^ 100 - ((s.homeless k).map (·.size)).sum)
      (l := (List.range 4).filter fun k => k != s.ev.b) (x := k) (by simp [hk, hkb])
    have hne : s.homeless k0 ≠ [] := by
      intro hnil
      have h1 := hle k (by simp [hk, hkb])
      have h2 : w.size ≤ ((s.homeless k).map (·.size)).sum := List.le_sum_of_mem (List.mem_map_of_mem hwk)
      have h3 := State.size_pos_of_mem_newWork hw
      simp only [hnil, List.map_nil, List.sum_nil] at h1
      omega
    have he : exec .blockSteal s = .next (s.moveWork (lastHalf (s.homeless k0)) s.ev.b none) := by
      rw [hx, execBlockSteal_eq, if_neg (by omega), hmin]
    refine ⟨_, he, State.moveWork_keeps, ?_⟩
    obtain ⟨w0, hw0⟩ := List.exists_mem_of_ne_nil _ hne
    obtain ⟨w1, hw1⟩ := lastHalf_ne_nil hw0
    obtain ⟨l1, hl1, u1, hu1, hs1, -, -⟩ := State.moveWork_unit (stk := s.ev.b) (clus := none) hw1 (List.mem_of_mem_filter (lastHalf_subset hw1))
    exact State.unstartedOn_ne_zero hl1 hu1 hs1

/-- The unstarted work of stack `ev.b` at a cluster distributor. -/
def State.heldAt (s : State) (c : Nat) : List Work := (s.newWork s.ev.b).filter fun w => w.clus == some c

theorem execClusterForage_eq (s : State) : execClusterForage s = .next (if 24 ≤ s.ev.k ∨ s.heldAt s.ev.k ≠ [] then s
    else match ((List.range 23).map fun k => (s.ev.k + 1 + k) % 24).find? fun c => !(s.heldAt c).isEmpty with
      | some c => s.moveWork (lastHalf (s.heldAt c)) s.ev.b (some s.ev.k)
      | none => s) := rfl

/-- A cluster distributor without unstarted blocks takes half of those of the next one that has some (R35). -/
theorem clusterForageEvent (s : State) :
    let keeps := fun t : State => t.blocks = s.blocks ∧ t.mem = s.mem ∧
      t.launches.map (fun l => l.waiting.map (·.lin)) = s.launches.map (fun l => l.waiting.map (·.lin))
    ((∃ w ∈ s.newWork s.ev.b, w.clus = some s.ev.k) → exec .clusterForage s = .next s) ∧
    (∀ c w, s.ev.k < 24 → (∀ w ∈ s.newWork s.ev.b, w.clus ≠ some s.ev.k) → c < 24 → w ∈ s.newWork s.ev.b → w.clus = some c →
      Happens .clusterForage s fun t => keeps t ∧ ∃ w ∈ t.newWork s.ev.b, w.clus = some s.ev.k) := by
  have hx : exec .clusterForage s = execClusterForage s := rfl
  refine ⟨fun ⟨w, hw, hc⟩ => ?_, fun c w hk hnone hc hw hwc => ?_⟩
  · rw [hx]
    refine congrArg _ (if_pos (.inr fun hnil => ?_))
    exact List.filter_eq_nil_iff.mp hnil w hw (by simp [hc])
  · have hheld : s.heldAt s.ev.k = [] := List.filter_eq_nil_iff.mpr fun w hw => by simpa using hnone w hw
    have hck : c ≠ s.ev.k := fun h => hnone w hw (h ▸ hwc)
    have hcm : c ∈ (List.range 23).map fun k => (s.ev.k + 1 + k) % 24 :=
      List.mem_map.mpr ⟨(c + 23 - s.ev.k) % 24, List.mem_range.mpr (by omega), by omega⟩
    have hcw : w ∈ s.heldAt c := List.mem_filter.mpr ⟨hw, by simp [hwc]⟩
    have hsome : (((List.range 23).map fun k => (s.ev.k + 1 + k) % 24).find? fun c => !(s.heldAt c).isEmpty).isSome :=
      List.find?_isSome.mpr ⟨c, hcm, by simp [List.ne_nil_of_mem hcw]⟩
    obtain ⟨c0, hc0⟩ := Option.isSome_iff_exists.mp hsome
    have hne : s.heldAt c0 ≠ [] := by simpa using List.find?_some hc0
    have he : exec .clusterForage s = .next (s.moveWork (lastHalf (s.heldAt c0)) s.ev.b (some s.ev.k)) := by
      rw [hx, execClusterForage_eq, if_neg (not_or.mpr ⟨by omega, not_not.mpr hheld⟩), hc0]
    refine ⟨_, he, State.moveWork_keeps, ?_⟩
    obtain ⟨w0, hw0⟩ := List.exists_mem_of_ne_nil _ hne
    obtain ⟨w1, hw1⟩ := lastHalf_ne_nil hw0
    exact State.moveWork_newWork hw1 (List.mem_of_mem_filter (lastHalf_subset hw1))

/-! ## Retirement, graph nodes and the watchdog -/

theorem State.blocks_of_outline (h : t.outline id = s.outline id) : t.blocks = s.blocks := by
  simpa using (State.outline_ext h).1

theorem State.block?_of_blocks (h : t.blocks = s.blocks) (u : Nat) : t.block? u = s.block? u := congrArg (List.find? _) h

@[simp] theorem State.block?_record {k r u} : (s.record k r).block? u = s.block? u :=
  State.block?_of_blocks (State.blocks_of_outline State.outline_record) u

@[simp] theorem State.admits_record {k r} : (s.record k r).admits = s.admits :=
  (State.outline_ext (tag := id) State.outline_record).2.2.1

/-- No block of an identifier comes back. -/
theorem State.Follows.block?_none {u} (h : s.Follows t) (hu : s.block? u = none) : t.block? u = none := by
  refine List.find?_eq_none.mpr fun b hb => ?_
  obtain ⟨c, hc, hcb⟩ := h.blocks b hb
  rw [← hcb]
  exact List.find?_eq_none.mp hu c hc

/-- A block that leaves for good is not found again. -/
theorem State.block?_freeBlock {u} : (s.freeBlock u).block? u = none := by
  unfold State.freeBlock
  split
  · next h => exact h
  · refine State.Follows.block?_none (.finishGrid (.preemptDone (.granulesFreed .refl))) ?_
    exact List.find?_eq_none.mpr fun b hb => by simpa using (List.mem_filter.mp hb).2

/-- A block that may retire leaves (R66). -/
theorem blockRetireEvent {b : Block} (hb : s.block? s.ev.b = some b) :
    (s.mayRetire b = true → Happens .blockRetire s fun t => t.block? s.ev.b = none) ∧
    (s.mayRetire b = false → exec .blockRetire s = .next s) := by
  have hx : exec .blockRetire s = execBlockRetire s := rfl
  have hu : b.uid = s.ev.b := State.uid_of_block? hb
  simp only [Happens, hx, execBlockRetire, hb]
  refine ⟨fun h => ⟨s.freeBlock b.uid, by rw [if_pos h], ?_⟩, fun h => by simp [h]⟩
  rw [← hu]
  exact State.block?_freeBlock

/-- A node's grid is one more launch. -/
theorem State.startNode_launches {iu node : Nat} {records : List Byte} {i : Inst} {l : Launch}
    (hi : (s.insts.find? fun i => i.uid == iu) = some i) (hl : nth? i.tmpl node = some l) :
    (s.startNode iu node records).launches.length = s.launches.length + 1 := by
  have hg : ∀ (t : State) (l : Launch) (pool : Int), (t.startGrid l pool).launches.length = t.launches.length + 1 := fun t l pool => by
    obtain ⟨ls, hs, hlen⟩ := State.startGrid_eq (s := t) (l := l) (pool := pool)
    rw [hs]
    exact hlen
  simp only [State.startNode, hi, hl, hg]

/-- A node of a graph launches a grid when as many records are dequeueable as COAL says (R351). -/
theorem graphNodeLaunchEvent {i : Inst} {e pq : Nat} {l : Launch} (hi : (s.insts.find? fun i => i.uid == s.ev.b) = some i)
    (he : nth? i.nodes s.ev.k = some e) (hq : nth? i.pqs s.ev.k = some pq) (hl : nth? i.tmpl s.ev.k = some l) :
    let d := s.desc 4 pq
    (0 < d.coal → d.coal ≤ d.ready.length → Happens .graphNodeLaunch s fun t => t.launches.length = s.launches.length + 1) ∧
    (d.coal = 0 ∨ d.ready.length < d.coal → exec .graphNodeLaunch s = .next (s.finishInst i.uid)) := by
  intro d
  have hx : exec .graphNodeLaunch s = execGraphNodeLaunch s := rfl
  have hu : i.uid = s.ev.b := by simpa using List.find?_some hi
  simp only [Happens, hx, execGraphNodeLaunch, hi, he, hq]
  refine ⟨fun h0 hn => ⟨_, by rw [if_pos ⟨h0, hn⟩], ?_⟩, fun h => by rw [if_neg (show ¬(0 < d.coal ∧ d.coal ≤ d.ready.length) by omega)]⟩
  obtain ⟨-, hlau, -, hins, -, -⟩ := State.outline_ext (State.outline_takeMany (tag := id) (s := s) (w := 4) (pq := pq) (n := d.coal))
  rw [State.startNode_launches (by rw [hins, hu]; exact hi) hl, hlau]

/-- A block's watchdog writes a record when the split that has waited longest is due (R66). -/
theorem watchdogOfBlock {b : Block} {g : Group} {p : Split} (hlo : s.ev.lo = false) (hb : s.block? s.ev.b = some b)
    (hp : b.place = .resident) (hw : b.longestWait = some (g, p)) :
    let n := (s.launchOf b).interval
    let due := n ≠ 0 ∧ p.waitT + n ≤ s.time ∧ b.wdogAt ≤ p.waitT
    (¬ due → exec .watchdog s = .next s) ∧
    (due → Happens .watchdog s fun t => ∃ b', t.block? s.ev.b = some b' ∧ b'.wdogAt = s.time) := by
  have hx : exec .watchdog s = execWatchdog s := rfl
  have hu : b.uid = s.ev.b := State.uid_of_block? hb
  simp only [Happens, hx, execWatchdog, hlo, hb, State.watchBlock, hp, hw, ne_eq, not_true_eq_false, if_false, Bool.false_eq_true]
  refine ⟨fun h => ?_, fun h => ⟨_, by rw [if_pos (by simpa [and_assoc] using h)], { b with wdogAt := s.time }, ?_, rfl⟩⟩
  · rw [if_neg (by simpa [and_assoc] using h)]
  · rw [State.watchRecord, State.block?_record]
    exact (congrArg (fun u => (s.updBlock u _).block? s.ev.b) hu).trans
      (State.block?_updBlock_self (fun b => { b with wdogAt := s.time }) (fun _ h => h) hb)

/-- The interval of a record that is held aside has passed with VER odd at every reading, and no WATCHDOG record has been written (R399). -/
def State.heldDue (s : State) (a : Admit) : Bool :=
  match s.oddSince a.l a.odd with
  | some t => a.aside && !a.wdog && a.l.interval != 0 && decide (t + a.l.interval ≤ s.time)
  | none => false

theorem State.heldDue_iff {a : Admit} : s.heldDue a = true ↔
    a.aside = true ∧ a.wdog = false ∧ a.l.interval ≠ 0 ∧ ∃ t0, s.oddSince a.l a.odd = some t0 ∧ t0 + a.l.interval ≤ s.time := by
  unfold State.heldDue
  split
  · next h => simp [h, and_assoc]
  · next h => simp [h]

/-- A record that is held aside notes when VER was first read odd, and whether its WATCHDOG record has been written. -/
theorem State.admits_watchHeld {a : Admit} : (s.watchHeld a).admits = s.admits.map fun (x : Admit) =>
    if x.seq = a.seq && x.aside then { x with odd := s.oddSince a.l a.odd, wdog := x.wdog || s.heldDue a } else x := by
  change (if s.heldDue a = true then State.record _ _ _ else _).admits = _
  split
  · exact State.admits_record
  · rfl

/-- The watchdog of a graph record that is held aside (R399). -/
theorem watchdogOfHeld {a : Admit} (hlo : s.ev.lo = true) (ha : nth? s.admits s.ev.k = some a) : let odd := s.oddSince a.l a.odd
    let due := a.aside = true ∧ a.wdog = false ∧ a.l.interval ≠ 0 ∧ ∃ t0, odd = some t0 ∧ t0 + a.l.interval ≤ s.time
    Happens .watchdog s fun t => t.admits.length = s.admits.length ∧
      ∀ x ∈ s.admits, x.seq = a.seq → x.aside = true →
        ∃ y ∈ t.admits, y = { x with odd := odd, wdog := y.wdog } ∧ (y.wdog = true ↔ x.wdog = true ∨ due) := by
  have hx : exec .watchdog s = execWatchdog s := rfl
  refine ⟨s.watchHeld a, by simp [hx, execWatchdog, hlo, ha], by simp [State.admits_watchHeld], fun x hxm hseq hside => ?_⟩
  refine ⟨{ x with odd := s.oddSince a.l a.odd, wdog := x.wdog || s.heldDue a }, ?_, rfl, by simp [State.heldDue_iff]⟩
  rw [State.admits_watchHeld]
  exact List.mem_map.mpr ⟨x, hxm, by simp [hseq, hside]⟩

/-- An event that changes one block changes nothing else. -/
theorem OnlyBlock.of_updBlock {u : Nat} {b : Block} {f : Block → Block} {R : Block → Block → Prop} (hf : ∀ b, (f b).uid = b.uid)
    (hb : s.block? u = some b) (hR : R b (f b)) : OnlyBlock u s (s.updBlock u f) R :=
  ⟨⟨_, rfl⟩, fun _ hw => State.block?_updBlock_ne s f (fun b h => (hf b).trans h) hw, b, f b, hb,
    State.block?_updBlock_self f (fun b h => (hf b).trans h) hb, hR⟩

/-- The throttle and YIELDREQ (R59, R422). -/
theorem throttleAndYieldEvents {b : Block} (hb : s.block? s.ev.b = some b) :
    (Happens .throttleChange s fun t => OnlyBlock s.ev.b s t fun b b' => b' = { b with throttled := decide (b.eres ≤ 0) }) ∧
    (Happens .yieldRequest s fun t => OnlyBlock s.ev.b s t fun b b' =>
      b' = if b.preempt.isSome = true ∨ b.place ≠ .resident then b else { b with yieldreq := s.ev.n % 64 }) := by
  refine ⟨⟨_, rfl, OnlyBlock.of_updBlock (fun _ => rfl) hb rfl⟩, ⟨_, rfl, OnlyBlock.of_updBlock (fun b => ?_) hb ?_⟩⟩
  · split <;> rfl
  · simp

end
end Sys2Proof.Machine
end

section
/-!
SUPPORT. The events of pre-emption, each by what it does (O53): resume records (R210), pre-emption records and requests (R60, R211), the save
(R63, R215) and the restore (R64, R217).
-/
namespace Sys2Proof.Machine

section
variable {s s1 t : State}

/-! ## Resume records -/

/-- The next record of a resume queue is taken where a test picks it. -/
theorem State.NextResume.takeResume {part r : Nat} (h : s.NextResume part r s1) (pick : Nat → Bool) (f : Nat → Nat → State → State) :
    s.takeResume pick f = if pick r then f part r s1 else s := by
  obtain ⟨hp, hv, hk, seq, rest, hr, rfl, rfl⟩ := h
  simp [State.takeResume, hp, hr, hv, hk]

/-- A resume record is performed on the group that it names, once its blocks may end. -/
theorem State.NextResume.resume_named {part r action : Nat} {b : Block} {g : Group} (h : s.NextResume part r s1) (hk : recKind r = 0x20)
    (ha : recAction r = action) (hn : s1.suspendedAt part (recName r) = some (b, g)) (f : Block → Group → State → State) :
    s.resume action f = if s.endsNow action r = true then f b g s1 else s := by
  simp only [State.resume, h.takeResume, hk, ha, beq_self_eq_true, Bool.true_and, hn]

/-- A resume record that names no suspended group is stale, once it may end what it names. -/
theorem State.NextResume.resume_stale {part r action : Nat} (h : s.NextResume part r s1) (hk : recKind r = 0x20)
    (ha : recAction r = action) (hn : s1.suspendedAt part (recName r) = none) (f : Block → Group → State → State) :
    s.resume action f = if s.endsNow action r = true then s1.staleResume (recName r) else s := by
  simp only [State.resume, h.takeResume, hk, ha, beq_self_eq_true, Bool.true_and, hn]

/-- A record of retry that names no suspended group, or of an ACTION above 3, is stale (R210). -/
theorem staleRetryEvent {part r : Nat} (h : s.NextResume part r s1) (hk : recKind r = 0x20)
    (hr : recAction r = 0 ∧ s1.suspendedAt part (recName r) = none ∨ 3 < recAction r) :
    exec .resumeRetry s = .next (s1.staleResume (recName r)) := by
  have hx : exec .resumeRetry s = execResumeRetry s := rfl
  rw [hx, execResumeRetry, h.takeResume]
  obtain ⟨ha, hn⟩ | ha := hr
  · simp [hk, ha, hn]
  · simp [hk, ha, show recAction r ≠ 0 by omega]

/-- A record of the handler that names no suspended group is stale. -/
theorem staleHandlerEvent {part r : Nat} (h : s.NextResume part r s1) (hk : recKind r = 0x20) (ha : recAction r = 1)
    (hn : s1.suspendedAt part (recName r) = none) : exec .resumeHandler s = .next (s1.staleResume (recName r)) := by
  have hx : exec .resumeHandler s = execResumeHandler s := rfl
  rw [hx, execResumeHandler, h.resume_stale hk ha hn, if_pos (by simp [State.endsNow])]

/-! ## The group that a record names -/

theorem State.block?_updGroup_self {u n : Nat} {b : Block} {f : Group → Group} (hb : s.block? u = some b) :
    (s.updGroup u n f).block? u = some (b.updGroup n f) :=
  State.block?_updBlock_self _ (fun _ h => h) hb

theorem State.group?_updGroup_self {u n : Nat} {b : Block} {g : Group} {f : Group → Group} (hb : s.block? u = some b)
    (hg : b.group? n = some g) (hf : ∀ g, (f g).gid = g.gid) : (s.updGroup u n f).group? u n = some (f g) := by
  rw [State.group?, State.block?_updGroup_self hb]
  exact Block.group?_updGroup_self f (fun g h => (hf g).trans h) hg

/-- What an acquire of a group leaves: of the group only what its splits have read ahead and what it has heard of. -/
theorem State.acquire_group {u n : Nat} {b : Block} {g : Group} (hb : s.block? u = some b) (hg : b.group? n = some g) :
    ∃ b1 l, (s.acquire u n 3).block? u = some b1 ∧ b1.group? n = some { g.forget with heard := l } ∧
      ((s.acquire u n 3).core b.stk b.core).l1 = [] := by
  simp only [State.acquire, State.hear, hb, Nat.one_le_ofNat, if_true]
  refine ⟨_, _, State.block?_updGroup_self hb, Block.group?_updGroup_self _ (fun _ h => h) hg, ?_⟩
  exact congrArg Core.l1 State.core_updCore_self

/-- A group that a record names changes, after an acquire. -/
theorem State.changeSuspended_group {b : Block} {g : Group} {f : Group → Group} (hb : s.block? b.uid = some b)
    (hg : b.group? g.gid = some g) (hp : b.place = .resident) (hf : ∀ g, (f g).gid = g.gid) :
    ∃ l, (s.changeSuspended b g.gid f).group? b.uid g.gid = some (f { g.forget with heard := l }) ∧
      ((s.changeSuspended b g.gid f).core b.stk b.core).l1 = [] := by
  obtain ⟨b1, l, hb1, hg1, hl1⟩ := State.acquire_group hb hg
  simp only [State.changeSuspended, hp]
  exact ⟨l, State.group?_updGroup_self hb1 hg1 hf, hl1⟩

theorem Group.resumeInHandler_gid {l now} (g : Group) : (g.resumeInHandler l now).gid = g.gid := by
  unfold Group.resumeInHandler
  split
  · rfl
  · split <;> rfl

/-- Retry: the group runs on, and its faulting split executes again (R210). -/
theorem resumeRetryEvent {part r : Nat} {b : Block} {g : Group} (h : s.NextResume part r s1) (hk : recKind r = 0x20)
    (hn : s1.suspendedAt part (recName r) = some (b, g)) (hb : s1.block? b.uid = some b) (hg : b.group? g.gid = some g)
    (hp : b.place = .resident) (ha : recAction r = 0) :
    Happens .resumeRetry s fun t => ∃ g', t.group? b.uid g.gid = some g' ∧ g'.suspended = false ∧
      (∀ q ∈ g'.splits, q.wait ≠ .fault) ∧ g'.v = g.v ∧ g'.s = g.s ∧ (t.core b.stk b.core).l1 = [] := by
  have hx : exec .resumeRetry s = execResumeRetry s := rfl
  have he : exec .resumeRetry s = .next (s1.changeSuspended b g.gid (Group.retry (s1.cycle b.stk))) := by
    rw [hx, execResumeRetry, h.takeResume]
    simp [hk, ha, hn]
  obtain ⟨l, hg', hl1⟩ := State.changeSuspended_group (f := Group.retry (s1.cycle b.stk)) hb hg hp (fun _ => rfl)
  refine ⟨_, he, _, hg', rfl, fun q hq => ?_, rfl, rfl, hl1⟩
  obtain ⟨p, -, rfl⟩ := List.mem_map.mp hq
  split
  · simp [Split.wake]
  · assumption

/-- A group that resumes in its handler: the split that faulted runs it, at TRAPVEC. -/
theorem Group.resumeInHandler_spec {g : Group} {p : Split} (l : Launch) (now : Nat) (hv : g.trapVec ≠ 0)
    (hp : (g.splits.find? fun p => decide (p.wait = .fault)) = some p) :
    (g.resumeInHandler l now).suspended = false ∧ (g.resumeInHandler l now).handler.isSome = true ∧
      ∃ q, (g.resumeInHandler l now).split? p.age = some q ∧ q.pc = g.trapVec.setWidth 57 ∧ q.handler = true ∧ q.wait = .none := by
  obtain ⟨p0, hp0⟩ : ∃ p0, g.split? p.age = some p0 := by
    refine Option.isSome_iff_exists.mp (List.find?_isSome.mpr ⟨p, List.mem_of_find?_eq_some hp, by simp⟩)
  have hpc : BitVec.ofNat 57 (field g.trapVec 56 0) = g.trapVec.setWidth 57 := by
    apply BitVec.eq_of_toNat_eq
    simp [field, slice]
  simp only [Group.resumeInHandler, hv, if_false, hp]
  refine ⟨trivial, ?_, _, Group.split?_updSplit_self _ (fun _ h => h) (Group.split?_updSplit_self _ (fun _ h => h) hp0), hpc, rfl, rfl⟩
  split
  · assumption
  · rfl

/-- The group enters its handler (R210). -/
theorem resumeHandlerEvent {part r : Nat} {b : Block} {g : Group} {p : Split} (h : s.NextResume part r s1) (hk : recKind r = 0x20)
    (hn : s1.suspendedAt part (recName r) = some (b, g)) (hb : s1.block? b.uid = some b) (hg : b.group? g.gid = some g)
    (hp : b.place = .resident) (ha : recAction r = 1) (hv : g.trapVec ≠ 0)
    (hf : (g.splits.find? fun p => decide (p.wait = .fault)) = some p) :
    Happens .resumeHandler s fun t => ∃ g' q, t.group? b.uid g.gid = some g' ∧ g'.suspended = false ∧ g'.handler.isSome = true ∧
      g'.split? p.age = some q ∧ q.pc = g.trapVec.setWidth 57 ∧ q.handler = true ∧ q.wait = .none := by
  have hx : exec .resumeHandler s = execResumeHandler s := rfl
  have he : exec .resumeHandler s =
      .next (s1.changeSuspended b g.gid (Group.resumeInHandler (s1.launchOf b) (s1.cycle b.stk))) := by
    rw [hx, execResumeHandler, h.resume_named hk ha hn, if_pos (by simp [State.endsNow])]
  obtain ⟨l, hg', -⟩ := State.changeSuspended_group (f := Group.resumeInHandler (s1.launchOf b) (s1.cycle b.stk)) hb hg hp
    Group.resumeInHandler_gid
  have hf' : (g.forget.splits.find? fun p => decide (p.wait = .fault)) = some { p with early := [] } := by
    simp only [Group.forget, List.find?_map]
    exact congrArg (Option.map _) hf
  obtain ⟨hs, hh, q, hq, hpc, hqh, hqw⟩ := Group.resumeInHandler_spec (g := { g.forget with heard := l }) (s1.launchOf b) (s1.cycle b.stk) hv hf'
  exact ⟨_, he, _, q, hg', hs, hh, hq, hpc, hqh, hqw⟩

/-! ## The end of a block and of a grid -/

/-- An element of a list in which those of a key have changed, if it has that key, comes from such a change. -/
theorem exists_of_mem_map_upd {α : Type} {l : List α} {key : α → Nat} {u : Nat} {f : α → α} {y : α}
    (hy : y ∈ l.map fun x => if key x = u then f x else x) (hu : key y = u) : ∃ x ∈ l, f x = y := by
  obtain ⟨x, hx, rfl⟩ := List.mem_map.mp hy
  split at hu
  · next h => exact ⟨x, hx, (if_pos h).symm⟩
  · next h => exact absurd hu h

/-- A coarser function of the blocks. -/
theorem State.outline_comp {α β : Type} {tag : Block → α} (k : α → β) (h : t.outline tag = s.outline tag) :
    t.outline (fun b => k (tag b)) = s.outline fun b => k (tag b) := by
  have hm : ∀ u : State, u.outline (fun b => k (tag b)) = ((u.outline tag).1.map k, (u.outline tag).2) := fun u => by
    simp only [State.outline, List.map_map, Function.comp_def]
  rw [hm, hm, h]

/-- What a function picks of a block is found again where the outline stays. -/
theorem State.block?_of_outline {α : Type} {tag : Block → α} {key : α → Nat} (hk : ∀ b, key (tag b) = b.uid)
    (h : t.outline tag = s.outline tag) (u : Nat) : (t.block? u).map tag = (s.block? u).map tag := by
  have hm : ∀ v : State, (v.block? u).map tag = (v.blocks.map tag).find? fun x => key x == u := fun v => by
    simp only [State.block?, List.find?_map, Function.comp_def, hk]
  rw [hm, hm, (State.outline_ext h).1]

theorem State.exists_block?_of_outline {α : Type} {tag : Block → α} {key : α → Nat} {u : Nat} {b : Block} (hk : ∀ b, key (tag b) = b.uid)
    (h : t.outline tag = s.outline tag) (hb : s.block? u = some b) : ∃ b', t.block? u = some b' ∧ tag b' = tag b :=
  Option.map_eq_some_iff.mp ((State.block?_of_outline hk h u).trans (by rw [hb]; rfl))

/-- Granules that become free change nothing of a block but its groups. -/
theorem State.exists_block?_granulesFreed {u stk core} (R : Block → Prop) (h : ∃ c, s.block? u = some c ∧ R c.shell) :
    ∃ c, (s.granulesFreed stk core).block? u = some c ∧ R c.shell := by
  obtain ⟨c, hc, hR⟩ := h
  obtain ⟨b, hb, hbc⟩ := State.exists_block?_of_outline (tag := Block.shell) (key := Block.uid) (fun _ => rfl)
    (State.outline_granulesFreed blind_shell (stk := stk) (core := core)) hc
  exact ⟨b, hb, hbc ▸ hR⟩

/-- A resident block that ends is marked so, with everything that it has under way abandoned. -/
theorem State.block?_endBlock {b : Block} (hb : s.block? b.uid = some b) (hp : b.place = .resident) :
    ∃ b', (s.endBlock b.uid).block? b.uid = some b' ∧ b'.ending = true ∧ b'.conts = [] ∧ b'.copies = [] ∧ b'.matops = [] ∧ b'.subs = [] := by
  have hends : (b.groups.foldl (fun s g => s.endGroup b.uid g.gid) (s.forgetWaits b.uid)).outline Block.badge = s.outline Block.badge :=
    (State.outline_foldl (fun _ _ => State.badges_endGroup) _).trans (State.outline_forgetWaits blind_badge)
  obtain ⟨b1, hb1, -⟩ := State.exists_block?_of_outline (key := Prod.fst) (fun _ => rfl) hends hb
  unfold State.endBlock
  simp only [hb, hp]
  exact State.exists_block?_granulesFreed
    (fun b => b.ending = true ∧ b.conts = [] ∧ b.copies = [] ∧ b.matops = [] ∧ b.subs = [])
    ⟨_, State.block?_updBlock_self _ (fun _ h => h) hb1, rfl, rfl, rfl, rfl, rfl⟩

theorem State.Follows.endGrid {u} : (s.updLaunch u fun l => { l with waiting := [], status := 2 }).Follows (s.endGrid u) :=
  (State.Follows.refl.foldl (fun _ _ ht => ht.endBlock) _).finishGrid

/-- An end of a block waits for its delayed reductions, and then ends it (R210). -/
theorem resumeEndBlockEvent {part r : Nat} {b : Block} {g : Group} (h : s.NextResume part r s1) (hk : recKind r = 0x20)
    (hn : s1.suspendedAt part (recName r) = some (b, g)) (hb : s1.block? b.uid = some b) (hp : b.place = .resident)
    (ha : recAction r = 2) :
    (s.endsNow 2 r = false → exec .resumeEndBlock s = .next s) ∧
    (s.endsNow 2 r = true → Happens .resumeEndBlock s fun t =>
      ∃ b', t.block? b.uid = some b' ∧ b'.ending = true ∧ b'.conts = [] ∧ b'.copies = [] ∧ b'.matops = [] ∧ b'.subs = []) := by
  have hx : exec .resumeEndBlock s = execResumeEndBlock s := rfl
  rw [hx, Happens, hx, execResumeEndBlock, h.resume_named hk ha hn]
  refine ⟨fun he => by rw [if_neg (by simp [he])], fun he => ⟨_, by rw [if_pos he], State.block?_endBlock hb hp⟩⟩

/-- An end of a grid waits for the delayed reductions of its blocks, and then ends it (R210). -/
theorem resumeEndGridEvent {part r : Nat} {b : Block} {g : Group} (h : s.NextResume part r s1) (hk : recKind r = 0x20)
    (hn : s1.suspendedAt part (recName r) = some (b, g)) (ha : recAction r = 3) :
    (s.endsNow 3 r = false → exec .resumeEndGrid s = .next s) ∧
    (s.endsNow 3 r = true → b.launch < s1.nextUid → Happens .resumeEndGrid s fun t =>
      ∀ l ∈ t.launches, l.uid = b.launch → l.waiting = [] ∧ l.status = 2) := by
  have hx : exec .resumeEndGrid s = execResumeEndGrid s := rfl
  rw [hx, Happens, hx, execResumeEndGrid, h.resume_named hk ha hn]
  refine ⟨fun he => by rw [if_neg (by simp [he])], fun he hu => ⟨_, by rw [if_pos he], fun l hl hlu => ?_⟩⟩
  obtain ⟨k, hk, hku, hkw, hks⟩ := State.Follows.endGrid.launches l hl (hlu ▸ hu)
  obtain ⟨j, -, rfl⟩ := exists_of_mem_map_upd hk (hku.trans hlu)
  exact ⟨hkw.symm, hks.symm⟩

/-! ## Requests for pre-emption -/

/-- The request of one block: the mark, and the stop in place. -/
theorem State.badges_ask {hold u} : (s.ask hold u).outline Block.badge = (s.updBlock u fun b =>
    { b with preempt := match b.preempt with
        | some q => some { q with hold := q.hold || hold }
        | none => some { t0 := s.time, forced := false, hold := hold } }).outline Block.badge := State.badges_stopInPlace

theorem State.uids_ask {hold u} : (s.ask hold u).outline Block.uid = s.outline Block.uid :=
  (State.outline_comp Prod.fst State.badges_ask).trans (State.outline_updBlock fun _ => rfl)

theorem State.uids_request {hold u} : (s.request hold u).outline Block.uid = s.outline Block.uid := by
  unfold State.request
  split
  · rfl
  · simp only
    split
    · exact State.outline_foldl (fun _ _ => State.uids_ask) _
    · rfl

/-- The blocks of an identifier have been asked. -/
def State.Asked (s : State) (u : Nat) : Prop := ∀ x ∈ s.blocks.map Block.badge, x.1 = u → x.2.isSome = true

theorem State.Asked.congr {u} (h : s.Asked u) (ho : t.outline Block.badge = s.outline Block.badge) : t.Asked u := by
  unfold State.Asked
  rw [(State.outline_ext ho).1]
  exact h

theorem State.asked_ask {hold u v} (h : v = u ∨ s.Asked v) : (s.ask hold u).Asked v := by
  refine State.Asked.congr (fun x hx hv => ?_) State.badges_ask
  obtain ⟨c, hc, rfl⟩ := List.mem_map.mp hx
  obtain ⟨b, hb, rfl⟩ := List.mem_map.mp hc
  split
  · show Option.isSome (match b.preempt with | some q => _ | none => _) = true
    split <;> rfl
  · next hbu =>
    rw [if_neg hbu] at hv
    obtain rfl | h := h
    · exact absurd hv hbu
    · exact h _ (List.mem_map_of_mem hb) hv

theorem State.asked_foldl {hold v} {us : List Nat} (h : v ∈ us ∨ s.Asked v) : (us.foldl (fun s u => s.ask hold u) s).Asked v := by
  induction us generalizing s with
  | nil => simpa using h
  | cons u r ih =>
    refine ih ?_
    obtain h | h := h
    · obtain rfl | h := List.mem_cons.mp h
      · exact .inr (State.asked_ask (.inl rfl))
      · exact .inl h
    · exact .inr (State.asked_ask (.inr h))

/-- A request that the context pool can hold asks every block of the cluster launch. -/
theorem requestAsksMates {hold : Bool} {u : Nat} {b : Block} (hb : s.block? u = some b)
    (hf : s.poolFits (s.launchOf b).part b.stk (s.mates b) = true) :
    ∀ q ∈ s.mates b, ∀ q', (s.request hold u).block? q.uid = some q' → q'.preempt.isSome = true := by
  intro q hq q' hq'
  have hr : s.request hold u = ((s.mates b).map (·.uid)).foldl (fun s v => s.ask hold v) s := by
    simp only [State.request, hb, hf, if_true]
  rw [hr] at hq'
  exact State.asked_foldl (.inl (List.mem_map_of_mem hq)) q'.badge (List.mem_map_of_mem (List.mem_of_find?_eq_some hq'))
    (State.uid_of_block? hq')

/-! ## Pre-emption records -/

/-- A pre-emption record that can be performed acts on the launch that it names. -/
theorem State.NextResume.takePreempt {part r : Nat} {l : Launch} (h : s.NextResume part r s1) (hn : s1.named part (recName r) = some l)
    (hbad : s1.badPreempt part r = false) (hk : recKind r = 0x21) (acts : Nat → Bool) (f : Launch → Nat → State → State) :
    s.takePreempt acts f = if acts (recAction r) then f l r s1 else s := by
  simp only [State.takePreempt, h.takeResume, hk, beq_self_eq_true, Bool.true_and, hn, hbad, Bool.false_eq_true, if_false]

/-- The work of a record on some blocks begins: it is noted, and the launches stay. -/
theorem State.beginPreempt_outline {l : Launch} {hold : Bool} {us : List Nat} : (s.beginPreempt l hold us).launches = s.launches ∧
    (us ≠ [] → (s.beginPreempt l hold us).prereqs =
      s.prereqs ++ [{ lid := l.lid, launch := l.uid, hold := hold, left := us, saved := 0 }]) := by
  unfold State.beginPreempt
  split
  · next h => exact ⟨(State.outline_ext (tag := id) State.outline_record).2.1, fun hne => absurd (List.isEmpty_iff.mp h) hne⟩
  · obtain ⟨-, hl, -, -, hp, -⟩ := State.outline_ext (State.outline_foldl (tag := Block.uid) (f := fun s u => s.request hold u)
      (s := { s with prereqs := s.prereqs ++ [{ lid := l.lid, launch := l.uid, hold := hold, left := us, saved := 0 }] })
      (fun _ _ => State.uids_request) us)
    exact ⟨hl, fun _ => hp⟩

/-- A record of ACTION 0 asks one block with its cluster launch (R211). -/
theorem preemptOneBlockEvent {part r : Nat} {l : Launch} {b : Block} (h : s.NextResume part r s1) (hn : s1.named part (recName r) = some l)
    (hbad : s1.badPreempt part r = false) (hk : recKind r = 0x21) (ha : recAction r = 0)
    (hb : (s1.blocks.find? fun b => b.launch == l.uid && decide (b.place = .resident) &&
        !b.ending && b.bx == slice r 159 128 && b.blky == slice r 191 160 && b.bz == slice r 223 192) = some b) :
    Happens .preemptOneBlock s fun t => t.prereqs = s1.prereqs ++
      [{ lid := l.lid, launch := l.uid, hold := bitOf r 16, left := (s1.mates b).map (·.uid), saved := 0 }] := by
  have hx : exec .preemptOneBlock s = execPreemptOneBlock s := rfl
  have hmate : b ∈ s1.mates b := by
    have hat := List.find?_some hb
    simp only [Bool.and_eq_true, decide_eq_true_eq, Bool.not_eq_true', beq_iff_eq] at hat
    exact List.mem_filter.mpr ⟨List.mem_of_find?_eq_some hb, by simp [hat]⟩
  refine ⟨s1.beginPreempt l (bitOf r 16) ((s1.mates b).map (·.uid)), ?_, State.beginPreempt_outline.2 ?_⟩
  · rw [hx, execPreemptOneBlock, h.takePreempt hn hbad hk, if_pos (by simp [ha])]
    simp only [hb]
  · simpa using List.ne_nil_of_mem hmate

/-- A launch is held where a record says so. -/
def State.holdLaunch (s : State) (u : Nat) (hold : Bool) : State :=
  if hold then s.updLaunch u fun x => { x with held := true } else s

theorem State.outline_holdLaunch {u hold} : (s.holdLaunch u hold).prereqs = s.prereqs ∧ (s.holdLaunch u hold).blocks = s.blocks := by
  unfold State.holdLaunch
  split <;> exact ⟨rfl, rfl⟩

/-- A record of ACTION 1 asks the resident blocks of a launch, and with HOLD holds the launch (R211). -/
theorem preemptLaunchEvent {part r : Nat} {l : Launch} (h : s.NextResume part r s1) (hn : s1.named part (recName r) = some l)
    (hbad : s1.badPreempt part r = false) (hk : recKind r = 0x21) (ha : recAction r = 1) :
    let us := (s1.blocks.filter fun b => b.launch == l.uid && decide (b.place = .resident) && !b.ending).map (·.uid)
    Happens .preemptLaunch s fun t => (∀ x ∈ t.launches, x.uid = l.uid → bitOf r 16 = true → x.held = true) ∧
      (us ≠ [] → t.prereqs = s1.prereqs ++ [{ lid := l.lid, launch := l.uid, hold := bitOf r 16, left := us, saved := 0 }]) := by
  intro us
  have hx : exec .preemptLaunch s = .next ((s1.holdLaunch l.uid (bitOf r 16)).beginPreempt l (bitOf r 16) us) := by
    rw [show exec .preemptLaunch s = execPreemptLaunch s from rfl, execPreemptLaunch, h.takePreempt hn hbad hk, if_pos (by simp [ha])]
    simp only [us, ← (State.outline_holdLaunch (s := s1) (u := l.uid) (hold := bitOf r 16)).2]
    rfl
  refine ⟨_, hx, fun x hxm hu hh => ?_, fun hne => (State.beginPreempt_outline.2 hne).trans (by rw [State.outline_holdLaunch.1])⟩
  rw [State.beginPreempt_outline.1, State.holdLaunch, if_pos hh] at hxm
  obtain ⟨y, -, rfl⟩ := exists_of_mem_map_upd hxm hu
  rfl

/-- A record of ACTION 2 releases what is held of a launch (R211). -/
theorem releaseHeldBlocksEvent {part r : Nat} {l : Launch} (h : s.NextResume part r s1) (hn : s1.named part (recName r) = some l)
    (hbad : s1.badPreempt part r = false) (hk : recKind r = 0x21) (ha : recAction r = 2) :
    Happens .releaseHeldBlocks s fun t => (∀ x ∈ t.launches, x.uid = l.uid → x.held = false) ∧
      (∀ b ∈ t.blocks, b.launch = l.uid → b.held = false) ∧ ∀ q ∈ t.prereqs, q.launch = l.uid → q.hold = false := by
  have hx : exec .releaseHeldBlocks s = execReleaseHeldBlocks s := rfl
  refine ⟨_, by rw [hx, execReleaseHeldBlocks, h.takePreempt hn hbad hk, if_pos (by simp [ha])], fun x hx hu => ?_, fun b hb hu => ?_,
    fun q hq hu => ?_⟩
  · obtain ⟨y, -, rfl⟩ := exists_of_mem_map_upd hx hu
    rfl
  · obtain ⟨y, -, rfl⟩ := exists_of_mem_map_upd hb hu
    rfl
  · obtain ⟨y, -, rfl⟩ := exists_of_mem_map_upd hq hu
    rfl

/-! ## Requests, saves and restores -/

/-- A request of a record that waited starts, and a distributor asks for room (R60, R214). -/
theorem preemptionRequestEvents (s : State) :
    (∀ r b, s.ev.lo = true → nth? s.prereqs s.ev.k = some r → s.ev.n ∈ r.left → s.block? s.ev.n = some b → b.preempt = none →
      exec .preemptionRequest s = .next (s.request r.hold s.ev.n)) ∧
    (s.ev.lo = false → s.ev.b < 4 → exec .preemptionRequest s = .next (s.distributorRequest s.ev.b)) := by
  have hx : exec .preemptionRequest s = execPreemptionRequest s := rfl
  rw [hx, execPreemptionRequest]
  refine ⟨fun r b hlo hr hm hb hp => ?_, fun hlo hb => ?_⟩
  · simp [hlo, hr, hm, hb, hp]
  · simp [hlo, Nat.not_le.mpr hb]

/-- 20 µs after its request a block starts no further turn (R62). -/
theorem preemptTimeoutEvent {b : Block} {q : Preempt} (hb : s.block? s.ev.b = some b) (hq : b.preempt = some q) :
    Happens .preemptTimeout s fun t => OnlyBlock s.ev.b s t fun b b' =>
      b' = { b with preempt := some (if q.t0 + 20000 ≤ s.time then { q with forced := true } else q) } :=
  ⟨_, rfl, OnlyBlock.of_updBlock (fun _ => rfl) hb (by rw [hq]; rfl)⟩

theorem State.blocks_preemptDone {u saved} : (s.preemptDone u saved).blocks = s.blocks := by
  suffices h : ∀ q (l : List PreReq), (l.foldl (fun (s : State) r => s.record 4 { kind := 11, launch := r.lid, val := r.saved })
      { s with prereqs := q }).blocks = s.blocks from h _ _
  exact fun q l => State.blocks_of_outline (s := { s with prereqs := q }) (State.outline_foldl (fun _ _ => State.outline_record) l)

/-- A block that is saved stands in its area, without its buffers and its request. -/
theorem State.block?_saveBlock {u pa : Nat} {b b0 : Block} (hb : s.block? u = some b) (hb0 : (s.settleBlock b).block? u = some b0)
    (hfree : (s.settleBlock b).areaFree ((s.settleBlock b).launchOf b0).part b0.stk pa ((s.settleBlock b).areaImage b0).length = true) :
    ∃ b', (s.saveBlock u pa).block? u = some b' ∧ b'.place = .saved pa ((s.settleBlock b).areaImage b0).length ∧ b'.preempt = none ∧
      b'.S = [] := by
  simp only [State.saveBlock, hb]
  generalize s.settleBlock b = t at hb0 hfree
  simp only [hb0, Option.getD_some, hfree, if_true]
  rw [State.block?_of_blocks State.blocks_preemptDone]
  exact State.exists_block?_granulesFreed (fun b' => b'.place = .saved pa (t.areaImage b0).length ∧ b'.preempt = none ∧ b'.S = [])
    ⟨_, State.block?_updBlock_self _ (fun _ h => h) hb0, rfl, rfl, rfl⟩

/-- A block whose groups have stopped and which is drained is saved where its area is free (R63, R215). -/
theorem preemptSaveEvent {b : Block} (hb : s.block? s.ev.b = some b) :
    let may := b.place = .resident ∧ b.preempt.isSome = true ∧ b.ending = false ∧ b.groups.all (s.groupStopped b) = true ∧ s.drained b = true
    (¬ may → exec .preemptSave s = .next s) ∧
    (∀ b0, may → (s.settleBlock b).block? s.ev.b = some b0 → let n := ((s.settleBlock b).areaImage b0).length
      (s.settleBlock b).areaFree ((s.settleBlock b).launchOf b0).part b0.stk s.ev.v.toNat n = true → Happens .preemptSave s fun t =>
      ∃ b', t.block? s.ev.b = some b' ∧ b'.place = .saved s.ev.v.toNat n ∧ b'.preempt = none ∧ b'.S = []) := by
  have hx : exec .preemptSave s = execPreemptSave s := rfl
  have hu : b.uid = s.ev.b := State.uid_of_block? hb
  rw [hx, execPreemptSave]
  simp only [Happens, hx, execPreemptSave, hb, hu]
  exact ⟨fun h => by rw [if_neg h], fun b0 h hb0 hfree => ⟨_, by rw [if_pos h], State.block?_saveBlock hb hb0 hfree⟩⟩

/-- What a restore sets of a block: its place, core, rank and YIELDREQ. -/
def Block.standing (b : Block) : Nat × BlockPlace × Nat × Nat × Nat := (b.uid, b.place, b.core, b.rank, b.yieldreq)

theorem State.outline_setSub {u e y} : (s.setSub u e y).outline Block.standing = s.outline Block.standing := by
  have h0 : (s.updBlock u fun b => { b with subs := Assoc.put b.subs e y }).outline Block.standing = s.outline Block.standing :=
    State.outline_updBlock fun _ => rfl
  unfold State.setSub
  simp only
  split
  · split
    · split <;> exact h0
    · exact h0
  · exact h0

theorem State.outline_rewriteCore {b core} : (s.rewriteCore b core).outline Block.standing = s.outline Block.standing :=
  State.outline_foldl (fun t x => by
    simp only
    split
    · split
      · exact State.outline_setSub
      · rfl
    · rfl) _

/-- A saved block whose area holds MAGIC and VER is resident again on its core, as the area has it (R64, R217). -/
theorem State.block?_restoreBlock {b : Block} {pa size core rank : Nat} (hb : s.block? b.uid = some b) (hp : b.place = .saved pa size)
    (hm : s.readNat pa 4 = 0x0768C7A0) (hv : s.readNat (pa + 4) 1 = 1) :
    ∃ b', (s.restoreBlock b core rank).block? b.uid = some b' ∧ b'.place = .resident ∧ b'.core = core ∧ b'.rank = rank ∧
      b'.yieldreq = s.readNat (pa + 68) 1 % 64 := by
  simp only [State.restoreBlock, hp, hm, hv, and_self, if_true]
  obtain ⟨b', hb', hs⟩ := State.exists_block?_of_outline (tag := Block.standing) (key := Prod.fst) (fun _ => rfl)
    (State.outline_rewriteCore (b := b) (core := core)) (State.block?_updBlock_self (s := { s with poisoned := s.poisoned ++ s.restorePoison b pa })
      (State.loadBlock { s with poisoned := s.poisoned ++ s.restorePoison b pa } pa core rank) (fun _ h => h) hb)
  simp only [Block.standing, Prod.mk.injEq] at hs
  obtain ⟨-, h1, h2, h3, h4⟩ := hs
  exact ⟨b', hb', h1, h2, h3, h4⟩

/-- The restore of one saved block (R64). -/
theorem blockRestoreEvent {l : Launch} {w : Work} {b : Block} {c pa size : Nat} (hl : s.launch? s.ev.k = some l) (hc : s.ev.cores = [c])
    (hf : ((s.savedWork s.ev.b).find? fun w => w.launch == s.ev.k && w.lin == s.ev.n) = some w)
    (hbs : sortBy (·.lin) (s.savedOf w.launch (l.clusterOf w.lin)) = [b]) (hb : s.block? b.uid = some b) (hp : b.place = .saved pa size)
    (hmay : s.mayPlace s.ev.b w [c] = true) (hfit : s.fitsSaved b s.ev.b c = true)
    (hmate : ∀ y ∈ s.blocks, ¬ (y.launch = w.launch ∧ l.clusterOf y.lin = l.clusterOf w.lin ∧ y.place = .resident))
    (hm : s.readNat pa 4 = 0x0768C7A0) (hv : s.readNat (pa + 4) 1 = 1) : Happens .blockRestore s fun t =>
      ∃ b', t.block? b.uid = some b' ∧ b'.place = .resident ∧ b'.core = c ∧ b'.rank = 0 ∧ b'.yieldreq = s.readNat (pa + 68) 1 % 64 := by
  have hx : exec .blockRestore s = execBlockRestore s := rfl
  have hr : rankOf [c] c = 0 := by simp [rankOf]
  have hnone : (s.blocks.any fun y => y.launch == w.launch && l.clusterOf y.lin == l.clusterOf w.lin && decide (y.place = .resident)) = false :=
    List.any_eq_false.mpr fun y hy => by simpa [and_assoc] using hmate y hy
  have he : exec .blockRestore s = .next (s.restoreBlock b c 0) := by
    rw [hx, execBlockRestore]
    simp only [hl, hf, hbs, hc, hmay, hnone]
    simp [hfit, hr]
  exact ⟨_, he, State.block?_restoreBlock hb hp hm hv⟩

end
end Sys2Proof.Machine
end

section
open Sys2Proof Sys2Proof.Machine

/-- Settles O53, clause by clause: each event by its own lemma. What a block, a launch or a record keeps through the operations in between
comes from the outline (R59 to R67, R210, R211, R421). -/
theorem launchAndPreemptionEventsActOnce : Obligations.LaunchAndPreemptionEventsActOnce := by
  refine ⟨fun s r s1 h => launchEvents h, fun s a ha hk => admissionOfHead ha hk, fun s a ha => heldRecordReadyEvent ha,
    energyRefillEvent, fun s l w c hl hc hw hn hf => blockPlacementEvent hl hc hw hn hf, fun s => ?blocks, fun s part r s1 h => ?records,
    fun s hold u b hb hf => requestAsksMates hb hf, fun s => ?saves⟩
  case blocks =>
    obtain ⟨hsteal0, hsteal⟩ := blockStealEvent s
    obtain ⟨hforage0, hforage⟩ := clusterForageEvent s
    exact ⟨hsteal0, hsteal, hforage0, hforage, fun b hb => blockRetireEvent hb, fun i e pq l hi he hq hl => graphNodeLaunchEvent hi he hq hl,
      fun b g p hlo hb hp hw => watchdogOfBlock hlo hb hp hw, fun a hlo ha => watchdogOfHeld hlo ha, fun b hb => throttleAndYieldEvents hb⟩
  case records =>
    refine ⟨staleRetryEvent h, staleHandlerEvent h, fun b g hk hn hb hg hp => ?named, fun l hn hbad hk => ?preempts⟩
    case preempts =>
      exact ⟨fun b => preemptOneBlockEvent h hn hbad hk, preemptLaunchEvent h hn hbad hk, releaseHeldBlocksEvent h hn hbad hk⟩
    case named =>
      exact ⟨resumeRetryEvent h hk hn hb hg hp, fun p => resumeHandlerEvent h hk hn hb hg hp,
        fun ha => (resumeEndBlockEvent h hk hn hb hp ha).1, fun ha => (resumeEndGridEvent h hk hn ha).1,
        fun ha => (resumeEndBlockEvent h hk hn hb hp ha).2, fun ha => (resumeEndGridEvent h hk hn ha).2⟩
  case saves =>
    obtain ⟨hrecord, hroom⟩ := preemptionRequestEvents s
    exact ⟨hrecord, hroom, fun b q hb hq => preemptTimeoutEvent hb hq, fun b hb => preemptSaveEvent hb,
      fun l w b c pa size hl hc hf hbs hb hp hmay hfit hmate hm hv => blockRestoreEvent hl hc hf hbs hb hp hmay hfit hmate hm hv⟩

end

section
/-!
SUPPORT. Decode and encode agree (O55): each reader of a field reads exactly the codes that its encoder gives; so every row of the opcode
map reads what was encoded, and what it reads encodes to the same fields.
-/
namespace Sys2Proof.Laws.Encoding

/-- The fields of every row of the table fit the widths of R70, by the lemma of its constructor. -/
theorem fields_fit (i : Instr) : Statement i :=
  @Instr.rec Statement
    nop exit trap brk yield srd swr grow detach attach racq rrel tret add sub mul mulhi mad min max and or xor andn shl shr sar rotl sad
    addi andi ori xori shli shri sari movi movhi popc clz brev bfx bfi prmt abs cmpeq cmpne cmplt cmple cmpgt cmpge cmpun sel mov movix stix
    pand por pxor pnot pset fadd fsub fmul fma fms fnma fmin fmax fabs fneg fdiv fsqrt frcp frsq fexp2 flog2 cvt cvtpk cvtup frnd fclass
    fldexp frexp shfl shflup shfldn shflx vall vany ballot redadd redmin redmax scan lanes bcast vtos bra call ret jmpi brau brany setmode
    setmmode setgang splitsync ld8 ld16 ld32 ld64 ld128 st8 st16 st32 st64 st128 pref ldu fence fencei ld8s ld16s aadd amin amax aand aor
    axor axchg acas afadd radd rmin rmax rfadd lock unlock copy copym bclose bwait barinit bararr barwait barexp barcont bartry remarr bsync
    mma mmaz mfence mwait tld tst thdr tchk hadq transq cvtt tfill mwake qopen qrsv qput qputs qget qgets qtry qpeek qclose qfence qack qsvc
    emit tlbinv lrload lrinv wsub wunsub wflush qxsetDropVqn qxsetDropAsid qxsetDropAll qxsetWriteDescriptor sadd ssub smul sand sor sxor
    sshl sshr ssar saddi smovi smovhi scmplt scmpeq smin smax crd cwait eres erel eqry illegalInstruction splitRotation loadDataReturn
    longResultWrite atomicReply storeQueueDrain quantumReductionPerform pageWalkComplete resumeRetry resumeHandler resumeEndBlock
    resumeEndGrid preemptOneBlock preemptLaunch releaseHeldBlocks preemptionRequest preemptTimeout preemptSave blockRestore yieldRequest
    launchGrid launchGraph heldRecordReady energyRefill blockPlacement blockSteal clusterForage blockRetire graphNodeLaunch
    continuationSpawn watchdog throttleChange remoteArrival copySectorLand copymDelivery matrixOpComplete matrixGate matrixWakeDone
    portReserve portFill portTake portPeek portBinding portCloseNotice putAcknowledge queueWake queueWaitRetry superRefill depositLanding
    svcAdd svcSignedMin svcSignedMax svcUnsignedMin svcUnsignedMax svcAnd svcOr svcXor svcExchange svcCompareAndSwap svcF32Add svcLoad
    svcUndefinedOp messageResend flitReceive replayTimeout retrainComplete lctlRetrain connreqWrite reconfigDrainEnd reconfigSwitchDone
    outboxDrain evstatOvfClear powerSample powerClampDecision powerOnBoot recoveryImage attestationRequest computeDieResetEnter
    computeDieResetExit scrubPass checkpointStart checkpointDone tlbShootdown hostCoherentAccess pcieDma subscriptionBatchTimeout
    subscriptionBatchLand shmWrite descriptorWrite prgoReplayOne prgoReplayTwo rootinvWrite lrinvWrite entryLatchRead registerWrite
    queueAnswerArrival ratedConditionExcursion duplicateAndCompareMismatch i

end Sys2Proof.Laws.Encoding

namespace Sys2Proof
open Machine
open Laws.Encoding (src_lt tile_lt addr_lt fields_fit)

/-! ## The readers of a field (R71 to R76, R89, R264, R278) -/

section
variable {n x : Nat}

/-- A number that fits is the one bit vector that has its value. -/
theorem ofNat_eq_iff {k : BitVec n} (h : x < 2 ^ n) : BitVec.ofNat n x = k ↔ k.toNat = x := by
  rw [← BitVec.toNat_inj, BitVec.toNat_ofNat, Nat.mod_eq_of_lt h, eq_comm]

@[simp] theorem zero_eq_some_iff {u : Unit} : zero x = some u ↔ x = 0 := by simp [zero]

@[simp] theorem decV7_eq_some_iff {d : BitVec 7} (h : x < 128) : decV7 x = some d ↔ d.toNat = x := by
  rw [decV7, Option.some_inj, ofNat_eq_iff h]

/-- A reader that gives `y` in `n` bits where its guard holds reads `k` exactly from the code of `k`, if the guard and `y` single out that code. -/
theorem guarded_eq_some_iff {c : Prop} [Decidable c] {y : Nat} {k : BitVec n} {code : Nat} (hy : c → y < 2 ^ n)
    (hc : c ∧ k.toNat = y ↔ code = x) : (if c then some (BitVec.ofNat n y) else none) = some k ↔ code = x := by
  rw [Option.ite_none_right_eq_some, Option.some_inj, ← hc]
  exact and_congr_right fun h => ofNat_eq_iff (hy h)

@[simp] theorem decSD_eq_some_iff {d : BitVec 6} : decSD x = some d ↔ d.toNat = x :=
  guarded_eq_some_iff (by omega) (by omega)

@[simp] theorem decSDPair_eq_some_iff {d : BitVec 5} : decSDPair x = some d ↔ 2 * d.toNat = x :=
  guarded_eq_some_iff (by omega) (by omega)

@[simp] theorem decVD2_eq_some_iff {d : BitVec 6} (h : x < 128) : decVD2 x = some d ↔ 2 * d.toNat = x :=
  guarded_eq_some_iff (by omega) (by omega)

@[simp] theorem decVD4_eq_some_iff {d : BitVec 5} (h : x < 128) : decVD4 x = some d ↔ 4 * d.toNat = x :=
  guarded_eq_some_iff (by omega) (by omega)

@[simp] theorem decP_eq_some_iff {d : BitVec 3} : decP x = some d ↔ d.toNat = x :=
  guarded_eq_some_iff (by omega) (by omega)

@[simp] theorem decS_eq_some_iff {a : BitVec 6} (h : x < 256) : decS x = some a ↔ 192 + a.toNat = x :=
  guarded_eq_some_iff (by omega) (by omega)

@[simp] theorem decSPair_eq_some_iff {a : BitVec 5} (h : x < 256) : decSPair x = some a ↔ 192 + 2 * a.toNat = x :=
  guarded_eq_some_iff (by omega) (by omega)

@[simp] theorem decVA_eq_some_iff {a : BitVec 7} : decVA x = some a ↔ a.toNat = x :=
  guarded_eq_some_iff (by omega) (by omega)

@[simp] theorem decVA2_eq_some_iff {a : BitVec 6} : decVA2 x = some a ↔ 2 * a.toNat = x :=
  guarded_eq_some_iff (by omega) (by omega)

@[simp] theorem decVA4_eq_some_iff {a : BitVec 5} : decVA4 x = some a ↔ 4 * a.toNat = x :=
  guarded_eq_some_iff (by omega) (by omega)

@[simp] theorem decBits_eq_some_iff {k : BitVec n} : decBits n x = some k ↔ k.toNat = x :=
  guarded_eq_some_iff id ⟨And.right, fun h => ⟨h ▸ k.isLt, h⟩⟩

@[simp] theorem decSrc_eq_some_iff {a : Src} (h : x < 256) : decSrc x = some a ↔ a.enc = x := by
  constructor
  · intro hx
    unfold decSrc at hx
    split_ifs at hx <;> cases hx <;> simp only [Src.enc, BitVec.toNat_ofNat] <;> omega
  · rintro rfl
    cases a with
    | v n => simp [decSrc, Src.enc, n.isLt]
    | latch k => simp [decSrc, Src.enc, show 128 + k.toNat < 136 by omega]
    | laneid | glane => rfl
    | s n => simp [decSrc, Src.enc, show ∀ m < 192, ¬ 192 + n.toNat < m ∧ 192 + n.toNat ≠ m by omega]

@[simp] theorem decTile_eq_some_iff {a : TileRef} (h : x < 256) : decTile x = some a ↔ a.enc = x := by
  constructor
  · intro hx
    unfold decTile at hx
    split_ifs at hx <;> cases hx <;> simp only [TileRef.enc, BitVec.toNat_ofNat] <;> omega
  · rintro rfl
    cases a with
    | reg n => simp [decTile, TileRef.enc, n.isLt]
    | buf n => simp [decTile, TileRef.enc, show ¬ 192 + 2 * n.toNat < 128 by omega]

@[simp] theorem decAddr_eq_some_iff {a : AddrRef} (h : x < 256) : decAddr x = some a ↔ a.enc = x := by
  constructor
  · intro hx
    unfold decAddr at hx
    split_ifs at hx <;> cases hx <;> simp only [AddrRef.enc, BitVec.toNat_ofNat] <;> omega
  · rintro rfl
    cases a with
    | vpair n => simp [decAddr, AddrRef.enc, show 2 * n.toNat < 128 by omega]
    | s n => simp [decAddr, AddrRef.enc, show ¬ 192 + n.toNat < 128 by omega]

@[simp] theorem Space.ofCode_eq_some_iff {sp : Space} : Space.ofCode x = some sp ↔ sp.code = x := by
  constructor
  · unfold Space.ofCode
    split <;> rintro ⟨⟩ <;> rfl
  · rintro rfl
    cases sp <;> rfl

/-! Each reader reads what its encoder gives. -/

@[simp] theorem zero_zero : zero 0 = some () := rfl
@[simp] theorem decV7_toNat (d : BitVec 7) : decV7 d.toNat = some d := (decV7_eq_some_iff d.isLt).2 rfl
@[simp] theorem decSD_toNat (d : BitVec 6) : decSD d.toNat = some d := decSD_eq_some_iff.2 rfl
@[simp] theorem decSDPair_two_mul (d : BitVec 5) : decSDPair (2 * d.toNat) = some d := decSDPair_eq_some_iff.2 rfl
@[simp] theorem decVD2_two_mul (d : BitVec 6) : decVD2 (2 * d.toNat) = some d := (decVD2_eq_some_iff (by omega)).2 rfl
@[simp] theorem decVD4_four_mul (d : BitVec 5) : decVD4 (4 * d.toNat) = some d := (decVD4_eq_some_iff (by omega)).2 rfl
@[simp] theorem decP_toNat (d : BitVec 3) : decP d.toNat = some d := decP_eq_some_iff.2 rfl
@[simp] theorem decS_add (a : BitVec 6) : decS (192 + a.toNat) = some a := (decS_eq_some_iff (by omega)).2 rfl
@[simp] theorem decSPair_add (a : BitVec 5) : decSPair (192 + 2 * a.toNat) = some a := (decSPair_eq_some_iff (by omega)).2 rfl
@[simp] theorem decVA_toNat (a : BitVec 7) : decVA a.toNat = some a := decVA_eq_some_iff.2 rfl
@[simp] theorem decVA2_two_mul (a : BitVec 6) : decVA2 (2 * a.toNat) = some a := decVA2_eq_some_iff.2 rfl
@[simp] theorem decVA4_four_mul (a : BitVec 5) : decVA4 (4 * a.toNat) = some a := decVA4_eq_some_iff.2 rfl
@[simp] theorem decBits_toNat (k : BitVec n) : decBits n k.toNat = some k := decBits_eq_some_iff.2 rfl
@[simp] theorem decSrc_enc (a : Src) : decSrc a.enc = some a := (decSrc_eq_some_iff (src_lt a)).2 rfl
@[simp] theorem decTile_enc (a : TileRef) : decTile a.enc = some a := (decTile_eq_some_iff (tile_lt a)).2 rfl
@[simp] theorem decAddr_enc (a : AddrRef) : decAddr a.enc = some a := (decAddr_eq_some_iff (addr_lt a)).2 rfl
@[simp] theorem Space.ofCode_code (sp : Space) : Space.ofCode sp.code = some sp := Space.ofCode_eq_some_iff.2 rfl

/-! What a field or two hold together: the flag W, a space with its offset (R89), K16 and the offset of a branch (R70). -/

@[simp] theorem b2n_beq_one (w : Bool) : (b2n w == 1) = w := by cases w <;> rfl

@[simp] theorem space_of_offset (c : Nat) (k : BitVec 5) : (32 * c + k.toNat) / 32 = c := by omega

@[simp] theorem ofNat_offset (k : BitVec 5) : BitVec.ofNat 5 (k.toNat % 32) = k :=
  (ofNat_eq_iff (by omega)).2 (by omega)

@[simp] theorem ofNat_bytes (k : BitVec 16) : BitVec.ofNat 16 (k.toNat / 256 * 256 + k.toNat % 256) = k :=
  (ofNat_eq_iff (by omega)).2 (by omega)

@[simp] theorem ofNat_branch (o : BitVec 24) :
    BitVec.ofNat 24 (o.toNat / 8388608 * 8388608 + o.toNat / 65536 % 128 * 65536 + o.toNat / 256 % 256 * 256 + o.toNat % 256) = o :=
  (ofNat_eq_iff (by omega)).2 (by omega)

end

/-! ## The fields of a word (R70) -/

/-- The fields have the widths of R70. -/
structure Fields.Fits (f : Fields) : Prop where
  op : f.op < 256
  w : f.w < 2
  d : f.d < 128
  a : f.a < 256
  b : f.b < 256

section
variable {f : Fields}

theorem encodeFields_fits (i : Instr) : (encodeFields i).Fits :=
  have ⟨hop, hw, hd, ha, hb⟩ := fields_fit i
  ⟨hop, hw, hd, ha, hb⟩

theorem Fields.ofNat_fits (n : Nat) : (Fields.ofNat n).Fits := by
  constructor <;> simp only [Fields.ofNat] <;> omega

@[simp] theorem Fields.Fits.d_lt (hf : f.Fits) : f.d < 128 := hf.d
@[simp] theorem Fields.Fits.a_lt (hf : f.Fits) : f.a < 256 := hf.a
@[simp] theorem Fields.Fits.b_lt (hf : f.Fits) : f.b < 256 := hf.b

@[simp] theorem Fields.Fits.b2n_w (hf : f.Fits) : b2n (f.w == 1) = f.w := by
  obtain h | h := Nat.le_one_iff_eq_zero_or_eq_one.1 (Nat.le_of_lt_succ hf.w) <;> rw [h] <;> rfl

theorem Fields.mk_eq_iff {op w d a b : Nat} :
    Fields.mk op w d a b = f ↔ op = f.op ∧ w = f.w ∧ d = f.d ∧ a = f.a ∧ b = f.b := by
  cases f
  simp

theorem Fields.Fits.toNat_lt (hf : f.Fits) : f.toNat < 2 ^ 32 := by
  obtain ⟨hop, hw, hd, ha, hb⟩ := hf
  simp only [Fields.toNat]
  omega

theorem Fields.Fits.ofNat_toNat (hf : f.Fits) : Fields.ofNat f.toNat = f := by
  obtain ⟨hop, hw, hd, ha, hb⟩ := hf
  simp only [Fields.ofNat, Fields.toNat, Fields.mk_eq_iff]
  omega

theorem Fields.toNat_ofNat {n : Nat} (h : n < 2 ^ 32) : (Fields.ofNat n).toNat = n := by
  simp only [Fields.ofNat, Fields.toNat]
  omega

theorem Fields.op_ofNat {n : Nat} (h : n < 2 ^ 32) : (Fields.ofNat n).op = n / 2 ^ 24 := by
  simp only [Fields.ofNat]
  omega

theorem toNat_encode (i : Instr) : (encode i).toNat = (encodeFields i).toNat := by
  rw [encode, BitVec.toNat_ofNat, Nat.mod_eq_of_lt (encodeFields_fits i).toNat_lt]

/-! ## OP values without an instruction -/

/-- The OP values that are no instruction (R86). -/
def undefinedOps : List Nat :=
  [0x00, 0x0E, 0x0F, 0x57, 0x58, 0x59, 0x5A, 0x5B, 0x5C, 0x5D, 0x5E, 0x5F, 0x6E, 0x6F, 0x7A, 0x7B, 0x7C, 0x7D, 0x7E, 0x7F, 0x9F, 0xAC, 0xAD,
    0xAE, 0xAF, 0xBD, 0xBE, 0xBF, 0xCD, 0xCE, 0xCF, 0xD7, 0xD8, 0xD9, 0xDA, 0xDB, 0xDC, 0xDD, 0xDE, 0xDF, 0xF5, 0xF6, 0xF7, 0xF8, 0xF9, 0xFA,
    0xFB, 0xFC, 0xFD, 0xFE, 0xFF]

theorem decodeFields_of_undefined (h : f.op ∈ undefinedOps) :
    decodeFields f = some (.illegalInstruction (BitVec.ofNat 32 f.toNat)) := by
  obtain ⟨op, w, d, a, b⟩ := f
  simp only at h
  unfold undefinedOps at h
  fin_cases h <;> simp [decodeFields, decodeRow0, decodeRow5, decodeRow6, decodeRow7, decodeRow9, decodeRowA, decodeRowB, decodeRowC,
    decodeRowD, decodeRowF]

/-! ## What was encoded is read -/

theorem decodeFields_encodeFields (i : Instr) (hi : isEvent i = false)
    (hq : ∀ d a b, i ≠ .qxsetDropAsid d a b ∧ i ≠ .qxsetDropAll d a b ∧ i ≠ .qxsetWriteDescriptor d a b)
    (hw : ∀ w, i = .illegalInstruction w → w.toNat / 2 ^ 24 ∈ undefinedOps) : decodeFields (encodeFields i) = some i := by
  cases i with
  | nop | exit | trap | brk | yield | srd | swr | grow | detach | attach | racq | rrel | tret =>
    simp [encodeFields, decodeFields, decodeRow0]
  | add | sub | mul | mulhi | mad | min | max | and | or | xor | andn | shl | shr | sar | rotl | sad =>
    simp [encodeFields, decodeFields, decodeRow1]
  | addi | andi | ori | xori | shli | shri | sari | movi | movhi | popc | clz | brev | bfx | bfi | prmt | abs =>
    simp [encodeFields, decodeFields, decodeRow2]
  | cmpeq | cmpne | cmplt | cmple | cmpgt | cmpge | cmpun | sel | mov | movix | stix | pand | por | pxor | pnot | pset =>
    simp [encodeFields, decodeFields, decodeRow3]
  | fadd | fsub | fmul | fma | fms | fnma | fmin | fmax | fabs | fneg | fdiv | fsqrt | frcp | frsq | fexp2 | flog2 =>
    simp [encodeFields, decodeFields, decodeRow4]
  | cvt | cvtpk | cvtup | frnd | fclass | fldexp | frexp =>
    simp [encodeFields, decodeFields, decodeRow5]
  | shfl | shflup | shfldn | shflx | vall | vany | ballot | redadd | redmin | redmax | scan | lanes | bcast | vtos =>
    simp [encodeFields, decodeFields, decodeRow6]
  | bra | call | ret | jmpi | brau | brany | setmode | setmmode | setgang | splitsync =>
    simp [encodeFields, decodeFields, decodeRow7]
  | ld8 | ld16 | ld32 | ld64 | ld128 | st8 | st16 | st32 | st64 | st128 | pref | ldu | fence | fencei | ld8s | ld16s =>
    simp [encodeFields, decodeFields, decodeRow8]
  | aadd | amin | amax | aand | aor | axor | axchg | acas | afadd | radd | rmin | rmax | rfadd | lock | unlock =>
    simp [encodeFields, decodeFields, decodeRow9]
  | copy | copym | bclose | bwait | barinit | bararr | barwait | barexp | barcont | bartry | remarr | bsync =>
    simp [encodeFields, decodeFields, decodeRowA]
  | mma | mmaz | mfence | mwait | tld | tst | thdr | tchk | hadq | transq | cvtt | tfill | mwake =>
    simp [encodeFields, decodeFields, decodeRowB]
  | qopen | qrsv | qput | qputs | qget | qgets | qtry | qpeek | qclose | qfence | qack | qsvc | emit =>
    simp [encodeFields, decodeFields, decodeRowC]
  | tlbinv | lrload | lrinv | wsub | wunsub | wflush | qxsetDropVqn =>
    simp [encodeFields, decodeFields, decodeRowD]
  | sadd | ssub | smul | sand | sor | sxor | sshl | sshr | ssar | saddi | smovi | smovhi | scmplt | scmpeq | smin | smax =>
    simp [encodeFields, decodeFields, decodeRowE]
  | crd | cwait | eres | erel | eqry =>
    simp [encodeFields, decodeFields, decodeRowF]
  | qxsetDropAsid d a b => exact absurd rfl (hq d a b).1
  | qxsetDropAll d a b => exact absurd rfl (hq d a b).2.1
  | qxsetWriteDescriptor d a b => exact absurd rfl (hq d a b).2.2
  | illegalInstruction w =>
    have hop : (Fields.ofNat w.toNat).op ∈ undefinedOps := Fields.op_ofNat w.isLt ▸ hw w rfl
    simp [encodeFields, decodeFields_of_undefined hop, Fields.toNat_ofNat w.isLt]
  | _ => cases hi

/-! ## What is read encodes to the word -/

/-- What `o` gives encodes to the fields, and it is `illegalInstruction` only at an OP of R86. -/
def Fields.Inverts (f : Fields) (o : Option Instr) : Prop :=
  ∀ i, o = some i → encodeFields i = f ∧ ∀ w, i = .illegalInstruction w → f.op ∈ undefinedOps

/-- One field after the other: a row is peeled from its first reader. -/
theorem Fields.inverts_bind {α : Type} {o : Option α} {g : α → Option Instr} :
    f.Inverts (o >>= g) ↔ ∀ a, o = some a → f.Inverts (g a) := by
  cases o <;> simp [Fields.Inverts]

@[simp] theorem Fields.inverts_none : f.Inverts none := by rintro _ ⟨⟩

@[simp] theorem Fields.inverts_some {i : Instr} :
    f.Inverts (some i) ↔ encodeFields i = f ∧ ∀ w, i = .illegalInstruction w → f.op ∈ undefinedOps := by
  simp [Fields.Inverts]

theorem Fields.Fits.inverts_undefined (hf : f.Fits) (h : f.op ∈ undefinedOps) :
    f.Inverts (some (.illegalInstruction (BitVec.ofNat 32 f.toNat))) := by
  refine Fields.inverts_some.2 ⟨?_, fun _ _ => h⟩
  rw [encodeFields, BitVec.toNat_ofNat, Nat.mod_eq_of_lt hf.toNat_lt, hf.ofNat_toNat]

/-! Row by row of the opcode map (R85): each OP by the readers of its fields, and the row's last case, where it has one, by R86. -/

theorem inverts_decodeRow0 (hf : f.Fits) (hr : f.op / 16 = 0) : f.Inverts (decodeRow0 f) := by
  have ⟨hop, hw, hd, ha, hb⟩ := hf
  unfold decodeRow0
  split
  case h_14 =>
    simp only [imp_false] at *
    exact hf.inverts_undefined (by simp only [undefinedOps, List.mem_cons]; omega)
  all_goals
    simp [↓Fields.inverts_bind, hf, encodeFields, Fields.mk_eq_iff]
    omega

theorem inverts_decodeRow1 (hf : f.Fits) (hr : f.op / 16 = 1) : f.Inverts (decodeRow1 f) := by
  unfold decodeRow1
  split <;> simp [↓Fields.inverts_bind, hf, encodeFields, Fields.mk_eq_iff] <;> omega

theorem inverts_decodeRow2 (hf : f.Fits) (hr : f.op / 16 = 2) : f.Inverts (decodeRow2 f) := by
  have ⟨hop, hw, hd, ha, hb⟩ := hf
  unfold decodeRow2
  split <;> simp [↓Fields.inverts_bind, hf, encodeFields, Fields.mk_eq_iff] <;> omega

theorem inverts_decodeRow3 (hf : f.Fits) (hr : f.op / 16 = 3) : f.Inverts (decodeRow3 f) := by
  unfold decodeRow3
  split <;> simp [↓Fields.inverts_bind, hf, encodeFields, Fields.mk_eq_iff] <;> omega

theorem inverts_decodeRow4 (hf : f.Fits) (hr : f.op / 16 = 4) : f.Inverts (decodeRow4 f) := by
  unfold decodeRow4
  split <;> simp [↓Fields.inverts_bind, hf, encodeFields, Fields.mk_eq_iff] <;> omega

theorem inverts_decodeRow5 (hf : f.Fits) (hr : f.op / 16 = 5) : f.Inverts (decodeRow5 f) := by
  unfold decodeRow5
  split
  case h_8 =>
    simp only [imp_false] at *
    exact hf.inverts_undefined (by simp only [undefinedOps, List.mem_cons]; omega)
  all_goals
    simp [↓Fields.inverts_bind, hf, encodeFields, Fields.mk_eq_iff]
    omega

theorem inverts_decodeRow6 (hf : f.Fits) (hr : f.op / 16 = 6) : f.Inverts (decodeRow6 f) := by
  unfold decodeRow6
  split
  case h_15 =>
    simp only [imp_false] at *
    exact hf.inverts_undefined (by simp only [undefinedOps, List.mem_cons]; omega)
  all_goals
    simp [↓Fields.inverts_bind, hf, encodeFields, Fields.mk_eq_iff]
    omega

theorem inverts_decodeRow7 (hf : f.Fits) (hr : f.op / 16 = 7) : f.Inverts (decodeRow7 f) := by
  have ⟨hop, hw, hd, ha, hb⟩ := hf
  unfold decodeRow7
  split
  case h_11 =>
    simp only [imp_false] at *
    exact hf.inverts_undefined (by simp only [undefinedOps, List.mem_cons]; omega)
  all_goals
    simp [↓Fields.inverts_bind, hf, encodeFields, Fields.mk_eq_iff]
    omega

theorem inverts_decodeRow8 (hf : f.Fits) (hr : f.op / 16 = 8) : f.Inverts (decodeRow8 f) := by
  unfold decodeRow8
  split <;> simp [↓Fields.inverts_bind, hf, encodeFields, Fields.mk_eq_iff] <;> omega

theorem inverts_decodeRow9 (hf : f.Fits) (hr : f.op / 16 = 9) : f.Inverts (decodeRow9 f) := by
  unfold decodeRow9
  split
  case h_16 =>
    simp only [imp_false] at *
    exact hf.inverts_undefined (by simp only [undefinedOps, List.mem_cons]; omega)
  all_goals
    simp [↓Fields.inverts_bind, hf, encodeFields, Fields.mk_eq_iff]
    omega

theorem inverts_decodeRowA (hf : f.Fits) (hr : f.op / 16 = 10) : f.Inverts (decodeRowA f) := by
  unfold decodeRowA
  split
  case h_13 =>
    simp only [imp_false] at *
    exact hf.inverts_undefined (by simp only [undefinedOps, List.mem_cons]; omega)
  all_goals
    simp [↓Fields.inverts_bind, hf, encodeFields, Fields.mk_eq_iff]
    omega

theorem inverts_decodeRowB (hf : f.Fits) (hr : f.op / 16 = 11) : f.Inverts (decodeRowB f) := by
  unfold decodeRowB
  split
  case h_14 =>
    simp only [imp_false] at *
    exact hf.inverts_undefined (by simp only [undefinedOps, List.mem_cons]; omega)
  all_goals
    simp [↓Fields.inverts_bind, hf, encodeFields, Fields.mk_eq_iff]
    omega

theorem inverts_decodeRowC (hf : f.Fits) (hr : f.op / 16 = 12) : f.Inverts (decodeRowC f) := by
  unfold decodeRowC
  split
  case h_14 =>
    simp only [imp_false] at *
    exact hf.inverts_undefined (by simp only [undefinedOps, List.mem_cons]; omega)
  all_goals
    simp [↓Fields.inverts_bind, hf, encodeFields, Fields.mk_eq_iff]
    omega

theorem inverts_decodeRowD (hf : f.Fits) (hr : f.op / 16 = 13) : f.Inverts (decodeRowD f) := by
  unfold decodeRowD
  split
  case h_8 =>
    simp only [imp_false] at *
    exact hf.inverts_undefined (by simp only [undefinedOps, List.mem_cons]; omega)
  all_goals
    simp [↓Fields.inverts_bind, hf, encodeFields, Fields.mk_eq_iff]
    omega

theorem inverts_decodeRowE (hf : f.Fits) (hr : f.op / 16 = 14) : f.Inverts (decodeRowE f) := by
  have ⟨hop, hw, hd, ha, hb⟩ := hf
  unfold decodeRowE
  split <;> simp [↓Fields.inverts_bind, hf, encodeFields, Fields.mk_eq_iff] <;> omega

theorem inverts_decodeRowF (hf : f.Fits) (hr : f.op / 16 = 15) : f.Inverts (decodeRowF f) := by
  unfold decodeRowF
  split
  case h_6 =>
    simp only [imp_false] at *
    exact hf.inverts_undefined (by simp only [undefinedOps, List.mem_cons]; omega)
  all_goals
    simp [↓Fields.inverts_bind, hf, encodeFields, Fields.mk_eq_iff]
    omega

theorem inverts_decodeFields (hf : f.Fits) : f.Inverts (decodeFields f) := by
  unfold decodeFields
  split
  next h => exact inverts_decodeRow0 hf h
  next h => exact inverts_decodeRow1 hf h
  next h => exact inverts_decodeRow2 hf h
  next h => exact inverts_decodeRow3 hf h
  next h => exact inverts_decodeRow4 hf h
  next h => exact inverts_decodeRow5 hf h
  next h => exact inverts_decodeRow6 hf h
  next h => exact inverts_decodeRow7 hf h
  next h => exact inverts_decodeRow8 hf h
  next h => exact inverts_decodeRow9 hf h
  next h => exact inverts_decodeRowA hf h
  next h => exact inverts_decodeRowB hf h
  next h => exact inverts_decodeRowC hf h
  next h => exact inverts_decodeRowD hf h
  next h => exact inverts_decodeRowE hf h
  next h => exact inverts_decodeRowF hf h
  next => exact Fields.inverts_none

/-! ## Words and bytes -/

theorem wordOfBytes_bytesOfWord {n : Nat} (h : n < 2 ^ 32) :
    wordOfBytes (BitVec.ofNat 8 n) (BitVec.ofNat 8 (n / 256)) (BitVec.ofNat 8 (n / 65536)) (BitVec.ofNat 8 (n / 16777216)) = n := by
  simp only [wordOfBytes, BitVec.toNat_ofNat]
  omega

/-- The bytes of a word decode as the word and leave what follows. -/
theorem decode_bytesOfWord {n : Nat} {i : Instr} (h : n < 2 ^ 32) (hn : decodeWord n = .ok i) (rest : List Byte) :
    decode (bytesOfWord n ++ rest) = .ok (i, rest) := by
  simp only [bytesOfWord, List.cons_append, List.nil_append, decode, wordOfBytes_bytesOfWord h, hn]

theorem decodeWord_of_decodeFields {n : Nat} {i : Instr} (h : decodeFields (Fields.ofNat n) = some i) (hi : i.wf = true) :
    decodeWord n = .ok i := by
  simp only [decodeWord, h, hi, if_true]

theorem decodeFields_of_decodeWord {n : Nat} {i : Instr} (h : decodeWord n = .ok i) : decodeFields (Fields.ofNat n) = some i := by
  unfold decodeWord at h
  split at h
  next j hj =>
    split at h
    · cases h; exact hj
    · cases h
  next => cases h

theorem encode_of_decodeWord {w : Word} {i : Instr} (h : decodeWord w.toNat = .ok i) : encode i = w := by
  obtain ⟨hi, -⟩ := inverts_decodeFields (Fields.ofNat_fits _) i (decodeFields_of_decodeWord h)
  rw [encode, hi, Fields.toNat_ofNat w.isLt, BitVec.ofNat_toNat, BitVec.setWidth_eq]

/-- A word is no instruction exactly at the OP values of R86. -/
theorem decodeWord_eq_illegal_iff (w : Word) :
    decodeWord w.toNat = .ok (.illegalInstruction w) ↔ w.toNat / 2 ^ 24 ∈ undefinedOps := by
  rw [← Fields.op_ofNat w.isLt]
  constructor
  · intro h
    obtain ⟨-, hop⟩ := inverts_decodeFields (Fields.ofNat_fits _) _ (decodeFields_of_decodeWord h)
    exact hop w rfl
  · intro h
    refine decodeWord_of_decodeFields ?_ rfl
    rw [decodeFields_of_undefined h, Fields.toNat_ofNat w.isLt, BitVec.ofNat_toNat, BitVec.setWidth_eq]

end
end Sys2Proof
end

section
open Sys2Proof Sys2Proof.Machine

/-- Settles O55: a field is read back as it was encoded, row by row of the opcode map (R69 to R89). -/
theorem decodeAndEncodeAgree : Obligations.DecodeAndEncodeAgree := by
  unfold Obligations.DecodeAndEncodeAgree
  intro gap
  have hgap (op : Nat) : gap op = true ↔ op ∈ undefinedOps := List.contains_iff_mem
  refine ⟨fun i rest hwf hi hq hw => ?roundTrip, fun _ _ _ => ⟨rfl, rfl, rfl⟩, fun w i h => ?word, fun w => ?illegal⟩
  case roundTrip =>
    have hfields := decodeFields_encodeFields i hi hq fun w h => (hgap _).1 (hw w h)
    refine decode_bytesOfWord (encode i).isLt (decodeWord_of_decodeFields ?_ hwf) rest
    rw [toNat_encode, (encodeFields_fits i).ofNat_toNat, hfields]
  case word =>
    obtain ⟨hwf, hi⟩ := wf_and_instruction_of_decodeWord h
    exact ⟨encode_of_decodeWord h, hwf, hi⟩
  case illegal => rw [decodeWord_eq_illegal_iff, hgap]

/-- Settles O56: each word is read by computation. -/
theorem knownWordsDecode : Obligations.KnownWordsDecode :=
  ⟨rfl, rfl, rfl, rfl, rfl, rfl, rfl, rfl, rfl, rfl, rfl, rfl, rfl, rfl, rfl, rfl, rfl, rfl, rfl, rfl, rfl⟩
end

section
/-!
SUPPORT. Packed elements: each code in its place, generator values in ascending order, and results narrowed to the view (R118, R122,
R124, R134, R145, R146).
-/
namespace Sys2Proof.Machine

section
variable {w : Nat}

/-- Element k of packed codes is the low bits of the k-th code; past the last one it is 0. -/
theorem packElems_digit (l : List Nat) (k : Nat) : packElems w l / 2 ^ (w * k) % 2 ^ w = nth 0 l k % 2 ^ w := by
  induction l generalizing k with
  | nil => simp [packElems, nth]
  | cons c r ih =>
    cases k with
    | zero => simp [packElems, nth]
    | succ k =>
      have hc : (c % 2 ^ w + 2 ^ w * packElems w r) / 2 ^ w = packElems w r := by
        rw [Nat.add_mul_div_left _ _ (Nat.two_pow_pos w), Nat.div_eq_of_lt (Nat.mod_lt _ (Nat.two_pow_pos w)), Nat.zero_add]
      rw [packElems, nth, show w * (k + 1) = w + w * k by ring, Nat.pow_add, ← Nat.div_div_eq_div_mul, hc, ih]

theorem packElems_lt (l : List Nat) : packElems w l < 2 ^ (w * l.length) := by
  induction l with
  | nil => simp [packElems]
  | cons c r ih =>
    have hc := Nat.mod_lt c (Nat.two_pow_pos w)
    calc packElems w (c :: r) < 2 ^ w + 2 ^ w * packElems w r := by simpa [packElems] using hc
      _ = 2 ^ w * (packElems w r + 1) := by ring
      _ ≤ 2 ^ w * 2 ^ (w * r.length) := Nat.mul_le_mul_left _ ih
      _ = 2 ^ (w * (c :: r).length) := by rw [← Nat.pow_add, List.length_cons, Nat.mul_succ, Nat.add_comm]

/-- In a word that holds the codes, element k is the low bits of the k-th code. -/
theorem elemCode_packElems {l : List Nat} (h : w * l.length = 32) (k : Nat) :
    elemCode w (BitVec.ofNat 32 (packElems w l)) k = nth 0 l k % 2 ^ w := by
  have hl : packElems w l < 2 ^ 32 := h ▸ packElems_lt l
  rw [elemCode, BitVec.toNat_ofNat, Nat.mod_eq_of_lt hl, packElems_digit]

end

/-- The elements of a type fill the word. -/
theorem etWidth_mul_etCount (et : Nat) : etWidth et * etCount et = 32 := by
  unfold etCount etWidth
  split
  · rfl
  · split <;> rfl

theorem etWidth_pos (et : Nat) : 0 < etWidth et := by
  by_contra h
  have := etWidth_mul_etCount et
  rw [Nat.le_zero.1 (Nat.not_lt.1 h), Nat.zero_mul] at this
  exact absurd this (by decide)

theorem elemCode_mapElems {et k : Nat} (f : Nat → Nat) (h : k < etCount et) :
    elemCode (etWidth et) (mapElems et f) k = f k % 2 ^ etWidth et := by
  rw [mapElems, elemCode_packElems (by simpa using etWidth_mul_etCount et), nth_map_range _ _ _ _ h]

/-- The generator after n values under RSR; in the other modes it stays (R134). -/
def rsrAfter (rsr : Bool) (n : Nat) (g : Word) : Word := if rsr = true then Nat.repeat rngNext n g else g

@[simp] theorem rsrAfter_zero (rsr : Bool) (g : Word) : rsrAfter rsr 0 g = g := ite_self g

theorem repeat_succ_left {α : Type} (f : α → α) (n : Nat) (a : α) : Nat.repeat f n (f a) = Nat.repeat f (n + 1) a := by
  induction n with
  | zero => rfl
  | succ n ih => exact congrArg f ih

theorem rsrAfter_succ (rsr : Bool) (n : Nat) (g : Word) :
    rsrAfter rsr n (if rsr = true then rngNext g else g) = rsrAfter rsr (n + 1) g := by
  cases rsr
  · rfl
  · exact repeat_succ_left rngNext n g

/-- Elements are formed in ascending order, element j of them from the j + 1-st value, and the generator stands after the last. -/
theorem elemsRsr_eq (w : Nat) (rsr : Bool) (f : Nat → Nat → Nat) (n k : Nat) (g : Word) : elemsRsr w rsr f k n g =
    ((List.range n).map fun j => f (k + j) (rsrAfter rsr (j + 1) g).toNat, rsrAfter rsr n g) := by
  induction n generalizing k g with
  | zero => simp [elemsRsr]
  | succ n ih =>
    have hk (j : Nat) : k + 1 + j = k + (j + 1) := by omega
    have hone : (if rsr = true then rngNext g else g) = rsrAfter rsr 1 g := rfl
    simp only [elemsRsr, ih, rsrAfter_succ]
    simp [List.range_succ_eq_map, Function.comp_def, hk, hone]

theorem wordRsr_eq (et : Nat) (r : Rounding) (f : Nat → Nat → Nat) (g : Word) : wordRsr et r f g =
    (mapElems et fun k => f k (rsrAfter (r.rm == 5) (k + 1) g).toNat, rsrAfter (r.rm == 5) (etCount et) g) := by
  simp [wordRsr, elemsRsr_eq, mapElems]

theorem wrapInt_lt (w : Nat) (z : Int) : wrapInt w z < 2 ^ w := by
  have hp : (0 : Int) < Int.ofNat (2 ^ w) := Int.natCast_pos.2 (Nat.two_pow_pos w)
  have hlt := Int.emod_lt_of_pos z hp
  have hge := Int.emod_nonneg z hp.ne'
  simp only [Int.ofNat_eq_natCast] at hlt hge
  rw [wrapInt, Int.ofNat_eq_natCast]
  omega

theorem wrapInt_eq (w : Nat) (z : Int) : (wrapInt w z : Int) = z % 2 ^ w := by
  have hp : (0 : Int) < 2 ^ w := by positivity
  simp [wrapInt, Int.toNat_of_nonneg (Int.emod_nonneg z hp.ne')]

/-- A code of w bits is read signed as the integer whose low bits it is, where that lies in the range. -/
theorem signedOf_wrapInt {w : Nat} {z : Int} (hw : 0 < w) (hlo : -(2 ^ (w - 1)) ≤ z) (hhi : z < 2 ^ (w - 1)) :
    signedOf w (wrapInt w z) = z := by
  obtain ⟨v, rfl⟩ : ∃ v, w = v + 1 := ⟨w - 1, by omega⟩
  have hv : (2 : Int) ^ (v + 1) = 2 * 2 ^ v := by ring
  have he := wrapInt_eq (v + 1) z
  have hn : (2 ^ v : Nat) = (2 : Int) ^ v := by simp
  simp only [Nat.add_sub_cancel] at hlo hhi
  simp only [signedOf, Nat.add_sub_cancel, Int.ofNat_eq_natCast, Nat.pow_succ, Int.natCast_mul, hn]
  rw [hv] at he
  rcases lt_or_ge z 0 with hz | hz
  · have hr : z % (2 * 2 ^ v) = z + 2 * 2 ^ v := by
      rw [← Int.add_emod_right, Int.emod_eq_of_lt (by omega) (by omega)]
    rw [if_neg (by omega)]
    omega
  · have hr : z % (2 * 2 ^ v) = z := Int.emod_eq_of_lt hz (by omega)
    rw [if_pos (by omega)]
    omega

/-- A clamped result read in its view is the nearest integer of the view's range (R124). -/
theorem signedOf_clampInt {w : Nat} (hw : 0 < w) (z : Int) :
    signedOf w (clampInt true w z) = max (-(2 ^ (w - 1))) (min (2 ^ (w - 1) - 1) z) := by
  have hp : (0 : Int) < 2 ^ (w - 1) := by positivity
  have hn : (2 ^ (w - 1) : Nat) = (2 : Int) ^ (w - 1) := by simp
  simp only [clampInt, if_true, Int.ofNat_eq_natCast, hn]
  exact signedOf_wrapInt hw (by omega) (by omega)

theorem clampInt_unsigned (w : Nat) (z : Int) : (clampInt false w z : Int) = max 0 (min (2 ^ w - 1) z) := by
  simp [clampInt]

theorem clampInt_lt (signed : Bool) (w : Nat) (z : Int) : clampInt signed w z < 2 ^ w := by
  cases signed with
  | true => exact wrapInt_lt w _
  | false =>
    have hp : (0 : Int) < 2 ^ w := by positivity
    have he := clampInt_unsigned w z
    zify
    omega

end Sys2Proof.Machine
end

section
open Sys2Proof Sys2Proof.Machine

/-- Settles O14: the digits of a packed word, the generator after each element, and the range of each view. -/
theorem elementsStandInTheirPlaces : Obligations.ElementsStandInTheirPlaces := by
  unfold Obligations.ElementsStandInTheirPlaces
  refine ⟨fun et f k _ hk => elemCode_mapElems f hk, fun et r f g _ => ?word, fun et z _ => ?narrow, fun g => rfl⟩
  case word =>
    rw [wordRsr_eq]
    refine ⟨fun k hk => ?_, by simp [rsrAfter]⟩
    rw [elemCode_mapElems _ hk]
    simp [rsrAfter]
  case narrow =>
    refine ⟨wrapInt_lt _ _, ?_, clampInt_lt _ _ _, fun hs => ?_, fun hs => ?_⟩
    · simp [narrowInt, wrapInt_eq]
    · simp only [narrowInt, if_true, hs]
      exact signedOf_clampInt (etWidth_pos et) z
    · simp only [narrowInt, if_true, hs]
      exact clampInt_unsigned _ z
end

section
/-!
SUPPORT. The rationals of the model as numbers: what each operation gives, and how comparisons read.
-/
namespace Sys2Proof.Machine

section
variable {a b : Q}

theorem Q.value_eq_div (a : Q) : a.value = a.num / a.den := Rat.mkRat_eq_div _ _

@[simp] theorem Q.value_ofInt (z : Int) : (Q.ofInt z).value = z := by simp [Q.value_eq_div, Q.ofInt]

theorem Q.value_of_num_eq_zero (h : a.num = 0) : a.value = 0 := by simp [Q.value_eq_div, h]

theorem Q.value_eq_zero_iff (ha : 0 < a.den) : a.value = 0 ↔ a.num = 0 := by
  rw [Q.value_eq_div]
  simp [ha.ne']

@[simp] theorem Q.dyadic_den_pos (n e : Int) : 0 < (Q.dyadic n e).den := by
  unfold Q.dyadic
  split
  · exact Nat.one_pos
  · exact Nat.two_pow_pos _

/-- n × 2^e as a number. -/
@[simp] theorem Q.value_dyadic (n e : Int) : (Q.dyadic n e).value = n * 2 ^ e := by
  rw [Q.value_eq_div, Q.dyadic]
  split
  next h =>
    obtain ⟨k, rfl⟩ := Int.eq_ofNat_of_zero_le h
    simp
  next h =>
    obtain ⟨k, hk⟩ := Int.eq_ofNat_of_zero_le (Int.le_of_lt (Int.neg_pos_of_neg (Int.not_le.1 h)))
    rw [show e = -(k : Int) by omega]
    simp [div_eq_mul_inv]

@[simp] theorem Q.den_neg : a.neg.den = a.den := rfl

@[simp] theorem Q.value_neg (a : Q) : a.neg.value = -a.value := by simp [Q.value_eq_div, Q.neg, neg_div]

@[simp] theorem Q.den_abs : a.abs.den = a.den := rfl

@[simp] theorem Q.value_abs (a : Q) : a.abs.value = |a.value| := by
  simp [Q.value_eq_div, Q.abs, abs_div]

theorem Q.abs_num_nonneg (a : Q) : 0 ≤ a.abs.num := Int.natCast_nonneg _

theorem Q.abs_of_nonneg (h : 0 ≤ a.num) : a.abs = a := by
  simp [Q.abs, Int.natAbs_of_nonneg h]

theorem Q.value_nonneg (h : 0 ≤ a.num) : 0 ≤ a.value := by
  rw [Q.value_eq_div]
  positivity

section
variable (ha : 0 < a.den) (hb : 0 < b.den)
include ha hb

theorem Q.add_den_pos : 0 < (Q.add a b).den := by
  unfold Q.add
  split
  · exact ha
  · split
    · exact hb
    · exact Nat.mul_pos ha hb

theorem Q.value_add : (Q.add a b).value = a.value + b.value := by
  have ha' : (a.den : Rat) ≠ 0 := by exact_mod_cast ha.ne'
  have hb' : (b.den : Rat) ≠ 0 := by exact_mod_cast hb.ne'
  unfold Q.add
  split
  next h =>
    obtain ⟨k, hk⟩ := Nat.dvd_of_mod_eq_zero h
    have hk0 : (k : Rat) ≠ 0 := by
      rintro hk0
      simp [Nat.cast_eq_zero.1 hk0] at hk
      omega
    simp only [Q.value_eq_div, hk, Nat.mul_div_cancel_left _ hb, Int.ofNat_eq_natCast]
    push_cast
    field_simp
  · split
    next h =>
      obtain ⟨k, hk⟩ := Nat.dvd_of_mod_eq_zero h
      have hk0 : (k : Rat) ≠ 0 := by
        rintro hk0
        simp [Nat.cast_eq_zero.1 hk0] at hk
        omega
      simp only [Q.value_eq_div, hk, Nat.mul_div_cancel_left _ ha, Int.ofNat_eq_natCast]
      push_cast
      field_simp
    · simp only [Q.value_eq_div, Int.ofNat_eq_natCast]
      push_cast
      field_simp

theorem Q.value_add_neg : (Q.add a b.neg).value = a.value - b.value := by
  rw [Q.value_add ha (b := b.neg) hb, Q.value_neg, sub_eq_add_neg]

theorem Q.lt_iff : Q.lt a b = true ↔ a.value < b.value := by
  have ha' : (0 : Rat) < a.den := by exact_mod_cast ha
  have hb' : (0 : Rat) < b.den := by exact_mod_cast hb
  rw [Q.lt, decide_eq_true_iff, Q.value_eq_div, Q.value_eq_div, div_lt_div_iff₀ ha' hb']
  exact_mod_cast Iff.rfl

theorem Q.not_lt_iff : Q.lt a b = false ↔ b.value ≤ a.value := by
  rw [← not_lt, ← Q.lt_iff ha hb, Bool.not_eq_true]

theorem Q.eq_iff : Q.eq a b = true ↔ a.value = b.value := by
  have ha' : (a.den : Rat) ≠ 0 := by exact_mod_cast ha.ne'
  have hb' : (b.den : Rat) ≠ 0 := by exact_mod_cast hb.ne'
  rw [Q.eq, beq_iff_eq, Q.value_eq_div, Q.value_eq_div, div_eq_div_iff ha' hb']
  exact_mod_cast Iff.rfl

end

@[simp] theorem Q.value_mul (a b : Q) : (Q.mul a b).value = a.value * b.value := by
  simp [Q.value_eq_div, Q.mul, div_mul_div_comm]

theorem Q.mul_den_pos (ha : 0 < a.den) (hb : 0 < b.den) : 0 < (Q.mul a b).den := Nat.mul_pos ha hb

theorem Q.div_den_pos (ha : 0 < a.den) (hb : b.num ≠ 0) : 0 < (Q.div a b).den := by
  unfold Q.div
  split
  · exact Nat.mul_pos ha (by omega)
  · exact Nat.mul_pos ha (by omega)

@[simp] theorem Q.value_div (a b : Q) : (Q.div a b).value = a.value / b.value := by
  rw [Q.div]
  split
  next h =>
    have hn : ((b.num.toNat : Nat) : Rat) = b.num := by exact_mod_cast Int.toNat_of_nonneg h.le
    simp [Q.value_eq_div, hn, div_div_div_eq]
  next h =>
    have hn : (((-b.num).toNat : Nat) : Rat) = -b.num := by exact_mod_cast Int.toNat_of_nonneg (by omega : 0 ≤ -b.num)
    simp [Q.value_eq_div, hn, div_div_div_eq, div_neg, neg_div]

theorem Q.floor_eq (a : Q) : a.floor = ⌊a.value⌋ := by
  rw [Q.value_eq_div, Rat.floor_intCast_div_natCast, Q.floor]
  rfl

end

/-- 2^⌊log2⌋ is the power of two at or below the value. -/
theorem log2Floor_spec {q : Q} (hn : 0 < q.num) (hd : 0 < q.den) :
    (2 : Rat) ^ log2Floor q ≤ q.value ∧ q.value < 2 ^ (log2Floor q + 1) := by
  obtain ⟨n, hq⟩ := Int.eq_ofNat_of_zero_le hn.le
  have hn0 : n ≠ 0 := by omega
  have hd' : (0 : Rat) < q.den := by exact_mod_cast hd
  have hnlo : (2 : Rat) ^ n.log2 ≤ n := by exact_mod_cast Nat.log2_self_le hn0
  have hnhi : (n : Rat) < 2 ^ (n.log2 + 1) := by exact_mod_cast Nat.lt_log2_self
  have hdlo : (2 : Rat) ^ q.den.log2 ≤ q.den := by exact_mod_cast Nat.log2_self_le hd.ne'
  have hdhi : (q.den : Rat) < 2 ^ (q.den.log2 + 1) := by exact_mod_cast Nat.lt_log2_self
  have hv : q.value = n / q.den := by rw [Q.value_eq_div, hq]; simp
  obtain ⟨e, he⟩ : ∃ e : Int, e = n.log2 - q.den.log2 := ⟨_, rfl⟩
  have hlog : log2Floor q = if (2 : Rat) ^ e ≤ q.value then e else e - 1 := by
    have hle : (Q.dyadic 1 e).num * Int.ofNat q.den ≤ Int.ofNat n * Int.ofNat (Q.dyadic 1 e).den ↔ (2 : Rat) ^ e ≤ q.value := by
      have h := Q.not_lt_iff hd (Q.dyadic_den_pos 1 e)
      simp only [Q.value_dyadic, Int.cast_one, one_mul, Q.lt, decide_eq_false_iff_not, not_lt, hq] at h
      exact h
    simp only [log2Floor, hq, Int.natAbs_natCast, Int.ofNat_eq_natCast, ← he] at hle ⊢
    simp only [hle]
  have hlow : (2 : Rat) ^ (e - 1) ≤ q.value := by
    rw [hv, le_div_iff₀ hd', he]
    calc (2 : Rat) ^ ((n.log2 : Int) - q.den.log2 - 1) * q.den
        ≤ 2 ^ ((n.log2 : Int) - q.den.log2 - 1) * 2 ^ (q.den.log2 + 1) := by gcongr
      _ = 2 ^ n.log2 := by rw [← zpow_natCast, ← zpow_natCast, ← zpow_add₀ two_ne_zero]; congr 1; push_cast; ring
      _ ≤ n := hnlo
  have hhigh : q.value < 2 ^ (e + 1) := by
    rw [hv, div_lt_iff₀ hd', he]
    calc (n : Rat) < 2 ^ (n.log2 + 1) := hnhi
      _ = 2 ^ ((n.log2 : Int) - q.den.log2 + 1) * 2 ^ q.den.log2 := by
        rw [← zpow_natCast, ← zpow_natCast, ← zpow_add₀ two_ne_zero]; congr 1; push_cast; ring
      _ ≤ 2 ^ ((n.log2 : Int) - q.den.log2 + 1) * q.den := by gcongr
  rw [hlog]
  split
  next h => exact ⟨h, hhigh⟩
  next h => exact ⟨hlow, by simpa using h⟩

end Sys2Proof.Machine
end

section
/-!
SUPPORT. Formats: the magnitudes rise with the codes, the code lo of R133, and the choice between it and the next code.
-/
namespace Sys2Proof.Machine

section
variable {f : Fmt}

/-- The magnitude code of a binary format (R125). -/
theorem Fmt.mag_binary (hf : f ≠ .d8) (c : Nat) : f.mag c =
    if c / 2 ^ f.frac = 0 then Q.dyadic c (f.emin - f.frac)
    else Q.dyadic (c % 2 ^ f.frac + 2 ^ f.frac : Nat) (f.emin + (c / 2 ^ f.frac : Nat) - 1 - f.frac) := by
  cases f
  case d8 => exact absurd rfl hf
  all_goals rfl

theorem Fmt.d8Tail_den_pos (t : Nat) : 0 < (d8Tail t).den := by
  unfold d8Tail
  dsimp only
  split <;> positivity

@[simp] theorem Fmt.mag_den_pos (f : Fmt) (c : Nat) : 0 < (f.mag c).den := by
  by_cases hf : f = .d8
  · subst hf
    rw [Fmt.mag]
    split
    · exact Nat.one_pos
    · split
      · exact Nat.one_pos
      · exact Fmt.d8Tail_den_pos c
  · rw [Fmt.mag_binary hf]
    split <;> exact Q.dyadic_den_pos _ _

theorem Fmt.mag_num_nonneg (f : Fmt) (c : Nat) : 0 ≤ (f.mag c).num := by
  have hdy (n : Nat) (e : Int) : 0 ≤ (Q.dyadic n e).num := by
    unfold Q.dyadic
    split <;> positivity
  by_cases hf : f = .d8
  · subst hf
    simp only [Fmt.mag, d8Tail]
    split
    · exact le_rfl
    · split
      · decide
      · split <;> exact Int.natCast_nonneg _
  · rw [Fmt.mag_binary hf]
    split <;> exact hdy _ _

/-- Step k of binade j of a binary format, the end of the binade included, has magnitude k × 2^(emin + j − frac) (R125); binade 0
holds the subnormals too. -/
theorem Fmt.value_mag_binade (hf : f ≠ .d8) {j k : Nat} (hk : k ≤ 2 * 2 ^ f.frac) (hj : j = 0 ∨ 2 ^ f.frac ≤ k) :
    (f.mag (j * 2 ^ f.frac + k)).value = k * 2 ^ (f.emin + j - f.frac) := by
  have hp : 0 < 2 ^ f.frac := Nat.two_pow_pos _
  have hdiv : (j * 2 ^ f.frac + k) / 2 ^ f.frac = j + k / 2 ^ f.frac := by
    rw [Nat.add_comm, Nat.add_mul_div_right _ _ hp, Nat.add_comm]
  have hmod : (j * 2 ^ f.frac + k) % 2 ^ f.frac = k % 2 ^ f.frac := by
    rw [Nat.add_comm, Nat.add_mul_mod_self_right]
  rw [Fmt.mag_binary hf, hdiv, hmod]
  rcases lt_or_ge k (2 ^ f.frac) with hlt | hge
  · obtain rfl : j = 0 := by omega
    simp [Nat.div_eq_of_lt hlt]
  · have hsub : k % 2 ^ f.frac + 2 ^ f.frac * (k / 2 ^ f.frac) = k := Nat.mod_add_div k _
    rcases hk.lt_or_eq with hlt | rfl
    · have hq : k / 2 ^ f.frac = 1 := Nat.div_eq_of_lt_le (by omega) (by omega)
      rw [hq, Nat.mul_one] at hsub
      rw [hq, if_neg (by omega), hsub, Q.value_dyadic]
      push_cast
      congr 2
      ring
    · rw [Nat.mul_div_cancel _ hp, Nat.mul_mod_left, if_neg (by omega), Q.value_dyadic]
      push_cast
      rw [show f.emin + ((j : Int) + 2) - 1 - f.frac = f.emin + j - f.frac + 1 by ring, zpow_add_one₀ two_ne_zero]
      ring

/-- Every code is a step of a binade. -/
theorem exists_binade (m c : Nat) : ∃ j k, c = j * 2 ^ m + k ∧ k < 2 * 2 ^ m ∧ (j = 0 ∨ 2 ^ m ≤ k) := by
  have hc := Nat.div_add_mod' c (2 ^ m)
  have hm := Nat.mod_lt c (Nat.two_pow_pos m)
  cases h : c / 2 ^ m with
  | zero => exact ⟨0, c, by omega, by rw [h] at hc; omega, .inl rfl⟩
  | succ j => exact ⟨j, c % 2 ^ m + 2 ^ m, by rw [← hc, h]; simp; ring, by omega, .inr (by omega)⟩

theorem Fmt.mag_lt_mag_succ_of_binary (hf : f ≠ .d8) (c : Nat) : (f.mag c).value < (f.mag (c + 1)).value := by
  obtain ⟨j, k, rfl, hk, hj⟩ := exists_binade f.frac c
  rw [Nat.add_assoc, Fmt.value_mag_binade hf hk.le hj, Fmt.value_mag_binade hf hk (hj.imp_right Nat.le_succ_of_le)]
  have hp : (0 : Rat) < 2 ^ (f.emin + j - f.frac) := by positivity
  have hk1 : (k : Rat) < ((k + 1 : Nat) : Rat) := by exact_mod_cast k.lt_succ_self
  exact mul_lt_mul_of_pos_right hk1 hp

theorem Fmt.d8_mag_lt_mag_succ : ∀ c < 0x7F, Q.lt (Fmt.d8.mag c) (Fmt.d8.mag (c + 1)) = true := by decide

/-- Neighbouring codes have rising magnitudes, the first one above the largest value included. -/
theorem Fmt.mag_lt_mag_succ {c : Nat} (hc : c ≤ f.maxCode) : (f.mag c).value < (f.mag (c + 1)).value := by
  by_cases hf : f = .d8
  · subst hf
    exact (Q.lt_iff (Fmt.mag_den_pos _ _) (Fmt.mag_den_pos _ _)).1 (Fmt.d8_mag_lt_mag_succ c (Nat.lt_succ_of_le hc))
  · exact Fmt.mag_lt_mag_succ_of_binary hf c

theorem Fmt.mag_lt_mag {c d : Nat} (hcd : c < d) (hd : d ≤ f.maxCode + 1) : (f.mag c).value < (f.mag d).value := by
  induction d with
  | zero => exact absurd hcd (Nat.not_lt_zero c)
  | succ d ih =>
    have hstep : (f.mag d).value < (f.mag (d + 1)).value := Fmt.mag_lt_mag_succ (Nat.le_of_succ_le_succ hd)
    rcases Nat.lt_succ_iff_lt_or_eq.1 hcd with h | rfl
    · exact (ih h (by omega)).trans hstep
    · exact hstep

theorem Fmt.mag_mono_of_binary (hf : f ≠ .d8) {c d : Nat} (h : c ≤ d) : (f.mag c).value ≤ (f.mag d).value :=
  (strictMono_nat_of_lt_succ (Fmt.mag_lt_mag_succ_of_binary hf)).monotone h

end

section
variable {f : Fmt} {q : Q}

theorem Fmt.lo_of_num_eq_zero (h : q.num = 0) : f.lo q = 0 := by simp [Fmt.lo, h]

@[simp] theorem Fmt.mag_zero_num (f : Fmt) : (f.mag 0).num = 0 := by cases f <;> decide

@[simp] theorem Fmt.value_mag_zero (f : Fmt) : (f.mag 0).value = 0 := Q.value_of_num_eq_zero f.mag_zero_num

/-- The code that `lo` computes in a binary format: the step of a binade that holds the value, no further than the largest code. -/
theorem Fmt.lo_binary (hf : f ≠ .d8) (hn : 0 < q.num) (hd : 0 < q.den) : ∃ j k : Nat, f.lo q = min (j * 2 ^ f.frac + k) f.maxCode ∧
    k < 2 * 2 ^ f.frac ∧ (j = 0 ∨ 2 ^ f.frac ≤ k) ∧
    (k : Rat) * 2 ^ (f.emin + j - f.frac) ≤ q.value ∧ q.value < (k + 1) * 2 ^ (f.emin + j - f.frac) := by
  obtain ⟨hlo, hhi⟩ := log2Floor_spec hn hd
  obtain ⟨e, he⟩ : ∃ e, e = max (log2Floor q) f.emin := ⟨_, rfl⟩
  obtain ⟨j, hj⟩ := Int.eq_ofNat_of_zero_le (show 0 ≤ e - f.emin by omega)
  obtain ⟨x, hx⟩ : ∃ x, x = q.value / 2 ^ (e - f.frac) := ⟨_, rfl⟩
  obtain ⟨k, hk⟩ := Int.eq_ofNat_of_zero_le (show 0 ≤ ⌊x⌋ from Int.floor_nonneg.2 (hx ▸ div_nonneg (Q.value_nonneg hn.le) (by positivity)))
  have hcode : f.lo q = min (j * 2 ^ f.frac + k) f.maxCode := by
    have hstep : (Q.div q (Q.dyadic 1 (e - f.frac))).floor.toNat = k := by
      rw [Q.floor_eq, Q.value_div, Q.value_dyadic, Int.cast_one, one_mul, ← hx, hk, Int.toNat_natCast]
    have hexp : (e - f.emin).toNat = j := by omega
    unfold Fmt.lo
    rw [if_neg hn.ne', ← hstep, ← hexp, he]
    cases f
    case d8 => exact absurd rfl hf
    all_goals rfl
  have hp : (0 : Rat) < 2 ^ (e - f.frac) := by positivity
  have hpow (d : Int) (n : Nat) : (2 : Rat) ^ (d + n - f.frac) = 2 ^ n * 2 ^ (d - f.frac) := by
    rw [← zpow_natCast, ← zpow_add₀ two_ne_zero]
    congr 1
    ring
  have hkx : (k : Rat) ≤ x ∧ x < k + 1 := by
    have h1 := Int.floor_le x
    have h2 := Int.lt_floor_add_one x
    rw [hk] at h1 h2
    exact ⟨by simpa using h1, by simpa using h2⟩
  refine ⟨j, k, hcode, ?_, ?_, ?_, ?_⟩
  · have hx2 : x < 2 ^ (f.frac + 1) := by
      rw [hx, div_lt_iff₀ hp, ← zpow_natCast, ← zpow_add₀ two_ne_zero]
      refine hhi.trans_le (zpow_le_zpow_right₀ one_le_two ?_)
      push_cast
      omega
    have : (k : Rat) < ((2 * 2 ^ f.frac : Nat) : Rat) := by
      push_cast
      rw [← pow_succ']
      exact hkx.1.trans_lt hx2
    exact_mod_cast this
  · refine or_iff_not_imp_left.2 fun hj0 => ?_
    have hlog : e = log2Floor q := by omega
    have hx2 : (2 : Rat) ^ f.frac ≤ x := by
      rw [hx, le_div_iff₀ hp, ← zpow_natCast, ← zpow_add₀ two_ne_zero]
      refine le_trans (le_of_eq ?_) hlo
      rw [← hlog]
      congr 1
      ring
    have : ((2 ^ f.frac : Nat) : Rat) < (k + 1 : Nat) := by
      push_cast
      exact hx2.trans_lt hkx.2
    exact Nat.le_of_lt_succ (by exact_mod_cast this)
  · rw [show f.emin + j - f.frac = e - f.frac by omega, ← le_div_iff₀ hp, ← hx]
    exact hkx.1
  · rw [show f.emin + j - f.frac = e - f.frac by omega, ← div_lt_iff₀ hp, ← hx]
    exact hkx.2

/-- The search stops at the greatest code in reach that is not above the value. -/
theorem d8Below_spec (hd : 0 < q.den) (hn : 0 ≤ q.num) (t : Nat) :
    d8Below q t ≤ t ∧ (Fmt.d8.mag (d8Below q t)).value ≤ q.value ∧ (d8Below q t < t → q.value < (Fmt.d8.mag (d8Below q t + 1)).value) := by
  induction t with
  | zero => simpa [d8Below] using Q.value_nonneg hn
  | succ t ih =>
    obtain ⟨hle, hmag, hnext⟩ := ih
    rw [d8Below]
    split
    next h =>
      refine ⟨by omega, hmag, fun _ => ?_⟩
      rcases hle.lt_or_eq with hlt | heq
      · exact hnext hlt
      · rw [heq]
        exact (Q.lt_iff hd (Fmt.mag_den_pos _ _)).1 h
    next h =>
      exact ⟨le_rfl, (Q.not_lt_iff hd (Fmt.mag_den_pos _ _)).1 (by simpa using h), fun h => absurd h (lt_irrefl _)⟩

/-- lo is the greatest code whose magnitude is not above the value (R133). -/
theorem Fmt.lo_spec (hd : 0 < q.den) (hn : 0 ≤ q.num) :
    f.lo q ≤ f.maxCode ∧ (f.mag (f.lo q)).value ≤ q.value ∧ (f.lo q < f.maxCode → q.value < (f.mag (f.lo q + 1)).value) := by
  rcases hn.eq_or_lt with h0 | hpos
  · rw [Fmt.lo_of_num_eq_zero h0.symm, Fmt.value_mag_zero, Q.value_of_num_eq_zero h0.symm]
    exact ⟨Nat.zero_le _, le_rfl, fun _ => by simpa using Fmt.mag_lt_mag_succ (Nat.zero_le f.maxCode)⟩
  by_cases hf : f = .d8
  · subst hf
    rw [show Fmt.d8.lo q = d8Below q 0x7E by rw [Fmt.lo, if_neg hpos.ne']]
    exact d8Below_spec hd hn 0x7E
  · obtain ⟨j, k, hlo, hk, hj, hle, hlt⟩ := Fmt.lo_binary hf hpos hd
    rw [← Fmt.value_mag_binade hf hk.le hj] at hle
    rw [hlo]
    refine ⟨min_le_right _ _, (Fmt.mag_mono_of_binary hf (min_le_left _ _)).trans hle, fun h => ?_⟩
    rw [min_eq_left (by omega), Nat.add_assoc, Fmt.value_mag_binade hf hk (hj.imp_right Nat.le_succ_of_le)]
    exact_mod_cast hlt

/-- A magnitude that a code represents has that code. -/
theorem Fmt.lo_mag {c : Nat} (hc : c ≤ f.maxCode) : f.lo (f.mag c) = c := by
  obtain ⟨hmax, hle, hlt⟩ := Fmt.lo_spec (f := f) (Fmt.mag_den_pos f c) (Fmt.mag_num_nonneg f c)
  rcases lt_trichotomy (f.lo (f.mag c)) c with h | h | h
  · have h1 := hlt (h.trans_le hc)
    rcases Nat.lt_or_eq_of_le (Nat.succ_le_of_lt h) with h2 | h2
    · exact absurd (Fmt.mag_lt_mag h2 (by omega)) h1.not_gt
    · rw [show f.lo (f.mag c) + 1 = c from h2] at h1
      exact absurd h1 (lt_irrefl _)
  · exact h
  · exact absurd (Fmt.mag_lt_mag h (by omega)) hle.not_gt

end

section
variable {f : Fmt}

theorem Fmt.magHi_of_lt {c : Nat} (hc : c < f.maxCode) : f.magHi c = f.mag (c + 1) := by
  cases f
  case d8 => rfl
  all_goals exact if_neg hc.ne

theorem Fmt.magHi_den_pos (f : Fmt) (c : Nat) : 0 < (f.magHi c).den := by
  have hsum : 0 < (Q.add (f.mag c) (Q.add (f.mag c) (f.mag (c - 1)).neg)).den :=
    Q.add_den_pos (Fmt.mag_den_pos f c) (Q.add_den_pos (Fmt.mag_den_pos f c) (Fmt.mag_den_pos f _))
  unfold Fmt.magHi
  split
  · exact Fmt.mag_den_pos _ _
  · split
    · exact hsum
    · exact Fmt.mag_den_pos f _

/-- The value that overflow stands for (R133). -/
theorem Fmt.value_magHi_maxCode (f : Fmt) : (f.magHi f.maxCode).value = match f with
    | .f32 => 2 ^ 128 | .f16 => 2 ^ 16 | .bf16 => 2 ^ 128 | .e5m2 => 65536 | .e4m3 => 480 | .e2m1 => 8 | .d8 => 1000000 := by
  cases f <;> decide

theorem Fmt.mag_lt_magHi {c : Nat} (hc : c ≤ f.maxCode) : (f.mag c).value < (f.magHi c).value := by
  rcases hc.lt_or_eq with h | rfl
  · rw [Fmt.magHi_of_lt h]
    exact Fmt.mag_lt_mag_succ hc
  · cases f <;> decide

/-- How far a magnitude lies from lo to the code after it, as a fraction (R133). -/
def Fmt.way (f : Fmt) (q : Q) : Q :=
  Q.div (Q.add q.abs (f.mag (f.lo q.abs)).neg) (Q.add (f.magHi (f.lo q.abs)) (f.mag (f.lo q.abs)).neg)

/-- The code past the largest magnitude (R133, R135). -/
def Fmt.beyond (f : Fmt) (sat : Bool) : Nat :=
  if sat = true ∧ f ≠ .f32 then f.maxCode
  else match f with
    | .f32 => 0x7F800000 | .f16 => 0x7C00 | .bf16 => 0x7F80 | .e5m2 => 0x7C | .e4m3 => 0x7F | .e2m1 => 7 | .d8 => 0x7F

/-- Rounding takes lo, or the code after it where the rounding goes upward (R133). -/
theorem Fmt.roundFin_eq (f : Fmt) (sat : Bool) (rm u : Nat) (neg : Bool) (q : Q) : f.roundFin sat rm u neg q =
    f.signed neg (if roundUpward rm neg (f.lo q.abs % 2 == 1) (f.way q) u = true then
      (if f.lo q.abs = f.maxCode then f.beyond sat else f.lo q.abs + 1) else f.lo q.abs) := by
  unfold Fmt.roundFin
  dsimp only
  rw [← Fmt.way]
  split
  · split
    next h => rw [h]; cases f <;> cases sat <;> rfl
    · rfl
  · rfl

theorem Fmt.roundFin_of_down {sat neg : Bool} {rm u : Nat} {q : Q}
    (h : roundUpward rm neg (f.lo q.abs % 2 == 1) (f.way q) u = false) : f.roundFin sat rm u neg q = f.signed neg (f.lo q.abs) := by
  rw [Fmt.roundFin_eq, h, if_neg Bool.false_ne_true]

theorem roundUpward_of_num_eq_zero {rm u : Nat} {neg odd : Bool} {w : Q} (h : w.num = 0) : roundUpward rm neg odd w u = false := by
  simp [roundUpward, h]

theorem roundUpward_zero {neg odd : Bool} {w : Q} {u : Nat} (h : w.num ≠ 0) :
    roundUpward 0 neg odd w u = (Q.lt ⟨1, 2⟩ w || (Q.eq w ⟨1, 2⟩ && odd)) := by simp [roundUpward, h]

@[simp] theorem roundUpward_toZero {neg odd : Bool} {w : Q} {u : Nat} : roundUpward 1 neg odd w u = false := by
  simp [roundUpward]

theorem roundUpward_down {neg odd : Bool} {w : Q} {u : Nat} (h : w.num ≠ 0) : roundUpward 2 neg odd w u = neg := by
  simp [roundUpward, h]

theorem roundUpward_up {neg odd : Bool} {w : Q} {u : Nat} (h : w.num ≠ 0) : roundUpward 3 neg odd w u = !neg := by
  simp [roundUpward, h]

theorem roundUpward_away {neg odd : Bool} {w : Q} {u : Nat} (h : w.num ≠ 0) :
    roundUpward 4 neg odd w u = !(Q.lt w ⟨1, 2⟩) := by simp [roundUpward, h]

theorem roundUpward_random {neg odd : Bool} {w : Q} {u : Nat} (h : w.num ≠ 0) :
    roundUpward 5 neg odd w u = decide (u < (Q.mul w ⟨4294967296, 1⟩).floor.toNat) := by simp [roundUpward, h]

theorem roundUpward_down_of_pos {odd : Bool} {w : Q} {u : Nat} : roundUpward 2 false odd w u = false := by
  simp [roundUpward]

theorem roundUpward_up_of_neg {odd : Bool} {w : Q} {u : Nat} : roundUpward 3 true odd w u = false := by
  simp [roundUpward]

/-- When each rounding mode goes upward, by the fraction of the way (R133). -/
theorem roundUpward_iff {rm u : Nat} {neg odd : Bool} {w : Q} (hrm : rm ≤ 5) (hd : 0 < w.den) :
    roundUpward rm neg odd w u = true ↔ w.value ≠ 0 ∧ (rm = 0 → 1 / 2 < w.value ∨ (w.value = 1 / 2 ∧ odd = true)) ∧ rm ≠ 1 ∧
      (rm = 2 → neg = true) ∧ (rm = 3 → neg = false) ∧ (rm = 4 → 1 / 2 ≤ w.value) ∧
      (rm = 5 → (u + 1 : Rat) ≤ w.value * 2 ^ 32) := by
  have hhalf : Q.value ⟨1, 2⟩ = 1 / 2 := by simp [Q.value_eq_div]
  have hscale : Q.value ⟨4294967296, 1⟩ = 2 ^ 32 := by decide
  by_cases h0 : w.num = 0
  · simp [roundUpward_of_num_eq_zero h0, Q.value_of_num_eq_zero h0]
  have hv : w.value ≠ 0 := fun h => h0 ((Q.value_eq_zero_iff hd).1 h)
  obtain rfl | rfl | rfl | rfl | rfl | rfl : rm = 0 ∨ rm = 1 ∨ rm = 2 ∨ rm = 3 ∨ rm = 4 ∨ rm = 5 := by omega
  · have hlt := Q.lt_iff (a := ⟨1, 2⟩) two_pos hd
    have heq := Q.eq_iff (b := ⟨1, 2⟩) hd two_pos
    rw [hhalf] at hlt heq
    simp [roundUpward_zero h0, hv, hlt, heq]
  · simp
  · simp [roundUpward_down h0, hv]
  · simp [roundUpward_up h0, hv]
  · have hlt := Q.not_lt_iff (b := ⟨1, 2⟩) hd two_pos
    rw [hhalf] at hlt
    simp [roundUpward_away h0, hv, hlt]
  · rw [roundUpward_random h0, decide_eq_true_iff, Int.lt_toNat, ← Int.add_one_le_iff, Q.floor_eq, Int.le_floor, Q.value_mul, hscale]
    simp [hv]

section
variable {q : Q} (hd : 0 < q.den)
include hd

theorem Fmt.lo_abs_le_maxCode : f.lo q.abs ≤ f.maxCode := (Fmt.lo_spec (q := q.abs) hd q.abs_num_nonneg).1

theorem Fmt.way_den_pos : 0 < (f.way q).den := by
  have hlt := Fmt.mag_lt_magHi (Fmt.lo_abs_le_maxCode (f := f) hd)
  have hsum : 0 < (Q.add (f.magHi (f.lo q.abs)) (f.mag (f.lo q.abs)).neg).den :=
    Q.add_den_pos (Fmt.magHi_den_pos f _) (Fmt.mag_den_pos f _)
  refine Q.div_den_pos (Q.add_den_pos hd (Fmt.mag_den_pos f _)) fun h => ?_
  rw [← Q.value_eq_zero_iff hsum, Q.value_add_neg (Fmt.magHi_den_pos f _) (Fmt.mag_den_pos f _)] at h
  exact hlt.ne' (sub_eq_zero.1 h)

theorem Fmt.value_way : (f.way q).value = (q.abs.value - (f.mag (f.lo q.abs)).value) /
    ((f.magHi (f.lo q.abs)).value - (f.mag (f.lo q.abs)).value) := by
  have hm := Fmt.mag_den_pos f (f.lo q.abs)
  rw [Fmt.way, Q.value_div, Q.value_add_neg (a := q.abs) hd hm, Q.value_add_neg (Fmt.magHi_den_pos f _) hm]

/-- When rounding takes the code after lo, by the magnitudes around the value (R133). -/
theorem Fmt.roundsUp_iff {rm u : Nat} {neg : Bool} (hrm : rm ≤ 5) :
    let c := f.lo q.abs
    let lo := (f.mag c).value
    let hi := (f.magHi c).value
    let a := q.abs.value
    roundUpward rm neg (c % 2 == 1) (f.way q) u = true ↔ a ≠ lo ∧ (rm = 0 → lo + hi < 2 * a ∨ (lo + hi = 2 * a ∧ c % 2 = 1)) ∧
      rm ≠ 1 ∧ (rm = 2 → neg = true) ∧ (rm = 3 → neg = false) ∧ (rm = 4 → lo + hi ≤ 2 * a) ∧
      (rm = 5 → (u + 1 : Rat) * (hi - lo) ≤ (a - lo) * 2 ^ 32) := by
  intro c lo hi a
  have hw : 0 < hi - lo := sub_pos.2 (Fmt.mag_lt_magHi (Fmt.lo_abs_le_maxCode hd))
  have hne : (a - lo) / (hi - lo) ≠ 0 ↔ a ≠ lo := by simp [hw.ne', sub_eq_zero]
  have hlt : 1 / 2 < (a - lo) / (hi - lo) ↔ lo + hi < 2 * a := by
    rw [div_lt_div_iff₀ two_pos hw]
    constructor <;> intro h <;> linarith
  have heq : (a - lo) / (hi - lo) = 1 / 2 ↔ lo + hi = 2 * a := by
    rw [div_eq_div_iff hw.ne' two_ne_zero]
    constructor <;> intro h <;> linarith
  have hle : 1 / 2 ≤ (a - lo) / (hi - lo) ↔ lo + hi ≤ 2 * a := by
    rw [div_le_div_iff₀ two_pos hw]
    constructor <;> intro h <;> linarith
  have hu : (u + 1 : Rat) ≤ (a - lo) / (hi - lo) * 2 ^ 32 ↔ (u + 1 : Rat) * (hi - lo) ≤ (a - lo) * 2 ^ 32 := by
    rw [div_mul_eq_mul_div, le_div_iff₀ hw]
  rw [roundUpward_iff hrm (Fmt.way_den_pos hd), Fmt.value_way hd, hne, hlt, heq, hle, hu, beq_iff_eq]

end

theorem Q.add_neg_self_num {a : Q} (hd : 0 < a.den) : (Q.add a a.neg).num = 0 := by
  rw [← Q.value_eq_zero_iff (Q.add_den_pos (b := a.neg) hd hd), Q.value_add_neg hd hd, sub_self]

theorem Q.div_num_of_num_eq_zero {a b : Q} (h : a.num = 0) : (Q.div a b).num = 0 := by
  unfold Q.div
  split <;> simp [h]

/-- A representable magnitude rounds to its own code. -/
theorem Fmt.roundFin_mag {sat neg : Bool} {rm u c : Nat} (hc : c ≤ f.maxCode) : f.roundFin sat rm u neg (f.mag c) = f.signed neg c := by
  have hlo : f.lo (f.mag c).abs = c := by rw [Q.abs_of_nonneg (Fmt.mag_num_nonneg f c), Fmt.lo_mag hc]
  have hway : (f.way (f.mag c)).num = 0 := by
    rw [Fmt.way, hlo, Q.abs_of_nonneg (Fmt.mag_num_nonneg f c)]
    exact Q.div_num_of_num_eq_zero (Q.add_neg_self_num (Fmt.mag_den_pos f c))
  rw [Fmt.roundFin_of_down (roundUpward_of_num_eq_zero hway), hlo]

theorem Fmt.signed_eq (f : Fmt) (neg : Bool) (c : Nat) :
    f.signed neg c = if neg = true ∧ ¬ (f = .d8 ∧ c = 0) then c + 2 ^ (f.width - 1) else c := by
  simp [Fmt.signed, imp_iff_not_or]

/-- The quiet bit of f16 joins the fraction of a NaN without a carry. -/
theorem or_quiet_f16 (s : Nat) {x : Nat} (hx : x < 2 ^ 10) : s * 2 ^ 15 + 0x7E00 ||| x = s * 2 ^ 15 + 31 * 2 ^ 10 + (x ||| 2 ^ 9) := by
  have hlow : x ||| 2 ^ 9 < 2 ^ 10 := Nat.or_lt_two_pow hx (by decide)
  have hhigh : s * 2 ^ 15 + 31 * 2 ^ 10 = 2 ^ 10 * (s * 32 + 31) := by ring
  have hquiet : s * 2 ^ 15 + 0x7E00 = 2 ^ 10 * (s * 32 + 31) + 2 ^ 9 := by ring
  rw [hhigh, hquiet, Nat.two_pow_add_eq_or_of_lt hlow, Nat.two_pow_add_eq_or_of_lt (by decide), Nat.or_assoc, Nat.or_comm (2 ^ 9)]

/-- A NaN narrowed to a format keeps its sign and the top bits of its fraction, quieted (R139). -/
theorem Fmt.encNan_eq (f : Fmt) {n : Nat} (hn : n < 2 ^ 32) : f.encNan n = match f with
    | .f32 => n | .f16 => n / 2 ^ 31 * 2 ^ 15 + 31 * 2 ^ 10 + (n / 2 ^ 13 % 2 ^ 10 ||| 2 ^ 9) | .bf16 => n / 2 ^ 16 ||| 2 ^ 6
    | .e5m2 => n / 2 ^ 31 * 128 + 0x7E | .e4m3 => n / 2 ^ 31 * 128 + 0x7F | .d8 => 0x80 | .e2m1 => 0 := by
  have hs : n / 2 ^ 31 % 2 = n / 2 ^ 31 := Nat.mod_eq_of_lt (by omega)
  cases f
  case f16 =>
    simp only [Fmt.encNan, hs]
    exact or_quiet_f16 _ (Nat.mod_lt _ (by decide))
  all_goals simp only [Fmt.encNan, hs] <;> rfl

/-- The code of an infinity, canonical under DNAN where it is a NaN (R135, R138). -/
theorem Fmt.enc_inf (f : Fmt) (r : Rounding) (u : Nat) (neg : Bool) : f.enc r u (.inf neg) = match f with
    | .e4m3 => if r.sat then f.signed neg 0x7E else if r.dnan then 0x7F else f.signed neg 0x7F
    | .e2m1 => f.signed neg 7
    | .f32 => f.signed neg 0x7F800000 | .f16 => f.signed neg 0x7C00 | .bf16 => f.signed neg 0x7F80 | .e5m2 => f.signed neg 0x7C
    | .d8 => f.signed neg 0x7F := by
  obtain ⟨rm, sat, ftz, dnan⟩ := r
  cases f <;> cases neg <;> cases sat <;> cases dnan <;> rfl

/-- A finite result is rounded, then flushed under FTZ where it is subnormal, and an overflow NaN is canonical under DNAN (R137, R138). -/
theorem Fmt.enc_fin (f : Fmt) (r : Rounding) (u : Nat) (neg : Bool) (q : Q) :
    let c := f.roundFin r.sat r.rm u neg q
    let t := c % 2 ^ (f.width - 1)
    f.enc r u (.fin neg q) = if r.ftz = true ∧ (f = .f32 ∨ f = .f16 ∨ f = .bf16) ∧ t < 2 ^ f.frac then c - t
      else if r.dnan = true ∧ f = .e4m3 ∧ c = 0xFF then 0x7F else c := by
  intro c t
  have henc : f.enc r u (.fin neg q) = f.canon r.dnan (f.flushVal r.ftz c) := rfl
  have hflush : f.flushVal r.ftz c = if r.ftz = true ∧ f.flushes = true ∧ t < 2 ^ f.frac then c - t else c := by
    simp [Fmt.flushVal, t, and_assoc]
  rw [henc, hflush]
  cases f <;> simp [Fmt.canon, Fmt.flushes, Fmt.nanCode]

end
end Sys2Proof.Machine
end

section
open Sys2Proof Sys2Proof.Machine

/-- Settles O15: lo by the binades of each format, and the rounding by the value's place between the two magnitudes. -/
theorem roundingTakesANeighbouringCode : Obligations.RoundingTakesANeighbouringCode := by
  unfold Obligations.RoundingTakesANeighbouringCode
  refine ⟨fun f q hd hn => ?lo, fun f sat neg rm u c hc => Fmt.roundFin_mag hc, fun f sat neg u q => ?toZero, fun f sat u q => ?directed,
    fun f sat neg rm u q hc => ?neighbour, fun f sat neg rm u q hd hrm => ?choice, fun f c => ⟨Fmt.magHi_of_lt, f.value_magHi_maxCode⟩,
    fun f r u n hn _ => ?nan, Fmt.enc_inf, Fmt.enc_fin, Fmt.signed_eq⟩
  case lo =>
    obtain ⟨hmax, hle, hlt⟩ := Fmt.lo_spec (f := f) hd hn
    exact ⟨hmax, (Q.not_lt_iff hd (Fmt.mag_den_pos f _)).2 hle, fun h => (Q.lt_iff hd (Fmt.mag_den_pos f _)).2 (hlt h)⟩
  case toZero => exact Fmt.roundFin_of_down roundUpward_toZero
  case directed =>
    rw [Fmt.roundFin_of_down roundUpward_down_of_pos, Fmt.roundFin_of_down roundUpward_toZero,
      Fmt.roundFin_of_down roundUpward_up_of_neg, Fmt.roundFin_of_down roundUpward_toZero]
    exact ⟨rfl, rfl⟩
  case neighbour =>
    rw [Fmt.roundFin_eq, if_neg hc.ne]
    split
    · exact .inr rfl
    · exact .inl rfl
  case choice =>
    intro c lo hi a up beyond
    have hup := Fmt.roundsUp_iff (f := f) (u := u) (neg := neg) hd hrm
    refine ⟨fun h => Fmt.roundFin_of_down (Bool.eq_false_iff.2 (mt hup.1 h)), fun h => ?_⟩
    have hmax : c ≤ f.maxCode := Fmt.lo_abs_le_maxCode hd
    rw [Fmt.roundFin_eq, if_pos (hup.2 h)]
    by_cases hc : c = f.maxCode
    · rw [if_pos hc, if_neg hc.not_lt]
      rfl
    · rw [if_neg hc, if_pos (hmax.lt_of_ne hc)]
  case nan =>
    intro s
    exact ite_congr rfl (fun _ => rfl) fun _ => Fmt.encNan_eq f hn
end

section
/-!
SUPPORT. How an instruction ends by the result of its effect: a fault, a wait, or an update of its group (R46, R205).
-/
namespace Sys2Proof.Machine

section
variable {i : Instr} {s t : State} {x : Ctx} {effect : Ctx → Res}

/-- An instruction word completes as soon as its every next state does as `R` says. -/
theorem Completes.of_forall (hi : isEvent i = false) {R : Ctx → State → Prop}
    (h : ∀ x, Issues i s x → ∀ t, exec i s = .next t → R x t) : Completes i s R := by
  intro x hx
  obtain ⟨effect, he⟩ := exec_eq_issue hi s
  obtain ⟨t, ht⟩ := issue_of_sees hx.1 effect
  exact ⟨t, he.trans ht, h x hx t (he.trans ht)⟩

theorem issue_of_trap (h : Issues i s x) {f : Trap} (he : effect x = .trap f) :
    issue i s effect = .next (x.s.takeTrap x.c f) := by rw [issue_of_issues h, he]

theorem issue_of_wait (h : Issues i s x) {u : State} (he : effect x = .wait u) : issue i s effect = .next u := by
  rw [issue_of_issues h, he]

/-- A next state is the only one. -/
theorem next_unique {u : State} (ht : exec i s = .next t) (hu : exec i s = .next u) : t = u :=
  Host.Outcome.next.inj (ht.symm.trans hu)

/-- Updates that agree on the issuing group are one. -/
theorem Ctx.Of.updCur_congr {g : Group} (h : Ctx.Of i s x g) {f f' : Group → Group} (hf : f x.g = f' x.g) :
    x.s.updCur x.c f = x.s.updCur x.c f' := by rw [h.updCur, h.updCur, hf]

/-- The issuing split waits where it stands. -/
theorem Issues.sleeps (h : Issues i s x) (w : Wait) : Sleeps s x w (x.waitAs w) := by
  obtain ⟨g, ho⟩ := h.1.of
  obtain ⟨c0, hg⟩ := ho.group
  have ht : x.waitAs w = s.updCur x.c fun _ => x.g.updSplit x.c.age fun p => { p with wait := w } := ho.updCur _
  rw [ht, Sleeps, SleepsAfter]
  refine OnlyGroup.of_updCur (fun _ => x.g.updSplit x.c.age fun p => { p with wait := w }) (fun _ _ => ho.gid) ho.blk ho.grp _ ?_
  refine ⟨?_, fun m hm => ?_, x.p, _, ho.spl, Group.split?_updSplit_self _ (fun _ h => h) ho.split, rfl⟩
  · rw [hg]
    exact ⟨_, _, rfl⟩
  · refine (Group.split?_updSplit_ne x.g (fun p => { p with wait := w }) (fun _ h => h) hm).trans ?_
    rw [hg]
    rfl

theorem issue_of_waitAs (h : Issues i s x) {w : Wait} (he : effect x = .wait (x.waitAs w)) :
    ∃ t, issue i s effect = .next t ∧ Sleeps s x w t := ⟨_, issue_of_wait h he, h.sleeps w⟩

/-- An instruction that changes its group and goes on, by what the change is on its own group. -/
theorem issue_does_of_eq (h : Issues i s x) {f f' : Group → Group} (he : effect x = .done (x.s.updCur x.c f) []) (hf : f x.g = f' x.g)
    (hc : (useOf x.mode x.mmode i).chainable = false) (hchain : ∀ g ch, f' { g with chain := ch } = { f' g with chain := ch })
    (hkeep : ∀ g, (f' g).gid = g.gid ∧ (f' g).splits = g.splits ∧ (f' g).bad = g.bad) :
    ∃ t, issue i s effect = .next t ∧ Does i s x f' t := by
  obtain ⟨g, ho⟩ := h.1.of
  exact issue_does h (he.trans (by rw [ho.updCur_congr hf])) hc hchain hkeep

/-- Without delayed reductions none is performed first. -/
theorem Issues.quantaFirst_eq (h : Issues i s x) (hq : x.g.quantum = []) (n : Nat) (l : List (Nat × Loc)) :
    x.s.quantaFirst x.c.blk x.c.gid n l = x.s := by
  obtain ⟨g, ho⟩ := h.1.of
  have hb : x.s.block? x.c.blk = some (x.b.updGroup x.c.gid fun _ => x.g) := by
    rw [ho.st]
    exact State.block?_updBlock_self _ (fun _ h => h) ho.blk
  have hg : (x.b.updGroup x.c.gid fun _ => x.g).group? x.c.gid = some x.g :=
    Block.group?_updGroup_self _ (fun _ _ => ho.gid) ho.grp
  simp [State.quantaFirst, State.releaseQuanta, hb, hg, hq]

/-- A read of a buffer leaves the state. -/
@[simp] theorem Ctx.loadBytes_buf_state (x : Ctx) (s : State) (n u off : Nat) (sp : Space) :
    (x.loadBytes s n (.buf u sp off)).2 = s := rfl

end

/-! ## `tld` (R288) -/

section
variable {d : BitVec 7} {a : BitVec 5} {s t : State} {x : Ctx} {p : Pair} {hd : Nat} {q : Loc}
variable (hx : Issues (.tld d a) s x) (hp : pairOf (x.g.pairVal a.toNat) = p)
include hx hp

theorem exec_tld_of_early {f : Trap} (he : x.tldEarly (.tld d a) d.toNat p = some f) :
    exec (.tld d a) s = .next (x.s.takeTrap x.c f) := issue_of_trap hx (by simp only [hp, he])

variable (hq : Loc.buf x.c.blk (p.sp.getD .scr) p.addr = q) (he : x.tldEarly (.tld d a) d.toNat p = none)
include hq he

/-- A locked header waits before it is read. -/
theorem exec_tld_of_locked (hl : x.s.lockedAt 16 q = true) : ∃ t, exec (.tld d a) s = .next t ∧ Sleeps s x .cInterlock t :=
  issue_of_waitAs hx (by simp only [hp, hq, he, hl, if_true])

variable (hl : x.s.lockedAt 16 q = false)
include hl

theorem exec_tld_of_fail {f : Trap} (hf : x.tldFail d.toNat p = some f) : exec (.tld d a) s = .next (x.s.takeTrap x.c f) :=
  issue_of_trap hx (by simp only [hp, hq, he, hl, hf, Bool.false_eq_true, if_false])

variable (hf : x.tldFail d.toNat p = none) (hh : x.s.tileHeader x.b x.g true (.buf p) = hd)
include hf hh

theorem exec_tld_of_pending (hr : x.g.pendingOn (tileRegs hd (.reg d.toNat)) [] false = true) :
    ∃ t, exec (.tld d a) s = .next t ∧ Sleeps s x (.operand (tileRegs hd (.reg d.toNat)) [] false) t :=
  issue_of_waitAs hx (by simp only [hp, hq, he, hl, hf, hh, hr, Bool.false_eq_true, if_false, if_true]; rfl)

variable (hr : x.g.pendingOn (tileRegs hd (.reg d.toNat)) [] false = false)
include hr

theorem exec_tld_of_interlock (hi : x.hold (hExtent hd) [(0, q)] = .interlock) :
    ∃ t, exec (.tld d a) s = .next t ∧ Sleeps s x .cInterlock t :=
  issue_of_waitAs hx (by simp only [hp, hq, he, hl, hf, hh, hr, hi, Bool.false_eq_true, if_false])

theorem exec_tld_of_stall (hi : x.hold (hExtent hd) [(0, q)] = .stall) : exec (.tld d a) s = .next (x.stalled x.s) :=
  issue_of_wait hx (by simp only [hp, hq, he, hl, hf, hh, hr, hi, Bool.false_eq_true, if_false])

variable (hg : x.hold (hExtent hd) [(0, q)] = .go)
include hg

theorem exec_tld_of_poison {f : Trap} (hb : x.s.imagePoison x.b p hd = some f) : exec (.tld d a) s = .next (x.s.takeTrap x.c f) :=
  issue_of_trap hx (by simp only [hp, hq, he, hl, hf, hh, hr, hg, hb, Bool.false_eq_true, if_false])

/-- The image, its rotation undone, becomes a pending result. -/
theorem exec_tld_loads (hb : x.s.imagePoison x.b p hd = none) (hqu : x.g.quantum = []) (hbad : x.g.bad = []) :
    ∃ t, exec (.tld d a) s = .next t ∧ Does (.tld d a) s x (fun g => { g with pend := g.pend ++
      [.arriving (tileRegs hd (.reg d.toNat)) (imageRegs d.toNat (unrotate hd p.rotc (x.loadBytes x.s (hExtent hd) q).1))] }) t := by
  have hs := hx.quantaFirst_eq hqu (hExtent hd) [(0, q)]
  refine issue_does_of_eq hx (f := fun g => { g with
      pend := g.pend ++ [.arriving (tileRegs hd (.reg d.toNat)) (imageRegs d.toNat (unrotate hd p.rotc (x.loadBytes x.s (hExtent hd) q).1))]
      bad := g.bad.filter fun r => !((tileRegs hd (.reg d.toNat)).contains r) }) ?_ ?_ rfl (fun _ _ => rfl) fun _ => ⟨rfl, rfl, rfl⟩
  · have hstate : (x.loadBytes x.s (hExtent hd) q).2 = x.s := by rw [← hq, Ctx.loadBytes_buf_state]
    simp only [hp, hq, he, hl, hf, hh, hr, hg, hb, hs, hstate, Bool.false_eq_true, if_false]
    rfl
  · simp only [hbad]
    rfl

end

/-! ## `tst` (R289) -/

section
variable {a : BitVec 5} {b : BitVec 7} {s t : State} {x : Ctx} {p : Pair} {hd : Nat} {q : Loc}
variable (hx : Issues (.tst a b) s x) (hp : pairOf (x.g.pairVal a.toNat) = p) (hw : x.tilePending (.reg b.toNat) = false)
include hx hp hw

theorem exec_tst_of_fail {f : Trap} (hf : x.tstFail (.tst a b) p b.toNat = some f) :
    exec (.tst a b) s = .next (x.s.takeTrap x.c f) :=
  issue_of_trap hx (by simp only [hp, hw, hf, Option.orElse, Bool.false_eq_true, if_false])

variable (hf : x.tstFail (.tst a b) p b.toNat = none) (hb : x.tileBad (.reg b.toNat) = none)
variable (hh : x.s.tileHeader x.b x.g true (.reg b.toNat) = hd) (hq : Loc.buf x.c.blk (p.sp.getD .scr) p.addr = q)
include hf hb hh hq

theorem exec_tst_of_locked (hl : x.s.lockedAt (hExtent hd) q = true) : ∃ t, exec (.tst a b) s = .next t ∧ Sleeps s x .cInterlock t :=
  issue_of_waitAs hx (by simp only [hp, hw, hf, hb, hh, hq, hl, Option.orElse, Bool.false_eq_true, if_false, if_true])

/-- The rotated image enters the store queue. -/
theorem exec_tst_stores (hl : x.s.lockedAt (hExtent hd) q = false) (hqu : x.g.quantum = []) :
    ∃ t, exec (.tst a b) s = .next t ∧ Does (.tst a b) s x (fun g => { g with
      stq := g.stq ++ storeAll x.s.tick 0 q (rotate hd p.rotc ((List.range (hExtent hd)).map (x.g.tileByte b.toNat))) }) t := by
  have hs := hx.quantaFirst_eq hqu (hExtent hd) [(0, q)]
  refine issue_does hx ?_ rfl (fun _ _ => rfl) fun _ => ⟨rfl, rfl, rfl⟩
  simp only [hp, hw, hf, hb, hh, hq, hl, hs, Option.orElse, Bool.false_eq_true, if_false]

end

/-! ## `thdr` (R290) -/

section
variable {d : BitVec 7} {a : BitVec 5} {s t : State} {x : Ctx} {hd : Nat}

theorem leNat_leBytes (n v : Nat) : leNat (leBytes n v) = v % 2 ^ (8 * n) := by
  induction n generalizing v with
  | zero => simp [leBytes, leNat, Nat.mod_one]
  | succ n ih =>
    have hm := Nat.mod_mul (x := v) (a := 256) (b := 2 ^ (8 * n))
    rw [leBytes, leNat, ih, BitVec.toNat_ofNat, show 2 ^ (8 * (n + 1)) = 256 * 2 ^ (8 * n) by ring, hm]

theorem drop_leBytes (n k v : Nat) : (leBytes (n + k) v).drop n = leBytes k (v / 2 ^ (8 * n)) := by
  induction n generalizing v with
  | zero => simp
  | succ n ih =>
    rw [show n + 1 + k = (n + k) + 1 by omega, leBytes, List.drop_succ_cons, ih, Nat.div_div_eq_div_mul,
      show 2 ^ (8 * (n + 1)) = 256 * 2 ^ (8 * n) by ring]

theorem take_leBytes (n k v : Nat) : (leBytes (n + k) v).take n = leBytes n v := by
  induction n generalizing v with
  | zero => simp [leBytes]
  | succ n ih => rw [show n + 1 + k = (n + k) + 1 by omega, leBytes, List.take_succ_cons, ih, leBytes]

@[simp] theorem length_leBytes (n v : Nat) : (leBytes n v).length = n := by
  induction n generalizing v with
  | zero => rfl
  | succ n ih => rw [leBytes, List.length_cons, ih]

/-- Word l of a header. -/
theorem wordOf_leBytes_header (hd : Nat) {l : Nat} (hl : l < 4) :
    wordOf (((leBytes 16 hd).drop (4 * l)).take 4) = BitVec.ofNat 32 (hd / 2 ^ (32 * l)) := by
  obtain ⟨k, hk⟩ : ∃ k, 16 = 4 * l + (4 + k) := ⟨12 - 4 * l, by omega⟩
  rw [hk, drop_leBytes, take_leBytes, wordOf, leNat_leBytes, show 8 * (4 * l) = 32 * l by ring]
  exact BitVec.eq_of_toNat_eq (by simp)

/-- A header alone fills one register. -/
theorem imageRegs_header (n hd : Nat) : imageRegs n (leBytes 16 hd) =
    (List.range 32).map fun l => (32 * n + l, if l < 4 then BitVec.ofNat 32 (hd / 2 ^ (32 * l)) else 0) := by
  have hrest : ceilDiv ((leBytes 16 hd).length - 16) 128 = 0 := by simp [ceilDiv]
  rw [imageRegs, hrest, List.range_zero, List.flatMap_nil, List.append_nil]
  refine List.map_congr_left fun l _ => ?_
  split
  next hl => rw [wordOf_leBytes_header hd hl]
  next => rfl

/-- The words of one register go to the group's lanes. -/
theorem Group.putWords_register (g : Group) (n : Nat) (f : Nat → Word) :
    g.putWords ((List.range 32).map fun l => (32 * n + l, f l)) =
      { g with v := Sparse.putAll g.v (((List.range 32).filter fun l => g.lanes.getLsbD l).map fun l => (32 * n + l, f l)) } := by
  rw [Group.putWords, List.filter_map]
  congr 3
  refine List.filter_congr fun l hl => ?_
  simp [Nat.mod_eq_of_lt (List.mem_range.1 hl)]

variable (hx : Issues (.thdr d a) s x) (hh : sealHeader (x.g.pairVal a.toNat) = hd)
include hx

theorem exec_thdr_of_bound (hb : x.g.bound ≤ d.toNat) : exec (.thdr d a) s = .next (x.s.takeTrap x.c (x.regRange (.thdr d a))) :=
  issue_of_trap hx (by simp only [tileStep2, hb, if_true, Option.orElse]; rfl)

variable (hb : d.toNat < x.g.bound)
include hb hh

theorem exec_thdr_of_reason {r : Nat} (hr : definedReason hd = some r) :
    exec (.thdr d a) s = .next (x.s.takeTrap x.c (tileTrap 0x0E r (0xFF * 2 ^ 56 + d.toNat))) :=
  issue_of_trap hx (by simp [tileStep2, hb.not_ge, hh, hr]; rfl)

/-- The sealed header goes to the group's lanes of the register. -/
theorem exec_thdr_writes (hr : definedReason hd = none) (hp : x.g.pendingOn [d.toNat] [] false = false) (hbad : x.g.bad = []) :
    ∃ t, exec (.thdr d a) s = .next t ∧ Does (.thdr d a) s x (fun g => { g with
      v := Sparse.putAll g.v (((List.range 32).filter fun l => g.lanes.getLsbD l).map fun l =>
        (32 * d.toNat + l, if l < 4 then BitVec.ofNat 32 (hd / 2 ^ (32 * l)) else 0)) }) t := by
  refine issue_does_of_eq hx (f := fun g => { g.putWords (imageRegs d.toNat (leBytes 16 hd)) with
    bad := g.bad.filter fun r => !(r == d.toNat) }) ?_ ?_ rfl (fun _ _ => rfl) fun _ => ⟨rfl, rfl, rfl⟩
  · simp [tileStep2, hb.not_ge, hh, hr, hp]
  · simp only [imageRegs_header, Group.putWords_register, hbad]
    rfl

end

/-! ## `tchk` (R291) -/

/-- The header register of a tile operand in registers. -/
def TileArg.headerRegs : TileArg → List Nat
  | .reg n => [n]
  | .buf _ => []

section
variable {y : TileArg} {word bound : Nat} {act : LaneMask} {lanes : Bool}

theorem tileStep2_of_bound (h : ∃ r ∈ y.headerRegs, bound ≤ r) : tileStep2 word bound act lanes y = some ⟨0x04, word, none⟩ := by
  cases y with
  | reg n =>
    have hn : bound ≤ n := by simpa [TileArg.headerRegs] using h
    simp [tileStep2, hn]
  | buf p => simp [TileArg.headerRegs] at h

/-- Within the bound only the lane condition is left (R246). -/
theorem tileStep2_isSome_iff (h : ∀ r ∈ y.headerRegs, r < bound) :
    (tileStep2 word bound act lanes y).isSome = true ↔ lanes = true ∧ y.headerRegs ≠ [] ∧ act ≠ BitVec.allOnes 32 := by
  cases y with
  | reg n =>
    have hn : ¬ bound ≤ n := by simpa [TileArg.headerRegs] using h
    cases lanes <;> simp [tileStep2, TileArg.headerRegs, hn]
  | buf p => simp [tileStep2, TileArg.headerRegs]

theorem tileStep2_of_lt (h : ∀ r ∈ y.headerRegs, r < bound) : tileStep2 word bound act false y = none := by
  rw [← Option.not_isSome_iff_eq_none, tileStep2_isSome_iff h]
  simp

end

/-- A register field names one of 128 registers. -/
theorem Group.headerRegs_tileArg_lt (g : Group) (a : TileRef) : ∀ r ∈ (g.tileArg a).headerRegs, r < 128 := by
  cases a with
  | reg n => simpa [Group.tileArg, TileArg.headerRegs] using n.isLt
  | buf n => simp [Group.tileArg, TileArg.headerRegs]

section
variable {d : BitVec 6} {a : TileRef} {s t : State} {x : Ctx} {y : TileArg}
variable (hx : Issues (.tchk d a) s x) (hy : x.g.tileArg a = y)
include hx hy

theorem exec_tchk_of_early {f : Trap} (he : x.tchkEarly (.tchk d a) y = some f) :
    exec (.tchk d a) s = .next (x.s.takeTrap x.c f) := issue_of_trap hx (by simp only [hy, he])

theorem exec_tchk_of_bad (hb : y.bad = true) : exec (.tchk d a) s = .next (x.s.takeTrap x.c (x.illegalOperand (.tchk d a))) :=
  exec_tchk_of_early hx hy (by rw [Ctx.tchkEarly, if_pos hb])

variable (hb : y.bad = false)
include hb

theorem exec_tchk_of_step1 {f : Trap} (h1 : x.b.tileStep1 vectorSource y = some f) :
    exec (.tchk d a) s = .next (x.s.takeTrap x.c f) :=
  exec_tchk_of_early hx hy (by simp [Ctx.tchkEarly, hb, h1])

variable (h1 : x.b.tileStep1 vectorSource y = none)
include h1

theorem exec_tchk_of_bound (h2 : ∃ r ∈ y.headerRegs, x.g.bound ≤ r) :
    exec (.tchk d a) s = .next (x.s.takeTrap x.c ⟨0x04, x.wordVal (.tchk d a), none⟩) :=
  exec_tchk_of_early hx hy (by simp [Ctx.tchkEarly, hb, h1, tileStep2_of_bound h2])

variable (h2 : ∀ r ∈ y.headerRegs, r < x.g.bound)
include h2

omit hx hy in
theorem Ctx.tchkEarly_eq_none : x.tchkEarly (.tchk d a) y = none := by
  simp [Ctx.tchkEarly, hb, h1, tileStep2_of_lt h2]

/-- The lane condition is reported before the header is read (R291). -/
theorem exec_tchk_of_lanes (hw : ¬ (y.headerRegs = [] ∨ x.act = BitVec.allOnes 32)) :
    ∃ t, exec (.tchk d a) s = .next t ∧ Writes (.tchk d a) s x (.scal d 0x0F15) t := by
  have hr : ∀ r ∈ y.headerRegs, r < 128 := hy ▸ x.g.headerRegs_tileArg_lt a
  have hl : (tileStep2 0 128 x.act true y).isSome = true := (tileStep2_isSome_iff hr).2 ⟨rfl, not_or.1 hw⟩
  exact issue_scalar hx (by simp only [hy, Ctx.tchkEarly_eq_none hb h1 h2, hl, if_true]) (by simp)

variable (hw : y.headerRegs = [] ∨ x.act = BitVec.allOnes 32)
include hw

omit hx hb h1 h2 in
theorem Ctx.tileStep2_whole : (tileStep2 0 128 x.act true y).isSome = false := by
  have hr : ∀ r ∈ y.headerRegs, r < 128 := hy ▸ x.g.headerRegs_tileArg_lt a
  rw [Bool.eq_false_iff, Ne, tileStep2_isSome_iff hr]
  tauto

theorem exec_tchk_of_pending (hp : x.g.pendingOn y.headerRegs [] false = true) :
    ∃ t, exec (.tchk d a) s = .next t ∧ Sleeps s x (.operand y.headerRegs [] false) t := by
  refine issue_of_waitAs hx ?_
  have hl := Ctx.tileStep2_whole hy hw
  simp only [hy, Ctx.tchkEarly_eq_none hb h1 h2, hl, Bool.false_eq_true, if_false]
  exact if_pos hp

variable (hp : x.g.pendingOn y.headerRegs [] false = false)
include hp

theorem exec_tchk_of_poison {f : Trap} (hf : x.s.headerBad x.b x.g y = some f) :
    exec (.tchk d a) s = .next (x.s.takeTrap x.c f) := by
  refine issue_of_trap hx ?_
  have hl := Ctx.tileStep2_whole hy hw
  simp only [hy, Ctx.tchkEarly_eq_none hb h1 h2, hl, hf, Bool.false_eq_true, if_false]
  exact if_neg (Bool.eq_false_iff.1 hp)

/-- Cause and reason of the first failing step go to the scalar. -/
theorem exec_tchk_writes (hf : x.s.headerBad x.b x.g y = none) :
    ∃ t, exec (.tchk d a) s = .next t ∧ Writes (.tchk d a) s x (.scal d (BitVec.ofNat 64 (x.tchkValue y))) t := by
  refine issue_scalar hx ?_ (by simp)
  have hl := Ctx.tileStep2_whole hy hw
  simp only [hy, Ctx.tchkEarly_eq_none hb h1 h2, hl, hf, Bool.false_eq_true, if_false]
  exact if_neg (Bool.eq_false_iff.1 hp)

end
end Sys2Proof.Machine
end

section
/-!
SUPPORT. Producing instructions (R292): a matrix operation that starts leaves the groups of its block, and what `produce` answers.
-/
namespace Sys2Proof.Machine

section
variable {i : Instr} {s t : State} {x : Ctx} {effect : Ctx → Res}

/-- What starting an operation does to its block. -/
def MatOp.joins (op : MatOp) (b : Block) : Block :=
  { b with matops := b.matops ++ [{ op with batch := b.mbseq, ctxids := op.gids.map fun g => ((b.group? g).map (·.ctxid)).getD 0 }],
           mbopen := true }

theorem State.startMat_eq {s : State} {u : Nat} {b : Block} (hb : s.block? u = some b) (op : MatOp) :
    s.startMat u op = (s.updBlock u op.joins).updCore b.stk b.core (Core.wakeSubs (s.cycle b.stk)) := by
  rw [State.startMat, hb]
  rfl

theorem State.block?_startMat_self {s : State} {u : Nat} {b : Block} (hb : s.block? u = some b) (op : MatOp) :
    (s.startMat u op).block? u = some (op.joins b) := by
  rw [State.startMat_eq hb]
  exact State.block?_updBlock_self op.joins (fun _ h => h) hb

theorem State.block?_startMat_ne {s : State} {u w : Nat} {b : Block} (hb : s.block? u = some b) (op : MatOp) (hw : w ≠ u) :
    (s.startMat u op).block? w = s.block? w := by
  rw [State.startMat_eq hb]
  exact State.block?_updBlock_ne s op.joins (fun _ h => h) hw

/-- A group that keeps its context leaves what an operation of the block carries. -/
theorem MatOp.joins_updGroup (op : MatOp) {b : Block} {n : Nat} {g y : Group} (hg : b.group? n = some g) (hn : y.gid = n)
    (hc : y.ctxid = g.ctxid) : op.joins (b.updGroup n fun _ => y) = (op.joins b).updGroup n fun _ => y := by
  have hctx (m : Nat) : ((b.updGroup n fun _ => y).group? m).map (·.ctxid) = (b.group? m).map (·.ctxid) := by
    by_cases hm : m = n
    · subst hm
      rw [Block.group?_updGroup_self _ (fun _ _ => hn) hg, hg]
      simp [hc]
    · rw [Block.group?_updGroup_ne b _ (fun _ _ => hn) hm]
  simp only [MatOp.joins, hctx]
  rfl

/-- Two updates of a group of a block are one. -/
theorem Block.updGroup_updGroup (b : Block) (n : Nat) (f h : Group → Group) (hf : ∀ g, g.gid = n → (f g).gid = n) :
    (b.updGroup n f).updGroup n h = b.updGroup n fun g => h (f g) := by
  simp only [Block.updGroup, List.map_map]
  congr 1
  refine List.map_congr_left fun g _ => ?_
  by_cases hg : g.gid = n
  · simp [hg, hf g hg]
  · simp [hg]

/-- An operation that starts between two updates of the issuing group: beside it, only that group changes. -/
theorem OnlyGroup.of_startMat {c : Cur} {b : Block} {g y : Group} (op : MatOp) {f : Group → Group} (hb : s.block? c.blk = some b)
    (hg : b.group? c.gid = some g) (hn : y.gid = c.gid) (hc : y.ctxid = g.ctxid) (hf : (f y).gid = c.gid)
    {R : Group → Group → Prop} (hR : R g (f y)) :
    OnlyGroup c.blk c.gid (s.startMat c.blk op) (((s.updCur c fun _ => y).startMat c.blk op).updCur c f) R := by
  have hb' : (s.updCur c fun _ => y).block? c.blk = some (b.updGroup c.gid fun _ => y) :=
    State.block?_updBlock_self _ (fun _ h => h) hb
  have hself : (((s.updCur c fun _ => y).startMat c.blk op).updCur c f).block? c.blk =
      some ((op.joins b).updGroup c.gid fun _ => f y) := by
    have h := State.block?_updBlock_self (fun b => b.updGroup c.gid f) (fun _ h => h) (State.block?_startMat_self hb' op)
    rw [MatOp.joins_updGroup op hg hn hc, Block.updGroup_updGroup _ _ _ _ fun _ _ => hn] at h
    exact h
  refine ⟨⟨(((s.updCur c fun _ => y).startMat c.blk op).updCur c f).blocks, ?_⟩, fun w hw => ?_, op.joins b,
    (op.joins b).updGroup c.gid fun _ => f y, State.block?_startMat_self hb op, hself, ⟨_, rfl⟩,
    fun m hm => Block.group?_updGroup_ne _ _ (fun _ _ => hf) hm, g, f y, hg, Block.group?_updGroup_self _ (fun _ _ => hf) hg, hR⟩
  · rw [State.startMat_eq hb', State.startMat_eq hb]
    rfl
  · rw [State.block?_startMat_ne hb op hw]
    refine (State.block?_updBlock_ne _ (fun b => b.updGroup c.gid f) (fun _ h => h) hw).trans ?_
    rw [State.block?_startMat_ne hb' op hw]
    exact State.block?_updBlock_ne s (fun b => b.updGroup c.gid fun _ => y) (fun _ h => h) hw

/-- An instruction that starts a matrix operation, changes its group and goes on. -/
theorem issue_startMat (h : Issues i s x) {f f' : Group → Group} {op : MatOp}
    (he : effect x = .done ((x.s.updCur x.c f).startMat x.c.blk op) []) (hf : f x.g = f' x.g)
    (hc : (useOf x.mode x.mmode i).chainable = false) (hchain : ∀ g ch, f' { g with chain := ch } = { f' g with chain := ch })
    (hkeep : ∀ g, (f' g).gid = g.gid ∧ (f' g).splits = g.splits ∧ (f' g).bad = g.bad ∧ (f' g).ctxid = g.ctxid) :
    ∃ t, issue i s effect = .next t ∧ Ends i x (s.startMat x.c.blk op) f' t := by
  obtain ⟨g, ho⟩ := h.1.of
  obtain ⟨c0, hg⟩ := ho.group
  obtain ⟨hgid, hsplits, hbad, hctx⟩ := hkeep x.g
  have hn : (f' x.g).gid = x.c.gid := hgid.trans ho.gid
  have hsame : (f' x.g).splits = g.splits := by rw [hsplits, hg]
  have hsplit : (f' x.g).split? x.c.age = some x.p := by rw [Group.split?, hsame]; exact ho.spl
  have ht : x.retire i ((x.s.updCur x.c f).startMat x.c.blk op) [] =
      ((s.updCur x.c fun _ => f' x.g).startMat x.c.blk op).updCur x.c (x.retired i []) := by
    rw [ho.updCur, hf]
    rfl
  refine ⟨_, issue_of_issues h effect |>.trans (by rw [he]), ?_⟩
  rw [ht, Ends]
  refine OnlyGroup.of_startMat op ho.blk ho.grp hn (hctx.trans (by rw [hg])) hn ?_
  refine ⟨⟨(x.retired i [] (f' x.g)).splits, (x.retired i [] (f' x.g)).bad, ?_⟩, ⟨fun m hm => ?_, x.p, _, ho.spl,
    Group.split?_updSplit_self _ (fun _ h => h) hsplit, rfl, rfl, rfl, rfl, rfl, rfl, rfl, rfl⟩, ?_⟩
  · have hno : x.chainAfter (useOf x.mode x.mmode i) [] = none := by rw [Ctx.chainAfter, hc]; rfl
    rw [hg, hchain]
    simp only [Ctx.retired, hno]
    rfl
  · refine (Group.split?_updSplit_ne (f' x.g) (fun p : Split =>
      { p with pc := x.p.pc + 4, readyAt := x.now, walked := x.walkedAfter i, inval := [], early := [], qage := 0, again := none, wait := .none })
      (fun _ h => h) hm).trans ?_
    rw [Group.split?, hsame]
    rfl
  · show (useOf x.mode x.mmode i).mend (f' x.g).bad = _
    rw [hbad, hg]

end

/-! ## `produce` -/

section
variable {i : Instr} {x : Ctx} {src : Option TileRef} {dst : TileRef} {own : Nat → Nat → Option (Nat × Nat × Bool)}
  {work : TileSrc → Nat → MatWork}

/-- The source tile of a producing instruction, where it has one. -/
def Ctx.sourceTile (x : Ctx) : Option TileArg → TileSrc
  | some y => x.s.tileSrc x.b x.g y (x.s.tileHeader x.b x.g false y)
  | none => { hdr := 0, loc := .bytes [] }

/-- The operation of a producing instruction for a destination with a header. -/
def Ctx.producedOp (x : Ctx) (d : TileArg) (hd : Nat) (w : MatWork) : MatOp :=
  let r := match d with | .buf p => lockRegion p.addr hd | .reg _ => (0, 0)
  { id := x.s.tick, batch := 0, gids := [x.c.gid], ctxids := [], work := w, lo := r.1, hi := r.2,
    dst := match d with | .reg n => .regs n | .buf p => .buf .acc p.addr p.rotc }

/-- The pending result of a tile that an operation makes in registers. -/
def Pend.produced (regs : List Nat) (id : Nat) : Pend :=
  { kind := .matrix, vw := [], vregs := regs, sw := [], p6set := 0, p6clr := 0, id := id, todo := 1 }

variable (ha : ∀ y ∈ (src.map x.g.tileArg).toList ++ [x.g.tileArg dst], x.TileArrived y)
include ha

omit own work in
theorem Ctx.no_tile_pending : ((src.map x.g.tileArg).toList ++ [x.g.tileArg dst]).find? x.tilePending = none :=
  List.find?_eq_none.2 fun y hy => by simp [(ha y hy).1]

omit own work in
theorem Ctx.no_tile_queued : ((src.map x.g.tileArg).toList ++ [x.g.tileArg dst]).any x.tileQueued = false :=
  List.any_eq_false.2 fun y hy => by simp [(ha y hy).2]

theorem Ctx.produce_of_fail {f : Trap} (hf : x.produceFail i (src.map x.g.tileArg) (x.g.tileArg dst) = some f) :
    x.produce i src dst own work = .trap f := by
  simp only [Ctx.produce, Ctx.no_tile_pending ha, Ctx.no_tile_queued ha, hf, Bool.false_eq_true, if_false]

variable {hd : Nat} {a : TileSrc} (hh : x.s.tileHeader x.b x.g false (x.g.tileArg dst) = hd)
  (hs : x.sourceTile (src.map x.g.tileArg) = a) (hf : x.produceFail i (src.map x.g.tileArg) (x.g.tileArg dst) = none)
include hh hs hf

theorem Ctx.produce_of_own {cause reason : Nat} {atSrc : Bool} (ho : own a.hdr hd = some (cause, reason, atSrc)) :
    ∃ name, x.produce i src dst own work = .trap (tileTrap cause reason name) := by
  have hp := Ctx.no_tile_pending ha
  have hq := Ctx.no_tile_queued ha
  unfold Ctx.produce
  subst hh hs
  generalize src.map x.g.tileArg = y at hp hq hf ho ⊢
  cases y <;> simp only [Ctx.sourceTile] at ho <;> simp only [hp, hq, hf, ho, Bool.false_eq_true, if_false] <;> exact ⟨_, rfl⟩

variable (ho : own a.hdr hd = none) (hb : (src.map x.g.tileArg).bind x.tileBad = none)
include ho hb

/-- An operation for a buffer starts. -/
theorem Ctx.produce_buf {p : Pair} (hd' : x.g.tileArg dst = .buf p) :
    x.produce i src dst own work = .done (x.s.startMat x.c.blk (x.producedOp (.buf p) hd (work a hd))) [] := by
  have hp := Ctx.no_tile_pending ha
  have hq := Ctx.no_tile_queued ha
  unfold Ctx.produce
  subst hh hs
  generalize src.map x.g.tileArg = y at hp hq hf ho hb ⊢
  cases y <;> simp only [Ctx.sourceTile] at ho <;> simp only [hp, hq, hf, ho, hb, Bool.false_eq_true, if_false] <;> rw [hd'] <;> rfl

/-- An operation for registers starts, and they are pending. -/
theorem Ctx.produce_reg {n : Nat} (hd' : x.g.tileArg dst = .reg n) :
    x.produce i src dst own work = .done ((x.s.updCur x.c fun g => { g with
      pend := g.pend ++ [Pend.produced (tileRegs hd (x.g.tileArg dst)) x.s.tick]
      bad := g.bad.filter fun r => !((tileRegs hd (x.g.tileArg dst)).contains r) }).startMat x.c.blk (x.producedOp (.reg n) hd (work a hd))) [] := by
  have hp := Ctx.no_tile_pending ha
  have hq := Ctx.no_tile_queued ha
  unfold Ctx.produce
  subst hh hs
  generalize src.map x.g.tileArg = y at hp hq hf ho hb ⊢
  cases y <;> simp only [Ctx.sourceTile] at ho <;> simp only [hp, hq, hf, ho, hb, Bool.false_eq_true, if_false] <;> rw [hd'] <;> rfl

end

/-- An instruction whose effect is `produce`, where `H` holds, produces. -/
theorem ProduceCompletes.of_produce {i : Instr} {s : State} {src : Option TileRef} {dst : TileRef} {H : Ctx → Prop}
    {own : Ctx → Nat → Nat → Option (Nat × Nat × Bool)} {work : Ctx → TileSrc → Nat → MatWork} {effect : Ctx → Res}
    (hi : isEvent i = false) (hx : exec i s = issue i s effect)
    (he : ∀ x, H x → effect x = x.produce i src dst (own x) (work x)) (hc : ∀ mode mmode, (useOf mode mmode i).chainable = false) :
    ProduceCompletes i s src dst H own work := by
  refine ⟨fun x h hH => ?starts, Completes.of_forall hi fun x h t ht hH ha => ⟨fun f hf => ?_, fun hf cause reason atSrc ho => ?_⟩⟩
  case starts =>
    obtain ⟨hH, ha, hf, ho, hb, hbad⟩ := hH
    let hdr := x.s.tileHeader x.b x.g false (x.g.tileArg dst)
    let w := work x (x.sourceTile (src.map x.g.tileArg)) hdr
    cases hd : x.g.tileArg dst with
    | buf p =>
      have hres : effect x = .done ((x.s.updCur x.c fun g => g).startMat x.c.blk (x.producedOp (.buf p) hdr w)) [] := by
        rw [he x hH, Ctx.produce_buf ha rfl rfl hf ho hb hd, State.updCur_id]
      obtain ⟨t, ht, hends⟩ := issue_startMat h hres rfl (hc _ _) (fun _ _ => rfl) fun _ => ⟨rfl, rfl, rfl, rfl⟩
      refine ⟨t, hx.trans ht, x.producedOp (.buf p) hdr w, rfl, rfl, fun p' hp => ?_, fun n hn => TileArg.noConfusion (hd.symm.trans hn)⟩
      obtain rfl := TileArg.buf.inj (hd.symm.trans hp)
      exact ⟨rfl, rfl, hends⟩
    | reg n =>
      have hres := (he x hH).trans (Ctx.produce_reg ha rfl rfl hf ho hb hd)
      obtain ⟨t, ht, hends⟩ := issue_startMat h hres (f' := fun g => { g with
        pend := g.pend ++ [Pend.produced (tileRegs hdr (x.g.tileArg dst)) x.s.tick] })
        (by simp only [hbad]; rfl) (hc _ _) (fun _ _ => rfl) fun _ => ⟨rfl, rfl, rfl, rfl⟩
      refine ⟨t, hx.trans ht, x.producedOp (.reg n) hdr w, rfl, rfl, fun p hp => TileArg.noConfusion (hd.symm.trans hp), fun n' hn => ?_⟩
      obtain rfl := TileArg.reg.inj (hd.symm.trans hn)
      exact ⟨rfl, hends⟩
  · exact next_unique ht (hx.trans (issue_of_trap h ((he x hH).trans (Ctx.produce_of_fail ha hf))))
  · obtain ⟨name, hres⟩ := Ctx.produce_of_own (work := work x) ha rfl rfl hf ho
    exact ⟨name, next_unique ht (hx.trans (issue_of_trap h ((he x hH).trans hres)))⟩

/-- `tfill`, `cvtt` and `transq` produce as they stand, `hadq` where its seed lookup changes no cache. -/
theorem producersStart (s : State) :
    (∀ a b : TileRef, ProduceCompletes (.cvtt a b) s (some a) b (fun _ => True) (fun _ => cvttFail) fun _ => .cvtt) ∧
    (∀ a b : TileRef, ProduceCompletes (.transq a b) s (some a) b (fun _ => True) (fun _ => transqFail) fun _ => .transq) ∧
    (∀ (a : BitVec 6) (b : TileRef),
      ProduceCompletes (.tfill a b) s none b (fun _ => True) (fun _ _ _ => none) fun x _ h => .tfill (x.rds a) h) ∧
    (∀ (d : BitVec 6) (a b : TileRef),
      let slot := fun x : Ctx => (x.rds d).toNat % 64
      let seed := fun x : Ctx => (x.s.seedOf x.b x.l (slot x)).1
      ProduceCompletes (.hadq d a b) s (some a) b (fun x => (x.s.seedOf x.b x.l (slot x)).2 = x.s) (fun x => hadqFail (seed x))
        fun x src h => .hadq src h ((seed x).getD 0) (slot x)) := by
  refine ⟨fun a b => .of_produce rfl rfl (fun _ _ => rfl) (by simp), fun a b => .of_produce rfl rfl (fun _ _ => rfl) (by simp),
    fun a b => .of_produce rfl rfl (fun _ _ => rfl) (by simp), fun d a b => .of_produce rfl rfl (fun x hH => ?_) (by simp)⟩
  have hslot : field (x.rds d) 5 0 = (x.rds d).toNat % 64 := by simp [field, slice]
  simp only [hslot, hH]

end Sys2Proof.Machine
end

section
/-!
SUPPORT. Bytes of images: numbers at an offset, lists of rows of one length, and sparse maps read as lists (R5, R242, R248).
-/
namespace Sys2Proof.Machine

/-! ## Elements of lists -/

section
variable {α : Type} (d : α)

theorem nth_append (l r : List α) (k : Nat) : nth d (l ++ r) k = if k < l.length then nth d l k else nth d r (k - l.length) := by
  simp only [nth_eq_getD]
  split
  next h => exact List.getD_append _ _ _ _ h
  next h => exact List.getD_append_right _ _ _ _ (by omega)

theorem nth_drop (l : List α) (o k : Nat) : nth d (l.drop o) k = nth d l (o + k) := by
  simp [nth_eq_getD, List.getD_eq_getElem?_getD]

/-- A list is the list of its elements. -/
theorem map_nth_range (l : List α) : (List.range l.length).map (nth d l) = l := by
  refine List.ext_getElem (by simp) fun k _ hk => ?_
  rw [List.getElem_map, List.getElem_range, nth_eq_getD, List.getD_eq_getElem _ _ hk]

/-- Rows of one length: how long they are together, and where each stands. -/
theorem length_flatMap_rows {f : Nat → List α} {p : Nat} (hf : ∀ r, (f r).length = p) (n : Nat) :
    ((List.range n).flatMap f).length = n * p := by
  simp [List.length_flatMap, hf]

theorem nth_flatMap_rows {f : Nat → List α} {p : Nat} (hf : ∀ r, (f r).length = p) {n r o : Nat} (hr : r < n) (ho : o < p) :
    nth d ((List.range n).flatMap f) (r * p + o) = nth d (f r) o := by
  induction n with
  | zero => exact absurd hr (Nat.not_lt_zero r)
  | succ n ih =>
    rw [List.range_succ, List.flatMap_append, nth_append, length_flatMap_rows hf]
    rcases Nat.lt_succ_iff_lt_or_eq.1 hr with h | rfl
    · have hle : (r + 1) * p ≤ n * p := Nat.mul_le_mul_right p h
      rw [if_pos (by rw [Nat.succ_mul] at hle; omega), ih h]
    · rw [if_neg (by omega), Nat.add_sub_cancel_left, List.flatMap_singleton]

end

/-! ## Numbers in bytes -/

theorem leNat_take (l : List Byte) (n : Nat) : leNat (l.take n) = leNat ((List.range n).map (nth 0 l)) := by
  induction n generalizing l with
  | zero => simp
  | succ n ih =>
    rw [List.range_succ_eq_map, List.map_cons, List.map_map]
    cases l with
    | nil =>
      have h := ih []
      simp only [List.take_nil, leNat] at h ⊢
      have hz : (List.range n).map (nth (0 : Byte) [] ∘ Nat.succ) = (List.range n).map (nth 0 []) := rfl
      rw [hz, ← h]
      rfl
    | cons b r =>
      rw [List.take_succ_cons, leNat, ih r]
      rfl

/-- The number at an offset is that of the bytes there, 0 past the end. -/
theorem imgNat_eq (l : List Byte) (o n : Nat) : imgNat l o n = leNat ((List.range n).map fun k => nth 0 l (o + k)) := by
  rw [imgNat, leNat_take]
  exact congrArg leNat (List.map_congr_left fun k _ => nth_drop 0 l o k)

theorem imgNat_congr {l l' : List Byte} {o o' n : Nat} (h : ∀ k < n, nth 0 l (o + k) = nth 0 l' (o' + k)) :
    imgNat l o n = imgNat l' o' n := by
  rw [imgNat_eq, imgNat_eq]
  exact congrArg leNat (List.map_congr_left fun k hk => h k (List.mem_range.1 hk))

theorem imgNat_leBytes {w o n : Nat} (h : o + n ≤ w) (v : Nat) : imgNat (leBytes w v) o n = v / 2 ^ (8 * o) % 2 ^ (8 * n) := by
  obtain ⟨k, rfl⟩ := Nat.exists_eq_add_of_le h
  rw [imgNat, Nat.add_assoc, drop_leBytes, take_leBytes, leNat_leBytes]

/-- One byte. -/
theorem imgNat_one (l : List Byte) (o : Nat) : imgNat l o 1 = (nth 0 l o).toNat := by
  rw [imgNat_eq]
  simp [leNat]

/-! ## Sparse maps as lists -/

section
variable {w : Nat}

theorem Sparse.read_eq_map (m : Sparse w) (a n : Nat) : Sparse.read m a n = (List.range n).map fun k => Sparse.get m (a + k) := by
  induction n generalizing a with
  | zero => rfl
  | succ n ih =>
    rw [Sparse.read, ih, List.range_succ_eq_map, List.map_cons, List.map_map]
    simp [Function.comp_def, Nat.add_comm, Nat.add_left_comm]

@[simp] theorem Sparse.length_read (m : Sparse w) (a n : Nat) : (Sparse.read m a n).length = n := by
  simp [Sparse.read_eq_map]

theorem Sparse.nth_read (m : Sparse w) {n k : Nat} (h : k < n) : nth 0 (Sparse.read m 0 n) k = Sparse.get m k := by
  rw [Sparse.read_eq_map, nth_map_range _ _ _ _ h, Nat.zero_add]

theorem Sparse.foldl_put (key : Nat → Nat) (f : Nat → BitVec w) (l : List Nat) (m : Sparse w) :
    l.foldl (fun m o => Sparse.put m (key o) (f o)) m = Sparse.putAll m (l.map fun o => (key o, f o)) := by
  induction l generalizing m with
  | nil => rfl
  | cons o r ih => exact ih _

end

/-! ## Rotation (R248) -/

@[simp] theorem length_rotate (h rotc : Nat) (img : List Byte) : (rotate h rotc img).length = img.length := Sparse.length_read _ _ _

theorem nth_rotate {h rotc : Nat} {img : List Byte}
    (hinj : ∀ o q, o < img.length → q < img.length → rotated h rotc o = rotated h rotc q → o = q)
    (hlt : ∀ o, o < img.length → rotated h rotc o < img.length) {o : Nat} (ho : o < img.length) :
    nth 0 (rotate h rotc img) (rotated h rotc o) = nth 0 img o := by
  rw [rotate, Sparse.nth_read _ (hlt o ho), Sparse.foldl_put,
    Sparse.get_putAll_map _ _ _ _ o fun q hq => hinj q o (List.mem_range.1 hq) ho, if_pos (List.mem_range.2 ho)]

/-- A rotation that permutes the image is undone. -/
theorem unrotate_rotate (h rotc : Nat) (img : List Byte)
    (hinj : ∀ o q, o < img.length → q < img.length → rotated h rotc o = rotated h rotc q → o = q)
    (hlt : ∀ o, o < img.length → rotated h rotc o < img.length) : unrotate h rotc (rotate h rotc img) = img := by
  rw [unrotate, length_rotate]
  exact (List.map_congr_left fun o ho => nth_rotate hinj hlt (List.mem_range.1 ho)).trans (map_nth_range 0 img)

end Sys2Proof.Machine
end

section
/-!
SUPPORT. The image of a produced tile (R292): the parts of a tile whose header passes, and what stands at each byte.
-/
namespace Sys2Proof.Machine

/-! ## Headers -/

theorem crcBits_lt (n : Nat) {c : Nat} (h : c < 2 ^ 8) : crcBits n c < 2 ^ 8 := by
  induction n generalizing c with
  | zero => exact h
  | succ n ih =>
    have hm : c * 2 % 256 < 2 ^ 8 := Nat.mod_lt _ (by decide)
    rw [crcBits]
    split
    · exact ih (Nat.xor_lt_two_pow hm (by decide))
    · exact ih hm

theorem headerCrc_lt (h : Nat) : headerCrc h < 2 ^ 8 := by
  have hfold (l : List Nat) (hl : ∀ b ∈ l, b < 2 ^ 8) (c : Nat) (hc : c < 2 ^ 8) :
      l.foldl (fun c b => crcBits 8 (c ^^^ b)) c < 2 ^ 8 := by
    induction l generalizing c with
    | nil => exact hc
    | cons b r ih =>
      exact ih (fun x hx => hl x (List.mem_cons_of_mem b hx)) _ (crcBits_lt 8 (Nat.xor_lt_two_pow hc (hl b List.mem_cons_self)))
  refine Nat.xor_lt_two_pow (hfold _ (fun b hb => ?_) 0xFF (by decide)) (by decide)
  obtain ⟨k, -, rfl⟩ := List.mem_map.1 hb
  rw [slice, show 8 * k + 7 + 1 - 8 * k = 8 by omega]
  exact Nat.mod_lt _ (by decide)

theorem sealHeader_lt (h : Nat) : sealHeader h < 2 ^ 128 := by
  have hc := headerCrc_lt (h % 2 ^ 120 / 256 * 256 + 0xB5)
  rw [sealHeader]
  omega

/-- The header of a producer's result is sealed. -/
theorem MatWork.header_lt {w : MatWork} (hw : ∀ z as b h, w ≠ .product z as b h) : w.header < 2 ^ 128 := by
  cases w
  case product => exact absurd rfl (hw _ _ _ _)
  all_goals exact sealHeader_lt _

/-! ## Layout (R242 to R245) -/

section
variable {h : Nat}

theorem part_le_hExtent {p : Nat × Nat} (hp : p ∈ tileParts h) : p.1 + p.2 ≤ hExtent h := by
  have hmax (l : List (Nat × Nat)) (a : Nat) : a ≤ l.foldl (fun a p => max a (p.1 + p.2)) a ∧
      ∀ p ∈ l, p.1 + p.2 ≤ l.foldl (fun a p => max a (p.1 + p.2)) a := by
    induction l generalizing a with
    | nil => exact ⟨le_rfl, fun p hp => by cases hp⟩
    | cons q r ih =>
      obtain ⟨ha, hr⟩ := ih (max a (q.1 + q.2))
      refine ⟨(le_max_left _ _).trans ha, fun p hp => ?_⟩
      rcases List.mem_cons.1 hp with rfl | hp
      · exact (le_max_right _ _).trans ha
      · exact hr p hp
  exact (hmax (tileParts h) 0).2 p hp

theorem header_mem_tileParts : (0, 16) ∈ tileParts h := by simp [tileParts]

theorem rows_mem_tileParts : (16, hRows h * hPitch h) ∈ tileParts h := by simp [tileParts]

theorem scales_mem_tileParts (hs : hScl h ≠ 0) : (16 * hSoff h, scaleSize h) ∈ tileParts h := by simp [tileParts, hs]

/-- A header of a tile without sparsity that passes every check of R251. -/
structure DenseHeader (h : Nat) : Prop where
  dense : hSpr h = 0
  pitch : hCols h * elemBits (hFmt h) ≤ hPitch h * 8
  whole : hCols h * elemBits (hFmt h) % 8 = 0
  soff : hScl h ≠ 0 → hSoff h ≠ 0
  apart : hScl h ≠ 0 → ∀ q, 16 ≤ q → q < 16 + hRows h * hPitch h → ¬ (16 * hSoff h ≤ q ∧ q < 16 * hSoff h + scaleSize h)

theorem ite_some_eq_none {α : Type} {c : Prop} [Decidable c] {a : α} {b : Option α} :
    (if c then some a else b) = none ↔ ¬ c ∧ b = none := by
  split
  next hc => simp [hc]
  next hc => simp [hc]

theorem DenseHeader.of_headerFail {fits : Nat → Bool} (hf : headerFail h none fits = none) (hs : hSpr h = 0) : DenseHeader h := by
  have hrow : rowBits h = hCols h * elemBits (hFmt h) := by simp [rowBits, hs]
  rw [headerFail, ite_some_eq_none] at hf
  obtain ⟨-, hf⟩ := hf
  cases hdef : definedReason h with
  | some r => simp [hdef] at hf
  | none =>
    cases hlay : layoutReason h fits with
    | some r => simp [hdef, hlay] at hf
    | none =>
      simp only [layoutReason, ite_some_eq_none, hrow] at hlay
      obtain ⟨hpitch, hwhole, hparts, -⟩ := hlay
      simp only [Bool.or_eq_true, not_or, Bool.not_eq_true] at hparts
      obtain ⟨⟨hsoff, -⟩, hoverlap⟩ := hparts
      refine ⟨hs, by omega, by omega, fun hscl => ?_, fun hscl q hlo hhi hq => ?_⟩
      · simpa [hscl] using hsoff
      · simp [tileParts, hscl, hs, partsOverlap, meets] at hoverlap
        omega

/-! ## Rows -/

/-- Elements of 4 bits stand two in a byte; the others take whole bytes (R240). -/
theorem elemBits_cases (fmt : Nat) : elemBits fmt = 4 ∨ ∃ b, 0 < b ∧ elemBits fmt = 8 * b := by
  unfold elemBits
  split
  · exact .inr ⟨4, by decide, rfl⟩
  · exact .inr ⟨4, by decide, rfl⟩
  · exact .inr ⟨2, by decide, rfl⟩
  · exact .inr ⟨2, by decide, rfl⟩
  · exact .inl rfl
  · exact .inr ⟨1, by decide, rfl⟩

section
variable (pad : Nat → Byte) (r : Nat) (code : Nat → Nat)

theorem DenseHeader.length_rowBytes (hd : DenseHeader h) : (rowBytes pad h r code).length = hPitch h := by
  have := hd.pitch
  simp only [rowBytes, List.length_append, length_leBytes, List.length_map, List.length_range]
  omega

/-- The codes of a row stand in its first bytes. -/
theorem imgNat_rowBytes {o n : Nat} (hon : 8 * (o + n) ≤ hCols h * elemBits (hFmt h)) : imgNat (rowBytes pad h r code) o n =
    packElems (elemBits (hFmt h)) ((List.range (hCols h)).map code) / 2 ^ (8 * o) % 2 ^ (8 * n) := by
  rw [← imgNat_leBytes (w := hCols h * elemBits (hFmt h) / 8) (by omega)]
  refine imgNat_congr fun k hk => ?_
  rw [rowBytes, nth_append, length_leBytes, if_pos (by omega)]

end

/-- An element in a row of stored bytes: its code, however the row's bytes are placed. -/
theorem DenseHeader.storedCode_of_row (hd : DenseHeader h) {img : List Byte} {r : Nat} {pad : Nat → Byte} {code : Nat → Nat}
    (hrow : ∀ o < hPitch h, nth 0 img (16 + r * hPitch h + o) = nth 0 (rowBytes pad h r code) o) {e : Nat} (he : e < hCols h) :
    storedCode h img r e = code e % 2 ^ elemBits (hFmt h) := by
  have hpitch := hd.pitch
  have hbytes {o n : Nat} (hon : 8 * (o + n) ≤ hCols h * elemBits (hFmt h)) : imgNat img (16 + r * hPitch h + o) n =
      packElems (elemBits (hFmt h)) ((List.range (hCols h)).map code) / 2 ^ (8 * o) % 2 ^ (8 * n) := by
    rw [← imgNat_rowBytes pad r code hon]
    exact imgNat_congr fun k hk => by rw [Nat.add_assoc, hrow _ (by omega)]
  have hdigit : packElems (elemBits (hFmt h)) ((List.range (hCols h)).map code) / 2 ^ (elemBits (hFmt h) * e) % 2 ^ elemBits (hFmt h) =
      code e % 2 ^ elemBits (hFmt h) := by
    rw [packElems_digit, nth_map_range _ _ _ _ he]
  rw [storedCode]
  rcases elemBits_cases (hFmt h) with h4 | ⟨b, hb, h8⟩
  · have hwhole := hd.whole
    rw [h4] at hbytes hdigit hwhole ⊢
    have hplace : 4 * e = 8 * (e / 2) + 4 * (e % 2) := by omega
    rw [if_pos rfl, hbytes (by omega), ← hdigit, hplace, Nat.pow_add, ← Nat.div_div_eq_div_mul]
    rcases Nat.mod_two_eq_zero_or_one e with h2 | h2 <;> rw [h2] <;> omega
  · have hlast : (e + 1) * b ≤ hCols h * b := Nat.mul_le_mul_right b he
    rw [h8] at hbytes hdigit ⊢
    rw [if_neg (by omega), Nat.mul_div_cancel_left _ (by decide : 0 < 8), hbytes (by linarith), ← hdigit,
      show 8 * (e * b) = 8 * b * e by ring]

/-! ## Scales -/

theorem le_roundUp (a : Nat) {b : Nat} (hb : 0 < b) : a ≤ roundUp a b := by
  have := Nat.div_add_mod (a + b - 1) b
  have := Nat.mod_lt (a + b - 1) hb
  rw [roundUp, ceilDiv, Nat.mul_comm]
  omega

theorem div_lt_ceilDiv {a b k : Nat} (hb : 0 < b) (hk : k < a) : k / b < ceilDiv a b := by
  rw [ceilDiv, Nat.div_lt_iff_lt_mul hb]
  have := Nat.div_add_mod (a + b - 1) b
  have := Nat.mod_lt (a + b - 1) hb
  rw [Nat.mul_comm]
  omega

variable {scale : Nat → Nat → Nat}

theorem length_scaleBytes : (scaleBytes h scale).length = scaleSize h := by
  unfold scaleBytes scaleSize
  split
  · exact length_flatMap_rows (fun n => by simp) _
  · exact length_flatMap_rows (fun n => by simp) _
  · exact length_flatMap_rows (fun n => by simp) _
  · exact length_leBytes _ _
  · rw [length_flatMap_rows (fun n => length_leBytes 4 _), Nat.mul_comm]
  · rfl

/-- The scale in column q of row r, where a row of the scale area holds the scales of every `unit`-th element. -/
theorem nth_scaleBytes_row {rows cnt unit step r q : Nat} (hsc : scaleBytes h scale = (List.range rows).flatMap fun n =>
      (List.range (scalePitch h)).map fun q => if q < cnt then BitVec.ofNat 8 (scale (step * n) (unit * q)) else 0)
    (hr : r < rows) (hq : q < cnt) (hcnt : cnt ≤ scalePitch h) :
    nth 0 (scaleBytes h scale) (r * scalePitch h + q) = BitVec.ofNat 8 (scale (step * r) (unit * q)) := by
  rw [hsc, nth_flatMap_rows 0 (fun n => by simp) hr (by omega), nth_map_range _ _ _ _ (by omega), if_pos hq]

variable {n k : Nat}

theorem nth_scaleBytes_one (hs : hScl h = 1) (hn : n < hN h) (hk : k < hK h) :
    nth 0 (scaleBytes h scale) (n * scalePitch h + k / 32) = BitVec.ofNat 8 (scale n (32 * (k / 32))) := by
  have hsc : scaleBytes h scale = (List.range (hN h)).flatMap fun n => (List.range (scalePitch h)).map fun q =>
      if q < ceilDiv (hK h) 32 then BitVec.ofNat 8 (scale (1 * n) (32 * q)) else 0 := by simp [scaleBytes, hs]
  have h1 := nth_scaleBytes_row hsc hn (div_lt_ceilDiv (by decide) hk) (by simpa [scalePitch, hs] using le_roundUp _ (by decide))
  rwa [Nat.one_mul] at h1

theorem nth_scaleBytes_two (hs : hScl h = 2) (hn : n < hN h) (hk : k < hK h) :
    nth 0 (scaleBytes h scale) (n * scalePitch h + k / 16) = BitVec.ofNat 8 (scale n (16 * (k / 16))) := by
  have hsc : scaleBytes h scale = (List.range (hN h)).flatMap fun n => (List.range (scalePitch h)).map fun q =>
      if q < ceilDiv (hK h) 16 then BitVec.ofNat 8 (scale (1 * n) (16 * q)) else 0 := by simp [scaleBytes, hs]
  have h1 := nth_scaleBytes_row hsc hn (div_lt_ceilDiv (by decide) hk) (by simpa [scalePitch, hs] using le_roundUp _ (by decide))
  rwa [Nat.one_mul] at h1

theorem nth_scaleBytes_three (hs : hScl h = 3) (hn : n < hN h) (hk : k < hK h) :
    nth 0 (scaleBytes h scale) (n / 32 * scalePitch h + k) = BitVec.ofNat 8 (scale (32 * (n / 32)) k) := by
  have hsc : scaleBytes h scale = (List.range (ceilDiv (hN h) 32)).flatMap fun n => (List.range (scalePitch h)).map fun q =>
      if q < hK h then BitVec.ofNat 8 (scale (32 * n) (1 * q)) else 0 := by simp [scaleBytes, hs]
  have h1 := nth_scaleBytes_row hsc (div_lt_ceilDiv (by decide) hn) hk (by simpa [scalePitch, hs] using le_roundUp _ (by decide))
  rwa [Nat.one_mul] at h1

theorem imgNat_scaleBytes_four (hs : hScl h = 4) : imgNat (scaleBytes h scale) 0 4 = scale 0 0 % 2 ^ 32 := by
  simp only [scaleBytes, hs]
  rw [imgNat_leBytes (Nat.le_refl (0 + 4))]
  simp

theorem imgNat_scaleBytes_five (hs : hScl h = 5) (hn : n < hN h) : imgNat (scaleBytes h scale) (4 * n) 4 = scale n 0 % 2 ^ 32 := by
  have h1 : imgNat (scaleBytes h scale) (4 * n) 4 = imgNat (leBytes 4 (scale n 0)) 0 4 := by
    refine imgNat_congr fun o ho => ?_
    simp only [scaleBytes, hs]
    rw [Nat.mul_comm, nth_flatMap_rows 0 (fun n => length_leBytes 4 _) hn ho, Nat.zero_add]
  rw [h1, imgNat_leBytes (Nat.le_refl (0 + 4))]
  simp

/-! ## The image -/

variable {tick : Nat} {code : Nat → Nat → Nat}

theorem length_tileImage : (tileImage tick h code scale).length = hExtent h := Sparse.length_read _ _ _

/-- A padding byte of a data row. -/
def rowPad (tick o : Nat) : Byte := (Config.free tick (2 ^ 42 + o)).setWidth 8

/-- Row r of the stored data, whatever the orientation. -/
def imageRow (tick h : Nat) (code : Nat → Nat → Nat) (r : Nat) : List Byte :=
  rowBytes (rowPad tick) h r fun c => if hOrient h then code c r else code r c

/-- The header and the rows. -/
def imageFront (tick h : Nat) (code : Nat → Nat → Nat) : List Byte := leBytes 16 h ++ (List.range (hRows h)).flatMap (imageRow tick h code)

theorem DenseHeader.length_imageFront (hd : DenseHeader h) : (imageFront tick h code).length = 16 + hRows h * hPitch h := by
  rw [imageFront, List.length_append, length_leBytes, length_flatMap_rows (f := imageRow tick h code) fun r => hd.length_rowBytes _ _ _]

/-- Each byte of the image: that of the scale area where it reaches, else that of the header and the rows, else 0. -/
theorem nth_tileImage {o : Nat} (ho : o < hExtent h) : nth 0 (tileImage tick h code scale) o =
    if hScl h ≠ 0 ∧ 16 * hSoff h ≤ o ∧ o < 16 * hSoff h + scaleSize h then nth 0 (scaleBytes h scale) (o - 16 * hSoff h)
    else if o < (imageFront tick h code).length then nth 0 (imageFront tick h code) o else 0 := by
  have hfront : Sparse.get (Sparse.write ([] : Sparse 8) 0 (imageFront tick h code)) o =
      if o < (imageFront tick h code).length then nth 0 (imageFront tick h code) o else 0 := by
    rw [Sparse.get_write]
    simp [show Sparse.get ([] : Sparse 8) o = 0 from rfl]
  have himg : nth 0 (tileImage tick h code scale) o = Sparse.get (if hScl h = 0 then Sparse.write ([] : Sparse 8) 0 (imageFront tick h code)
      else Sparse.write (Sparse.write ([] : Sparse 8) 0 (imageFront tick h code)) (16 * hSoff h) (scaleBytes h scale)) o :=
    Sparse.nth_read _ ho
  rw [himg]
  by_cases hs : hScl h = 0
  · simp [hs, hfront]
  · rw [if_neg hs, Sparse.get_write, hfront, length_scaleBytes]
    simp [hs]

/-- The bytes of the header. -/
theorem DenseHeader.nth_tileImage_header (hd : DenseHeader h) {o : Nat} (ho : o < 16) :
    nth 0 (tileImage tick h code scale) o = nth 0 (leBytes 16 h) o := by
  have hext := part_le_hExtent (header_mem_tileParts (h := h))
  have hsoff := hd.soff
  rw [nth_tileImage (by omega), if_neg (by omega), hd.length_imageFront, if_pos (by omega), imageFront, nth_append, length_leBytes,
    if_pos ho]

/-- The bytes of a data row. -/
theorem DenseHeader.nth_tileImage_row (hd : DenseHeader h) {r o : Nat} (hr : r < hRows h) (ho : o < hPitch h) :
    nth 0 (tileImage tick h code scale) (16 + r * hPitch h + o) = nth 0 (imageRow tick h code r) o := by
  have hext := part_le_hExtent (rows_mem_tileParts (h := h))
  have hlast : (r + 1) * hPitch h ≤ hRows h * hPitch h := Nat.mul_le_mul_right _ hr
  rw [Nat.succ_mul] at hlast
  have hapart := fun hs => hd.apart hs (16 + r * hPitch h + o) (by omega) (by omega)
  rw [nth_tileImage (by omega), if_neg fun hc => hapart hc.1 hc.2, hd.length_imageFront, if_pos (by omega), imageFront, nth_append,
    length_leBytes, if_neg (by omega), show 16 + r * hPitch h + o - 16 = r * hPitch h + o by omega,
    nth_flatMap_rows (f := imageRow tick h code) 0 (fun r => hd.length_rowBytes _ _ _) hr ho]

/-- The bytes of the scale area. -/
theorem nth_tileImage_scale (hs : hScl h ≠ 0) {o : Nat} (ho : o < scaleSize h) :
    nth 0 (tileImage tick h code scale) (16 * hSoff h + o) = nth 0 (scaleBytes h scale) o := by
  have hext := part_le_hExtent (scales_mem_tileParts hs)
  rw [nth_tileImage (by dsimp only at hext; omega), if_pos ⟨hs, by omega, by omega⟩, Nat.add_sub_cancel_left]

/-- Between the parts the image is 0. -/
theorem DenseHeader.nth_tileImage_gap (hd : DenseHeader h) {o : Nat} (ho : o < hExtent h)
    (hgap : ∀ p ∈ tileParts h, ¬ (p.1 ≤ o ∧ o < p.1 + p.2)) : nth 0 (tileImage tick h code scale) o = 0 := by
  have hheader := hgap _ header_mem_tileParts
  have hrows := hgap _ rows_mem_tileParts
  rw [nth_tileImage ho, if_neg fun hc => hgap _ (scales_mem_tileParts hc.1) hc.2, hd.length_imageFront, if_neg (by dsimp only at hrows; omega)]

theorem DenseHeader.leNat_take_tileImage (hd : DenseHeader h) (hlt : h < 2 ^ 128) :
    leNat ((tileImage tick h code scale).take 16) = h := by
  have h1 : imgNat (tileImage tick h code scale) 0 16 = imgNat (leBytes 16 h) 0 16 := imgNat_congr fun o ho => by
    rw [Nat.zero_add, hd.nth_tileImage_header ho]
  have h2 := imgNat_leBytes (Nat.le_refl (0 + 16)) h
  rw [Nat.mul_zero, pow_zero, Nat.div_one, Nat.mod_eq_of_lt hlt] at h2
  exact h1.trans h2

/-- Each element's code stands in its place, in the tile's orientation. -/
theorem DenseHeader.storedCode_tileImage (hd : DenseHeader h) {n k : Nat} (hn : n < hN h) (hk : k < hK h) :
    storedCode h (tileImage tick h code scale) (if hOrient h then k else n) (if hOrient h then n else k) =
      code n k % 2 ^ elemBits (hFmt h) := by
  unfold hN at hn
  unfold hK at hk
  split at hn
  next ho =>
    rw [if_pos ho] at hk
    rw [if_pos ho, if_pos ho, hd.storedCode_of_row (fun o h' => hd.nth_tileImage_row hk h') hn, if_pos ho]
  next ho =>
    rw [if_neg ho] at hk
    rw [if_neg ho, if_neg ho, hd.storedCode_of_row (fun o h' => hd.nth_tileImage_row hn h') hk, if_neg ho]

/-- The entries of the scale area. -/
theorem imgNat_tileImage_scale {o size : Nat} (hs : hScl h ≠ 0) (ho : o + size ≤ scaleSize h) :
    imgNat (tileImage tick h code scale) (16 * hSoff h + o) size = imgNat (scaleBytes h scale) o size :=
  imgNat_congr fun q hq => by rw [Nat.add_assoc, nth_tileImage_scale hs (by omega)]

/-- What R292 asks of the image of a dense tile: the header, each element's code and each scale in its place, and 0 between the parts. -/
def DenseImage (h : Nat) (img : List Byte) (code scale : Nat → Nat → Nat) : Prop :=
  leNat (img.take 16) = h ∧ img.length = hExtent h ∧
  (∀ n < hN h, ∀ k < hK h, storedCode h img (if hOrient h then k else n) (if hOrient h then n else k) = code n k % 2 ^ elemBits (hFmt h)) ∧
  (∀ n < hN h, ∀ k < hK h,
    let entry := fun o size => leNat ((img.drop (16 * hSoff h + o)).take size)
    (hScl h = 1 → entry (n * scalePitch h + k / 32) 1 = scale n (32 * (k / 32)) % 256) ∧
    (hScl h = 2 → entry (n * scalePitch h + k / 16) 1 = scale n (16 * (k / 16)) % 256) ∧
    (hScl h = 3 → entry (n / 32 * scalePitch h + k) 1 = scale (32 * (n / 32)) k % 256) ∧
    (hScl h = 4 → entry 0 4 = scale 0 0 % 2 ^ 32) ∧ (hScl h = 5 → entry (4 * n) 4 = scale n 0 % 2 ^ 32)) ∧
  ∀ o < hExtent h, (∀ p ∈ tileParts h, ¬ (p.1 ≤ o ∧ o < p.1 + p.2)) → nth 0 img o = 0

/-- The place of an entry of the scale area lies in it. -/
theorem row_entry_lt {r rows q p : Nat} (hr : r < rows) (hq : q < p) : r * p + q + 1 ≤ rows * p := by
  have h1 : (r + 1) * p ≤ rows * p := Nat.mul_le_mul_right p hr
  rw [Nat.succ_mul] at h1
  omega

theorem DenseHeader.denseImage (hd : DenseHeader h) (hlt : h < 2 ^ 128) : DenseImage h (tileImage tick h code scale) code scale := by
  refine ⟨hd.leNat_take_tileImage hlt, length_tileImage, fun n hn k hk => hd.storedCode_tileImage hn hk,
    fun n hn k hk => ⟨fun hs => ?_, fun hs => ?_, fun hs => ?_, fun hs => ?_, fun hs => ?_⟩, fun o ho => hd.nth_tileImage_gap ho⟩
  · have hlast := (div_lt_ceilDiv (by decide : 0 < 32) hk).trans_le (le_roundUp (ceilDiv (hK h) 32) (by decide : 0 < 4))
    refine (imgNat_tileImage_scale (by omega) ?_).trans ?_
    · simpa [scaleSize, scalePitch, hs] using row_entry_lt hn hlast
    · rw [imgNat_one, nth_scaleBytes_one hs hn hk, BitVec.toNat_ofNat]
  · have hlast := (div_lt_ceilDiv (by decide : 0 < 16) hk).trans_le (le_roundUp (ceilDiv (hK h) 16) (by decide : 0 < 4))
    refine (imgNat_tileImage_scale (by omega) ?_).trans ?_
    · simpa [scaleSize, scalePitch, hs] using row_entry_lt hn hlast
    · rw [imgNat_one, nth_scaleBytes_two hs hn hk, BitVec.toNat_ofNat]
  · have hlast := hk.trans_le (le_roundUp (hK h) (by decide : 0 < 4))
    refine (imgNat_tileImage_scale (by omega) ?_).trans ?_
    · simpa [scaleSize, scalePitch, hs] using row_entry_lt (div_lt_ceilDiv (by decide : 0 < 32) hn) hlast
    · rw [imgNat_one, nth_scaleBytes_three hs hn hk, BitVec.toNat_ofNat]
  · refine (imgNat_tileImage_scale (by omega) ?_).trans (imgNat_scaleBytes_four hs)
    simp [scaleSize, hs]
  · refine (imgNat_tileImage_scale (by omega) ?_).trans (imgNat_scaleBytes_five hs hn)
    simp only [scaleSize, hs]
    omega

/-- Codes count modulo the width of an element. -/
theorem DenseImage.congr_code {img : List Byte} {code' : Nat → Nat → Nat} (hi : DenseImage h img code' scale)
    (hc : ∀ n k, code' n k % 2 ^ elemBits (hFmt h) = code n k % 2 ^ elemBits (hFmt h)) : DenseImage h img code scale := by
  obtain ⟨hhead, hlen, hcode, hscale, hgap⟩ := hi
  exact ⟨hhead, hlen, fun n hn k hk => (hcode n hn k hk).trans (hc n k), hscale, hgap⟩

theorem oneScale_eq (scl : Nat) : oneScale scl = if scl = 1 ∨ scl = 3 then 0x7F else if scl = 2 then 0x38 else 0x3F800000 := by
  unfold oneScale
  split
  · rfl
  · rfl
  · rfl
  next h1 h3 h2 => rw [if_neg (not_or.2 ⟨h1, h3⟩), if_neg h2]

end

/-- Where the values of a producer's result come from: the source, transposed or rotated (R293 to R296). -/
def MatWork.values : MatWork → Nat → Nat → Val
  | .cvtt a _ => valAt a.hdr a.image
  | .transq a _ => fun n k => valAt a.hdr a.image k n
  | .hadq a _ seed _ => fun n k => nth (.fin false ⟨0, 1⟩) (hadamard seed (k / 32)
      ((List.range 32).map fun m => valAt a.hdr a.image n (32 * (k / 32) + m))) (k % 32)
  | _ => fun _ _ => .fin false ⟨0, 1⟩

/-- Codes and scales of a producer's result: quantised values, or those of tfill. -/
def MatWork.Codes (w : MatWork) (code scale : Nat → Nat → Nat) : Prop :=
  match w with
  | .product .. => False
  | .tfill v _ => code = (fun _ _ => v.toNat) ∧
      scale = fun _ _ => if hScl w.header = 1 ∨ hScl w.header = 3 then 0x7F else if hScl w.header = 2 then 0x38 else 0x3F800000
  | _ => code = resultCode w.header w.values ∧ scale = fun n k => (scaleFor w.header w.values n k).1

/-- The image of a quantised result. -/
theorem MatWork.image_eq {w : MatWork} {tick : Nat} {old : List Byte} {code scale : Nat → Nat → Nat} (hw : w.Codes code scale) :
    w.image tick false TileSrc.image old =
      tileImage tick w.header (fun n k => match w with | .tfill .. => code n k % 2 ^ elemBits (hFmt w.header) | _ => code n k) scale := by
  cases w with
  | product z as b h => exact hw.elim
  | cvtt a h => obtain ⟨rfl, rfl⟩ := hw; simp [MatWork.image, MatWork.values]
  | hadq a h seed slot => obtain ⟨rfl, rfl⟩ := hw; simp [MatWork.image, MatWork.values, Q.ofInt]
  | transq a h => obtain ⟨rfl, rfl⟩ := hw; simp [MatWork.image, MatWork.values]
  | tfill v h =>
    obtain ⟨rfl, rfl⟩ := hw
    simp [MatWork.image, oneScale_eq]

/-- The image of a producer's result. -/
theorem MatWork.denseImage {w : MatWork} {tick : Nat} {old : List Byte} {code scale : Nat → Nat → Nat} (hw : w.Codes code scale)
    (hd : DenseHeader w.header) : DenseImage w.header (w.image tick false TileSrc.image old) code scale := by
  have hlt : w.header < 2 ^ 128 := MatWork.header_lt (by rintro z as b h rfl; exact hw)
  rw [MatWork.image_eq hw]
  refine (hd.denseImage hlt).congr_code fun n k => ?_
  split
  · exact Nat.mod_mod _ _
  · rfl

end Sys2Proof.Machine
end

section
/-!
SUPPORT. Quantising a block (R143) and the Hadamard rotation (R294).
-/
namespace Sys2Proof.Machine

/-! ## The largest magnitude of a block -/

theorem blockMax_cons_fin (s : Bool) (q : Q) (r : List Val) :
    blockMax (.fin s q :: r) = (blockMax r).map fun m => if Q.lt m q.abs then q.abs else m := rfl

/-- A block has a largest magnitude unless it holds a NaN or an infinity. -/
theorem blockMax_eq_none_iff (l : List Val) : blockMax l = none ↔ ∃ v ∈ l, ∀ s q, v ≠ .fin s q := by
  induction l with
  | nil => simp [blockMax]
  | cons v r ih =>
    cases v with
    | fin s q => simp [blockMax_cons_fin, ih]
    | inf s => simp [blockMax]
    | nan p => simp [blockMax]

/-- The largest magnitude is none below those of the block, and one of them if it is not the 0 of an empty block. -/
theorem blockMax_spec {l : List Val} {m : Q} (hm : blockMax l = some m) (hden : ∀ s q, Val.fin s q ∈ l → 0 < q.den) :
    0 < m.den ∧ (∀ s q, Val.fin s q ∈ l → q.abs.value ≤ m.value) ∧
      (m.num ≠ 0 → ∃ s q, Val.fin s q ∈ l ∧ q.abs.value = m.value) := by
  induction l generalizing m with
  | nil =>
    obtain rfl := Option.some.inj hm
    exact ⟨by decide, fun _ _ h => (by cases h), fun h => absurd rfl h⟩
  | cons v r ih =>
    cases v with
    | inf s => cases hm
    | nan p => cases hm
    | fin s q =>
      rw [blockMax_cons_fin, Option.map_eq_some_iff] at hm
      obtain ⟨m', hm', rfl⟩ := hm
      obtain ⟨hden', hle, hat⟩ := ih hm' fun s q h => hden s q (List.mem_cons_of_mem _ h)
      have hq : 0 < q.abs.den := by simpa using hden s q List.mem_cons_self
      have hlt := Q.lt_iff hden' hq
      split
      next h =>
        have hbelow := hlt.1 h
        refine ⟨hq, fun s' q' h' => ?_, fun _ => ⟨s, q, List.mem_cons_self, rfl⟩⟩
        rcases List.mem_cons.1 h' with h' | h'
        · cases h'; exact le_rfl
        · exact (hle s' q' h').trans hbelow.le
      next h =>
        have habove := not_lt.1 (mt hlt.2 h)
        refine ⟨hden', fun s' q' h' => ?_, fun hne => ?_⟩
        · rcases List.mem_cons.1 h' with h' | h'
          · cases h'; exact habove
          · exact hle s' q' h'
        · obtain ⟨s', q', h', he⟩ := hat hne
          exact ⟨s', q', List.mem_cons_of_mem _ h', he⟩

/-! ## Codes and scales -/

section
variable {h : Nat} {val : Nat → Nat → Val} {n k : Nat} {f : Fmt} {m : Q}

theorem plainElem_of_fmt (hf : tileFmt (hFmt h) = some f) (v : Val) :
    plainElem (hFmt h) v = f.enc { rm := 0, sat := true, ftz := false, dnan := true } 0 v := by simp [plainElem, hf]

theorem plainElem_of_int (hf : tileFmt (hFmt h) = none) (v : Val) : plainElem (hFmt h) v = match v with
    | .nan _ => 0 | .inf s => clampInt true (elemBits (hFmt h)) (if s then -(2 ^ 40) else 2 ^ 40)
    | .fin _ q => clampInt true (elemBits (hFmt h)) (roundInt 0 0 q) := by
  simp only [plainElem, hf] <;> cases v <;> rfl

theorem resultCode_plain (hs : hScl h = 0) : resultCode h val n k = plainElem (hFmt h) (val n k) := by rw [resultCode, if_pos hs]

/-- The values of the block of (n, k). -/
def blockVals (h : Nat) (val : Nat → Nat → Val) (n k : Nat) : List Val := (blockMembers h n k).map fun y => val y.1 y.2

theorem scaleFor_of_fmt (hf : tileFmt (hFmt h) = some f) : scaleFor h val n k = blockScale f (hScl h) (blockVals h val n k) := by
  simp [scaleFor, hf, blockVals]

theorem resultCode_block (hs : hScl h ≠ 0) (hf : tileFmt (hFmt h) = some f) :
    resultCode h val n k = blockElem f (blockScale f (hScl h) (blockVals h val n k)).2 (val n k) := by
  simp [resultCode, hs, hf, scaleFor_of_fmt hf]

section
variable {l : List Val} (scl : Nat)

theorem blockScale_of_none (hm : blockMax l = none) :
    blockScale f scl l = (if scl = 1 ∨ scl = 3 then 0xFF else if scl = 2 then 0x7F else 0x7FC00000, .nan) := by
  unfold blockScale
  rw [hm]
  dsimp only
  split
  · rfl
  · rfl
  · rfl
  next h1 h3 h2 => rw [if_neg (not_or.2 ⟨h1, h3⟩), if_neg h2]

theorem blockScale_of_zero (hm : blockMax l = some m) (hz : m.num = 0) :
    blockScale f scl l = (if scl = 1 ∨ scl = 2 ∨ scl = 3 then 0 else 0x3F800000, .fin (Q.ofInt 1)) := by
  unfold blockScale
  rw [hm]
  dsimp only
  rw [if_pos hz]
  split
  · rfl
  · rfl
  · rfl
  next h1 h2 h3 => rw [if_neg (by rintro (h | h | h); exacts [h1 h, h2 h, h3 h])]

/-- A power of two as scale. -/
theorem blockScale_e8 (hm : blockMax l = some m) (hz : m.num ≠ 0) (hs : scl = 1 ∨ scl = 3) : blockScale f scl l =
    ((max (-127) (min 127 (log2Floor m - fmtEmax f)) + 127).toNat, .fin (Q.dyadic 1 (max (-127) (min 127 (log2Floor m - fmtEmax f))))) := by
  unfold blockScale
  rw [hm]
  dsimp only
  rw [if_neg hz]
  rcases hs with rfl | rfl <;> rfl

/-- An e4m3 scale. -/
theorem blockScale_e4m3 (hm : blockMax l = some m) (hz : m.num ≠ 0) : blockScale f 2 l =
    (max 1 (min 0x7E (Fmt.e4m3.roundFin true 3 0 false (Q.div m (fmtMax f)))),
      .fin (Fmt.e4m3.mag (max 1 (min 0x7E (Fmt.e4m3.roundFin true 3 0 false (Q.div m (fmtMax f))))))) := by
  unfold blockScale
  rw [hm]
  exact if_neg hz

end

end

/-! ## Hadamard rotation -/

/-- A value as an f32. -/
def roundF32 (v : Val) : Val := Fmt.f32.dec (Fmt.f32.enc { rm := 0, sat := false, ftz := false, dnan := false } 0 v)

section
variable {h m : Nat} (l : List Val)

theorem nth_butterfly_low (hm : m < 32) (he : m / h % 2 = 0) : nth (.fin false ⟨0, 1⟩) (butterfly h l) m =
    roundF32 (Val.add 0 (nth (.fin false ⟨0, 1⟩) l m) (nth (.fin false ⟨0, 1⟩) l (m + h))) := by
  rw [butterfly, nth_map_range _ _ _ _ hm, if_pos he]
  rfl

theorem nth_butterfly_high (hm : m + h < 32) (ho : (m + h) / h % 2 ≠ 0) : nth (.fin false ⟨0, 1⟩) (butterfly h l) (m + h) =
    roundF32 (Val.add 0 (nth (.fin false ⟨0, 1⟩) l m) (nth (.fin false ⟨0, 1⟩) l (m + h)).neg) := by
  rw [butterfly, nth_map_range _ _ _ _ hm, if_neg ho, Nat.add_sub_cancel]
  rfl

/-- The lower half of a butterfly has its partner h above, in the upper half. -/
theorem butterfly_partner (hh : h ∈ [1, 2, 4, 8, 16]) (hm : m < 32) (he : m / h % 2 = 0) : m + h < 32 ∧ (m + h) / h % 2 ≠ 0 := by
  simp only [List.mem_cons, List.not_mem_nil, or_false] at hh
  rcases hh with rfl | rfl | rfl | rfl | rfl <;> omega

/-- The block with the signs of its generator. -/
def signed (st : Word) (l : List Val) : List Val := l.zipIdx.map fun (v, i) => if st.getLsbD i then v.neg else v

theorem nth_signed (st : Word) (hm : m < l.length) (z : Val) :
    nth z (signed st l) m = if st.getLsbD m then (nth z l m).neg else nth z l m := by
  simp [signed, nth_eq_getD, hm]

theorem hadamard_eq (seed : Word) (q : Nat) : hadamard seed q l =
    butterfly 16 (butterfly 8 (butterfly 4 (butterfly 2 (butterfly 1 (signed (hadSign seed q) l))))) := rfl

end
end Sys2Proof.Machine
end
section
open Sys2Proof Sys2Proof.Machine

/-- Settles O45, a lemma for each outcome of an instruction: a rule of `exec` for `tld`, `tst`, `thdr` and `tchk`, one rule for all the
producers, the bytes of an image by its parts, and the block's scale by its largest magnitude. -/
theorem tilesMoveBetweenRegistersAndBuffers : Obligations.TilesMoveBetweenRegistersAndBuffers := by
  unfold Obligations.TilesMoveBetweenRegistersAndBuffers
  refine ⟨fun d a s => ?tld, fun a b s => ?tst, fun d a s => ?thdr, fun d a s => ?tchk, producersStart, unrotate_rotate,
    fun w tick old code scale => ?image, fun h val n k => ?quantise, by decide, fun seed q l hl => ?hadamard⟩
  case tld =>
    refine ⟨Completes.of_forall rfl fun x hx t ht => ⟨fun f he => ?_, fun ho f hf => ?_⟩, fun x hx hp => ?_, fun x hx hp => ?_,
      Completes.of_forall rfl fun x hx t ht hp => ?_, fun x hx hp => ?_⟩
    · exact next_unique ht (exec_tld_of_early hx rfl he)
    · obtain ⟨he, hl⟩ := ho
      exact next_unique ht (exec_tld_of_fail hx rfl rfl he hl hf)
    · obtain ⟨he, hl⟩ := hp
      exact exec_tld_of_locked hx rfl rfl he hl
    · obtain ⟨⟨he, hl⟩, hf, hr⟩ := hp
      exact exec_tld_of_pending hx rfl rfl he hl hf rfl hr
    · obtain ⟨⟨he, hl⟩, hf, hr⟩ := hp
      refine ⟨fun hi => ?_, fun hi => next_unique ht (exec_tld_of_stall hx rfl rfl he hl hf rfl hr hi),
        fun hg f hb => next_unique ht (exec_tld_of_poison hx rfl rfl he hl hf rfl hr hg hb)⟩
      obtain ⟨u, hu, hsleep⟩ := exec_tld_of_interlock hx rfl rfl he hl hf rfl hr hi
      exact next_unique ht hu ▸ hsleep
    · obtain ⟨⟨he, hl⟩, hf, hr, hg, hb, hqu, hbad⟩ := hp
      exact exec_tld_loads hx rfl rfl he hl hf rfl hr hg hb hqu hbad
  case tst =>
    refine ⟨Completes.of_forall rfl fun x hx t ht hw f hf => next_unique ht (exec_tst_of_fail hx rfl hw hf), fun x hx hp => ?_,
      fun x hx hp => ?_⟩
    · obtain ⟨⟨⟨⟨hw, -⟩, hb⟩, hf⟩, hl⟩ := hp
      exact exec_tst_of_locked hx rfl hw hf hb rfl rfl hl
    · obtain ⟨⟨⟨⟨hw, -⟩, hb⟩, hf⟩, hl, hqu⟩ := hp
      exact exec_tst_stores hx rfl hw hf hb rfl rfl hl hqu
  case thdr =>
    refine ⟨Completes.of_forall rfl fun x hx t ht => ⟨fun hb => next_unique ht (exec_thdr_of_bound hx hb),
      fun hb r hr => next_unique ht (exec_thdr_of_reason hx rfl hb hr)⟩, fun x hx hp => ?_⟩
    obtain ⟨hb, hr, hp, hbad⟩ := hp
    exact exec_thdr_writes hx rfl hb hr hp hbad
  case tchk =>
    refine ⟨Completes.of_forall rfl fun x hx t ht => ⟨fun hb => ?_, fun hb f h1 => ?_, fun hb h1 h2 => ?_, fun hp hw hpend f hf => ?_⟩,
      fun x hx hp => ?_, fun x hx hp => ?_, fun x hx hp => ?_⟩
    · exact next_unique ht (exec_tchk_of_bad hx rfl hb)
    · exact next_unique ht (exec_tchk_of_step1 hx rfl hb h1)
    · exact next_unique ht (exec_tchk_of_bound hx rfl hb h1 h2)
    · obtain ⟨hb, h1, h2⟩ := hp
      exact next_unique ht (exec_tchk_of_poison hx rfl hb h1 h2 hw hpend hf)
    · obtain ⟨⟨hb, h1, h2⟩, hw, hpend⟩ := hp
      exact exec_tchk_of_pending hx rfl hb h1 h2 hw hpend
    · obtain ⟨⟨hb, h1, h2⟩, hw, -⟩ := hp
      exact exec_tchk_of_lanes hx rfl hb h1 h2 hw
    · obtain ⟨⟨hb, h1, h2⟩, hw, hpend, hf⟩ := hp
      exact exec_tchk_writes hx rfl hb h1 h2 hw hpend hf
  case image =>
    intro h img x hc hf hs
    exact MatWork.denseImage hc (DenseHeader.of_headerFail hf hs)
  case quantise =>
    refine ⟨fun hs f hf => ?_, fun hs hf => ?_, fun f hs hf => ⟨blockMax_eq_none_iff _, fun m hm hden => (blockMax_spec hm hden).2,
      fun hm => ?_, fun m hm hz => ?_, fun m hm hz h8 => ⟨?_, fun s q hv => ?_⟩, fun m hm hz h2 => ⟨?_, fun s q hv => ?_⟩⟩⟩
    · rw [resultCode_plain hs, plainElem_of_fmt hf]
    · exact (resultCode_plain hs).trans (plainElem_of_int hf _)
    · rw [resultCode_block hs hf, scaleFor_of_fmt hf, blockVals, blockScale_of_none _ hm]
      exact ⟨rfl, rfl⟩
    · rw [scaleFor_of_fmt hf, blockVals, blockScale_of_zero _ hm hz]
    · rw [scaleFor_of_fmt hf, blockVals, blockScale_e8 _ hm hz h8]
    · rw [resultCode_block hs hf, blockVals, blockScale_e8 _ hm hz h8, hv]
      rfl
    · rw [scaleFor_of_fmt hf, blockVals, h2, blockScale_e4m3 hm hz]
    · rw [resultCode_block hs hf, blockVals, h2, blockScale_e4m3 hm hz, hv]
      rfl
  case hadamard =>
    refine ⟨fun h hh m hm he => ?_, signed (hadSign seed q) l, by simp [signed, hl], fun m hm => nth_signed l _ (hl ▸ hm) _,
      hadamard_eq l seed q⟩
    obtain ⟨hlt, ho⟩ := butterfly_partner hh hm he
    exact ⟨nth_butterfly_low l hm he, nth_butterfly_high l hlt ho⟩

end

section
/-!
SUPPORT. A result per active guarded lane: what an instruction gives whose effect is `Ctx.lanewise`, and the element functions of rows 0x1,
0x2 and 0xE in the words of the statements (R144 to R151, R160).
-/
namespace Sys2Proof.Machine

section
variable {i : Instr} {s : State} {w : Bool}

/-- A chainable instruction whose effect is a word per active guarded lane gives that word, in any form equal to it. -/
theorem Gives.lanewise {d : BitVec 7} {f f' : Ctx → Nat → Word} (hx : exec i s = issue i s fun x => x.lanewise w d (f x))
    (hf : ∀ x l, f x l = f' x l) (hc : ∀ mode mmode, (useOf mode mmode i).chainable = true := by intros; simp) :
    Gives i s fun x => .vec x w d x.act true (f' x) :=
  .vector hx (fun x => by rw [← funext (hf x)]; rfl) hc

/-- An instruction of row 0xE gives its 64-bit result, in any form equal to it. -/
theorem Gives.scalarOf {d : BitVec 6} {y y' : Ctx → DWord} (hx : exec i s = issue i s fun x => x.scalar d (y x)) (hy : ∀ x, y x = y' x)
    (hc : ∀ mode mmode, (useOf mode mmode i).chainable = false := by intros; simp) : Gives i s fun x => .scal d (y' x) :=
  .scalar hx (fun x => by rw [hy]) hc

/-- A chainable instruction with a predicate result gives that bit, in any form equal to it. -/
theorem Gives.predicateOf {d : BitVec 3} {f f' : Ctx → Nat → Bool} (hx : exec i s = issue i s fun x => x.predicate w d (f x))
    (hf : ∀ x l, f x l = f' x l) (hc : ∀ mode mmode, (useOf mode mmode i).chainable = true := by intros; simp) :
    Gives i s fun x => .pred x w d (f' x) :=
  .predicate hx (fun x => by rw [← funext (hf x)]) hc

end

theorem mulHigh_eq (et : Nat) (a b : Word) :
    mulHigh et a b = mapElems et fun k => narrowInt false et (elemInt et a k * elemInt et b k / 2 ^ etWidth et) := by
  simp [mulHigh, narrowInt]

/-- From w up an arithmetic shift is one by w. -/
theorem shiftArith_eq (w x y : Nat) : shiftArith w x y = wrapInt w (signedOf w x / 2 ^ min w y) := by
  simp [shiftArith, Nat.min_def]

theorem elemShift_shiftArith (et : Nat) (a : Word) (y : Nat → Nat) : elemShift et shiftArith a y = mapElems et fun k =>
    wrapInt (etWidth et) (signedOf (etWidth et) (elemCode (etWidth et) a k) / 2 ^ min (etWidth et) (y k)) := by
  simp only [elemShift, shiftArith_eq]

/-- K16 above the low half of a word (R151). -/
theorem ofNat_high_half (k : BitVec 16) (v : Word) : BitVec.ofNat 32 (k.toNat * 65536 + field v 15 0) = k ++ v.extractLsb' 0 16 := by
  have hlow : v.toNat >>> 0 % 2 ^ 16 < 2 ^ 16 := Nat.mod_lt _ (by decide)
  apply BitVec.eq_of_toNat_eq
  rw [BitVec.toNat_append, BitVec.extractLsb'_toNat, ← Nat.shiftLeft_add_eq_or_of_lt hlow, Nat.shiftLeft_eq, BitVec.toNat_ofNat]
  simp only [field, slice, Nat.reduceAdd, Nat.reduceSub, Nat.reducePow]
  omega

/-! ## Shifts of scalars (R160) -/

theorem ofNat_shiftLeft_eq (p q : DWord) : BitVec.ofNat 64 (shiftLeft 64 p.toNat q.toNat) = p <<< q := by
  apply BitVec.eq_of_toNat_eq
  rw [BitVec.shiftLeft_eq', BitVec.toNat_shiftLeft, Nat.shiftLeft_eq, BitVec.toNat_ofNat, shiftLeft]
  split
  next h =>
    obtain ⟨n, hn⟩ := Nat.exists_eq_add_of_le h
    simp [hn, Nat.pow_add, Nat.mul_left_comm p.toNat]
  next => exact Nat.mod_mod _ _

theorem ofNat_shiftRight_eq (p q : DWord) : BitVec.ofNat 64 (shiftRight 64 p.toNat q.toNat) = p >>> q := by
  apply BitVec.eq_of_toNat_eq
  rw [BitVec.ushiftRight_eq', BitVec.toNat_ushiftRight, Nat.shiftRight_eq_div_pow, BitVec.toNat_ofNat, shiftRight]
  have hp : p.toNat < 2 ^ 64 := p.isLt
  split
  next h => exact (Nat.div_eq_of_lt (hp.trans_le (Nat.pow_le_pow_right (by decide) h))).symm
  next => exact Nat.mod_eq_of_lt ((Nat.div_le_self _ _).trans_lt hp)

theorem signedOf_toNat {w : Nat} (p : BitVec w) : signedOf w p.toNat = p.toInt := by
  have h : p.toNat < 2 ^ (w - 1) ↔ 2 * p.toNat < 2 ^ w := by
    cases w with
    | zero => simp
    | succ v => rw [Nat.add_sub_cancel, Nat.pow_succ]; omega
  rw [BitVec.toInt_eq_toNat_cond, signedOf]
  simp only [h]
  rfl

/-- The low bits of an integer as a number. -/
theorem ofNat_wrapInt (w : Nat) (z : Int) : BitVec.ofNat w (wrapInt w z) = BitVec.ofInt w z := by
  apply BitVec.eq_of_toNat_eq
  rw [BitVec.toNat_ofNat, BitVec.toNat_ofInt, Nat.mod_eq_of_lt (wrapInt_lt w z)]
  rfl

/-- From the width up an arithmetic right shift leaves the sign in every bit. -/
theorem sshiftRight_min (p : DWord) (n : Nat) : p.sshiftRight (min 64 n) = p.sshiftRight n := by
  apply BitVec.eq_of_getLsbD_eq
  intro i hi
  rw [BitVec.getLsbD_sshiftRight, BitVec.getLsbD_sshiftRight]
  rcases Nat.le_total 64 n with h | h
  · rw [Nat.min_eq_left h, if_neg (by omega), if_neg (by omega)]
  · rw [Nat.min_eq_right h]

theorem ofNat_shiftArith_eq (p q : DWord) : BitVec.ofNat 64 (shiftArith 64 p.toNat q.toNat) = BitVec.sshiftRight' p q := by
  rw [shiftArith_eq, ofNat_wrapInt, signedOf_toNat, BitVec.sshiftRight', ← sshiftRight_min, BitVec.sshiftRight, Int.shiftRight_eq_div_pow]
  norm_cast

theorem ofNat_b2n (b : Bool) : BitVec.ofNat 64 (b2n b) = if b then 1 else 0 := by cases b <;> rfl

end Sys2Proof.Machine
end

section
open Sys2Proof Sys2Proof.Machine

/-- Settles O1: each instruction is an element function in every active guarded lane; `mulhi` divides exactly (R149). -/
theorem integerArithmeticWritesExactResults : Obligations.IntegerArithmeticWritesExactResults := by
  unfold Obligations.IntegerArithmeticWritesExactResults
  intro w d a b s
  exact ⟨.lanewise rfl fun _ _ => rfl, .lanewise rfl fun _ _ => rfl, .lanewise rfl fun _ _ => rfl,
    .lanewise rfl fun _ _ => mulHigh_eq _ _ _, .lanewise rfl fun _ _ => rfl, .lanewise rfl fun _ _ => rfl,
    .lanewise rfl fun _ _ => rfl, .lanewise rfl fun _ _ => rfl⟩

end

section
open Sys2Proof Sys2Proof.Machine

/-- Settles O2: logic works on the whole words, the shifts on the patterns; an arithmetic shift by w or more is one by w (R149). -/
theorem logicAndShiftsWriteTheirPatterns : Obligations.LogicAndShiftsWriteTheirPatterns := by
  unfold Obligations.LogicAndShiftsWriteTheirPatterns
  intro w d a b s
  exact ⟨.lanewise rfl fun _ _ => rfl, .lanewise rfl fun _ _ => rfl, .lanewise rfl fun _ _ => rfl, .lanewise rfl fun _ _ => rfl,
    .lanewise rfl fun _ _ => rfl, .lanewise rfl fun _ _ => rfl, .lanewise rfl fun _ _ => elemShift_shiftArith _ _ _, .lanewise rfl fun _ _ => rfl⟩

/-- Settles O3: the forms of row 0x1 with a constant for B; `movhi` puts its constant above the low half (R150, R151). -/
theorem immediateFormsUseTheirConstant : Obligations.ImmediateFormsUseTheirConstant := by
  unfold Obligations.ImmediateFormsUseTheirConstant
  refine ⟨fun w d a k s => ⟨?_, ?_, ?_, ?_⟩, fun w d a k s => ⟨?_, ?_, ?sari⟩, fun w d k s => ⟨?_, ?movhi⟩⟩
  case sari => exact .lanewise rfl fun _ _ => elemShift_shiftArith _ _ _
  case movhi => exact .lanewise rfl fun x l => ofNat_high_half k _
  all_goals exact .lanewise rfl fun _ _ => rfl

/-- Settles O6: bit l of each combination, and p7 by its reading (R75, R157). -/
theorem predicateInstructionsCombineBits : Obligations.PredicateInstructionsCombineBits := by
  unfold Obligations.PredicateInstructionsCombineBits
  refine ⟨fun w d a b s => ⟨?pand, ?por, ?pxor, ?pnot⟩, fun w d a s => ?pset, fun g => rfl⟩
  case pand => exact .predicateOf rfl fun _ _ => BitVec.getLsbD_and
  case por => exact .predicateOf rfl fun _ _ => BitVec.getLsbD_or
  case pxor => exact .predicateOf rfl fun _ _ => BitVec.getLsbD_xor
  case pnot => exact .predicateOf rfl fun _ _ => rfl
  case pset => exact .predicateOf rfl fun x l => by simp [bne, beq_eq_decide]

/-- Settles O7: `sel` writes every active lane, `mov` the guarded ones; both words are read whole (R158). -/
theorem selectAndMoveFollowTheGuard : Obligations.SelectAndMoveFollowTheGuard := by
  unfold Obligations.SelectAndMoveFollowTheGuard
  refine ⟨fun w d a b s => ⟨rfl, fun _ _ => by simp, ?sel⟩, fun w d a s => ⟨rfl, fun _ _ => by simp, ?mov⟩⟩
  case sel => exact .vector (m := Ctx.active) rfl (fun _ => rfl) fun _ _ => by simp
  case mov => exact .lanewise rfl fun _ _ => rfl

/-- Settles O9: each result is the library's operation on 64-bit words (R160). -/
theorem scalarInstructionsWriteSixtyFourBits : Obligations.ScalarInstructionsWriteSixtyFourBits := by
  unfold Obligations.ScalarInstructionsWriteSixtyFourBits
  refine ⟨fun d a b s => ⟨?_, ?_, ?_, ?_, ?_, ?_, ?sshl, ?sshr, ?ssar, ?scmplt, ?scmpeq, ?_, ?_⟩, fun d a k s => ?_,
    fun d k s => ⟨?_, ?_⟩⟩
  case sshl => exact .scalarOf rfl fun x => ofNat_shiftLeft_eq _ _
  case sshr => exact .scalarOf rfl fun x => ofNat_shiftRight_eq _ _
  case ssar => exact .scalarOf rfl fun x => ofNat_shiftArith_eq _ _
  case scmplt => exact .scalarOf rfl fun x => ofNat_b2n _
  case scmpeq => exact .scalarOf rfl fun x => by simp [ofNat_b2n]
  all_goals exact .scalarOf rfl fun _ => rfl
end

section
/-!
SUPPORT. Bits of the words that the bit instructions form: reversal, leading zeros, bit fields and bytes (R152 to R154).
-/
namespace Sys2Proof.Machine

/-- The sum of distinct powers is the number with those bits. -/
theorem bitReverse_eq_foldl (w c : Nat) :
    bitReverse w c = (List.range w).foldl (fun a l => a + if c.testBit (w - 1 - l) then 2 ^ l else 0) 0 := by
  have hmap : ((List.range w).map fun i => if c.testBit i then 2 ^ (w - 1 - i) else 0).reverse =
      (List.range w).map fun l => if c.testBit (w - 1 - l) then 2 ^ l else 0 := by
    rw [← List.map_reverse, List.range_eq_range', List.reverse_range', ← List.range_eq_range', List.map_map]
    refine List.map_congr_left fun l hl => ?_
    have hlt := List.mem_range.1 hl
    rw [Function.comp_apply, show w - 1 - (0 + w - 1 - l) = l by omega, show 0 + w - 1 - l = w - 1 - l by omega]
  rw [bitReverse, ← List.sum_reverse, hmap, List.sum_eq_foldl, List.foldl_map]

theorem testBit_bitReverse {w c i : Nat} (hi : i < w) : (bitReverse w c).testBit i = c.testBit (w - 1 - i) := by
  rw [bitReverse_eq_foldl]
  exact (foldl_bits (fun l => c.testBit (w - 1 - l)) w).2 i hi

/-- The 0 bits above the highest 1 bit, and that bit. -/
theorem leadingZeros_spec {w c : Nat} (hc : c < 2 ^ w) : leadingZeros w c ≤ w ∧
    (∀ i, w - leadingZeros w c ≤ i → c.testBit i = false) ∧
    (leadingZeros w c < w → c.testBit (w - 1 - leadingZeros w c) = true) := by
  rw [leadingZeros]
  split
  next h => simp [h]
  next h =>
    have hlog : c.log2 < w := (Nat.log2_lt h).2 hc
    refine ⟨by omega, fun i hi => Nat.testBit_lt_two_pow ?_, fun _ => ?_⟩
    · exact Nat.lt_log2_self.trans_le (Nat.pow_le_pow_right (by decide) (by omega))
    · rw [show w - 1 - (w - 1 - c.log2) = c.log2 by omega]
      exact Nat.testBit_log2 h

/-- The field lies in the word (R153). -/
theorem bitField_eq (b : Word) : bitField b = (b.toNat % 32, min (b.toNat / 256 % 64) (32 - b.toNat % 32)) := by
  simp [bitField, field, slice, Nat.shiftRight_eq_div_pow]

/-- The extracted field as a word of its own length, extended by the view. -/
theorem fieldExtract_eq (et : Nat) (a b : Word) : fieldExtract et a b =
    if (bitField b).2 = 0 then 0
    else if etSigned et then (a.extractLsb' (bitField b).1 (bitField b).2).signExtend 32
    else (a.extractLsb' (bitField b).1 (bitField b).2).setWidth 32 := by
  have hf : a.toNat / 2 ^ (bitField b).1 % 2 ^ (bitField b).2 = (a.extractLsb' (bitField b).1 (bitField b).2).toNat := by
    rw [BitVec.extractLsb'_toNat, Nat.shiftRight_eq_div_pow]
  simp only [fieldExtract, hf]
  refine ite_congr rfl (fun _ => rfl) fun _ => ?_
  cases etSigned et
  · exact BitVec.ofNat_toNat ..
  · simp only [if_true, ofNat_wrapInt, signedOf_toNat]
    rfl

theorem getLsbD_fieldExtract (et : Nat) (a b : Word) {i : Nat} (hi : i < 32) : (fieldExtract et a b).getLsbD i =
    if (bitField b).2 = 0 then false
    else if i < (bitField b).2 then a.getLsbD ((bitField b).1 + i)
    else etSigned et && a.getLsbD ((bitField b).1 + (bitField b).2 - 1) := by
  rw [fieldExtract_eq]
  generalize (bitField b).1 = pos
  generalize (bitField b).2 = len
  split
  · simp
  next hlen =>
    have hmsb : (a.extractLsb' pos len).msb = a.getLsbD (pos + len - 1) := by
      rw [BitVec.msb_eq_getLsbD_last, BitVec.getLsbD_extractLsb', Nat.add_sub_assoc (by omega),
        decide_eq_true (by omega), Bool.true_and]
    cases etSigned et
    · simp [BitVec.getLsbD_extractLsb', hi]
    · rw [if_pos rfl, BitVec.getLsbD_signExtend, BitVec.getLsbD_extractLsb', hmsb, Bool.true_and, decide_eq_true hi, Bool.true_and]
      exact ite_congr rfl (fun h => by rw [decide_eq_true h, Bool.true_and]) fun _ => rfl

theorem getLsbD_fieldInsert (a b d : Word) {i : Nat} (hi : i < 32) : (fieldInsert a b d).getLsbD i =
    if (bitField b).1 ≤ i ∧ i < (bitField b).1 + (bitField b).2 then a.getLsbD (i - (bitField b).1) else d.getLsbD i := by
  simp only [fieldInsert]
  generalize (bitField b).1 = pos
  generalize (bitField b).2 = len
  have hmask : ((2 ^ len - 1) * 2 ^ pos).testBit i = decide (pos ≤ i ∧ i < pos + len) := by
    rw [Nat.mul_comm, Nat.testBit_two_pow_mul, Nat.testBit_two_pow_sub_one]
    grind
  have hfield : (a.toNat % 2 ^ len * 2 ^ pos).testBit i = (decide (pos ≤ i ∧ i < pos + len) && a.getLsbD (i - pos)) := by
    rw [Nat.mul_comm, Nat.testBit_two_pow_mul, Nat.testBit_mod_two_pow, BitVec.getLsbD]
    grind
  rw [BitVec.getLsbD_or, BitVec.getLsbD_and, BitVec.getLsbD_not, BitVec.getLsbD_ofNat, BitVec.getLsbD_ofNat, hmask, hfield]
  by_cases h : pos ≤ i ∧ i < pos + len <;> simp [h, hi]

/-- The bits of element k of a word. -/
theorem testBit_elemCode (w : Nat) (x : Word) (k i : Nat) : (elemCode w x k).testBit i = (decide (i < w) && x.getLsbD (w * k + i)) := by
  rw [elemCode, Nat.testBit_mod_two_pow, Nat.testBit_div_two_pow, Nat.add_comm i]
  rfl

/-- Byte k by its selector nibble. -/
theorem elemCode_bytePermute (a b : Word) {k : Nat} (hk : k < 4) : elemCode 8 (bytePermute a b) k =
    (if bitOf (field b (4 * k + 3) (4 * k)) 3 then 0
      else if bitOf (field b (4 * k + 3) (4 * k)) 2 then
        (if bitOf (elemCode 8 a (field b (4 * k + 3) (4 * k) % 4)) 7 then 0xFF else 0)
      else elemCode 8 a (field b (4 * k + 3) (4 * k) % 4)) % 2 ^ 8 := by
  rw [bytePermute, elemCode_packElems (by simp), nth_map_range _ _ _ _ hk]

theorem getLsbD_bytePermute (a b : Word) {k i : Nat} (hk : k < 4) (hi : i < 8) : (bytePermute a b).getLsbD (8 * k + i) =
    if b.getLsbD (4 * k + 3) then false
    else if b.getLsbD (4 * k + 2) then a.getLsbD (8 * field b (4 * k + 1) (4 * k) + 7)
    else a.getLsbD (8 * field b (4 * k + 1) (4 * k) + i) := by
  have hsel (j : Nat) (hj : j < 4) : (field b (4 * k + 3) (4 * k)).testBit j = b.getLsbD (4 * k + j) := by
    rw [field, slice, Nat.testBit_mod_two_pow, Nat.testBit_shiftRight, decide_eq_true (by omega), Bool.true_and]
    rfl
  have hbyte : field b (4 * k + 3) (4 * k) % 4 = field b (4 * k + 1) (4 * k) := by
    simp only [field, slice, show 4 * k + 3 + 1 - 4 * k = 4 by omega, show 4 * k + 1 + 1 - 4 * k = 2 by omega]
    omega
  have hones : (255 : Nat).testBit i = true := by
    rw [show 255 = 2 ^ 8 - 1 by rfl, Nat.testBit_two_pow_sub_one]
    simpa using hi
  have hbit : (bytePermute a b).getLsbD (8 * k + i) = (elemCode 8 (bytePermute a b) k).testBit i := by
    simp [testBit_elemCode, hi]
  simp only [hbit, elemCode_bytePermute a b hk, Nat.testBit_mod_two_pow, hi, decide_true, Bool.true_and, bitOf, hsel 3 (by decide),
    hsel 2 (by decide), hbyte]
  split
  · simp
  · split
    · rw [testBit_elemCode]
      cases a.getLsbD (8 * field b (4 * k + 1) (4 * k) + 7) <;> simp [hones]
    · simp [testBit_elemCode, hi]

end Sys2Proof.Machine
end

section
open Sys2Proof Sys2Proof.Machine

/-- Settles O4: the words by definition, their bits by the lemmas on each of them (R152 to R154). -/
theorem bitInstructionsWriteTheirWords : Obligations.BitInstructionsWriteTheirWords := by
  unfold Obligations.BitInstructionsWriteTheirWords
  refine ⟨fun w d a s => ⟨?_, ?_, ?_, ?_⟩, fun w d a b s => ⟨?_, ?_, ?_⟩, fun w c i _ _ hi => testBit_bitReverse hi,
    fun w c _ hc => leadingZeros_spec hc, fun et a b i hi => getLsbD_fieldExtract et a b hi,
    fun a b d i hi => getLsbD_fieldInsert a b d hi, fun a b k i hk hi => getLsbD_bytePermute a b hk hi, bitField_eq⟩
  all_goals exact .lanewise rfl fun _ _ => rfl
end

section
/-!
SUPPORT. The order of elements and the relations over it (R155, R156): values of operands, and what each relation says of all pairs.
-/
namespace Sys2Proof.Machine

section
variable {f : Fmt} {c : Nat} {s : Bool} {q : Q}

/-- A magnitude with its sign has the magnitude's denominator. -/
theorem Fmt.den_of_signed {t : Nat} {neg : Bool} (h : Val.fin neg (if neg then (f.mag t).neg else f.mag t) = .fin s q) : 0 < q.den := by
  obtain ⟨-, rfl⟩ := Val.fin.inj h
  cases neg
  · exact Fmt.mag_den_pos f t
  · exact Fmt.mag_den_pos f t

theorem Fmt.dec_den_pos (h : f.dec c = .fin s q) : 0 < q.den := by
  unfold Fmt.dec at h
  simp only at h
  split at h
  · split at h
    · split at h
      · exact absurd h (by simp [Val.cnan])
      · obtain ⟨-, rfl⟩ := Val.fin.inj h
        exact Nat.one_pos
    · split at h
      · exact absurd h (by simp)
      · exact Fmt.den_of_signed h
  · split at h
    · exact absurd h (by simp)
    · split at h
      · exact absurd h (by simp)
      · exact Fmt.den_of_signed h

/-- A d8 element enters as the f32 value next to it, every other one as its own value (R132, R140). -/
theorem Fmt.operand_of_ne (hf : f ≠ .d8) (ftz : Bool) : f.operand ftz c = f.dec (f.flushVal ftz c) := by
  cases f
  case d8 => exact absurd rfl hf
  all_goals rfl

theorem Fmt.operand_den_pos {ftz : Bool} (h : f.operand ftz c = .fin s q) : 0 < q.den := by
  by_cases hf : f = .d8
  · subst hf
    simp only [Fmt.operand] at h
    split at h
    · exact Fmt.dec_den_pos h
    · next hv => exact absurd h (hv s q)
  · exact Fmt.dec_den_pos ((Fmt.operand_of_ne hf ftz).symm.trans h)

end

theorem orderVal_unordered_iff (u v : Val) : orderVal u v = .unordered ↔ (∃ n, u = .nan n) ∨ ∃ n, v = .nan n := by
  cases u with
  | nan m => simp [orderVal]
  | inf s =>
    cases v with
    | nan n => simp [orderVal]
    | inf t => cases s <;> cases t <;> simp [orderVal]
    | fin t q => cases s <;> simp [orderVal]
  | fin s p =>
    cases v with
    | nan n => simp [orderVal]
    | inf t => cases t <;> simp [orderVal]
    | fin t q => cases hlt : Q.lt p q <;> cases heq : Q.eq p q <;> simp [orderVal, hlt, heq]

/-- Finite values compare as numbers. -/
theorem orderVal_fin {p q : Q} (hp : 0 < p.den) (hq : 0 < q.den) (s t : Bool) : orderVal (.fin s p) (.fin t q) =
    if p.value < q.value then .less else if p.value = q.value then .equal else .greater := by
  simp only [orderVal, Q.lt_iff hp hq, Q.eq_iff hp hq]

/-- Both zeros of a format with a -0 are one number. -/
theorem Fmt.orderVal_zeros {f : Fmt} (hf : f ≠ .d8) (ftz : Bool) :
    orderVal (f.operand ftz (2 ^ (f.width - 1))) (f.operand ftz 0) = .equal := by
  cases f
  case d8 => exact absurd rfl hf
  all_goals cases ftz <;> rfl

section
variable {mode : BitVec 16} {a b : Word} {k : Nat}

theorem orderElem_of_int (h : etFmt (etOf mode) = none) :
    orderElem mode a b k = orderInt (elemInt (etOf mode) a k) (elemInt (etOf mode) b k) := by
  simp only [orderElem, h]

theorem orderElem_of_fmt {f : Fmt} (h : etFmt (etOf mode) = some f) : orderElem mode a b k =
    orderVal (f.operand (roundingOf mode).ftz (elemCode (etWidth (etOf mode)) a k))
      (f.operand (roundingOf mode).ftz (elemCode (etWidth (etOf mode)) b k)) := by
  simp only [orderElem, h]

end

theorem orderInt_less_iff (y z : Int) : orderInt y z = .less ↔ y < z := by
  unfold orderInt
  split
  · simp [*]
  · split <;> simp [*]

theorem orderInt_equal_iff (y z : Int) : orderInt y z = .equal ↔ y = z := by
  unfold orderInt
  split
  next h => simp [h.ne]
  · split <;> simp [*]

theorem orderInt_ne_unordered (y z : Int) : orderInt y z ≠ .unordered := by
  unfold orderInt
  split
  · simp
  · split <;> simp

end Sys2Proof.Machine
end

section
open Sys2Proof Sys2Proof.Machine

/-- Settles O5: each relation is a test of every pair, and a pair compares by `orderInt` or `orderVal` (R155, R156). -/
theorem comparisonsSetTheirPredicate : Obligations.ComparisonsSetTheirPredicate := by
  unfold Obligations.ComparisonsSetTheirPredicate
  refine ⟨fun w d a b s => ⟨?_, ?_, ?_, ?_, ?_, ?_, ?_⟩, fun mode a b => ⟨?eq, ?ne, ?lt, ?le, ?gt, ?ge, ?un, fun h k => ?int,
    fun f h k => ?float, fun s t p q hp hq => ?finite, fun s t q => ?infinite, fun f ftz s c q _ h => Fmt.operand_den_pos h,
    fun f ftz hf => Fmt.orderVal_zeros hf ftz⟩⟩
  case eq => simp [relHolds]
  case ne => simp [relHolds]
  case lt => simp [relHolds]
  case le => simp [relHolds]
  case gt => simp [relHolds]
  case ge => simp [relHolds]
  case un => simp [relHolds]
  case int =>
    rw [orderElem_of_int h]
    exact ⟨orderInt_less_iff _ _, orderInt_equal_iff _ _, orderInt_ne_unordered _ _⟩
  case float => exact ⟨by rw [orderElem_of_fmt h, orderVal_unordered_iff], orderElem_of_fmt h⟩
  case finite =>
    rw [orderVal_fin hp hq]
    rcases lt_trichotomy p.value q.value with h | h | h
    · simp [h, h.ne, h.not_gt]
    · simp [h]
    · simp [h, h.ne', h.not_gt]
  case infinite => cases s <;> exact ⟨rfl, rfl, rfl, rfl, rfl, rfl, rfl⟩
  all_goals exact .predicateOf rfl fun _ _ => rfl
end

section
/-!
SUPPORT. Indexed registers (R159): which lanes fail, and the registers that `movix` and `stix` write.
-/
namespace Sys2Proof.Machine

/-- The lowest lane of a mask comes first. -/
theorem lanesOf_eq_cons {m : LaneMask} {l : Nat} (hl : m.getLsbD l = true) (hlow : ∀ k < l, m.getLsbD k = false) :
    ∃ r, lanesOf m = l :: r := by
  have h32 : l < 32 := BitVec.lt_of_getLsbD hl
  have hfind : (List.range 32).find? (fun k => m.getLsbD k) = some l :=
    List.find?_range_eq_some.2 ⟨hl, List.mem_range.2 h32, fun k hk => by simp [hlow k hk]⟩
  obtain ⟨r, hr⟩ := List.head?_eq_some_iff.1 (List.head?_filter.trans hfind)
  exact ⟨r, hr⟩

section
variable {s : State} {x : Ctx} {a d : BitVec 7} {b : Src} {f : Res}

/-- The active guarded lanes whose index reaches the bound. -/
def Ctx.indexFails (x : Ctx) (a : BitVec 7) (b : Src) : LaneMask := x.act &&& maskOf fun l => decide (x.g.bound ≤ x.index a b l)

theorem Ctx.getLsbD_indexFails (l : Nat) :
    (x.indexFails a b).getLsbD l = true ↔ x.act.getLsbD l = true ∧ x.g.bound ≤ x.index a b l := by
  rw [Ctx.indexFails, BitVec.getLsbD_and, Bool.and_eq_true]
  refine and_congr_right fun hl => ?_
  rw [getLsbD_maskOf _ _ (BitVec.lt_of_getLsbD hl), decide_eq_true_iff]

/-- The lowest failing lane raises REG-RANGE. -/
theorem Ctx.indexed_of_fails {l : Nat} (hl : x.act.getLsbD l = true) (hb : x.g.bound ≤ x.index a b l)
    (hlow : ∀ k < l, x.act.getLsbD k = true → x.index a b k < x.g.bound) :
    x.indexed a b f = .trap ⟨0x04, x.index a b l, some (x.indexFails a b)⟩ := by
  obtain ⟨r, hr⟩ := lanesOf_eq_cons (m := x.indexFails a b) (Ctx.getLsbD_indexFails l |>.2 ⟨hl, hb⟩) fun k hk =>
    Bool.eq_false_iff.2 fun h => by
      obtain ⟨hk', hb'⟩ := (Ctx.getLsbD_indexFails k).1 h
      exact absurd (hlow k hk hk') (Nat.not_lt.2 hb')
  simp only [Ctx.indexed]
  rw [← Ctx.indexFails, hr]

/-- With every index below the bound and nothing pending the access is performed. -/
theorem Ctx.indexed_of_lt (hb : ∀ l, x.act.getLsbD l = true → x.index a b l < x.g.bound)
    (hp : x.g.pendingOn ((lanesOf x.act).map (x.index a b)) [] false = false) : x.indexed a b f = f := by
  have hnone : lanesOf (x.indexFails a b) = [] := List.filter_eq_nil_iff.2 fun l _ h => by
    obtain ⟨hl, hle⟩ := (Ctx.getLsbD_indexFails l).1 h
    exact absurd (hb l hl) (Nat.not_lt.2 hle)
  simp only [Ctx.indexed, hp, Bool.false_eq_true, if_false]
  rw [← Ctx.indexFails, hnone]

/-- The words of S in the active guarded lanes go to the registers that the indices name. -/
def Ctx.storeIndexed (x : Ctx) (d a : BitVec 7) (b : Src) (g : Group) : Group :=
  { g with v := Sparse.putAll g.v ((lanesOf x.act).map fun l => (32 * x.index a b l + l, x.g.vreg d.toNat l)) }

theorem Ctx.vreg_storeIndexed (g : Group) {r l : Nat} (hl : l < 32) : (x.storeIndexed d a b g).vreg r l =
    if x.act.getLsbD l = true ∧ r = x.index a b l then x.g.vreg d.toNat l else g.vreg r l := by
  by_cases hr : r = x.index a b l
  · subst hr
    have h := Sparse.get_putAll_map (lanesOf x.act) (fun l => 32 * x.index a b l + l) (x.g.vreg d.toNat) g.v l fun k hk he => by
      have hk32 := ((mem_lanesOf _ _).1 hk).1
      omega
    simp only [mem_lanesOf, hl, true_and] at h
    simp only [and_true]
    exact h
  · rw [if_neg fun h => hr h.2]
    refine Sparse.get_putAll_of_not_mem _ _ _ fun e he hkey => hr ?_
    obtain ⟨k, hk, rfl⟩ := List.mem_map.1 he
    have hk32 := ((mem_lanesOf _ _).1 hk).1
    dsimp only at hkey
    obtain rfl : k = l := by omega
    omega

section
variable (hb : ∀ l, x.act.getLsbD l = true → x.index a b l < x.g.bound)
variable (hp : x.g.pendingOn ((lanesOf x.act).map (x.index a b)) [] false = false)
include hb hp

theorem exec_movix_of_lt (hx : Issues (.movix d a b) s x) : ∃ t, exec (.movix d a b) s = .next t ∧
    Writes (.movix d a b) s x (.vec x false d x.act false fun l => x.g.vreg (x.index a b l) l) t := by
  obtain ⟨t, ht, hw⟩ : ∃ t, exec (.movix d a b) s = .next t ∧ Writes (.movix d a b) s x
      (.vec x false d x.act (useOf x.mode x.mmode (.movix d a b)).chainable fun l => x.g.vreg (x.index a b l) l) t :=
    issue_vector hx (Ctx.indexed_of_lt hb hp)
  refine ⟨t, ht, ?_⟩
  simpa using hw

theorem exec_stix_of_lt (hx : Issues (.stix d a b) s x) : ∃ t, exec (.stix d a b) s = .next t ∧ Writes (.stix d a b) s x
    { v := fun r l => if x.act.getLsbD l = true ∧ r = x.index a b l then some (x.g.vreg d.toNat l) else none } t := by
  refine issue_writes hx (f := x.storeIndexed d a b) (Ctx.indexed_of_lt hb hp) ⟨_, _, _, _, rfl⟩
    ⟨fun r l hl => ?_, fun _ => rfl, fun _ _ _ => rfl, rfl⟩ (by simp)
  rw [Ctx.vreg_storeIndexed _ hl]
  split
  next h => simp [h]
  next h => simp [h]

end

end
end Sys2Proof.Machine
end

section
open Sys2Proof Sys2Proof.Machine

/-- Settles O8: the checks come before either access; the lanes of `stix` write one word each (R159). -/
theorem indexedAccessReachesItsRegister : Obligations.IndexedAccessReachesItsRegister := by
  unfold Obligations.IndexedAccessReachesItsRegister
  refine ⟨fun d a b s => .of_forall rfl fun x hx t ht hb hp => ?movix, fun d a b s => .of_forall rfl fun x hx t ht hb hp => ?stix,
    fun d a b s x l i hi hx hl hb hlow => ?fails, fun _ _ _ _ => rfl⟩
  case movix =>
    obtain ⟨u, hu, hw⟩ := exec_movix_of_lt hb hp hx
    exact next_unique ht hu ▸ hw
  case stix =>
    obtain ⟨u, hu, hw⟩ := exec_stix_of_lt hb hp hx
    exact next_unique ht hu ▸ hw
  case fails =>
    rcases hi with rfl | rfl
    · exact issue_of_trap hx (Ctx.indexed_of_fails hl hb hlow)
    · exact issue_of_trap hx (Ctx.indexed_of_fails hl hb hlow)
end

section
/-!
SUPPORT. Register granules (R103, R106, R162 to R164, R170): what writing the long results leaves of a group, registers below a bound that
is lowered, and how `racq` and `rrel` end.
-/
namespace Sys2Proof.Machine

/-! ## Reads below a bound -/

/-- Keys that are not dropped keep their values. -/
theorem Sparse.get_drop {w : Nat} (p : Nat → Bool) (m : Sparse w) {a : Nat} (h : p a = false) :
    Sparse.get (Sparse.drop p m) a = Sparse.get m a := by
  induction m with
  | nil => rfl
  | cons e r ih =>
    obtain ⟨k, v⟩ := e
    simp only [Sparse.drop] at ih ⊢
    by_cases hk : p k = true
    · have hak : a ≠ k := fun he => by simp [he, hk] at h
      simp [hk, ih, Sparse.get, hak]
    · simp [hk, ih, Sparse.get]

/-! ## Long results (R170) -/

/-- Arrived results change the registers only. -/
theorem Group.foldl_applyPend_keeps (l : List Pend) (g : Group) : ∃ v sc p, l.foldl Group.applyPend g = { g with v := v, s := sc, p := p } := by
  induction l generalizing g with
  | nil => exact ⟨g.v, g.s, g.p, rfl⟩
  | cons y r ih =>
    have hy : ∃ v sc p, g.applyPend y = { g with v := v, s := sc, p := p } := ⟨_, _, _, rfl⟩
    obtain ⟨v, sc, p, hy⟩ := hy
    obtain ⟨v', sc', p', hr⟩ := ih (g.applyPend y)
    exact ⟨v', sc', p', by rw [List.foldl_cons, hr, hy]⟩

/-- The long results leave the list and change registers; then the splits that waited for them are woken. -/
theorem Group.flushLong_eq (g : Group) (now : Nat) : ∃ v sc p, g.flushLong now = Group.wakeOperands now
    { g with v := v, s := sc, p := p, pend := g.pend.filter fun p => decide (p.kind ≠ .long) } := by
  obtain ⟨v, sc, p, h⟩ := Group.foldl_applyPend_keeps (g.pend.filter fun p => decide (p.kind = .long))
    { g with pend := g.pend.filter fun p => !(decide (p.kind = .long)) }
  refine ⟨v, sc, p, ?_⟩
  simp only [Group.flushLong, h, decide_not]

theorem Group.pend_flushLong (g : Group) (now : Nat) : (g.flushLong now).pend = g.pend.filter fun p => decide (p.kind ≠ .long) := by
  obtain ⟨v, sc, p, h⟩ := g.flushLong_eq now
  rw [h]
  rfl

/-- Of the rest of a group the long results change nothing. -/
theorem Group.flushLong_keeps (g : Group) (now : Nat) : (g.flushLong now).gid = g.gid ∧ (g.flushLong now).baseN = g.baseN ∧
    (g.flushLong now).ext = g.ext := by
  obtain ⟨v, sc, p, h⟩ := g.flushLong_eq now
  rw [h]
  exact ⟨rfl, rfl, rfl⟩

/-- What waking a split on its operands leaves of it (R51). -/
def Split.wokenOf (g : Group) (now : Nat) (p : Split) : Split :=
  match p.wait with
  | .operand vs ss p6 => if g.pendingOn vs ss p6 then p else p.wake now
  | _ => p

theorem Split.wokenOf_eq (g : Group) (now : Nat) (p : Split) : p.wokenOf g now = p ∨ p.wokenOf g now = p.wake now := by
  unfold Split.wokenOf
  split
  · split
    · exact .inl rfl
    · exact .inr rfl
  · exact .inl rfl

/-- A woken split keeps its place. -/
theorem Group.split?_wakeOperands {g : Group} {a : Nat} {p : Split} (h : g.split? a = some p) (now : Nat) :
    ∃ q, (g.wakeOperands now).split? a = some q ∧ (q = p ∨ q = p.wake now) := by
  have hage (p : Split) : (p.wokenOf g now).age = p.age := by
    rcases p.wokenOf_eq g now with h | h <;> rw [h]
    rfl
  refine ⟨p.wokenOf g now, ?_, p.wokenOf_eq g now⟩
  show (g.splits.map (Split.wokenOf g now)).find? _ = _
  rw [List.find?_map]
  simp only [Function.comp_def, hage]
  rw [show g.splits.find? (fun p => p.age == a) = some p from h, Option.map_some]

theorem Group.split?_flushLong {g : Group} {a : Nat} {p : Split} (h : g.split? a = some p) (now : Nat) :
    ∃ q, (g.flushLong now).split? a = some q ∧ (q = p ∨ q = p.wake now) := by
  obtain ⟨v, sc, pr, hl⟩ := g.flushLong_eq now
  rw [hl]
  refine Group.split?_wakeOperands ?_ now
  exact h

/-! ## Pending results -/

theorem Group.pendingOn_iff (g : Group) (rs : List Nat) :
    g.pendingOn rs [] false = true ↔ ∃ p ∈ g.pend, ∃ r ∈ p.vregs, r ∈ rs := by
  simp [Group.pendingOn, overlaps]

/-- A result but a long one holds back a register of a range. -/
theorem Group.pendingOn_flushLong_iff (g : Group) (now low n : Nat) :
    (g.flushLong now).pendingOn ((List.range n).map (low + ·)) [] false = true ↔
      ∃ p ∈ g.pend, p.kind ≠ .long ∧ ∃ r ∈ p.vregs, low ≤ r ∧ r < low + n := by
  have hr (r : Nat) : r ∈ (List.range n).map (low + ·) ↔ low ≤ r ∧ r < low + n := by
    rw [List.mem_map]
    exact ⟨fun ⟨k, hk, he⟩ => by have := List.mem_range.1 hk; omega, fun h => ⟨r - low, List.mem_range.2 (by omega), by omega⟩⟩
  simp only [Group.pendingOn_iff, Group.pend_flushLong, List.mem_filter, decide_eq_true_eq, and_assoc, hr]

/-! ## The effect of `racq` (R162, R163) -/

section
variable {d : BitVec 6} {k : BitVec 8} {s : State} {x : Ctx}

/-- A scalar write does not look at the chain. -/
theorem Group.setS_chain (g : Group) (n : Nat) (y : DWord) (ch : Option Chain) :
    Group.setS { g with chain := ch } n y = { g.setS n y with chain := ch } := by
  unfold Group.setS
  split <;> rfl

theorem Group.setS_fields (g : Group) (n : Nat) (y : DWord) :
    (g.setS n y).gid = g.gid ∧ (g.setS n y).splits = g.splits ∧ (g.setS n y).bad = g.bad := by
  unfold Group.setS
  split <;> exact ⟨rfl, rfl, rfl⟩

theorem exec_racq_of_limit (hx : Issues (.racq d k) s x) (h : x.g.maxExt < x.g.ext + k.toNat) :
    exec (.racq d k) s = .next (x.s.takeTrap x.c ⟨0x04, k.toNat, none⟩) :=
  issue_of_trap hx (if_pos h)

/-- The group takes its granules at once. -/
theorem exec_racq_takes (hx : Issues (.racq d k) s x) (h : x.g.ext + k.toNat ≤ x.g.maxExt)
    (hq : (x.s.core x.b.stk x.b.core).racq = []) (hf : k.toNat ≤ x.s.freeGranules x.b.stk x.b.core) :
    ∃ t, exec (.racq d k) s = .next t ∧ Does (.racq d k) s x (fun g => { g with ext := g.ext + k.toNat }.setS d.toNat
      (BitVec.ofNat 64 (g.baseN + 8 * (g.ext + k.toNat)))) t := by
  refine issue_does hx ?_ rfl (fun g ch => ?_) fun g => ?_
  · simp only [Nat.not_lt.2 h, hq, hf, List.isEmpty_nil, decide_true, Bool.and_self, if_true, if_false]
    rfl
  · exact Group.setS_chain { g with ext := g.ext + k.toNat } _ _ ch
  · exact Group.setS_fields { g with ext := g.ext + k.toNat } _ _

/-- The request goes behind the others and its split waits. -/
theorem exec_racq_waits (hx : Issues (.racq d k) s x) (h : x.g.ext + k.toNat ≤ x.g.maxExt)
    (hw : (x.s.core x.b.stk x.b.core).racq ≠ [] ∨ x.s.freeGranules x.b.stk x.b.core < k.toNat) :
    exec (.racq d k) s = .next ((x.waitAs .registers).updCore x.b.stk x.b.core fun c =>
      { c with racq := c.racq ++ [(x.c.blk, x.c.gid, x.c.age, k.toNat, d.toNat)] }) := by
  have hno : ((x.s.core x.b.stk x.b.core).racq.isEmpty && decide (k.toNat ≤ x.s.freeGranules x.b.stk x.b.core)) = false := by
    simpa [imp_iff_not_or] using hw
  refine issue_of_wait hx ?_
  simp only [Nat.not_lt.2 h, hno, Bool.false_eq_true, if_false]
  rfl

end
end Sys2Proof.Machine
end

section
/-!
SUPPORT. Register granules returned (R164, R170, R300): what `rrel` makes of its group, and how `racq` and `rrel` leave all else.
-/
namespace Sys2Proof.Machine

section
variable {i : Instr} {s t : State} {x : Ctx} {effect : Ctx → Res}

theorem OneGroup.mono {u n : Nat} {R R' : Group → Group → Prop} (h : OneGroup u n s t R) (hR : ∀ g g', R g g' → R' g g') :
    OneGroup u n s t R' := by
  obtain ⟨hother, b, b', hb, hb', hgroups, hrest, g, g', hg, hg', hgg⟩ := h
  exact ⟨hother, b, b', hb, hb', hgroups, hrest, g, g', hg, hg', hR g g' hgg⟩

theorem OnlyGroup.mono {u n : Nat} {R R' : Group → Group → Prop} (h : OnlyGroup u n s t R) (hR : ∀ g g', R g g' → R' g g') :
    OnlyGroup u n s t R' := ⟨h.1, OneGroup.mono h.2 hR⟩

/-- A group whose split sleeps keeps all but its splits and its chain. -/
theorem Sleeps.keeps {w : Wait} (h : Sleeps s x w t) :
    OnlyGroup x.c.blk x.c.gid s t fun g g' => KeepsAllButSplits g g' ∧ OnlySplit x.c.age g g' (Waits w) :=
  OnlyGroup.mono h fun g _ ⟨⟨splits, chain, hg⟩, hs⟩ => ⟨⟨splits, chain, g.bad, hg⟩, hs⟩

/-- An instruction that completes by an update of its own group, by what that group is after it. -/
theorem issue_done_onlyGroup (h : Issues i s x) {f : Group → Group} {lat : List Word} (he : effect x = .done (x.s.updCur x.c f) lat)
    (hgid : (f x.g).gid = x.g.gid) :
    ∃ t, issue i s effect = .next t ∧ OnlyGroup x.c.blk x.c.gid s t fun _ g' => g' = x.retired i lat (f x.g) := by
  obtain ⟨g, ho⟩ := h.1.of
  have hgid' : (f x.g).gid = x.c.gid := hgid.trans ho.gid
  have ht : x.retire i (x.s.updCur x.c f) lat = s.updCur x.c fun _ => x.retired i lat (f x.g) := by
    unfold Ctx.retire
    rw [ho.updCur, State.updCur_updCur s x.c _ _ fun _ _ => hgid']
    rfl
  refine ⟨_, by rw [issue_of_issues h, he], ?_⟩
  rw [ht]
  exact OnlyGroup.of_updCur (fun _ => x.retired i lat (f x.g)) (fun _ _ => hgid') ho.blk ho.grp _ rfl

/-- A `racq` that waits changes its split, and the list of requests of its core (R163). -/
theorem exec_racq_waits_frame {d : BitVec 6} {k : BitVec 8} (hx : Issues (.racq d k) s x) {f : Core → Core}
    (ht : t = (x.waitAs .registers).updCore x.b.stk x.b.core f) : OnlyBlocksAndCores s t ∧
      (OneGroup x.c.blk x.c.gid s t fun g g' => KeepsAllButSplits g g' ∧ OnlySplit x.c.age g g' (Waits .registers)) ∧
      t.core x.b.stk x.b.core = f (s.core x.b.stk x.b.core) := by
  obtain ⟨⟨l, hl⟩, hone⟩ := (hx.sleeps .registers).keeps
  subst ht
  refine ⟨⟨l, _, s.badLines, by rw [hl]; rfl⟩, hone, ?_⟩
  rw [State.core_updCore_self, hl]
  rfl

end

/-! ## What `rrel` returns -/

/-- The group after `rrel`: its long results are written, its bound is `low`, and the registers from there up are lost (R164). -/
def Group.release (now low : Nat) (d n : Nat) (g : Group) : Group :=
  let g := g.flushLong now
  let g := { g with ext := g.ext - n, v := Sparse.drop (fun a => decide (32 * low ≤ a)) g.v,
                    bad := g.bad.filter fun r => decide (r < low) || decide (128 ≤ r) }
  g.setS d (BitVec.ofNat 64 g.bound)

section
variable {g : Group} {now low d n : Nat}

theorem Group.release_keeps : ∃ v sc bad, g.release now low d n =
    { g.flushLong now with v := v, s := sc, bad := bad, ext := (g.flushLong now).ext - n } := by
  unfold Group.release Group.setS
  split <;> exact ⟨_, _, _, rfl⟩

theorem Group.bound_release (hn : n ≤ g.ext) : (g.release now low d n).bound = g.bound - 8 * n := by
  obtain ⟨v, sc, bad, h⟩ := Group.release_keeps (g := g) (now := now) (low := low) (d := d) (n := n)
  obtain ⟨-, hbase, hext⟩ := g.flushLong_keeps now
  rw [h, Group.bound, Group.bound, hbase, hext]
  dsimp only
  omega

theorem Group.vreg_release {r l : Nat} (hr : r < low) (hl : l < 32) : (g.release now low d n).vreg r l = (g.flushLong now).vreg r l := by
  unfold Group.release
  rw [Group.vreg_setS]
  have hkey : ¬ 32 * low ≤ 32 * r + l := by omega
  exact Sparse.get_drop (fun a => decide (32 * low ≤ a)) _ (decide_eq_false hkey)

theorem Group.sreg_release (hn : n ≤ g.ext) (r : Nat) : (g.release now low d n).sreg r =
    if r = d ∧ r ≠ 0 then BitVec.ofNat 64 (g.bound - 8 * n) else (g.flushLong now).sreg r := by
  obtain ⟨-, hbase, hext⟩ := g.flushLong_keeps now
  have hb : g.baseN + 8 * (g.ext - n) = g.bound - 8 * n := by
    rw [Group.bound]
    omega
  have hc : (r = d ∧ d ≠ 0) ↔ r = d ∧ r ≠ 0 := and_congr_right fun h => by rw [h]
  unfold Group.release
  simp only [Group.sreg_setS, Group.bound, hbase, hext, hb, hc]
  rfl

end

section
variable {d : BitVec 6} {k : BitVec 8} {s t : State} {x : Ctx} {low : Nat}

theorem exec_rrel_of_few (hx : Issues (.rrel d k) s x) (h : x.g.ext < k.toNat) :
    exec (.rrel d k) s = .next (x.s.takeTrap x.c ⟨0x04, k.toNat, none⟩) :=
  issue_of_trap hx (if_pos h)

variable (hx : Issues (.rrel d k) s x) (h : k.toNat ≤ x.g.ext) (hlow : x.g.bound - 8 * k.toNat = low)
include hx h hlow

/-- The released registers end at the bound. -/
theorem exec_rrel_of_pending (hp : ∃ p ∈ x.g.pend, p.kind ≠ .long ∧ ∃ r ∈ p.vregs, low ≤ r ∧ r < x.g.bound) :
    ∃ t, exec (.rrel d k) s = .next t ∧ Sleeps s x (.operand ((List.range (8 * k.toNat)).map (low + ·)) [] false) t := by
  have hb : x.g.bound = low + 8 * k.toNat := by
    rw [← hlow, Group.bound]
    omega
  have hpend := (x.g.pendingOn_flushLong_iff x.now low (8 * k.toNat)).2 (hb ▸ hp)
  refine issue_of_waitAs hx ?_
  simp only [Nat.not_lt.2 h, hlow, hpend, if_true, if_false]
  rfl

variable (hp : ∀ p ∈ x.g.pend, p.kind ≠ .long → ∀ r ∈ p.vregs, r < low ∨ x.g.bound ≤ r)
include hp

omit hx in
theorem Ctx.not_pendingOn_released :
    (x.g.flushLong x.now).pendingOn ((List.range (8 * k.toNat)).map (low + ·)) [] false = false := by
  have hb : x.g.bound = low + 8 * k.toNat := by
    rw [← hlow, Group.bound]
    omega
  refine Bool.eq_false_iff.2 fun hpend => ?_
  obtain ⟨p, hmem, hkind, r, hr, hlo, hhi⟩ := (x.g.pendingOn_flushLong_iff x.now low (8 * k.toNat)).1 hpend
  rcases hp p hmem hkind r hr with h | h
  · omega
  · omega

/-- A joint product that has still to read a released register as its B holds the split back (R300). -/
theorem exec_rrel_of_arrival (ha : ∃ p ∈ x.b.arrivals, p.gid = x.c.gid ∧ ∃ r ∈ p.bregs, low ≤ r) :
    exec (.rrel d k) s = .next x.s := by
  obtain ⟨g, ho⟩ := hx.1.of
  have hany : (x.b.arrivals.any fun p => p.gid == x.g.gid && p.bregs.any fun r => decide (low ≤ r)) = true := by
    simpa [ho.gid] using ha
  have hpend := Ctx.not_pendingOn_released h hlow hp
  refine issue_of_wait hx ?_
  simp only [Nat.not_lt.2 h, hlow, hpend, hany, Bool.false_eq_true, if_true, if_false]

variable (hq : (x.s.core x.b.stk x.b.core).racq = []) (ha : ∀ p ∈ x.b.arrivals, p.gid = x.c.gid → ∀ r ∈ p.bregs, r < low)
include hq ha

/-- The group releases its registers, and no `racq` waits for them. -/
theorem exec_rrel_releases : ∃ t, exec (.rrel d k) s = .next t ∧ OnlyGroup x.c.blk x.c.gid s t fun _ g' =>
    g' = x.retired (.rrel d k) [] (x.g.release x.now low d.toNat k.toNat) := by
  obtain ⟨g, ho⟩ := hx.1.of
  have hany : (x.b.arrivals.any fun p => p.gid == x.g.gid && p.bregs.any fun r => decide (low ≤ r)) = false := by
    simpa [ho.gid] using ha
  have hpend := Ctx.not_pendingOn_released h hlow hp
  have hserve (f : Group → Group) : (x.s.updCur x.c f).granulesFreed x.b.stk x.b.core = x.s.updCur x.c f := by
    have hcore : ((x.s.updCur x.c f).core x.b.stk x.b.core).racq = [] := hq
    rw [State.granulesFreed, hcore]
    rfl
  refine issue_done_onlyGroup hx (f := Group.release x.now low d.toNat k.toNat) (lat := []) ?_ ?_
  · simp only [Nat.not_lt.2 h, hlow, hpend, hany, hserve, Bool.false_eq_true, if_false]
    rfl
  · obtain ⟨v, sc, bad, hg⟩ := Group.release_keeps (g := x.g) (now := x.now) (low := low) (d := d.toNat) (n := k.toNat)
    rw [hg]
    exact (x.g.flushLong_keeps x.now).1

end

/-- The issuing split goes on from where it stood, whether or not the long results woke it. -/
theorem Issues.onlySplit_release {i : Instr} {s : State} {x : Ctx} (hx : Issues i s x) {low d n : Nat} :
    OnlySplit x.c.age (x.g.flushLong x.now) (x.retired i [] (x.g.release x.now low d n)) Advanced := by
  obtain ⟨g, ho⟩ := hx.1.of
  obtain ⟨q, hq, hqp⟩ := Group.split?_flushLong ho.split x.now
  obtain ⟨v, sc, bad, hg⟩ := Group.release_keeps (g := x.g) (now := x.now) (low := low) (d := d) (n := n)
  rw [hg]
  refine ⟨fun m hm => Group.split?_updSplit_ne _ _ (fun _ h => h) hm, q, _, hq, Group.split?_updSplit_self _ (fun _ h => h) hq, ?_⟩
  rcases hqp with rfl | rfl
  · exact ⟨rfl, rfl, rfl, rfl, rfl, rfl, rfl, rfl⟩
  · exact ⟨rfl, rfl, rfl, rfl, rfl, rfl, rfl, rfl⟩

end Sys2Proof.Machine
end

section
open Sys2Proof Sys2Proof.Machine

/-- Settles O31, a lemma for each way `racq` and `rrel` end; without a waiting `racq` the freed granules go to nobody. -/
theorem granulesExtendAndReleaseTheBound : Obligations.GranulesExtendAndReleaseTheBound := by
  unfold Obligations.GranulesExtendAndReleaseTheBound
  refine fun d k s => ⟨.of_forall rfl fun x hx t ht => ⟨fun h => ?limit, fun h hq hf => ?takes, fun h hw => ?waits⟩,
    .of_forall rfl fun x hx t ht => ⟨fun h => ?few, fun h hp => ?pending, fun h hp hq ha => ?releases, fun h hp ha => ?arrival⟩,
    Group.pend_flushLong⟩
  case limit => exact next_unique ht (exec_racq_of_limit hx h)
  case takes =>
    obtain ⟨u, hu, hd⟩ := exec_racq_takes hx h hq hf
    exact next_unique ht hu ▸ hd
  case waits => exact exec_racq_waits_frame hx (next_unique ht (exec_racq_waits hx h hw))
  case few => exact next_unique ht (exec_rrel_of_few hx h)
  case pending =>
    obtain ⟨u, hu, hs⟩ := exec_rrel_of_pending hx h rfl hp
    exact next_unique ht hu ▸ hs.keeps
  case releases =>
    obtain ⟨u, hu, ho⟩ := exec_rrel_releases hx h rfl hp hq ha
    obtain rfl := next_unique ht hu
    refine ho.mono fun _ g' hg' => ?_
    subst hg'
    refine ⟨?_, Group.bound_release h, fun r l hr hl => Group.vreg_release hr hl, Group.sreg_release h, hx.onlySplit_release⟩
    obtain ⟨v, sc, bad, hg⟩ := Group.release_keeps (g := x.g) (now := x.now) (low := x.g.bound - 8 * k.toNat) (d := d.toNat)
      (n := k.toNat)
    rw [hg]
    exact ⟨_, _, _, _, rfl⟩
  case arrival => exact next_unique ht (exec_rrel_of_arrival hx h rfl hp ha)
end

section
/-!
SUPPORT. Rows 0x4 and 0x5 (R165 to R180): instructions that take values of the lane generators, results that stay pending, codes chosen or
classified without rounding, and packed conversions.
-/
namespace Sys2Proof.Machine

/-- A chainable instruction whose effect is a word and a generator value per active guarded lane gives them. -/
theorem Gives.lanewiseGen {i : Instr} {s : State} {w : Bool} {d : BitVec 7} {f : Ctx → Nat → Word → Word × Word}
    (hx : exec i s = issue i s fun x => x.lanewiseGen w d (f x))
    (hc : ∀ mode mmode, (useOf mode mmode i).chainable = true := by intros; simp) : Gives i s fun x => .vecGen x w d (f x) := by
  intro x h
  rw [hx]
  exact issue_lanewiseGen h rfl (hc _ _)

/-! ## Pending results (R169, R170) -/

theorem lanesOf_eq_nil_iff (m : LaneMask) : lanesOf m = [] ↔ m = 0 := by
  refine ⟨fun h => BitVec.eq_of_getLsbD_eq fun l hl => ?_, fun h => h ▸ rfl⟩
  have hl' : l ∉ lanesOf m := h ▸ List.not_mem_nil
  simpa [mem_lanesOf, hl] using hl'

section
variable {i : Instr} {s : State} {x : Ctx} {d : BitVec 7}

/-- The pending result of `fdiv` to `flog2` (R169, R170): `f l k` is the exact result of element k in lane l, rounded under RNE. -/
def Ctx.longPend (x : Ctx) (d : BitVec 7) (f : Nat → Nat → Val) : Pend :=
  { kind := .long, vw := (lanesOf x.act).map fun l => (32 * d.toNat + l, x.packed fun k =>
      x.fmt.enc { roundingOf x.mode with rm := 0 } 0 (f l k))
    vregs := [d.toNat], sw := [], p6set := 0, p6clr := 0 }

theorem Ctx.long_of_none (h : x.act = 0) (f : Nat → Nat → Val) : x.long d f = x.nothing := by
  simp [Ctx.long, (lanesOf_eq_nil_iff _).2 h]

theorem Ctx.long_of_some (h : x.act ≠ 0) (f : Nat → Nat → Val) :
    x.long d f = .done (x.s.updCur x.c fun g => { g with pend := g.pend ++ [x.longPend d f] }) [] := by
  have hl : lanesOf x.act ≠ [] := mt (lanesOf_eq_nil_iff _).1 h
  simp only [Ctx.long, List.isEmpty_iff, List.map_eq_nil_iff, hl, if_false]
  rfl

/-- An instruction with pending results leaves one where some lane acts, and changes nothing else. -/
theorem Completes.long {v : Ctx → Nat → Nat → Val} (he : exec i s = issue i s fun x => x.long d (v x))
    (hc : ∀ mode mmode, (useOf mode mmode i).chainable = false := by intros; simp) :
    Completes i s fun x t => (x.act = 0 → Writes i s x {} t) ∧
      (x.act ≠ 0 → Does i s x (fun g => { g with pend := g.pend ++ [x.longPend d (v x)] }) t) := by
  intro x hx
  rw [he]
  by_cases h : x.act = 0
  · obtain ⟨t, ht, hw⟩ := issue_nothing (effect := fun x => x.long d (v x)) hx (Ctx.long_of_none h _) (hc _ _)
    exact ⟨t, ht, fun _ => hw, fun hn => absurd h hn⟩
  · obtain ⟨t, ht, hd⟩ := issue_does (effect := fun x => x.long d (v x)) hx (Ctx.long_of_some h _) (hc _ _) (fun _ _ => rfl)
      fun _ => ⟨rfl, rfl, rfl⟩
    exact ⟨t, ht, fun h0 => absurd h0 h, fun _ => hd⟩

end

/-! ## Signs, minimum and maximum (R167, R168) -/

section
variable {f : Fmt} {r : Rounding} {a b c : Nat}

/-- But for a NaN and for d8, `fabs` and `fneg` change the sign bit alone. -/
theorem signCode_of_ne_nan (hf : f ≠ .d8) (hn : ∀ n, f.dec c ≠ .nan n) (clear : Bool) : signCode f r clear c =
    if clear ∨ 2 ^ (f.width - 1) ≤ c then c % 2 ^ (f.width - 1) else c + 2 ^ (f.width - 1) := by
  have hif : signCode f r clear c =
      if clear then c % 2 ^ (f.width - 1) else if c < 2 ^ (f.width - 1) then c + 2 ^ (f.width - 1) else c % 2 ^ (f.width - 1) := by
    unfold signCode
    split
    next n h => exact absurd h (hn n)
    next => simp [hf]
  rw [hif]
  cases clear
  · simp only [Bool.false_eq_true, if_false, false_or, ← not_lt, ite_not]
  · simp

/-- Inverting the top bit of a code keeps the lower ones. -/
theorem flip_top_bit {p c : Nat} (hc : c < 2 ^ (p + 1)) :
    (if 2 ^ p ≤ c then c % 2 ^ p else c + 2 ^ p).testBit p = !c.testBit p ∧
      (if 2 ^ p ≤ c then c % 2 ^ p else c + 2 ^ p) % 2 ^ p = c % 2 ^ p := by
  split
  next h =>
    obtain ⟨e, rfl⟩ := Nat.exists_eq_add_of_le h
    have he : e < 2 ^ p := by rw [Nat.pow_succ] at hc; omega
    refine ⟨?_, Nat.mod_mod _ _⟩
    rw [Nat.testBit_two_pow_add_eq, Nat.add_mod_left, Nat.mod_eq_of_lt he, Bool.not_not]
  next =>
    rw [Nat.add_comm]
    exact ⟨Nat.testBit_two_pow_add_eq _ _, Nat.add_mod_left _ _⟩

theorem minMaxCode_of_nan_nan {m n : Nat} (ha : f.operand r.ftz a = .nan m) (hb : f.operand r.ftz b = .nan n) (max : Bool) :
    minMaxCode f r max a b = f.enc r 0 (.nan m) := by
  simp only [minMaxCode, ha, hb]

theorem minMaxCode_of_nan_left {m : Nat} (ha : f.operand r.ftz a = .nan m) (hb : ¬ ∃ n, f.operand r.ftz b = .nan n) (max : Bool) :
    minMaxCode f r max a b = f.flushVal r.ftz b := by
  cases h : f.operand r.ftz b with
  | nan n => exact absurd ⟨n, h⟩ hb
  | inf t => simp only [minMaxCode, ha, h]
  | fin t q => simp only [minMaxCode, ha, h]

theorem minMaxCode_of_nan_right {n : Nat} (ha : ¬ ∃ m, f.operand r.ftz a = .nan m) (hb : f.operand r.ftz b = .nan n) (max : Bool) :
    minMaxCode f r max a b = f.flushVal r.ftz a := by
  cases h : f.operand r.ftz a with
  | nan n => exact absurd ⟨n, h⟩ ha
  | inf t => simp only [minMaxCode, hb, h]
  | fin t q => simp only [minMaxCode, hb, h]

/-- Of two values that are not NaN the first is the one that `fmin` takes: the smaller, or of equal ones a negative finite one, which puts
-0 below +0. -/
def Val.below (u v : Val) : Bool :=
  match orderVal u v with
  | .less => true
  | .equal => (match u with | .fin s _ => s | _ => false)
  | _ => false

theorem minMaxCode_of_order (h : orderVal (f.operand r.ftz a) (f.operand r.ftz b) ≠ .unordered) (max : Bool) :
    minMaxCode f r max a b = f.flushVal r.ftz (if (f.operand r.ftz a).below (f.operand r.ftz b) != max then a else b) := by
  rw [Ne, orderVal_unordered_iff] at h
  obtain ⟨ha, hb⟩ := not_or.1 h
  dsimp only [minMaxCode]
  split
  next hn _ => exact absurd ⟨_, hn⟩ ha
  next hn _ => exact absurd ⟨_, hn⟩ ha
  next hn _ => exact absurd ⟨_, hn⟩ hb
  next => rfl

theorem minMaxCode_of_below (h : orderVal (f.operand r.ftz a) (f.operand r.ftz b) ≠ .unordered)
    (hb : (f.operand r.ftz a).below (f.operand r.ftz b) = true) :
    minMaxCode f r false a b = f.flushVal r.ftz a ∧ minMaxCode f r true a b = f.flushVal r.ftz b := by
  simp [minMaxCode_of_order h, hb]

theorem minMaxCode_of_not_below (h : orderVal (f.operand r.ftz a) (f.operand r.ftz b) ≠ .unordered)
    (hb : (f.operand r.ftz a).below (f.operand r.ftz b) = false) :
    minMaxCode f r false a b = f.flushVal r.ftz b ∧ minMaxCode f r true a b = f.flushVal r.ftz a := by
  simp [minMaxCode_of_order h, hb]

/-- Two zeros are equal, whatever their signs. -/
theorem orderVal_of_zeros {p q : Q} (hp : p.num = 0) (hq : q.num = 0) (s t : Bool) : orderVal (.fin s p) (.fin t q) = .equal := by
  simp [orderVal, Q.lt, Q.eq, hp, hq]

/-! ## Classes (R177) -/

theorem classCode_of_nan {n : Nat} (h : f.dec c = .nan n) :
    classCode f c = if f = .e4m3 ∨ f = .d8 ∨ c.testBit (f.frac - 1) = true then 9 else 8 := by
  have hlow : (c % 2 ^ (f.width - 1)).testBit (f.frac - 1) = c.testBit (f.frac - 1) := by
    rw [Nat.testBit_mod_two_pow, decide_eq_true (by cases f <;> decide), Bool.true_and]
  simp only [classCode, h, hlow]

theorem classCode_of_inf {s : Bool} (h : f.dec c = .inf s) : classCode f c = if s then 0 else 7 := by
  simp only [classCode, h]

section
variable {s : Bool} {q : Q} (h : f.dec c = .fin s q)
include h

theorem classCode_of_zero (hq : q.num = 0) : classCode f c = if c.testBit (f.width - 1) then 3 else 4 := by
  simp only [classCode, h, if_pos hq]

theorem classCode_of_subnormal (hq : q.num ≠ 0) (hs : f ≠ .d8 ∧ c % 2 ^ (f.width - 1) < 2 ^ f.frac) :
    classCode f c = if c.testBit (f.width - 1) then 2 else 5 := by
  simp only [classCode, h, if_neg hq, if_pos hs]

theorem classCode_of_normal (hq : q.num ≠ 0) (hs : ¬ (f ≠ .d8 ∧ c % 2 ^ (f.width - 1) < 2 ^ f.frac)) :
    classCode f c = if c.testBit (f.width - 1) then 1 else 6 := by
  simp only [classCode, h, if_neg hq, if_neg hs]

end

end

/-! ## Conversions (R172, R174) -/

section
variable {et : Nat} {r : Rounding} {w : Bool} {a b d g : Word}

/-- The codes that `cvtpk` packs where it takes no generator values, from element 0 up. -/
def packCodes (et : Nat) (r : Rounding) (a b g : Word) : List Nat :=
  [convertElem r (if etFloat et then 2 else 0) et g.toNat a.toNat, convertElem r (if etFloat et then 2 else 0) et g.toNat b.toNat]

theorem packLane_word (hr : r.rm ≠ 5) : (packLane et r w a b d g).1 = BitVec.ofNat 32 (packElems (etWidth et) (packCodes et r a b g) +
    if etWidth et = 8 ∧ w = false then d.toNat % 65536 * 65536 else 0) := by
  have hrounds (src : Nat) : convertRounds r src et = false := by simp [convertRounds, hr]
  simp only [packLane, hrounds, elemsRsr_eq]
  rfl

theorem elemCode_packLane_16 (hw : etWidth et = 16) (hr : r.rm ≠ 5) (e : Nat) :
    elemCode 16 (packLane et r w a b d g).1 e = nth 0 (packCodes et r a b g) e % 2 ^ 16 := by
  rw [packLane_word hr, if_neg (by simp [hw]), Nat.add_zero, hw, elemCode_packElems (by rfl)]

/-- In an 8-bit type the old elements 0 and 1 stand above the new ones, or zeros under W. -/
theorem elemCode_packLane_8 (hw : etWidth et = 8) (hr : r.rm ≠ 5) (e : Nat) : elemCode 8 (packLane et r w a b d g).1 e =
    nth 0 (packCodes et r a b g ++ if w then [0, 0] else [elemCode 8 d 0, elemCode 8 d 1]) e % 2 ^ 8 := by
  have hold : packElems 8 (packCodes et r a b g) + (if etWidth et = 8 ∧ w = false then d.toNat % 65536 * 65536 else 0) =
      packElems 8 (packCodes et r a b g ++ if w then [0, 0] else [elemCode 8 d 0, elemCode 8 d 1]) := by
    cases w
    · simp only [packCodes, packElems, elemCode, hw, List.cons_append, List.nil_append, Bool.false_eq_true, if_false, and_self, if_true]
      omega
    · simp [packCodes, packElems]
  rw [packLane_word hr, hw]
  rw [hw] at hold
  rw [hold, elemCode_packElems (by cases w <;> rfl)]

end

/-- The low bits of a code read in either view are the code. -/
theorem wrapInt_of_code {w c : Nat} (hc : c < 2 ^ w) (signed : Bool) : wrapInt w (if signed then signedOf w c else c) = c := by
  have hmod : (c : Int) % 2 ^ w = c := Int.emod_eq_of_lt (by omega) (by exact_mod_cast hc)
  have hsigned : signedOf w c % 2 ^ w = c := by
    unfold signedOf
    split
    · exact hmod
    · simpa using hmod
  zify
  rw [wrapInt_eq]
  cases signed
  · exact hmod
  · exact hsigned

/-- Between integer types an element keeps its low bits, or is clamped under SAT. -/
theorem convertElem_of_ints {src dst : Nat} (hs : etFmt src = none) (hd : etFmt dst = none) (r : Rounding) (u c : Nat) :
    convertElem r src dst u c = (let z : Int := if etSigned src then signedOf (etWidth src) c else c
      if r.sat then clampInt (etSigned dst) (etWidth dst) z else wrapInt (etWidth dst) z) := by
  have hf : etFloat src = false := by simp [etFloat, hs]
  simp only [convertElem, hd, hf]
  rfl

end Sys2Proof.Machine
end

section
open Sys2Proof Sys2Proof.Machine

/-- Settles O10: each instruction rounds its exact result per element by `wordRsr`, with the lane's generator (R134, R140, R166). -/
theorem floatArithmeticRoundsExactResultOnce : Obligations.FloatArithmeticRoundsExactResultOnce := by
  unfold Obligations.FloatArithmeticRoundsExactResultOnce
  exact ⟨fun w d a b s => ⟨.lanewiseGen rfl, .lanewiseGen rfl, .lanewiseGen rfl, .lanewiseGen rfl, .lanewiseGen rfl, .lanewiseGen rfl,
    .lanewiseGen rfl⟩, fun w d a s => .lanewiseGen rfl⟩

/-- Settles O11: each instruction is an element function; the codes of the signs by their top bit, the ends by the order of the operands,
and the classes by what the code decodes to (R167, R168, R177). -/
theorem floatCodeInstructionsChooseAndClassify : Obligations.FloatCodeInstructionsChooseAndClassify := by
  unfold Obligations.FloatCodeInstructionsChooseAndClassify
  refine ⟨fun w d a b s => ⟨?_, ?_⟩, fun w d a s => ⟨?_, ?_, ?_, ?_⟩, fun w d a k s => ?_, fun f hf _ r c hc hn => ?signs,
    fun f r a b => ⟨?nans, ?left, ?right, fun h => ?less, fun h => ?greater, fun p q ha hb hp hq => ?below,
      fun p q ha hb hp hq => ?above⟩,
    fun f c _ => ?classes⟩
  case signs =>
    have hw : f.width = f.width - 1 + 1 := by cases f <;> rfl
    have hflip := flip_top_bit (p := f.width - 1) (hw ▸ hc)
    refine ⟨by simp [signCode_of_ne_nan hf hn], ?_⟩
    simpa [signCode_of_ne_nan hf hn] using hflip
  case nans =>
    rintro ⟨m, ha⟩ ⟨n, hb⟩
    rw [ha]
    exact ⟨minMaxCode_of_nan_nan ha hb _, minMaxCode_of_nan_nan ha hb _⟩
  case left =>
    rintro ⟨m, ha⟩ hb
    exact ⟨minMaxCode_of_nan_left ha hb _, minMaxCode_of_nan_left ha hb _⟩
  case right =>
    rintro ha ⟨n, hb⟩
    exact ⟨minMaxCode_of_nan_right ha hb _, minMaxCode_of_nan_right ha hb _⟩
  case less => exact minMaxCode_of_below (by simp [h]) (by simp [Val.below, h])
  case greater => exact minMaxCode_of_not_below (by simp [h]) (by simp [Val.below, h])
  case below =>
    have h := orderVal_of_zeros hp hq true false
    exact minMaxCode_of_below (by simp [ha, hb, h]) (by simp [Val.below, ha, hb, h])
  case above =>
    have h := orderVal_of_zeros hp hq false true
    exact minMaxCode_of_not_below (by simp [ha, hb, h]) (by simp [Val.below, ha, hb, h])
  case classes =>
    intro neg quiet small
    cases h : f.dec c with
    | nan n =>
      have hc : classCode f c = if quiet then 9 else 8 := classCode_of_nan h
      by_cases hq : quiet <;> simp [hc, hq]
    | inf s =>
      have hc := classCode_of_inf h
      cases s <;> simp [hc]
    | fin s q =>
      by_cases hz : q.num = 0
      · have hc : classCode f c = if neg then 3 else 4 := classCode_of_zero h hz
        cases hneg : neg <;> simp [hc, hneg, hz]
      · by_cases hs : small
        · have hc : classCode f c = if neg then 2 else 5 := classCode_of_subnormal h hz hs
          cases hneg : neg <;> simp [hc, hneg, hz, hs]
        · have hc : classCode f c = if neg then 1 else 6 := classCode_of_normal h hz hs
          cases hneg : neg <;> simp [hc, hneg, hz, hs]
  all_goals exact .lanewise rfl fun _ _ => rfl

/-- Settles O12: one rule for all six, whose exact results alone differ (R169, R170). -/
theorem longFunctionsLeavePendingResults : Obligations.LongFunctionsLeavePendingResults := by
  unfold Obligations.LongFunctionsLeavePendingResults
  exact fun d a b s => ⟨.long rfl, .long rfl, .long rfl, .long rfl, .long rfl, .long rfl⟩

/-- Settles O13: the conversions take generator values element by element; a packed word by its list of codes, and an integer code by its
low bits (R172, R174). -/
theorem conversionsWriteConvertedElements : Obligations.ConversionsWriteConvertedElements := by
  unfold Obligations.ConversionsWriteConvertedElements
  refine ⟨fun w d a k s => .lanewiseGen rfl, fun w d a b s => .lanewiseGen rfl fun mode mmode => ?chains,
    fun et r w a b d g => ⟨fun hw e he hr => ?wide, fun hw e he hr => ?narrow⟩, fun r src dst u c hs hd _ _ hw hc => ?ints⟩
  case chains =>
    rw [useOf_cvtpk]
    split <;> simp
  case wide =>
    rw [elemCode_packLane_16 hw hr]
    obtain rfl | rfl : e = 0 ∨ e = 1 := by omega
    · rfl
    · rfl
  case narrow =>
    have hcode (k : Nat) : elemCode 8 d k % 2 ^ 8 = elemCode 8 d k := Nat.mod_mod _ _
    rw [elemCode_packLane_8 hw hr]
    obtain rfl | rfl | rfl | rfl : e = 0 ∨ e = 1 ∨ e = 2 ∨ e = 3 := by omega
    · rfl
    · rfl
    · cases w
      · exact hcode 0
      · rfl
    · cases w
      · exact hcode 1
      · rfl
  case ints =>
    rw [convertElem_of_ints hs hd]
    simp only [← hw, wrapInt_of_code hc]
end

section
/-!
SUPPORT. Exchange and votes between lanes (R196 to R199): source lanes, and results with the status predicate beside them.
-/
-- One theorem after another: many at once need more memory than the check allows.
set_option Elab.async false

namespace Sys2Proof.Machine

section
variable {i : Instr} {s : State} {effect : Ctx → Res} {has : Ctx → Nat → Bool}

/-- A vector result with p6 beside it. -/
theorem Gives.vectorStatus {w : Bool} {d : BitVec 7} {chain : Bool} {m : Ctx → LaneMask} {f : Ctx → Nat → Word}
    (hx : exec i s = issue i s effect) (he : ∀ x, effect x = (x.vector w d (m x) (f x)).withStatus x (has x))
    (hc : ∀ mode mmode, (useOf mode mmode i).chainable = chain) : Gives i s fun x => (Change.vec x w d (m x) chain (f x)).status x (has x) := by
  intro x h
  rw [hx]
  refine issue_status h ((he x).trans (by rw [Ctx.vector_eq])) ?_ (registers_vec x.g) (fun _ _ => rfl) ?_ ?_
  · cases w <;> exact ⟨_, _, _, _, rfl⟩
  · rw [hc]
    rfl
  · intro g
    cases w <;> rfl

/-- A scalar result with p6 beside it. -/
theorem Gives.scalarStatus {d : BitVec 6} {y : Ctx → DWord} (hx : exec i s = issue i s effect)
    (he : ∀ x, effect x = (x.scalar d (y x)).withStatus x (has x)) (hc : ∀ mode mmode, (useOf mode mmode i).chainable = false) :
    Gives i s fun x => (Change.scal d (y x)).status x (has x) := by
  intro x h
  rw [hx]
  exact issue_status h (he x) (Group.setS_keeps _ _ _) (registers_scal x.g) (fun _ _ => rfl) (by rw [hc]; rfl)
    fun g => (Group.setS_fields g _ _).1

end

section
variable (x : Ctx)

/-- A lane number names a source lane where there is such a lane and it is active (R197). -/
theorem Ctx.source_ofNat (k : Nat) : x.source (Int.ofNat k) = if (decide (k < 32) && x.active.getLsbD k) = true then some k else none := by
  unfold Ctx.source
  by_cases hk : k < 32
  · rw [if_pos (by simp; omega), decide_eq_true hk, Bool.true_and]
    rfl
  · rw [if_neg (by simp; omega), decide_eq_false hk]
    rfl

/-- Below lane 0 there is no source lane; 32 names none either. -/
theorem Ctx.source_sub (l k : Nat) : x.source (Int.ofNat l - Int.ofNat k) = x.source (Int.ofNat (if k ≤ l then l - k else 32)) := by
  split
  next h => rw [Int.ofNat_eq_natCast, Int.ofNat_eq_natCast, Int.ofNat_eq_natCast, Int.ofNat_sub h]
  next h => rw [Ctx.source_ofNat, Ctx.source, if_neg (by simp; omega)]; rfl

theorem Ctx.isSome_source_ofNat (k : Nat) : (x.source (Int.ofNat k)).isSome = (decide (k < 32) && x.active.getLsbD k) := by
  rw [Ctx.source_ofNat]
  split
  next h => exact h.symm
  next h => exact (Bool.eq_false_iff.2 h).symm

end

/-- A shuffle takes its source lane by any number that names the same lane. -/
theorem Gives.shuffle {i : Instr} {s : State} {w : Bool} {d : BitVec 7} {a b : Src} {lane : Nat → Nat → Int} (src : Ctx → Nat → Nat)
    (hx : exec i s = issue i s fun x => x.shuffle w d a b lane)
    (hsrc : ∀ (x : Ctx) (l : Nat), x.source (lane l ((x.rdv b l).toNat % 32)) = x.source (Int.ofNat (src x l)))
    (hc : ∀ mode mmode, (useOf mode mmode i).chainable = true := by intros; simp) : Gives i s fun x =>
      let has := fun l => decide (src x l < 32) && x.active.getLsbD (src x l)
      (Change.vec x w d x.act true fun l => if has l then x.rdv a (src x l) else x.g.vreg d.toNat l).status x has := by
  refine .vectorStatus hx (fun x => ?_) hc
  have hlane (l : Nat) : x.source (lane l (field (x.rdv b l) 4 0)) = x.source (Int.ofNat (src x l)) := hsrc x l
  simp only [Ctx.shuffle, hlane, Ctx.isSome_source_ofNat]
  congr 2
  funext l
  rw [Ctx.source_ofNat]
  by_cases h : (decide (src x l < 32) && x.active.getLsbD (src x l)) = true
  · rw [if_pos h, if_pos h]
  · rw [if_neg h, if_neg h]

/-! ## Votes (R199) -/

theorem Ctx.getLsbD_nonZero (x : Ctx) (a : Src) {l : Nat} (hl : l < 32) :
    (x.nonZero a).getLsbD l = (x.act.getLsbD l && decide (x.rdv a l ≠ 0)) := by
  rw [Ctx.nonZero, maskWhere, BitVec.getLsbD_and, getLsbD_maskOf _ _ hl]

/-- The lanes that count make up the whole mask when each of its lanes holds a word that is not 0. -/
theorem Ctx.nonZero_eq_act_iff (x : Ctx) (a : Src) : x.nonZero a = x.act ↔ ((lanesOf x.act).all fun l => x.rdv a l != 0) = true := by
  simp only [List.all_eq_true, mem_lanesOf, bne_iff_ne]
  constructor
  · intro h l ⟨hl, hact⟩
    have := x.getLsbD_nonZero a hl
    rw [h, hact] at this
    simpa using this
  · intro h
    refine BitVec.eq_of_getLsbD_eq fun l hl => ?_
    rw [x.getLsbD_nonZero a hl]
    cases hact : x.act.getLsbD l with
    | false => rfl
    | true => simpa using h l ⟨hl, hact⟩

theorem Ctx.nonZero_ne_zero_iff (x : Ctx) (a : Src) : x.nonZero a ≠ 0 ↔ ((lanesOf x.act).any fun l => x.rdv a l != 0) = true := by
  rw [← not_iff_not, not_not, ← lanesOf_eq_nil_iff, List.eq_nil_iff_forall_not_mem]
  simp only [List.any_eq_true, mem_lanesOf, bne_iff_ne, not_exists, not_and]
  refine forall_congr' fun l => ⟨fun h hl hne => h hl.1 ?_, fun h hl hn => ?_⟩
  · rw [x.getLsbD_nonZero a hl.1, hl.2]
    simpa using hne
  · rw [x.getLsbD_nonZero a hl, Bool.and_eq_true, decide_eq_true_eq] at hn
    exact h ⟨hl, hn.1⟩ hn.2

end Sys2Proof.Machine
end

section
-- One theorem after another: many at once need more memory than the check allows.
set_option Elab.async false

open Sys2Proof Sys2Proof.Machine

/-- Settles O16: each shuffle by the number that names its source lane (R197, R198). -/
theorem laneExchangeCopiesFromActiveLanes : Obligations.LaneExchangeCopiesFromActiveLanes := by
  unfold Obligations.LaneExchangeCopiesFromActiveLanes
  refine ⟨fun w d a b s => ⟨?shfl, ?shflup, ?shfldn, ?shflx⟩,
    fun d a b s => ?bcast, fun d a b s => ?vtos⟩
  case shfl => exact .shuffle (lane := fun _ k => Int.ofNat k) (fun x l => (x.rdv b l).toNat % 32) rfl fun _ _ => rfl
  case shfldn => exact .shuffle (lane := fun l k => Int.ofNat (l + k)) (fun x l => l + (x.rdv b l).toNat % 32) rfl fun _ _ => rfl
  case shflx => exact .shuffle (lane := fun l k => Int.ofNat (l ^^^ k)) (fun x l => l ^^^ (x.rdv b l).toNat % 32) rfl fun _ _ => rfl
  case shflup =>
    exact .shuffle (lane := fun l k => Int.ofNat l - Int.ofNat k) (fun x l => if (x.rdv b l).toNat % 32 ≤ l then l - (x.rdv b l).toNat % 32 else 32) rfl fun x l => x.source_sub l _
  all_goals
    have hlt (x : Ctx) : (x.rds b).toNat % 32 < 32 := Nat.mod_lt _ (by decide)
    have hf (x : Ctx) : field (x.rds b) 4 0 = (x.rds b).toNat % 32 := rfl
  case bcast =>
    refine .vectorStatus (rfl : _ = execBcast d a b s) (fun x => ?_) fun _ _ => by simp
    simp only [hf, Ctx.isSome_source_ofNat, hlt, decide_true, Bool.true_and]
    congr 2
    funext l
    rw [Ctx.source_ofNat, decide_eq_true (hlt x), Bool.true_and]
    cases x.active.getLsbD ((x.rds b).toNat % 32) <;> rfl
  case vtos =>
    refine .scalarStatus (rfl : _ = execVtos d a b s) (fun x => ?_) fun _ _ => by simp
    simp only [hf, Ctx.isSome_source_ofNat, hlt, decide_true, Bool.true_and]
    congr 2
    rw [Ctx.source_ofNat, decide_eq_true (hlt x), Bool.true_and]
    cases x.active.getLsbD ((x.rds b).toNat % 32) <;> rfl

/-- Settles O17: the mask of the lanes that count, bit by bit (R199). -/
theorem votesCountTheNonZeroLanes : Obligations.VotesCountTheNonZeroLanes := by
  unfold Obligations.VotesCountTheNonZeroLanes
  refine ⟨fun d a s => ⟨?vall, ?vany, .scalarOf rfl fun _ => rfl, fun x l hl => x.getLsbD_nonZero a hl⟩, fun d a s => ?lanes⟩
  case vall => exact .scalarOf rfl fun x => by rw [ofNat_b2n]; simp only [x.nonZero_eq_act_iff, decide_eq_true_eq]
  case vany => exact .scalarOf rfl fun x => by rw [ofNat_b2n]; simp only [x.nonZero_ne_zero_iff, decide_eq_true_eq]
  case lanes =>
    refine .vector (m := Ctx.act) (rfl : _ = execLanes d a s) (fun x => ?_) fun _ _ => by simp
    congr 1
    funext l
    rw [lanesOf, List.filter_filter]
    congr 2
    refine List.filter_congr fun k hk => ?_
    rw [x.getLsbD_nonZero a (List.mem_range.1 hk)]
end

section
/-!
SUPPORT. Elements of lists by position and by key.
-/
-- One theorem after another: many at once need more memory than the check allows.
set_option Elab.async false

namespace Sys2Proof.Machine

/-- With keys that do not repeat, an element is the one found under its key. -/
theorem find?_key_of_nodup {α : Type} {key : α → Nat} {l : List α} {y : α} (hl : (l.map key).Nodup) (hy : y ∈ l) :
    (l.find? fun z => key z == key y) = some y := by
  induction l with
  | nil => cases hy
  | cons a r ih =>
    obtain ⟨ha, hr⟩ := List.nodup_cons.1 hl
    rcases List.mem_cons.1 hy with rfl | hmem
    · simp
    · have hne : key a ≠ key y := fun h => ha (h ▸ List.mem_map_of_mem hmem)
      rw [List.find?_cons_of_neg (by simpa using hne), ih hr hmem]

theorem nth_setNth {α : Type} (d : α) (l : List α) (k m : Nat) (y : α) :
    nth d (setNth l k y) m = if m = k ∧ k < l.length then y else nth d l m := by
  induction l generalizing k m with
  | nil => simp [setNth, nth]
  | cons a r ih =>
    cases k with
    | zero => cases m <;> simp [setNth, nth]
    | succ k => cases m <;> simp [setNth, nth, ih]

theorem nth_mem {α : Type} (d : α) {l : List α} {k : Nat} (h : k < l.length) : nth d l k ∈ l := by
  rw [nth_eq_getD, List.getD_eq_getElem _ _ h]
  exact List.getElem_mem h

end Sys2Proof.Machine
end

section
/-!
SUPPORT. Reductions and scan (R200, R201): integer results by element, one level of the tree, the trees of a word, and the running sums.
-/
-- One theorem after another: many at once need more memory than the check allows.
set_option Elab.async false

namespace Sys2Proof.Machine

/-! ## Integer results -/

/-- An element that is some word's element is kept when it is narrowed (R146). -/
theorem elemInt_narrowed_of_elemInt {et k j : Nat} {f : Nat → Int} (hk : k < etCount et) (y : Word) (hf : f k = elemInt et y j) :
    elemInt et (mapElems et fun k => narrowInt false et (f k)) k = f k := by
  have hc : elemCode (etWidth et) y j < 2 ^ etWidth et := Nat.mod_lt _ (Nat.two_pow_pos _)
  have hcode : elemCode (etWidth et) (mapElems et fun k => narrowInt false et (f k)) k = elemCode (etWidth et) y j := by
    rw [elemCode_mapElems _ hk, hf, elemInt, narrowInt]
    simp only [Bool.false_eq_true, if_false, Int.ofNat_eq_natCast]
    rw [wrapInt_of_code hc, Nat.mod_eq_of_lt hc]
  rw [hf, elemInt, hcode, elemInt]

theorem leastOf_eq_min? : ∀ {l : List Int}, l ≠ [] → l.min? = some (leastOf l)
  | _ :: _, _ => List.min?_cons'

theorem greatestOf_eq_max? : ∀ {l : List Int}, l ≠ [] → l.max? = some (greatestOf l)
  | _ :: _, _ => List.max?_cons'

/-! ## One level of the tree (R200) -/

section
variable {op : Nat → Nat → Word → Nat × Word}

theorem length_pairUp : ∀ (l : Leaves) (g : List Word), (pairUp op l g).1.length = (l.length + 1) / 2
  | [], _ => rfl
  | [_], _ => by simp [pairUp]
  | (k, a) :: (_, b) :: r, g => by
    rw [pairUp, List.length_cons, length_pairUp r]
    simp only [List.length_cons]
    omega

theorem length_gens_pairUp : ∀ (l : Leaves) (g : List Word), (pairUp op l g).2.length = g.length
  | [], _ => rfl
  | [_], _ => rfl
  | (k, a) :: (_, b) :: r, g => by rw [pairUp, length_gens_pairUp r, length_setNth]

/-- A level takes the generators of its left neighbours only. -/
theorem nth_gens_pairUp_of_ne {m : Nat} : ∀ (l : Leaves) (g : List Word), (∀ i, 2 * i + 1 < l.length → m ≠ (nth (0, 0) l (2 * i)).1) →
    nth 0 (pairUp op l g).2 m = nth 0 g m
  | [], _, _ => rfl
  | [_], _, _ => rfl
  | (k, a) :: (_, b) :: r, g, h => by
    rw [pairUp, nth_gens_pairUp_of_ne r _ fun i hi => h (i + 1) (by simp only [List.length_cons]; omega), nth_setNth, if_neg]
    exact fun hm => h 0 (by simp) hm.1

/-- Neighbours combine, the left one with its generator. -/
theorem nth_pairUp : ∀ (l : Leaves) (g : List Word), (l.map (·.1)).Nodup → (∀ y ∈ l, y.1 < g.length) → ∀ i, 2 * i + 1 < l.length →
    let leaf := fun i => nth (0, 0) l i
    let y := op (leaf (2 * i)).2 (leaf (2 * i + 1)).2 (nth 0 g (leaf (2 * i)).1)
    nth (0, 0) (pairUp op l g).1 i = ((leaf (2 * i)).1, y.1) ∧ nth 0 (pairUp op l g).2 (leaf (2 * i)).1 = y.2
  | [], _, _, _, _, hi => absurd hi (by simp)
  | [_], _, _, _, _, hi => absurd hi (by simp)
  | (k, a) :: (k', b) :: r, g, hl, hlt, i, hi => by
    simp only [List.map_cons, List.nodup_cons, List.mem_cons, not_or, List.mem_map, not_exists, not_and] at hl
    obtain ⟨⟨-, hk⟩, -, hr⟩ := hl
    rw [pairUp]
    cases i with
    | zero =>
      refine ⟨rfl, (nth_gens_pairUp_of_ne r _ fun i hi he => hk _ (nth_mem _ (by omega)) he.symm).trans ?_⟩
      exact (nth_setNth ..).trans (if_pos ⟨rfl, hlt (k, a) (by simp)⟩)
    | succ i =>
      have hi' : 2 * i + 1 < r.length := by simp only [List.length_cons] at hi; omega
      have hne : (nth (0, 0) r (2 * i)).1 ≠ k := hk _ (nth_mem _ (by omega))
      have hrest := nth_pairUp r (setNth g k (op a b (nth 0 g k)).2) hr (fun y hy => by rw [length_setNth]; exact hlt y (by simp [hy])) i hi'
      have hgen : nth 0 (setNth g k (op a b (nth 0 g k)).2) (nth (0, 0) r (2 * i)).1 = nth 0 g (nth (0, 0) r (2 * i)).1 :=
        (nth_setNth ..).trans (if_neg fun h => hne h.1)
      simp only [hgen] at hrest
      exact hrest

/-- An odd last one passes up. -/
theorem nth_pairUp_last : ∀ (l : Leaves) (g : List Word) (i : Nat), 2 * i + 1 = l.length →
    nth (0, 0) (pairUp op l g).1 i = nth (0, 0) l (2 * i)
  | [], _, _, hi => absurd hi (by simp)
  | [_], _, i, hi => by rw [show i = 0 by simpa using hi]; rfl
  | _ :: _ :: r, g, i, hi => by
    simp only [List.length_cons] at hi
    obtain ⟨j, rfl⟩ : ∃ j, i = j + 1 := ⟨i - 1, by omega⟩
    exact nth_pairUp_last r _ j (by omega)

/-! ## The trees of a word (R134, R200) -/

theorem reduceTree_single (n : Nat) (y : Nat × Nat) (g : List Word) : reduceTree op n [y] g = (y.2, g) := by
  induction n with
  | zero => rfl
  | succ n ih => exact ih

theorem reduceTree_nil (n : Nat) (g : List Word) : reduceTree op n [] g = (0, g) := by
  induction n with
  | zero => rfl
  | succ n ih => exact ih

/-- The last element's tree comes after the others, with the generators as they leave them. -/
theorem reduceElems_succ (leaves : Nat → Leaves) (j n : Nat) (g : List Word) :
    let b := reduceElems op leaves j n g
    let t := reduceTree op 5 (leaves (j + n)) b.2
    reduceElems op leaves j (n + 1) g = (b.1 ++ [t.1], t.2) := by
  induction n generalizing j g with
  | zero => rfl
  | succ n ih =>
    have hj : j + (n + 1) = j + 1 + n := by omega
    simp only [hj]
    rw [reduceElems, ih]
    rfl

theorem length_reduceElems (leaves : Nat → Leaves) (j n : Nat) (g : List Word) : (reduceElems op leaves j n g).1.length = n := by
  induction n with
  | zero => rfl
  | succ n ih => rw [reduceElems_succ, List.length_append, ih, List.length_singleton]

theorem nth_reduceElems (leaves : Nat → Leaves) (j : Nat) (g : List Word) {n k : Nat} (hk : k < n) :
    nth 0 (reduceElems op leaves j n g).1 k = (reduceTree op 5 (leaves (j + k)) (reduceElems op leaves j k g).2).1 := by
  induction n with
  | zero => omega
  | succ n ih =>
    rw [reduceElems_succ, nth_append, length_reduceElems]
    rcases Nat.lt_succ_iff_lt_or_eq.1 hk with h | rfl
    · rw [if_pos h, ih h]
    · rw [if_neg (lt_irrefl _), Nat.sub_self]
      rfl

end

/-! ## Running sums (R201) -/

section
variable (x : Ctx) (a : Src)

theorem Ctx.map_fst_scanFloat (l : List Nat) (c : Word) (g : List Word) : (x.scanFloat a l c g).1.map (·.1) = l := by
  induction l generalizing c g with
  | nil => rfl
  | cons m r ih => rw [Ctx.scanFloat, List.map_cons, ih]

theorem Ctx.nth_gens_scanFloat_of_not_mem (l : List Nat) (c : Word) (g : List Word) {m : Nat} (h : m ∉ l) :
    nth 0 (x.scanFloat a l c g).2 m = nth 0 g m := by
  induction l generalizing c g with
  | nil => rfl
  | cons k r ih =>
    rw [List.mem_cons, not_or] at h
    rw [Ctx.scanFloat, ih _ _ h.2, nth_setNth, if_neg fun hm => h.1 hm.1]

/-- Each lane adds its word to the running value before it, with its own generator. -/
theorem Ctx.nth_scanFloat (l : List Nat) (c : Word) (g : List Word) (hl : l.Nodup) (hlt : ∀ m ∈ l, m < g.length) (i : Nat)
    (hi : i < l.length) :
    let r := x.scanFloat a l c g
    let y := x.addWord (if i = 0 then c else (nth (0, 0) r.1 (i - 1)).2) (x.rdv a (nth 0 l i)) (nth 0 g (nth 0 l i))
    (nth (0, 0) r.1 i).2 = y.1 ∧ nth 0 r.2 (nth 0 l i) = y.2 := by
  induction l generalizing c g i with
  | nil => simp at hi
  | cons k r ih =>
    obtain ⟨hk, hr⟩ := List.nodup_cons.1 hl
    rw [Ctx.scanFloat]
    cases i with
    | zero =>
      refine ⟨rfl, ?_⟩
      exact (x.nth_gens_scanFloat_of_not_mem a r _ _ hk).trans ((nth_setNth ..).trans (if_pos ⟨rfl, hlt k (by simp)⟩))
    | succ i =>
      have hi' : i < r.length := by simpa using hi
      have hne : nth 0 r i ≠ k := fun h => hk (h ▸ nth_mem 0 hi')
      have := ih (x.addWord c (x.rdv a k) (nth 0 g k)).1 (setNth g k (x.addWord c (x.rdv a k) (nth 0 g k)).2) hr
        (fun m hm => by rw [length_setNth]; exact hlt m (by simp [hm])) i hi'
      rw [nth_setNth, if_neg fun h => hne h.1] at this
      cases i <;> exact this

end

/-! ## Results that take generator values -/

section
variable {i : Instr} {s : State} {x : Ctx} {effect : Ctx → Res} {gens : List Word}

/-- A scalar result with the generators after it. -/
theorem issue_scalarGens (h : Issues i s x) {d : BitVec 6} {y : DWord}
    (he : effect x = .done (x.s.updCur x.c fun g => { g with gens := gens }.setS d.toNat y) [])
    (hc : (useOf x.mode x.mmode i).chainable = false) :
    ∃ t, issue i s effect = .next t ∧ Writes i s x { Change.scal d y with gens := some gens } t := by
  obtain ⟨hv, hs, hp, -⟩ := registers_scal (d := d) (y := y) { x.g with gens := gens }
  obtain ⟨v, sc, p, gens', hk⟩ := Group.setS_keeps { x.g with gens := gens } d.toNat y
  exact issue_writes h he ⟨v, sc, p, gens', hk⟩ ⟨hv, hs, hp, Group.gens_setS _ _ _⟩ (by rw [hc]; rfl)

/-- A vector result, lane by lane, with the generators after it. -/
theorem issue_vectorGens (h : Issues i s x) {d : BitVec 7} {m : LaneMask} {f : Nat → Word}
    (he : effect x = .done (x.s.updCur x.c fun g => { g with gens := gens }.setLanes d.toNat m f) [])
    (hc : (useOf x.mode x.mmode i).chainable = false) :
    ∃ t, issue i s effect = .next t ∧ Writes i s x { Change.vec x false d m false f with gens := some gens } t := by
  obtain ⟨hv, hs, hp, -⟩ := registers_vec (x := x) (w := false) (d := d) (m := m) (chain := false) (f := f) { x.g with gens := gens }
  exact issue_writes h he ⟨_, _, _, _, rfl⟩ ⟨hv, hs, hp, rfl⟩ (by rw [hc]; rfl)

end

section
variable {i : Instr} {s t : State} {x : Ctx} {d : BitVec 6} {a : Src}

/-- A reduction whose operation picks one of the elements writes, in each element, one of the lanes' elements. -/
theorem Ctx.reduceInt_pick {pick : List Int → Int} (hpick : ∀ l, l ≠ [] → pick l ∈ l) {k : Nat} (hk : k < etCount x.et) (h : x.act ≠ 0) :
    elemInt x.et (mapElems x.et fun k => narrowInt false x.et (pick ((lanesOf x.act).map fun l => x.int a l k))) k =
      pick ((lanesOf x.act).map fun l => x.int a l k) := by
  have hne : (lanesOf x.act).map (fun l => x.int a l k) ≠ [] := by simpa [lanesOf_eq_nil_iff] using h
  obtain ⟨l, -, hl⟩ := List.mem_map.1 (hpick _ hne)
  exact elemInt_narrowed_of_elemInt hk (x.rdv a l) hl.symm

/-- The word of a reduction under an integer type; 0 with no lane (R200). -/
def Ctx.reducedInt (x : Ctx) (a : Src) (f : List Int → Nat) : Word :=
  if x.act = 0 then 0 else mapElems x.et fun k => f ((lanesOf x.act).map fun l => x.int a l k)

theorem Ctx.reduceInt_eq (f : List Int → Nat) : x.reduceInt d a f = x.scalar d ((x.reducedInt a f).setWidth 64) := by
  simp only [Ctx.reduceInt, Ctx.reducedInt, List.isEmpty_iff, lanesOf_eq_nil_iff]
  split <;> rfl

/-- The least element, or with the other order the greatest, of the lanes' elements. -/
theorem Ctx.reducedInt_bounds {pick : List Int → Int} {le : Int → Int → Prop}
    (hpick : ∀ l, l ≠ [] → pick l ∈ l ∧ ∀ z ∈ l, le (pick l) z) :
    let y := x.reducedInt a fun l => narrowInt false x.et (pick l)
    (x.act = 0 → y = 0) ∧ (x.act ≠ 0 → ∀ k < etCount x.et, (∃ l ∈ lanesOf x.act, elemInt x.et y k = x.int a l k) ∧
      ∀ l ∈ lanesOf x.act, le (elemInt x.et y k) (x.int a l k)) := by
  refine ⟨fun h => if_pos h, fun h k hk => ?_⟩
  have hne : (lanesOf x.act).map (fun l => x.int a l k) ≠ [] := by simpa [lanesOf_eq_nil_iff] using h
  obtain ⟨hmem, hle⟩ := hpick _ hne
  rw [Ctx.reducedInt, if_neg h, Ctx.reduceInt_pick (fun l hl => (hpick l hl).1) hk h]
  obtain ⟨l, hl, he⟩ := List.mem_map.1 hmem
  exact ⟨⟨l, hl, he.symm⟩, fun l hl => hle _ (List.mem_map_of_mem hl)⟩

/-- The sums of a scan, one for each lane, written as a vector result. -/
theorem Ctx.scanFloat_writes (x : Ctx) (a : Src) (c : Word) (g : Group) (d : Nat) :
    let r : List (Nat × Word) × List Word := x.scanFloat a (lanesOf x.act) c x.g.gens
    { g with gens := r.2, v := Sparse.putAll g.v (r.1.map fun y : Nat × Word => (32 * d + y.1, y.2)) } =
      { g with gens := r.2 }.setLanes d x.act fun l => ((r.1.find? fun y : Nat × Word => y.1 == l).map fun y : Nat × Word => y.2).getD 0 := by
  intro r
  have hfst : r.1.map (·.1) = lanesOf x.act := x.map_fst_scanFloat a _ _ _
  have hnodup : (r.1.map (·.1)).Nodup := hfst ▸ List.nodup_range.filter _
  rw [Group.setLanes, ← hfst, List.map_map]
  congr 2
  refine List.map_congr_left fun y hy => ?_
  simp only [Function.comp_apply, find?_key_of_nodup hnodup hy, Option.map_some, Option.getD_some]

theorem Ctx.scanFloat_done (x : Ctx) (d : BitVec 7) (a : Src) (b : BitVec 6) :
    let r := x.scanFloat a (lanesOf x.act) ((x.rds b).setWidth 32) x.g.gens
    Res.done (x.s.updCur x.c fun g => { g with gens := r.2, v := Sparse.putAll g.v (r.1.map fun y : Nat × Word => (32 * d.toNat + y.1, y.2)) }) [] =
      .done (x.s.updCur x.c fun g => { g with gens := r.2 }.setLanes d.toNat x.act
        fun l => ((r.1.find? fun y : Nat × Word => y.1 == l).map fun y : Nat × Word => y.2).getD 0) [] := by
  exact congrArg (fun f => Res.done (x.s.updCur x.c f) []) (funext fun g => x.scanFloat_writes a _ g d.toNat)

theorem issue_reduceFloat (h : Issues i s x) {effect : Ctx → Res} {op : Nat → Nat → Word → Nat × Word} (he : effect x = x.reduceFloat d a op)
    (hc : (useOf x.mode x.mmode i).chainable = false) :
    ∃ t, issue i s effect = .next t ∧
      let r := reduceElems op (fun k => (lanesOf x.act).map fun l => (l, x.code a l k)) 0 (etCount x.et) x.g.gens
      Writes i s x { Change.scal d ((BitVec.ofNat 32 (packElems (etWidth x.et) r.1)).setWidth 64) with gens := some r.2 } t :=
  issue_scalarGens h he hc

/-- redmin and redmax: the element that the order picks under an integer type, the tree under a floating one. -/
theorem minMaxReduced (h : Issues i s x) {max : Bool} {pick : List Int → Int} {le : Int → Int → Prop}
    (he : exec i s = issue i s fun x => if etFloat x.et then x.reduceFloat d a (x.pickCode max)
      else x.reduceInt d a fun l => narrowInt false x.et (pick l))
    (hc : (useOf x.mode x.mmode i).chainable = false) (hpick : ∀ l, l ≠ [] → pick l ∈ l ∧ ∀ z ∈ l, le (pick l) z) :
    ∃ t, exec i s = .next t ∧
      (etFloat x.et = false → ∃ y : Word, Writes i s x (.scal d (y.setWidth 64)) t ∧
        (x.act = 0 → y = 0) ∧ (x.act ≠ 0 → ∀ k < etCount x.et,
          (∃ l ∈ lanesOf x.act, elemInt x.et y k = x.int a l k) ∧ ∀ l ∈ lanesOf x.act, le (elemInt x.et y k) (x.int a l k))) ∧
      (etFloat x.et = true →
        let r := reduceElems (x.pickCode max) (fun k => (lanesOf x.act).map fun l => (l, x.code a l k)) 0 (etCount x.et) x.g.gens
        Writes i s x { Change.scal d ((BitVec.ofNat 32 (packElems (etWidth x.et) r.1)).setWidth 64) with gens := some r.2 } t) := by
  rw [he]
  cases hf : etFloat x.et with
  | false =>
    refine (issue_scalar h ?_ hc).imp fun t ⟨ht, hw⟩ => ⟨ht, fun _ => ⟨_, hw, Ctx.reducedInt_bounds hpick⟩, by simp⟩
    exact (if_neg (by simp [hf])).trans (x.reduceInt_eq _)
  | true =>
    exact (issue_reduceFloat h (if_pos hf) hc).imp fun t ⟨ht, hw⟩ => ⟨ht, by simp, fun _ => hw⟩

end

end Sys2Proof.Machine
end

section
-- One theorem after another: many at once need more memory than the check allows.
set_option Elab.async false

open Sys2Proof Sys2Proof.Machine

/-- Settles O18: integer results element by element; the tree and the scan by recursion over their lanes (R200, R201). -/
theorem reductionsAndScanCombineLanes : Obligations.ReductionsAndScanCombineLanes := by
  unfold Obligations.ReductionsAndScanCombineLanes
  refine ⟨fun d a s => ⟨fun x hx => ?add, fun x hx => ?min, fun x hx => ?max⟩,
    fun d a b s => fun x hx => ?scan,
    fun op l g hl hg hlt => ?level, fun op l g => ?tree, fun op leaves g n k hk => ?elems, fun x a l c g hl hg hlt => ?running⟩
  case add =>
    cases hf : etFloat x.et with
    | false =>
      refine (issue_scalar hx (d := d) (y := (x.reducedInt a fun l => narrowInt x.sat x.et l.sum).setWidth 64) ?_ (by simp)).imp
        fun t ⟨ht, hw⟩ => ⟨ht, fun _ => ?_, fun h => (nomatch hf.symm.trans h)⟩
      · exact (if_neg (by simp [hf])).trans (x.reduceInt_eq _)
      · rw [Ctx.reducedInt, apply_ite (BitVec.setWidth 64)] at hw; exact hw
    | true =>
      exact (issue_reduceFloat hx (if_pos hf) (by simp)).imp fun t ⟨ht, hw⟩ => ⟨ht, fun h => (nomatch hf.symm.trans h), fun _ => hw⟩
  case min => exact minMaxReduced hx rfl (by simp) fun l hl => List.min?_eq_some_iff.1 (leastOf_eq_min? hl)
  case max =>
    exact minMaxReduced (le := fun z z' => z' ≤ z) hx rfl (by simp) fun l hl => List.max?_eq_some_iff.1 (greatestOf_eq_max? hl)
  case scan =>
    cases hf : etFloat x.et with
    | false =>
      refine (issue_vector hx (w := false) (d := d) (m := x.act) (f := x.scanInt a ((x.rds b).setWidth 32)) ?_).imp
        fun t ⟨ht, hw⟩ => ⟨ht, fun _ => ?_, fun h => (nomatch hf.symm.trans h)⟩
      · exact if_neg (by simp [hf])
      · rw [show (useOf x.mode x.mmode (.scan d a b)).chainable = false by simp] at hw
        exact hw
    | true =>
      refine (issue_vectorGens hx ?_ (by simp)).imp fun t ⟨ht, hw⟩ => ⟨ht, fun h => (nomatch hf.symm.trans h), fun _ => hw⟩
      exact (if_pos hf).trans (x.scanFloat_done d a b)
  case level =>
    refine ⟨length_pairUp l g, (length_gens_pairUp l g).trans hg, nth_pairUp l g hl fun y hy => hg ▸ hlt y hy, nth_pairUp_last l g,
      fun m => nth_gens_pairUp_of_ne l g⟩
  case tree => exact ⟨fun n y h => h ▸ reduceTree_single n y g, fun n h => h ▸ reduceTree_nil n g, fun _ => rfl⟩
  case elems =>
    refine ⟨?_, ?_, rfl⟩
    · simpa using nth_reduceElems leaves 0 g hk
    · simpa using congrArg Prod.snd (reduceElems_succ leaves 0 k g)
  case running =>
    exact ⟨x.map_fst_scanFloat a l c g, x.nth_scanFloat a l c g hl fun m hm => hg ▸ hlt m hm,
      fun m hm => x.nth_gens_scanFloat_of_not_mem a l c g hm⟩
end

section
/-!
SUPPORT. What becomes of the issuing group after an instruction that only updates it: it goes on (`Ctx.retired`), or its PCs are set and
no chain is open (`Ctx.left`).
-/
-- One theorem after another: many at once need more memory than the check allows.
set_option Elab.async false

namespace Sys2Proof.Machine

section
variable {i : Instr} {s t : State} {x : Ctx} {effect : Ctx → Res} {f : Group → Group} {R : Group → Group → Prop}

/-- What leaving does to the issuing group. -/
def Ctx.left (x : Ctx) (g : Group) : Group :=
  { g.updSplit x.c.age fun p => { p with walked := [], inval := [], early := [], qage := 0, again := none } with chain := none }

theorem Ctx.split?_retired_ne (x : Ctx) (i : Instr) (lat : List Word) (g : Group) {m : Nat} (hm : m ≠ x.c.age) :
    (x.retired i lat g).split? m = g.split? m :=
  Group.split?_updSplit_ne g (fun p => { p with
    pc := x.p.pc + 4, readyAt := x.now, walked := x.walkedAfter i, inval := [], early := [], qage := 0, again := none, wait := .none }) (fun _ h => h) hm

theorem Ctx.split?_retired_self (x : Ctx) (i : Instr) (lat : List Word) {g : Group} {p : Split} (h : g.split? x.c.age = some p) :
    (x.retired i lat g).split? x.c.age = some { p with
      pc := x.p.pc + 4, readyAt := x.now, walked := x.walkedAfter i, inval := [], early := [], qage := 0, again := none, wait := .none } :=
  Group.split?_updSplit_self (fun p : Split => { p with
    pc := x.p.pc + 4, readyAt := x.now, walked := x.walkedAfter i, inval := [], early := [], qage := 0, again := none, wait := .none }) (fun _ h => h) h

theorem Ctx.split?_left_ne (x : Ctx) (g : Group) {m : Nat} (hm : m ≠ x.c.age) : (x.left g).split? m = g.split? m :=
  Group.split?_updSplit_ne g (fun p => { p with walked := [], inval := [], early := [], qage := 0, again := none }) (fun _ h => h) hm

theorem Ctx.split?_left_self (x : Ctx) {g : Group} {p : Split} (h : g.split? x.c.age = some p) :
    (x.left g).split? x.c.age = some { p with walked := [], inval := [], early := [], qage := 0, again := none } :=
  Group.split?_updSplit_self (fun p : Split => { p with walked := [], inval := [], early := [], qage := 0, again := none }) (fun _ h => h) h

/-- The issuing group after an instruction that is done, from what it was. -/
theorem Issues.onlyGroup_of_done (h : Issues i s x) (ht : issue i s effect = .next t) {lat : List Word}
    (he : effect x = .done (x.s.updCur x.c f) lat) (hgid : (f x.g).gid = x.g.gid)
    (hR : ∀ g ch, x.g = { g with chain := ch } → g.split? x.c.age = some x.p → R g (x.retired i lat (f x.g))) :
    OnlyGroup x.c.blk x.c.gid s t R := by
  obtain ⟨g, ho⟩ := h.1.of
  obtain ⟨ch, hg⟩ := ho.group
  have hgid' : (f x.g).gid = x.c.gid := hgid.trans ho.gid
  have hst : x.retire i (x.s.updCur x.c f) lat = s.updCur x.c fun _ => x.retired i lat (f x.g) := by
    unfold Ctx.retire
    rw [ho.updCur, State.updCur_updCur s x.c _ _ fun _ _ => hgid']
    rfl
  rw [issue_of_issues h, he] at ht
  rw [← Host.Outcome.next.inj ht, hst]
  exact OnlyGroup.of_updCur (fun _ => x.retired i lat (f x.g)) (fun _ _ => hgid') ho.blk ho.grp _ (hR g ch hg ho.spl)

/-- The issuing group after an instruction that sets the PCs, from what it was. -/
theorem Issues.onlyGroup_of_jump (h : Issues i s x) (ht : issue i s effect = .next t) (he : effect x = .jump (x.s.updCur x.c f))
    (hgid : (f x.g).gid = x.g.gid)
    (hR : ∀ g ch, x.g = { g with chain := ch } → g.split? x.c.age = some x.p → R g (x.left (f x.g))) :
    OnlyGroup x.c.blk x.c.gid s t R := by
  obtain ⟨g, ho⟩ := h.1.of
  obtain ⟨ch, hg⟩ := ho.group
  have hgid' : (f x.g).gid = x.c.gid := hgid.trans ho.gid
  have hst : x.leave (x.s.updCur x.c f) = s.updCur x.c fun _ => x.left (f x.g) := by
    unfold Ctx.leave
    rw [ho.updCur, State.updCur_updCur s x.c _ _ fun _ _ => hgid']
    rfl
  rw [issue_of_issues h, he] at ht
  rw [← Host.Outcome.next.inj ht, hst]
  exact OnlyGroup.of_updCur (fun _ => x.left (f x.g)) (fun _ _ => hgid') ho.blk ho.grp _ (hR g ch hg ho.spl)

/-- After an instruction that is not chainable no chain is open. -/
theorem Ctx.chainAfter_of_not_chainable {u : Use} (hc : u.chainable = false) (lat : List Word) : x.chainAfter u lat = none := by
  rw [Ctx.chainAfter, hc]
  rfl

/-- A change of the issuing split alone, which goes on. -/
theorem Issues.retired_of_updSplit (h : Issues i s x) (ht : issue i s effect = .next t) {q : Split → Split}
    (he : effect x = .done (x.s.updSplit x.c q) []) (hc : (useOf x.mode x.mmode i).chainable = false) (hq : ∀ p, (q p).age = p.age) :
    OnlyGroup x.c.blk x.c.gid s t (Retired i x id fun p p' => p = x.p ∧ p' = { q x.p with
      pc := x.p.pc + 4, readyAt := x.now, walked := x.walkedAfter i, inval := [], early := [], qage := 0, again := none, wait := .none }) := by
  refine h.onlyGroup_of_done (f := fun g => g.updSplit x.c.age q) ht he rfl fun g ch hg hp => ?_
  have hage : ∀ p : Split, p.age = x.c.age → (q p).age = x.c.age := fun p h => (hq p).trans h
  have hpx : x.g.split? x.c.age = some x.p := by rw [hg]; exact hp
  refine ⟨?_, ⟨fun m hm => ?_, x.p, _, hp, ?_, rfl, rfl⟩, ?_⟩
  · rw [hg, Ctx.retired, x.chainAfter_of_not_chainable hc]
    exact ⟨_, _, rfl⟩
  · rw [x.split?_retired_ne i [] _ hm, Group.split?_updSplit_ne x.g q hage hm, hg]
    rfl
  · exact x.split?_retired_self i [] (Group.split?_updSplit_self q hage hpx)
  · rw [hg]
    rfl

theorem Retired.mono {upd : Group → Group} {S S' : Split → Split → Prop} {g g' : Group} (h : Retired i x upd S g g')
    (hS : ∀ p p', S p p' → S' p p') : Retired i x upd S' g g' := by
  obtain ⟨hg, ⟨hne, p, p', hp, hp', hpp⟩, hbad⟩ := h
  exact ⟨hg, ⟨hne, p, p', hp, hp', hS p p' hpp⟩, hbad⟩

end

end Sys2Proof.Machine
end

section
/-!
SUPPORT. MODE and MMODE as `setmode` and `setmmode` write them, and GANG (R111 to R115).
-/
-- One theorem after another: many at once need more memory than the check allows.
set_option Elab.async false

namespace Sys2Proof.Machine

theorem ofNat_field_mode (k : BitVec 16) : BitVec.ofNat 16 (field k 13 0) = k &&& 0x3FFF := by
  refine BitVec.eq_of_toNat_eq ?_
  rw [BitVec.toNat_ofNat, BitVec.toNat_and, field, slice, Nat.shiftRight_zero, show (0x3FFF : BitVec 16).toNat = 2 ^ 14 - 1 from rfl, Nat.and_two_pow_sub_one_eq_mod]
  exact Nat.mod_eq_of_lt ((Nat.mod_lt _ (by decide)).trans (by decide))

theorem ofNat_field_mmode (k : BitVec 16) : BitVec.ofNat 10 (field k 9 0) = k.setWidth 10 := by
  refine BitVec.eq_of_toNat_eq ?_
  rw [BitVec.toNat_ofNat, BitVec.toNat_setWidth, field, slice, Nat.shiftRight_zero]
  exact Nat.mod_mod _ _

theorem hasRepeat_eq_false_iff (l : List Nat) : hasRepeat l = false ↔ l.Nodup := by
  induction l with
  | nil => simp [hasRepeat]
  | cons y r ih => simp [hasRepeat, ih]

/-- Members are distinct where no two places hold equal ones. -/
theorem nodup_map_range_iff {f : Nat → Nat} {n : Nat} : ((List.range n).map f).Nodup ↔ ∀ i j, i < j → j < n → f i ≠ f j := by
  rw [List.Nodup, List.pairwise_map, List.pairwise_iff_getElem]
  simp only [List.getElem_range, List.length_range]
  exact ⟨fun h i j hij hj => h i j (hij.trans hj) hj hij, fun h i j _ hj hij => h i j hij hj⟩

/-- GANG takes count 0, or two to six distinct members below 32 of which the group is one (R115). -/
theorem gangOk_iff (v gid : Nat) : gangOk v gid = true ↔ v % 8 = 0 ∨ (2 ≤ v % 8 ∧ v % 8 ≤ 6 ∧ (∀ j < v % 8, gangField v j ≤ 31) ∧
    (∀ i j, i < j → j < v % 8 → gangField v i ≠ gangField v j) ∧ ∃ j < v % 8, gangField v j = gid) := by
  have hn : slice v 2 0 = v % 8 := rfl
  rw [← nodup_map_range_iff, ← hasRepeat_eq_false_iff]
  simp [gangOk, hn, and_assoc]

/-- Field j of the fields below a count, packed from field 0 up. -/
theorem packed_field (f : Nat → Nat) (hf : ∀ j, f j < 64) (n j : Nat) :
    ((List.range n).map fun j => f j * 2 ^ (6 * j)).sum / 2 ^ (6 * j) % 64 = if j < n then f j else 0 := by
  induction n generalizing f j with
  | zero => simp
  | succ n ih =>
    have hpeel : ((List.range (n + 1)).map fun j => f j * 2 ^ (6 * j)).sum =
        f 0 + 64 * ((List.range n).map fun j => f (j + 1) * 2 ^ (6 * j)).sum := by
      rw [List.range_succ_eq_map, List.map_cons, List.sum_cons, List.map_map, ← List.sum_map_mul_left]
      congr 2
      · simp
      · exact List.map_congr_left fun j _ => by simp only [Function.comp_apply, Nat.succ_eq_add_one]; ring
    rw [hpeel]
    cases j with
    | zero => simp [Nat.mod_eq_of_lt (hf 0)]
    | succ j =>
      have hlow : (f 0 + 64 * ((List.range n).map fun j => f (j + 1) * 2 ^ (6 * j)).sum) / 64 =
          ((List.range n).map fun j => f (j + 1) * 2 ^ (6 * j)).sum := by have := hf 0; omega
      rw [show 2 ^ (6 * (j + 1)) = 64 * 2 ^ (6 * j) by ring, ← Nat.div_div_eq_div_mul, hlow, ih (fun j => f (j + 1)) fun j => hf _]
      simp

theorem packed_lt (f : Nat → Nat) (hf : ∀ j, f j < 64) (n : Nat) : ((List.range n).map fun j => f j * 2 ^ (6 * j)).sum < 2 ^ (6 * n) := by
  induction n with
  | zero => simp
  | succ n ih =>
    rw [List.range_succ, List.map_append, List.sum_append, List.map_singleton, List.sum_singleton, show 2 ^ (6 * (n + 1)) = 64 * 2 ^ (6 * n) by ring]
    have := Nat.mul_le_mul_right (2 ^ (6 * n)) (Nat.le_of_lt_succ (hf n))
    omega

theorem gangField_eq (v j : Nat) : gangField v j = v / 2 ^ (6 * j + 6) % 64 := by
  rw [gangField, slice, Nat.shiftRight_eq_div_pow, show 6 * j + 11 + 1 - (6 * j + 6) = 6 by omega]
  rfl

/-- GANG holds COUNT, and the member fields below it (R114). -/
theorem gangStored_toNat {v : Nat} (hv : v % 8 ≤ 6) :
    (gangStored v).toNat = v % 8 + 64 * ((List.range (v % 8)).map fun j => gangField v j * 2 ^ (6 * j)).sum := by
  have hsum : ((List.range (v % 8)).map fun j => gangField v j * 2 ^ (6 * j + 6)).sum =
      64 * ((List.range (v % 8)).map fun j => gangField v j * 2 ^ (6 * j)).sum := by
    rw [← List.sum_map_mul_left]
    exact congrArg List.sum (List.map_congr_left fun j _ => by ring)
  have hlt : ((List.range (v % 8)).map fun j => gangField v j * 2 ^ (6 * j)).sum < 2 ^ 36 :=
    (packed_lt _ (fun j => by rw [gangField_eq]; exact Nat.mod_lt _ (by decide)) _).trans_le (Nat.pow_le_pow_right (by decide) (by omega))
  rw [gangStored, BitVec.toNat_ofNat, show slice v 2 0 = v % 8 from rfl, hsum]
  exact Nat.mod_eq_of_lt (by omega)

theorem gangStored_fields {v j : Nat} (hv : v % 8 ≤ 6) : (gangStored v).toNat % 8 = v % 8 ∧
    gangField (gangStored v).toNat j = if j < v % 8 then v / 2 ^ (6 * j + 6) % 64 else 0 := by
  have hf : ∀ j, gangField v j < 64 := fun j => by rw [gangField_eq]; exact Nat.mod_lt _ (by decide)
  rw [gangField_eq, gangStored_toNat hv, ← gangField_eq v j, ← packed_field _ hf]
  refine ⟨by omega, ?_⟩
  rw [show 2 ^ (6 * j + 6) = 64 * 2 ^ (6 * j) by ring, ← Nat.div_div_eq_div_mul]
  congr 2
  omega

end Sys2Proof.Machine
end

section
-- One theorem after another: many at once need more memory than the check allows.
set_option Elab.async false

open Sys2Proof Sys2Proof.Machine

/-- Settles O22: a legal value is a change of the split alone; a reserved one is the effect's fault. -/
theorem modeWritesTakeLegalValuesOnly : Obligations.ModeWritesTakeLegalValuesOnly := by
  unfold Obligations.ModeWritesTakeLegalValuesOnly
  have het (k : BitVec 16) : field k 7 4 = k.toNat / 16 % 16 := by simp [field, slice, Nat.shiftRight_eq_div_pow]
  have hrm (k : BitVec 16) : field k 10 8 = k.toNat / 256 % 8 := by simp [field, slice, Nat.shiftRight_eq_div_pow]
  have huse (k : BitVec 16) : field k 6 4 = k.toNat / 16 % 8 := by simp [field, slice, Nat.shiftRight_eq_div_pow]
  refine fun k s => ⟨.of_forall rfl fun x hx t ht h1 h2 => ?mode, .of_forall rfl fun x hx t ht h => ?mmode, fun x hx h => ?modeTrap, fun x hx h => ?mmodeTrap⟩
  case mode =>
    refine (hx.retired_of_updSplit (q := fun p => { p with mode := BitVec.ofNat 16 (field k 13 0) }) ht (if_neg ?_) (by simp) fun _ => rfl).mono
      fun g g' hg => hg.mono ?_
    · rw [het, hrm]
      omega
    · rintro p p' ⟨rfl, rfl⟩
      exact ⟨ofNat_field_mode k, rfl, rfl, rfl, rfl, rfl⟩
  case mmode =>
    refine (hx.retired_of_updSplit (q := fun p => { p with mmode := BitVec.ofNat 10 (field k 9 0) }) ht (if_neg ?_) (by simp) fun _ => rfl).mono
      fun g g' hg => hg.mono ?_
    · rw [huse]
      omega
    · rintro p p' ⟨rfl, rfl⟩
      exact ⟨ofNat_field_mmode k, rfl, rfl, rfl, rfl, rfl⟩
  case modeTrap => exact issue_of_trap hx (if_pos (by rw [het, hrm]; exact h))
  case mmodeTrap => exact issue_of_trap hx (if_pos (by rw [huse]; exact h))
end

section
-- One theorem after another: many at once need more memory than the check allows.
set_option Elab.async false

open Sys2Proof Sys2Proof.Machine

/-- Settles O23: a checked list is a change of the split alone; the fields of the list by its digits to base 64. -/
theorem gangTakesCheckedMemberLists : Obligations.GangTakesCheckedMemberLists := by
  unfold Obligations.GangTakesCheckedMemberLists
  refine ⟨fun a s => ⟨.of_forall rfl fun x hx t ht hok => ?_, fun x hx hbad => issue_of_trap hx (if_neg (by simp [hbad]))⟩, gangOk_iff,
    fun v j hv _ => gangStored_fields hv⟩
  refine (hx.retired_of_updSplit (q := fun p => { p with gang := gangStored (x.rds a).toNat }) ht (if_pos hok) (by simp) fun _ => rfl).mono
    fun g g' hg => hg.mono ?_
  rintro p p' ⟨rfl, rfl⟩
  exact ⟨rfl, rfl, rfl, rfl, rfl, rfl⟩
end

section
/-!
SUPPORT. System registers (R117, R195): their fields, and a write of the core's MGATE.
-/
-- One theorem after another: many at once need more memory than the check allows.
set_option Elab.async false

namespace Sys2Proof.Machine

section
variable (x : Ctx)

theorem Ctx.sysReg_block : x.sysReg 0x14 % 64 = x.b.groups.length % 64 ∧ x.sysReg 0x14 / 256 % 64 = x.b.attachedCount % 64 := by
  simp only [Ctx.sysReg, packFields]
  omega

theorem Ctx.sysReg_splits : x.sysReg 0x20 % 8 = (x.g.splits.filter fun p => p.live).length % 8 ∧
    x.sysReg 0x20 / 256 % 32 = x.g.splits.length % 32 := by
  simp only [Ctx.sysReg, packFields, Group.liveCount]
  omega

theorem Ctx.sysReg_lanes : x.sysReg 0x21 = x.active.toNat + 2 ^ 32 * x.g.alive.toNat := by
  simp only [Ctx.sysReg, packFields]
  rw [Nat.mod_eq_of_lt x.active.isLt, Nat.mod_eq_of_lt x.g.alive.isLt, Nat.mul_zero, Nat.add_zero]

theorem Ctx.sysReg_registers : x.sysReg 0x30 % 256 = x.g.baseN % 256 ∧ x.sysReg 0x30 / 256 % 16 = x.g.ext % 16 ∧
    x.sysReg 0x30 / 2 ^ 16 % 256 = x.g.bound % 256 := by
  simp only [Ctx.sysReg, packFields]
  omega

end

section
variable (x : Ctx) (d : BitVec 6)

/-- TRAPVEC keeps 57 bits. -/
theorem Ctx.writeTrapVec : Res.done (x.s.updCur x.c fun g => { g with trapVec := BitVec.ofNat 64 (field (x.rds d) 56 0) }) [] =
    .done (x.s.updCur x.c fun g => { g with trapVec := ((x.rds d).setWidth 57).setWidth 64 }) [] := by
  have hvec : BitVec.ofNat 64 (field (x.rds d) 56 0) = ((x.rds d).setWidth 57).setWidth 64 :=
    BitVec.eq_of_toNat_eq (by simp [field, slice])
  rw [hvec]

/-- A zero AQUANT is ignored (R118). -/
theorem Ctx.writeQuantum : x.writeSysReg 0x51 (x.rds d) = .done (x.s.updCur x.c fun g =>
    if (x.rds d).toNat % 2 ^ 16 = 0 then g else { g with aquant := (x.rds d).setWidth 16 }) [] := by
  have hfield : field (x.rds d) 15 0 = (x.rds d).toNat % 2 ^ 16 := rfl
  by_cases h : (x.rds d).toNat % 2 ^ 16 = 0
  · refine (if_pos (hfield.trans h)).trans ?_
    simp only [h, if_true, State.updCur_id]
    rfl
  · refine (if_neg (hfield ▸ h)).trans ?_
    simp only [h, if_false]

/-- The decode checks let `swr` name only the registers that take writes (R195). -/
theorem writable_of_check {x : Ctx} {d : BitVec 6} {k : BitVec 16} (h : x.check (.swr d k) = none) :
    k = 0x44 ∨ k = 0x50 ∨ k = 0x51 ∨ k = 0x60 := by
  have hb : badOperand x.mode x.mmode (.swr d k) = false := by
    by_contra hb
    rw [Ctx.check_of_badOperand (Bool.not_eq_false _ ▸ hb)] at h
    cases h
  have hmem : k.toNat ∈ sysRegsRW := by simpa [badOperand] using hb
  simpa [sysRegsRW, BitVec.toNat_eq] using hmem

end

section
variable {i : Instr} {s t : State} {x : Ctx} {effect : Ctx → Res}

/-- A change of the issuing group's core, and the split goes on. -/
theorem Issues.retired_of_updCore (h : Issues i s x) (ht : issue i s effect = .next t) {f : Core → Core}
    (he : effect x = .done (x.s.updCore x.b.stk x.b.core f) []) (hc : (useOf x.mode x.mmode i).chainable = false) :
    OnlyBlocksAndCores s t ∧ OneGroup x.c.blk x.c.gid s t (Retired i x id Advanced) ∧ t.core x.b.stk x.b.core = f (s.core x.b.stk x.b.core) := by
  have hid : x.s.updSplit x.c id = x.s := by
    have hg : (fun g : Group => g.updSplit x.c.age id) = fun g => g := funext fun g => by simp [Group.updSplit]
    rw [State.updSplit, hg, State.updCur_id]
  obtain ⟨⟨l, hl⟩, hone⟩ := h.retired_of_updSplit (effect := Ctx.nothing) (t := x.retire i x.s []) (q := id) (issue_of_issues h _)
    (by rw [hid]; rfl) hc fun _ => rfl
  rw [issue_of_issues h, he] at ht
  have ht' : t = (x.retire i x.s []).updCore x.b.stk x.b.core f := (Host.Outcome.next.inj ht).symm
  subst ht'
  refine ⟨⟨l, _, s.badLines, by rw [hl]; rfl⟩, OneGroup.mono hone fun g g' hg => hg.mono ?_, ?_⟩
  · rintro p p' ⟨rfl, rfl⟩
    exact ⟨rfl, rfl, rfl, rfl, rfl, rfl, rfl, rfl⟩
  · rw [State.core_updCore_self, hl]
    rfl

end

end Sys2Proof.Machine
end

section
-- One theorem after another: many at once need more memory than the check allows.
set_option Elab.async false

open Sys2Proof Sys2Proof.Machine

/-- Settles O28: the table by its fields; a write is a change of the group, or of the core for MGATE (R117, R118, R195). -/
theorem systemRegistersReadAndTakeWrites : Obligations.SystemRegistersReadAndTakeWrites := by
  unfold Obligations.SystemRegistersReadAndTakeWrites
  refine ⟨fun d k s => .scalarOf rfl fun _ => rfl, fun x => ?table, fun d s => ⟨.of_forall rfl fun x hx t ht => ⟨fun h => ?vec, fun h => ?odd⟩,
    fun x hx => ?seed, fun x hx => ?quant, .of_forall rfl fun x hx t ht => hx.retired_of_updCore (effect := fun x => x.writeSysReg 0x60 (x.rds d)) ht rfl (by simp)⟩,
    fun d k s x hx => ?writable, fun seed l hl => nth_map_range _ _ 32 l hl⟩
  case table =>
    obtain ⟨hgroups, hattached⟩ := x.sysReg_block
    obtain ⟨hlive, hsplits⟩ := x.sysReg_splits
    obtain ⟨hbase, hext, hbound⟩ := x.sysReg_registers
    exact ⟨rfl, rfl, rfl, rfl, rfl, rfl, hgroups, hattached, rfl, rfl, rfl, hlive, hsplits, rfl, rfl, x.sysReg_lanes, hbase, hext, hbound,
      rfl, rfl, rfl, rfl, rfl, rfl, rfl, rfl, rfl, rfl, rfl, rfl, rfl, rfl⟩
  case vec =>
    obtain ⟨u, hu, hdoes⟩ := issue_does (effect := fun x => x.writeSysReg 0x44 (x.rds d)) hx ((if_neg (by simp [h])).trans (x.writeTrapVec d)) (by simp)
      (fun _ _ => rfl) fun _ => ⟨rfl, rfl, rfl⟩
    exact next_unique ht hu ▸ hdoes
  case odd => exact next_unique ht (issue_of_trap (effect := fun x => x.writeSysReg 0x44 (x.rds d)) hx (if_pos h))
  case seed => exact issue_does (effect := fun x => x.writeSysReg 0x50 (x.rds d)) hx rfl (by simp) (fun _ _ => rfl) fun _ => ⟨rfl, rfl, rfl⟩
  case quant =>
    refine issue_does (effect := fun x => x.writeSysReg 0x51 (x.rds d)) hx (x.writeQuantum d) (by simp) (fun g ch => ?_) fun g => ?_
    · split <;> rfl
    · split <;> exact ⟨rfl, rfl, rfl⟩
  case writable => exact writable_of_check hx.2.1
end

section
/-!
SUPPORT. Changes of the splits of a group that leave what the spec gives of each: its place, lanes, modes and wait (R40, R42).
-/
-- One theorem after another: many at once need more memory than the check allows.
set_option Elab.async false

namespace Sys2Proof.Machine

/-- The spec's part of a split stays. -/
def Split.Alike (p q : Split) : Prop := q.age = p.age ∧ q.stands = p.stands ∧ q.handler = p.handler ∧ q.stop = p.stop

/-- Every split of the group stays alike, and nothing else changes. -/
def Group.Alike (g g' : Group) : Prop := ∃ f : Split → Split, (∀ p : Split, p.Alike (f p)) ∧ g' = { g with splits := g.splits.map f }

theorem Group.Alike.refl (g : Group) : g.Alike g := ⟨id, fun _ => ⟨rfl, rfl, rfl, rfl⟩, by simp⟩

theorem Group.Alike.trans {g g' g'' : Group} (h : g.Alike g') (h' : g'.Alike g'') : g.Alike g'' := by
  obtain ⟨f, hf, rfl⟩ := h
  obtain ⟨f', hf', rfl⟩ := h'
  refine ⟨f' ∘ f, fun p => ?_, by simp⟩
  obtain ⟨hage, hstands, hhandler, hstop⟩ := hf p
  obtain ⟨hage', hstands', hhandler', hstop'⟩ := hf' (f p)
  exact ⟨hage'.trans hage, hstands'.trans hstands, hhandler'.trans hhandler, hstop'.trans hstop⟩

section
variable {g g' : Group} (h : g.Alike g')
include h

theorem Group.Alike.frame : ∃ splits, g' = { g with splits := splits } := by
  obtain ⟨f, -, rfl⟩ := h
  exact ⟨_, rfl⟩

theorem Group.Alike.split? (a : Nat) : ∃ f : Split → Split, (∀ p : Split, p.Alike (f p)) ∧ g'.split? a = (g.split? a).map f := by
  obtain ⟨f, hf, rfl⟩ := h
  refine ⟨f, hf, ?_⟩
  have hkey : (fun x : Split => x.age == a) ∘ f = fun x => x.age == a := funext fun x => by simp [(hf x).1]
  simp only [Group.split?, List.find?_map, hkey]

theorem Group.Alike.exists_of_mem {p : Split} (hp : p ∈ g.splits) : ∃ q ∈ g'.splits, p.Alike q := by
  obtain ⟨f, hf, rfl⟩ := h
  exact ⟨f p, List.mem_map_of_mem hp, hf p⟩

theorem Group.Alike.of_mem {q : Split} (hq : q ∈ g'.splits) : ∃ p ∈ g.splits, p.Alike q := by
  obtain ⟨f, hf, rfl⟩ := h
  obtain ⟨p, hp, rfl⟩ := List.mem_map.1 hq
  exact ⟨p, hp, hf p⟩

end

theorem Group.alike_updSplit (g : Group) (a : Nat) {f : Split → Split} (hf : ∀ p : Split, p.Alike (f p)) : g.Alike (g.updSplit a f) := by
  refine ⟨fun p => if p.age = a then f p else p, fun p => ?_, rfl⟩
  dsimp only
  split
  · exact hf p
  · exact ⟨rfl, rfl, rfl, rfl⟩

theorem Group.alike_promote (now n : Nat) (g : Group) : g.Alike (g.promote now n) := by
  induction n generalizing g with
  | zero => exact .refl g
  | succ n ih =>
    rw [Group.promote]
    split
    · exact .refl g
    · split
      · exact .refl g
      · refine .trans (g.alike_updSplit _ ?_) (ih _)
        exact fun _ => ⟨rfl, rfl, rfl, rfl⟩

theorem Group.alike_refill (now : Nat) (g : Group) : g.Alike (g.refill now) := g.alike_promote now 4

theorem Group.Alike.close {g g' : Group} (h : g.Alike g') : Group.Alike { g with chain := none } { g' with chain := none } := by
  obtain ⟨f, hf, rfl⟩ := h
  exact ⟨f, hf, rfl⟩

/-- What leaving does to the splits of a group whose chain is closed. -/
theorem Ctx.alike_left (x : Ctx) (g : Group) : Group.Alike { g with chain := none } (x.left g) :=
  Group.alike_updSplit { g with chain := none } x.c.age fun _ => ⟨rfl, rfl, rfl, rfl⟩

end Sys2Proof.Machine
end

section
/-!
SUPPORT. The end of a handler (R187).
-/
-- One theorem after another: many at once need more memory than the check allows.
set_option Elab.async false

namespace Sys2Proof.Machine

section
variable {g : Group} {h : Handler} {now : Nat}

/-- A handler with a split that has not returned goes on. -/
theorem Group.handlerEnd_of_running {q : Split} (hq : q ∈ g.splits) (hh : q.handler = true) (hw : q.wait ≠ .returned) :
    g.handlerEnd now = g := by
  unfold Group.handlerEnd
  split
  · rfl
  · refine if_neg fun hall => hw ?_
    have := List.all_eq_true.1 hall q (List.mem_filter.2 ⟨hq, hh⟩)
    simp only [Bool.and_eq_true, decide_eq_true_eq] at this
    exact this.1

/-- The lanes of a list of splits. -/
theorem getLsbD_foldl_mask (l : List Split) (m : LaneMask) (k : Nat) :
    (l.foldl (fun m q => m ||| q.mask) m).getLsbD k = true ↔ m.getLsbD k = true ∨ ∃ q ∈ l, q.mask.getLsbD k = true := by
  induction l generalizing m with
  | nil => simp
  | cons p r ih => simp [ih, or_assoc]

theorem Group.gid_refill (now : Nat) (g : Group) : (g.refill now).gid = g.gid := by
  obtain ⟨splits, h⟩ := (g.alike_refill now).frame
  rw [h]

theorem Group.gid_handlerEnd (now : Nat) (g : Group) : (g.handlerEnd now).gid = g.gid := by
  unfold Group.handlerEnd
  split
  · rfl
  · dsimp only
    split
    · split
      · exact Group.gid_refill ..
      · exact Group.gid_refill ..
    · rfl

/-- The split of the lanes that have returned, where the handler was entered or after the instruction (R187). -/
def Handler.Return (h : Handler) (g : Group) (q : Split) : Prop :=
  q.age = h.age ∧ q.mode = h.mode ∧ q.mmode = h.mmode ∧ q.gang = h.gang ∧ q.wait = .none ∧
    (q.pc = if h.cause = 0x1A ∨ h.cause = 0x1B then h.pc + 4 else h.pc) ∧ q.handler = false ∧
    ∀ k, q.mask.getLsbD k = true ↔ ∃ r ∈ g.splits, r.handler = true ∧ r.mask.getLsbD k = true

/-- When every handler split has returned the handler ends: the other splits stay, and the returned lanes form one. -/
theorem Group.handlerEnd_of_returned (hh : g.handler = some h)
    (hall : ∀ q ∈ g.splits, q.handler = true → q.wait = .returned ∧ q.stop = false) :
    ∃ back, Group.Alike { g with handler := none, splits := (g.splits.filter fun p => !p.handler) ++ back } (g.handlerEnd now) ∧
      (∀ q ∈ back, h.Return g q) ∧ ((∃ q ∈ g.splits, q.handler = true) → back ≠ []) := by
  have hret : (g.splits.filter (·.handler)).all (fun p => decide (p.wait = .returned) && !p.stop) = true := by
    refine List.all_eq_true.2 fun q hq => ?_
    obtain ⟨hmem, hhandler⟩ := List.mem_filter.1 hq
    simpa using hall q hmem hhandler
  rw [Group.handlerEnd, hh]
  simp only [hret, if_true]
  split
  · rename_i hnil
    have hothers : g.splits.filter (fun p => !p.handler) = g.splits :=
      List.filter_eq_self.2 fun p hp => by simpa using List.filter_eq_nil_iff.1 hnil p hp
    refine ⟨[], ?_, by simp, fun ⟨q, hq, hqh⟩ => absurd hqh (List.filter_eq_nil_iff.1 hnil q hq)⟩
    rw [hothers, List.append_nil]
    exact Group.alike_refill ..
  · rename_i p r hcons
    refine ⟨[_], Group.alike_refill .., ?_, by simp⟩
    intro q hq
    rw [List.mem_singleton.1 hq]
    refine ⟨rfl, rfl, rfl, rfl, rfl, rfl, rfl, fun k => ?_⟩
    simp [getLsbD_foldl_mask, and_assoc]

end
end Sys2Proof.Machine
end

section
/-!
SUPPORT. `tret` (R187): the issuing group after it.
-/
-- One theorem after another: many at once need more memory than the check allows.
set_option Elab.async false

namespace Sys2Proof.Machine

section
variable {i : Instr} {s : State} {x : Ctx} {g : Group}

/-- The issuing block, in the state that the effect starts from. -/
theorem Ctx.Of.block (h : Ctx.Of i s x g) : x.s.block? x.c.blk = some (x.b.updGroup x.c.gid fun _ => x.g) := by
  rw [h.st]
  exact State.block?_updBlock_self _ (fun _ h => h) h.blk

/-- The issuing group after `tret`. -/
def Ctx.returned (x : Ctx) : Group := x.g.updSplit x.c.age fun p => { p with wait := .returned }

theorem Ctx.Of.returnHandler (h : Ctx.Of i s x g) : x.s.returnHandler x.c = x.s.updCur x.c fun _ => x.returned.handlerEnd x.now := by
  rw [State.returnHandler, h.block]
  exact h.updCur_congr rfl

theorem Ctx.mem_returned {q : Split} : q ∈ x.returned.splits ↔
    ∃ p ∈ x.g.splits, (if p.age = x.c.age then { p with wait := .returned } else p) = q := List.mem_map

/-- But for the wait a split that returns stays. -/
theorem Ctx.of_mem_returned {q : Split} (hq : q ∈ x.returned.splits) : ∃ p ∈ x.g.splits, q.handler = p.handler ∧ q.stop = p.stop ∧
    q.mask = p.mask ∧ q.wait = if p.age = x.c.age then .returned else p.wait := by
  obtain ⟨p, hp, rfl⟩ := Ctx.mem_returned.1 hq
  refine ⟨p, hp, ?_⟩
  split <;> exact ⟨rfl, rfl, rfl, rfl⟩

theorem Ctx.returned_lanes (x : Ctx) (k : Nat) : (∃ q ∈ x.returned.splits, q.handler = true ∧ q.mask.getLsbD k = true) ↔
    ∃ p ∈ x.g.splits, p.handler = true ∧ p.mask.getLsbD k = true := by
  constructor
  · rintro ⟨q, hq, hh, hk⟩
    obtain ⟨p, hp, hhandler, -, hmask, -⟩ := Ctx.of_mem_returned hq
    exact ⟨p, hp, hhandler ▸ hh, hmask ▸ hk⟩
  · rintro ⟨p, hp, hh, hk⟩
    refine ⟨_, Ctx.mem_returned.2 ⟨p, hp, rfl⟩, ?_⟩
    split <;> exact ⟨hh, hk⟩

theorem Ctx.Of.split?_returned (ho : Ctx.Of i s x g) : x.returned.split? x.c.age = some { x.p with wait := .returned } :=
  Group.split?_updSplit_self (fun p => { p with wait := .returned }) (fun _ h => h) ho.split

/-- The last `tret` of a handler: no handler split is left, and the returned lanes stand in one split. -/
theorem Ctx.Of.tret_ends (ho : Ctx.Of i s x g) (hp : x.p.handler = true) {h : Handler} (hh : x.g.handler = some h)
    (hall : ∀ q ∈ x.g.splits, q.handler = true → q.stop = false ∧ (q.age ≠ x.c.age → q.wait = .returned)) :
    let g' := x.left (x.returned.handlerEnd x.now)
    (∃ splits, g' = { x.g with splits := splits, chain := none, handler := none }) ∧ (∀ q ∈ g'.splits, q.handler = false) ∧
      ∃ q ∈ g'.splits, q.age = h.age ∧ q.mode = h.mode ∧ q.mmode = h.mmode ∧ q.gang = h.gang ∧ q.wait = .none ∧
        (q.pc = if h.cause = 0x1A ∨ h.cause = 0x1B then h.pc + 4 else h.pc) ∧
        ∀ l < 32, q.mask.getLsbD l = true ↔ ∃ r ∈ x.g.splits, r.handler = true ∧ r.mask.getLsbD l = true := by
  intro g'
  have hret : ∀ q ∈ x.returned.splits, q.handler = true → q.wait = .returned ∧ q.stop = false := fun q hq hqh => by
    obtain ⟨p, hpm, hhandler, hstop, -, hwait⟩ := Ctx.of_mem_returned hq
    obtain ⟨hs, hw⟩ := hall p hpm (hhandler ▸ hqh)
    exact ⟨hwait.trans (by split <;> [rfl; exact hw ‹_›]), hstop.trans hs⟩
  obtain ⟨back, halike, hback, hne⟩ := Group.handlerEnd_of_returned (g := x.returned) (now := x.now) hh hret
  have hleft : Group.Alike _ g' := halike.close.trans (x.alike_left _)
  obtain ⟨q, hq⟩ := List.exists_mem_of_ne_nil back (hne ⟨_, List.mem_of_find?_eq_some ho.split?_returned, hp⟩)
  obtain ⟨hage, hmode, hmmode, hgang, hwait, hpc, -, hmask⟩ := hback q hq
  obtain ⟨q', hq', hage', hstands, -, -⟩ := hleft.exists_of_mem (List.mem_append_right _ hq)
  simp only [Split.stands, Prod.mk.injEq] at hstands
  obtain ⟨hpc', hmask', hmode', hmmode', hgang', hwait'⟩ := hstands
  refine ⟨hleft.frame, fun r hr => ?_, q', hq', hage'.trans hage, hmode'.trans hmode, hmmode'.trans hmmode, hgang'.trans hgang,
    hwait'.trans hwait, hpc'.trans hpc, fun l _ => ?_⟩
  · obtain ⟨r0, hr0, -, -, hhandler, -⟩ := hleft.of_mem hr
    rw [hhandler]
    rcases List.mem_append.1 hr0 with h0 | h0
    · simpa using (List.mem_filter.1 h0).2
    · obtain ⟨-, -, -, -, -, -, h0, -⟩ := hback r0 h0
      exact h0
  · rw [hmask', hmask, x.returned_lanes]

end
end Sys2Proof.Machine
end

section
-- One theorem after another: many at once need more memory than the check allows.
set_option Elab.async false

open Sys2Proof Sys2Proof.Machine

/-- Settles O26: the faults are the effects' own; `tret` marks the split returned and ends the handler with the last one (R186, R187). -/
theorem trapsEnterAndTretReturns : Obligations.TrapsEnterAndTretReturns := by
  unfold Obligations.TrapsEnterAndTretReturns
  refine fun k w s => ⟨.of_forall rfl fun x hx t ht => ⟨fun h => ?nothing, fun h => ?trap⟩,
    fun x hx => ⟨_, issue_of_trap (effect := fun x => .trap ⟨0x1B, k.toNat, some x.active⟩) hx rfl, rfl⟩,
    fun x hx => ⟨_, issue_of_trap (effect := fun _ => .trap ⟨0x01, w.toNat, none⟩) hx rfl, rfl⟩,
    .of_forall rfl fun x hx t ht => ⟨fun h => ?outside, fun hp h hh => ⟨fun ⟨q, hq, hqh, hqa, hqw⟩ => ?running, fun hall => ?ends⟩⟩⟩
  case nothing =>
    obtain ⟨u, hu, hw⟩ := issue_nothing hx (effect := fun x => if x.act = 0 then x.nothing else _) (if_pos h) (by simp)
    exact next_unique ht hu ▸ hw
  case trap => exact next_unique ht (issue_of_trap hx (if_neg h))
  case outside => exact next_unique ht (issue_of_trap hx (if_neg (by simp [h])))
  case running =>
    obtain ⟨g0, ho⟩ := hx.1.of
    have hmem : q ∈ x.returned.splits := Ctx.mem_returned.2 ⟨q, hq, if_neg hqa⟩
    refine hx.onlyGroup_of_jump (f := fun _ => x.returned.handlerEnd x.now) ht ((if_pos hp).trans (by rw [ho.returnHandler]))
      (Group.gid_handlerEnd ..) fun g ch hg hpx => ?_
    rw [Group.handlerEnd_of_running hmem hqh hqw]
    refine ⟨?_, fun m hm => ?_, x.p, _, hpx, x.split?_left_self ho.split?_returned, rfl⟩
    · rw [Ctx.returned, hg]
      exact ⟨_, _, _, rfl⟩
    · rw [x.split?_left_ne _ hm, Ctx.returned, Group.split?_updSplit_ne x.g (fun p => { p with wait := .returned }) (fun _ h => h) hm, hg]
      rfl
  case ends =>
    obtain ⟨g0, ho⟩ := hx.1.of
    refine hx.onlyGroup_of_jump (f := fun _ => x.returned.handlerEnd x.now) ht ((if_pos hp).trans (by rw [ho.returnHandler]))
      (Group.gid_handlerEnd ..) fun g ch hg hpx => ?_
    obtain ⟨⟨splits, hframe⟩, hrest⟩ := ho.tret_ends hp hh hall
    exact ⟨⟨splits, by rw [hframe, hg]⟩, hrest⟩
end

section
/-!
SUPPORT. `call` (R184): its checks, and the issuing group after it.
-/
-- One theorem after another: many at once need more memory than the check allows.
set_option Elab.async false

namespace Sys2Proof.Machine

section
variable {i : Instr} {s : State} {x : Ctx} {g : Group} {d : BitVec 7} {k : BitVec 16}

/-- An instruction that names no latch stands at position 0 of no chain (R80). -/
theorem Ctx.Of.no_hazard (ho : Ctx.Of i s x g) (hl : (useOf x.p.mode x.p.mmode i).lat = []) :
    x.pos = 0 ∧ x.g.chain = none := by
  have hpos : x.pos = 0 := by
    rw [ho.pos, chainPos, hl]
    cases g.chain <;> simp
  rw [ho.closed, if_pos hpos]
  exact ⟨hpos, rfl⟩

/-- `call` fails no check before the bound of its register. -/
theorem Ctx.Of.check_call (ho : Ctx.Of (.call d k) s x g) :
    x.check (.call d k) = if x.g.bound ≤ d.toNat then some (x.regRange (.call d k)) else none := by
  obtain ⟨hpos, hchain⟩ := ho.no_hazard rfl
  have hu : useOf x.mode x.mmode (.call d k) = Use.plain.vdst d.toNat 1 := rfl
  have hlat : latchRange (Use.plain.vdst d.toNat 1) x.pos = false := rfl
  have hhazard : chainHazard x.g.chain (Use.plain.vdst d.toNat 1) x.gp x.pos = false := by rw [hchain]; rfl
  have hbound : ((Use.plain.vdst d.toNat 1).vn.any fun r => decide (x.g.bound ≤ r)) = decide (x.g.bound ≤ d.toNat) := by
    simp [Use.vdst, Use.plain]
  simp [Ctx.check, hu, hlat, hhazard, hbound, badOperand, isPrivileged]

/-- The link in every active lane (R184). -/
def Ctx.linked (x : Ctx) (d : BitVec 7) (k : BitVec 16) (g : Group) : Group :=
  { g.setLanes d.toNat x.active fun _ => (x.p.pc + 4).setWidth 32 with bad := (useOf x.mode x.mmode (.call d k)).mend g.bad }

/-- A split goes on at another address. -/
def Split.jumpTo (pc : BitVec 57) (now : Nat) (p : Split) : Split := { p with pc := pc, readyAt := now }

theorem exec_call (hx : Issues (.call d k) s x) :
    exec (.call d k) s = .next (x.leave (x.s.updCur x.c fun _ => (x.linked d k x.g).updSplit x.c.age (.jumpTo (x.target k.toInt) x.now))) := by
  obtain ⟨g, ho⟩ := hx.1.of
  have hst : (x.s.updCur x.c (x.linked d k)).updSplit x.c (.jumpTo (x.target k.toInt) x.now) =
      x.s.updCur x.c fun _ => (x.linked d k x.g).updSplit x.c.age (.jumpTo (x.target k.toInt) x.now) := by
    rw [State.updSplit, State.updCur_updCur _ _ (x.linked d k) _ fun _ h => h]
    exact ho.updCur_congr rfl
  rw [← hst]
  exact issue_of_issues hx fun x => .jump ((x.s.updCur x.c (x.linked d k)).updSplit x.c (.jumpTo (x.target k.toInt) x.now))

end

end Sys2Proof.Machine
end

section
-- One theorem after another: many at once need more memory than the check allows.
set_option Elab.async false

open Sys2Proof Sys2Proof.Machine

/-- Settles O20: the bound is the one check that can fail; the link is a vector write in every active lane (R184). -/
theorem callLinksEveryActiveLane : Obligations.CallLinksEveryActiveLane := by
  unfold Obligations.CallLinksEveryActiveLane
  refine fun d k s x => ⟨fun hx hc => ?_, fun hx hb => ?_, fun hx => ?_⟩
  · obtain ⟨g, ho⟩ := hx.of
    by_contra hb
    rw [ho.check_call, if_pos (not_lt.1 hb)] at hc
    cases hc
  · obtain ⟨g, ho⟩ := hx.of
    obtain ⟨effect, he⟩ := exec_eq_issue (i := .call d k) rfl s
    exact he.trans (issue_of_check hx (ho.check_call.trans (if_pos hb)) effect)
  · obtain ⟨g0, ho⟩ := hx.1.of
    have hlinked : (x.linked d k x.g).split? x.c.age = some x.p := ho.split
    refine ⟨_, exec_call hx, hx.onlyGroup_of_jump (effect := fun _ => .jump _) (issue_of_issues hx _) rfl rfl fun g ch hg hp => ?_⟩
    refine ⟨?_, ?_, ⟨fun m hm => ?_, x.p, _, hp, x.split?_left_self (Group.split?_updSplit_self (.jumpTo (x.target k.toInt) x.now) (fun _ h => h) hlinked),
      rfl, rfl, rfl, rfl, rfl, rfl, rfl, rfl, rfl⟩, fun r l hl => ?_⟩
    · rw [Ctx.linked, hg]
      exact ⟨_, _, _, rfl⟩
    · rw [Ctx.linked, hg]
      rfl
    · rw [x.split?_left_ne _ hm, Group.split?_updSplit_ne _ (.jumpTo (x.target k.toInt) x.now) (fun _ h => h) hm, Ctx.linked, hg]
      rfl
    · refine (Group.vreg_setLanes x.g d.toNat x.active (fun _ => (x.p.pc + 4).setWidth 32) r l hl).trans ?_
      rw [hg]
      rfl
end

section
/-!
SUPPORT. The division of a split (R39, R40), and the split that every active lane goes on in.
-/
-- One theorem after another: many at once need more memory than the check allows.
set_option Elab.async false

namespace Sys2Proof.Machine

/-! ## The parts of a division -/

/-- Placing the splits of a division leaves what the spec gives of each, and every other split (R40). -/
theorem Group.placeDivision_eq (g : Group) (now : Nat) (ages : List Nat) : ∃ f : Split → Split, (∀ p : Split, p.Alike (f p)) ∧
    (∀ p : Split, p.age ∉ ages → f p = p) ∧ g.placeDivision now ages = { g with splits := g.splits.map f } := by
  refine ⟨_, fun p => ?_, fun p hp => ?_, rfl⟩
  · split
    · exact ⟨rfl, rfl, rfl, rfl⟩
    · exact ⟨rfl, rfl, rfl, rfl⟩
  · exact if_neg (by simpa using hp)

/-- A split of a division: its place and lanes, under the modes of the one that divided. -/
def Split.PartOf (p : Split) (age : Nat) (y : BitVec 57 × LaneMask) (q : Split) : Prop :=
  q.age = age ∧ q.pc = y.1 ∧ q.mask = y.2 ∧ q.mode = p.mode ∧ q.mmode = p.mmode ∧ q.gang = p.gang

theorem Split.PartOf.alike {p q q' : Split} {age : Nat} {y : BitVec 57 × LaneMask} (h : p.PartOf age y q) (hq : q.Alike q') :
    p.PartOf age y q' := by
  obtain ⟨hage, hpc, hmask, hmode, hmmode, hgang⟩ := h
  obtain ⟨hage', hstands, -, -⟩ := hq
  simp only [Split.stands, Prod.mk.injEq] at hstands
  obtain ⟨hpc', hmask', hmode', hmmode', hgang', -⟩ := hstands
  exact ⟨hage'.trans hage, hpc'.trans hpc, hmask'.trans hmask, hmode'.trans hmode, hmmode'.trans hmmode, hgang'.trans hgang⟩

/-- The new splits of a division. -/
def Group.newParts (g : Group) (now : Nat) (p : Split) (rest : List (BitVec 57 × LaneMask)) : List Split :=
  rest.zipIdx.map fun y =>
    { p with age := g.nextAge + y.2, pc := y.1.1, mask := y.1.2, live := true, since := now, readyAt := now, walked := [], inval := [],
             early := [], qdone := 0, qage := 0, again := none, owed := [], owedTurns := 0 }

/-- The group with the parts of a division, before they share its slots. -/
def Group.parted (g : Group) (now age : Nat) (p : Split) (y : BitVec 57 × LaneMask) (rest : List (BitVec 57 × LaneMask)) : Group :=
  let g' := g.updSplit age fun p => { p with pc := y.1, mask := y.2 }
  { g' with nextAge := g.nextAge + rest.length, splits := g'.splits ++ g.newParts now p rest }

section
variable {g : Group} {now age : Nat} {p : Split} {y : BitVec 57 × LaneMask} {rest : List (BitVec 57 × LaneMask)}

theorem Group.divide_eq (hp : g.split? age = some p) : g.divide now age (y :: rest) =
    (g.parted now age p y rest).placeDivision now (age :: (g.newParts now p rest).map Split.age) := by
  unfold Group.divide
  split
  · rename_i pc0 m0 rest' p' hparts hp'
    obtain ⟨rfl, rfl⟩ := List.cons.inj hparts
    obtain rfl := Option.some.inj (hp.symm.trans hp')
    rfl
  · rename_i hnone
    exact (hnone _ _ _ _ rfl hp).elim

theorem Group.le_age_of_mem_newParts {q : Split} (hq : q ∈ g.newParts now p rest) : g.nextAge ≤ q.age := by
  obtain ⟨z, -, rfl⟩ := List.mem_map.1 hq
  exact Nat.le_add_right ..

theorem Group.exists_newPart {k : Nat} (hk : k < rest.length) : ∃ q ∈ g.newParts now p rest, p.PartOf (g.nextAge + k) rest[k] q :=
  ⟨_, List.mem_map.2 ⟨(rest[k], k), List.mem_zipIdx_iff_getElem?.2 (List.getElem?_eq_getElem hk), rfl⟩, rfl, rfl, rfl, rfl, rfl, rfl⟩

/-- A split that the division does not touch is found as before. -/
theorem Group.split?_parted {m : Nat} (hm : m ≠ age) (hlt : m < g.nextAge) : (g.parted now age p y rest).split? m = g.split? m := by
  have hnew : (g.newParts now p rest).find? (fun q => q.age == m) = none :=
    List.find?_eq_none.2 fun q hq => by have := le_age_of_mem_newParts hq; simp; omega
  have hold := Group.split?_updSplit_ne g (fun p => { p with pc := y.1, mask := y.2 }) (fun _ h => h) hm
  exact (List.find?_append ..).trans (by rw [hnew, Option.or_none]; exact hold)

/-- The first part keeps the split, each further one is a new split, and every other split stays (R39). -/
theorem Group.divide_spec (hp : g.split? age = some p) :
    let d := g.divide now age (y :: rest)
    (∃ splits, d = { g with splits := splits, nextAge := g.nextAge + rest.length }) ∧
    (∀ m, m ≠ age → m < g.nextAge → d.split? m = g.split? m) ∧ (∃ q ∈ d.splits, p.PartOf age y q) ∧
    ∀ k (hk : k < rest.length), ∃ q ∈ d.splits, p.PartOf (g.nextAge + k) rest[k] q := by
  intro d
  obtain ⟨f, hf, hother, hplace⟩ := (g.parted now age p y rest).placeDivision_eq now (age :: (g.newParts now p rest).map Split.age)
  have hd : d = { g.parted now age p y rest with splits := (g.parted now age p y rest).splits.map f } := (Group.divide_eq hp).trans hplace
  have hmem {q : Split} {n : Nat} {z : BitVec 57 × LaneMask} (hq : q ∈ (g.parted now age p y rest).splits) (h : p.PartOf n z q) :
      ∃ q' ∈ d.splits, p.PartOf n z q' := by
    rw [hd]
    exact ⟨f q, List.mem_map_of_mem hq, h.alike (hf q)⟩
  refine ⟨⟨_, hd⟩, fun m hm hlt => ?_, ?_, fun k hk => ?_⟩
  · rw [hd, ← Group.split?_parted hm hlt]
    have hkey : (fun q : Split => q.age == m) ∘ f = fun q => q.age == m := funext fun q => by simp [(hf q).1]
    refine (List.find?_map ..).trans ?_
    rw [hkey]
    cases hq : List.find? (fun q : Split => q.age == m) (g.parted now age p y rest).splits with
    | none => exact hq.symm
    | some q =>
      have hage : q.age = m := by simpa using List.find?_some hq
      have hage' : q.age ∉ age :: (g.newParts now p rest).map Split.age := by
        rw [hage, List.mem_cons, not_or]
        refine ⟨hm, fun h => ?_⟩
        obtain ⟨r, hr, hrm⟩ := List.mem_map.1 h
        have := le_age_of_mem_newParts hr
        omega
      rw [Option.map_some, hother q hage']
      exact hq.symm
  · have hage := Group.age_of_split? hp
    have hself : (g.updSplit age fun p => { p with pc := y.1, mask := y.2 }).split? age = some { p with pc := y.1, mask := y.2 } :=
      Group.split?_updSplit_self (fun p => { p with pc := y.1, mask := y.2 }) (fun _ h => h) hp
    exact hmem (List.mem_append_left _ (List.mem_of_find?_eq_some hself)) ⟨hage, rfl, rfl, rfl, rfl, rfl⟩
  · obtain ⟨q, hq, hpart⟩ := Group.exists_newPart (g := g) (now := now) (p := p) hk
    exact hmem (List.mem_append_right _ hq) hpart

end

/-! ## Where the active lanes go on -/

section
variable {i : Instr} {s t : State} {x : Ctx} {effect : Ctx → Res} {tgt : Nat → BitVec 57} {first : BitVec 57}

/-- The whole split goes on at one address. -/
theorem GoesTo.of_whole (hall : ∀ l < 32, x.active.getLsbD l = true → tgt l = first)
    (h : OnlyGroup x.c.blk x.c.gid s t fun g g' => (∃ splits, g' = { g with splits := splits, chain := none }) ∧
      OnlySplit x.c.age g g' fun p p' => p = x.p ∧ x.p.PartOf x.c.age (first, x.active) p') : GoesTo s x tgt first t := by
  refine h.mono fun g g' ⟨⟨splits, hg⟩, hne, p, p', hp, hp', _, hage, hpc, hmask, hmode, hmmode, hgang⟩ =>
    ⟨⟨splits, g.nextAge, hg⟩, fun m hm _ => hne m hm, fun _ => x.c.age, fun l hl ha => ?_⟩
  have hl := hall l hl ha
  refine ⟨fun _ => rfl, fun h => absurd hl h, fun _ _ _ h => absurd hl h, p', List.mem_of_find?_eq_some hp', hage, hpc.trans hl.symm, hmode,
    hmmode, hgang, fun k hk => ?_⟩
  rw [hmask, hl]
  cases ha : x.active.getLsbD k with
  | false => rfl
  | true => simp [hall k hk ha]

theorem Issues.goesTo_goto (h : Issues i s x) (ht : issue i s effect = .next t) (he : effect x = x.goto first)
    (hall : ∀ l < 32, x.active.getLsbD l = true → tgt l = first) : GoesTo s x tgt first t := by
  obtain ⟨g0, ho⟩ := h.1.of
  refine .of_whole hall (h.onlyGroup_of_jump (f := fun g => g.updSplit x.c.age (.jumpTo first x.now)) ht he rfl fun g ch hg hp => ?_)
  have hself := x.split?_left_self (Group.split?_updSplit_self (.jumpTo first x.now) (fun _ h => h) ho.split)
  refine ⟨⟨_, by rw [hg]; rfl⟩, fun m hm => ?_, x.p, _, hp, hself, rfl, ho.age, rfl, rfl, rfl, rfl, rfl⟩
  rw [x.split?_left_ne _ hm, Group.split?_updSplit_ne x.g (.jumpTo first x.now) (fun _ h => h) hm, hg]
  rfl

theorem Issues.goesTo_nothing (h : Issues i s x) (ht : issue i s effect = .next t) (he : effect x = x.nothing)
    (hc : (useOf x.mode x.mmode i).chainable = false) (hm : ∀ l, (useOf x.mode x.mmode i).mend l = l) (hpc : x.p.pc + 4 = first)
    (hall : ∀ l < 32, x.active.getLsbD l = true → tgt l = first) : GoesTo s x tgt first t := by
  obtain ⟨g0, ho⟩ := h.1.of
  have he' : effect x = .done (x.s.updCur x.c fun g => g) [] := by rw [he, State.updCur_id]; rfl
  refine .of_whole hall (h.onlyGroup_of_done ht he' rfl fun g ch hg hp => ?_)
  refine ⟨?_, fun m hm => ?_, x.p, _, hp, x.split?_retired_self i [] ho.split, rfl, ho.age, hpc, rfl, rfl, rfl, rfl⟩
  · rw [Ctx.retired, x.chainAfter_of_not_chainable hc, hm, hg]
    exact ⟨_, rfl⟩
  · rw [x.split?_retired_ne i [] _ hm, hg]
    rfl

/-- The parts of a division: the active lanes by their targets, after the first part in ascending order. -/
def Ctx.Parts (x : Ctx) (tgt : Nat → BitVec 57) (y : BitVec 57 × LaneMask) (rest : List (BitVec 57 × LaneMask)) : Prop :=
  (rest.map (·.1)).Pairwise (fun a b => a.toNat < b.toNat) ∧
  (∀ l < 32, x.active.getLsbD l = true → tgt l = y.1 ∨ tgt l ∈ rest.map (·.1)) ∧
  ∀ z ∈ y :: rest, ∀ k < 32, z.2.getLsbD k = (x.active.getLsbD k && decide (tgt k = z.1))

/-- The age of the split at an address after a division. -/
def Ctx.partAge (x : Ctx) (y : BitVec 57 × LaneMask) (rest : List (BitVec 57 × LaneMask)) (pc : BitVec 57) : Nat :=
  if pc = y.1 then x.c.age else x.g.nextAge + (rest.map (·.1)).idxOf pc

/-- In an ascending list a lower address comes first. -/
theorem idxOf_lt_of_ascending {l : List (BitVec 57)} (hl : l.Pairwise fun a b => a.toNat < b.toNat) {a b : BitVec 57} (ha : a ∈ l) (hb : b ∈ l)
    (h : a.toNat < b.toNat) : l.idxOf a < l.idxOf b := by
  have hia := List.idxOf_lt_length_of_mem ha
  have hib := List.idxOf_lt_length_of_mem hb
  by_contra hle
  rcases (not_lt.1 hle).lt_or_eq with hlt | heq
  · have := List.pairwise_iff_getElem.1 hl _ _ hib hia hlt
    rw [List.getElem_idxOf, List.getElem_idxOf] at this
    omega
  · have : l[l.idxOf b] = l[l.idxOf a] := by simp only [heq]
    rw [List.getElem_idxOf, List.getElem_idxOf] at this
    exact absurd h (by rw [this]; exact lt_irrefl _)

/-- The split divides by the targets of its lanes (R39). -/
theorem Issues.goesTo_divide (h : Issues i s x) (ht : issue i s effect = .next t) {y : BitVec 57 × LaneMask} {rest : List (BitVec 57 × LaneMask)}
    (he : effect x = .jump (x.s.updCur x.c fun g => g.divide x.now x.c.age (y :: rest))) (hparts : x.Parts tgt y rest) :
    GoesTo s x tgt y.1 t := by
  obtain ⟨g0, ho⟩ := h.1.of
  obtain ⟨hasc, hcover, hmask⟩ := hparts
  obtain ⟨⟨splits, hframe⟩, hother, hkeep, hnew⟩ := Group.divide_spec (now := x.now) (y := y) (rest := rest) ho.split
  refine h.onlyGroup_of_jump (f := fun g => g.divide x.now x.c.age (y :: rest)) ht he (by rw [hframe]) fun g ch hg hp => ?_
  have halike := x.alike_left (x.g.divide x.now x.c.age (y :: rest))
  have hnext : g.nextAge = x.g.nextAge := by rw [hg]
  refine ⟨?_, fun m hm hlt => ?_, fun l => x.partAge y rest (tgt l), fun l hl ha => ⟨fun h => if_pos h, fun h => ?_, fun k hk hka hln hkn hlt => ?_, ?_⟩⟩
  · obtain ⟨splits', hleft⟩ := halike.frame
    rw [hleft, hframe, hg]
    exact ⟨_, _, rfl⟩
  · rw [x.split?_left_ne _ hm, hother m hm (hnext ▸ hlt), hg]
    rfl
  · show g.nextAge ≤ x.partAge y rest (tgt l)
    rw [Ctx.partAge, if_neg h, hnext]
    exact Nat.le_add_right ..
  · show x.partAge y rest (tgt l) < x.partAge y rest (tgt k)
    rw [Ctx.partAge, Ctx.partAge, if_neg hln, if_neg hkn]
    exact Nat.add_lt_add_left (idxOf_lt_of_ascending hasc ((hcover l hl ha).resolve_left hln) ((hcover k hk hka).resolve_left hkn) hlt) _
  · have hpart : ∃ z ∈ y :: rest, z.1 = tgt l ∧ ∃ q ∈ (x.g.divide x.now x.c.age (y :: rest)).splits, x.p.PartOf (x.partAge y rest (tgt l)) z q := by
      by_cases hly : tgt l = y.1
      · exact ⟨y, by simp, hly.symm, by rw [Ctx.partAge, if_pos hly]; exact hkeep⟩
      · have hmem := (hcover l hl ha).resolve_left hly
        have hidx := List.idxOf_lt_length_of_mem hmem
        have hlen := hidx
        rw [List.length_map] at hlen
        refine ⟨rest[(rest.map (·.1)).idxOf (tgt l)], by simp, ?_, by rw [Ctx.partAge, if_neg hly]; exact hnew _ hlen⟩
        have := List.getElem_idxOf hidx
        rwa [List.getElem_map] at this
    obtain ⟨z, hz, hzl, q, hq, hqz⟩ := hpart
    obtain ⟨q', hq', hlike⟩ := halike.exists_of_mem hq
    obtain ⟨hage, hpc, hqm, hmode, hmmode, hgang⟩ := hqz.alike hlike
    exact ⟨q', hq', hage, hpc.trans hzl, hmode, hmmode, hgang, fun k hk => by rw [hqm, hmask z hz k hk, hzl]⟩

theorem Issues.goesTo_parts (h : Issues i s x) (ht : issue i s effect = .next t) {y : BitVec 57 × LaneMask} {rest : List (BitVec 57 × LaneMask)}
    (he : effect x = x.divideTo (y :: rest)) (hparts : x.Parts tgt y rest) : GoesTo s x tgt y.1 t := by
  cases rest with
  | nil => exact h.goesTo_goto ht he fun l hl ha => (hparts.2.1 l hl ha).resolve_right (by simp)
  | cons z rest => exact h.goesTo_divide ht he hparts

end

end Sys2Proof.Machine
end

section
/-!
SUPPORT. The targets of the branches and of `ret` and `jmpi` (R183, R185).
-/
-- One theorem after another: many at once need more memory than the check allows.
set_option Elab.async false

namespace Sys2Proof.Machine

section
variable {x : Ctx} {l : Nat}

theorem Ctx.getLsbD_act (x : Ctx) (l : Nat) : x.act.getLsbD l = (x.active.getLsbD l && x.guard.getLsbD l) := BitVec.getLsbD_and ..

theorem Ctx.guard_of_act_eq_active (h : x.act = x.active) (ha : x.active.getLsbD l = true) : x.guard.getLsbD l = true := by
  have := x.getLsbD_act l
  rw [h, ha] at this
  simpa using this.symm

theorem Ctx.guard_of_act_eq_zero (h : x.act = 0) (ha : x.active.getLsbD l = true) : x.guard.getLsbD l = false := by
  have := x.getLsbD_act l
  rw [h, ha] at this
  simpa using this.symm

theorem Use.mend_of_no_write {u : Use} (hv : u.vw = []) (hs : u.sw = []) (hp : u.pw = []) (bad : List Nat) : u.mend bad = bad :=
  List.filter_eq_self.2 fun r _ => by simp [hv, hs, hp]

/-- The parts of a branch: the lanes that fall through, then those that branch. -/
theorem Ctx.parts_branch (x : Ctx) {pc next : BitVec 57} (hpc : pc ≠ next) :
    x.Parts (fun l => if x.guard.getLsbD l then pc else next) (next, x.active &&& ~~~x.act) [(pc, x.act)] := by
  refine ⟨by simp, fun l _ _ => ?_, fun z hz k hk => ?_⟩
  · cases hg : x.guard.getLsbD l with
    | false => exact .inl (by simp [hg])
    | true => exact .inr (by simp [hg])
  · rcases List.mem_cons.1 hz with rfl | hz
    · cases hg : x.guard.getLsbD k with
      | false => simpa [x.getLsbD_act, hg] using fun _ => hk
      | true => cases ha : x.active.getLsbD k <;> simp [x.getLsbD_act, hg, hpc, ha]
    · obtain rfl := List.mem_singleton.1 hz
      cases hg : x.guard.getLsbD k with
      | false => simp [x.getLsbD_act, hg, hpc.symm]
      | true => simp [x.getLsbD_act, hg]

/-! ## Distinct targets in ascending order -/

theorem ascending_insertBy {t : BitVec 57} {l : List (BitVec 57)} (hl : l.Pairwise fun a b => a.toNat < b.toNat) (ht : t ∉ l) :
    (insertBy BitVec.toNat t l).Pairwise fun a b => a.toNat < b.toNat := by
  induction l with
  | nil => simp [insertBy]
  | cons a r ih =>
    obtain ⟨ha, hr⟩ := List.pairwise_cons.1 hl
    rw [List.mem_cons, not_or] at ht
    have hne : t.toNat ≠ a.toNat := fun h => ht.1 (BitVec.eq_of_toNat_eq h)
    rw [insertBy]
    split
    · refine List.pairwise_cons.2 ⟨fun b hb => ?_, hl⟩
      rcases List.mem_cons.1 hb with rfl | hb
      · omega
      · have := ha b hb
        omega
    · refine List.pairwise_cons.2 ⟨fun b hb => ?_, ih hr ht.2⟩
      rcases mem_insertBy.1 hb with rfl | hb
      · omega
      · exact ha b hb

theorem mem_targetsOf {t : BitVec 57} {l : List (BitVec 57)} : t ∈ targetsOf l ↔ t ∈ l := by
  induction l with
  | nil => simp [targetsOf]
  | cons a r ih =>
    have hcons : targetsOf (a :: r) = if (targetsOf r).contains a then targetsOf r else insertBy BitVec.toNat a (targetsOf r) := rfl
    rw [hcons, List.mem_cons]
    split
    · rename_i h
      have ha : a ∈ targetsOf r := by simpa using h
      exact ⟨fun h => .inr (ih.1 h), fun h => h.elim (fun h => h ▸ ha) ih.2⟩
    · rw [mem_insertBy, ih]

theorem ascending_targetsOf (l : List (BitVec 57)) : (targetsOf l).Pairwise fun a b => a.toNat < b.toNat := by
  induction l with
  | nil => simp [targetsOf]
  | cons a r ih =>
    have hcons : targetsOf (a :: r) = if (targetsOf r).contains a then targetsOf r else insertBy BitVec.toNat a (targetsOf r) := rfl
    rw [hcons]
    split
    · exact ih
    · rename_i h
      exact ascending_insertBy ih (by simpa using h)

/-! ## `ret` and `jmpi` -/

/-- The target of a guarded lane: the lane's word under the region of the PC (R185). -/
theorem laneTarget_eq_append (pc : BitVec 57) (w : Word) : BitVec.ofNat 57 (field pc 56 32 * 2 ^ 32 + w.toNat) = pc.extractLsb' 32 25 ++ w := by
  refine BitVec.eq_of_toNat_eq ?_
  have hlow : w.toNat < 2 ^ 32 := w.isLt
  have hhigh : field pc 56 32 < 2 ^ 25 := Nat.mod_lt _ (by decide)
  rw [BitVec.toNat_append, BitVec.extractLsb'_toNat, ← Nat.shiftLeft_add_eq_or_of_lt hlow, Nat.shiftLeft_eq, BitVec.toNat_ofNat]
  exact Nat.mod_eq_of_lt (by omega)

variable {a : Src}

theorem Ctx.laneTarget_eq (x : Ctx) (a : Src) (l : Nat) :
    x.laneTarget a l = if x.guard.getLsbD l then (x.p.pc.extractLsb' 32 25 ++ x.rdv a l : BitVec 57) else x.p.pc + 4 := by
  rw [← laneTarget_eq_append]
  rfl

theorem Ctx.laneTarget_mod (h : x.act.getLsbD l = true) : (x.laneTarget a l).toNat % 4 = (x.rdv a l).toNat % 4 := by
  rw [x.getLsbD_act, Bool.and_eq_true] at h
  have hlow : (x.rdv a l).toNat < 2 ^ 32 := (x.rdv a l).isLt
  rw [x.laneTarget_eq, if_pos h.2, BitVec.toNat_append, ← Nat.shiftLeft_add_eq_or_of_lt hlow, Nat.shiftLeft_eq]
  omega

/-- The acting lanes whose target is misaligned. -/
def Ctx.misaligned (x : Ctx) (a : Src) : LaneMask := maskWhere x.act fun l => decide ((x.laneTarget a l).toNat % 4 ≠ 0)

theorem Ctx.misaligned_eq (x : Ctx) (a : Src) : x.misaligned a = x.act &&& maskOf fun m => decide ((x.rdv a m).toNat % 4 ≠ 0) := by
  refine BitVec.eq_of_getLsbD_eq fun l hl => ?_
  rw [Ctx.misaligned, maskWhere, BitVec.getLsbD_and, BitVec.getLsbD_and, getLsbD_maskOf _ _ hl, getLsbD_maskOf _ _ hl]
  cases ha : x.act.getLsbD l with
  | false => rfl
  | true => rw [Ctx.laneTarget_mod ha]

theorem Ctx.getLsbD_misaligned (hl : l < 32) :
    (x.misaligned a).getLsbD l = (x.act.getLsbD l && decide ((x.rdv a l).toNat % 4 ≠ 0)) := by
  rw [x.misaligned_eq, BitVec.getLsbD_and, getLsbD_maskOf _ _ hl]

/-- A target with the active lanes that go there. -/
def Ctx.lanesTo (x : Ctx) (a : Src) (t : BitVec 57) : BitVec 57 × LaneMask := (t, maskWhere x.active fun l => decide (x.laneTarget a l = t))

/-- The distinct targets of the active lanes, ascending. -/
def Ctx.targets (x : Ctx) (a : Src) : List (BitVec 57) := targetsOf ((lanesOf x.active).map (x.laneTarget a))

theorem Ctx.mem_targets {t : BitVec 57} : t ∈ x.targets a ↔ ∃ l < 32, x.active.getLsbD l = true ∧ x.laneTarget a l = t := by
  simp [Ctx.targets, mem_targetsOf, mem_lanesOf, and_assoc]

theorem Ctx.indirect_of_aligned (h : ∀ l < 32, x.act.getLsbD l = true → (x.rdv a l).toNat % 4 = 0) :
    x.indirect a = x.divideTo ((x.targets a).map (x.lanesTo a)) := by
  have hnil : lanesOf (x.misaligned a) = [] := List.eq_nil_iff_forall_not_mem.2 fun l hl => by
    obtain ⟨hl, hbit⟩ := (mem_lanesOf ..).1 hl
    rw [Ctx.getLsbD_misaligned hl, Bool.and_eq_true, decide_eq_true_eq] at hbit
    exact hbit.2 (h l hl hbit.1)
  unfold Ctx.indirect
  dsimp only
  split
  · rename_i hcons
    exact absurd (hnil.symm.trans hcons) (by simp)
  · rfl

theorem Ctx.indirect_of_misaligned (h32 : l < 32) (ha : x.act.getLsbD l = true) (hl : (x.rdv a l).toNat % 4 ≠ 0)
    (hlow : ∀ m < l, x.act.getLsbD m = true → (x.rdv a m).toNat % 4 = 0) :
    x.indirect a = .trap ⟨0x07, (x.laneTarget a l).toNat, some (x.misaligned a)⟩ := by
  obtain ⟨r, hcons⟩ := lanesOf_eq_cons (m := x.misaligned a) (l := l) (by rw [Ctx.getLsbD_misaligned h32, ha]; simpa using hl) fun k hk => by
    rw [Ctx.getLsbD_misaligned (hk.trans h32)]
    cases hka : x.act.getLsbD k with
    | false => rfl
    | true => simp [hlow k hk hka]
  unfold Ctx.indirect
  dsimp only
  split
  · rename_i l' r' hcons'
    obtain ⟨rfl, -⟩ := List.cons.inj (hcons.symm.trans hcons')
    rfl
  · rename_i hnil
    exact absurd (hcons.symm.trans hnil) (by simp)

/-- The lowest target comes first, and its lanes keep the split. -/
theorem Ctx.parts_indirect {m : Nat} (hm : m < 32) (ha : x.active.getLsbD m = true)
    (hmin : ∀ l < 32, x.active.getLsbD l = true → (x.laneTarget a m).toNat ≤ (x.laneTarget a l).toNat) :
    ∃ rest, (x.targets a).map (x.lanesTo a) = x.lanesTo a (x.laneTarget a m) :: rest ∧
      x.Parts (x.laneTarget a) (x.lanesTo a (x.laneTarget a m)) rest := by
  have hasc : (x.targets a).Pairwise fun a b => a.toNat < b.toNat := ascending_targetsOf _
  have hmem : x.laneTarget a m ∈ x.targets a := Ctx.mem_targets.2 ⟨m, hm, ha, rfl⟩
  cases htargets : x.targets a with
  | nil => simp [htargets] at hmem
  | cons t r =>
    rw [htargets] at hasc hmem
    obtain ⟨hlow, hr⟩ := List.pairwise_cons.1 hasc
    have ht : t = x.laneTarget a m := by
      rcases List.mem_cons.1 hmem with h | h
      · exact h.symm
      · obtain ⟨l, hl, hla, hlt⟩ := Ctx.mem_targets.1 (htargets ▸ List.mem_cons_self : t ∈ x.targets a)
        have := hlow _ h
        have := hlt ▸ hmin l hl hla
        omega
    subst ht
    have hfst : (r.map (x.lanesTo a)).map (·.1) = r := by
      rw [List.map_map]
      exact List.map_id _
    refine ⟨_, rfl, by rw [hfst]; exact hr, fun l hl hla => ?_, fun z hz k hk => ?_⟩
    · rw [hfst]
      exact List.mem_cons.1 (htargets ▸ Ctx.mem_targets.2 ⟨l, hl, hla, rfl⟩)
    · rw [← List.map_cons] at hz
      obtain ⟨t, -, rfl⟩ := List.mem_map.1 hz
      rw [Ctx.lanesTo, maskWhere, BitVec.getLsbD_and, getLsbD_maskOf _ _ hk]

end

end Sys2Proof.Machine
end

section
-- One theorem after another: many at once need more memory than the check allows.
set_option Elab.async false

open Sys2Proof Sys2Proof.Machine

/-- Settles O19: a branch moves the whole split, or none of its lanes, or divides it in two (R183, R39). -/
theorem branchesTakeTheLanesTheGuardNames : Obligations.BranchesTakeTheLanesTheGuardNames := by
  unfold Obligations.BranchesTakeTheLanesTheGuardNames
  refine fun o s => ⟨.of_forall rfl fun x hx t ht => ?bra, .of_forall rfl fun x hx t ht => ?brau, .of_forall rfl fun x hx t ht => ?brany⟩
  case bra =>
    by_cases hall : x.act = x.active
    · rw [if_pos hall]
      exact hx.goesTo_goto ht (if_pos hall) fun l _ ha => if_pos (Ctx.guard_of_act_eq_active hall ha)
    · rw [if_neg hall]
      by_cases hn : x.act = 0 ∨ x.target o.toInt = x.p.pc + 4
      · refine hx.goesTo_nothing ht ((if_neg hall).trans (if_pos hn)) (by simp) (Use.mend_of_no_write rfl rfl rfl) rfl fun l _ ha => ?_
        rcases hn with h0 | heq
        · exact if_neg (by simp [Ctx.guard_of_act_eq_zero h0 ha])
        · exact (congrArg (fun pc => if x.guard.getLsbD l = true then pc else x.p.pc + 4) heq).trans (ite_self _)
      · exact hx.goesTo_parts ht ((if_neg hall).trans (if_neg hn)) (x.parts_branch fun h => hn (.inr h))
  case brau =>
    by_cases hall : x.act = x.active
    · exact hx.goesTo_goto ht ((if_pos hall).trans (by rw [if_pos hall]; rfl)) fun _ _ _ => rfl
    · exact hx.goesTo_nothing ht (if_neg hall) (by simp) (Use.mend_of_no_write rfl rfl rfl) (if_neg hall).symm fun _ _ _ => rfl
  case brany =>
    by_cases hsome : x.act ≠ 0
    · exact hx.goesTo_goto ht ((if_pos hsome).trans (by rw [if_pos hsome]; rfl)) fun _ _ _ => rfl
    · exact hx.goesTo_nothing ht (if_neg hsome) (by simp) (Use.mend_of_no_write rfl rfl rfl) (if_neg hsome).symm fun _ _ _ => rfl
end

section
-- One theorem after another: many at once need more memory than the check allows.
set_option Elab.async false

open Sys2Proof Sys2Proof.Machine

/-- Settles O21: the targets in ascending order are the parts of a division; the lowest misaligned lane gives the fault (R185, R39). -/
theorem indirectJumpsSendEachLaneToItsTarget : Obligations.IndirectJumpsSendEachLaneToItsTarget := by
  unfold Obligations.IndirectJumpsSendEachLaneToItsTarget
  intro a s i hi
  have heffect : exec i s = issue i s fun x => x.indirect a := by rcases hi with rfl | rfl <;> rfl
  have hevent : isEvent i = false := by rcases hi with rfl | rfl <;> rfl
  refine ⟨.of_forall hevent fun x hx t ht => ?_, fun x hx l h32 ha hl hlow => ?_⟩
  · intro tgt haligned m hm hma hmin
    have htgt : tgt = x.laneTarget a := funext fun l => (x.laneTarget_eq a l).symm
    rw [htgt] at hmin ⊢
    obtain ⟨rest, hrest, hparts⟩ := Ctx.parts_indirect hm hma hmin
    exact hx.goesTo_parts (heffect ▸ ht) ((Ctx.indirect_of_aligned haligned).trans (by rw [hrest])) hparts
  · have hguard := (Bool.and_eq_true _ _ ▸ x.getLsbD_act l ▸ ha).2
    rw [heffect, issue_of_trap hx (Ctx.indirect_of_misaligned h32 ha hl hlow), x.misaligned_eq, x.laneTarget_eq, if_pos hguard]
end

section
/-!
SUPPORT. What a step of membership changes (R55 to R58): the block barrier, and groups only as far as a completed phase wakes their splits
and makes them acquire (R405, R411).
-/
-- One theorem after another: many at once need more memory than the check allows.
set_option Elab.async false

namespace Sys2Proof.Machine

/-! ## Groups that are stirred -/

/-- Splits of the group that wait may go on, and the group may hear of puts; nothing else of it changes. -/
def Group.Stirred (g g' : Group) : Prop := ∃ (f : Split → Split) (h : List (Nat × Nat)),
  (∀ p : Split, (f p).age = p.age ∧ (p.wait = .none → (f p).stands = p.stands)) ∧ g' = { g with splits := g.splits.map f, heard := h }

theorem Group.Stirred.refl (g : Group) : g.Stirred g := ⟨id, g.heard, fun _ => ⟨rfl, fun _ => rfl⟩, by simp⟩

theorem Group.Stirred.trans {g g' g'' : Group} (h : g.Stirred g') (h' : g'.Stirred g'') : g.Stirred g'' := by
  obtain ⟨f, l, hf, rfl⟩ := h
  obtain ⟨f', l', hf', rfl⟩ := h'
  refine ⟨f' ∘ f, l', fun p => ⟨(hf' _).1.trans (hf p).1, fun hw => ?_⟩, by simp⟩
  have hstands := (hf p).2 hw
  have hwait : (f p).wait = .none := by
    simp only [Split.stands, Prod.mk.injEq] at hstands
    obtain ⟨-, -, -, -, -, hwait⟩ := hstands
    exact hwait.trans hw
  exact ((hf' _).2 hwait).trans hstands

theorem Group.Stirred.gid {g g' : Group} (h : g.Stirred g') : g'.gid = g.gid := by
  obtain ⟨f, l, -, rfl⟩ := h
  rfl

theorem Group.Stirred.split? {g g' : Group} (h : g.Stirred g') {a : Nat} {p : Split} (hp : g.split? a = some p) :
    ∃ p', g'.split? a = some p' := by
  obtain ⟨f, l, hf, rfl⟩ := h
  have hkey : (fun x : Split => x.age == a) ∘ f = fun x => x.age == a := funext fun x => by simp [(hf x).1]
  refine ⟨f p, (List.find?_map ..).trans ?_⟩
  rw [hkey]
  exact congrArg (Option.map f) hp

/-! ## Blocks whose groups are stirred -/

/-- Groups of the block are stirred, and its barrier changes; nothing else of it does. -/
def Block.Stirred (b b' : Block) : Prop := ∃ (f : Group → Group) (w : Nat),
  (∀ g : Group, g.Stirred (f g)) ∧ b' = { b with bar := w, groups := b.groups.map f }

theorem Block.Stirred.trans {b b' b'' : Block} (h : b.Stirred b') (h' : b'.Stirred b'') : b.Stirred b'' := by
  obtain ⟨f, w, hf, rfl⟩ := h
  obtain ⟨f', w', hf', rfl⟩ := h'
  exact ⟨f' ∘ f, w', fun g => (hf g).trans (hf' _), by simp⟩

theorem Block.stirred_bar (b : Block) (w : Nat) : b.Stirred { b with bar := w } := ⟨id, w, .refl, by simp⟩

theorem Block.stirred_updGroup (b : Block) (n : Nat) {f : Group → Group} (hf : ∀ g : Group, g.Stirred (f g)) : b.Stirred (b.updGroup n f) := by
  refine ⟨fun g => if g.gid = n then f g else g, b.bar, fun g => ?_, rfl⟩
  dsimp only
  split
  · exact hf g
  · exact .refl g

theorem Block.Stirred.group? {b b' : Block} (h : b.Stirred b') {n : Nat} {g : Group} (hg : b.group? n = some g) :
    ∃ g', b'.group? n = some g' ∧ g.Stirred g' := by
  obtain ⟨f, w, hf, rfl⟩ := h
  have hkey : (fun x : Group => x.gid == n) ∘ f = fun x => x.gid == n := funext fun x => by simp [(hf x).gid]
  refine ⟨f g, (List.find?_map ..).trans ?_, hf g⟩
  rw [hkey]
  exact congrArg (Option.map f) hg

/-! ## States -/

section
variable {s t : State} {u : Nat} {b : Block}

/-- The block of an identifier is stirred; memory and the launches stay. -/
def State.Stirred (u : Nat) (s t : State) : Prop :=
  t.mem = s.mem ∧ t.launches = s.launches ∧ ∀ b, s.block? u = some b → ∃ b', t.block? u = some b' ∧ b.Stirred b'

theorem State.Stirred.refl (u : Nat) (s : State) : State.Stirred u s s :=
  ⟨rfl, rfl, fun b hb => ⟨b, hb, id, b.bar, .refl, by simp⟩⟩

theorem State.Stirred.trans {r : State} (h : State.Stirred u s t) (h' : State.Stirred u t r) : State.Stirred u s r := by
  obtain ⟨hm, hl, hb⟩ := h
  obtain ⟨hm', hl', hb'⟩ := h'
  refine ⟨hm'.trans hm, hl'.trans hl, fun b h => ?_⟩
  obtain ⟨b1, h1, hs1⟩ := hb b h
  obtain ⟨b2, h2, hs2⟩ := hb' b1 h1
  exact ⟨b2, h2, hs1.trans hs2⟩

theorem State.stirred_updBlock {f : Block → Block} (hu : ∀ b, (f b).uid = b.uid) (hf : ∀ b, s.block? u = some b → b.Stirred (f b)) :
    State.Stirred u s (s.updBlock u f) :=
  ⟨rfl, rfl, fun b hb => ⟨f b, State.block?_updBlock_self f (fun c h => (hu c).trans h) hb, hf b hb⟩⟩

/-- An acquire at block scope. -/
theorem State.stirred_acquire (s : State) (u n : Nat) : State.Stirred u s (s.acquire u n 0) := by
  unfold State.acquire State.hear
  split
  · exact .refl u s
  · refine State.stirred_updBlock (fun _ => rfl) fun b hb => b.stirred_updGroup n fun g => ?_
    exact ⟨fun p => { p with early := [] }, _, fun p => ⟨rfl, fun _ => rfl⟩, rfl⟩

theorem State.stirred_acquireAll (s : State) (u : Nat) (l : List Nat) : State.Stirred u s (s.acquireAll u 0 l) := by
  induction l generalizing s with
  | nil => exact .refl u s
  | cons n r ih => exact (s.stirred_acquire u n).trans (ih _)

/-- An event that does not complete the phase changes the barrier word alone. -/
theorem State.blockBarEvent_of_pending (hb : s.block? u = some b) {f : Bar → Bar} (hp : (f b.barView).pa ≠ 0) :
    s.blockBarEvent u f = s.updBlock u fun c => { c with bar := (f b.barView).blockWord } := by
  unfold State.blockBarEvent
  rw [hb]
  exact if_neg hp

/-- A split that waits for the end of a phase at `bsync` goes on. -/
def Split.passPhase (ph now : Nat) (p : Split) : Split := if p.wait = Wait.bsync ph then p.goOn now else p

/-- A phase of the block barrier completes. -/
def Block.nextPhase (t : Bar) (now : Nat) (b : Block) : Block :=
  { b with bar := ({ t with ph := (t.ph + 1) % 16, pa := t.exp, arr := 0 } : Bar).blockWord,
           groups := b.groups.map fun g => { g with splits := g.splits.map (Split.passPhase t.ph now) } }

theorem Block.uid_nextPhase (t : Bar) (now : Nat) (b : Block) : (b.nextPhase t now).uid = b.uid := by
  unfold Block.nextPhase
  rfl

theorem State.blockBarEvent_of_complete (hb : s.block? u = some b) {f : Bar → Bar} (hp : (f b.barView).pa = 0) :
    s.blockBarEvent u f = (s.updBlock u (Block.nextPhase (f b.barView) (s.cycle b.stk))).acquireAll u 0
      (b.gidsWhere fun p => decide (p.wait = Wait.bsync (f b.barView).ph) && !p.stop) := by
  unfold State.blockBarEvent
  rw [hb]
  exact if_pos hp

theorem Split.age_goOn (p : Split) (now : Nat) : (p.goOn now).age = p.age := by
  unfold Split.goOn
  split <;> rfl

theorem Block.stirred_nextPhase (t : Bar) (now : Nat) (b : Block) : b.Stirred (b.nextPhase t now) := by
  refine ⟨_, _, fun g => ⟨Split.passPhase t.ph now, g.heard, fun p => ?_, rfl⟩, rfl⟩
  unfold Split.passPhase
  split
  · rename_i hw
    exact ⟨p.age_goOn now, fun h => absurd (hw.symm.trans h) (by simp)⟩
  · exact ⟨rfl, fun _ => rfl⟩

theorem State.stirred_blockBarEvent (s : State) (u : Nat) (f : Bar → Bar) : State.Stirred u s (s.blockBarEvent u f) := by
  cases hb : s.block? u with
  | none =>
    have hnone : s.blockBarEvent u f = s := by simp only [State.blockBarEvent, hb]
    rw [hnone]
    exact .refl u s
  | some b =>
    by_cases hp : (f b.barView).pa = 0
    · rw [State.blockBarEvent_of_complete hb hp]
      have hnext := State.stirred_updBlock (s := s) (u := u) (f := Block.nextPhase (f b.barView) (s.cycle b.stk)) (Block.uid_nextPhase _ _)
        fun c _ => c.stirred_nextPhase _ _
      exact hnext.trans (State.stirred_acquireAll _ u _)
    · rw [State.blockBarEvent_of_pending hb hp]
      exact State.stirred_updBlock (fun _ => rfl) fun c _ => c.stirred_bar _

/-- Without membership-tracked barriers a step of membership is an event on the block barrier. -/
theorem State.memberStep_of_no_tracked (hb : s.block? u = some b) (hm : s.mbOffsets b = []) (f : Bar → Bar) :
    s.memberStep u f = s.blockBarEvent u f := by
  simp only [State.memberStep, hb, hm, List.foldl_nil]

end

end Sys2Proof.Machine
end

section
/-!
SUPPORT. `attach` and `detach` (R56, R57, R194): the block after the step of membership and after the instruction.
-/
-- One theorem after another: many at once need more memory than the check allows.
set_option Elab.async false

namespace Sys2Proof.Machine

section
variable {i : Instr} {s s1 : State} {x : Ctx} {g : Group} {v : Bool} {f : Bar → Bar}

/-- The issuing block after an instruction that is done. -/
theorem Ctx.retire_block (x : Ctx) (i : Instr) {b : Block} (hb : s1.block? x.c.blk = some b) (lat : List Word) :
    (x.retire i s1 lat).block? x.c.blk = some (b.updGroup x.c.gid (x.retired i lat)) :=
  State.block?_updBlock_self _ (fun _ h => h) hb

/-- The issuing group in the state that the effect starts from. -/
theorem Ctx.Of.group? (h : Ctx.Of i s x g) : x.s.group? x.c.blk x.c.gid = some x.g := by
  rw [State.group?, h.block]
  exact Block.group?_updGroup_self (fun _ => x.g) (fun _ _ => h.gid) h.grp

/-- The issuing group joins or leaves its block. -/
def Ctx.joined (x : Ctx) (v : Bool) : State := x.s.updGroup x.c.blk x.c.gid fun y => { y with attached := v }

/-- The issuing block once its group has joined or left. -/
def Ctx.joinedBlock (x : Ctx) (v : Bool) : Block :=
  (x.b.updGroup x.c.gid fun _ => x.g).updGroup x.c.gid fun y => { y with attached := v }

theorem Ctx.Of.joined_block (h : Ctx.Of i s x g) (v : Bool) : (x.joined v).block? x.c.blk = some (x.joinedBlock v) :=
  State.block?_updBlock_self (fun b => b.updGroup x.c.gid fun y => { y with attached := v }) (fun _ h => h) h.block

theorem Ctx.Of.joined_group (h : Ctx.Of i s x g) (v : Bool) :
    (x.joinedBlock v).group? x.c.gid = some { x.g with attached := v } :=
  Block.group?_updGroup_self (fun y => { y with attached := v }) (fun _ h => h)
    (Block.group?_updGroup_self (fun _ => x.g) (fun _ _ => h.gid) h.grp)

theorem Ctx.Of.member_step (h : Ctx.Of i s x g) (hm : x.s.mbOffsets x.b = []) :
    (x.joined v).memberStep x.c.blk f = (x.joined v).blockBarEvent x.c.blk f :=
  State.memberStep_of_no_tracked (h.joined_block v) hm f

/-- What a step of membership leaves of the issuing block. -/
theorem Ctx.Of.after_step (h : Ctx.Of i s x g) (v : Bool) (f : Bar → Bar) :
    ∃ b1 g1 p1, ((x.joined v).blockBarEvent x.c.blk f).block? x.c.blk = some b1 ∧ (x.joinedBlock v).Stirred b1 ∧
      b1.group? x.c.gid = some g1 ∧ g1.attached = v ∧ g1.split? x.c.age = some p1 ∧
      ((f x.b.barView).pa ≠ 0 → b1.bar = (f x.b.barView).blockWord) := by
  obtain ⟨-, -, hstir⟩ := (x.joined v).stirred_blockBarEvent x.c.blk f
  obtain ⟨b1, hb1, hs1⟩ := hstir _ (h.joined_block v)
  obtain ⟨g1, hg1, hsg⟩ := hs1.group? (h.joined_group v)
  obtain ⟨p1, hp1⟩ := hsg.split? (g := { x.g with attached := v }) h.split
  refine ⟨b1, g1, p1, hb1, hs1, hg1, ?_, hp1, fun hpa => ?_⟩
  · obtain ⟨-, -, -, rfl⟩ := hsg
    rfl
  · have hview : (x.joinedBlock v).barView = x.b.barView := rfl
    rw [State.blockBarEvent_of_pending (h.joined_block v) (hview ▸ hpa), hview] at hb1
    have hself := State.block?_updBlock_self (fun c => { c with bar := (f x.b.barView).blockWord }) (fun _ h => h) (h.joined_block v)
    exact (congrArg Block.bar (Option.some.inj (hself.symm.trans hb1))).symm

theorem Ctx.Of.mem_step (h : Ctx.Of i s x g) (v : Bool) (f : Bar → Bar) : ((x.joined v).blockBarEvent x.c.blk f).mem = s.mem := by
  obtain ⟨hmem, -, -⟩ := (x.joined v).stirred_blockBarEvent x.c.blk f
  rw [hmem, show (x.joined v).mem = x.s.mem from rfl, h.st]
  rfl

/-- The frame of `attach` and `detach`, from the step of membership that they do. -/
theorem Ctx.Of.member_ends (h : Ctx.Of i s x g) (v : Bool) (f : Bar → Bar) :
    let t := x.retire i ((x.joined v).blockBarEvent x.c.blk f) []
    t.mem = s.mem ∧ ∃ b' g' p', t.block? x.c.blk = some b' ∧ b'.group? x.c.gid = some g' ∧ g'.attached = v ∧
      g'.split? x.c.age = some p' ∧ p'.pc = x.p.pc + 4 ∧ ((f x.b.barView).pa ≠ 0 → b'.bar = (f x.b.barView).blockWord) := by
  obtain ⟨b1, g1, p1, hb1, -, hg1, hv, hp1, hbar⟩ := h.after_step v f
  exact ⟨h.mem_step v f, _, x.retired i [] g1, _, x.retire_block i hb1 [],
    Block.group?_updGroup_self (x.retired i []) (fun _ h => h) hg1, hv, x.split?_retired_self i [] hp1, rfl, hbar⟩

/-- An instruction that is done retires. -/
theorem issue_of_done (h : Issues i s x) {effect : Ctx → Res} {lat : List Word} (he : effect x = .done s1 lat) :
    issue i s effect = .next (x.retire i s1 lat) := by rw [issue_of_issues h, he]

theorem State.updBlock_id (s : State) (u : Nat) : (s.updBlock u fun b => b) = s := by simp [State.updBlock]

/-- A gathering copy no longer expects a group. -/
def Block.unexpect (n : Nat) (b : Block) : Block := { b with expect := b.expect.filter fun x => !(x == n) }

/-- A block in which no copy gathers and no joint operation waits has nothing to forget of a group that left, but that a copy no longer
expects it (R276, R281). -/
theorem State.memberLeft_of_quiet {s : State} {u n : Nat} {b : Block} (hb : s.block? u = some b) (hgather : b.gather = []) (harr : b.arrivals = []) :
    s.memberLeft u n = s ∨ s.memberLeft u n = s.updBlock u (Block.unexpect n) := by
  have hb' := State.block?_updBlock_self (Block.unexpect n) (fun _ h => h) hb
  have hforget : s.copyForget u n = s.updBlock u (Block.unexpect n) := by
    have hstay : (s.updBlock u (Block.unexpect n)).gatherEnd u = s.updBlock u (Block.unexpect n) := by
      simp [State.gatherEnd, hb', Block.unexpect, hgather]
    exact hstay
  have hgone : (s.updBlock u (Block.unexpect n)).gangGone u n = s.updBlock u (Block.unexpect n) := by
    have harr' : (b.unexpect n).arrivals = [] := harr
    have hall (l : List Arrival) : (l.filter fun _ => true) = l := List.filter_eq_self.2 fun _ _ => rfl
    simp [State.gangGone, hb', harr', State.faultArrivals, hall, State.updBlock_id]
  unfold State.memberLeft
  rw [hforget, hgone]
  split
  · split
    · exact .inl rfl
    · exact .inr rfl
  · exact .inr rfl

/-- The frame of `detach`, where neither a gathering copy nor a joint operation has to forget the group. -/
theorem Ctx.Of.leaving_ends (h : Ctx.Of i s x g) (hgather : x.b.gather = []) (harr : x.b.arrivals = []) :
    let t := x.retire i (((x.joined false).blockBarEvent x.c.blk (Bar.leave x.c.gid)).memberLeft x.c.blk x.c.gid) []
    t.mem = s.mem ∧ ∃ b' g' p', t.block? x.c.blk = some b' ∧ b'.group? x.c.gid = some g' ∧ g'.attached = false ∧
      g'.split? x.c.age = some p' ∧ p'.pc = x.p.pc + 4 ∧
      ((Bar.leave x.c.gid x.b.barView).pa ≠ 0 → b'.bar = (Bar.leave x.c.gid x.b.barView).blockWord) := by
  obtain ⟨b1, g1, p1, hb1, hs1, hg1, hv, hp1, hbar⟩ := h.after_step false (Bar.leave x.c.gid)
  have hquiet : b1.gather = [] ∧ b1.arrivals = [] := by
    obtain ⟨f, w, -, rfl⟩ := hs1
    exact ⟨hgather, harr⟩
  rcases State.memberLeft_of_quiet (n := x.c.gid) hb1 hquiet.1 hquiet.2 with hleft | hleft
  · rw [hleft]
    exact h.member_ends false (Bar.leave x.c.gid)
  · rw [hleft]
    have hb2 := State.block?_updBlock_self (Block.unexpect x.c.gid) (fun _ h => h) hb1
    exact ⟨h.mem_step false (Bar.leave x.c.gid), _, x.retired i [] g1, _, x.retire_block i hb2 [],
      Block.group?_updGroup_self (b := b1.unexpect x.c.gid) (x.retired i []) (fun _ h => h) hg1, hv, x.split?_retired_self i [] hp1, rfl, hbar⟩

end

end Sys2Proof.Machine
end

section
-- One theorem after another: many at once need more memory than the check allows.
set_option Elab.async false

open Sys2Proof Sys2Proof.Machine

/-- Settles O30: a step of membership is an event on the block barrier, which stirs the groups at most (R56, R57). -/
theorem membershipStepsMoveTheBlockBarrier : Obligations.MembershipStepsMoveTheBlockBarrier := by
  unfold Obligations.MembershipStepsMoveTheBlockBarrier
  refine ⟨fun s => ⟨.of_forall rfl fun x hx t ht => ⟨fun h => ?again, fun h hm => ?attach⟩,
    .of_forall rfl fun x hx t ht => ⟨fun h => ?alone, fun h hm hgather harr => ?detach⟩⟩, fun b => ⟨rfl, rfl, rfl, rfl⟩, fun b n => ⟨rfl, rfl, rfl⟩⟩
  case again =>
    obtain ⟨g0, ho⟩ := hx.1.of
    have hstay : x.s.attachGroup x.c.blk x.c.gid = x.s := by simp only [State.attachGroup, ho.group?, h, if_true]
    obtain ⟨u, hu, hw⟩ := issue_nothing (effect := fun x => .done (x.s.attachGroup x.c.blk x.c.gid) []) hx (by rw [hstay]; rfl) (by simp)
    exact next_unique ht hu ▸ hw
  case attach =>
    obtain ⟨g0, ho⟩ := hx.1.of
    have hstep : x.s.attachGroup x.c.blk x.c.gid = (x.joined true).blockBarEvent x.c.blk (Bar.join 1) := by
      rw [← ho.member_step hm]
      simp only [State.attachGroup, ho.group?, h]
      rfl
    have ht' : t = x.retire .attach (x.s.attachGroup x.c.blk x.c.gid) [] :=
      next_unique ht (issue_of_issues hx fun x => .done (x.s.attachGroup x.c.blk x.c.gid) [])
    rw [ht', hstep]
    exact ho.member_ends true (Bar.join 1)
  case alone =>
    obtain ⟨u, hu, hw⟩ := issue_nothing (effect := fun x => if x.g.attached then _ else x.nothing) hx (if_neg (by simp [h])) (by simp)
    exact next_unique ht hu ▸ hw
  case detach =>
    obtain ⟨g0, ho⟩ := hx.1.of
    have hstep : x.s.detachGroup x.c.blk x.c.gid = (x.joined false).blockBarEvent x.c.blk (Bar.leave x.c.gid) := by
      rw [← ho.member_step hm]
      simp only [State.detachGroup, ho.group?, h]
      rfl
    have ht' : t = x.retire .detach ((x.s.detachGroup x.c.blk x.c.gid).memberLeft x.c.blk x.c.gid) [] :=
      next_unique ht (issue_of_done (effect := fun x => if x.g.attached then .done _ [] else x.nothing) hx (if_pos h))
    rw [ht', hstep]
    exact ho.leaving_ends hgather harr
end

section
/-!
SUPPORT. `grow` (R53, R54, R193): the groups that a block starts.
-/
-- One theorem after another: many at once need more memory than the check allows.
set_option Elab.async false

namespace Sys2Proof.Machine

/-! ## A group joins a sorted list -/

theorem length_insertBy {α : Type} (key : α → Nat) (x : α) (l : List α) : (insertBy key x l).length = l.length + 1 := by
  induction l with
  | nil => rfl
  | cons y r ih =>
    unfold insertBy
    split
    · rfl
    · simp [ih]

theorem find?_insertBy_ne {α : Type} {key : α → Nat} {x : α} {p : α → Bool} (hx : p x = false) (l : List α) :
    (insertBy key x l).find? p = l.find? p := by
  induction l with
  | nil => simp [insertBy, hx]
  | cons y r ih =>
    unfold insertBy
    split
    · simp [hx]
    · simp [List.find?_cons, ih]

theorem find?_insertBy_self {α : Type} {key : α → Nat} {x : α} {p : α → Bool} (hx : p x = true) {l : List α} (hl : l.find? p = none) :
    (insertBy key x l).find? p = some x := by
  induction l with
  | nil => simp [insertBy, hx]
  | cons y r ih =>
    obtain ⟨hy, hr⟩ : p y = false ∧ r.find? p = none := by simpa [List.find?_eq_none] using hl
    unfold insertBy
    split
    · simp [hx]
    · simp [hy, ih hr]

/-! ## Free group indices -/

theorem Block.exists_freeGid {b : Block} (h : b.groups.length < 32) : ∃ n r, b.freeGids = n :: r ∧ b.group? n = none := by
  have hne : b.freeGids ≠ [] := by
    intro hnil
    have hcover : List.range 32 ⊆ b.groups.map (·.gid) := fun m hm => by
      have := List.filter_eq_nil_iff.1 hnil m hm
      simpa using this
    have := (List.nodup_range.subperm hcover).length_le
    simp only [List.length_range, List.length_map] at this
    omega
  obtain ⟨n, r, hcons⟩ := List.exists_cons_of_ne_nil hne
  refine ⟨n, r, hcons, ?_⟩
  have hmem : n ∈ b.freeGids := by simp [hcons]
  have := (List.mem_filter.1 hmem).2
  simp only [Bool.not_eq_true', List.any_eq_false] at this
  exact List.find?_eq_none.2 this

/-! ## One more group -/

/-- A group as `grow` starts it: attached, its rank and the grower in its scalars, and one split at the entry under the launch's modes. -/
def Group.Grown (l : Launch) (baseN grower nln entry rank : Nat) (h : Group) : Prop :=
  h.sreg 1 = BitVec.ofNat 64 rank ∧ h.sreg 2 = BitVec.ofNat 64 grower ∧ h.attached = true ∧ h.lanes = lowLanes nln ∧ h.baseN = baseN ∧
    ∃ q, h.splits = [q] ∧ q.stands = (BitVec.ofNat 57 entry, lowLanes nln, l.mode, l.mmode, 0, .none)

section
variable {l : Launch} {baseN grower nln entry rank : Nat} {h h' : Group}

theorem Group.Grown.stirred (hg : h.Grown l baseN grower nln entry rank) (hs : h.Stirred h') : h'.Grown l baseN grower nln entry rank := by
  obtain ⟨f, heard, hf, rfl⟩ := hs
  obtain ⟨hs1, hs2, hatt, hlanes, hbase, q, hq, hstands⟩ := hg
  refine ⟨hs1, hs2, hatt, hlanes, hbase, f q, by simp [hq], ?_⟩
  refine ((hf q).2 ?_).trans hstands
  simp only [Split.stands, Prod.mk.injEq] at hstands
  obtain ⟨-, -, -, -, -, hwait⟩ := hstands
  exact hwait

theorem newGroup_grown (gid slot ctx now : Nat) :
    (newGroup gid slot ctx nln baseN entry l.mode l.mmode [(1, BitVec.ofNat 64 rank), (2, BitVec.ofNat 64 grower)] now).Grown
      l baseN grower nln entry rank := by
  refine ⟨?_, ?_, rfl, rfl, rfl, _, rfl, rfl⟩
  · simp [Group.sreg, newGroup, Sparse.putAll, Sparse.get_put]
  · simp [Group.sreg, newGroup, Sparse.putAll, Sparse.get_put]

end

section
variable {s t : State} {b : Block}

/-- The membership-tracked barriers of a block are those its own S and place, or memory, hold. -/
theorem State.mbOffsets_congr {b' : Block} (hm : t.mem = s.mem) (hplace : b'.place = b.place) (hS : b'.S = b.S) (hsize : b'.sSize = b.sSize) :
    t.mbOffsets b' = s.mbOffsets b := by
  have hread (o n : Nat) : t.bufRead b' .scr o n = s.bufRead b .scr o n := by
    simp only [State.bufRead, hplace, Block.buf, hS, State.readMem, State.sectionPa, State.readNat, hm]
  simp only [State.mbOffsets, hread, hsize]

/-- What the growth of a block leaves as it is. -/
structure Grows (u : Nat) (s t : State) (b b' : Block) : Prop where
  mem : t.mem = s.mem
  launches : t.launches = s.launches
  block : t.block? u = some b'
  launch : b'.launch = b.launch
  place : b'.place = b.place
  S : b'.S = b.S
  sSize : b'.sSize = b.sSize
  baseN : b'.baseN = b.baseN
  old : ∀ m g, b.group? m = some g → ∃ g', b'.group? m = some g' ∧ g.Stirred g'

theorem Grows.trans {u : Nat} {r : State} {b' b'' : Block} (h : Grows u s t b b') (h' : Grows u t r b' b'') : Grows u s r b b'' where
  mem := h'.mem.trans h.mem
  launches := h'.launches.trans h.launches
  block := h'.block
  launch := h'.launch.trans h.launch
  place := h'.place.trans h.place
  S := h'.S.trans h.S
  sSize := h'.sSize.trans h.sSize
  baseN := h'.baseN.trans h.baseN
  old := fun m g hg => by
    obtain ⟨g1, hg1, hs1⟩ := h.old m g hg
    obtain ⟨g2, hg2, hs2⟩ := h'.old m g1 hg1
    exact ⟨g2, hg2, hs1.trans hs2⟩

/-- The group that `addGroup` starts. -/
def State.newcomer (s : State) (b : Block) (n nln entry : Nat) (scal : List (Nat × DWord)) : Group :=
  newGroup n (nth 0 (s.freeSlots b.stk b.core) 0) (4 * (s.stack b.stk).nextCtx + b.stk) nln b.baseN entry (s.launchOf b).mode
    (s.launchOf b).mmode scal ((s.updStack b.stk fun k => { k with nextCtx := k.nextCtx + 1 }).cycle b.stk)

/-- A group takes its place in a block. -/
def Block.withGroup (g : Group) (b : Block) : Block := { b with groups := insertBy (·.gid) g b.groups }

/-- A stack with one context more and a block with one group more, before the step of membership. -/
def State.withGroup (s : State) (b : Block) (g : Group) : State :=
  (s.updStack b.stk fun k => { k with nextCtx := k.nextCtx + 1 }).updBlock b.uid (Block.withGroup g)

theorem State.addGroup_eq {n nln entry : Nat} {scal : List (Nat × DWord)} (hb : s.block? b.uid = some b) (hm : s.mbOffsets b = []) :
    s.addGroup b n nln entry scal = (s.withGroup b (s.newcomer b n nln entry scal)).blockBarEvent b.uid (Bar.join 1) := by
  have hb' : (s.withGroup b (s.newcomer b n nln entry scal)).block? b.uid = some (b.withGroup (s.newcomer b n nln entry scal)) :=
    State.block?_updBlock_self (Block.withGroup _) (fun _ h => h) hb
  exact State.memberStep_of_no_tracked hb' ((State.mbOffsets_congr rfl rfl rfl rfl).trans hm) _

theorem Block.group?_withGroup_ne {g : Group} {m : Nat} (hm : g.gid ≠ m) (b : Block) : (b.withGroup g).group? m = b.group? m :=
  find?_insertBy_ne (by simpa using hm) _

theorem Block.group?_withGroup_self {g : Group} (hn : b.group? g.gid = none) : (b.withGroup g).group? g.gid = some g :=
  find?_insertBy_self (by simp) hn

theorem State.withGroup_grows {g : Group} (hb : s.block? b.uid = some b) (hn : b.group? g.gid = none) :
    Grows b.uid s (s.withGroup b g) b (b.withGroup g) where
  mem := rfl
  launches := rfl
  block := State.block?_updBlock_self (Block.withGroup g) (fun _ h => h) hb
  launch := rfl
  place := rfl
  S := rfl
  sSize := rfl
  baseN := rfl
  old := fun m h hm => ⟨h, by rw [Block.group?_withGroup_ne (fun he => by rw [← he, hn] at hm; cases hm), hm], .refl h⟩

theorem State.Stirred.grows {u : Nat} (h : State.Stirred u s t) (hb : s.block? u = some b) :
    ∃ b', Grows u s t b b' ∧ b'.groups.length = b.groups.length := by
  obtain ⟨hmem, hlaunch, hstir⟩ := h
  obtain ⟨b', hb', hs⟩ := hstir b hb
  refine ⟨b', ?_, ?_⟩
  · have hold := fun m g => hs.group? (n := m) (g := g)
    obtain ⟨f, w, -, rfl⟩ := hs
    exact ⟨hmem, hlaunch, hb', rfl, rfl, rfl, rfl, rfl, hold⟩
  · obtain ⟨f, w, -, rfl⟩ := hs
    exact List.length_map _

/-- A group's slot of issue moves on. -/
def Group.issuedAt (n : Nat) (g : Group) : Group := { g with lastIssue := n }

/-- One group more. -/
theorem State.addGroup_grows {u n nln entry grower rank now : Nat} (hb : s.block? u = some b) (hm : s.mbOffsets b = []) (hn : b.group? n = none) :
    let t := (s.addGroup b n nln entry [(1, BitVec.ofNat 64 rank), (2, BitVec.ofNat 64 grower)]).updGroup u n (Group.issuedAt now)
    ∃ b' h, Grows u s t b b' ∧ b'.groups.length = b.groups.length + 1 ∧ b'.group? n = some h ∧
      h.Grown (s.launchOf b) b.baseN grower nln entry rank := by
  intro t
  have hu : b.uid = u := State.uid_of_block? hb
  subst hu
  let g0 := s.newcomer b n nln entry [(1, BitVec.ofNat 64 rank), (2, BitVec.ofNat 64 grower)]
  have hjoin : Grows b.uid s (s.withGroup b g0) b (b.withGroup g0) := State.withGroup_grows hb hn
  obtain ⟨b1, hstir, hlen⟩ := ((s.withGroup b g0).stirred_blockBarEvent b.uid (Bar.join 1)).grows hjoin.block
  obtain ⟨h1, hh1, hsh⟩ := hstir.old n g0 (Block.group?_withGroup_self (g := g0) hn)
  have h01 := hjoin.trans hstir
  have hadd : t = ((s.withGroup b g0).blockBarEvent b.uid (Bar.join 1)).updGroup b.uid n (Group.issuedAt now) := by
    rw [← State.addGroup_eq hb hm]
  have hb2 := State.block?_updBlock_self (fun b => b.updGroup n (Group.issuedAt now)) (fun _ h => h) h01.block
  have hgrown := (newGroup_grown ..).stirred (l := s.launchOf b) hsh
  rw [hadd]
  refine ⟨b1.updGroup n (Group.issuedAt now), h1.issuedAt now, ⟨h01.mem, h01.launches, hb2, h01.launch, h01.place, h01.S, h01.sSize, h01.baseN,
    fun m g hg => ?_⟩, ?_, Block.group?_updGroup_self _ (fun _ h => h) hh1, hgrown⟩
  · have hmn : m ≠ n := fun h => by rw [h, hn] at hg; cases hg
    rw [Block.group?_updGroup_ne b1 (Group.issuedAt now) (fun _ h => h) hmn]
    exact h01.old m g hg
  · exact (List.length_map _).trans (hlen.trans (length_insertBy ..))

/-- The launch of a block that has grown. -/
theorem Grows.launchOf {u : Nat} {b' : Block} (h : Grows u s t b b') : t.launchOf b' = s.launchOf b := by
  simp only [State.launchOf, State.launch?, h.launches, h.launch]

theorem Grows.mbOffsets {u : Nat} {b' : Block} (h : Grows u s t b b') : t.mbOffsets b' = s.mbOffsets b :=
  State.mbOffsets_congr h.mem h.place h.S h.sSize

theorem Grows.refl {u : Nat} (h : s.block? u = some b) : Grows u s s b b :=
  ⟨rfl, rfl, h, rfl, rfl, rfl, rfl, rfl, fun _ g hg => ⟨g, hg, .refl g⟩⟩

/-- The groups that a `grow` starts stand in the block in the order of their ranks, none of them in the place of a group that was there. -/
theorem State.growGroups_grows {u grower nln entry now : Nat} (n : Nat) : ∀ {rank : Nat} {s : State} {b : Block}, s.block? u = some b →
    s.mbOffsets b = [] → n ≤ 32 - b.groups.length →
    ∃ b', Grows u s (State.growGroups u grower nln entry now n rank s) b b' ∧ b'.groups.length = b.groups.length + n ∧
      ∀ r < n, ∃ m h, b.group? m = none ∧ b'.group? m = some h ∧ h.Grown (s.launchOf b) b.baseN grower nln entry (rank + r) := by
  induction n with
  | zero => exact fun hb _ _ => ⟨_, .refl hb, rfl, fun r hr => absurd hr (by omega)⟩
  | succ n ih =>
    intro rank s b hb hm hn
    obtain ⟨gid, rest, hfree, hnone⟩ := Block.exists_freeGid (b := b) (by omega)
    obtain ⟨b1, h1, hg1, hlen1, hh1, hgrown⟩ := State.addGroup_grows (rank := rank) (grower := grower) (nln := nln) (entry := entry)
      (now := now + 1) hb hm hnone
    obtain ⟨b2, hg2, hlen2, hnew⟩ := ih (rank := rank + 1) hg1.block (hg1.mbOffsets.trans hm) (by omega)
    refine ⟨b2, ?_, by omega, fun r hr => ?_⟩
    · simp only [State.growGroups, hb, hfree]
      exact hg1.trans hg2
    · cases r with
      | zero =>
        obtain ⟨h2, hh2, hs2⟩ := hg2.old gid h1 hh1
        exact ⟨gid, h2, hnone, hh2, hgrown.stirred hs2⟩
      | succ r =>
        obtain ⟨m, h, hm1, hm2, hgr⟩ := hnew r (by omega)
        rw [hg1.launchOf, hg1.baseN, Nat.add_right_comm rank 1 r] at hgr
        refine ⟨m, h, ?_, hm2, hgr⟩
        by_contra hold
        obtain ⟨g, hg⟩ := Option.ne_none_iff_exists'.1 hold
        obtain ⟨g', hg', -⟩ := hg1.old m g hg
        rw [hm1] at hg'
        cases hg'

end

section
variable {s : State} {x : Ctx} {i : Instr} {g : Group}

theorem Ctx.granted_le (x : Ctx) (n : Nat) : x.granted n ≤ n := by
  unfold Ctx.granted
  split <;> omega

/-- A grant leaves the block at most 32 groups. -/
theorem Ctx.granted_le_room (x : Ctx) (n : Nat) : x.granted n ≤ 32 - x.b.groups.length := by
  unfold Ctx.granted
  split <;> omega

theorem Ctx.granted_of_preempt (x : Ctx) (n : Nat) (h : x.b.preempt.isSome = true) : x.granted n = 0 := by
  simp [Ctx.granted, h]

/-- The entry of a `grow` is the low 57 bits of its scalar. -/
theorem field_low57 (y : DWord) : field y 56 0 = y.toNat % 2 ^ 57 := by simp [field, slice]

theorem ofNat_mod57 (n : Nat) : BitVec.ofNat 57 (n % 2 ^ 57) = BitVec.ofNat 57 n := BitVec.eq_of_toNat_eq (by simp)

/-- The state with the granted groups and their number in sD. -/
def Ctx.grown (x : Ctx) (d k entry : Nat) : State :=
  (State.growGroups x.c.blk x.c.gid x.b.nln entry x.now (x.granted k) 0 x.s).updCur x.c fun g => g.setS d (BitVec.ofNat 64 (x.granted k))

/-- What a `grow` leaves of the issuing block. -/
theorem Ctx.Of.grow_ends (ho : Ctx.Of i s x g) (d k entry : Nat) (hm : x.s.mbOffsets x.b = []) :
    let t := x.retire i (x.grown d k entry) []
    t.mem = s.mem ∧ ∃ b', t.block? x.c.blk = some b' ∧ b'.groups.length = x.b.groups.length + x.granted k ∧
      (∃ g' p', b'.group? x.c.gid = some g' ∧ (d ≠ 0 → g'.sreg d = BitVec.ofNat 64 (x.granted k)) ∧
        g'.split? x.c.age = some p' ∧ p'.pc = x.p.pc + 4) ∧
      ∀ r < x.granted k, ∃ h ∈ b'.groups, h.gid ≠ x.c.gid ∧ h.Grown x.l x.b.baseN x.c.gid x.b.nln entry r := by
  intro t
  have hm0 : x.s.mbOffsets (x.b.updGroup x.c.gid fun _ => x.g) = [] := (State.mbOffsets_congr rfl rfl rfl rfl).trans hm
  have hlaunch : x.s.launchOf (x.b.updGroup x.c.gid fun _ => x.g) = x.l := by rw [ho.lau, ho.st]; rfl
  have hlen0 : (x.b.updGroup x.c.gid fun _ => x.g).groups.length = x.b.groups.length := List.length_map _
  obtain ⟨b1, hgrows, hlen1, hnew⟩ := State.growGroups_grows (grower := x.c.gid) (nln := x.b.nln) (entry := entry) (now := x.now) (rank := 0)
    (x.granted k) ho.block hm0 (hlen0 ▸ x.granted_le_room k)
  have hself : (x.b.updGroup x.c.gid fun _ => x.g).group? x.c.gid = some x.g :=
    Block.group?_updGroup_self (fun _ => x.g) (fun _ _ => ho.gid) ho.grp
  obtain ⟨g1, hg1, hs1⟩ := hgrows.old _ _ hself
  obtain ⟨p1, hp1⟩ := hs1.split? ho.split
  have hsetS : ∀ y : Group, y.gid = x.c.gid → (y.setS d (BitVec.ofNat 64 (x.granted k))).gid = x.c.gid := fun y hy =>
    (y.setS_fields d _).1.trans hy
  have hb2 : (x.grown d k entry).block? x.c.blk = some (b1.updGroup x.c.gid fun g => g.setS d (BitVec.ofNat 64 (x.granted k))) :=
    State.block?_updBlock_self _ (fun _ h => h) hgrows.block
  have hg2 := Block.group?_updGroup_self (fun g => g.setS d (BitVec.ofNat 64 (x.granted k))) hsetS hg1
  have hg3 := Block.group?_updGroup_self (x.retired i []) (fun _ h => h) hg2
  have hp2 : (g1.setS d (BitVec.ofNat 64 (x.granted k))).split? x.c.age = some p1 := (congrArg (List.find? _) (g1.setS_fields d _).2.1).trans hp1
  refine ⟨hgrows.mem.trans (by rw [ho.st]; rfl), _, x.retire_block i hb2 [], ?_, ⟨_, _, hg3, fun hd => ?_, x.split?_retired_self i [] hp2, rfl⟩,
    fun r hr => ?_⟩
  · calc _ = b1.groups.length := (List.length_map _).trans (List.length_map _)
      _ = x.b.groups.length + x.granted k := hlen1.trans (congrArg (· + _) hlen0)
  · exact (g1.sreg_setS d _ d).trans (if_pos ⟨rfl, hd⟩)
  · obtain ⟨m, h, hold, hh, hgr⟩ := hnew r hr
    have hmn : m ≠ x.c.gid := fun he => by rw [he, hself] at hold; cases hold
    have hh3 : ((b1.updGroup x.c.gid fun g => g.setS d (BitVec.ofNat 64 (x.granted k))).updGroup x.c.gid (x.retired i [])).group? m = some h :=
      (Block.group?_updGroup_ne _ (x.retired i []) (fun _ h => h) hmn).trans ((Block.group?_updGroup_ne _ _ hsetS hmn).trans hh)
    rw [hlaunch, Nat.zero_add] at hgr
    exact ⟨h, List.mem_of_find?_eq_some hh3, Block.gid_of_group? hh3 ▸ hmn, hgr⟩

end

end Sys2Proof.Machine
end

section
-- One theorem after another: many at once need more memory than the check allows.
set_option Elab.async false

open Sys2Proof Sys2Proof.Machine

/-- Settles O29: group after group takes the lowest free index, each by a step of membership (R193, R54, R57). -/
theorem growStartsTheGrantedGroups : Obligations.GrowStartsTheGrantedGroups := by
  unfold Obligations.GrowStartsTheGrantedGroups
  refine fun d a k s => ⟨fun x hx hk => ?count, fun x hx => ⟨fun he => ?misaligned, fun he ho => ?outside⟩, .of_forall rfl fun x hx t ht he ho hm => ?grown⟩
  case count =>
    refine issue_of_check hx (Ctx.check_of_badOperand ?_) _
    rcases hk with rfl | hk
    · rfl
    · simp [badOperand, hk]
  case misaligned =>
    refine issue_of_trap hx (if_pos ?_)
    rw [field_low57]
    omega
  case outside =>
    refine issue_of_trap hx ((if_neg ?_).trans (if_pos ?_))
    · rw [field_low57]
      omega
    · rw [field_low57, ho]
  case grown =>
    obtain ⟨g, hof⟩ := hx.1.of
    have ht' : t = x.retire (.grow d a k) (x.grown d.toNat k.toNat (field (x.rds a) 56 0)) [] := by
      refine next_unique ht (issue_of_done hx ((if_neg ?_).trans (if_neg ?_)))
      · rw [field_low57]
        omega
      · rw [field_low57, ho]
        simp
    rw [field_low57] at ht'
    obtain ⟨hmem, b', hb', hlen, ⟨g', p', hg', hcount, hp'⟩, hnew⟩ := hof.grow_ends d.toNat k.toNat ((x.rds a).toNat % 2 ^ 57) hm
    rw [ht']
    refine ⟨⟨x.granted_le _, x.granted_of_preempt _⟩, hmem, b', hb', hlen, ⟨g', p', hg', fun hd => hcount ?_, hp'⟩, fun r hr => ?_⟩
    · exact fun h => hd (BitVec.eq_of_toNat_eq h)
    · obtain ⟨h, hh, hne, hgr⟩ := hnew r hr
      rw [Group.Grown, ofNat_mod57] at hgr
      exact ⟨h, hh, hne, hgr⟩
end

section
/-!
SUPPORT. Merging, promotion, division and rotation of the splits of a group (R40 to R43).
-/
-- One theorem after another: many at once need more memory than the check allows.
set_option Elab.async false

namespace Sys2Proof.Machine

section
variable {g : Group} {p q : Split} {now n : Nat}

/-- The ages of a group's splits tell them apart. -/
def Group.Distinct (g : Group) : Prop := (g.splits.map (·.age)).Nodup

theorem Group.Distinct.split? (hg : g.Distinct) (hp : p ∈ g.splits) : g.split? p.age = some p := find?_key_of_nodup hg hp

theorem Group.Distinct.eq_of_age (hg : g.Distinct) (hp : p ∈ g.splits) (hq : q ∈ g.splits) (h : p.age = q.age) : p = q :=
  List.inj_on_of_nodup_map hg hp hq h

/-! ## Merging -/

/-- A split that may merge: live and not stopped, its instruction not begun, outside a chain (R41). -/
def Group.MayMerge (g : Group) (p : Split) : Prop := p.live = true ∧ p.stop = false ∧ p.wait.notBegun = true ∧ g.inChain p = false

theorem Group.mergeable_iff : g.mergeable p q = true ↔ g.MayMerge p ∧ g.MayMerge q ∧ p.age ≠ q.age ∧ p.pc = q.pc ∧ p.mode = q.mode ∧
    p.mmode = q.mmode ∧ p.handler = q.handler := by
  simp [Group.mergeable, Group.mayMerge, Group.MayMerge, and_assoc]

theorem Group.mergeable_comm : g.mergeable p q = g.mergeable q p := by
  rw [Bool.eq_iff_iff, Group.mergeable_iff, Group.mergeable_iff]
  grind

theorem Group.mergeable_self : g.mergeable p p = false := by simp [Group.mergeable]

theorem Group.age_ne_of_mergeable (h : g.mergeable p q = true) : p.age ≠ q.age := by
  obtain ⟨-, -, hne, -⟩ := Group.mergeable_iff.1 h
  exact hne

/-- The pair that merges is one of the list, the older split first. -/
theorem Group.mergePair_spec {l : List Split} (h : g.mergePair l = some (p, q)) :
    p ∈ l ∧ q ∈ l ∧ g.mergeable p q = true ∧ p.age < q.age := by
  induction l with
  | nil => cases h
  | cons y r ih =>
    rw [Group.mergePair] at h
    cases hf : r.find? (g.mergeable y) with
    | none =>
      simp only [hf] at h
      obtain ⟨hp, hq, hrest⟩ := ih h
      exact ⟨List.mem_cons_of_mem _ hp, List.mem_cons_of_mem _ hq, hrest⟩
    | some z =>
      have hz := List.mem_cons_of_mem y (List.mem_of_find?_eq_some hf)
      have hm : g.mergeable y z = true := List.find?_some hf
      have hne := Group.age_ne_of_mergeable hm
      simp only [hf] at h
      split at h
      · obtain ⟨rfl, rfl⟩ := Prod.mk.inj (Option.some.inj h)
        exact ⟨List.mem_cons_self, hz, hm, by assumption⟩
      · obtain ⟨rfl, rfl⟩ := Prod.mk.inj (Option.some.inj h)
        exact ⟨hz, List.mem_cons_self, Group.mergeable_comm.trans hm, by omega⟩

/-- Without a pair that merges, no two splits of the list merge. -/
theorem Group.mergeable_of_no_pair {l : List Split} (h : g.mergePair l = none) : ∀ p ∈ l, ∀ q ∈ l, g.mergeable p q = false := by
  induction l with
  | nil => simp
  | cons y r ih =>
    rw [Group.mergePair] at h
    cases hf : r.find? (g.mergeable y) with
    | some z =>
      simp only [hf] at h
      split at h <;> cases h
    | none =>
      simp only [hf] at h
      have hy : ∀ z ∈ r, g.mergeable y z = false := fun z hz => by simpa using List.find?_eq_none.1 hf z hz
      intro p hp q hq
      rcases List.mem_cons.1 hp with rfl | hpr
      · rcases List.mem_cons.1 hq with rfl | hqr
        · exact Group.mergeable_self
        · exact hy q hqr
      · rcases List.mem_cons.1 hq with rfl | hqr
        · exact Group.mergeable_comm.trans (hy p hpr)
        · exact ih h p hpr q hqr

/-- The splits after a merge: the younger is gone, the older has both lane sets. -/
theorem Group.split?_merge (g : Group) (p q : Split) (a : Nat) : (g.merge p q).split? a =
    if a = q.age then none else (g.split? a).map fun x => if x.age = p.age then { x with mask := p.mask ||| q.mask } else x := by
  refine (find?_map_upd (g.splits.filter fun x => !(x.age == q.age)) Split.age p.age a (fun x => { x with mask := p.mask ||| q.mask })
    fun _ h => h).trans ?_
  rw [List.find?_filter]
  split
  case isTrue h =>
    rw [List.find?_eq_none.2 fun y _ => by simp [h]]
    rfl
  case isFalse h =>
    refine congrArg (Option.map _) (congrArg (List.find? · g.splits) (funext fun y => ?_))
    by_cases hy : y.age = a
    · simp [hy, h]
    · simp [hy]

theorem Group.length_merge (hq : q ∈ g.splits) : (g.merge p q).splits.length < g.splits.length := by
  refine (List.length_map _).trans_lt (List.length_filter_lt_length_iff_exists.2 ⟨q, hq, by simp⟩)

/-! ## Promotion -/

/-- A dormant split takes a live slot. -/
def Split.promoted (now : Nat) (p : Split) : Split := { p with live := true, since := now, readyAt := now }

theorem Group.mem_dormant : p ∈ g.dormant ↔ p ∈ g.splits ∧ p.live = false ∧ p.stop = false ∧ p.wait ≠ .rendezvous := by
  simp [Group.dormant, and_assoc]

theorem Group.minBy?_dormant_eq_none (key : Split → Nat) : minBy? key g.dormant = none ↔ g.dormant = [] := by
  constructor
  · intro h
    by_contra hne
    obtain ⟨y, hy⟩ := List.exists_mem_of_ne_nil _ hne
    obtain ⟨z, hz, -⟩ := minBy?_spec key hy
    rw [h] at hz
    cases hz
  · exact fun h => by rw [h]; rfl

theorem Group.promote_of_settled (h : g.dormant = [] ∨ 4 ≤ g.liveCount) : g.promote now n = g := by
  cases n with
  | zero => rfl
  | succ n =>
    rw [Group.promote]
    split
    · rfl
    · rw [(Group.minBy?_dormant_eq_none _).2 (h.resolve_right ‹_›)]

theorem Group.refill_of_settled (h : g.dormant = [] ∨ 4 ≤ g.liveCount) : g.refill now = g := Group.promote_of_settled h

/-- One promotion leaves no new dormant split. -/
theorem Group.dormant_updSplit_promoted {a : Nat} {y : Split} (hy : y ∈ (g.updSplit a (Split.promoted now)).dormant) :
    y ∈ g.dormant ∧ y.age ≠ a := by
  obtain ⟨hmem, hlive, hrest⟩ := Group.mem_dormant.1 hy
  obtain ⟨x, hx, rfl⟩ := List.mem_map.1 hmem
  by_cases hxa : x.age = a
  · rw [if_pos hxa] at hlive
    cases hlive
  · rw [if_neg hxa] at hlive hrest ⊢
    exact ⟨Group.mem_dormant.2 ⟨hx, hlive, hrest⟩, hxa⟩

theorem Group.liveCount_updSplit_promoted (hp : p ∈ g.dormant) : g.liveCount < (g.updSplit p.age (Split.promoted now)).liveCount := by
  obtain ⟨hmem, hlive, -⟩ := Group.mem_dormant.1 hp
  obtain ⟨l, r, hl⟩ := List.append_of_mem hmem
  have hmono : ∀ l : List Split, (l.filter (·.live)).length ≤ ((l.map fun x => if x.age = p.age then x.promoted now else x).filter (·.live)).length := fun l => by
    rw [List.filter_map, List.length_map]
    refine (List.monotone_filter_right l fun x hx => ?_).length_le
    simp only [Function.comp]
    split
    · rfl
    · exact hx
  have h1 := hmono l
  have h2 := hmono r
  simp only [Group.liveCount, Group.updSplit, hl, List.filter_append, List.filter_cons, List.map_append, List.map_cons, hlive, List.length_append,
    Split.promoted, if_true, List.length_cons] at h1 h2 ⊢
  simp only [Bool.false_eq_true, if_false]
  omega

theorem Group.length_refill (now : Nat) (g : Group) : (g.refill now).splits.length = g.splits.length := by
  obtain ⟨f, -, hf⟩ := g.alike_refill now
  rw [hf]
  exact List.length_map _

theorem Group.Distinct.updSplit_promoted (hg : g.Distinct) (a : Nat) : (g.updSplit a (Split.promoted now)).Distinct := by
  have hage : (fun x : Split => x.age) ∘ (fun x => if x.age = a then x.promoted now else x) = fun x => x.age := funext fun x => by
    simp only [Function.comp]
    split <;> rfl
  have hmap : (g.updSplit a (Split.promoted now)).splits.map (·.age) = g.splits.map (·.age) := by
    rw [Group.updSplit, List.map_map, hage]
  rw [Group.Distinct, hmap]
  exact hg

/-- What promotion does: it takes at most `n` dormant splits, those of lowest PC, while a live slot is free. -/
theorem Group.promote_spec (n : Nat) : ∀ g : Group, g.Distinct →
    let r := g.promote now n
    (∀ y ∈ r.dormant, y ∈ g.dormant) ∧ (4 ≤ r.liveCount ∨ g.liveCount + n ≤ r.liveCount ∨ r.dormant = []) ∧
      ∀ p ∈ r.splits, p ∈ g.splits ∨ ∃ q ∈ g.dormant, p = q.promoted now ∧ ∀ y ∈ r.dormant, q.pcKey ≤ y.pcKey := by
  induction n with
  | zero => exact fun g _ => ⟨fun _ h => h, .inr (.inl (Nat.le_refl _)), fun _ h => .inl h⟩
  | succ n ih =>
    intro g hg
    by_cases hset : g.dormant = [] ∨ 4 ≤ g.liveCount
    · rw [Group.promote_of_settled hset]
      exact ⟨fun _ h => h, hset.symm.imp_right .inr, fun _ h => .inl h⟩
    · obtain ⟨hne, hlive⟩ := not_or.1 hset
      obtain ⟨y0, hy0⟩ := List.exists_mem_of_ne_nil _ hne
      obtain ⟨p, hmin, hp, hleast⟩ := minBy?_spec Split.pcKey hy0
      have hstep : g.promote now (n + 1) = (g.updSplit p.age (Split.promoted now)).promote now n := by
        rw [Group.promote, if_neg hlive, hmin]
        rfl
      rw [hstep]
      obtain ⟨hdorm, hcount, hnew⟩ := ih _ (hg.updSplit_promoted p.age)
      have hcount1 := Group.liveCount_updSplit_promoted (now := now) hp
      refine ⟨fun y hy => (Group.dormant_updSplit_promoted (hdorm y hy)).1, ?_, fun z hz => ?_⟩
      · rcases hcount with h | h | h
        · exact .inl h
        · exact .inr (.inl (by omega))
        · exact .inr (.inr h)
      · rcases hnew z hz with h | ⟨q, hq, rfl, hqleast⟩
        · obtain ⟨x, hx, rfl⟩ := List.mem_map.1 h
          split
          case isTrue hage =>
            obtain rfl := hg.eq_of_age hx (Group.mem_dormant.1 hp).1 hage
            exact .inr ⟨x, hp, rfl, fun y hy => hleast y (Group.dormant_updSplit_promoted (hdorm y hy)).1⟩
          case isFalse => exact .inl hx
        · exact .inr ⟨q, (Group.dormant_updSplit_promoted hq).1, rfl, hqleast⟩

/-- After promotion the live slots are full, or no split is left that may take one. -/
theorem Group.Distinct.refill_settled (hg : g.Distinct) (now : Nat) : 4 ≤ (g.refill now).liveCount ∨ (g.refill now).dormant = [] := by
  obtain ⟨-, hcount, -⟩ := g.promote_spec (now := now) 4 hg
  rcases hcount with h | h | h
  · exact .inl h
  · exact .inl (show 4 ≤ (g.promote now 4).liveCount by omega)
  · exact .inr h

/-- The order of the keys is that of the PCs, and of the ages on equal PCs. -/
theorem Split.pcKey_le (hp : p.age < 2 ^ 64) (hq : q.age < 2 ^ 64) (h : p.pcKey ≤ q.pcKey) :
    p.pc.toNat < q.pc.toNat ∨ (p.pc = q.pc ∧ p.age ≤ q.age) := by
  simp only [Split.pcKey] at h
  rcases Nat.lt_trichotomy p.pc.toNat q.pc.toNat with hlt | heq | hgt
  · exact .inl hlt
  · exact .inr ⟨BitVec.eq_of_toNat_eq heq, by omega⟩
  · omega

/-! ## Merging until no pair is left -/

theorem Group.Distinct.merge (hg : g.Distinct) (p q : Split) : (g.merge p q).Distinct := by
  have hage : (fun x : Split => x.age) ∘ (fun x => if x.age = p.age then { x with mask := p.mask ||| q.mask } else x) = fun x => x.age :=
    funext fun x => by
      simp only [Function.comp]
      split <;> rfl
  rw [Group.Distinct, Group.merge, List.map_map, hage]
  exact hg.sublist (List.filter_sublist.map _)

theorem Group.Alike.distinct {g' : Group} (h : g.Alike g') (hg : g.Distinct) : g'.Distinct := by
  obtain ⟨f, hf, rfl⟩ := h
  have hage : (fun x : Split => x.age) ∘ f = fun x => x.age := funext fun x => (hf x).1
  rw [Group.Distinct, List.map_map, hage]
  exact hg

/-- With fuel for every split, merging goes on until no pair is left that merges. -/
theorem Group.settle_spec (n : Nat) : ∀ g : Group, g.Distinct → g.splits.length < n → (g.dormant = [] ∨ 4 ≤ g.liveCount) →
    ∀ p ∈ (g.settle now n).splits, ∀ q ∈ (g.settle now n).splits, (g.settle now n).mergeable p q = false := by
  induction n with
  | zero => exact fun _ _ h => absurd h (by omega)
  | succ n ih =>
    intro g hg hn hset
    rw [Group.settle]
    cases hpair : g.mergePair g.splits with
    | none =>
      simp only [Group.refill_of_settled hset]
      exact Group.mergeable_of_no_pair hpair
    | some y =>
      obtain ⟨p, q⟩ := y
      obtain ⟨-, hq, -⟩ := Group.mergePair_spec hpair
      have hlen := Group.length_merge (p := p) hq
      have hmerged := hg.merge p q
      exact ih _ ((Group.alike_refill now _).distinct hmerged) ((Group.length_refill now _).trans_lt (by omega))
        (hmerged.refill_settled now).symm

/-! ## Division -/

theorem insertBy_perm {α : Type} (key : α → Nat) (x : α) (l : List α) : (insertBy key x l).Perm (x :: l) := by
  induction l with
  | nil => exact .refl _
  | cons y r ih =>
    rw [insertBy]
    split
    · exact .refl _
    · exact (ih.cons y).trans (.swap x y r)

theorem sortBy_perm {α : Type} (key : α → Nat) (l : List α) : (sortBy key l).Perm l := by
  induction l with
  | nil => exact .refl _
  | cons x r ih => exact (insertBy_perm key x _).trans (ih.cons x)

theorem pairwise_insertBy {α : Type} {key : α → Nat} (x : α) {l : List α} (hl : l.Pairwise (key · ≤ key ·)) :
    (insertBy key x l).Pairwise (key · ≤ key ·) := by
  induction l with
  | nil => exact List.pairwise_singleton _ _
  | cons y r ih =>
    obtain ⟨hy, hr⟩ := List.pairwise_cons.1 hl
    rw [insertBy]
    split
    case isTrue h =>
      refine List.pairwise_cons.2 ⟨fun z hz => ?_, hl⟩
      rcases List.mem_cons.1 hz with rfl | hz
      · exact h
      · exact h.trans (hy z hz)
    case isFalse h =>
      refine List.pairwise_cons.2 ⟨fun z hz => ?_, ih hr⟩
      rcases mem_insertBy.1 hz with rfl | hz
      · omega
      · exact hy z hz

theorem pairwise_sortBy {α : Type} (key : α → Nat) (l : List α) : (sortBy key l).Pairwise (key · ≤ key ·) := by
  induction l with
  | nil => exact .nil
  | cons x r ih => exact pairwise_insertBy x ih

/-- The splits of a division, in the order in which they take live slots. -/
def Group.divided (g : Group) (ages : List Nat) : List Split := sortBy Split.pcKey (g.splits.filter fun p => ages.contains p.age)

/-- The live slots that a division may use. -/
def Group.freeFor (g : Group) (ages : List Nat) : Nat := 4 - (g.splits.filter fun p => p.live && !(ages.contains p.age)).length

/-- Which ages of a division become live. -/
def Group.dividedLive (g : Group) (ages : List Nat) : List Nat := ((g.divided ages).map (·.age)).take (g.freeFor ages)

/-- What a division makes of a split. -/
def Group.placed (g : Group) (now : Nat) (ages : List Nat) (p : Split) : Split :=
  if ages.contains p.age then
    { p with live := (g.dividedLive ages).contains p.age
             since := if (g.dividedLive ages).contains p.age && p.live then p.since else now, readyAt := now }
  else p

theorem Group.splits_placeDivision (g : Group) (now : Nat) (ages : List Nat) :
    (g.placeDivision now ages).splits = g.splits.map (g.placed now ages) := rfl

section
variable {ages : List Nat}

theorem Group.mem_divided : p ∈ g.divided ages ↔ p ∈ g.splits ∧ p.age ∈ ages := by
  rw [Group.divided, mem_sortBy, List.mem_filter, List.contains_iff_mem]

theorem Group.placed_alike (g : Group) (now : Nat) (ages : List Nat) (p : Split) : p.Alike (g.placed now ages p) := by
  unfold Group.placed
  split <;> exact ⟨rfl, rfl, rfl, rfl⟩

theorem Group.placed_of_not_mem (h : p.age ∉ ages) : g.placed now ages p = p :=
  if_neg fun hc => h (List.contains_iff_mem.1 hc)

theorem Group.live_placed (h : p.age ∈ ages) : (g.placed now ages p).live = (g.dividedLive ages).contains p.age := by
  rw [Group.placed, if_pos (List.contains_iff_mem.2 h)]

/-- A split of a division, from what it was. -/
theorem Group.of_mem_placeDivision (hp : p ∈ (g.placeDivision now ages).splits) (ha : p.age ∈ ages) : ∃ p0 ∈ g.splits, p0 ∈ g.divided ages ∧
    p.live = (g.dividedLive ages).contains p0.age ∧ p.pc = p0.pc ∧ p.age = p0.age := by
  obtain ⟨p0, hp0, rfl⟩ := List.mem_map.1 hp
  obtain ⟨hage, hstands, -⟩ := g.placed_alike now ages p0
  have hpc : (g.placed now ages p0).pc = p0.pc := congrArg (·.1) hstands
  have ha0 : p0.age ∈ ages := hage ▸ ha
  exact ⟨p0, hp0, Group.mem_divided.2 ⟨hp0, ha0⟩, Group.live_placed ha0, hpc, hage⟩

/-- A split outside the division stays. -/
theorem Group.split?_placeDivision {a : Nat} (ha : a ∉ ages) : (g.placeDivision now ages).split? a = g.split? a := by
  have hkey : (fun x : Split => x.age == a) ∘ g.placed now ages = fun x => x.age == a :=
    funext fun x => by simp [(g.placed_alike now ages x).1]
  rw [Group.split?, Group.splits_placeDivision, List.find?_map, hkey]
  refine (Option.map_congr fun x hx => ?_).trans Option.map_id'
  have hage : x.age = a := by simpa using List.find?_some hx
  exact Group.placed_of_not_mem (hage ▸ ha)

/-- Of the splits of a division, those that become live stand before those that become dormant. -/
theorem Group.Distinct.divided_order (hg : g.Distinct) (hp : p ∈ g.divided ages) (hq : q ∈ g.divided ages)
    (hpl : p.age ∈ g.dividedLive ages) (hql : q.age ∉ g.dividedLive ages) : p.pcKey ≤ q.pcKey := by
  have hsorted := pairwise_sortBy Split.pcKey (g.splits.filter fun p => ages.contains p.age)
  rw [← List.take_append_drop (g.freeFor ages) (sortBy _ _), List.pairwise_append] at hsorted
  rw [Group.dividedLive, ← List.map_take, List.mem_map] at hpl hql
  obtain ⟨p', hp', hage⟩ := hpl
  obtain rfl := hg.eq_of_age (Group.mem_divided.1 (List.mem_of_mem_take hp')).1 (Group.mem_divided.1 hp).1 hage
  rw [← List.take_append_drop (g.freeFor ages) (g.divided ages)] at hq
  exact hsorted.2.2 p' hp' q ((List.mem_append.1 hq).resolve_left fun h => hql ⟨q, h, rfl⟩)

/-- A division that leaves a split without a live slot fills them all. -/
theorem Group.Distinct.divided_full (hg : g.Distinct) (hq : q ∈ g.divided ages) (hql : q.age ∉ g.dividedLive ages) :
    4 ≤ (g.placeDivision now ages).liveCount := by
  have hnodup : g.splits.Nodup := hg.of_map
  have hshort : g.freeFor ages < (g.divided ages).length := by
    by_contra h
    refine hql ?_
    rw [Group.dividedLive, List.take_of_length_le (by rw [List.length_map]; omega)]
    exact List.mem_map_of_mem hq
  let others := g.splits.filter fun p => p.live && !(ages.contains p.age)
  let taken := (g.divided ages).take (g.freeFor ages)
  have hL : (others ++ taken).Nodup := by
    refine List.nodup_append'.2 ⟨hnodup.filter _, ((sortBy_perm ..).nodup_iff.2 (hnodup.filter _)).sublist (List.take_sublist ..), ?_⟩
    intro y hy hy'
    have hown := (Group.mem_divided.1 (List.mem_of_mem_take hy')).2
    have := (List.mem_filter.1 hy).2
    simp [hown] at this
  have hsub : others ++ taken ⊆ g.splits.filter fun p => (g.placed now ages p).live := by
    intro y hy
    rcases List.mem_append.1 hy with hy | hy
    · obtain ⟨hmem, hlive⟩ := List.mem_filter.1 hy
      simp only [Bool.and_eq_true, Bool.not_eq_true', ← Bool.not_eq_true, List.contains_iff_mem] at hlive
      exact List.mem_filter.2 ⟨hmem, by rw [Group.placed_of_not_mem hlive.2, hlive.1]⟩
    · obtain ⟨hmem, hown⟩ := Group.mem_divided.1 (List.mem_of_mem_take hy)
      refine List.mem_filter.2 ⟨hmem, ?_⟩
      rw [Group.live_placed hown, List.contains_iff_mem, Group.dividedLive, ← List.map_take]
      exact List.mem_map_of_mem hy
  have hlen : (g.placeDivision now ages).liveCount = (g.splits.filter fun p => (g.placed now ages p).live).length := by
    rw [Group.liveCount, Group.splits_placeDivision, List.filter_map, List.length_map]
    rfl
  have hle := (hL.subperm hsub).length_le
  have hfree : g.freeFor ages = 4 - others.length := rfl
  rw [List.length_append, List.length_take] at hle
  omega

end

/-! ## Rotation -/

/-- Of two splits, the one that has stood longer, the older on equal times, as a sort key (R43). -/
def Split.sinceKey (p : Split) : Nat := p.since * 2 ^ 64 + p.age

/-- The split that has stood longest. -/
theorem Split.since_le (hp : p.age < 2 ^ 64) (h : p.sinceKey ≤ q.sinceKey) (hq : q.age < 2 ^ 64) : p.since ≤ q.since := by
  simp only [Split.sinceKey] at h
  omega

theorem Group.mem_rotatable : p ∈ g.splits.filter (fun p => p.live && !(g.inChain p)) ↔ p ∈ g.splits ∧ p.live = true ∧ g.inChain p = false := by
  simp

/-- A rotation exchanges the two splits that have stood longest. -/
theorem Group.Distinct.rotate (hg : g.Distinct) {p0 : Split} (hd : g.dormant ≠ []) (hl : p0 ∈ g.splits ∧ p0.live = true ∧ g.inChain p0 = false) :
    ∃ d ∈ g.dormant, ∃ l ∈ g.splits, (∀ y ∈ g.dormant, d.sinceKey ≤ y.sinceKey) ∧ l.live = true ∧ g.inChain l = false ∧
      (∀ y ∈ g.splits, y.live = true → g.inChain y = false → l.sinceKey ≤ y.sinceKey) ∧
      (g.rotate now).split? d.age = some (d.promoted now) ∧
      (g.rotate now).split? l.age = some { l with live := false, since := now } ∧
      ∀ a, a ≠ d.age → a ≠ l.age → (g.rotate now).split? a = g.split? a := by
  obtain ⟨d0, hd0⟩ := List.exists_mem_of_ne_nil _ hd
  obtain ⟨d, hdmin, hdmem, hdleast⟩ := minBy?_spec Split.sinceKey hd0
  obtain ⟨l, hlmin, hlmem, hlleast⟩ := minBy?_spec Split.sinceKey (Group.mem_rotatable.2 hl)
  obtain ⟨hls, hllive, hlchain⟩ := Group.mem_rotatable.1 hlmem
  obtain ⟨hds, hdlive, -⟩ := Group.mem_dormant.1 hdmem
  let f (p : Split) : Split := { p with live := false, since := now }
  have hrot : g.rotate now = (({ g with rot := 0 } : Group).updSplit l.age f).updSplit d.age (Split.promoted now) := by
    unfold Group.rotate
    dsimp only
    split
    case h_1 d' l' hd' hl' =>
      obtain rfl := Option.some.inj (hd'.symm.trans hdmin)
      obtain rfl := Option.some.inj (hl'.symm.trans hlmin)
      rfl
    case h_2 hno => exact absurd hlmin (hno d l hdmin)
  have hne : l.age ≠ d.age := fun h => by
    rw [hg.eq_of_age hls hds h, hdlive] at hllive
    cases hllive
  have hf : ∀ p : Split, p.age = l.age → (f p).age = l.age := fun _ h => h
  have hp : ∀ p : Split, p.age = d.age → (p.promoted now).age = d.age := fun _ h => h
  rw [hrot]
  refine ⟨d, hdmem, l, hls, hdleast, hllive, hlchain, fun y hy h h' => hlleast y (Group.mem_rotatable.2 ⟨hy, h, h'⟩), ?_, ?_, fun a had hal => ?_⟩
  · exact Group.split?_updSplit_self _ hp ((Group.split?_updSplit_ne _ f hf hne.symm).trans (hg.split? hds))
  · exact (Group.split?_updSplit_ne _ _ hp hne).trans (Group.split?_updSplit_self f hf (hg.split? hls))
  · exact (Group.split?_updSplit_ne _ _ hp had).trans (Group.split?_updSplit_ne _ f hf hal)

end

end Sys2Proof.Machine
end

section
/-!
SUPPORT. The rendezvous of `splitsync`, and what `yield` owes (R44, R190, R192).
-/
-- One theorem after another: many at once need more memory than the check allows.
set_option Elab.async false

namespace Sys2Proof.Machine

section
variable {g g' : Group} {p q : Split} {now a : Nat}

theorem Group.Alike.stands (h : g.Alike g') (a : Nat) : (g'.split? a).map Split.stands = (g.split? a).map Split.stands := by
  obtain ⟨f, hf, hs⟩ := h.split? a
  rw [hs, Option.map_map]
  exact Option.map_congr fun p _ => (hf p).2.1

/-- The group with one split waiting for the rendezvous. -/
def Group.arrives (a : Nat) (g : Group) : Group := g.updSplit a fun p => { p with wait := .rendezvous }

/-- The group with one split come to the rendezvous, and its live slot passed on. -/
def Group.comes (now a : Nat) (g : Group) : Group :=
  let others := g.splits.any fun p => !p.live
  (g.updSplit a fun p => { p with wait := .rendezvous, live := p.live && !others, since := if others then now else p.since }).refill now

theorem Group.alike_comes (now a : Nat) (g : Group) : (g.arrives a).Alike (g.comes now a) := by
  refine .trans ⟨fun p => if p.age = a then { p with live := p.live && !(g.splits.any fun p => !p.live),
                                                     since := if (g.splits.any fun p => !p.live) then now else p.since } else p, fun p => ?_, ?_⟩
    (Group.alike_refill now _)
  · dsimp only
    split <;> exact ⟨rfl, rfl, rfl, rfl⟩
  · simp only [Group.arrives, Group.updSplit, List.map_map]
    refine congrArg (fun l => { g with splits := l }) (List.map_congr_left fun p _ => ?_)
    simp only [Function.comp]
    by_cases h : p.age = a <;> simp [h]

theorem Group.split?_arrives_self (h : g.split? a = some p) : (g.arrives a).split? a = some { p with wait := .rendezvous } :=
  Group.split?_updSplit_self (fun p => { p with wait := .rendezvous }) (fun _ h => h) h

theorem Group.split?_arrives_ne (g : Group) {m : Nat} (hm : m ≠ a) : (g.arrives a).split? m = g.split? m :=
  Group.split?_updSplit_ne g (fun p => { p with wait := .rendezvous }) (fun _ h => h) hm

/-- A split elsewhere holds up a rendezvous. -/
theorem Group.rendezvous_of_elsewhere (hq : q ∈ g.splits) (hw : q.wait ≠ .rendezvous) : g.rendezvous now = g := by
  refine if_neg fun hall => hw ?_
  have := List.all_eq_true.1 (Bool.and_eq_true_iff.1 hall).2 q hq
  simp only [Bool.and_eq_true, decide_eq_true_eq] at this
  exact this.1

/-- While a split is elsewhere, a split that comes to the rendezvous waits. -/
theorem Group.atSync_of_elsewhere (hq : q ∈ g.splits) (hqa : q.age ≠ a) (hw : q.wait ≠ .rendezvous) : g.atSync now a = g.comes now a := by
  have hmem : q ∈ (g.arrives a).splits := List.mem_map.2 ⟨q, hq, if_neg hqa⟩
  obtain ⟨r, hr, -, hstands, -⟩ := (g.alike_comes now a).exists_of_mem hmem
  simp only [Split.stands, Prod.mk.injEq] at hstands
  obtain ⟨-, -, -, -, -, hwait⟩ := hstands
  exact Group.rendezvous_of_elsewhere hr (hwait.trans_ne hw)

/-- A split past its `splitsync`. -/
def Split.past (p : Split) : Split := { p with pc := p.pc + 4, wait := .none }

/-- Every split past its own `splitsync`. -/
def Group.passes (now : Nat) (g : Group) : Group := { g with splits := g.splits.map (Split.finish now) }

theorem Group.split?_passes (g : Group) (now a : Nat) : (g.passes now).split? a = (g.split? a).map (Split.finish now) := List.find?_map ..

/-- With the last split to come, all go on. -/
theorem Group.atSync_of_last (hp : p ∈ g.splits) (hall : ∀ q ∈ g.splits, q.stop = false ∧ (q.age ≠ a → q.wait = .rendezvous)) :
    g.atSync now a = ((g.comes now a).passes now).refill now := by
  have halike := g.alike_comes now a
  refine if_pos (Bool.and_eq_true_iff.2 ⟨?_, List.all_eq_true.2 fun r hr => ?_⟩)
  · obtain ⟨q, hq, -⟩ := halike.exists_of_mem (List.mem_map_of_mem hp)
    have hne : (!(g.comes now a).splits.isEmpty) = true := by simpa using List.ne_nil_of_mem hq
    exact hne
  · obtain ⟨y, hy, -, hstands, -, hstop⟩ := halike.of_mem hr
    obtain ⟨q, hq, rfl⟩ := List.mem_map.1 hy
    obtain ⟨hqs, hqw⟩ := hall q hq
    simp only [Split.stands, Prod.mk.injEq] at hstands
    obtain ⟨-, -, -, -, -, hwait⟩ := hstands
    rw [hwait, hstop]
    by_cases h : q.age = a
    · simp [h, hqs]
    · simp [h, hqs, hqw h]

/-- Where every split stands once the last has come. -/
theorem Group.stands_passes (g : Group) (now a m : Nat) : (((g.comes now a).passes now).split? m).map Split.stands =
    (g.split? m).map fun q => q.past.stands := by
  obtain ⟨f, hf, hs⟩ := (g.alike_comes now a).split? m
  have harr : (g.arrives a).split? m = (g.split? m).map fun p => if p.age = a then { p with wait := .rendezvous } else p :=
    find?_map_upd g.splits Split.age a m (fun p => { p with wait := .rendezvous }) fun _ h => h
  rw [Group.split?_passes, hs, harr]
  simp only [Option.map_map]
  refine Option.map_congr fun p _ => ?_
  have hstands := (hf (if p.age = a then { p with wait := .rendezvous } else p)).2.1
  simp only [Split.stands, Prod.mk.injEq] at hstands
  obtain ⟨hpc, hmask, hmode, hmmode, hgang, -⟩ := hstands
  simp only [Function.comp, Split.stands, Split.finish, Split.wake, Split.past, hpc, hmask, hmode, hmmode, hgang]
  by_cases h : p.age = a <;> simp [h]

/-- A rendezvous is no change, or every split passes. -/
theorem Group.rendezvous_cases (now : Nat) (g : Group) : g.rendezvous now = g ∨ g.rendezvous now = (g.passes now).refill now := by
  by_cases h : !g.splits.isEmpty && g.splits.all (fun p => decide (p.wait = .rendezvous) && !p.stop)
  · exact .inr (if_pos h)
  · exact .inl (if_neg h)

theorem Group.frame_rendezvous (now : Nat) (g : Group) : ∃ splits, g.rendezvous now = { g with splits := splits } := by
  rcases g.rendezvous_cases now with h | h
  · exact ⟨_, h⟩
  · obtain ⟨l, hl⟩ := (Group.alike_refill now (g.passes now)).frame
    exact ⟨l, h.trans hl⟩

/-- Coming to the rendezvous changes the splits of the group alone. -/
theorem Group.frame_atSync (now a : Nat) (g : Group) : ∃ splits, g.atSync now a = { g with splits := splits } := by
  obtain ⟨l, hl⟩ := (g.alike_comes now a).frame
  obtain ⟨l', hl'⟩ := (g.comes now a).frame_rendezvous now
  have hs : g.atSync now a = (g.comes now a).rendezvous now := rfl
  exact ⟨l', by rw [hs, hl', hl]; rfl⟩

end

section
variable {s : State} {i : Instr} {x : Ctx}

theorem Ctx.stands_left (x : Ctx) (g : Group) (m : Nat) : ((x.left g).split? m).map Split.stands = (g.split? m).map Split.stands :=
  (x.alike_left g).stands m

theorem Ctx.stands_left_comes (x : Ctx) (now a m : Nat) : ((x.left (x.g.comes now a)).split? m).map Split.stands =
    ((x.g.arrives a).split? m).map Split.stands := (x.stands_left _ m).trans ((x.g.alike_comes now a).stands m)

/-- The candidates of a core that a `yield` owes a turn. -/
theorem State.mem_readyOthers {stk core ctx age : Nat} {o : Nat × Nat} : o ∈ s.readyOthers stk core ctx age ↔
    ∃ b ∈ s.onCore stk core, s.blockRuns b = true ∧ b.forced = false ∧ ∃ g ∈ b.groups, g.suspended = false ∧
      ∃ q, o = (g.ctxid.toNat, q.age) ∧ (minBy? (fun (r : Split) => r.readyAt * 2 ^ 64 + r.age) (g.splits.filter fun r => g.ready r &&
        !s.yields stk core r && !s.behindAcquire b g r && !(g.ctxid.toNat == ctx && r.age == age))) = some q := by
  simp only [State.readyOthers, List.mem_flatten, List.mem_map, exists_exists_and_eq_and]
  refine exists_congr fun b => and_congr_right fun _ => ?_
  by_cases hb : s.blockRuns b = true ∧ b.forced = false
  · rw [if_pos (by simp [hb])]
    simp only [hb, true_and, List.mem_filterMap]
    refine exists_congr fun g => and_congr_right fun _ => ?_
    cases hsus : g.suspended with
    | true => simp
    | false => simp [eq_comm, and_comm]
  · rw [if_neg (by simpa using hb)]
    simp only [List.not_mem_nil, false_iff]
    exact fun ⟨h, h', _⟩ => hb ⟨h, h'⟩

end

end Sys2Proof.Machine
end

section
-- One theorem after another: many at once need more memory than the check allows.
set_option Elab.async false

open Sys2Proof Sys2Proof.Machine

/-- Settles O24: the rendezvous is decided where the split comes to it; merging, promotion, division and rotation have their own rules (R40 to R44). -/
theorem splitsyncJoinsAllSplits : Obligations.SplitsyncJoinsAllSplits := by
  unfold Obligations.SplitsyncJoinsAllSplits
  refine ⟨fun s => ⟨.nothing rfl (fun _ => rfl) fun _ _ => rfl, .of_forall rfl fun x hx t ht => ?yield, .of_forall rfl fun x hx t ht => ?sync⟩,
    fun g now hg hage => ?group⟩
  case yield =>
    refine (hx.retired_of_updSplit (q := fun p => { p with owed := x.s.readyOthers x.b.stk x.b.core x.g.ctxid.toNat x.c.age, owedTurns := 64 })
      (effect := fun x => .done (x.s.updSplit x.c _) []) ht rfl rfl fun _ => rfl).mono fun g g' hg => hg.mono ?_
    rintro p p' ⟨rfl, rfl⟩
    exact ⟨⟨rfl, rfl, rfl, rfl, rfl, rfl, rfl, rfl⟩, rfl, fun o => State.mem_readyOthers⟩
  case sync =>
    obtain ⟨l, hl⟩ := x.g.frame_atSync x.now x.c.age
    refine hx.onlyGroup_of_jump (f := Group.atSync x.now x.c.age) (effect := fun x => .jump (x.s.updCur x.c (Group.atSync x.now x.c.age))) ht rfl
      (by rw [hl]) fun g ch hg hp => ⟨?_, ?_, ?_⟩
    · rw [hl, hg]
      exact ⟨_, _, _, rfl⟩
    · rintro ⟨q, hq, hqa, hw⟩
      have hq' : q ∈ x.g.splits := by rw [hg]; exact hq
      have hstands := x.stands_left_comes x.now x.c.age
      rw [Group.atSync_of_elsewhere hq' hqa hw]
      refine ⟨?_, fun m hm => (hstands m).trans ?_⟩
      · have hself := hstands x.c.age
        rw [Group.split?_arrives_self (p := x.p) (by rw [hg]; exact hp)] at hself
        exact Option.map_eq_some_iff.1 hself
      · rw [Group.split?_arrives_ne _ hm, hg]
        rfl
    · intro hall m
      have hp' : x.g.split? x.c.age = some x.p := by rw [hg]; exact hp
      have hall' : ∀ q ∈ x.g.splits, q.stop = false ∧ (q.age ≠ x.c.age → q.wait = .rendezvous) := by rw [hg]; exact hall
      rw [Group.atSync_of_last (List.mem_of_find?_eq_some hp') hall']
      calc _ = _ := x.stands_left _ m
        _ = _ := (Group.alike_refill x.now _).stands m
        _ = _ := x.g.stands_passes x.now x.c.age m
        _ = (g.split? m).map fun q => q.past.stands := by rw [hg]; rfl
  case group =>
    have hd : g.Distinct := hg
    refine ⟨fun p _ q _ => Group.mergeable_iff, fun p q h => ?pair, fun hlen hset => ?settle, ?refill, fun ages => ?division, fun hne hlive => ?rotation⟩
    case pair =>
      obtain ⟨hp, hq, hm, hlt⟩ := Group.mergePair_spec h
      refine ⟨hp, hq, hm, hlt, ?_, ?_, ⟨_, rfl⟩, fun a hap haq => ?_⟩
      · rw [g.split?_merge, if_neg hlt.ne, hd.split? hp]
        simp
      · rw [g.split?_merge, if_pos rfl]
      · rw [g.split?_merge, if_neg haq]
        refine (Option.map_congr fun y hy => if_neg ?_).trans Option.map_id'
        have hage : y.age = a := by simpa using List.find?_some hy
        exact hage.trans_ne hap
    case settle => exact Group.settle_spec 64 g hd (by omega) hset
    case refill =>
      obtain ⟨hdorm, -, hnew⟩ := g.promote_spec (now := now) 4 hd
      refine ⟨(g.alike_refill now).frame, hd.refill_settled now, g.length_refill now, fun p hp => (hnew p hp).imp_right ?_⟩
      rintro ⟨q, hq, rfl, hleast⟩
      refine ⟨q, hq, rfl, fun y hy => ?_⟩
      exact Split.pcKey_le (hage q (Group.mem_dormant.1 hq).1) (hage y (Group.mem_dormant.1 (hdorm y hy)).1) (hleast y hy)
    case division =>
      refine ⟨fun a ha => Group.split?_placeDivision ha, fun p hp q hq hpa hqa hpl hql => ?_, fun ⟨q, hq, hqa, hql⟩ => ?_⟩
      · obtain ⟨p0, hp0, hpown, hplive, hppc, hpage⟩ := Group.of_mem_placeDivision hp hpa
        obtain ⟨q0, hq0, hqown, hqlive, hqpc, hqage⟩ := Group.of_mem_placeDivision hq hqa
        rw [hpl, eq_comm, List.contains_iff_mem] at hplive
        rw [hql, eq_comm, ← Bool.not_eq_true, List.contains_iff_mem] at hqlive
        rw [hppc, hqpc, hpage, hqage]
        refine (Split.pcKey_le (hage p0 hp0) (hage q0 hq0) (hd.divided_order hpown hqown hplive hqlive)).imp_right fun ⟨hpc, hle⟩ => ⟨hpc, ?_⟩
        exact hle.lt_of_ne fun h => hqlive (h ▸ hplive)
      · obtain ⟨q0, hq0, hqown, hqlive, -, -⟩ := Group.of_mem_placeDivision hq hqa
        rw [hql, eq_comm, ← Bool.not_eq_true, List.contains_iff_mem] at hqlive
        exact hd.divided_full hqown hqlive
    case rotation =>
      obtain ⟨p0, hp0⟩ := hlive
      obtain ⟨d, hdm, l, hl, hdmin, hll, hlc, hlmin, hrest⟩ := hd.rotate (now := now) hne hp0
      exact ⟨d, hdm, l, hl, fun y hy => Split.since_le (hage d (Group.mem_dormant.1 hdm).1) (hdmin y hy) (hage y (Group.mem_dormant.1 hy).1), hll, hlc,
        fun y hy h h' => Split.since_le (hage l hl) (hlmin y hy h h') (hage y hy), hrest⟩
end

section
/-!
SUPPORT. Which groups the blocks hold (O25). `State.roster` names each block and its groups; a store, an acquire, a granted granule, a fault
and the end of a gathering keep it, whatever else they change.
-/
-- One theorem after another: many at once need more memory than the check allows.
set_option Elab.async false

namespace Sys2Proof.Machine

/-- The identifier of a block and the indices of its groups. -/
def Block.roster (b : Block) : Nat × List Nat := (b.uid, b.groups.map (·.gid))

/-- The groups of every block. -/
def State.roster (s : State) : List (Nat × List Nat) := s.blocks.map Block.roster

/-! ## Changes of blocks and groups -/

section
variable {s t : State} {b : Block}

theorem State.roster_of_outline (h : t.outline Block.roster = s.outline Block.roster) : t.roster = s.roster := (State.outline_ext h).1

/-- A block without a group of an index, by the rosters. -/
theorem State.group?_eq_none_iff {u n : Nat} : s.group? u n = none ↔ ∀ r, s.roster.find? (fun r => r.1 == u) = some r → n ∉ r.2 := by
  have hkey : (fun r : Nat × List Nat => r.1 == u) ∘ Block.roster = fun b => b.uid == u := rfl
  have hfind : s.roster.find? (fun r => r.1 == u) = (s.block? u).map Block.roster := by
    rw [State.roster, List.find?_map, hkey]
    rfl
  have hgroup (b : Block) : b.group? n = none ↔ n ∉ b.roster.2 := by
    simp [Block.group?, Block.roster]
  rw [hfind, State.group?]
  cases s.block? u with
  | none => simp
  | some b => simpa using hgroup b

theorem State.group?_eq_none_of_roster {u n : Nat} (h : t.roster = s.roster) (hs : s.group? u n = none) : t.group? u n = none := by
  rw [State.group?_eq_none_iff, h]
  exact State.group?_eq_none_iff.1 hs

theorem State.roster_updBlock {u : Nat} {f : Block → Block} (hf : ∀ b : Block, (f b).roster = b.roster) : (s.updBlock u f).roster = s.roster := by
  rw [State.roster, State.updBlock, List.map_map]
  refine List.map_congr_left fun b _ => ?_
  simp only [Function.comp]
  split
  · exact hf b
  · rfl

theorem Block.roster_ext {b' : Block} (hu : b'.uid = b.uid) (hg : b'.groups.map (·.gid) = b.groups.map (·.gid)) : b'.roster = b.roster := Prod.ext hu hg

theorem Group.gids_map {f : Group → Group} (hf : ∀ g : Group, (f g).gid = g.gid) (l : List Group) : (l.map f).map (·.gid) = l.map (·.gid) :=
  List.map_map.trans (List.map_congr_left fun g _ => hf g)

theorem Block.roster_updGroup {n : Nat} {f : Group → Group} (hf : ∀ g : Group, g.gid = n → (f g).gid = n) : (b.updGroup n f).roster = b.roster := by
  refine Block.roster_ext rfl (Group.gids_map (fun g => ?_) b.groups)
  split
  case isTrue h => exact (hf g h).trans h.symm
  case isFalse => rfl

theorem State.roster_updGroup {u n : Nat} {f : Group → Group} (hf : ∀ g : Group, g.gid = n → (f g).gid = n) : (s.updGroup u n f).roster = s.roster :=
  State.roster_updBlock fun _ => Block.roster_updGroup hf

theorem State.roster_updCur {c : Cur} {f : Group → Group} (hf : ∀ g : Group, g.gid = c.gid → (f g).gid = c.gid) : (s.updCur c f).roster = s.roster :=
  State.roster_updBlock fun _ => Block.roster_updGroup hf

theorem State.roster_foldl {β : Type} {f : State → β → State} (hf : ∀ t a, (f t a).roster = t.roster) (l : List β) : (l.foldl f s).roster = s.roster := by
  induction l generalizing s with
  | nil => rfl
  | cons a r ih => exact ih.trans (hf s a)

/-! ## Acquires, granules and stores -/

@[simp] theorem State.roster_hear {u n scope : Nat} : (s.hear u n scope).roster = s.roster := by
  unfold State.hear
  split
  · rfl
  · exact State.roster_updGroup fun _ h => h

@[simp] theorem State.roster_acquire {u n scope : Nat} : (s.acquire u n scope).roster = s.roster := by
  unfold State.acquire
  split
  · rfl
  · split
    · exact State.roster_hear
    · exact State.roster_hear

@[simp] theorem State.roster_acquireAll {u scope : Nat} {l : List Nat} : (s.acquireAll u scope l).roster = s.roster :=
  State.roster_foldl (fun _ _ => State.roster_acquire) l

theorem State.roster_serveRacq {stk core fuel : Nat} : (State.serveRacq stk core fuel s).roster = s.roster := by
  induction fuel generalizing s with
  | zero => rfl
  | succ fuel ih =>
    unfold State.serveRacq
    split
    · rfl
    · split
      · rfl
      · refine ih.trans (State.roster_updGroup (s := s.updCore _ _ _) fun g hg => ?_)
        split
        · exact hg
        · exact (Group.setS_fields _ _ _).1.trans hg

@[simp] theorem State.roster_granulesFreed {stk core : Nat} : (s.granulesFreed stk core).roster = s.roster := State.roster_serveRacq

theorem Group.gid_foldl_setS (l : List (Nat × Nat)) (g : Group) : (l.foldl (fun g x => g.setS x.1 (BitVec.ofNat 64 x.2)) g).gid = g.gid := by
  induction l generalizing g with
  | nil => rfl
  | cons x r ih => exact (ih _).trans (g.setS_fields _ _).1

@[simp] theorem State.roster_wakeCwait {glb : Bool} {blk lo hi : Nat} : (s.wakeCwait glb blk lo hi).roster = s.roster := by
  unfold State.wakeCwait
  refine (State.roster_foldl (fun t b => ?_) _).trans ?_
  · split
    · rfl
    · exact State.roster_acquireAll
  · rw [State.roster, List.map_map]
    refine List.map_congr_left fun b _ => Block.roster_ext rfl (Group.gids_map ?_ b.groups)
    exact fun g => Group.gid_foldl_setS _ g

@[simp] theorem State.roster_bufWrite {sp : Space} {off : Nat} {bytes : List Byte} : (s.bufWrite b sp off bytes).roster = s.roster := by
  unfold State.bufWrite
  split
  · exact State.roster_updBlock (s := s) (u := b.uid) fun b => by cases sp <;> rfl
  · split <;> rfl

@[simp] theorem State.roster_writeBar {off : Nat} {x : Bar} : (s.writeBar b off x).roster = s.roster := by
  unfold State.writeBar
  dsimp only
  split <;> simp

theorem State.roster_wakeBar {off k : Nat} : (s.wakeBar b off k).roster = s.roster := by
  refine State.roster_updBlock fun b => Block.roster_ext rfl (Group.gids_map ?_ b.groups)
  exact fun _ => rfl

@[simp] theorem State.roster_barRule {off : Nat} : (s.barRule b off).roster = s.roster := by
  have harea (t : State) (c : Cont) : (t.areaCont b c).roster = t.roster := by
    unfold State.areaCont
    split
    · rfl
    · dsimp only
      split
      · rfl
      · split <;> rfl
  unfold State.barRule
  dsimp only
  split
  · refine State.roster_wakeBar.trans ?_
    split
    · refine (State.roster_updBlock fun b => ?_).trans ((harea _ _).trans State.roster_writeBar)
      rfl
    · exact State.roster_writeBar
  · rfl

@[simp] theorem State.roster_forward {off : Nat} {bytes : List Byte} : (s.forward b off bytes).roster = s.roster := by
  refine State.roster_foldl (fun t x => ?_) _
  unfold State.forwardTo
  split
  · rfl
  · split
    · rfl
    · split
      · split
        · rfl
        · exact State.roster_updBlock (s := t) fun _ => rfl
      · rfl

@[simp] theorem State.roster_afterS {u off n : Nat} : (s.afterS u off n).roster = s.roster := by
  unfold State.afterS
  dsimp only
  split
  · exact State.roster_wakeCwait
  · refine (State.roster_foldl (fun t o => ?_) _).trans State.roster_wakeCwait
    split
    · rfl
    · exact State.roster_barRule

@[simp] theorem State.roster_bufStore {u off : Nat} {sp : Space} {bytes : List Byte} {fwd : Bool} : (s.bufStore u sp off bytes fwd).roster = s.roster := by
  unfold State.bufStore
  split
  · rfl
  · dsimp only
    cases sp <;> cases fwd <;> simp

theorem State.roster_atomic {stk core op : Nat} {x : AtomTarget} {mode : BitVec 16} {y d : Word} :
    (s.atomic stk core x op mode y d).2.roster = s.roster := by
  cases x with
  | glb pa => exact State.roster_wakeCwait
  | scr blk off => exact State.roster_bufStore

theorem State.roster_performQuanta {stk core : Nat} {l : List QuantumOp} : (State.performQuanta stk core l s).roster = s.roster := by
  induction l generalizing s with
  | nil => rfl
  | cons q r ih => exact ih.trans State.roster_atomic

@[simp] theorem State.roster_drainQuanta {u n : Nat} : (s.drainQuanta u n).roster = s.roster := by
  unfold State.drainQuanta State.releaseQuanta
  split
  · rfl
  · split
    · rfl
    · split
      · exact State.roster_performQuanta.trans (State.roster_updGroup fun _ h => h)
      · rfl

end

/-! ## Faults -/

section
variable {s t : State} {g : Group} {p : Split}

theorem Group.gid_closeChain : (g.closeChain p).2.gid = g.gid := by
  unfold Group.closeChain
  split
  · split
    · rfl
    · split <;> rfl
  · rfl

@[simp] theorem State.roster_tryHeld {u n : Nat} : (s.tryHeld u n).roster = s.roster := by
  unfold State.tryHeld
  split
  · rfl
  · split
    · rfl
    · split
      · rfl
      · split
        · split
          next hsent =>
            refine (State.roster_updBlock fun b => ?_).trans (State.roster_of_outline (State.outline_sendRecord hsent))
            unfold Block.updAt
            split
            · exact Block.roster_updGroup fun _ h => h
            · split <;> rfl
          next => rfl
        · rfl

@[simp] theorem State.roster_takeTrap {c : Cur} {f : Trap} : (s.takeTrap c f).roster = s.roster := by
  unfold State.takeTrap
  dsimp only
  split
  · exact State.roster_drainQuanta
  · split
    · exact State.roster_drainQuanta
    · next g hg =>
      have hgid : g.gid = c.gid := Block.gid_of_group? hg
      have hflushed (p : Split) (now : Nat) : ((g.closeChain p).2.flushLong now).gid = c.gid :=
        (Group.flushLong_keeps _ now).1.trans (Group.gid_closeChain.trans hgid)
      split
      · exact State.roster_drainQuanta
      · split
        · refine (State.roster_updCur fun g' h => ?_).trans State.roster_drainQuanta
          exact Group.gid_closeChain.trans h
        · split
          · refine (State.roster_updCur fun _ _ => ?_).trans (State.roster_drainQuanta (s := s))
            dsimp only [Group.enterHandler, Group.updSplit]
            exact hflushed _ _
          · refine State.roster_tryHeld.trans ((State.roster_updCur fun _ _ => ?_).trans (State.roster_drainQuanta (s := s)))
            dsimp only [Group.suspend, Group.updSplit]
            exact hflushed _ _

end

/-! ## The end of a gathering -/

section
variable {s t : State} {b : Block}

theorem State.roster_translateNow {stk core va kind : Nat} {l : Launch} : (s.translateNow stk core l va kind).2.roster = s.roster := by
  unfold State.translateNow
  split
  · split
    · rfl
    · dsimp only
      split
      · exact State.roster_of_outline State.outline_walk
      · exact State.roster_of_outline State.outline_walk
      · exact State.roster_of_outline State.outline_walk
  · rfl

theorem State.roster_enginePiece {sp : Space} {kind a n : Nat} : (s.enginePiece b sp kind a n).2.roster = s.roster := by
  unfold State.enginePiece
  split
  · dsimp only
    split <;> exact State.roster_translateNow
  · split
    · rfl
    · split <;> rfl

theorem State.roster_enginePieces {sp : Space} {kind : Nat} {l : List (Nat × Nat)} : (State.enginePieces b sp kind l s).2.2.roster = s.roster := by
  induction l generalizing s with
  | nil => rfl
  | cons y r ih =>
    unfold State.enginePieces
    dsimp only
    split <;> exact ih.trans State.roster_enginePiece

@[simp] theorem State.roster_engineRange {v : DWord} {n : Nat} {write : Bool} : (s.engineRange b v n write).2.2.roster = s.roster := by
  unfold State.engineRange
  dsimp only
  split
  · rfl
  · split
    · exact State.roster_enginePieces
    · rfl

@[simp] theorem State.roster_startCopy {u : Nat} {l : List Slice} : (s.startCopy u l).2.roster = s.roster := by
  unfold State.startCopy
  split
  · split
    · rfl
    · dsimp only
      split
      · simp
      · split
        · simp
        · split
          · refine (State.roster_updBlock fun b => ?_).trans (State.roster_engineRange.trans State.roster_engineRange)
            rfl
          · refine (State.roster_updBlock fun b => ?_).trans (State.roster_engineRange.trans State.roster_engineRange)
            rfl
  · rfl

theorem State.roster_finishSlice {u batch : Nat} {y : Slice} : (s.finishSlice u batch y).roster = s.roster := by
  unfold State.finishSlice
  split
  · rfl
  · refine State.roster_updGroup fun g hg => ?_
    exact (g.setS_fields _ _).1.trans hg

theorem State.roster_retryCopies {u : Nat} {l : List Slice} : (s.retryCopies u l).roster = s.roster := by
  refine State.roster_updBlock fun b => Block.roster_ext rfl (Group.gids_map ?_ b.groups)
  exact fun _ => rfl

theorem State.roster_gatherEnd {u : Nat} : (s.gatherEnd u).roster = s.roster := by
  unfold State.gatherEnd
  split
  · rfl
  · split
    · dsimp only
      refine State.roster_retryCopies.trans ?_
      split
      · exact (State.roster_foldl (fun _ _ => State.roster_finishSlice) _).trans (State.roster_startCopy.trans (State.roster_updBlock fun _ => rfl))
      · exact (State.roster_foldl (fun _ _ => State.roster_takeTrap) _).trans (State.roster_startCopy.trans (State.roster_updBlock fun _ => rfl))
    · rfl

theorem State.roster_copyForget {u n : Nat} : (s.copyForget u n).roster = s.roster :=
  State.roster_gatherEnd.trans (State.roster_updBlock fun _ => rfl)

theorem State.roster_gangGone {u n : Nat} : (s.gangGone u n).roster = s.roster := by
  unfold State.gangGone
  split
  · rfl
  · exact (State.roster_foldl (fun _ _ => State.roster_takeTrap) _).trans (State.roster_updBlock fun _ => rfl)

/-- What its block forgets of a group that left leaves the rosters. -/
theorem State.roster_memberLeft {u n : Nat} : (s.memberLeft u n).roster = s.roster := by
  unfold State.memberLeft
  split
  · split
    · rfl
    · exact State.roster_gangGone.trans State.roster_copyForget
  · exact State.roster_gangGone.trans State.roster_copyForget

/-! ## The end of a group -/

/-- A block without the group of an index. -/
theorem State.group?_updBlock_none {u n : Nat} {f : Block → Block} (hu : ∀ b : Block, b.uid = u → (f b).uid = u)
    (hf : ∀ b : Block, (f b).group? n = none) : (s.updBlock u f).group? u n = none := by
  rw [State.group?, State.block?_updBlock s u u f hu]
  cases h : s.block? u with
  | none => rfl
  | some b => simp [State.uid_of_block? h, hf b]

/-- A group that ends is no longer in its block. -/
theorem State.group?_endGroup (s : State) (u n : Nat) : (s.endGroup u n).group? u n = none := by
  unfold State.endGroup
  dsimp only
  split
  next h => rw [State.group?, h]; rfl
  next b hb =>
    split
    next h => rw [State.group?, hb]; exact h
    next g hg =>
      refine State.group?_eq_none_of_roster State.roster_granulesFreed (State.group?_updBlock_none (fun _ h => h) fun b => ?_)
      simp [Block.group?]

end

end Sys2Proof.Machine
end

section
/-!
SUPPORT. The group after an `exit` (R191): the lanes that end leave their split, and a split without lanes leaves the group.
-/
-- One theorem after another: many at once need more memory than the check allows.
set_option Elab.async false

namespace Sys2Proof.Machine

section
variable {g : Group} {p q : Split} {now a : Nat} {m : LaneMask}

/-- The split after an `exit` of some of its lanes. -/
def Split.exiting (now : Nat) (m : LaneMask) (p : Split) : Split := { p.finish now with mask := p.mask &&& ~~~m }

/-- The group without lanes of a split, before its splits are promoted. -/
def Group.lost (a : Nat) (m : LaneMask) (g : Group) : Group :=
  { g with splits := (g.updSplit a fun p => { p with mask := p.mask &&& ~~~m }).splits.filter fun p => !(decide (p.mask = 0))
           exited := g.exited ||| m }

/-- The group without lanes of a split. -/
def Group.without (now a : Nat) (m : LaneMask) (g : Group) : Group := (((g.lost a m).refill now).handlerEnd now).rendezvous now

/-- The group after an `exit`, before its splits are promoted. -/
def Group.remaining (now a : Nat) (m : LaneMask) (g : Group) : Group := (g.updSplit a (Split.finish now)).lost a m

/-- The group after an `exit`. -/
def Group.exits (now a : Nat) (m : LaneMask) (g : Group) : Group := (g.updSplit a (Split.finish now)).without now a m

theorem Group.exits_eq : g.exits now a m = (((g.remaining now a m).refill now).handlerEnd now).rendezvous now := rfl

theorem Group.splits_remaining : (g.remaining now a m).splits =
    (g.updSplit a (Split.exiting now m)).splits.filter fun p => !(decide (p.mask = 0)) := by
  refine congrArg (List.filter _) (List.map_map.trans (List.map_congr_left fun p _ => ?_))
  by_cases h : p.age = a
  · simp [h, Split.exiting, Split.finish, Split.wake]
  · simp [h]

theorem Group.mem_remaining : q ∈ (g.remaining now a m).splits ↔
    (∃ p ∈ g.splits, (if p.age = a then p.exiting now m else p) = q) ∧ q.mask ≠ 0 := by
  simp [Group.splits_remaining, Group.updSplit]

/-- A split of other lanes stays. -/
theorem Group.mem_remaining_of_ne (hp : p ∈ g.splits) (ha : p.age ≠ a) (hm : p.mask ≠ 0) : p ∈ (g.remaining now a m).splits :=
  Group.mem_remaining.2 ⟨⟨p, hp, if_neg ha⟩, hm⟩

/-- What is left of the split that exits. -/
theorem Group.split?_remaining (hp : g.split? a = some p) (hm : p.mask &&& ~~~m ≠ 0) :
    (g.remaining now a m).split? a = some (p.exiting now m) := by
  have hmap := Group.split?_updSplit_self (Split.exiting now m) (fun _ h => h) hp
  have hage : p.age = a := by simpa using List.find?_some hp
  obtain ⟨hfound, l, r, hl, hbefore⟩ := List.find?_eq_some_iff_append.1 hmap
  rw [Group.split?, Group.splits_remaining, List.find?_filter, List.find?_eq_some_iff_append]
  refine ⟨by simpa [hage, Split.exiting, Split.finish, Split.wake] using hm, l, r, hl, fun y hy => ?_⟩
  have := hbefore y hy
  simp only [Bool.not_eq_true'] at this
  simp [this]

theorem Group.frame_handlerEnd (now : Nat) (g : Group) : ∃ splits h, g.handlerEnd now = { g with splits := splits, handler := h } := by
  unfold Group.handlerEnd
  split
  · exact ⟨_, _, rfl⟩
  · dsimp only
    split
    · split
      · obtain ⟨l, hl⟩ := (Group.alike_refill now { g with handler := none }).frame
        exact ⟨l, none, hl⟩
      · obtain ⟨l, hl⟩ := (Group.alike_refill now _).frame
        exact ⟨l, none, hl⟩
    · exact ⟨_, _, rfl⟩

theorem Group.handlerEnd_of_none (h : g.handler = none) : g.handlerEnd now = g := by
  unfold Group.handlerEnd
  rw [h]

theorem Group.frame_without (now a : Nat) (m : LaneMask) (g : Group) : ∃ splits h,
    g.without now a m = { g with splits := splits, exited := g.exited ||| m, handler := h } := by
  obtain ⟨l1, h1⟩ := (Group.alike_refill now (g.lost a m)).frame
  obtain ⟨l2, h, h2⟩ := ((g.lost a m).refill now).frame_handlerEnd now
  obtain ⟨l3, h3⟩ := (((g.lost a m).refill now).handlerEnd now).frame_rendezvous now
  exact ⟨l3, h, by rw [Group.without, h3, h2, h1]; rfl⟩

theorem Group.gid_without (now a : Nat) (m : LaneMask) (g : Group) : (g.without now a m).gid = g.gid := by
  obtain ⟨l, h, he⟩ := g.frame_without now a m
  rw [he]

theorem Group.alive_without (now a : Nat) (m : LaneMask) (g : Group) : (g.without now a m).alive = g.alive &&& ~~~m := by
  obtain ⟨l, h, he⟩ := g.frame_without now a m
  rw [he, Group.alive, Group.alive, BitVec.and_assoc, BitVec.not_or]

theorem Group.gid_exits (now a : Nat) (m : LaneMask) (g : Group) : (g.exits now a m).gid = g.gid := Group.gid_without ..

theorem Group.attached_exits (now a : Nat) (m : LaneMask) (g : Group) : (g.exits now a m).attached = g.attached := by
  obtain ⟨l, h, he⟩ := (g.updSplit a (Split.finish now)).frame_without now a m
  rw [Group.exits, he]
  rfl

/-- A handler goes on while a split of it has lanes and has not returned, and without one there is nothing to end. -/
theorem Group.exits_of_running
    (h : g.handler = none ∨ ∃ q ∈ (g.remaining now a m).splits, q.handler = true ∧ q.wait ≠ .returned) :
    g.exits now a m = ((g.remaining now a m).refill now).rendezvous now := by
  have halike := Group.alike_refill now (g.remaining now a m)
  rw [Group.exits_eq]
  rcases h with h | ⟨q, hq, hqh, hqw⟩
  · obtain ⟨l, hl⟩ := halike.frame
    rw [Group.handlerEnd_of_none (by rw [hl]; exact h)]
  · obtain ⟨r, hr, -, hstands, hhandler, -⟩ := halike.exists_of_mem hq
    simp only [Split.stands, Prod.mk.injEq] at hstands
    obtain ⟨-, -, -, -, -, hwait⟩ := hstands
    rw [Group.handlerEnd_of_running hr (hhandler.trans hqh) (hwait.trans_ne hqw)]

/-- A rendezvous keeps the lanes of every split. -/
theorem Group.of_mem_rendezvous (hq : q ∈ (g.rendezvous now).splits) : ∃ p ∈ g.splits, q.mask = p.mask ∧ q.handler = p.handler := by
  rcases g.rendezvous_cases now with h | h
  · rw [h] at hq
    exact ⟨q, hq, rfl, rfl⟩
  · rw [h] at hq
    obtain ⟨r, hr, -, hstands, hhandler, -⟩ := (Group.alike_refill now (g.passes now)).of_mem hq
    obtain ⟨p, hp, rfl⟩ := List.mem_map.1 hr
    simp only [Split.stands, Prod.mk.injEq] at hstands
    exact ⟨p, hp, hstands.2.1, hhandler⟩

/-- No split without lanes is left. -/
theorem Group.mask_of_mem_settled (hq : q ∈ (((g.remaining now a m).refill now).rendezvous now).splits) : q.mask ≠ 0 := by
  obtain ⟨r, hr, hmask, -⟩ := Group.of_mem_rendezvous hq
  obtain ⟨p, hp, -, hstands, -⟩ := (Group.alike_refill now _).of_mem hr
  simp only [Split.stands, Prod.mk.injEq] at hstands
  rw [hmask, hstands.2.1]
  exact (Group.mem_remaining.1 hp).2

/-- The split that exits with some of its lanes goes on with the others. -/
theorem Group.split?_settled (hp : g.split? a = some p) (hm : p.mask &&& ~~~m ≠ 0) :
    ∃ q, (((g.remaining now a m).refill now).rendezvous now).split? a = some q ∧ q.stands = (p.exiting now m).stands := by
  obtain ⟨f, hf, hs⟩ := (Group.alike_refill now (g.remaining now a m)).split? a
  rw [Group.split?_remaining hp hm] at hs
  have hstands := (hf (p.exiting now m)).2.1
  have hwait : (f (p.exiting now m)).wait = .none := congrArg (·.2.2.2.2.2) hstands
  rw [Group.rendezvous_of_elsewhere (List.mem_of_find?_eq_some hs) (by simp [hwait])]
  exact ⟨_, hs, hstands⟩

theorem Group.frame_settled : ∃ splits, ((g.remaining now a m).refill now).rendezvous now = { g with splits := splits, exited := g.exited ||| m } := by
  obtain ⟨l1, h1⟩ := (Group.alike_refill now (g.remaining now a m)).frame
  obtain ⟨l2, h2⟩ := ((g.remaining now a m).refill now).frame_rendezvous now
  exact ⟨l2, by rw [h2, h1]; rfl⟩

/-- With the last handler split the handler ends. -/
theorem Group.exits_of_returned (hh : g.handler.isSome = true)
    (hall : ∀ q ∈ (g.remaining now a m).splits, q.handler = true → q.wait = .returned ∧ q.stop = false) :
    (∃ splits, g.exits now a m = { g with splits := splits, exited := g.exited ||| m, handler := none }) ∧
      ∀ q ∈ (g.exits now a m).splits, q.handler = false := by
  have halike := Group.alike_refill now (g.remaining now a m)
  obtain ⟨l1, h1⟩ := halike.frame
  obtain ⟨h, hh⟩ := Option.isSome_iff_exists.1 hh
  have hret : ∀ q ∈ ((g.remaining now a m).refill now).splits, q.handler = true → q.wait = .returned ∧ q.stop = false := fun q hq hqh => by
    obtain ⟨p, hp, -, hstands, hhandler, hstop⟩ := halike.of_mem hq
    simp only [Split.stands, Prod.mk.injEq] at hstands
    obtain ⟨-, -, -, -, -, hwait⟩ := hstands
    rw [hwait, hstop]
    exact hall p hp (hhandler ▸ hqh)
  obtain ⟨back, hend, hback, -⟩ := Group.handlerEnd_of_returned (now := now) (by rw [h1]; exact hh) hret
  obtain ⟨l2, h2⟩ := hend.frame
  obtain ⟨l3, h3⟩ := (((g.remaining now a m).refill now).handlerEnd now).frame_rendezvous now
  refine ⟨⟨l3, by rw [Group.exits_eq, h3, h2, h1]; rfl⟩, fun q hq => ?_⟩
  obtain ⟨r, hr, -, hrh⟩ := Group.of_mem_rendezvous hq
  obtain ⟨y, hy, -, -, hyh, -⟩ := hend.of_mem hr
  rw [hrh, hyh]
  rcases List.mem_append.1 hy with hy | hy
  · simpa using (List.mem_filter.1 hy).2
  · obtain ⟨-, -, -, -, -, -, hyh, -⟩ := hback y hy
    exact hyh

end

/-! ## The state after an `exit` -/

theorem State.exitLanes_of_group {s : State} {c : Cur} {b : Block} {g : Group} {m : LaneMask} (hb : s.block? c.blk = some b)
    (hg : b.group? c.gid = some g) : s.exitLanes c m =
      let t := s.updCur c (Group.without (s.cycle b.stk) c.age m)
      if g.alive &&& ~~~m = 0 then t.endGroup c.blk c.gid else t := by
  have hgid : ∀ y : Group, y.gid = c.gid → (y.without (s.cycle b.stk) c.age m).gid = c.gid := fun y hy =>
    (y.gid_without ..).trans hy
  have hgroup : (s.updCur c (Group.without (s.cycle b.stk) c.age m)).group? c.blk c.gid = some (g.without (s.cycle b.stk) c.age m) := by
    have hb' := State.block?_updBlock_self (fun b' => b'.updGroup c.gid (Group.without (s.cycle b.stk) c.age m)) (fun _ h => h) hb
    rw [State.group?]
    exact (congrArg (Option.bind · _) hb').trans (Block.group?_updGroup_self (Group.without (s.cycle b.stk) c.age m) hgid hg)
  unfold State.exitLanes
  rw [hb]
  dsimp only
  rw [hg]
  dsimp only
  split
  next h => exact absurd (hgroup.symm.trans h) (by simp)
  next y h =>
    obtain rfl := Option.some.inj (h.symm.trans hgroup)
    rw [Group.alive_without]
    rfl

section
variable {i : Instr} {s s1 t : State} {x : Ctx} {g : Group}

/-- The state once the lanes have left the issuing group, before its block answers. -/
def Ctx.exited (x : Ctx) : State := x.s.updCur x.c (Group.exits x.now x.c.age x.act)

theorem Ctx.Of.exitLanes_eq (ho : Ctx.Of i s x g) : (x.s.updSplit x.c (Split.finish x.now)).exitLanes x.c x.act =
    if x.g.alive &&& ~~~x.act = 0 then x.exited.endGroup x.c.blk x.c.gid else x.exited := by
  have hb : (x.s.updSplit x.c (Split.finish x.now)).block? x.c.blk = some _ :=
    State.block?_updBlock_self (fun b => b.updGroup x.c.gid fun g => g.updSplit x.c.age (Split.finish x.now)) (fun _ h => h) ho.block
  have hg := Block.group?_updGroup_self (fun g => g.updSplit x.c.age (Split.finish x.now)) (fun _ h => h)
    (Block.group?_updGroup_self (fun _ => x.g) (fun _ _ => ho.gid) ho.grp)
  have hstep : (x.s.updSplit x.c (Split.finish x.now)).updCur x.c (Group.without x.now x.c.age x.act) = x.exited :=
    State.updCur_updCur x.s x.c (fun g => g.updSplit x.c.age (Split.finish x.now)) _ fun _ h => h
  rw [State.exitLanes_of_group hb hg]
  exact congrArg (fun u : State => if x.g.alive &&& ~~~x.act = 0 then u.endGroup x.c.blk x.c.gid else u) hstep

/-- The issuing block then. -/
theorem Ctx.Of.exited_block (ho : Ctx.Of i s x g) :
    x.exited.block? x.c.blk = some (x.b.updGroup x.c.gid fun _ => x.g.exits x.now x.c.age x.act) := by
  rw [Ctx.exited, ho.updCur]
  exact State.block?_updBlock_self _ (fun _ h => h) ho.blk

theorem Ctx.Of.exited_group (ho : Ctx.Of i s x g) : x.exited.group? x.c.blk x.c.gid = some (x.g.exits x.now x.c.age x.act) := by
  rw [State.group?, ho.exited_block]
  exact Block.group?_updGroup_self _ (fun _ _ => (Group.gid_exits ..).trans ho.gid) ho.grp

/-- The group that remains stays in its block, or the block has nothing to forget of it. -/
theorem Ctx.Of.memberLeft_exited (ho : Ctx.Of i s x g) (h : x.g.attached = true ∨ (x.b.gather = [] ∧ x.b.expect = [] ∧ x.b.arrivals = [])) :
    let t := x.exited.memberLeft x.c.blk x.c.gid
    OnlyBlocks x.s t ∧ (∀ w, w ≠ x.c.blk → t.block? w = x.s.block? w) ∧ t.block? x.c.blk = x.exited.block? x.c.blk := by
  intro t
  have hother : ∀ w, w ≠ x.c.blk → x.exited.block? w = x.s.block? w := fun w hw => State.block?_updBlock_ne x.s _ (fun _ h => h) hw
  have hstay (he : t = x.exited) : OnlyBlocks x.s t ∧ (∀ w, w ≠ x.c.blk → t.block? w = x.s.block? w) ∧ t.block? x.c.blk = x.exited.block? x.c.blk :=
    by rw [he]; exact ⟨⟨_, rfl⟩, hother, rfl⟩
  rcases h with hatt | ⟨hgather, hexpect, harr⟩
  · refine hstay ?_
    have hatt' : (x.g.exits x.now x.c.age x.act).attached = true := (x.g.attached_exits ..).trans hatt
    simp only [t, State.memberLeft, ho.exited_group, hatt', if_true]
  · rcases State.memberLeft_of_quiet (n := x.c.gid) ho.exited_block hgather harr with he | he
    · exact hstay he
    · have ht : t = x.exited.updBlock x.c.blk (Block.unexpect x.c.gid) := he
      have hsame : Block.unexpect x.c.gid (x.b.updGroup x.c.gid fun _ => x.g.exits x.now x.c.age x.act) =
          x.b.updGroup x.c.gid fun _ => x.g.exits x.now x.c.age x.act := by
        simp [Block.unexpect, Block.updGroup, hexpect]
      rw [ht]
      refine ⟨⟨_, rfl⟩, fun w hw => (State.block?_updBlock_ne x.exited (Block.unexpect x.c.gid) (fun _ h => h) hw).trans (hother w hw), ?_⟩
      rw [State.block?_updBlock_self (Block.unexpect x.c.gid) (fun _ h => h) ho.exited_block, hsame, ho.exited_block]

/-- The issuing group after an instruction that sets the PCs, where no other group changes. -/
theorem Ctx.Of.onlyGroup_left (ho : Ctx.Of i s x g) {g1 : Group} (hs1 : OnlyBlocks x.s s1) (hne : ∀ w, w ≠ x.c.blk → s1.block? w = x.s.block? w)
    (hb : s1.block? x.c.blk = some (x.b.updGroup x.c.gid fun _ => g1)) (hgid : g1.gid = x.c.gid) {R : Group → Group → Prop}
    (hR : R g (x.left g1)) : OnlyGroup x.c.blk x.c.gid s (x.leave s1) R := by
  obtain ⟨l, hl⟩ := hs1
  have hleft : ∀ y : Group, y.gid = x.c.gid → (x.left y).gid = x.c.gid := fun _ h => h
  have hset : ∀ y : Group, y.gid = x.c.gid → ((fun _ => g1) y : Group).gid = x.c.gid := fun _ _ => hgid
  refine ⟨?_, fun w hw => ?_, x.b, _, ho.blk, State.block?_updBlock_self (fun b => b.updGroup x.c.gid x.left) (fun _ h => h) hb, ⟨_, rfl⟩, fun m hm => ?_,
    g, _, ho.grp, Block.group?_updGroup_self x.left hleft (Block.group?_updGroup_self (fun _ => g1) hset ho.grp), hR⟩
  · rw [hl, ho.st]
    exact ⟨_, rfl⟩
  · refine (State.block?_updBlock_ne s1 (fun b => b.updGroup x.c.gid x.left) (fun _ h => h) hw).trans ((hne w hw).trans ?_)
    rw [ho.st]
    exact State.block?_updBlock_ne s _ (fun _ h => h) hw
  · exact (Block.group?_updGroup_ne _ x.left hleft hm).trans (Block.group?_updGroup_ne x.b _ hset hm)

/-- The lanes that are left of a split that does not exit as a whole. -/
theorem Ctx.lanes_left (x : Ctx) (h : x.act ≠ x.active) : x.active &&& ~~~x.act ≠ 0 := by
  intro h0
  refine h (BitVec.eq_of_getLsbD_eq fun k hk => ?_)
  have hbit : (x.active &&& ~~~x.act).getLsbD k = false := by rw [h0]; exact BitVec.getLsbD_zero
  rw [BitVec.getLsbD_and, BitVec.getLsbD_not, x.getLsbD_act] at hbit
  rw [x.getLsbD_act]
  cases hx : x.active.getLsbD k with
  | false => rfl
  | true => simpa [hx, hk] using hbit

theorem Ctx.lastWaits_of_alive (h : x.g.alive &&& ~~~x.act ≠ 0) : x.lastWaits = false := by rw [Ctx.lastWaits, decide_eq_false h, Bool.false_and]

theorem issue_of_jump (h : Issues i s x) {effect : Ctx → Res} (he : effect x = .jump s1) : issue i s effect = .next (x.leave s1) := by
  rw [issue_of_issues h, he]

/-- The issuing group while launched lanes remain. -/
theorem Ctx.Of.onlyGroup_exited (ho : Ctx.Of i s x g) (h : x.g.attached = true ∨ (x.b.gather = [] ∧ x.b.expect = [] ∧ x.b.arrivals = []))
    (halive : x.g.alive &&& ~~~x.act ≠ 0) {R : Group → Group → Prop} (hR : R g (x.left (x.g.exits x.now x.c.age x.act))) :
    OnlyGroup x.c.blk x.c.gid s (x.leave (((x.s.updSplit x.c (Split.finish x.now)).exitLanes x.c x.act).memberLeft x.c.blk x.c.gid)) R := by
  rw [ho.exitLanes_eq, if_neg halive]
  obtain ⟨honly, hother, hsame⟩ := ho.memberLeft_exited h
  exact ho.onlyGroup_left honly hother (hsame.trans ho.exited_block) ((Group.gid_exits ..).trans ho.gid) hR

/-- The issuing group where no handler ends. -/
theorem Ctx.Of.exit_goesOn (ho : Ctx.Of i s x g) (hrun : x.g.handler = none ∨ (x.p.handler = true ∧ x.act ≠ x.active) ∨
      ∃ q ∈ x.g.splits, q.handler = true ∧ q.mask ≠ 0 ∧ q.age ≠ x.c.age ∧ q.wait ≠ .returned) :
    let g' := x.left (x.g.exits x.now x.c.age x.act)
    (∃ splits, g' = { g with splits := splits, chain := none, exited := g.exited ||| x.act }) ∧ (∀ q ∈ g'.splits, q.mask ≠ 0) ∧
      (x.act ≠ x.active → ∃ p', g'.split? x.c.age = some p' ∧ p'.pc = x.p.pc + 4 ∧ p'.mask = x.active &&& ~~~x.act ∧ p'.mode = x.mode ∧
        p'.mmode = x.mmode ∧ p'.gang = x.p.gang) := by
  have hrun' : x.g.handler = none ∨ ∃ q ∈ (x.g.remaining x.now x.c.age x.act).splits, q.handler = true ∧ q.wait ≠ .returned := by
    refine hrun.imp_right fun h => ?_
    rcases h with ⟨hp, hne⟩ | ⟨q, hq, hqh, hqm, hqa, hqw⟩
    · have hrem := Group.split?_remaining (now := x.now) ho.split (x.lanes_left hne)
      exact ⟨_, List.mem_of_find?_eq_some hrem, hp, by simp [Split.exiting, Split.finish, Split.wake]⟩
    · exact ⟨q, Group.mem_remaining_of_ne hq hqa hqm, hqh, hqw⟩
  obtain ⟨ch, hg⟩ := ho.group
  obtain ⟨l, hl⟩ := Group.frame_settled (g := x.g) (now := x.now) (a := x.c.age) (m := x.act)
  rw [Group.exits_of_running hrun']
  refine ⟨?_, fun q hq => ?_, fun hne => ?_⟩
  · rw [hl, hg]
    exact ⟨_, rfl⟩
  · obtain ⟨p, hp, -, hstands, -⟩ := (x.alike_left _).of_mem hq
    have hmask : q.mask = p.mask := congrArg (·.2.1) hstands
    rw [hmask]
    exact Group.mask_of_mem_settled hp
  · obtain ⟨q, hq, hstands⟩ := Group.split?_settled (now := x.now) ho.split (x.lanes_left hne)
    simp only [Split.stands, Prod.mk.injEq] at hstands
    obtain ⟨hpc, hmask, hmode, hmmode, hgang, -⟩ := hstands
    exact ⟨_, x.split?_left_self hq, hpc, hmask, hmode, hmmode, hgang⟩

/-- The issuing group where the split is the last of a handler. -/
theorem Ctx.Of.exit_ends (ho : Ctx.Of i s x g) (hh : x.g.handler.isSome = true) (hall : x.act = x.active)
    (hself : ∀ q ∈ x.g.splits, q.age = x.c.age → q = x.p)
    (hothers : ∀ q ∈ x.g.splits, q.handler = true → q.age ≠ x.c.age → q.wait = .returned ∧ q.stop = false) :
    let g' := x.left (x.g.exits x.now x.c.age x.act)
    (∃ splits, g' = { g with splits := splits, chain := none, exited := g.exited ||| x.act, handler := none }) ∧
      ∀ q ∈ g'.splits, q.handler = false := by
  have hret : ∀ q ∈ (x.g.remaining x.now x.c.age x.act).splits, q.handler = true → q.wait = .returned ∧ q.stop = false := fun q hq hqh => by
    obtain ⟨⟨p, hp, rfl⟩, hmask⟩ := Group.mem_remaining.1 hq
    by_cases hage : p.age = x.c.age
    · obtain rfl := hself p hp hage
      rw [if_pos hage] at hmask
      exact absurd (by rw [hall, Split.exiting, Ctx.active, BitVec.and_not_self]) hmask
    · rw [if_neg hage] at hqh ⊢
      exact hothers p hp hqh hage
  obtain ⟨ch, hg⟩ := ho.group
  obtain ⟨⟨l, hl⟩, hend⟩ := Group.exits_of_returned hh hret
  refine ⟨?_, fun q hq => ?_⟩
  · rw [hl, hg]
    exact ⟨_, rfl⟩
  · obtain ⟨p, hp, -, -, hhandler, -⟩ := (x.alike_left _).of_mem hq
    exact hhandler.trans (hend p hp)

end

end Sys2Proof.Machine
end

section
-- One theorem after another: many at once need more memory than the check allows.
set_option Elab.async false

open Sys2Proof Sys2Proof.Machine

/-- Settles O25: the lanes leave their split, with a rendezvous or the end of a handler where they were the last to wait for; the last launched
lane takes the group with it (R45, R187, R191, R270). -/
theorem exitEndsTheGuardedLanes : Obligations.ExitEndsTheGuardedLanes := by
  unfold Obligations.ExitEndsTheGuardedLanes
  refine fun s => .of_forall rfl fun x hx t ht => ⟨fun h => ?nothing, fun hact halive hquiet hrun => ?goesOn,
    fun hact halive hquiet hh hp hall hself hothers => ?ends, fun hact hdead => ⟨fun hred => ?last, fun hred => ?waits⟩⟩
  case nothing =>
    obtain ⟨u, hu, hw⟩ := issue_nothing hx (effect := fun x => if x.act = 0 then x.nothing else _) (if_pos h) (by simp)
    exact next_unique ht hu ▸ hw
  case goesOn =>
    obtain ⟨g, ho⟩ := hx.1.of
    rw [next_unique ht (issue_of_jump hx ((if_neg hact).trans (if_neg (by simp [x.lastWaits_of_alive halive]))))]
    exact ho.onlyGroup_exited hquiet halive (ho.exit_goesOn hrun)
  case ends =>
    obtain ⟨g, ho⟩ := hx.1.of
    rw [next_unique ht (issue_of_jump hx ((if_neg hact).trans (if_neg (by simp [x.lastWaits_of_alive halive]))))]
    exact ho.onlyGroup_exited hquiet halive (ho.exit_ends hh hall hself hothers)
  case last =>
    obtain ⟨g, ho⟩ := hx.1.of
    rw [next_unique ht (issue_of_jump hx ((if_neg hact).trans (if_neg (by simp [Ctx.lastWaits, hred])))), ho.exitLanes_eq, if_pos hdead]
    refine State.group?_eq_none_of_roster (State.roster_updCur fun _ h => h) ?_
    exact State.group?_eq_none_of_roster State.roster_memberLeft (State.group?_endGroup ..)
  case waits =>
    exact next_unique ht (issue_of_wait hx ((if_neg hact).trans (if_pos (by simp [Ctx.lastWaits, hdead, hred]))))
end
